-- ==== Sys2Proof/Word.lean ====
section
/-! DEFINITION. The word types of the machine (R2, R3, R5): bytes, 32-bit words, 64-bit pairs, and lane and quad masks. -/
namespace Sys2Proof

/-- A byte of memory, code or canvas. -/
abbrev Byte := BitVec 8

/-- A 32-bit word: an instruction word, a vector register slot, a scalar. -/
abbrev Word := BitVec 32

/-- A 64-bit value: an even register pair. -/
abbrev DWord := BitVec 64

/-- A mask over the 16 lanes of a group, bit l for lane l. -/
abbrev LMask := BitVec 16

/-- A mask over the 4 quads of a group, bit q for quad q. -/
abbrev QMask := BitVec 4

/-- A sparse map in canonical form: keys strictly rising, no entry equal to the default of an
unlisted key. The operations on it stand in `Sys2Proof.Machine.Ops`. -/
abbrev SMap (α : Type) := List (Nat × α)

end Sys2Proof
end

