-- ==== Sys2Proof/Config.lean ====
section
/-! DEFINITION. What the part fixes beyond the manual's words, and the free values the manual leaves open.
An `opaque` constant has no value that a proof can see: what is proved holds for every value of it. -/
namespace Sys2Proof.Config

/-- A fresh undetermined 32-bit value (the value of a poisoned slot, R200), numbered by `State.freeCtr`. Log 5, log 12. -/
opaque freeWord : Nat → Word

/-- A fresh undetermined choice where the manual gives no rule: which of an old and a new code word a
clause fetch returns (R343), whether a poisoned PINW refuses a pin (R231). Log 5, log 10, log 12. -/
opaque freeChoice : Nat → Nat

/-- The value the part gives for an f32 transcendental before the bound of R172 is applied: function
number (0 exp2, 1 log2, 2 sin, 3 cos, 4 tanh) and operand. Log 14. -/
opaque transcF32 : Nat → Word → Word

/-- The hash of R121 that selects a mask-predictor entry from the branch word's address and the group's
slot number, below 2,048. Log 11. -/
opaque predictorHash : Nat → Nat → Nat

/-- The device-unique key of the repair map's tag (R25), read as 48 bytes. Log 6. -/
opaque deviceKey : List Byte

/-- The fused hashes of the two image verification keys (R22): RSA, SLH-DSA. Log 6. -/
opaque fusedRsaKeyHash : List Byte
opaque fusedSlhKeyHash : List Byte

/-- The identity the part was made with (R33): serial, the primes of the RSA key, and the secret seed, PRF key and public
seed of the SLH-DSA key, each read as 24 bytes. Log 6. -/
opaque deviceSerial : List Byte
opaque identityP : Nat
opaque identityQ : Nat
opaque identitySkSeed : List Byte
opaque identityPrf : List Byte
opaque identityPkSeed : List Byte

/-- What the firmware's own layout of a repair map (R31) makes of each byte of the body, and what it adds behind; read modulo 65,536
bytes. Log 7. -/
opaque mapMask : Nat → Byte
opaque mapPad : Nat

/-- What a die's test data name as its spare (R11); read modulo 9. The manual's default is physical core 8. Log 6. -/
opaque testSpare : Nat → Nat

/-- Where the part puts the bytes of the units that are not near-bank (R186, R268): which of their rows of 1,024 bytes each
64th of a 64 KiB frame fills, and which sectors of the frame lie in which of its 64ths. Log 22. -/
opaque spreadRow : (n : Nat) → Equiv.Perm (Fin n)
opaque spreadSector : Nat → Equiv.Perm (Fin 1024)

/-- Spares of one unit at the factory, by kind: rows of a bank, banks of a pseudo-channel, TSV lanes of a channel (R286). -/
def factorySpares : Nat → Nat
  | 0 => 32
  | 1 => 1
  | _ => 8

/-- The LOW figure of a unit by kind (R286). -/
def lowFigure : Nat → Nat
  | 0 => 8
  | 1 => 0
  | _ => 2

end Sys2Proof.Config
end

