-- ==== Sys2Proof/Machine/Bits.lean ====
section
/-! DEFINITION. Helpers every family shares: sparse maps in canonical form, byte order (R3), fields of
numbers, lane and quad masks. -/
namespace Sys2Proof.Machine

/-! ## Sparse maps -/

/-- What key `k` holds; `d` where it is not listed. Keys rise, so the search ends at a greater key. -/
def smGet {α : Type} (m : SMap α) (k : Nat) (d : α) : α :=
  match m with
  | [] => d
  | (k', v) :: r => if k' = k then v else if k < k' then d else smGet r k d

/-- `m` with key `k` holding `v`; an entry that would equal the default `d` is not kept. -/
def smPut {α : Type} [DecidableEq α] (m : SMap α) (k : Nat) (v d : α) : SMap α :=
  match m with
  | [] => if v = d then [] else [(k, v)]
  | (k', v') :: r =>
    if k < k' then (if v = d then (k', v') :: r else (k, v) :: (k', v') :: r)
    else if k = k' then (if v = d then r.dropWhile (fun e => decide (e.1 ≤ k)) else (k, v) :: r)
    else (k', v') :: smPut r k v d

/-- The canonical form: keys strictly rising from `lo`, no entry at the default. -/
def smWfFrom {α : Type} [DecidableEq α] (lo : Nat) (d : α) : SMap α → Bool
  | [] => true
  | (k, v) :: r => decide (lo ≤ k) && decide (v ≠ d) && smWfFrom (k + 1) d r

def smWf {α : Type} [DecidableEq α] (m : SMap α) (d : α) : Bool := smWfFrom 0 d m

/-- Writes of values at rising keys from `k`. -/
def smPutList {α : Type} [DecidableEq α] (m : SMap α) (k : Nat) (vs : List α) (d : α) : SMap α :=
  match vs with
  | [] => m
  | v :: r => smPutList (smPut m k v d) (k + 1) r d

/-- The values of `n` keys from `k`. -/
def smGetList {α : Type} (m : SMap α) (k n : Nat) (d : α) : List α :=
  (List.range n).map (fun i => smGet m (k + i) d)

/-! ## Byte order (R3): the lowest address holds bits 7:0 -/

/-- The number a little-endian byte string holds. -/
def bytesToNat : List Byte → Nat
  | [] => 0
  | b :: r => b.toNat + 256 * bytesToNat r

/-- The low `n` bytes of a number, lowest first. -/
def natToBytes (n x : Nat) : List Byte :=
  match n with
  | 0 => []
  | k + 1 => BitVec.ofNat 8 x :: natToBytes k (x / 256)

/-- `n` bytes of a byte string from offset `o`; bytes beyond its end read zero. -/
def slice (bs : List Byte) (o n : Nat) : List Byte :=
  let r := (bs.drop o).take n
  r ++ List.replicate (n - r.length) 0

/-- The `n`-byte little-endian field at offset `o` of a layout. -/
def fieldAt (bs : List Byte) (o n : Nat) : Nat := bytesToNat (slice bs o n)

/-- The field of bits `hi:lo` of a number (R2). -/
def bitsOf (x hi lo : Nat) : Nat := (x / 2 ^ lo) % 2 ^ (hi + 1 - lo)

def bitOf (x i : Nat) : Bool := (x / 2 ^ i) % 2 == 1

/-- A value of width `w` read as two's complement. -/
def toSigned (w x : Nat) : Int := if x % 2 ^ w < 2 ^ (w - 1) then ((x % 2 ^ w : Nat) : Int) else ((x % 2 ^ w : Nat) : Int) - (2 ^ w : Nat)

/-- An integer modulo 2^w as a number. -/
def wrapNat (w : Nat) (x : Int) : Nat := (x % ((2 ^ w : Nat) : Int)).toNat

def wordOf (x : Nat) : Word := BitVec.ofNat 32 x
def dwordOf (x : Nat) : DWord := BitVec.ofNat 64 x
def wordOfInt (x : Int) : Word := BitVec.ofNat 32 (wrapNat 32 x)

/-- The pair lo, hi of a 64-bit value (R6). -/
def pairVal (lo hi : Word) : Nat := lo.toNat + 2 ^ 32 * hi.toNat

def ceilDiv (a b : Nat) : Nat := (a + b - 1) / b

/-- floor(log2 x) for x > 0; 0 for 0. -/
def log2N (x : Nat) : Nat := Nat.log2 x

/-! ## Masks -/

def lanes16 : List Nat := List.range 16
def quads4 : List Nat := List.range 4

def hasLane (m : LMask) (l : Nat) : Bool := m.getLsbD l
def hasQuad (m : QMask) (q : Nat) : Bool := m.getLsbD q

def laneBit (l : Nat) : LMask := BitVec.ofNat 16 (2 ^ l)
def quadBit (q : Nat) : QMask := BitVec.ofNat 4 (2 ^ q)

/-- The lanes of a mask in ascending order. -/
def lanesOf (m : LMask) : List Nat := lanes16.filter (hasLane m)
def quadsOf (m : QMask) : List Nat := quads4.filter (hasQuad m)

/-- The mask of the lanes that satisfy `f`. -/
def maskOf (f : Nat → Bool) : LMask :=
  BitVec.ofNat 16 ((lanes16.map (fun l => if f l then 2 ^ l else 0)).foldl (· + ·) 0)

def qmaskOf (f : Nat → Bool) : QMask :=
  BitVec.ofNat 4 ((quads4.map (fun q => if f q then 2 ^ q else 0)).foldl (· + ·) 0)

/-- The four lanes of a quad, out of a group mask. -/
def quadPart (m : LMask) (q : Nat) : QMask := BitVec.ofNat 4 (m.toNat / 2 ^ (4 * q))

/-- A quad's lane mask placed in the group. -/
def quadLift (m : QMask) (q : Nat) : LMask := BitVec.ofNat 16 (m.toNat * 2 ^ (4 * q))

def lowestLane (m : LMask) : Option Nat := (lanesOf m).head?

def popCount (m : LMask) : Nat := (lanesOf m).length

/-! ## Lists by position -/

def setAt {α : Type} (l : List α) (i : Nat) (v : α) : List α := l.set i v

def modifyAt {α : Type} (l : List α) (i : Nat) (f : α → α) : List α :=
  match l, i with
  | [], _ => []
  | x :: r, 0 => f x :: r
  | x :: r, n + 1 => x :: modifyAt r n f

/-- The value listed for a key. -/
def assoc? {α : Type} (l : List (Nat × α)) (k : Nat) : Option α :=
  match l with
  | [] => none
  | (k', v) :: r => if k' = k then some v else assoc? r k

def assocDel {α : Type} (l : List (Nat × α)) (k : Nat) : List (Nat × α) :=
  l.filter (fun e => e.1 != k)

def assocPut {α : Type} (l : List (Nat × α)) (k : Nat) (v : α) : List (Nat × α) :=
  match l with
  | [] => [(k, v)]
  | (k', v') :: r => if k < k' then (k, v) :: (k', v') :: r else if k = k' then (k, v) :: r else (k', v') :: assocPut r k v

def dedupNat : List Nat → List Nat
  | [] => []
  | x :: r => if r.contains x then dedupNat r else x :: dedupNat r

end Sys2Proof.Machine
end

