-- ==== Sys2Proof/Machine/Crypto.lean ====
section
/-! DEFINITION. The algorithms that the boot rules name (R22, R25, R26, R31, R33): SHA-256, SHA-384 and SHA-512 (FIPS 180-4),
HMAC (FIPS 198-1), MGF1 and RSASSA-PSS (RFC 8017), and SLH-DSA-SHA2-192s (FIPS 205). The standards are the spec's own references;
their text is taken from outside the spec (log 7). Byte strings of these algorithms are big-endian. -/
namespace Sys2Proof.Machine

/-! ## Big-endian byte strings -/

def beNat (b : List Byte) : Nat := b.foldl (fun a x => 256 * a + x.toNat) 0
def natBe (n x : Nat) : List Byte := (natToBytes n x).reverse
def xorBytes (a b : List Byte) : List Byte := List.zipWith (fun x y => x ^^^ y) a b
def nulls (n : Nat) : List Byte := List.replicate n 0

/-- Pieces of `n` bytes; the fuel is the number of bytes. -/
def piecesGo (n : Nat) : Nat → List Byte → List (List Byte)
  | 0, _ => []
  | k + 1, b => if b.isEmpty then [] else b.take n :: piecesGo n k (b.drop n)
def pieces (n : Nat) (b : List Byte) : List (List Byte) := piecesGo n b.length b

/-! ## SHA-2 (FIPS 180-4) -/

/-- Rotations of a SHA-2 width: of the two sums, and of the two schedule functions, whose last is a shift. -/
structure ShaRot where
  a : Nat × Nat × Nat
  e : Nat × Nat × Nat
  x : Nat × Nat × Nat
  y : Nat × Nat × Nat

def sha256Rot : ShaRot := { a := (2, 13, 22), e := (6, 11, 25), x := (7, 18, 3), y := (17, 19, 10) }
def sha512Rot : ShaRot := { a := (28, 34, 39), e := (14, 18, 41), x := (1, 8, 7), y := (19, 61, 6) }

def shaSum {w : Nat} (r : Nat × Nat × Nat) (x : BitVec w) : BitVec w :=
  x.rotateRight r.1 ^^^ x.rotateRight r.2.1 ^^^ x.rotateRight r.2.2
def shaSig {w : Nat} (r : Nat × Nat × Nat) (x : BitVec w) : BitVec w :=
  x.rotateRight r.1 ^^^ x.rotateRight r.2.1 ^^^ (x >>> r.2.2)

/-- The constants of SHA-512; SHA-256 takes the high halves of the first 64. -/
def shaK : List Nat :=
  [0x428A2F98D728AE22, 0x7137449123EF65CD, 0xB5C0FBCFEC4D3B2F, 0xE9B5DBA58189DBBC]
  ++ [0x3956C25BF348B538, 0x59F111F1B605D019, 0x923F82A4AF194F9B, 0xAB1C5ED5DA6D8118]
  ++ [0xD807AA98A3030242, 0x12835B0145706FBE, 0x243185BE4EE4B28C, 0x550C7DC3D5FFB4E2]
  ++ [0x72BE5D74F27B896F, 0x80DEB1FE3B1696B1, 0x9BDC06A725C71235, 0xC19BF174CF692694]
  ++ [0xE49B69C19EF14AD2, 0xEFBE4786384F25E3, 0x0FC19DC68B8CD5B5, 0x240CA1CC77AC9C65]
  ++ [0x2DE92C6F592B0275, 0x4A7484AA6EA6E483, 0x5CB0A9DCBD41FBD4, 0x76F988DA831153B5]
  ++ [0x983E5152EE66DFAB, 0xA831C66D2DB43210, 0xB00327C898FB213F, 0xBF597FC7BEEF0EE4]
  ++ [0xC6E00BF33DA88FC2, 0xD5A79147930AA725, 0x06CA6351E003826F, 0x142929670A0E6E70]
  ++ [0x27B70A8546D22FFC, 0x2E1B21385C26C926, 0x4D2C6DFC5AC42AED, 0x53380D139D95B3DF]
  ++ [0x650A73548BAF63DE, 0x766A0ABB3C77B2A8, 0x81C2C92E47EDAEE6, 0x92722C851482353B]
  ++ [0xA2BFE8A14CF10364, 0xA81A664BBC423001, 0xC24B8B70D0F89791, 0xC76C51A30654BE30]
  ++ [0xD192E819D6EF5218, 0xD69906245565A910, 0xF40E35855771202A, 0x106AA07032BBD1B8]
  ++ [0x19A4C116B8D2D0C8, 0x1E376C085141AB53, 0x2748774CDF8EEB99, 0x34B0BCB5E19B48A8]
  ++ [0x391C0CB3C5C95A63, 0x4ED8AA4AE3418ACB, 0x5B9CCA4F7763E373, 0x682E6FF3D6B2B8A3]
  ++ [0x748F82EE5DEFB2FC, 0x78A5636F43172F60, 0x84C87814A1F0AB72, 0x8CC702081A6439EC]
  ++ [0x90BEFFFA23631E28, 0xA4506CEBDE82BDE9, 0xBEF9A3F7B2C67915, 0xC67178F2E372532B]
  ++ [0xCA273ECEEA26619C, 0xD186B8C721C0C207, 0xEADA7DD6CDE0EB1E, 0xF57D4F7FEE6ED178]
  ++ [0x06F067AA72176FBA, 0x0A637DC5A2C898A6, 0x113F9804BEF90DAE, 0x1B710B35131C471B]
  ++ [0x28DB77F523047D84, 0x32CAAB7B40C72493, 0x3C9EBE0A15C9BEBC, 0x431D67C49C100D4C]
  ++ [0x4CC5D4BECB3E42B6, 0x597F299CFC657E2A, 0x5FCB6FAB3AD6FAEC, 0x6C44198C4A475817]

def sha512Init : List Nat := [0x6A09E667F3BCC908, 0xBB67AE8584CAA73B, 0x3C6EF372FE94F82B, 0xA54FF53A5F1D36F1, 0x510E527FADE682D1, 0x9B05688C2B3E6C1F, 0x1F83D9ABFB41BD6B, 0x5BE0CD19137E2179]
def sha384Init : List Nat := [0xCBBB9D5DC1059ED8, 0x629A292A367CD507, 0x9159015A3070DD17, 0x152FECD8F70E5939, 0x67332667FFC00B31, 0x8EB44A8768581511, 0xDB0C2E0D64F98FA7, 0x47B5481DBEFA4FA4]

/-- The message schedule, newest word first. -/
def shaExpand {w : Nat} (r : ShaRot) : Nat → List (BitVec w) → List (BitVec w)
  | 0, l => l
  | n + 1, l => shaExpand r n ((shaSig r.y (l.getD 1 0) + l.getD 6 0 + shaSig r.x (l.getD 14 0) + l.getD 15 0) :: l)

/-- One round on the eight working variables. -/
def shaRound {w : Nat} (r : ShaRot) (v : List (BitVec w)) (kw : BitVec w) : List (BitVec w) :=
  match v with
  | [a, b, c, d, e, f, g, h] =>
    let t1 := h + shaSum r.e e + ((e &&& f) ^^^ (~~~e &&& g)) + kw
    let t2 := shaSum r.a a + ((a &&& b) ^^^ (a &&& c) ^^^ (b &&& c))
    [t1 + t2, a, b, c, d + t1, e, f, g]
  | _ => v

/-- One block of 16 words. -/
def shaBlock {w : Nat} (r : ShaRot) (k : List (BitVec w)) (hv : List (BitVec w)) (blk : List Byte) : List (BitVec w) :=
  let ws := (pieces (w / 8) blk).map (fun b => BitVec.ofNat w (beNat b))
  let sched := (shaExpand r (k.length - 16) ws.reverse).reverse
  List.zipWith (· + ·) hv ((List.zipWith (· + ·) k sched).foldl (shaRound r) hv)

/-- The message with its padding, for blocks of `n` bytes with a length field of `n / 8` bytes. -/
def shaPad (n : Nat) (m : List Byte) : List Byte :=
  m ++ [0x80] ++ nulls ((n - (m.length + 1 + n / 8) % n) % n) ++ natBe (n / 8) (8 * m.length)

def shaRun (w : Nat) (r : ShaRot) (k init : List Nat) (m : List Byte) : List Byte :=
  ((pieces (2 * w) (shaPad (2 * w) m)).foldl (shaBlock r (k.map (BitVec.ofNat w))) (init.map (BitVec.ofNat w))).flatMap
    (fun x => natBe (w / 8) x.toNat)

def sha512 (m : List Byte) : List Byte := shaRun 64 sha512Rot shaK sha512Init m
def sha384 (m : List Byte) : List Byte := (shaRun 64 sha512Rot shaK sha384Init m).take 48
def sha256 (m : List Byte) : List Byte :=
  shaRun 32 sha256Rot ((shaK.take 64).map (fun x => x / 2 ^ 32)) (sha512Init.map (fun x => x / 2 ^ 32)) m

/-! ## HMAC and MGF1 -/

/-- HMAC of a hash with blocks of `n` bytes; keys here are no longer than a block. -/
def hmac (hash : List Byte → List Byte) (n : Nat) (key m : List Byte) : List Byte :=
  let k := slice key 0 n
  hash (k.map (· ^^^ 0x5C#8) ++ hash (k.map (· ^^^ 0x36#8) ++ m))

/-- HMAC-SHA-384 under the device-unique key (R25). -/
def hmacSha384 (m : List Byte) : List Byte := hmac sha384 128 (slice Config.deviceKey 0 48) m

def mgf1 (hash : List Byte → List Byte) (seed : List Byte) (n : Nat) : List Byte :=
  ((List.range n).flatMap (fun i => if i * (hash []).length < n then hash (seed ++ natBe 4 i) else [])).take n

/-! ## RSASSA-PSS with SHA-384, MGF1 with SHA-384 and a salt of 48 bytes (RFC 8017; R22, R33) -/

/-- b^e mod m, over the bits of e from the highest. -/
def powMod (b e m : Nat) : Nat :=
  ((List.range (log2N e + 1)).reverse.map (bitOf e)).foldl (fun a x => a * a % m * (if x then b else 1) % m) 1

/-- Clear the bits of an encoded message above `emBits`. -/
def pssTrim (emBits : Nat) (db : List Byte) : List Byte :=
  match db with
  | [] => []
  | x :: r => BitVec.ofNat 8 (x.toNat % 2 ^ (8 - (8 * ceilDiv emBits 8 - emBits))) :: r

def pssHash (msg salt : List Byte) : List Byte := sha384 (nulls 8 ++ sha384 msg ++ salt)

/-- EMSA-PSS-ENCODE. -/
def pssEncode (emBits : Nat) (msg salt : List Byte) : List Byte :=
  let n := ceilDiv emBits 8
  let h := pssHash msg salt
  pssTrim emBits (xorBytes (nulls (n - 98) ++ [1] ++ salt) (mgf1 sha384 h (n - 49))) ++ h ++ [0xBC]

/-- EMSA-PSS-VERIFY. -/
def pssVerify (emBits : Nat) (msg em : List Byte) : Bool :=
  let n := ceilDiv emBits 8
  let masked := em.take (n - 49)
  let h := slice em (n - 49) 48
  let db := pssTrim emBits (xorBytes masked (mgf1 sha384 h (n - 49)))
  decide (98 ≤ n) && em.getLast? == some 0xBC && pssTrim emBits masked == masked
    && db.take (n - 97) == nulls (n - 98) ++ [1] && pssHash msg (db.drop (n - 97)) == h

/-- The public exponent of R22 and R33. -/
def rsaE : Nat := 65537

def emBitsOf (n : Nat) : Nat := log2N n

/-- Verification: modulus, message, signature. -/
def rsaPssVerify (modulus msg sig : List Byte) : Bool :=
  let n := beNat modulus
  let m := powMod (beNat sig) rsaE n
  decide (beNat sig < n) && decide (m < 256 ^ ceilDiv (emBitsOf n) 8) && pssVerify (emBitsOf n) msg (natBe (ceilDiv (emBitsOf n) 8) m)

/-- The private exponent: the inverse of 65,537 modulo lcm(p - 1, q - 1). -/
def rsaD (p q : Nat) : Nat :=
  let l := Nat.lcm (p - 1) (q - 1)
  match (List.range rsaE).find? (fun k => (1 + k * l) % rsaE == 0) with
  | some k => (1 + k * l) / rsaE
  | none => 0

/-- The signature, of 384 bytes, under the key with primes p and q. -/
def rsaPssSign (p q : Nat) (msg salt : List Byte) : List Byte :=
  natBe 384 (powMod (beNat (pssEncode (emBitsOf (p * q)) msg salt)) (rsaD p q) (p * q))

/-! ## SLH-DSA-SHA2-192s (FIPS 205): n 24, h 63, d 7, h' 9, a 14, k 17, lg_w 4, m 39 -/

def slhN : Nat := 24
def slhLen : Nat := 51

/-- An address: layer, tree, type and the three last words. -/
structure Adrs where
  layer : Nat
  tree : Nat
  ty : Nat
  w1 : Nat
  w2 : Nat
  w3 : Nat

/-- The compressed address. -/
def adrsBytes (x : Adrs) : List Byte :=
  natBe 1 x.layer ++ natBe 8 x.tree ++ natBe 1 x.ty ++ natBe 4 x.w1 ++ natBe 4 x.w2 ++ natBe 4 x.w3

def slhF (pk : List Byte) (x : Adrs) (m : List Byte) : List Byte := (sha256 (pk ++ nulls 40 ++ adrsBytes x ++ m)).take slhN
def slhH (pk : List Byte) (x : Adrs) (m : List Byte) : List Byte := (sha512 (pk ++ nulls 104 ++ adrsBytes x ++ m)).take slhN
def slhHmsg (r pk root m : List Byte) : List Byte := mgf1 sha512 (r ++ pk ++ sha512 (r ++ pk ++ root ++ m)) 39
def slhPrfMsg (prf opt m : List Byte) : List Byte := (hmac sha512 128 prf (opt ++ m)).take slhN

/-- The digits of `b` bits of a byte string, from its first. -/
def base2b (x : List Byte) (b n : Nat) : List Nat :=
  (List.range n).map (fun i => beNat x / 2 ^ (8 * x.length - b * (i + 1)) % 2 ^ b)

/-- The WOTS+ digits of a message: 48 and a checksum of 3. -/
def wotsDigits (m : List Byte) : List Nat :=
  let d := base2b m 4 48
  d ++ base2b (natBe 2 (16 * (d.foldl (fun a x => a + (15 - x)) 0))) 4 3

/-- The chaining function from step `i`, `s` steps. -/
def slhChain (pk : List Byte) (x : Adrs) (v : List Byte) (i : Nat) : Nat → List Byte
  | 0 => v
  | s + 1 => slhChain pk x (slhF pk { x with w3 := i } v) (i + 1) s

def wotsPkAdrs (x : Adrs) : Adrs := { x with ty := 1, w2 := 0, w3 := 0 }

def wotsPkFromSig (sig m pk : List Byte) (x : Adrs) : List Byte :=
  slhH pk (wotsPkAdrs x) ((wotsDigits m).zipIdx.flatMap (fun e =>
    slhChain pk { x with w2 := e.2 } (slice sig (slhN * e.2) slhN) e.1 (15 - e.1)))

/-- The node above `node` at height `k` + 1, of a leaf numbered `idx`. -/
def slhUp (pk : List Byte) (x : Adrs) (idx : Nat) (sel : Nat) (node auth : List Byte) (k : Nat) : List Byte :=
  slhH pk { x with w2 := k + 1, w3 := idx / 2 ^ (k + 1) } (if sel / 2 ^ k % 2 = 0 then node ++ auth else auth ++ node)

def xmssPkFromSig (idx : Nat) (sig m pk : List Byte) (x : Adrs) : List Byte :=
  (List.range 9).foldl (fun node k => slhUp pk { x with ty := 2, w1 := 0 } idx idx node (slice sig (slhN * (slhLen + k)) slhN) k)
    (wotsPkFromSig (sig.take (slhN * slhLen)) m pk { x with ty := 0, w1 := idx, w2 := 0, w3 := 0 })

/-- Tree and leaf of layer `j` above a tree and leaf of layer 0. -/
def slhTreeAt (tree j : Nat) : Nat := tree / 2 ^ (9 * j)
def slhLeafAt (tree leaf j : Nat) : Nat := if j = 0 then leaf else tree / 2 ^ (9 * (j - 1)) % 2 ^ 9

def htAdrs (tree j : Nat) : Adrs := { layer := j, tree := slhTreeAt tree j, ty := 0, w1 := 0, w2 := 0, w3 := 0 }

/-- The root that a hypertree signature leads to. -/
def htRoot (m sig pk : List Byte) (tree leaf : Nat) : List Byte :=
  (List.range 7).foldl (fun node j => xmssPkFromSig (slhLeafAt tree leaf j) (slice sig (1440 * j) 1440) node pk (htAdrs tree j)) m

/-- The FORS public key that a signature leads to. -/
def forsPkFromSig (sig md pk : List Byte) (x : Adrs) : List Byte :=
  slhH pk { x with ty := 4, w2 := 0, w3 := 0 } ((base2b md 14 17).zipIdx.flatMap (fun e =>
    let o := 360 * e.2
    let idx := e.2 * 2 ^ 14 + e.1
    (List.range 14).foldl (fun node j => slhUp pk x idx e.1 node (slice sig (o + slhN * (j + 1)) slhN) j)
      (slhF pk { x with w2 := 0, w3 := idx } (slice sig o slhN))))

/-- What a message digest selects: the FORS digits, the tree and the leaf. -/
def slhSelect (digest : List Byte) : List Byte × Nat × Nat :=
  (digest.take 30, beNat (slice digest 30 7) % 2 ^ 54, beNat (slice digest 37 2) % 2 ^ 9)

def forsAdrs (tree leaf : Nat) : Adrs := { layer := 0, tree := tree, ty := 3, w1 := leaf, w2 := 0, w3 := 0 }

/-- A message in pure mode with an empty context. -/
def slhPure (m : List Byte) : List Byte := nulls 2 ++ m

/-- Verification: public key, message, signature. -/
def slhDsaVerify (key msg sig : List Byte) : Bool :=
  let pk := slice key 0 slhN
  let root := slice key slhN slhN
  let s := slhSelect (slhHmsg (slice sig 0 slhN) pk root (slhPure msg))
  let fors := forsPkFromSig (slice sig slhN 6120) s.1 pk (forsAdrs s.2.1 s.2.2)
  htRoot fors (slice sig 6144 10080) pk s.2.1 s.2.2 == root

/-! ### Signing -/

def slhPrf (pk sk : List Byte) (x : Adrs) : List Byte := slhF pk x sk

def wotsSk (sk pk : List Byte) (x : Adrs) (i : Nat) : List Byte := slhPrf pk sk { x with ty := 5, w2 := i, w3 := 0 }

def wotsPk (sk pk : List Byte) (x : Adrs) : List Byte :=
  slhH pk (wotsPkAdrs x) ((List.range slhLen).flatMap (fun i => slhChain pk { x with w2 := i } (wotsSk sk pk x i) 0 15))

def wotsSign (m sk pk : List Byte) (x : Adrs) : List Byte :=
  (wotsDigits m).zipIdx.flatMap (fun e => slhChain pk { x with w2 := e.2 } (wotsSk sk pk x e.2) 0 e.1)

/-- Node `i` at height `z` of an XMSS tree. -/
def xmssNode (sk pk : List Byte) (x : Adrs) : Nat → Nat → List Byte
  | i, 0 => wotsPk sk pk { x with ty := 0, w1 := i, w2 := 0, w3 := 0 }
  | i, z + 1 => slhH pk { x with ty := 2, w1 := 0, w2 := z + 1, w3 := i } (xmssNode sk pk x (2 * i) z ++ xmssNode sk pk x (2 * i + 1) z)

/-- The sibling of a node. -/
def sibling (i : Nat) : Nat := if i % 2 = 0 then i + 1 else i - 1

def xmssSign (m sk pk : List Byte) (idx : Nat) (x : Adrs) : List Byte :=
  wotsSign m sk pk { x with ty := 0, w1 := idx, w2 := 0, w3 := 0 }
    ++ (List.range 9).flatMap (fun j => xmssNode sk pk x (sibling (idx / 2 ^ j)) j)

/-- The hypertree signature: the message signed so far, and the signature. -/
def htSign (m sk pk : List Byte) (tree leaf : Nat) : List Byte :=
  ((List.range 7).foldl (fun (r : List Byte × List Byte) j =>
    let sig := xmssSign r.1 sk pk (slhLeafAt tree leaf j) (htAdrs tree j)
    (xmssPkFromSig (slhLeafAt tree leaf j) sig r.1 pk (htAdrs tree j), r.2 ++ sig)) (m, [])).2

def forsSk (sk pk : List Byte) (x : Adrs) (i : Nat) : List Byte := slhPrf pk sk { x with ty := 6, w2 := 0, w3 := i }

/-- Node `i` at height `z` of the FORS trees. -/
def forsNode (sk pk : List Byte) (x : Adrs) : Nat → Nat → List Byte
  | i, 0 => slhF pk { x with w2 := 0, w3 := i } (forsSk sk pk x i)
  | i, z + 1 => slhH pk { x with w2 := z + 1, w3 := i } (forsNode sk pk x (2 * i) z ++ forsNode sk pk x (2 * i + 1) z)

def forsSign (md sk pk : List Byte) (x : Adrs) : List Byte :=
  (base2b md 14 17).zipIdx.flatMap (fun e =>
    forsSk sk pk x (e.2 * 2 ^ 14 + e.1)
      ++ (List.range 14).flatMap (fun j => forsNode sk pk x (e.2 * 2 ^ (14 - j) + sibling (e.1 / 2 ^ j)) j))

/-- The root of a key: of the top layer's tree. -/
def slhRoot (sk pk : List Byte) : List Byte := xmssNode sk pk (htAdrs 0 6) 0 9

/-- The signature of a message: secret seed, PRF key, public seed, randomiser. -/
def slhDsaSign (sk prf pk opt msg : List Byte) : List Byte :=
  let m := slhPure msg
  let r := slhPrfMsg prf opt m
  let s := slhSelect (slhHmsg r pk (slhRoot sk pk) m)
  let sig := forsSign s.1 sk pk (forsAdrs s.2.1 s.2.2)
  r ++ sig ++ htSign (forsPkFromSig sig s.1 pk (forsAdrs s.2.1 s.2.2)) sk pk s.2.1 s.2.2

/-! ## The device's identity (R26, R33, log 6) -/

def identityPk : List Byte := slice Config.identityPkSeed 0 slhN
def identitySk : List Byte := slice Config.identitySkSeed 0 slhN

/-- The reported keys: the RSA modulus, and the SLH-DSA key, seed and root. -/
def identityRsaModulus : List Byte := natBe 384 (Config.identityP * Config.identityQ)
def identitySlhKey : List Byte := identityPk ++ slhRoot identitySk identityPk

/-- A random byte string: draws of the free word `n` on. -/
def drawBytes (n len : Nat) : List Byte := (List.range len).map (fun i => BitVec.ofNat 8 (Config.freeWord (n + i)).toNat)

/-- Both signatures of a report under the identity keys; the salt and the randomiser are free. -/
def identityRsaSign (ctr : Nat) (m : List Byte) : List Byte := rsaPssSign Config.identityP Config.identityQ m (drawBytes ctr 48)
def identitySlhSign (ctr : Nat) (m : List Byte) : List Byte :=
  slhDsaSign identitySk (slice Config.identityPrf 0 slhN) identityPk (drawBytes ctr slhN) m

end Sys2Proof.Machine
end

