-- ==== Sys2Proof/Machine/Numbers.lean ====
section
/-! DEFINITION. Numbers (R141-R152): the floating-point formats, one rounding from the exact result, overflow,
canonical NaN, conditions, arithmetic on exact values, integer clamps and MX blocks. -/
namespace Sys2Proof.Machine

/-! ## Integer types (R141): codes 0-7 of R50 -/

/-- Width of a type code of R50. -/
def tyWidth (ty : Nat) : Nat :=
  match ty with
  | 0 | 4 => 8
  | 1 | 5 => 16
  | 2 | 6 => 32
  | 3 | 7 => 64
  | 8 | 9 => 16
  | 10 => 32
  | 11 => 64
  | 14 => 4
  | _ => 8

/-- The type is i8 to i64. -/
def tySigned (ty : Nat) : Bool := ty < 4
/-- The type is an integer type. -/
def tyInt (ty : Nat) : Bool := ty < 8
/-- The type is a 64-bit type, held in an even pair (R144). -/
def tyPair (ty : Nat) : Bool := ty == 3 || ty == 7 || ty == 11

/-- The value of `w` bits of `x` in an integer type. -/
def intVal (ty x : Nat) : Int := if tySigned ty then toSigned (tyWidth ty) x else ((x % 2 ^ tyWidth ty : Nat) : Int)

def intMin (ty : Nat) : Int := if tySigned ty then -((2 ^ (tyWidth ty - 1) : Nat) : Int) else 0
def intMax (ty : Nat) : Int := if tySigned ty then ((2 ^ (tyWidth ty - 1) : Nat) : Int) - 1 else ((2 ^ tyWidth ty : Nat) : Int) - 1

/-- Clamp to the range of a type (R141). -/
def intClamp (ty : Nat) (x : Int) : Int := if x < intMin ty then intMin ty else if intMax ty < x then intMax ty else x

/-- An integer result as the type's bits: wrapped, or clamped with SAT (R141). -/
def intResult (ty : Nat) (sat : Bool) (x : Int) : Nat := wrapNat (tyWidth ty) (if sat then intClamp ty x else x)

/-- The 32-bit slot of a result of a type of at most 32 bits (R144): sign- or zero-extended. -/
def slotOfInt (ty x : Nat) : Word := wordOfInt (intVal ty x)

/-! ## Floating-point formats (R142, R143) -/

/-- A format: fraction bits, exponent bits, bias, and the largest finite value as significand and exponent of its last bit. -/
structure FFmt where
  frac : Nat
  ebits : Nat
  bias : Nat
  maxSig : Nat
  maxQ : Int
  /-- E all ones means infinity and NaN. -/
  ieee : Bool

/-- The formats by code of R50 (R142). -/
def ffmt (ty : Nat) : FFmt :=
  match ty with
  | 8 => { frac := 10, ebits := 5, bias := 15, maxSig := 2 ^ 11 - 1, maxQ := 5, ieee := true }
  | 9 => { frac := 7, ebits := 8, bias := 127, maxSig := 2 ^ 8 - 1, maxQ := 120, ieee := true }
  | 10 => { frac := 23, ebits := 8, bias := 127, maxSig := 2 ^ 24 - 1, maxQ := 104, ieee := true }
  | 11 => { frac := 52, ebits := 11, bias := 1023, maxSig := 2 ^ 53 - 1, maxQ := 971, ieee := true }
  | 12 => { frac := 3, ebits := 4, bias := 7, maxSig := 14, maxQ := 5, ieee := false }
  | 13 => { frac := 2, ebits := 5, bias := 15, maxSig := 7, maxQ := 13, ieee := true }
  | _ => { frac := 1, ebits := 2, bias := 1, maxSig := 3, maxQ := 1, ieee := false }

/-- A value read from a format: finite values are (-1)^neg × m × 2^e exactly. -/
inductive FVal where
  | nan (signalling : Bool)
  | inf (neg : Bool)
  | fin (neg : Bool) (m : Nat) (e : Int)
deriving DecidableEq, Repr, Inhabited

/-- The value of a bit pattern (R142, R143, R147). -/
def fDecode (ty x : Nat) : FVal :=
  if ty = 15 then
    (if x % 256 = 255 then .nan false else .fin false 1 (((x % 256 : Nat) : Int) - 127))
  else
    let f := ffmt ty
    let s := bitOf x (f.frac + f.ebits)
    let e := (x / 2 ^ f.frac) % 2 ^ f.ebits
    let m := x % 2 ^ f.frac
    if f.ieee && e == 2 ^ f.ebits - 1 then
      (if m = 0 then .inf s else .nan (decide (m < 2 ^ (f.frac - 1))))
    else if ty = 12 && e == 15 && m == 7 then .nan false
    else if e = 0 then .fin s m (1 - (f.bias : Int) - f.frac)
    else .fin s (m + 2 ^ f.frac) ((e : Int) - f.bias - f.frac)

/-- The canonical NaN of a type (R147); e2m1 has none and delivers +0. -/
def fNan (ty : Nat) : Nat :=
  match ty with
  | 8 => 0x7E00
  | 9 => 0x7FC0
  | 10 => 0x7FC00000
  | 11 => 0x7FF8000000000000
  | 12 => 0x7F
  | 13 => 0x7E
  | 15 => 0xFF
  | _ => 0

def fSignBit (ty : Nat) : Nat := 2 ^ ((ffmt ty).frac + (ffmt ty).ebits)

/-- ± the largest finite value. -/
def fMaxBits (ty : Nat) (neg : Bool) : Nat :=
  let f := ffmt ty
  (if neg then fSignBit ty else 0) + (f.maxQ + f.frac + f.bias).toNat * 2 ^ f.frac + (f.maxSig - 2 ^ f.frac)

/-- ± infinity, of the types that have one. -/
def fInfBits (ty : Nat) (neg : Bool) : Nat := (if neg then fSignBit ty else 0) + (2 ^ (ffmt ty).ebits - 1) * 2 ^ (ffmt ty).frac

def fZeroBits (ty : Nat) (neg : Bool) : Nat := if neg then fSignBit ty else 0

/-- Rounding modes (R145): 0 RNE, 1 RZ, 2 RP, 3 RM. -/
def roundsUp (mode : Nat) (neg odd : Bool) (rem half : Nat) (sticky : Bool) : Bool :=
  match mode with
  | 0 => decide (half < rem) || (rem == half && half != 0 && (sticky || odd))
  | 1 => false
  | 2 => !neg && (rem != 0 || sticky)
  | _ => neg && (rem != 0 || sticky)

/-- A magnitude m × 2^e (or strictly between that and (m+1) × 2^e with `sticky`) rounded to an integer
multiple of 2^q: the significand. -/
def roundSig (mode : Nat) (neg : Bool) (m : Nat) (e q : Int) (sticky : Bool) : Nat :=
  if q ≤ e then m * 2 ^ (e - q).toNat
  else
    let k := (q - e).toNat
    let sig := m / 2 ^ k
    sig + (if roundsUp mode neg (sig % 2 == 1) (m % 2 ^ k) (2 ^ (k - 1)) sticky then 1 else 0)

/-- A delivered result: its bits and whether it overflowed (R146). -/
structure FRound where
  bits : Nat
  ovf : Bool
deriving DecidableEq, Repr, Inhabited

/-- What an overflow delivers (R146). -/
def fOverflow (ty mode : Nat) (neg sat : Bool) : Nat :=
  let big := if ty = 12 then fNan 12 else fInfBits ty neg
  if sat || ty == 14 then fMaxBits ty neg
  else match mode with
    | 0 => big
    | 1 => fMaxBits ty neg
    | 2 => if neg then fMaxBits ty neg else big
    | _ => if neg then big else fMaxBits ty neg

/-- round(x, type, mode) of R145 with the overflow of R146, for a nonzero magnitude. -/
def fRound (ty mode : Nat) (sat neg : Bool) (m : Nat) (e : Int) (sticky : Bool) : FRound :=
  let f := ffmt ty
  let emin : Int := 1 - (f.bias : Int)
  let ex : Int := if m = 0 then emin else max ((log2N m : Nat) + e) emin
  let q := ex - f.frac
  let sig := roundSig mode neg m e q sticky
  if f.maxQ < q || (q == f.maxQ && decide (f.maxSig < sig)) then { bits := fOverflow ty mode neg sat, ovf := true }
  else
    let sb := if neg then fSignBit ty else 0
    if sig < 2 ^ f.frac then { bits := sb + sig, ovf := false }
    else
      let (sig, q) := if sig = 2 ^ (f.frac + 1) then (2 ^ f.frac, q + 1) else (sig, q)
      { bits := sb + (q + f.frac + f.bias).toNat * 2 ^ f.frac + (sig - 2 ^ f.frac), ovf := false }

/-! ## Exact results and conditions (R145-R148) -/

/-- An exact result before its one rounding. `fin` is the magnitude m × 2^e, strictly between m and m+1
with `sticky`; a zero has m = 0 and no `sticky`. -/
inductive Exact where
  | nan
  | inf (neg : Bool)
  | fin (neg : Bool) (m : Nat) (e : Int) (sticky : Bool)
deriving DecidableEq, Repr, Inhabited

/-- A delivered value with the conditions INV, DVZ and OVF it met (R148). -/
structure FOut where
  bits : Nat
  inv : Bool
  dvz : Bool
  ovf : Bool
deriving DecidableEq, Repr, Inhabited

/-- Deliver an exact result in a type (R145-R147). -/
def deliver (ty mode : Nat) (sat : Bool) (x : Exact) (inv dvz : Bool) : FOut :=
  match x with
  | .nan => { bits := fNan ty, inv := inv, dvz := dvz, ovf := false }
  | .inf n => { bits := if sat then fMaxBits ty n else fInfBits ty n, inv := inv, dvz := dvz, ovf := false }
  | .fin n m e st =>
    if m = 0 && !st then { bits := fZeroBits ty n, inv := inv, dvz := dvz, ovf := false }
    else
      let r := fRound ty mode sat n m e st
      { bits := r.bits, inv := inv, dvz := dvz, ovf := r.ovf }

def fIsNan : FVal → Bool
  | .nan _ => true
  | _ => false
def fIsSnan : FVal → Bool
  | .nan s => s
  | _ => false
def fIsInf : FVal → Bool
  | .inf _ => true
  | _ => false
def fIsZero : FVal → Bool
  | .fin _ m _ => m == 0
  | _ => false
def fNeg : FVal → Bool
  | .nan _ => false
  | .inf n => n
  | .fin n _ _ => n
/-- ±infinity or NaN. -/
def fNonFinite (v : FVal) : Bool := fIsNan v || fIsInf v

/-- NEG and ABS of a source (R50): ABS first. -/
def fMod (neg abs : Bool) (v : FVal) : FVal :=
  let g := fun n => xor neg (if abs then false else n)
  match v with
  | .nan s => .nan s
  | .inf n => .inf (g n)
  | .fin n m e => .fin (g n) m e

/-- A finite value as a signed integer multiple of 2^q, for q at most its exponent. -/
def scaled (n : Bool) (m : Nat) (e q : Int) : Int := (if n then -1 else 1) * ((m * 2 ^ (e - q).toNat : Nat) : Int)

/-- Exact sum of two finite values; an exact zero takes the sign of R145. -/
def finAdd (mode : Nat) (n1 : Bool) (m1 : Nat) (e1 : Int) (n2 : Bool) (m2 : Nat) (e2 : Int) : Exact :=
  let q := min e1 e2
  let s := scaled n1 m1 e1 q + scaled n2 m2 e2 q
  if s = 0 then .fin (if n1 == n2 then n1 else mode == 3) 0 0 false
  else .fin (decide (s < 0)) s.natAbs q false

/-- a + b exactly (R145), with the invalid case infinity − infinity. -/
def exAdd (mode : Nat) (a b : FVal) : Exact × Bool :=
  match a, b with
  | .nan _, _ => (.nan, false)
  | _, .nan _ => (.nan, false)
  | .inf x, .inf y => if x == y then (.inf x, false) else (.nan, true)
  | .inf x, _ => (.inf x, false)
  | _, .inf y => (.inf y, false)
  | .fin n1 m1 e1, .fin n2 m2 e2 => (finAdd mode n1 m1 e1 n2 m2 e2, false)

/-- a × b exactly as a value. -/
def exMul (a b : FVal) : FVal × Bool :=
  match a, b with
  | .nan _, _ => (.nan false, false)
  | _, .nan _ => (.nan false, false)
  | .inf x, .inf y => (.inf (xor x y), false)
  | .inf x, .fin y m _ => if m = 0 then (.nan false, true) else (.inf (xor x y), false)
  | .fin x m _, .inf y => if m = 0 then (.nan false, true) else (.inf (xor x y), false)
  | .fin x m1 e1, .fin y m2 e2 => (.fin (xor x y) (m1 * m2) (e1 + e2), false)

/-- A value as an exact result. -/
def exOf : FVal → Exact
  | .nan _ => .nan
  | .inf n => .inf n
  | .fin n m e => .fin n m e false

/-- Integer square root by bits from the top, `k` bits to try. -/
def isqrtGo (n : Nat) : Nat → Nat → Nat
  | 0, r => r
  | k + 1, r => if (r + 2 ^ k) * (r + 2 ^ k) ≤ n then isqrtGo n k (r + 2 ^ k) else isqrtGo n k r

/-- floor(sqrt n). -/
def isqrt (n : Nat) : Nat := isqrtGo n (log2N n / 2 + 1) 0

/-- Guard bits that every quotient and root is computed to; more than twice the longest significand. -/
def workBits : Nat := 120

/-- a ÷ b (R170): the exact quotient, DVZ for a finite nonzero over zero, INV for 0 ÷ 0 and inf ÷ inf. -/
def exDiv (a b : FVal) : Exact × Bool × Bool :=
  match a, b with
  | .nan _, _ => (.nan, false, false)
  | _, .nan _ => (.nan, false, false)
  | .inf _, .inf _ => (.nan, true, false)
  | .inf x, .fin y _ _ => (.inf (xor x y), false, false)
  | .fin x _ _, .inf y => (.fin (xor x y) 0 0 false, false, false)
  | .fin x m1 e1, .fin y m2 e2 =>
    if m2 = 0 then (if m1 = 0 then (.nan, true, false) else (.inf (xor x y), false, true))
    else if m1 = 0 then (.fin (xor x y) 0 0 false, false, false)
    else
      let k := workBits + log2N m2
      (.fin (xor x y) (m1 * 2 ^ k / m2) (e1 - e2 - k) (m1 * 2 ^ k % m2 != 0), false, false)

/-- √a (R170). -/
def exSqrt (a : FVal) : Exact × Bool :=
  match a with
  | .nan _ => (.nan, false)
  | .inf n => if n then (.nan, true) else (.inf false, false)
  | .fin n m e =>
    if m = 0 then (.fin n 0 0 false, false)
    else if n then (.nan, true)
    else
      let k := 2 * workBits + (if e % 2 = 0 then 0 else 1)
      let mm := m * 2 ^ k
      let r := isqrt mm
      (.fin false r ((e - k) / 2) (r * r != mm), false)

/-- 1 ÷ √a (R170): ±0 gives ±infinity with DVZ. -/
def exRsqrt (a : FVal) : Exact × Bool × Bool :=
  match a with
  | .nan _ => (.nan, false, false)
  | .inf n => if n then (.nan, true, false) else (.fin false 0 0 false, false, false)
  | .fin n m e =>
    if m = 0 then (.inf n, false, true)
    else if n then (.nan, true, false)
    else
      let m' := if e % 2 = 0 then m else 2 * m
      let e' := if e % 2 = 0 then e else e - 1
      let k := workBits + log2N m'
      let r := isqrt (2 ^ (2 * k) / m')
      (.fin false r (-(k : Int) - e' / 2) (r * r * m' != 2 ^ (2 * k)), false, false)

/-- FADD (R170). -/
def fAdd (ty mode : Nat) (sat : Bool) (a b : FVal) : FOut :=
  let r := exAdd mode a b
  deliver ty mode sat r.1 (r.2 || fIsSnan a || fIsSnan b) false

/-- FMUL (R170). -/
def fMul (ty mode : Nat) (sat : Bool) (a b : FVal) : FOut :=
  let r := exMul a b
  deliver ty mode sat (exOf r.1) (r.2 || fIsSnan a || fIsSnan b) false

/-- FFMA (R170): 0 × infinity is invalid whatever the addend. -/
def fFma (ty mode : Nat) (sat : Bool) (a b c : FVal) : FOut :=
  let p := exMul a b
  let s := exAdd mode p.1 c
  let sn := fIsSnan a || fIsSnan b || fIsSnan c
  if p.2 then deliver ty mode sat .nan true false
  else deliver ty mode sat s.1 (s.2 || sn) false

/-- FDIV (R170). -/
def fDiv (ty mode : Nat) (sat : Bool) (a b : FVal) : FOut :=
  let r := exDiv a b
  deliver ty mode sat r.1 (r.2.1 || fIsSnan a || fIsSnan b) r.2.2

def fOne : FVal := .fin false 1 0

/-- FSQRT, FRSQ (R170). -/
def fSqrt (ty mode : Nat) (sat : Bool) (a : FVal) : FOut :=
  let r := exSqrt a
  deliver ty mode sat r.1 (r.2 || fIsSnan a) false
def fRsq (ty mode : Nat) (sat : Bool) (a : FVal) : FOut :=
  let r := exRsqrt a
  deliver ty mode sat r.1 (r.2.1 || fIsSnan a) r.2.2

/-- a < b for two numbers, −0 below +0 when `zeros` (R171). -/
def fLt (zeros : Bool) (a b : FVal) : Bool :=
  match a, b with
  | .nan _, _ => false
  | _, .nan _ => false
  | .inf x, .inf y => x && !y
  | .inf x, _ => x
  | _, .inf y => !y
  | .fin n1 m1 e1, .fin n2 m2 e2 =>
    let q := min e1 e2
    let x := scaled n1 m1 e1 q
    let y := scaled n2 m2 e2 q
    if m1 = 0 && m2 = 0 then zeros && n1 && !n2 else decide (x < y)

/-- a = b as numbers. -/
def fEq (a b : FVal) : Bool := !fIsNan a && !fIsNan b && !fLt false a b && !fLt false b a

/-- The exact value picked by FMIN or FMAX (R171): minimumNumber and maximumNumber. -/
def fPick (isMax : Bool) (a b : FVal) : FVal :=
  if fIsNan a then (if fIsNan b then .nan false else b)
  else if fIsNan b then a
  else if isMax then (if fLt true a b then b else a) else (if fLt true b a then b else a)

def fMinMax (ty : Nat) (sat isMax : Bool) (a b : FVal) : FOut :=
  deliver ty 0 sat (exOf (fPick isMax a b)) (fIsSnan a || fIsSnan b) false

/-- A condition of R51 on two floating-point values. -/
def fCond (md : Nat) (a b : FVal) : Bool :=
  let un := fIsNan a || fIsNan b
  match md with
  | 0 => fEq a b
  | 1 => !(fEq a b)
  | 2 => fLt false a b
  | 3 => fLt false a b || fEq a b
  | 4 => fLt false b a
  | 5 => fLt false b a || fEq a b
  | 6 => !un
  | _ => un

/-- A condition of R51, 0-5, on two integers. -/
def iCond (md : Nat) (a b : Int) : Bool :=
  match md with
  | 0 => a == b
  | 1 => a != b
  | 2 => decide (a < b)
  | 3 => decide (a ≤ b)
  | 4 => decide (b < a)
  | _ => decide (b ≤ a)

/-- A finite value rounded to an integer in a mode. -/
def finToInt (mode : Nat) (n : Bool) (m : Nat) (e : Int) : Int :=
  let s := roundSig mode n m e 0 false
  if n then -(s : Int) else (s : Int)

/-- Float to integer (R147, R178): value and INV. -/
def fToInt (ty mode : Nat) (v : FVal) : Int × Bool :=
  match v with
  | .nan _ => (0, true)
  | .inf n => (if n then intMin ty else intMax ty, true)
  | .fin n m e =>
    let x := finToInt mode n m e
    (intClamp ty x, decide (x < intMin ty) || decide (intMax ty < x))

/-- An integer as an exact result. -/
def exOfInt (x : Int) : Exact := .fin (decide (x < 0)) x.natAbs 0 false

/-- floor(log2 |v|) of a nonzero finite value. -/
def finLog2 (m : Nat) (e : Int) : Int := (log2N m : Nat) + e

/-- CVT between floating-point types (R177, R146, R147). -/
def fCvt (ty mode : Nat) (sat : Bool) (v : FVal) : FOut :=
  if ty = 15 then
    match v with
    | .nan _ => { bits := 0xFF, inv := true, dvz := false, ovf := false }
    | .inf n => if n then { bits := 0xFF, inv := true, dvz := false, ovf := false } else { bits := 0xFE, inv := true, dvz := false, ovf := false }
    | .fin n m e =>
      if n || m == 0 then { bits := 0xFF, inv := true, dvz := false, ovf := false }
      else
        let l := finLog2 m e
        let exact := m == 2 ^ log2N m
        -- nearer power: the value against the middle 1.5 × 2^l, the larger on a tie
        let upper := decide (3 * 2 ^ log2N m ≤ 2 * m)
        let x := match mode with
          | 0 => if upper then l + 1 else l
          | 2 => if exact then l else l + 1
          | _ => l
        { bits := (max 0 (min 254 (x + 127))).toNat, inv := false, dvz := false, ovf := false }
  else
    match v with
    | .nan s => { bits := fNan ty, inv := s || ty == 14, dvz := false, ovf := false }
    | .inf n =>
      if ty = 14 then { bits := fMaxBits 14 n, inv := true, dvz := false, ovf := false }
      else if ty = 12 then { bits := if sat then fMaxBits 12 n else fNan 12, inv := false, dvz := false, ovf := false }
      else deliver ty mode sat (.inf n) false false
    | .fin n m e => deliver ty mode sat (.fin n m e false) false false

/-! ## Comparison classes (R174) -/

/-- The class bit of R174 of a value of a type. -/
def fClass (ty : Nat) (v : FVal) : Nat :=
  let f := ffmt ty
  match v with
  | .nan s => if s then 0 else 1
  | .inf n => if n then 2 else 9
  | .fin n m _ =>
    if m = 0 then (if n then 5 else 6)
    else if m < 2 ^ f.frac then (if n then 4 else 7)
    else (if n then 3 else 8)

/-! ## MX blocks (R150, R151) -/

/-- Value of an element code of an MX format: 0 MXINT8, 1 MXFP8, 2 MXFP4. -/
def mxElem (fmt x : Nat) : FVal :=
  match fmt with
  | 0 => let v := toSigned 8 x
         .fin (decide (v < 0)) v.natAbs (-6)
  | 1 => fDecode 12 x
  | _ => fDecode 14 (x % 16)

/-- Magnitude comparison of two finite values. -/
def finLe (m1 : Nat) (e1 : Int) (m2 : Nat) (e2 : Int) : Bool :=
  let q := min e1 e2
  decide (m1 * 2 ^ (e1 - q).toNat ≤ m2 * 2 ^ (e2 - q).toNat)

/-- The value of greatest magnitude in a list of finite values. -/
def amaxOf : List FVal → Nat × Int
  | [] => (0, 0)
  | v :: r =>
    let (m, e) := amaxOf r
    match v with
    | .fin _ m1 e1 => if finLe m1 e1 m e then (m, e) else (m1, e1)
    | _ => (m, e)

/-- An element of an MX block: y = x ÷ 2^e rounded to the element type and saturated (R151). -/
def mxRoundElem (fmt mode : Nat) (e : Int) (v : FVal) : Nat :=
  match v with
  | .fin n m ex =>
    if m = 0 then (if n then (match fmt with | 0 => 0 | 1 => 0x80 | _ => 0x8) else 0)
    else match fmt with
      | 0 =>
        let x := finToInt mode n m (ex - e + 6)
        wrapNat 8 (max (-127) (min 127 x))
      | 1 => (fRound 12 mode true n m (ex - e) false).bits
      | _ => (fRound 14 mode true n m (ex - e) false).bits
  | _ => 0

/-- The conversion of 32 values into one MX block (R151): the scale code and the element codes. -/
def mxQuant (fmt mode : Nat) (xs : List FVal) : Nat × List Nat :=
  if xs.any fNonFinite then (0xFF, xs.map (fun _ => 0))
  else
    let (m, e0) := amaxOf xs
    if m = 0 then (0, xs.map (fun _ => 0))
    else
      let emax : Int := match fmt with | 0 => 0 | 1 => 8 | _ => 2
      let e := min 127 (max (-127) (finLog2 m e0 - emax))
      ((e + 127).toNat, xs.map (mxRoundElem fmt mode e))

/-- A running exact sum as an integer multiple of 2^q. -/
structure FixAcc where
  q : Int
  s : Int

def FixAcc.add (a : FixAcc) (n : Bool) (m : Nat) (e : Int) : FixAcc :=
  let q := min a.q e
  { q := q, s := a.s * ((2 ^ (a.q - q).toNat : Nat) : Int) + scaled n m e q }

/-- The exact sum of products of finite values, as one exact result (R152). -/
def exactOfFix (a : FixAcc) : Exact :=
  if a.s = 0 then .fin false 0 0 false else .fin (decide (a.s < 0)) a.s.natAbs a.q false

/-! ## f32 sums by RNE, as canvas, atomics and frames use them -/

/-- round(a + b, type, RNE) on bit patterns. -/
def addRne (ty a b : Nat) : Nat := (fAdd ty 0 false (fDecode ty a) (fDecode ty b)).bits

/-- A pattern of one type in another by RNE. -/
def cvtRne (dst src x : Nat) : Nat := (fCvt dst 0 false (fDecode src x)).bits

end Sys2Proof.Machine
end

