-- ==== Sys2Proof/Syntax.lean ====
section
/-! DEFINITION. The instructions and steps of the machine: one constructor of `Instr` per row of the opcode table.
The word formats are those of R48 to R54 and R270; what names a row that is no word stands in `EvArg`. -/
namespace Sys2Proof

/-- An 8-bit operand field (R43) with the literal word that follows when its code is 0xFF (R46).
`lit` is zero where no literal follows. -/
structure Fld where
  code : BitVec 8
  lit  : Word
deriving DecidableEq, Repr

/-- Format A (R49): guard, destination, two operand fields. -/
structure FmtA where
  g : BitVec 3
  d : BitVec 7
  a : Fld
  b : Fld
deriving DecidableEq, Repr

/-- Format AX (R50): an A word and its extension. -/
structure FmtAX where
  g     : BitVec 3
  d     : BitVec 7
  a     : Fld
  b     : Fld
  c     : Fld
  ty    : BitVec 4
  sty   : BitVec 4
  rnd   : BitVec 2
  neg   : BitVec 3
  abs   : BitVec 3
  sat   : Bool
  fs    : Bool
  wide  : Bool
  md    : BitVec 5
deriving DecidableEq, Repr

/-- Format I (R49): a 16-bit immediate. -/
structure FmtI where
  g   : BitVec 3
  d   : BitVec 7
  imm : BitVec 16
deriving DecidableEq, Repr

/-- Format M (R52): a memory word. -/
structure FmtM where
  g    : BitVec 3
  d    : BitVec 7
  buf  : BitVec 4
  sz   : BitVec 3
  fs   : Bool
  idx  : Fld
  off  : BitVec 16
  aop  : BitVec 5
  nt   : Bool
  spl  : Bool
  sx   : Bool
  data : Fld
deriving DecidableEq, Repr

/-- Format C (R53): a canvas, copy or stream word. Bits 3:0 of the operand word must be zero and are not held. -/
structure FmtC where
  g   : BitVec 3
  d   : BitVec 7
  a   : Fld
  b   : Fld
  c   : Fld
  e   : Fld
  vw  : BitVec 2
  q   : BitVec 3
  qen : Bool
  fs  : Bool
  md  : BitVec 5
deriving DecidableEq, Repr

/-- Format J (R54): a branch. Bits 11:8 of the first word must be zero and are not held. -/
structure FmtJ where
  g   : BitVec 3
  d   : BitVec 7
  cp  : BitVec 4
  a   : Fld
  tgt : BitVec 16
  rj  : BitVec 16
deriving DecidableEq, Repr

/-- Format Y (R49). -/
structure FmtY where
  g : BitVec 3
  d : BitVec 7
  a : Fld
  k : BitVec 8
deriving DecidableEq, Repr

/-- Format YX (R49): a Y word and a 32-bit immediate word. -/
structure FmtYX where
  g   : BitVec 3
  d   : BitVec 7
  a   : Fld
  k   : BitVec 8
  imm : Word
deriving DecidableEq, Repr

/-- The frame and rod word (R270). -/
structure FmtR where
  d   : BitVec 3
  a   : BitVec 3
  b   : BitVec 3
  m   : BitVec 2
  t   : BitVec 2
  imm : BitVec 14
deriving DecidableEq, Repr

/-- A Trestle message with its traffic class (R28, R87, R367). -/
structure Msg where
  cls   : BitVec 2
  bytes : List Byte
deriving DecidableEq, Repr

/-- What a peer package asks of this package's memory (R298). -/
inductive PeerReq where
  /-- A read of `len` bytes from a physical address. -/
  | read (addr len : Nat)
  /-- A write of bytes at a physical address. -/
  | write (addr : Nat) (bytes : List Byte)
  /-- An atomic of R208 on an aligned location. -/
  | atomic (aop : BitVec 5) (width addr : Nat) (data cmp : DWord)
deriving DecidableEq, Repr

/-- What names an occurrence of a row that is no word: it stands in `Machine.State.arg` when the row is
executed, and each such constructor of `Instr` says which of the fields it reads. -/
structure EvArg where
  a : Nat
  b : Nat
  c : Nat
  d : Nat
  msg : Msg
  bytes : List Byte
  req : PeerReq
  ok : Bool
  opt : Option Nat
deriving DecidableEq, Repr

/-- No argument. -/
def EvArg.none : EvArg :=
  { a := 0, b := 0, c := 0, d := 0, msg := { cls := 0, bytes := [] }, bytes := [], req := .read 0 0, ok := true, opt := Option.none }

/-- The steps of the machine, one constructor per row of the opcode table. -/
inductive Instr where
  /-- R155. Integer add, with optional saturation. -/
  | iadd (w : FmtAX)
  /-- R156. Integer add with carry-in and carry-out predicates. -/
  | iaddc (w : FmtAX)
  /-- R155. Integer subtract. -/
  | isub (w : FmtAX)
  /-- R156. Integer subtract with borrow-in and borrow-out. -/
  | isubb (w : FmtAX)
  /-- R155. Integer multiply, optionally saturating or widening. -/
  | imul (w : FmtAX)
  /-- R155. High half of an integer product. -/
  | imulh (w : FmtAX)
  /-- R155. Integer multiply-add. -/
  | imad (w : FmtAX)
  /-- R157. Long-latency integer divide. -/
  | idiv (w : FmtAX)
  /-- R157. Long-latency integer remainder. -/
  | irem (w : FmtAX)
  /-- R155. Integer minimum. -/
  | imin (w : FmtAX)
  /-- R155. Integer maximum. -/
  | imax (w : FmtAX)
  /-- R155. Integer absolute value. -/
  | iabs (w : FmtAX)
  /-- R155. Integer negate. -/
  | ineg (w : FmtAX)
  /-- R158. Bitwise AND. -/
  | and (w : FmtA)
  /-- R158. Bitwise OR. -/
  | or (w : FmtA)
  /-- R158. Bitwise XOR. -/
  | xor (w : FmtA)
  /-- R158. a AND NOT b. -/
  | andn (w : FmtA)
  /-- R158. Bitwise NOT. -/
  | not (w : FmtA)
  /-- R159. Shift left. -/
  | shl (w : FmtAX)
  /-- R159. Logical shift right. -/
  | shr (w : FmtAX)
  /-- R159. Arithmetic shift right. -/
  | sar (w : FmtAX)
  /-- R158. Rotate left. -/
  | rol (w : FmtA)
  /-- R158. Population count. -/
  | popc (w : FmtA)
  /-- R158. Count leading zeros. -/
  | clz (w : FmtA)
  /-- R158. Count trailing zeros. -/
  | ctz (w : FmtA)
  /-- R158. Bit reverse. -/
  | brev (w : FmtA)
  /-- R160. Bit-field extract. -/
  | bfx (w : FmtAX)
  /-- R160. Bit-field insert. -/
  | bfi (w : FmtAX)
  /-- R161. Byte gather, reshape and fill. -/
  | bmix (w : FmtAX)
  /-- R162. Saturating integer narrowing. -/
  | isat (w : FmtAX)
  /-- R163. Integer compare into a predicate. -/
  | vcmp (w : FmtAX)
  /-- R163. Select by predicate. -/
  | vsel (w : FmtAX)
  /-- R140. Predicate AND. -/
  | pand (w : FmtA)
  /-- R140. Predicate OR. -/
  | por (w : FmtA)
  /-- R140. Predicate XOR. -/
  | pxor (w : FmtA)
  /-- R140. Predicate NOT. -/
  | pnot (w : FmtA)
  /-- R140. Predicate move. -/
  | pmov (w : FmtA)
  /-- R140. True in every lane if the predicate holds in any active lane. -/
  | pany (w : FmtA)
  /-- R140. True in every lane if the predicate holds in all active lanes. -/
  | pall (w : FmtA)
  /-- R140. Count of active lanes in which the predicate holds. -/
  | pcnt (w : FmtA)
  /-- R140. Set a predicate from a bit mask. -/
  | pset (w : FmtA)
  /-- R164. Move a 32-bit pattern. -/
  | mov (w : FmtA)
  /-- R164. Move a sign-extended 16-bit immediate. -/
  | movi (w : FmtI)
  /-- R165. Read four bytes of the lane's register window at a lane-varying position. -/
  | movs (w : FmtA)
  /-- R167. Read from a lane chosen per lane. -/
  | rdln (w : FmtA)
  /-- R167. Send a value to a lane chosen per lane. -/
  | wrln (w : FmtA)
  /-- R167. Exchange within a quad by XOR of the lane number. -/
  | qswp (w : FmtA)
  /-- R167. Broadcast within a quad. -/
  | qbc (w : FmtA)
  /-- R167. Rotate values across the group's lanes. -/
  | gshf (w : FmtA)
  /-- R167. Broadcast one lane to the group. -/
  | gbc (w : FmtA)
  /-- R169. Reduction over the active lanes. -/
  | gred (w : FmtAX)
  /-- R169. Inclusive scan over the active lanes. -/
  | gscn (w : FmtAX)
  /-- R168. Mask of active lanes in which a predicate holds. -/
  | ballot (w : FmtA)
  /-- R170. Floating-point add, A form. -/
  | fadd (w : FmtA)
  /-- R170. Floating-point add, AX form. -/
  | faddAx (w : FmtAX)
  /-- R170. Floating-point multiply, A form. -/
  | fmul (w : FmtA)
  /-- R170. Floating-point multiply, AX form. -/
  | fmulAx (w : FmtAX)
  /-- R170. Fused multiply-add. -/
  | ffma (w : FmtAX)
  /-- R171. minimumNumber, A form. -/
  | fmin (w : FmtA)
  /-- R171. minimumNumber, AX form. -/
  | fminAx (w : FmtAX)
  /-- R171. maximumNumber, A form. -/
  | fmax (w : FmtA)
  /-- R171. maximumNumber, AX form. -/
  | fmaxAx (w : FmtAX)
  /-- R170. Long-latency divide, A form. -/
  | fdiv (w : FmtA)
  /-- R170. Long-latency divide, AX form. -/
  | fdivAx (w : FmtAX)
  /-- R170. Reciprocal, A form. -/
  | frcp (w : FmtA)
  /-- R170. Reciprocal, AX form. -/
  | frcpAx (w : FmtAX)
  /-- R170. Reciprocal square root, A form. -/
  | frsq (w : FmtA)
  /-- R170. Reciprocal square root, AX form. -/
  | frsqAx (w : FmtAX)
  /-- R170. Square root, A form. -/
  | fsqrt (w : FmtA)
  /-- R170. Square root, AX form. -/
  | fsqrtAx (w : FmtAX)
  /-- R172. 2^a, A form. -/
  | fexp2 (w : FmtA)
  /-- R172. 2^a, AX form. -/
  | fexp2Ax (w : FmtAX)
  /-- R172. log2 a, A form. -/
  | flog2 (w : FmtA)
  /-- R172. log2 a, AX form. -/
  | flog2Ax (w : FmtAX)
  /-- R172. Sine, A form. -/
  | fsin (w : FmtA)
  /-- R172. Sine, AX form. -/
  | fsinAx (w : FmtAX)
  /-- R172. Cosine, A form. -/
  | fcos (w : FmtA)
  /-- R172. Cosine, AX form. -/
  | fcosAx (w : FmtAX)
  /-- R172. Hyperbolic tangent, A form. -/
  | ftanh (w : FmtA)
  /-- R172. Hyperbolic tangent, AX form. -/
  | ftanhAx (w : FmtAX)
  /-- R173. Round to an integer value, A form. -/
  | frnd (w : FmtA)
  /-- R173. Round to an integer value, AX form. -/
  | frndAx (w : FmtAX)
  /-- R173. Scale by a power of two, A form. -/
  | fscl (w : FmtA)
  /-- R173. Scale by a power of two, AX form. -/
  | fsclAx (w : FmtAX)
  /-- R173. Extract the exponent, A form. -/
  | fxtr (w : FmtA)
  /-- R173. Extract the exponent or mantissa, AX form. -/
  | fxtrAx (w : FmtAX)
  /-- R174. Classify into a predicate, A form. -/
  | fcls (w : FmtA)
  /-- R174. Classify into a predicate, AX form. -/
  | fclsAx (w : FmtAX)
  /-- R174. Floating-point compare into a predicate. -/
  | fcmp (w : FmtAX)
  /-- R175. Packed half add, A form. -/
  | padd (w : FmtA)
  /-- R175. Packed half add, AX form. -/
  | paddAx (w : FmtAX)
  /-- R175. Packed half multiply, A form. -/
  | pmul (w : FmtA)
  /-- R175. Packed half multiply, AX form. -/
  | pmulAx (w : FmtAX)
  /-- R175. Packed half fused multiply-add. -/
  | pfma (w : FmtAX)
  /-- R176. Four-term dot product with one rounding. -/
  | fdot4 (w : FmtAX)
  /-- R177. Convert between floating-point types. -/
  | cvt (w : FmtAX)
  /-- R178. Convert between integer and float. -/
  | cvti (w : FmtAX)
  /-- R179. Quantise 32 values into an MX block. -/
  | cvtm (w : FmtAX)
  /-- R180. Palette matrix times register vector, A form. -/
  | tmv (w : FmtA)
  /-- R180. Palette matrix times register vector, AX form. -/
  | tmvAx (w : FmtAX)
  /-- R182. Scalar add, A form. -/
  | sadd (w : FmtA)
  /-- R182. Scalar add, AX form. -/
  | saddAx (w : FmtAX)
  /-- R182. Scalar subtract, A form. -/
  | ssub (w : FmtA)
  /-- R182. Scalar subtract, AX form. -/
  | ssubAx (w : FmtAX)
  /-- R182. Scalar multiply, A form. -/
  | smul (w : FmtA)
  /-- R182. Scalar multiply, AX form. -/
  | smulAx (w : FmtAX)
  /-- R182. Scalar AND. -/
  | sand (w : FmtA)
  /-- R182. Scalar OR. -/
  | sor (w : FmtA)
  /-- R182. Scalar XOR. -/
  | sxor (w : FmtA)
  /-- R182. Scalar shift left, A form. -/
  | sshl (w : FmtA)
  /-- R182. Scalar shift left, AX form. -/
  | sshlAx (w : FmtAX)
  /-- R182. Scalar logical shift right, A form. -/
  | sshr (w : FmtA)
  /-- R182. Scalar logical shift right, AX form. -/
  | sshrAx (w : FmtAX)
  /-- R182. Scalar arithmetic shift right, A form. -/
  | ssar (w : FmtA)
  /-- R182. Scalar arithmetic shift right, AX form. -/
  | ssarAx (w : FmtAX)
  /-- R183. Scalar compare. -/
  | scmp (w : FmtAX)
  /-- R183. Scalar move, A form. -/
  | smov (w : FmtA)
  /-- R183. Scalar move, AX form. -/
  | smovAx (w : FmtAX)
  /-- R183. Scalar move of a sign-extended immediate. -/
  | smovi (w : FmtI)
  /-- R183. Scalar select. -/
  | ssel (w : FmtAX)
  /-- R182. Scalar minimum, A form. -/
  | smin (w : FmtA)
  /-- R182. Scalar minimum, AX form. -/
  | sminAx (w : FmtAX)
  /-- R182. Scalar maximum, A form. -/
  | smax (w : FmtA)
  /-- R182. Scalar maximum, AX form. -/
  | smaxAx (w : FmtAX)
  /-- R184. Scalar load from the palette. -/
  | sldc (w : FmtA)
  /-- R184. Long-latency scalar load through a buffer record. -/
  | sld (w : FmtM)
  /-- R185. Read a system register. -/
  | srd (w : FmtI)
  /-- R185. Write a system register such as SR_OOBSTICKY. -/
  | swr (w : FmtI)
  /-- R204. Buffer load by element. -/
  | ld (w : FmtM)
  /-- R205. Buffer store by element. -/
  | st (w : FmtM)
  /-- R204. Buffer load by byte offset, optionally opening a split gather. -/
  | ldx (w : FmtM)
  /-- R205. Buffer store by byte offset. -/
  | stx (w : FmtM)
  /-- R206. Load from the palette window. -/
  | ldc (w : FmtM)
  /-- R207. Load from canvas STORE. -/
  | ldm (w : FmtM)
  /-- R207. Store to canvas STORE. -/
  | stm (w : FmtM)
  /-- R208. Returning atomic at L2. -/
  | atom (w : FmtM)
  /-- R208. Non-returning atomic at L2. -/
  | atomn (w : FmtM)
  /-- R209. Reduction at L2, complete on acceptance. -/
  | red (w : FmtM)
  /-- R208. Atomic on canvas STORE. -/
  | atomm (w : FmtM)
  /-- R210. Prefetch lines toward the core. -/
  | pref (w : FmtM)
  /-- R211. Load a buffer record from the table into a slot. -/
  | brec (w : FmtM)
  /-- R212. Bounds check into a predicate. -/
  | bchk (w : FmtM)
  /-- R213. Probe the translation status of an element. -/
  | probe (w : FmtM)
  /-- R216. Rejoin an open split. -/
  | rjn (w : FmtY)
  /-- R239. Set compute banks to FILL or COMPUTE in queue order. -/
  | cmode (w : FmtC)
  /-- R240. Bind banks and a slot to a weight-set generation. -/
  | cbind (w : FmtC)
  /-- R242. Clear accumulators. -/
  | czero (w : FmtC)
  /-- R243. Multiply activations into accumulators at the named banks. -/
  | cmma (w : FmtC)
  /-- R243. Sparse CMMA over the blocks a stream lists. -/
  | cmmas (w : FmtC)
  /-- R244. Add register values into accumulators. -/
  | cacc (w : FmtC)
  /-- R245. Read accumulators into registers, optionally clearing them. -/
  | crd (w : FmtC)
  /-- R246. Exchange a working bank with a loaded bank. -/
  | cswp (w : FmtC)
  /-- R247. Read bank or slot state. -/
  | cstat (w : FmtC)
  /-- R241. Pin a slot's generation. -/
  | cpin (w : FmtC)
  /-- R241. Unpin and unbind a slot. -/
  | cunp (w : FmtC)
  /-- R263. Copy a tensor box from global memory into canvas STORE. -/
  | cpy (w : FmtC)
  /-- R257. Load weight tiles into FILL banks. -/
  | cpyw (w : FmtC)
  /-- R258. Multicast a box to team members. -/
  | cpymBox (w : FmtC)
  /-- R258. Multicast weight tiles to team members. -/
  | cpymTile (w : FmtC)
  /-- R259. Copy canvas bytes to another workgroup of the launch. -/
  | cpys (w : FmtC)
  /-- R263. Copy a box from canvas STORE to global memory. -/
  | cpyc (w : FmtC)
  /-- R267. Open a sparse stream. -/
  | sopn (w : FmtC)
  /-- R267. Advance a stream to a target position. -/
  | sadv (w : FmtC)
  /-- R267. Test whether a stream is not open. -/
  | stnd (w : FmtC)
  /-- R267. Close a stream. -/
  | scls (w : FmtC)
  /-- R267. Read a stream field. -/
  | sget (w : FmtC)
  /-- R133. Conditional branch, possibly predicted. -/
  | br (w : FmtJ)
  /-- R133. Uniform conditional branch. -/
  | bru (w : FmtJ)
  /-- R134. Indirect branch. -/
  | bri (w : FmtJ)
  /-- R134. Uniform indirect branch. -/
  | briu (w : FmtJ)
  /-- R135. Call, writing a link. -/
  | call (w : FmtJ)
  /-- R135. Indirect call. -/
  | calli (w : FmtJ)
  /-- R136. Return through a vector register. -/
  | ret (w : FmtY)
  /-- R137. Decrement a scalar counter and branch. -/
  | loop (w : FmtJ)
  /-- R138. End the active lanes. -/
  | exit (w : FmtY)
  /-- R139. No operation. -/
  | nop (w : FmtY)
  /-- R139. Yield the active place to a ready pending group. -/
  | yield (w : FmtY)
  /-- R139. Stop the gang for k × 256 clk. -/
  | sleep (w : FmtY)
  /-- R139. Breakpoint trap when a handler exists. -/
  | bkpt (w : FmtY)
  /-- R304. Initialise a phaser. -/
  | phini (w : FmtY)
  /-- R304. Register a signaler or waiter. -/
  | phreg (w : FmtY)
  /-- R304. Drop a registration, optionally arriving. -/
  | phdrp (w : FmtY)
  /-- R304. Arrive at a phaser. -/
  | pharr (w : FmtY)
  /-- R304. Wait for a phaser generation to change. -/
  | phwt (w : FmtY)
  /-- R304. Wait for a phaser's outbound count to reach zero. -/
  | phwtOut (w : FmtY)
  /-- R304. Arrive and wait for the phase. -/
  | phaw (w : FmtY)
  /-- R304. Add expected inbound bytes to a phaser. -/
  | phexp (w : FmtY)
  /-- R304. Read a phaser field. -/
  | phqry (w : FmtY)
  /-- R306. Workgroup barrier. -/
  | bar (w : FmtY)
  /-- R306. Team barrier. -/
  | bart (w : FmtY)
  /-- R306. Grid barrier in COOP launches. -/
  | bard (w : FmtY)
  /-- R310. Park until the named flags read zero. -/
  | waitf (w : FmtYX)
  /-- R300. Wait for the group's outstanding covered operations. -/
  | fence (w : FmtY)
  /-- R279. Start memory-side calls for the active lanes. -/
  | mcall (w : FmtYX)
  /-- R280. Park until rejoin-mask bits are set, then acquire. -/
  | waitj (w : FmtY)
  /-- R281. Set a rejoin mask. -/
  | jmskSet (w : FmtY)
  /-- R281. OR bits into a rejoin mask. -/
  | jmskOr (w : FmtY)
  /-- R281. Clear bits of a rejoin mask. -/
  | jmskClr (w : FmtY)
  /-- R281. Read a rejoin mask into a scalar. -/
  | jmskRd (w : FmtY)
  /-- R343. Take a SOFTWARE trap. -/
  | trap (w : FmtY)
  /-- R343. Return from a handler to RESUME. -/
  | rftRet (w : FmtY)
  /-- R343. Return from a handler and retry the trapping word. -/
  | rftRetry (w : FmtY)
  /-- R343. Return from a handler past the trapping word. -/
  | rftSkip (w : FmtY)
  /-- R106. Submit a launch record and receive its answer code. -/
  | launch (w : FmtY)
  /-- R107. Park until a tagged launch retires. -/
  | lwait (w : FmtY)
  /-- R108. Query a team member's locality. -/
  | qloc (w : FmtY)
  /-- R109. Query a team member's locality epoch. -/
  | qlep (w : FmtY)
  /-- R332. Cut a CHECKED interval. -/
  | cut (w : FmtY)
  /-- R290. Query spare budgets and the repair state. -/
  | qspr (w : FmtY)
  /-- R343. Invalidate the issuing core's instruction cache for the launch. -/
  | icinvCore (w : FmtY)
  /-- R343. Invalidate the instruction cache on every core of the launch. -/
  | icinvLaunch (w : FmtY)
  /-- R344. Inject a corrected register error. -/
  | erriRegc (w : FmtY)
  /-- R344. Poison a register slot. -/
  | erriRegu (w : FmtY)
  /-- R344. Inject a corrected canvas error. -/
  | erriCvc (w : FmtY)
  /-- R344. Poison a canvas ECC word. -/
  | erriCvu (w : FmtY)
  /-- R344. Corrupt an accumulator residue. -/
  | erriRes (w : FmtY)
  /-- R344. Force the next checked word to compare unequal. -/
  | erriClone (w : FmtY)
  /-- R271. Close the open row and open another. -/
  | ract (w : FmtR)
  /-- R271. Load a column into a rod vector register. -/
  | rldv (w : FmtR)
  /-- R271. Write a rod vector register to a column. -/
  | rwr (w : FmtR)
  /-- R271. Rod multiply-accumulate into ra. -/
  | rmac (w : FmtR)
  /-- R271. Rod add. -/
  | radd (w : FmtR)
  /-- R271. Rod multiply. -/
  | rmul (w : FmtR)
  /-- R271. Rod scale by an fp register. -/
  | rscl (w : FmtR)
  /-- R271. Rod compare into a mask. -/
  | rcmp (w : FmtR)
  /-- R271. Rod select by mask. -/
  | rsel (w : FmtR)
  /-- R271. Mask AND. -/
  | rmskAnd (w : FmtR)
  /-- R271. Mask OR. -/
  | rmskOr (w : FmtR)
  /-- R271. Mask A AND NOT B. -/
  | rmskAndn (w : FmtR)
  /-- R271. Load a mask from an fp register. -/
  | rmskLd (w : FmtR)
  /-- R271. Take the next stream position, or branch when the stream is not open. -/
  | rskp (w : FmtR)
  /-- R271. Round or sum accumulators into a vector register, optionally clearing them. -/
  | rsum (w : FmtR)
  /-- R271. Decrement a counter and branch, optionally incrementing another. -/
  | rloop (w : FmtR)
  /-- R271. Close rows and end the call. -/
  | rend (w : FmtR)
  /-- R274. Indexed reduction of page vectors to DST. -/
  | ired (w : FmtR)
  /-- R274. Cross-stack reduction of sources to DST. -/
  | xred (w : FmtR)
  /-- R274. Fill a page range with a 32-bit pattern. -/
  | fill (w : FmtR)
  /-- R21. Module power-good takes the management core out of reset; it runs the boot ROM, which starts training Trestle port 0. -/
  | powerGood
  /-- R20. Removing module power loses all device state, including memory, firmware, partitions, the remap table and the in-service repair maps. -/
  | powerOff
  /-- R21. Trestle port 0 finishes training and the ROM sends STATUS WAIT_IMAGE. -/
  | trestleLinkUp
  /-- R29. The companion hands the ROM a firmware image; the ROM checks the length and reads the image into boot SRAM. `State.arg`: msg the message. -/
  | imageLoad
  /-- R22. The image read completes; the ROM verifies both signatures, the fused minimum and the body hash, then replies DONE and starts the firmware, or replies BOOT_REJECTED and returns to WAIT_IMAGE. `State.arg`: ok whether the image could be read. -/
  | imageComplete
  /-- R21. Die and link training ends and the firmware starts training the 12 HBM4E stacks. -/
  | diesUp
  /-- R23. Stack training ends; a failing stack holds the device with STACK_FAILED, otherwise memory initialisation starts. `State.arg`: opt the failing stack, if any. -/
  | stacksTrained
  /-- R24. Every sector has been written zero with its check bytes, and the firmware sends STATUS WAIT_MAP. -/
  | memoryInitialised
  /-- R31. The companion returns the stored repair map; the firmware applies it or rejects it, then moves to step 8 and sends WAIT_CONFIG. `State.arg`: msg the message. -/
  | mapRestore
  /-- R32. The companion defines, redefines or deletes a partition from a 512-byte configuration block, with the checks that give BUSY or BAD_CONFIG. `State.arg`: msg the message. -/
  | partDefine
  /-- R33. The device writes a report signed by both identity keys over the nonce, firmware, map and partition hashes. `State.arg`: msg the message. -/
  | attest
  /-- R33. The device writes its serial and both identity public keys to a companion buffer. `State.arg`: msg the message. -/
  | deviceId
  /-- R34. The fused minimum security version is raised, or the request is refused BAD_CONFIG. `State.arg`: msg the message. -/
  | fuseMin
  /-- R34. Step 8 ends; with at least one partition defined the device replies DONE and sends STATUS READY. `State.arg`: msg the message. -/
  | configDone
  /-- R31. The companion confirms that it has stored the map durably; held repair and retirement reports are released and a new map may be written. `State.arg`: msg the message. -/
  | mapUpdateReply
  /-- R18. A die junction reaches 105 °C and the management core sends STATUS THERMAL; execution continues. `State.arg`: a the die, b the temperature. -/
  | thermalWarning
  /-- R18. A die junction reaches 118 °C, the hub trips module power and all device state is lost. -/
  | thermalTrip
  /-- R87. A Trestle launch message arrives; NOT_READY, the partition and the reserved bytes are checked before the request is handed to acceptance. `State.arg`: msg the message. -/
  | launchMessage
  /-- R85. The launch unit takes a partition's next request, reads and checks the record, image header and tables, and either queues the launch or refuses it. `State.arg`: a the part. -/
  | launchAccept
  /-- R96. The launch unit places or restores workgroups on cores in priority and index order: it copies the palette, clears the banks and starts the groups. `State.arg`: a the launch, b the core to start from, bytes the cores named, if any. -/
  | workgroupPlace
  /-- R138. A group with no live counted lane releases its resources once its flags read zero. `State.arg`: a the workgroup, b the group. -/
  | groupEnd
  /-- R361. Once all workgroups have retired and no detached operation remains, the status, detail and CVAL are written, dependants are released and the launch leaves its queue. `State.arg`: a the launch. -/
  | launchRetire
  /-- R38. The front end fetches a whole clause, checks its header by R37 and holds the first word until the WAIT flags read zero. `State.arg`: a the workgroup, b the group, c the quad. -/
  | clauseFetch
  /-- R111. A slot swaps an active group that is not ready for a ready pending group, chosen by R112. `State.arg`: a the core, b the slot. -/
  | activeSetExchange
  /-- R112. A pending group reaches age 256 clk, and the slot evicts its longest-active group to take it in. `State.arg`: a the core, b the slot. -/
  | schedulerRotate
  /-- R124. A predicted BR's predicates become available; lanes are committed, squashed or replayed, and the predictor is updated. `State.arg`: a the workgroup, b the group, c the quad. -/
  | branchResolve
  /-- R192. A load sector returns; the slots it completes are written, split quads may be released, and the flag falls when every slot is written. `State.arg`: a the workgroup, b the group, c the operation, d the sector. -/
  | sectorReturn
  /-- R292. A store is performed at memory and takes its place in T, and its word's flag falls when every byte is performed. `State.arg`: a the workgroup, b the group, c the operation, d the count. -/
  | storePerformed
  /-- R208. An atomic sequence is performed at the L2 unit or canvas bank, and returning atomics write their old values. `State.arg`: a the workgroup, b the group, c the operation. -/
  | atomicPerformed
  /-- R154. A long-latency lane word writes its destinations in every active lane, or meets its condition, and its flag falls. `State.arg`: a the workgroup, b the group, c the operation. -/
  | laneWordComplete
  /-- R318. The handler answers a FAULT; on RESOLVED the logged entries replay and held words are released, on REFUSED the refusal is recorded. `State.arg`: msg the message. -/
  | faultReply
  /-- R196. A refused fault is taken as PAGE_FAULT at the group's next word boundary, or the launch fails without a handler. `State.arg`: a the workgroup, b the group. -/
  | pageFaultTrap
  /-- R194. The companion asks that TLB entries over a range be dropped; the device replies DONE once no access uses them. `State.arg`: msg the message. -/
  | shootdown
  /-- R289. A class-0 message reads four entries of a partition's retired-page list. `State.arg`: msg the message. -/
  | retiredListRead
  /-- R229. A compute bank starts the next entry of its queue, including mode changes once the bank is idle. `State.arg`: a the workgroup, b the bank. -/
  | bankQueueEntry
  /-- R225. A bank finishes one k-block of a CMMA or CMMAS (an interrupt point); after the last block the word completes and its flag falls. `State.arg`: a the workgroup, b the bank. -/
  | kblockDone
  /-- R253. A registered copy begins moving bytes once no conflicting earlier lock remains. `State.arg`: a the copy. -/
  | copyStart
  /-- R250. A copy delivers a piece to its destination, live or saved, and updates the receiver's phaser INB. `State.arg`: a the copy, b the bytes. -/
  | copyDelivery
  /-- R250. A copy completes; its flag falls, its write locks are released and OUTB is decremented for CPYC. `State.arg`: a the copy. -/
  | copyComplete
  /-- R257. A tile read attempt ends; the CRC is checked and the bank becomes VALID, or the read moves to the next replica, or the bank ends INVALID. `State.arg`: a the copy. -/
  | tileAttemptEnd
  /-- R257. A tile read attempt passes its 100 µs limit and counts as MISSING. `State.arg`: a the copy. -/
  | tileReadTimeout
  /-- R287. A row reaches the corrected-sector count or an uncorrectable sector, and is copied to a spare row and retargeted. `State.arg`: a the stack, b the pseudo-channel, c the bank, d the row. -/
  | rowRepair
  /-- R287. A bank with no spare row left, or too many row repairs, starts being copied to the pseudo-channel's spare bank. `State.arg`: a the stack, b the pseudo-channel, c the bank. -/
  | bankRemap
  /-- R287. After at least 6 µs of ordinary traffic, the next 4 KiB piece of a bank remap is copied in its own window. `State.arg`: a the stack. -/
  | bankRemapPiece
  /-- R287. A TSV lane with corrected bytes in 8 rows is replaced by a spare lane, and the channel stalls for the window. `State.arg`: a the stack, b the channel, c the lane. -/
  | tsvSwap
  /-- R199. A repair window ends and the accesses and rods stalled by it resume. `State.arg`: a the stack. -/
  | repairWindowEnd
  /-- R277. A lane's call is read, translated, checked, locked and queued at the page's frame, or ended early with a status. `State.arg`: a the call. -/
  | mcallCallAccept
  /-- R278. A call's DST writes are performed or logged, then CST is written, the locks are released and the rejoin bit is set. `State.arg`: a the call. -/
  | callEnd
  /-- R272. A call runs for more than 100 ms of device time and ends TIMEOUT. `State.arg`: a the call. -/
  | callTimeout
  /-- R274. An XRED source stack delivers nothing for 100 µs; DST is poisoned and the call ends TIMEOUT. `State.arg`: a the call, b the stack. -/
  | xredSourceTimeout
  /-- R283. At a yield point with accesses waiting, rods save their state, precharge and serve waiting accesses, class 0 first. `State.arg`: a the call. -/
  | rodYield
  /-- R283. The yield window reaches 8 accesses or 320 ns, so no further class 1–3 access starts and the rod re-activates. `State.arg`: a the call. -/
  | yieldWindowLimit
  /-- R308. An arrival reaches a combining level of the BART or BARD tree, which sends it up or releases down. `State.arg`: a the launch, b the team's number plus 1 or 0 for BARD, c the level, d the die or hub. -/
  | barrierCombine
  /-- R139. A sleeping gang's wake time is reached and it becomes ready again. `State.arg`: a the workgroup, b the group, c the quad. -/
  | sleepWake
  /-- R131. An idle slot re-executes the oldest replay-queue entry and compares it with the committed result. `State.arg`: a the core, ok whether the compare agrees. -/
  | replayExecute
  /-- R131. The oldest replay entry reaches 1,500 clk and a slot gives up issue until it is compared. `State.arg`: a the core. -/
  | replayQueueAgeLimit
  /-- R329. 8,192 clk pass since a CHECKED interval opened, and a cut falls at the next word boundary. `State.arg`: a the workgroup. -/
  | intervalTimeLimit
  /-- R320. The launch unit pre-empts a workgroup; it stops at its pre-emption point and its save begins. `State.arg`: a the workgroup. -/
  | preempt
  /-- R322. The workgroup's image has been written, its location becomes the image and its core resources are freed. `State.arg`: a the workgroup. -/
  | saveComplete
  /-- R326. A saved image is copied back onto chosen cores, held pieces are passed on and the groups resume. `State.arg`: a the workgroup, b the core to start from, bytes the cores named, if any. -/
  | restore
  /-- R345. A 2^20-clk period of an error-rate monitor ends and the window moves on. -/
  | monitorPeriodEnd
  /-- R346. An event brings a core's error count to the threshold; the monitor clears, and a spare is chosen or the core is marked DEGRADED. `State.arg`: a the core. -/
  | thresholdCrossing
  /-- R351. Once the prepare words have finished, the evacuation pause starts, gangs stop and banks reach interrupt points. `State.arg`: a the core. -/
  | quiesce
  /-- R352. The drain ends and the core's state is copied region by region to the spare. `State.arg`: a the core. -/
  | transfer
  /-- R353. The remap entry, epoch, relocation counts, locks and routes change indivisibly, EVACUATED is sent and the groups resume at the spare. `State.arg`: a the core. -/
  | commit
  /-- R349. Every channel, frame and die has acknowledged the commit, and the source physical core leaves service. `State.arg`: a the core. -/
  | sourceOutOfService
  /-- R365. The companion starts streaming a virtual range of the partition to companion memory. `State.arg`: msg the message. -/
  | checkpoint
  /-- R366. The checkpoint stream finishes or meets an unmapped page, and the device replies. `State.arg`: a the part. -/
  | checkpointEnd
  /-- R369. A peer link trains and the peer advertises its incarnation number. `State.arg`: a the link, b the incarnation. -/
  | peerLinkUp
  /-- R370. A peer resets, powers down or loses its last link; it becomes LOST and its accesses in flight complete with PEER_LOST. `State.arg`: a the part, b the peer. -/
  | peerLoss
  /-- R371. A companion message with the currently advertised incarnation returns a LOST peer to UP. `State.arg`: msg the message. -/
  | peerUp
  /-- R297. A companion write reaches device memory through the hub directory and takes its place in T when performed, in arrival order within its traffic class. `State.arg`: a the physical address, bytes the data, msg the class. -/
  | companionWrite
  /-- R297. A companion read of device memory returns the value that T holds at the moment it is performed. `State.arg`: a the physical address, b the length, msg the class. -/
  | companionRead
  /-- R298. An access from a peer package to this package's memory arrives on a peer link and is performed here, taking a place in this package's order. `State.arg`: a the link, req the access, msg the class. -/
  | peerAccess
  /-- R370. A peer link fails while other links bound to the same PEERID remain, so traffic continues on the remaining links. `State.arg`: a the link. -/
  | peerLinkDown
  /-- R209. Every in-bounds lane's update of a RED has left the core for its L2 slice or entered the operand log, and the RED's flag falls. `State.arg`: a the workgroup, b the group, c the operation. -/
  | redAccepted
deriving DecidableEq, Repr

end Sys2Proof
end

