-- ==== Sys2Proof/Machine/Legal.lean ====
section
/-! DEFINITION. Which encodings are legal (R43-R64, and the encoding limits of each word's own rule): the
subcodes of R63 that an instruction meets by its encoding alone. -/
namespace Sys2Proof.Machine

/-- What an operand field may hold. -/
inductive FK where
  /-- The word does not use the field: zero, subcode 7. -/
  | zero
  /-- Integer operand of 32 or 64 bits, any code of R43 but a floating-point constant. -/
  | int (w : Nat)
  /-- The same without specials, as R261 lists for its 64-bit operands. -/
  | int64n
  /-- Uniform integer operand: no vector code and no lane-varying special. -/
  | uni (w : Nat)
  /-- Uniform 64-bit operand without specials (R237). -/
  | uni64n
  /-- Floating-point operand of a type, unpacked. -/
  | flt (ty : Nat)
  /-- Packed f16 or bf16, or a packed slot of smaller elements. -/
  | pk (ty : Nat)
  /-- A vector register that starts a run of `n` registers, aligned. -/
  | vec (n al : Nat)
  /-- A scalar register, or an even scalar pair (64). -/
  | sreg (w : Nat)
  /-- Vector or scalar register: a coordinate base (R261). -/
  | vs
  /-- An even register pair or a register of a multiple of 4: the data of .cas (R52). -/
  | pair
  /-- Scalar, integer constant or literal (R105). -/
  | nci
  /-- Register target: vector, scalar, integer constant or literal (R132). -/
  | tgt
  /-- Predicate operand field (R47). -/
  | pred
  /-- A selector or fixed code with the subcodes it meets. -/
  | sel (subs : List Nat)
deriving DecidableEq, Repr

/-- Kinds of destination (R47, R57). -/
inductive DK where
  | none
  | v (n al : Nat)
  | s (n : Nat)
  | p | b | q | j
deriving DecidableEq, Repr

/-- Operand code classes (R43). -/
def isVec (c : BitVec 8) : Bool := decide (c.toNat < 0x80)
def isScl (c : BitVec 8) : Bool := decide (0x80 ≤ c.toNat ∧ c.toNat < 0xC0)
def isIntConst (c : BitVec 8) : Bool := decide (0xC0 ≤ c.toNat ∧ c.toNat < 0xE0)
def isFltConst (c : BitVec 8) : Bool := decide (0xE0 ≤ c.toNat ∧ c.toNat < 0xF0)
def isSpecial (c : BitVec 8) : Bool := decide (0xF0 ≤ c.toNat ∧ c.toNat < 0xFE)
def isLaneSpecial (c : BitVec 8) : Bool := decide (0xF0 ≤ c.toNat ∧ c.toNat < 0xF3)
def isLit (c : BitVec 8) : Bool := c == 0xFF

/-- Limits of a run of `n` registers from a register code (R47), subcode 9. -/
def runSubs (vc : Nat) (c : BitVec 8) (n al : Nat) : List Nat :=
  if isVec c then (if c.toNat % al = 0 ∧ c.toNat + n ≤ vc then [] else [9])
  else if isScl c then (if (c.toNat - 0x80) % al = 0 ∧ c.toNat - 0x80 + n ≤ 64 then [] else [9])
  else []

/-- Registers of an operand of 32 or 64 bits. -/
def widthSubs (vc w : Nat) (c : BitVec 8) : List Nat := if w = 64 then runSubs vc c 2 2 else runSubs vc c 1 1

/-- Subcodes an operand field meets (R43-R47). -/
def fieldSubs (vc : Nat) (k : FK) (f : Fld) : List Nat :=
  let c := f.code
  match k with
  | .zero => if c = 0 then [] else [7]
  | .int w => (if isFltConst c ∨ c = 0xFE then [8] else []) ++ widthSubs vc w c
  | .int64n => (if isVec c ∨ isScl c ∨ isIntConst c ∨ isLit c then [] else [8]) ++ widthSubs vc 64 c
  | .uni w => if isVec c ∨ isLaneSpecial c ∨ isFltConst c ∨ c = 0xFE then [8] else widthSubs vc w c
  | .uni64n => if isScl c ∨ isIntConst c ∨ isLit c then widthSubs vc 64 c else [8]
  | .flt ty =>
    (if isSpecial c ∨ c = 0xFE then [8]
     else if 12 ≤ ty ∧ (isIntConst c ∨ isFltConst c) then [8]
     else if (ty = 8 ∨ ty = 9) ∧ isLit c ∧ 2 ^ 16 ≤ f.lit.toNat then [8] else [])
    ++ widthSubs vc (if ty = 11 then 64 else 32) c
  | .pk ty => (if isSpecial c ∨ c = 0xFE ∨ (12 ≤ ty ∧ (isIntConst c ∨ isFltConst c)) then [8] else []) ++ runSubs vc c 1 1
  | .vec n al => if isVec c then runSubs vc c n al else [8]
  | .sreg w => if isScl c then widthSubs vc w c else [8]
  | .vs => if isVec c ∨ isScl c then runSubs vc c 1 1 else [8]
  | .pair => if isVec c ∨ isScl c then runSubs vc c 2 2 else [8]
  | .nci => if isScl c ∨ isIntConst c ∨ isLit c then [] else [8]
  | .tgt => if isVec c ∨ isScl c ∨ isIntConst c ∨ isLit c then runSubs vc c 1 1 else [8]
  | .pred => if c.toNat < 16 then [] else [9]
  | .sel s => s

/-- Subcodes a destination field meets (R47, R56). -/
def dSubs (vc : Nat) (k : DK) (d : BitVec 7) : List Nat :=
  match k with
  | .none => if d = 0 then [] else [7]
  | .v n al => if d.toNat % al = 0 ∧ d.toNat + n ≤ vc then [] else [9]
  | .s n => if d.toNat % n = 0 ∧ d.toNat + n ≤ 64 then [] else [9]
  | .p => if d.toNat < 7 then [] else [9]
  | .b => if d.toNat < 16 then [] else [9]
  | .q => if d.toNat < 8 then [] else [9]
  | .j => if d.toNat < 8 then [] else [9]

def zero7 (b : Bool) : List Nat := if b then [7] else []
def bad10 (b : Bool) : List Nat := if b then [10] else []

/-- Format A words. -/
def aSubs (vc : Nat) (d : DK) (a b : FK) (w : FmtA) : List Nat :=
  dSubs vc d w.d ++ fieldSubs vc a w.a ++ fieldSubs vc b w.b

/-- What a word accepts in its extension (R50, R153). -/
structure AXOpt where
  types : List Nat
  /-- STYPE values, where the word has a source type. -/
  sty : Option (List Nat)
  rnd : Bool
  /-- Sources that NEG and ABS may act on, bit 0 for A. -/
  na : Nat
  sat : Bool
  wide : List Nat
  /-- Bits of MOD the word defines, and whether its value is listed. -/
  modUse : Nat
  modOk : Bool
  ll : Bool

/-- Format AX words: a zero STYPE, MOD or FS where the word defines none is subcode 7, a value the word
does not accept subcode 10. -/
def axSubs (vc : Nat) (d : DK) (a b c : FK) (o : AXOpt) (w : FmtAX) : List Nat :=
  dSubs vc d w.d ++ fieldSubs vc a w.a ++ fieldSubs vc b w.b ++ fieldSubs vc c w.c
  ++ bad10 (!o.types.contains w.ty.toNat)
  ++ (match o.sty with
      | none => zero7 (w.sty != 0)
      | some l => bad10 (!l.contains w.sty.toNat))
  ++ bad10 (!o.rnd && w.rnd != 0)
  ++ bad10 ((w.neg ||| w.abs) &&& ~~~(BitVec.ofNat 3 o.na) != 0)
  ++ bad10 (!o.sat && w.sat)
  ++ bad10 (w.wide && !o.wide.contains w.ty.toNat)
  ++ zero7 (w.md &&& ~~~(BitVec.ofNat 5 o.modUse) != 0)
  ++ bad10 (!o.modOk)
  ++ zero7 (!o.ll && w.fs)

/-- Destination of a lane word of a type, and operand kinds by TYPE. -/
def dTy (ty : BitVec 4) (wide : Bool) : DK := if tyPair ty.toNat || wide then .v 2 2 else .v 1 1
def dScl (ty : BitVec 4) (wide : Bool) : DK := if tyPair ty.toNat || wide then .s 2 else .s 1
def kTy (ty : BitVec 4) : FK := if tyInt ty.toNat then .int (if tyPair ty.toNat then 64 else 32) else .flt ty.toNat
def kU (ty : BitVec 4) : FK := .uni (if tyPair ty.toNat then 64 else 32)

/-- An SCL word whose guard is not 7 (R58). -/
def sclG (g : BitVec 3) : List Nat := if g = 7 then [] else [12]

/-- A view register that is not enabled (R71). -/
def viewOff (vw : List Word) (k : Nat) : Bool := !(vw.getD k 0).getLsbD 31
/-- Segment length, segments, stride and base of a view, and the bytes it covers (R71). -/
def viewSegLen (v : Word) : Nat := 4 * 2 ^ bitsOf v.toNat 27 25
def viewNseg (v : Word) : Nat := bitsOf v.toNat 24 18
def viewStride (v : Word) : Nat := bitsOf v.toNat 17 9
def viewBase (v : Word) : Nat := bitsOf v.toNat 8 0
def viewBytes (v : Word) : Nat := viewNseg v * viewSegLen v
/-- Window offset of view byte `j` (R71). -/
def viewOffset (v : Word) (j : Nat) : Nat := viewBase v + j / viewSegLen v * viewStride v + j % viewSegLen v

/-- B of MOVS (R165). -/
def movsSub (vw : List Word) (b : BitVec 8) : List Nat :=
  if b = 0 then [] else if 4 ≤ b.toNat ∧ b.toNat ≤ 7 then (if viewOff vw (b.toNat - 4) then [9] else []) else [8]

/-- Vector sources of FDOT4 by STYPE (R176). -/
def dot4K (sty : BitVec 4) : FK := if sty = 8 ∨ sty = 9 then .vec 2 2 else .vec 1 1

/-- Source of CVT: packed with .sN, else by STYPE (R177). -/
def cvtK (w : FmtAX) : FK :=
  if w.md.toNat / 8 = 2 then .pk w.sty.toNat else .flt w.sty.toNat

/-- Elements per slot of a packed type (R177). -/
def packN (ty : Nat) : Nat := match ty with | 8 => 2 | 9 => 2 | 12 => 4 | 13 => 4 | 15 => 4 | 14 => 8 | _ => 0

/-- MOD of CVT (R177). -/
def cvtModOk (w : FmtAX) : Bool :=
  match w.md.toNat / 8 with
  | 0 => w.md == 0
  | 2 => decide (w.md.toNat % 8 < packN w.sty.toNat)
  | 3 => decide (w.md.toNat % 8 < packN w.ty.toNat)
  | _ => false

/-- Rows and columns of TMV in the AX form (R180). -/
def tmvM (w : FmtAX) : Nat := w.c.code.toNat % 16 + 1
def tmvN (w : FmtAX) : Nat := w.md.toNat % 16 + 1

/-- What a MEM word accepts (R202); the SZ of a word that marks it 0 must be zero (R56). -/
structure MOpt where
  szs : List Nat
  buf : Bool
  nt : Bool
  spl : Bool
  sx : Bool
  ll : Bool
  /-- AOP values, where the word has an operation. -/
  atom : Option (List Nat)
  data : Bool

def aopAll : List Nat := [0, 1, 2, 3, 4, 5, 6, 7, 8, 9, 10, 11, 12, 13]
def aopNoCas : List Nat := [0, 1, 2, 3, 4, 5, 6, 7, 8, 10, 11, 12, 13]
def aopRed : List Nat := [0, 1, 2, 3, 4, 5, 6, 7, 10, 11, 12, 13]

/-- Sizes of an atomic operation (R52). -/
def aopSizes (aop : Nat) : List Nat := match aop with | 10 => [1, 2, 3] | 13 => [1] | _ => [2, 3]

/-- Destination and data by SZ (R47, R52, R202). -/
def dSz (sz : BitVec 3) : DK := match sz.toNat with | 3 => .v 2 2 | 4 => .v 4 4 | _ => .v 1 1
/-- DATA: for .cas a register (R52, log 103); else an integer operand of the width, in float forms too (log 117). -/
def dataK (atom : Bool) (w : FmtM) : FK :=
  if atom && w.aop == 9 then (if w.sz = 3 then .vec 4 4 else .pair)
  else match w.sz.toNat with | 3 => .int 64 | 4 => .vec 4 4 | _ => .int 32

/-- Format M words (R52, R202). -/
def mSubs (vc : Nat) (d : DK) (idx : FK) (o : MOpt) (w : FmtM) : List Nat :=
  dSubs vc d w.d ++ fieldSubs vc idx w.idx
  ++ fieldSubs vc (if o.data then dataK o.atom.isSome w else .zero) w.data
  ++ zero7 (!o.buf && w.buf != 0) ++ zero7 (!o.nt && w.nt) ++ zero7 (!o.spl && w.spl)
  ++ zero7 (!o.sx && w.sx) ++ zero7 (!o.ll && w.fs)
  ++ (if o.szs = [0] then zero7 (w.sz != 0) else bad10 (!o.szs.contains w.sz.toNat))
  ++ bad10 (o.sx && w.sx && decide (1 < w.sz.toNat))
  ++ (match o.atom with
      | none => zero7 (w.aop != 0)
      | some l => bad10 (!l.contains w.aop.toNat || !(aopSizes w.aop.toNat).contains w.sz.toNat))

/-- K fields of formats Y and YX. -/
def kZero (k : BitVec 8) : List Nat := if k = 0 then [] else [7]
def kMbz (m : Nat) (k : BitVec 8) : List Nat := if k &&& BitVec.ofNat 8 m = 0 then [] else [7]
def ySubs (vc : Nat) (d : DK) (a : FK) (k : List Nat) (w : FmtY) : List Nat :=
  dSubs vc d w.d ++ fieldSubs vc a w.a ++ k
def yxSubs (vc : Nat) (d : DK) (a : FK) (k : List Nat) (w : FmtYX) : List Nat :=
  dSubs vc d w.d ++ fieldSubs vc a w.a ++ k

/-- Format J words (R54, R132). -/
def jSubs (vc : Nat) (d : DK) (a : FK) (cp tgt : Bool) (w : FmtJ) : List Nat :=
  dSubs vc d w.d ++ fieldSubs vc a w.a ++ zero7 (!cp && w.cp != 7) ++ zero7 (!tgt && w.tgt != 0)

/-- Format C words (R53, R237, R261, R266): `vw` the word uses a view; `q` 0 no stream, 1 a stream that
QEN must name, 2 CMMA, whose QEN must be 0; `md` the subcodes of MOD. -/
def cSubs (vc : Nat) (d : DK) (a b c e : FK) (vw : Bool) (q : Nat) (ll : Bool) (md : List Nat) (w : FmtC) : List Nat :=
  dSubs vc d w.d ++ fieldSubs vc a w.a ++ fieldSubs vc b w.b ++ fieldSubs vc c w.c ++ fieldSubs vc e w.e
  ++ zero7 (!vw && w.vw != 0) ++ zero7 (!ll && w.fs) ++ md
  ++ (match q with
      | 0 => zero7 (w.qen || w.q != 0)
      | 1 => bad10 (!w.qen)
      | _ => bad10 w.qen ++ zero7 (!w.qen && w.q != 0))

/-- MOD where the word marks it 0, and where it lists values (R56, R63, R237, R261, R266). -/
def mod0 (w : FmtC) : List Nat := zero7 (w.md != 0)
def modIf (ok : Bool) : List Nat := bad10 (!ok)

/-- Activation formats with K (R224, R243). -/
def cmmaModOk (w : FmtC) : Bool := decide (w.md.toNat < 8 ∧ w.md.toNat % 4 < 3 ∧ w.md.toNat ≠ 2)
/-- Scale registers of CMMA: one for k128, two for k256 (R224). -/
def cmmaK (w : FmtC) : FK := if w.md.getLsbD 2 then .vec 2 1 else .vec 1 1
/-- View bytes of CMMA (R224). -/
def cmmaBytes (w : FmtC) : Nat := if w.md.getLsbD 2 && w.md.toNat % 4 != 2 then 256 else 128
def cmmaView (vw : List Word) (w : FmtC) : List Nat :=
  let v := vw.getD w.vw.toNat 0
  if viewOff vw w.vw.toNat ∨ viewBytes v < cmmaBytes w then [9] else []

/-- E of a copy word: a phaser offset with PH, else unused (R261). -/
def phK (w : FmtC) : FK := if w.md.getLsbD 0 then .int 32 else .zero

/-- Assigned system registers (R185, R316). -/
def sysRegOk (n : Nat) : Bool :=
  decide (n ≤ 0x0B ∨ n = 0x10 ∨ n = 0x20 ∨ n = 0x21 ∨ (0x100 ≤ n ∧ n ≤ 0x10B) ∨ (0x110 ≤ n ∧ n ≤ 0x16F))

/-- The 32 bits of a frame word after OP (R270). -/
def rodBits (w : FmtR) : BitVec 32 := (0#5) ++ w.d ++ w.a ++ w.b ++ w.m ++ w.t ++ w.imm

/-- The subcodes of R63 an instruction meets by its encoding, in a kernel with `vc` declared registers and
the views `vw`; none for a legal one. The rows that are no clause words have no encoding. -/
def subcodes (vc : Nat) (vw : List Word) (i : Instr) : List Nat :=
  match i with
  | .powerGood => []
  | .powerOff => []
  | .trestleLinkUp => []
  | .imageLoad => []
  | .imageComplete => []
  | .diesUp => []
  | .stacksTrained => []
  | .memoryInitialised => []
  | .mapRestore => []
  | .partDefine => []
  | .attest => []
  | .deviceId => []
  | .fuseMin => []
  | .configDone => []
  | .mapUpdateReply => []
  | .thermalWarning => []
  | .thermalTrip => []
  | .launchMessage => []
  | .launchAccept => []
  | .workgroupPlace => []
  | .groupEnd => []
  | .launchRetire => []
  | .clauseFetch => []
  | .activeSetExchange => []
  | .schedulerRotate => []
  | .branchResolve => []
  | .sectorReturn => []
  | .storePerformed => []
  | .atomicPerformed => []
  | .laneWordComplete => []
  | .faultReply => []
  | .pageFaultTrap => []
  | .shootdown => []
  | .retiredListRead => []
  | .bankQueueEntry => []
  | .kblockDone => []
  | .copyStart => []
  | .copyDelivery => []
  | .copyComplete => []
  | .tileAttemptEnd => []
  | .tileReadTimeout => []
  | .rowRepair => []
  | .bankRemap => []
  | .bankRemapPiece => []
  | .tsvSwap => []
  | .repairWindowEnd => []
  | .mcallCallAccept => []
  | .callEnd => []
  | .callTimeout => []
  | .xredSourceTimeout => []
  | .rodYield => []
  | .yieldWindowLimit => []
  | .barrierCombine => []
  | .sleepWake => []
  | .replayExecute => []
  | .replayQueueAgeLimit => []
  | .intervalTimeLimit => []
  | .preempt => []
  | .saveComplete => []
  | .restore => []
  | .monitorPeriodEnd => []
  | .thresholdCrossing => []
  | .quiesce => []
  | .transfer => []
  | .commit => []
  | .sourceOutOfService => []
  | .checkpoint => []
  | .checkpointEnd => []
  | .peerLinkUp => []
  | .peerLoss => []
  | .peerUp => []
  | .iadd w => axSubs vc (dTy w.ty false) (kTy w.ty) (kTy w.ty) (.zero) ({ types := [0, 1, 2, 3, 4, 5, 6, 7], sty := none, rnd := false, na := 0, sat := true, wide := [], modUse := 0, modOk := true, ll := false }) w
  | .iaddc w => axSubs vc (dTy w.ty false) (kTy w.ty) (kTy w.ty) (.pred) ({ types := [2, 3, 6, 7], sty := none, rnd := false, na := 0, sat := false, wide := [], modUse := 7, modOk := true, ll := false }) w
  | .isub w => axSubs vc (dTy w.ty false) (kTy w.ty) (kTy w.ty) (.zero) ({ types := [0, 1, 2, 3, 4, 5, 6, 7], sty := none, rnd := false, na := 0, sat := true, wide := [], modUse := 0, modOk := true, ll := false }) w
  | .isubb w => axSubs vc (dTy w.ty false) (kTy w.ty) (kTy w.ty) (.pred) ({ types := [2, 3, 6, 7], sty := none, rnd := false, na := 0, sat := false, wide := [], modUse := 7, modOk := true, ll := false }) w
  | .imul w => axSubs vc (dTy w.ty w.wide) (kTy w.ty) (kTy w.ty) (.zero) ({ types := [0, 1, 2, 3, 4, 5, 6, 7], sty := none, rnd := false, na := 0, sat := !w.wide, wide := [2, 6], modUse := 0, modOk := true, ll := false }) w
  | .imulh w => axSubs vc (dTy w.ty false) (kTy w.ty) (kTy w.ty) (.zero) ({ types := [0, 1, 2, 3, 4, 5, 6, 7], sty := none, rnd := false, na := 0, sat := false, wide := [], modUse := 0, modOk := true, ll := false }) w
  | .imad w => axSubs vc (dTy w.ty w.wide) (kTy w.ty) (kTy w.ty) (if w.wide then .int 64 else kTy w.ty) ({ types := [0, 1, 2, 3, 4, 5, 6, 7], sty := none, rnd := false, na := 0, sat := !w.wide, wide := [2, 6], modUse := 0, modOk := true, ll := false }) w
  | .idiv w => axSubs vc (dTy w.ty false) (kTy w.ty) (kTy w.ty) (.zero) ({ types := [0, 1, 2, 3, 4, 5, 6, 7], sty := none, rnd := false, na := 0, sat := true, wide := [], modUse := 0, modOk := true, ll := true }) w
  | .irem w => axSubs vc (dTy w.ty false) (kTy w.ty) (kTy w.ty) (.zero) ({ types := [0, 1, 2, 3, 4, 5, 6, 7], sty := none, rnd := false, na := 0, sat := false, wide := [], modUse := 0, modOk := true, ll := true }) w
  | .imin w => axSubs vc (dTy w.ty false) (kTy w.ty) (kTy w.ty) (.zero) ({ types := [0, 1, 2, 3, 4, 5, 6, 7], sty := none, rnd := false, na := 0, sat := false, wide := [], modUse := 0, modOk := true, ll := false }) w
  | .imax w => axSubs vc (dTy w.ty false) (kTy w.ty) (kTy w.ty) (.zero) ({ types := [0, 1, 2, 3, 4, 5, 6, 7], sty := none, rnd := false, na := 0, sat := false, wide := [], modUse := 0, modOk := true, ll := false }) w
  | .iabs w => axSubs vc (dTy w.ty false) (kTy w.ty) (.zero) (.zero) ({ types := [0, 1, 2, 3], sty := none, rnd := false, na := 0, sat := true, wide := [], modUse := 0, modOk := true, ll := false }) w
  | .ineg w => axSubs vc (dTy w.ty false) (kTy w.ty) (.zero) (.zero) ({ types := [0, 1, 2, 3], sty := none, rnd := false, na := 0, sat := true, wide := [], modUse := 0, modOk := true, ll := false }) w
  | .and w => aSubs vc (.v 1 1) (.int 32) (.int 32) w
  | .or w => aSubs vc (.v 1 1) (.int 32) (.int 32) w
  | .xor w => aSubs vc (.v 1 1) (.int 32) (.int 32) w
  | .andn w => aSubs vc (.v 1 1) (.int 32) (.int 32) w
  | .not w => aSubs vc (.v 1 1) (.int 32) (.zero) w
  | .shl w => axSubs vc (dTy w.ty false) (kTy w.ty) (.int 32) (.zero) ({ types := [2, 3, 6, 7], sty := none, rnd := false, na := 0, sat := false, wide := [], modUse := 0, modOk := true, ll := false }) w
  | .shr w => axSubs vc (dTy w.ty false) (kTy w.ty) (.int 32) (.zero) ({ types := [2, 3, 6, 7], sty := none, rnd := false, na := 0, sat := false, wide := [], modUse := 0, modOk := true, ll := false }) w
  | .sar w => axSubs vc (dTy w.ty false) (kTy w.ty) (.int 32) (.zero) ({ types := [2, 3, 6, 7], sty := none, rnd := false, na := 0, sat := false, wide := [], modUse := 0, modOk := true, ll := false }) w
  | .rol w => aSubs vc (.v 1 1) (.int 32) (.int 32) w
  | .popc w => aSubs vc (.v 1 1) (.int 32) (.zero) w
  | .clz w => aSubs vc (.v 1 1) (.int 32) (.zero) w
  | .ctz w => aSubs vc (.v 1 1) (.int 32) (.zero) w
  | .brev w => aSubs vc (.v 1 1) (.int 32) (.zero) w
  | .bfx w => axSubs vc (dTy w.ty false) (kTy w.ty) (.int 32) (.zero) ({ types := [2, 3, 6, 7], sty := none, rnd := false, na := 0, sat := false, wide := [], modUse := 0, modOk := true, ll := false }) w
  | .bfi w => axSubs vc (dTy w.ty false) (kTy w.ty) (.int 32) (kTy w.ty) ({ types := [6, 7], sty := none, rnd := false, na := 0, sat := false, wide := [], modUse := 0, modOk := true, ll := false }) w
  | .bmix w => axSubs vc (.v 1 1) (.int 32) (.int 32) (.int 32) ({ types := [6], sty := none, rnd := false, na := 0, sat := false, wide := [], modUse := 0, modOk := true, ll := false }) w
  | .isat w => axSubs vc (dTy w.ty false) (if w.md.getLsbD 1 then .int 64 else .int 32) (.zero) (.zero) ({ types := [0, 1, 2, 3, 4, 5, 6, 7], sty := none, rnd := false, na := 0, sat := false, wide := [], modUse := 3, modOk := true, ll := false }) w
  | .vcmp w => axSubs vc (.p) (kTy w.ty) (kTy w.ty) (.zero) ({ types := [0, 1, 2, 3, 4, 5, 6, 7], sty := none, rnd := false, na := 0, sat := false, wide := [], modUse := 31, modOk := decide (w.md.toNat < 6), ll := false }) w
  | .vsel w => axSubs vc (dTy w.ty false) (kTy w.ty) (kTy w.ty) (.pred) ({ types := [6, 7], sty := none, rnd := false, na := 0, sat := false, wide := [], modUse := 0, modOk := true, ll := false }) w
  | .pand w => aSubs vc (.p) (.pred) (.pred) w
  | .por w => aSubs vc (.p) (.pred) (.pred) w
  | .pxor w => aSubs vc (.p) (.pred) (.pred) w
  | .pnot w => aSubs vc (.p) (.pred) (.zero) w
  | .pmov w => aSubs vc (.p) (.pred) (.zero) w
  | .pany w => aSubs vc (.p) (.pred) (.zero) w
  | .pall w => aSubs vc (.p) (.pred) (.zero) w
  | .pcnt w => aSubs vc (.v 1 1) (.pred) (.zero) w
  | .pset w => aSubs vc (.p) (.int 32) (.zero) w
  | .mov w => aSubs vc (.v 1 1) (.int 32) (.zero) w
  | .movi w => dSubs vc (.v 1 1) w.d
  | .movs w => aSubs vc (.v 1 1) (.int 32) (.sel (movsSub vw w.b.code)) w
  | .rdln w => aSubs vc (.v 1 1) (.vec 1 1) (.int 32) w
  | .wrln w => aSubs vc (.v 1 1) (.vec 1 1) (.int 32) w
  | .qswp w => aSubs vc (.v 1 1) (.vec 1 1) (.sel (if 0xC1 ≤ w.b.code.toNat ∧ w.b.code.toNat ≤ 0xC3 then [] else [8])) w
  | .qbc w => aSubs vc (.v 1 1) (.vec 1 1) (.uni 32) w
  | .gshf w => aSubs vc (.v 1 1) (.vec 1 1) (.uni 32) w
  | .gbc w => aSubs vc (.v 1 1) (.vec 1 1) (.uni 32) w
  | .gred w => axSubs vc (dTy w.ty false) (kTy w.ty) (.zero) (.zero) ({ types := if w.md.toNat < 3 then [2, 3, 6, 7, 10, 11] else [2, 3, 6, 7], sty := none, rnd := !tyInt w.ty.toNat, na := if tyInt w.ty.toNat then 0 else 1, sat := false, wide := [], modUse := 31, modOk := decide (w.md.toNat < 6), ll := false }) w
  | .gscn w => axSubs vc (dTy w.ty false) (kTy w.ty) (.zero) (.zero) ({ types := if w.md.toNat < 3 then [2, 3, 6, 7, 10, 11] else [2, 3, 6, 7], sty := none, rnd := !tyInt w.ty.toNat, na := if tyInt w.ty.toNat then 0 else 1, sat := false, wide := [], modUse := 31, modOk := decide (w.md.toNat < 6), ll := false }) w
  | .ballot w => aSubs vc (.v 1 1) (.pred) (.zero) w
  | .fadd w => aSubs vc (.v 1 1) (.flt 10) (.flt 10) w
  | .faddAx w => axSubs vc (dTy w.ty false) (kTy w.ty) (kTy w.ty) (.zero) ({ types := [8, 9, 10, 11], sty := none, rnd := true, na := 3, sat := true, wide := [], modUse := 0, modOk := true, ll := false }) w
  | .fmul w => aSubs vc (.v 1 1) (.flt 10) (.flt 10) w
  | .fmulAx w => axSubs vc (dTy w.ty w.wide) (kTy w.ty) (kTy w.ty) (.zero) ({ types := [8, 9, 10, 11], sty := none, rnd := true, na := 3, sat := true, wide := [10], modUse := 0, modOk := true, ll := false }) w
  | .ffma w => axSubs vc (dTy w.ty w.wide) (kTy w.ty) (kTy w.ty) (if w.wide then .flt 11 else kTy w.ty) ({ types := [8, 9, 10, 11], sty := none, rnd := true, na := 7, sat := true, wide := [10], modUse := 0, modOk := true, ll := false }) w
  | .fmin w => aSubs vc (.v 1 1) (.flt 10) (.flt 10) w
  | .fminAx w => axSubs vc (dTy w.ty false) (kTy w.ty) (kTy w.ty) (.zero) ({ types := [8, 9, 10, 11], sty := none, rnd := false, na := 3, sat := true, wide := [], modUse := 0, modOk := true, ll := false }) w
  | .fmax w => aSubs vc (.v 1 1) (.flt 10) (.flt 10) w
  | .fmaxAx w => axSubs vc (dTy w.ty false) (kTy w.ty) (kTy w.ty) (.zero) ({ types := [8, 9, 10, 11], sty := none, rnd := false, na := 3, sat := true, wide := [], modUse := 0, modOk := true, ll := false }) w
  | .fdiv w => aSubs vc (.v 1 1) (.flt 10) (.flt 10) w
  | .fdivAx w => axSubs vc (dTy w.ty false) (kTy w.ty) (kTy w.ty) (.zero) ({ types := [8, 9, 10, 11], sty := none, rnd := true, na := 3, sat := true, wide := [], modUse := 0, modOk := true, ll := true }) w
  | .frcp w => aSubs vc (.v 1 1) (.flt 10) (.zero) w
  | .frcpAx w => axSubs vc (dTy w.ty false) (kTy w.ty) (.zero) (.zero) ({ types := [8, 9, 10, 11], sty := none, rnd := true, na := 1, sat := true, wide := [], modUse := 0, modOk := true, ll := true }) w
  | .frsq w => aSubs vc (.v 1 1) (.flt 10) (.zero) w
  | .frsqAx w => axSubs vc (dTy w.ty false) (kTy w.ty) (.zero) (.zero) ({ types := [8, 9, 10, 11], sty := none, rnd := true, na := 1, sat := true, wide := [], modUse := 0, modOk := true, ll := true }) w
  | .fsqrt w => aSubs vc (.v 1 1) (.flt 10) (.zero) w
  | .fsqrtAx w => axSubs vc (dTy w.ty false) (kTy w.ty) (.zero) (.zero) ({ types := [8, 9, 10, 11], sty := none, rnd := true, na := 1, sat := true, wide := [], modUse := 0, modOk := true, ll := true }) w
  | .fexp2 w => aSubs vc (.v 1 1) (.flt 10) (.zero) w
  | .fexp2Ax w => axSubs vc (dTy w.ty false) (kTy w.ty) (.zero) (.zero) ({ types := [8, 9, 10], sty := none, rnd := false, na := 1, sat := true, wide := [], modUse := 0, modOk := true, ll := true }) w
  | .flog2 w => aSubs vc (.v 1 1) (.flt 10) (.zero) w
  | .flog2Ax w => axSubs vc (dTy w.ty false) (kTy w.ty) (.zero) (.zero) ({ types := [8, 9, 10], sty := none, rnd := false, na := 1, sat := true, wide := [], modUse := 0, modOk := true, ll := true }) w
  | .fsin w => aSubs vc (.v 1 1) (.flt 10) (.zero) w
  | .fsinAx w => axSubs vc (dTy w.ty false) (kTy w.ty) (.zero) (.zero) ({ types := [8, 9, 10], sty := none, rnd := false, na := 1, sat := true, wide := [], modUse := 0, modOk := true, ll := true }) w
  | .fcos w => aSubs vc (.v 1 1) (.flt 10) (.zero) w
  | .fcosAx w => axSubs vc (dTy w.ty false) (kTy w.ty) (.zero) (.zero) ({ types := [8, 9, 10], sty := none, rnd := false, na := 1, sat := true, wide := [], modUse := 0, modOk := true, ll := true }) w
  | .ftanh w => aSubs vc (.v 1 1) (.flt 10) (.zero) w
  | .ftanhAx w => axSubs vc (dTy w.ty false) (kTy w.ty) (.zero) (.zero) ({ types := [8, 9, 10], sty := none, rnd := false, na := 1, sat := true, wide := [], modUse := 0, modOk := true, ll := true }) w
  | .frnd w => aSubs vc (.v 1 1) (.flt 10) (.zero) w
  | .frndAx w => axSubs vc (dTy w.ty false) (kTy w.ty) (.zero) (.zero) ({ types := [8, 9, 10, 11], sty := none, rnd := true, na := 1, sat := false, wide := [], modUse := 0, modOk := true, ll := false }) w
  | .fscl w => aSubs vc (.v 1 1) (.flt 10) (.int 32) w
  | .fsclAx w => axSubs vc (dTy w.ty false) (kTy w.ty) (.int 32) (.zero) ({ types := [8, 9, 10, 11], sty := none, rnd := true, na := 1, sat := false, wide := [], modUse := 0, modOk := true, ll := false }) w
  | .fxtr w => aSubs vc (.v 1 1) (.flt 10) (.zero) w
  | .fxtrAx w => axSubs vc (if w.md.toNat = 0 then .v 1 1 else dTy w.ty false) (kTy w.ty) (.zero) (.zero) ({ types := [8, 9, 10, 11], sty := none, rnd := false, na := 1, sat := false, wide := [], modUse := 31, modOk := decide (w.md.toNat < 2), ll := false }) w
  | .fcls w => aSubs vc (.p) (.flt 10) (.int 32) w
  | .fclsAx w => axSubs vc (.p) (kTy w.ty) (.int 32) (.zero) ({ types := [8, 9, 10, 11], sty := none, rnd := false, na := 1, sat := false, wide := [], modUse := 0, modOk := true, ll := false }) w
  | .fcmp w => axSubs vc (.p) (kTy w.ty) (kTy w.ty) (.zero) ({ types := [8, 9, 10, 11], sty := none, rnd := false, na := 3, sat := false, wide := [], modUse := 31, modOk := decide (w.md.toNat < 8), ll := false }) w
  | .padd w => aSubs vc (.v 1 1) (.pk 8) (.pk 8) w
  | .paddAx w => axSubs vc (.v 1 1) (.pk w.ty.toNat) (.pk w.ty.toNat) (.zero) ({ types := [8, 9], sty := none, rnd := true, na := 3, sat := true, wide := [], modUse := 0, modOk := true, ll := false }) w
  | .pmul w => aSubs vc (.v 1 1) (.pk 8) (.pk 8) w
  | .pmulAx w => axSubs vc (.v 1 1) (.pk w.ty.toNat) (.pk w.ty.toNat) (.zero) ({ types := [8, 9], sty := none, rnd := true, na := 3, sat := true, wide := [], modUse := 0, modOk := true, ll := false }) w
  | .pfma w => axSubs vc (.v 1 1) (.pk w.ty.toNat) (.pk w.ty.toNat) (.pk w.ty.toNat) ({ types := [8, 9], sty := none, rnd := true, na := 7, sat := true, wide := [], modUse := 0, modOk := true, ll := false }) w
  | .fdot4 w => axSubs vc (.v 1 1) (dot4K w.sty) (dot4K w.sty) (.flt 10) ({ types := [10], sty := (some [8, 9, 12, 13]), rnd := true, na := 7, sat := true, wide := [], modUse := 0, modOk := true, ll := false }) w
  | .cvt w => axSubs vc (dTy w.ty false) (cvtK w) (.zero) (.zero) ({ types := [8, 9, 10, 11, 12, 13, 14, 15], sty := (some [8, 9, 10, 11, 12, 13, 14, 15]), rnd := true, na := 1, sat := true, wide := [], modUse := 31, modOk := cvtModOk w, ll := false }) w
  | .cvti w => axSubs vc (dTy w.ty false) (kTy w.sty) (.zero) (.zero) ({ types := [0, 1, 2, 3, 4, 5, 6, 7, 8, 9, 10, 11], sty := some (if tyInt w.ty.toNat then [8, 9, 10, 11] else [0, 1, 2, 3, 4, 5, 6, 7]), rnd := true, na := if tyInt w.sty.toNat then 0 else 1, sat := false, wide := [], modUse := 0, modOk := true, ll := false }) w
  | .cvtm w => axSubs vc (if w.ty.toNat = 14 then .v 5 4 else .v 9 4) (if w.sty.toNat = 10 then .vec 32 4 else .vec 16 4) (.zero) (.zero) ({ types := [0, 12, 14], sty := (some [8, 9, 10]), rnd := true, na := 0, sat := false, wide := [], modUse := 0, modOk := true, ll := false }) w
  | .tmv w => aSubs vc (.v 16 1) (.vec 8 1) (.int 32) w
  | .tmvAx w => axSubs vc (.v (tmvM w) 1) (.vec (if w.ty.toNat = 10 then tmvN w else (tmvN w + 1) / 2) 1) (.int 32) (.sel (if w.c.code.toNat < 16 then [] else [7])) ({ types := [8, 9, 10], sty := none, rnd := false, na := 0, sat := false, wide := [], modUse := 15, modOk := true, ll := true }) w
  | .sadd w => aSubs vc (.s 1) (.uni 32) (.uni 32) w ++ sclG w.g
  | .saddAx w => axSubs vc (dScl w.ty false) (kU w.ty) (kU w.ty) (.zero) ({ types := [2, 3, 6, 7], sty := none, rnd := false, na := 0, sat := true, wide := [], modUse := 0, modOk := true, ll := false }) w ++ sclG w.g
  | .ssub w => aSubs vc (.s 1) (.uni 32) (.uni 32) w ++ sclG w.g
  | .ssubAx w => axSubs vc (dScl w.ty false) (kU w.ty) (kU w.ty) (.zero) ({ types := [2, 3, 6, 7], sty := none, rnd := false, na := 0, sat := true, wide := [], modUse := 0, modOk := true, ll := false }) w ++ sclG w.g
  | .smul w => aSubs vc (.s 1) (.uni 32) (.uni 32) w ++ sclG w.g
  | .smulAx w => axSubs vc (dScl w.ty w.wide) (kU w.ty) (kU w.ty) (.zero) ({ types := [2, 3, 6, 7], sty := none, rnd := false, na := 0, sat := !w.wide, wide := [2, 6], modUse := 0, modOk := true, ll := false }) w ++ sclG w.g
  | .sand w => aSubs vc (.s 1) (.uni 32) (.uni 32) w ++ sclG w.g
  | .sor w => aSubs vc (.s 1) (.uni 32) (.uni 32) w ++ sclG w.g
  | .sxor w => aSubs vc (.s 1) (.uni 32) (.uni 32) w ++ sclG w.g
  | .sshl w => aSubs vc (.s 1) (.uni 32) (.uni 32) w ++ sclG w.g
  | .sshlAx w => axSubs vc (dScl w.ty false) (kU w.ty) (.uni 32) (.zero) ({ types := [2, 3, 6, 7], sty := none, rnd := false, na := 0, sat := false, wide := [], modUse := 0, modOk := true, ll := false }) w ++ sclG w.g
  | .sshr w => aSubs vc (.s 1) (.uni 32) (.uni 32) w ++ sclG w.g
  | .sshrAx w => axSubs vc (dScl w.ty false) (kU w.ty) (.uni 32) (.zero) ({ types := [2, 3, 6, 7], sty := none, rnd := false, na := 0, sat := false, wide := [], modUse := 0, modOk := true, ll := false }) w ++ sclG w.g
  | .ssar w => aSubs vc (.s 1) (.uni 32) (.uni 32) w ++ sclG w.g
  | .ssarAx w => axSubs vc (dScl w.ty false) (kU w.ty) (.uni 32) (.zero) ({ types := [2, 3, 6, 7], sty := none, rnd := false, na := 0, sat := false, wide := [], modUse := 0, modOk := true, ll := false }) w ++ sclG w.g
  | .scmp w => axSubs vc (.s 1) (kU w.ty) (kU w.ty) (.zero) ({ types := [2, 3, 6, 7], sty := none, rnd := false, na := 0, sat := false, wide := [], modUse := 31, modOk := decide (w.md.toNat < 6), ll := false }) w ++ sclG w.g
  | .smov w => aSubs vc (.s 1) (.uni 32) (.zero) w ++ sclG w.g
  | .smovAx w => axSubs vc (dScl w.ty false) (kU w.ty) (.zero) (.zero) ({ types := [2, 3, 6, 7], sty := none, rnd := false, na := 0, sat := false, wide := [], modUse := 0, modOk := true, ll := false }) w ++ sclG w.g
  | .smovi w => dSubs vc (.s 1) w.d ++ sclG w.g
  | .ssel w => axSubs vc (dScl w.ty false) (kU w.ty) (kU w.ty) (.uni 32) ({ types := [6, 7], sty := none, rnd := false, na := 0, sat := false, wide := [], modUse := 0, modOk := true, ll := false }) w ++ sclG w.g
  | .smin w => aSubs vc (.s 1) (.uni 32) (.uni 32) w ++ sclG w.g
  | .sminAx w => axSubs vc (dScl w.ty false) (kU w.ty) (kU w.ty) (.zero) ({ types := [2, 3, 6, 7], sty := none, rnd := false, na := 0, sat := false, wide := [], modUse := 0, modOk := true, ll := false }) w ++ sclG w.g
  | .smax w => aSubs vc (.s 1) (.uni 32) (.uni 32) w ++ sclG w.g
  | .smaxAx w => axSubs vc (dScl w.ty false) (kU w.ty) (kU w.ty) (.zero) ({ types := [2, 3, 6, 7], sty := none, rnd := false, na := 0, sat := false, wide := [], modUse := 0, modOk := true, ll := false }) w ++ sclG w.g
  | .sldc w => aSubs vc (.s 1) (.uni 32) (.uni 32) w ++ sclG w.g
  | .sld w => mSubs vc (if w.sz.toNat = 3 then .s 2 else .s 1) (.uni 32) { szs := [0, 1, 2, 3], buf := true, nt := true, spl := false, sx := true, ll := true, atom := none, data := false } w ++ sclG w.g
  | .srd w => dSubs vc (.s 1) w.d ++ sclG w.g ++ (if sysRegOk w.imm.toNat then [] else [10])
  | .swr w => dSubs vc (.s 1) w.d ++ sclG w.g ++ (if w.imm.toNat = 0x10 then [] else [10])
  | .ld w => mSubs vc (dSz w.sz) (.int 32) { szs := [0, 1, 2, 3, 4], buf := true, nt := true, spl := false, sx := true, ll := true, atom := none, data := false } w
  | .st w => mSubs vc (.none) (.int 32) { szs := [0, 1, 2, 3, 4], buf := true, nt := true, spl := false, sx := false, ll := true, atom := none, data := true } w
  | .ldx w => mSubs vc (dSz w.sz) (.int 64) { szs := [0, 1, 2, 3, 4], buf := true, nt := true, spl := true, sx := true, ll := true, atom := none, data := false } w
  | .stx w => mSubs vc (.none) (.int 64) { szs := [0, 1, 2, 3, 4], buf := true, nt := true, spl := false, sx := false, ll := true, atom := none, data := true } w
  | .ldc w => mSubs vc (dSz w.sz) (.int 32) { szs := [0, 1, 2, 3, 4], buf := false, nt := false, spl := false, sx := true, ll := false, atom := none, data := false } w
  | .ldm w => mSubs vc (dSz w.sz) (.int 32) { szs := [0, 1, 2, 3, 4], buf := false, nt := false, spl := false, sx := true, ll := true, atom := none, data := false } w
  | .stm w => mSubs vc (.none) (.int 32) { szs := [0, 1, 2, 3, 4], buf := false, nt := false, spl := false, sx := false, ll := true, atom := none, data := true } w
  | .atom w => mSubs vc (dSz w.sz) (.int 32) { szs := [1, 2, 3], buf := true, nt := false, spl := false, sx := false, ll := true, atom := (some aopAll), data := true } w
  | .atomn w => mSubs vc (.none) (.int 32) { szs := [1, 2, 3], buf := true, nt := false, spl := false, sx := false, ll := true, atom := (some aopNoCas), data := true } w
  | .red w => mSubs vc (.none) (.int 32) { szs := [1, 2, 3], buf := true, nt := false, spl := false, sx := false, ll := true, atom := (some aopRed), data := true } w
  | .atomm w => mSubs vc (dSz w.sz) (.int 32) { szs := [1, 2, 3], buf := false, nt := false, spl := false, sx := false, ll := true, atom := (some aopAll), data := true } w
  | .pref w => mSubs vc (.none) (.int 32) { szs := [0, 1, 2, 3, 4], buf := true, nt := true, spl := false, sx := false, ll := false, atom := none, data := false } w
  | .brec w => mSubs vc (.b) (.uni 32) { szs := [4], buf := false, nt := false, spl := false, sx := false, ll := true, atom := none, data := false } w
  | .bchk w => mSubs vc (.p) (.int 32) { szs := [0, 1, 2, 3, 4], buf := true, nt := false, spl := false, sx := false, ll := false, atom := none, data := false } w
  | .probe w => mSubs vc (.v 1 1) (.int 32) { szs := [0], buf := true, nt := false, spl := false, sx := false, ll := true, atom := none, data := false } w
  | .rjn w => ySubs vc (.none) (.zero) (kZero w.k) w
  | .cmode w => cSubs vc (.none) (.uni64n) (.zero) (.zero) (.zero) false 0 false (modIf (decide (w.md.toNat < 2))) w
  | .cbind w => cSubs vc (.none) (.uni64n) (.uni 32) (.uni64n) (.zero) false 0 false (mod0 w) w
  | .czero w => cSubs vc (.none) (.uni64n) (.zero) (.zero) (.zero) false 0 true (mod0 w) w
  | .cmma w => cSubs vc (.none) (.uni64n) (cmmaK w) (.zero) (.zero) true 2 true (modIf (cmmaModOk w)) w ++ cmmaView vw w
  | .cmmas w => cSubs vc (.none) (.uni64n) (cmmaK w) (.uni 32) (.zero) true 1 true (modIf (cmmaModOk w)) w ++ cmmaView vw w
  | .cacc w => cSubs vc (.none) (.vec 1 1) (.uni 32) (.uni 32) (.uni 32) false 0 true (modIf (decide (w.md.toNat < 3))) w
  | .crd w => cSubs vc (.v 1 1) (.zero) (.uni 32) (.uni 32) (.uni 32) false 0 true (modIf (decide (w.md.toNat < 8 ∧ w.md.toNat % 4 < 3))) w
  | .cswp w => cSubs vc (.none) (.zero) (.uni 32) (.uni 32) (.zero) false 0 false (modIf (decide (w.md.toNat < 2))) w
  | .cstat w => cSubs vc (.s 1) (.zero) (.uni 32) (.zero) (.zero) false 0 false (modIf (decide (w.md.toNat < 6))) w
  | .cpin w => cSubs vc (.none) (.uni 32) (.zero) (.zero) (.zero) false 0 false (mod0 w) w
  | .cunp w => cSubs vc (.none) (.uni 32) (.zero) (.zero) (.zero) false 0 false (mod0 w) w
  | .cpy w => cSubs vc (.none) (.int64n) (.vs) (.int 32) (phK w) false 0 true (modIf (decide (w.md.toNat < 2))) w
  | .cpyw w => cSubs vc (.none) (.int64n) (.int 32) (.int 32) (phK w) false 0 true (modIf (decide (w.md.toNat < 2))) w
  | .cpymBox w => cSubs vc (.none) (.int64n) (.vs) (.int 32) (phK w) false 0 true (modIf (decide (w.md.toNat < 2))) w
  | .cpymTile w => cSubs vc (.none) (.int64n) (.int 32) (.int 32) (phK w) false 0 true (modIf (decide (w.md.toNat = 2 ∨ w.md.toNat = 3))) w
  | .cpys w => cSubs vc (.none) (.int 32) (.int 32) (.int64n) (phK w) false 0 true (modIf (decide (w.md.toNat < 2))) w
  | .cpyc w => cSubs vc (.none) (.int64n) (.vs) (.int 32) (phK w) false 0 true (modIf (decide (w.md.toNat < 2))) w
  | .sopn w => cSubs vc (.q) (.uni 32) (.uni 32) (.uni 32) (.zero) false 0 false (mod0 w) w
  | .sadv w => cSubs vc (.q) (.uni 32) (.zero) (.zero) (.zero) false 0 false (mod0 w) w
  | .stnd w => cSubs vc (.p) (.zero) (.zero) (.zero) (.zero) false 1 false (mod0 w) w
  | .scls w => cSubs vc (.q) (.zero) (.zero) (.zero) (.zero) false 0 false (mod0 w) w
  | .sget w => cSubs vc (.s 1) (.zero) (.zero) (.zero) (.zero) false 1 false (modIf (decide (w.md.toNat < 3))) w
  | .br w => jSubs vc (.none) (.zero) true true w
  | .bru w => jSubs vc (.none) (.zero) true true w
  | .bri w => jSubs vc (.none) (.tgt) false false w
  | .briu w => jSubs vc (.none) (.tgt) false false w
  | .call w => jSubs vc (.v 1 1) (.zero) true true w
  | .calli w => jSubs vc (.v 1 1) (.tgt) false false w
  | .ret w => ySubs vc (.none) (.vec 1 1) (kZero w.k) w
  | .loop w => jSubs vc (.none) (.sreg 32) false true w
  | .exit w => ySubs vc (.none) (.zero) (kZero w.k) w
  | .nop w => ySubs vc (.none) (.zero) (kZero w.k) w
  | .yield w => ySubs vc (.none) (.zero) (kZero w.k) w
  | .sleep w => ySubs vc (.none) (.zero) ([]) w
  | .bkpt w => ySubs vc (.none) (.zero) ([]) w
  | .phini w => ySubs vc (.none) (.uni 32) (kMbz 0xC0 w.k) w
  | .phreg w => ySubs vc (.none) (.uni 32) (kMbz 0xF8 w.k ++ (if w.k.toNat % 4 = 3 then [10] else [])) w
  | .phdrp w => ySubs vc (.none) (.uni 32) (kMbz 0xF8 w.k ++ (if w.k.toNat % 4 = 3 then [10] else [])) w
  | .pharr w => ySubs vc (.none) (.uni 32) (kZero w.k) w
  | .phwt w => ySubs vc (.none) (.uni 32) (kMbz 0xC0 w.k) w
  | .phwtOut w => ySubs vc (.none) (.uni 32) (kMbz 0xBF w.k) w
  | .phaw w => ySubs vc (.none) (.uni 32) (kZero w.k) w
  | .phexp w => ySubs vc (.none) (.uni 32) (kMbz 0xC0 w.k) w
  | .phqry w => ySubs vc (.s 1) (.uni 32) (if w.k.toNat < 6 then [] else [10]) w
  | .bar w => ySubs vc (.none) (.zero) (kZero w.k) w
  | .bart w => ySubs vc (.none) (.zero) (kZero w.k) w
  | .bard w => ySubs vc (.none) (.zero) (kZero w.k) w
  | .waitf w => yxSubs vc (.none) (.zero) (kZero w.k ++ (if w.imm.toNat < 4096 then [] else [7])) w
  | .fence w => ySubs vc (.none) (.zero) (kMbz 7 w.k ++ (if w.k.toNat / 32 < 5 then [] else [10])) w
  | .mcall w => yxSubs vc (.j) (.int 32) (kMbz 0xF0 w.k) w
  | .waitj w => ySubs vc (.j) (.uni 32) (kZero w.k) w
  | .jmskSet w => ySubs vc (.j) (.uni 32) (if w.k.toNat = 0 then [] else [10]) w
  | .jmskOr w => ySubs vc (.j) (.uni 32) (if w.k.toNat = 1 then [] else [10]) w
  | .jmskClr w => ySubs vc (.j) (.uni 32) (if w.k.toNat = 2 then [] else [10]) w
  | .jmskRd w => ySubs vc (.j) (.sreg 32) (if w.k.toNat = 3 then [] else [10]) w
  | .trap w => ySubs vc (.none) (.zero) ([]) w
  | .rftRet w => ySubs vc (.none) (.zero) (if w.k.toNat = 0 then [] else [10]) w
  | .rftRetry w => ySubs vc (.none) (.zero) (if w.k.toNat = 1 then [] else [10]) w
  | .rftSkip w => ySubs vc (.none) (.zero) (if w.k.toNat = 2 then [] else [10]) w
  | .launch w => ySubs vc (.s 1) (.sreg 64) (kZero w.k) w
  | .lwait w => ySubs vc (.none) (.nci) (kZero w.k) w
  | .qloc w => ySubs vc (.s 1) (.nci) (if w.k.toNat < 6 then [] else [10]) w
  | .qlep w => ySubs vc (.s 1) (.nci) (kZero w.k) w
  | .cut w => ySubs vc (.none) (.zero) (if w.k.toNat = 0 then [] else [10]) w
  | .qspr w => ySubs vc (.s 1) (.uni 32) (if w.k.toNat < 5 then [] else [10]) w
  | .icinvCore w => ySubs vc (.none) (.zero) (if w.k.toNat = 0 then [] else [10]) w
  | .icinvLaunch w => ySubs vc (.none) (.zero) (if w.k.toNat = 1 then [] else [10]) w
  | .erriRegc w => ySubs vc (.none) (if w.k = 0 then .vec 1 1 else .sel []) (if w.k.toNat = 0 then [] else [10]) w
  | .erriRegu w => ySubs vc (.none) (.vec 1 1) (if w.k.toNat = 1 then [] else [10]) w
  | .erriCvc w => ySubs vc (.none) (.uni 32) (if w.k.toNat = 2 then [] else [10]) w
  | .erriCvu w => ySubs vc (.none) (.uni 32) (if w.k.toNat = 3 then [] else [10]) w
  | .erriRes w => ySubs vc (.none) (.uni 32) (if w.k.toNat = 4 then [] else [10]) w
  | .erriClone w => ySubs vc (.none) (.sel (if w.a.code = 0xC0 then [] else [8])) (if w.k.toNat = 5 then [] else [10]) w
  | .ract _ => []
  | .rldv _ => []
  | .rwr _ => []
  | .rmac _ => []
  | .radd _ => []
  | .rmul _ => []
  | .rscl _ => []
  | .rcmp _ => []
  | .rsel _ => []
  | .rmskAnd _ => []
  | .rmskOr _ => []
  | .rmskAndn _ => []
  | .rmskLd _ => []
  | .rskp _ => []
  | .rsum _ => []
  | .rloop _ => []
  | .rend _ => []
  | .ired _ => []
  | .xred _ => []
  | .fill _ => []
  | .companionWrite => []
  | .companionRead => []
  | .peerAccess => []
  | .peerLinkDown => []
  | .redAccepted => []

/-- Bits of a frame word that its row of R271 does not name must be zero (R272). -/
def rodUnused (i : Instr) : Bool :=
  match i with
  | .ract w => rodBits w &&& 0x071FC000 != 0
  | .rldv w => rodBits w &&& 0x001F3FC0 != 0
  | .rwr w => rodBits w &&& 0x001C3FC0 != 0
  | .rmac w => rodBits w &&& 0x06003FFF != 0
  | .radd w => rodBits w &&& 0x00003FFF != 0
  | .rmul w => rodBits w &&& 0x00003FFF != 0
  | .rscl w => rodBits w &&& 0x00003FFF != 0
  | .rcmp w => rodBits w &&& 0x04003FF8 != 0
  | .rsel w => rodBits w &&& 0x0000FFFC != 0
  | .rmskAnd w => rodBits w &&& 0x0493FFFC != 0
  | .rmskOr w => rodBits w &&& 0x0493FFFC != 0
  | .rmskAndn w => rodBits w &&& 0x0493FFFC != 0
  | .rmskLd w => rodBits w &&& 0x041FFFFC != 0
  | .rskp w => rodBits w &&& 0x00FFFF00 != 0
  | .rsum w => rodBits w &&& 0x00DC3FFC != 0
  | .rloop w => rodBits w &&& 0x001FFE00 != 0
  | .rend w => rodBits w &&& 0x07FFFFFF != 0
  | .ired w => rodBits w &&& 0x07033FFE != 0
  | .xred w => rodBits w &&& 0x071F3FFE != 0
  | .fill w => rodBits w &&& 0x0003FFFF != 0
  | _ => false

/-- The flow words (R37). -/
def isFlow (i : Instr) : Bool :=
  match i with
  | .br _ => true
  | .bru _ => true
  | .bri _ => true
  | .briu _ => true
  | .call _ => true
  | .calli _ => true
  | .ret _ => true
  | .loop _ => true
  | .exit _ => true
  | _ => false

/-- The long-latency words of the map (R40, R57-R60). -/
def isLong (i : Instr) : Bool :=
  match i with
  | .idiv _ => true
  | .irem _ => true
  | .fdiv _ => true
  | .fdivAx _ => true
  | .frcp _ => true
  | .frcpAx _ => true
  | .frsq _ => true
  | .frsqAx _ => true
  | .fsqrt _ => true
  | .fsqrtAx _ => true
  | .fexp2 _ => true
  | .fexp2Ax _ => true
  | .flog2 _ => true
  | .flog2Ax _ => true
  | .fsin _ => true
  | .fsinAx _ => true
  | .fcos _ => true
  | .fcosAx _ => true
  | .ftanh _ => true
  | .ftanhAx _ => true
  | .tmv _ => true
  | .tmvAx _ => true
  | .sld _ => true
  | .ld _ => true
  | .st _ => true
  | .ldx _ => true
  | .stx _ => true
  | .ldm _ => true
  | .stm _ => true
  | .atom _ => true
  | .atomn _ => true
  | .red _ => true
  | .atomm _ => true
  | .brec _ => true
  | .probe _ => true
  | .czero _ => true
  | .cmma _ => true
  | .cmmas _ => true
  | .cacc _ => true
  | .crd _ => true
  | .cpy _ => true
  | .cpyw _ => true
  | .cpymBox _ => true
  | .cpymTile _ => true
  | .cpys _ => true
  | .cpyc _ => true
  | _ => false

/-- FS of a long-latency word: SETB where it is set; the A-form has no FS and selects SETA (R40, R58). -/
def fsOf (i : Instr) : Bool :=
  match i with
  | .idiv w => w.fs
  | .irem w => w.fs
  | .fdivAx w => w.fs
  | .frcpAx w => w.fs
  | .frsqAx w => w.fs
  | .fsqrtAx w => w.fs
  | .fexp2Ax w => w.fs
  | .flog2Ax w => w.fs
  | .fsinAx w => w.fs
  | .fcosAx w => w.fs
  | .ftanhAx w => w.fs
  | .tmvAx w => w.fs
  | .sld w => w.fs
  | .ld w => w.fs
  | .st w => w.fs
  | .ldx w => w.fs
  | .stx w => w.fs
  | .ldm w => w.fs
  | .stm w => w.fs
  | .atom w => w.fs
  | .atomn w => w.fs
  | .red w => w.fs
  | .atomm w => w.fs
  | .brec w => w.fs
  | .probe w => w.fs
  | .czero w => w.fs
  | .cmma w => w.fs
  | .cmmas w => w.fs
  | .cacc w => w.fs
  | .crd w => w.fs
  | .cpy w => w.fs
  | .cpyw w => w.fs
  | .cpymBox w => w.fs
  | .cpymTile w => w.fs
  | .cpys w => w.fs
  | .cpyc w => w.fs
  | _ => false

/-- The words of R125 that issue under prediction, before the limits on LDX and BR. -/
def mayPredict0 (i : Instr) : Bool :=
  match i with
  | .iadd _ => true
  | .iaddc _ => true
  | .isub _ => true
  | .isubb _ => true
  | .imul _ => true
  | .imulh _ => true
  | .imad _ => true
  | .idiv _ => true
  | .irem _ => true
  | .imin _ => true
  | .imax _ => true
  | .iabs _ => true
  | .ineg _ => true
  | .and _ => true
  | .or _ => true
  | .xor _ => true
  | .andn _ => true
  | .not _ => true
  | .shl _ => true
  | .shr _ => true
  | .sar _ => true
  | .rol _ => true
  | .popc _ => true
  | .clz _ => true
  | .ctz _ => true
  | .brev _ => true
  | .bfx _ => true
  | .bfi _ => true
  | .bmix _ => true
  | .isat _ => true
  | .vcmp _ => true
  | .vsel _ => true
  | .pand _ => true
  | .por _ => true
  | .pxor _ => true
  | .pnot _ => true
  | .pmov _ => true
  | .pset _ => true
  | .mov _ => true
  | .movi _ => true
  | .movs _ => true
  | .fadd _ => true
  | .faddAx _ => true
  | .fmul _ => true
  | .fmulAx _ => true
  | .ffma _ => true
  | .fmin _ => true
  | .fminAx _ => true
  | .fmax _ => true
  | .fmaxAx _ => true
  | .fdiv _ => true
  | .fdivAx _ => true
  | .frcp _ => true
  | .frcpAx _ => true
  | .frsq _ => true
  | .frsqAx _ => true
  | .fsqrt _ => true
  | .fsqrtAx _ => true
  | .fexp2 _ => true
  | .fexp2Ax _ => true
  | .flog2 _ => true
  | .flog2Ax _ => true
  | .fsin _ => true
  | .fsinAx _ => true
  | .fcos _ => true
  | .fcosAx _ => true
  | .ftanh _ => true
  | .ftanhAx _ => true
  | .frnd _ => true
  | .frndAx _ => true
  | .fscl _ => true
  | .fsclAx _ => true
  | .fxtr _ => true
  | .fxtrAx _ => true
  | .fcls _ => true
  | .fclsAx _ => true
  | .fcmp _ => true
  | .padd _ => true
  | .paddAx _ => true
  | .pmul _ => true
  | .pmulAx _ => true
  | .pfma _ => true
  | .fdot4 _ => true
  | .cvt _ => true
  | .cvti _ => true
  | .cvtm _ => true
  | .tmv _ => true
  | .tmvAx _ => true
  | .ld _ => true
  | .ldx _ => true
  | .ldc _ => true
  | .ldm _ => true
  | .pref _ => true
  | .bchk _ => true
  | .probe _ => true
  | .br _ => true
  | _ => false

/-- INT and FLT words (R153). -/
def isLaneWord (i : Instr) : Bool :=
  match i with
  | .iadd _ => true
  | .iaddc _ => true
  | .isub _ => true
  | .isubb _ => true
  | .imul _ => true
  | .imulh _ => true
  | .imad _ => true
  | .idiv _ => true
  | .irem _ => true
  | .imin _ => true
  | .imax _ => true
  | .iabs _ => true
  | .ineg _ => true
  | .and _ => true
  | .or _ => true
  | .xor _ => true
  | .andn _ => true
  | .not _ => true
  | .shl _ => true
  | .shr _ => true
  | .sar _ => true
  | .rol _ => true
  | .popc _ => true
  | .clz _ => true
  | .ctz _ => true
  | .brev _ => true
  | .bfx _ => true
  | .bfi _ => true
  | .bmix _ => true
  | .isat _ => true
  | .vcmp _ => true
  | .vsel _ => true
  | .pand _ => true
  | .por _ => true
  | .pxor _ => true
  | .pnot _ => true
  | .pmov _ => true
  | .pany _ => true
  | .pall _ => true
  | .pcnt _ => true
  | .pset _ => true
  | .mov _ => true
  | .movi _ => true
  | .movs _ => true
  | .rdln _ => true
  | .wrln _ => true
  | .qswp _ => true
  | .qbc _ => true
  | .gshf _ => true
  | .gbc _ => true
  | .gred _ => true
  | .gscn _ => true
  | .ballot _ => true
  | .fadd _ => true
  | .faddAx _ => true
  | .fmul _ => true
  | .fmulAx _ => true
  | .ffma _ => true
  | .fmin _ => true
  | .fminAx _ => true
  | .fmax _ => true
  | .fmaxAx _ => true
  | .fdiv _ => true
  | .fdivAx _ => true
  | .frcp _ => true
  | .frcpAx _ => true
  | .frsq _ => true
  | .frsqAx _ => true
  | .fsqrt _ => true
  | .fsqrtAx _ => true
  | .fexp2 _ => true
  | .fexp2Ax _ => true
  | .flog2 _ => true
  | .flog2Ax _ => true
  | .fsin _ => true
  | .fsinAx _ => true
  | .fcos _ => true
  | .fcosAx _ => true
  | .ftanh _ => true
  | .ftanhAx _ => true
  | .frnd _ => true
  | .frndAx _ => true
  | .fscl _ => true
  | .fsclAx _ => true
  | .fxtr _ => true
  | .fxtrAx _ => true
  | .fcls _ => true
  | .fclsAx _ => true
  | .fcmp _ => true
  | .padd _ => true
  | .paddAx _ => true
  | .pmul _ => true
  | .pmulAx _ => true
  | .pfma _ => true
  | .fdot4 _ => true
  | .cvt _ => true
  | .cvti _ => true
  | .cvtm _ => true
  | .tmv _ => true
  | .tmvAx _ => true
  | _ => false

/-- CNV, SYN and SYS words and BKPT, which never act for helper lanes alone (R116). -/
def isGroupWord (i : Instr) : Bool :=
  match i with
  | .cmode _ => true
  | .cbind _ => true
  | .czero _ => true
  | .cmma _ => true
  | .cmmas _ => true
  | .cacc _ => true
  | .crd _ => true
  | .cswp _ => true
  | .cstat _ => true
  | .cpin _ => true
  | .cunp _ => true
  | .cpy _ => true
  | .cpyw _ => true
  | .cpymBox _ => true
  | .cpymTile _ => true
  | .cpys _ => true
  | .cpyc _ => true
  | .sopn _ => true
  | .sadv _ => true
  | .stnd _ => true
  | .scls _ => true
  | .sget _ => true
  | .bkpt _ => true
  | .phini _ => true
  | .phreg _ => true
  | .phdrp _ => true
  | .pharr _ => true
  | .phwt _ => true
  | .phwtOut _ => true
  | .phaw _ => true
  | .phexp _ => true
  | .phqry _ => true
  | .bar _ => true
  | .bart _ => true
  | .bard _ => true
  | .waitf _ => true
  | .fence _ => true
  | .mcall _ => true
  | .waitj _ => true
  | .jmskSet _ => true
  | .jmskOr _ => true
  | .jmskClr _ => true
  | .jmskRd _ => true
  | .trap _ => true
  | .rftRet _ => true
  | .rftRetry _ => true
  | .rftSkip _ => true
  | .launch _ => true
  | .lwait _ => true
  | .qloc _ => true
  | .qlep _ => true
  | .cut _ => true
  | .qspr _ => true
  | .icinvCore _ => true
  | .icinvLaunch _ => true
  | .erriRegc _ => true
  | .erriRegu _ => true
  | .erriCvc _ => true
  | .erriCvu _ => true
  | .erriRes _ => true
  | .erriClone _ => true
  | _ => false

/-- The words that issue under prediction (R125). -/
def mayPredict (i : Instr) : Bool :=
  match i with
  | .ldx w => !w.spl
  | .br w => w.cp == 7 && w.g == 7
  | i => mayPredict0 i

end Sys2Proof.Machine
end

