-- ==== Sys2Proof/WellFormed.lean ====
section
/-! DEFINITION. Well-formed instructions: every field legal by R43-R64 in a kernel with the given register
count and views, and no literal held where none follows (R46). -/
namespace Sys2Proof

open Sys2Proof.Machine

/-- A field that takes no literal holds none. -/
def litOk (cap : Bool) (f : Fld) : Bool := (cap && f.code == 0xFF) || f.lit == 0

/-- Literals stand only where the encoding has them. -/
def Instr.litsOk (i : Instr) : Bool :=
  match i with
  | .iadd w => litOk true w.a && litOk true w.b && litOk false w.c
  | .iaddc w => litOk true w.a && litOk true w.b && litOk false w.c
  | .isub w => litOk true w.a && litOk true w.b && litOk false w.c
  | .isubb w => litOk true w.a && litOk true w.b && litOk false w.c
  | .imul w => litOk true w.a && litOk true w.b && litOk false w.c
  | .imulh w => litOk true w.a && litOk true w.b && litOk false w.c
  | .imad w => litOk true w.a && litOk true w.b && litOk true w.c
  | .idiv w => litOk true w.a && litOk true w.b && litOk false w.c
  | .irem w => litOk true w.a && litOk true w.b && litOk false w.c
  | .imin w => litOk true w.a && litOk true w.b && litOk false w.c
  | .imax w => litOk true w.a && litOk true w.b && litOk false w.c
  | .iabs w => litOk true w.a && litOk false w.b && litOk false w.c
  | .ineg w => litOk true w.a && litOk false w.b && litOk false w.c
  | .and w => litOk true w.a && litOk true w.b
  | .or w => litOk true w.a && litOk true w.b
  | .xor w => litOk true w.a && litOk true w.b
  | .andn w => litOk true w.a && litOk true w.b
  | .not w => litOk true w.a && litOk false w.b
  | .shl w => litOk true w.a && litOk true w.b && litOk false w.c
  | .shr w => litOk true w.a && litOk true w.b && litOk false w.c
  | .sar w => litOk true w.a && litOk true w.b && litOk false w.c
  | .rol w => litOk true w.a && litOk true w.b
  | .popc w => litOk true w.a && litOk false w.b
  | .clz w => litOk true w.a && litOk false w.b
  | .ctz w => litOk true w.a && litOk false w.b
  | .brev w => litOk true w.a && litOk false w.b
  | .bfx w => litOk true w.a && litOk true w.b && litOk false w.c
  | .bfi w => litOk true w.a && litOk true w.b && litOk true w.c
  | .bmix w => litOk true w.a && litOk true w.b && litOk true w.c
  | .isat w => litOk true w.a && litOk false w.b && litOk false w.c
  | .vcmp w => litOk true w.a && litOk true w.b && litOk false w.c
  | .vsel w => litOk true w.a && litOk true w.b && litOk false w.c
  | .pand w => litOk false w.a && litOk false w.b
  | .por w => litOk false w.a && litOk false w.b
  | .pxor w => litOk false w.a && litOk false w.b
  | .pnot w => litOk false w.a && litOk false w.b
  | .pmov w => litOk false w.a && litOk false w.b
  | .pany w => litOk false w.a && litOk false w.b
  | .pall w => litOk false w.a && litOk false w.b
  | .pcnt w => litOk false w.a && litOk false w.b
  | .pset w => litOk true w.a && litOk false w.b
  | .mov w => litOk true w.a && litOk false w.b
  | .movi _ => true
  | .movs w => litOk true w.a && litOk false w.b
  | .rdln w => litOk false w.a && litOk true w.b
  | .wrln w => litOk false w.a && litOk true w.b
  | .qswp w => litOk false w.a && litOk false w.b
  | .qbc w => litOk false w.a && litOk true w.b
  | .gshf w => litOk false w.a && litOk true w.b
  | .gbc w => litOk false w.a && litOk true w.b
  | .gred w => litOk true w.a && litOk false w.b && litOk false w.c
  | .gscn w => litOk true w.a && litOk false w.b && litOk false w.c
  | .ballot w => litOk false w.a && litOk false w.b
  | .fadd w => litOk true w.a && litOk true w.b
  | .faddAx w => litOk true w.a && litOk true w.b && litOk false w.c
  | .fmul w => litOk true w.a && litOk true w.b
  | .fmulAx w => litOk true w.a && litOk true w.b && litOk false w.c
  | .ffma w => litOk true w.a && litOk true w.b && litOk true w.c
  | .fmin w => litOk true w.a && litOk true w.b
  | .fminAx w => litOk true w.a && litOk true w.b && litOk false w.c
  | .fmax w => litOk true w.a && litOk true w.b
  | .fmaxAx w => litOk true w.a && litOk true w.b && litOk false w.c
  | .fdiv w => litOk true w.a && litOk true w.b
  | .fdivAx w => litOk true w.a && litOk true w.b && litOk false w.c
  | .frcp w => litOk true w.a && litOk false w.b
  | .frcpAx w => litOk true w.a && litOk false w.b && litOk false w.c
  | .frsq w => litOk true w.a && litOk false w.b
  | .frsqAx w => litOk true w.a && litOk false w.b && litOk false w.c
  | .fsqrt w => litOk true w.a && litOk false w.b
  | .fsqrtAx w => litOk true w.a && litOk false w.b && litOk false w.c
  | .fexp2 w => litOk true w.a && litOk false w.b
  | .fexp2Ax w => litOk true w.a && litOk false w.b && litOk false w.c
  | .flog2 w => litOk true w.a && litOk false w.b
  | .flog2Ax w => litOk true w.a && litOk false w.b && litOk false w.c
  | .fsin w => litOk true w.a && litOk false w.b
  | .fsinAx w => litOk true w.a && litOk false w.b && litOk false w.c
  | .fcos w => litOk true w.a && litOk false w.b
  | .fcosAx w => litOk true w.a && litOk false w.b && litOk false w.c
  | .ftanh w => litOk true w.a && litOk false w.b
  | .ftanhAx w => litOk true w.a && litOk false w.b && litOk false w.c
  | .frnd w => litOk true w.a && litOk false w.b
  | .frndAx w => litOk true w.a && litOk false w.b && litOk false w.c
  | .fscl w => litOk true w.a && litOk true w.b
  | .fsclAx w => litOk true w.a && litOk true w.b && litOk false w.c
  | .fxtr w => litOk true w.a && litOk false w.b
  | .fxtrAx w => litOk true w.a && litOk false w.b && litOk false w.c
  | .fcls w => litOk true w.a && litOk true w.b
  | .fclsAx w => litOk true w.a && litOk true w.b && litOk false w.c
  | .fcmp w => litOk true w.a && litOk true w.b && litOk false w.c
  | .padd w => litOk true w.a && litOk true w.b
  | .paddAx w => litOk true w.a && litOk true w.b && litOk false w.c
  | .pmul w => litOk true w.a && litOk true w.b
  | .pmulAx w => litOk true w.a && litOk true w.b && litOk false w.c
  | .pfma w => litOk true w.a && litOk true w.b && litOk true w.c
  | .fdot4 w => litOk false w.a && litOk false w.b && litOk true w.c
  | .cvt w => litOk true w.a && litOk false w.b && litOk false w.c
  | .cvti w => litOk true w.a && litOk false w.b && litOk false w.c
  | .cvtm w => litOk false w.a && litOk false w.b && litOk false w.c
  | .tmv w => litOk false w.a && litOk true w.b
  | .tmvAx w => litOk false w.a && litOk true w.b && litOk false w.c
  | .sadd w => litOk true w.a && litOk true w.b
  | .saddAx w => litOk true w.a && litOk true w.b && litOk false w.c
  | .ssub w => litOk true w.a && litOk true w.b
  | .ssubAx w => litOk true w.a && litOk true w.b && litOk false w.c
  | .smul w => litOk true w.a && litOk true w.b
  | .smulAx w => litOk true w.a && litOk true w.b && litOk false w.c
  | .sand w => litOk true w.a && litOk true w.b
  | .sor w => litOk true w.a && litOk true w.b
  | .sxor w => litOk true w.a && litOk true w.b
  | .sshl w => litOk true w.a && litOk true w.b
  | .sshlAx w => litOk true w.a && litOk true w.b && litOk false w.c
  | .sshr w => litOk true w.a && litOk true w.b
  | .sshrAx w => litOk true w.a && litOk true w.b && litOk false w.c
  | .ssar w => litOk true w.a && litOk true w.b
  | .ssarAx w => litOk true w.a && litOk true w.b && litOk false w.c
  | .scmp w => litOk true w.a && litOk true w.b && litOk false w.c
  | .smov w => litOk true w.a && litOk false w.b
  | .smovAx w => litOk true w.a && litOk false w.b && litOk false w.c
  | .smovi _ => true
  | .ssel w => litOk true w.a && litOk true w.b && litOk true w.c
  | .smin w => litOk true w.a && litOk true w.b
  | .sminAx w => litOk true w.a && litOk true w.b && litOk false w.c
  | .smax w => litOk true w.a && litOk true w.b
  | .smaxAx w => litOk true w.a && litOk true w.b && litOk false w.c
  | .sldc w => litOk true w.a && litOk true w.b
  | .sld w => litOk true w.idx && litOk false w.data
  | .srd _ => true
  | .swr _ => true
  | .ld w => litOk true w.idx && litOk false w.data
  | .st w => litOk true w.idx && litOk (w.sz != 4) w.data
  | .ldx w => litOk true w.idx && litOk false w.data
  | .stx w => litOk true w.idx && litOk (w.sz != 4) w.data
  | .ldc w => litOk true w.idx && litOk false w.data
  | .ldm w => litOk true w.idx && litOk false w.data
  | .stm w => litOk true w.idx && litOk (w.sz != 4) w.data
  | .atom w => litOk true w.idx && litOk (w.sz != 4 && w.aop != 9) w.data
  | .atomn w => litOk true w.idx && litOk (w.sz != 4 && w.aop != 9) w.data
  | .red w => litOk true w.idx && litOk (w.sz != 4 && w.aop != 9) w.data
  | .atomm w => litOk true w.idx && litOk (w.sz != 4 && w.aop != 9) w.data
  | .pref w => litOk true w.idx && litOk false w.data
  | .brec w => litOk true w.idx && litOk false w.data
  | .bchk w => litOk true w.idx && litOk false w.data
  | .probe w => litOk true w.idx && litOk false w.data
  | .rjn w => litOk false w.a
  | .cmode w => litOk true w.a && litOk false w.b && litOk false w.c && litOk false w.e
  | .cbind w => litOk true w.a && litOk true w.b && litOk true w.c && litOk false w.e
  | .czero w => litOk true w.a && litOk false w.b && litOk false w.c && litOk false w.e
  | .cmma w => litOk true w.a && litOk false w.b && litOk false w.c && litOk false w.e
  | .cmmas w => litOk true w.a && litOk false w.b && litOk true w.c && litOk false w.e
  | .cacc w => litOk false w.a && litOk true w.b && litOk true w.c && litOk true w.e
  | .crd w => litOk false w.a && litOk true w.b && litOk true w.c && litOk true w.e
  | .cswp w => litOk false w.a && litOk true w.b && litOk true w.c && litOk false w.e
  | .cstat w => litOk false w.a && litOk true w.b && litOk false w.c && litOk false w.e
  | .cpin w => litOk true w.a && litOk false w.b && litOk false w.c && litOk false w.e
  | .cunp w => litOk true w.a && litOk false w.b && litOk false w.c && litOk false w.e
  | .cpy w => litOk true w.a && litOk false w.b && litOk true w.c && litOk (w.md.getLsbD 0) w.e
  | .cpyw w => litOk true w.a && litOk true w.b && litOk true w.c && litOk (w.md.getLsbD 0) w.e
  | .cpymBox w => litOk true w.a && litOk false w.b && litOk true w.c && litOk (w.md.getLsbD 0) w.e
  | .cpymTile w => litOk true w.a && litOk true w.b && litOk true w.c && litOk (w.md.getLsbD 0) w.e
  | .cpys w => litOk true w.a && litOk true w.b && litOk true w.c && litOk (w.md.getLsbD 0) w.e
  | .cpyc w => litOk true w.a && litOk false w.b && litOk true w.c && litOk (w.md.getLsbD 0) w.e
  | .sopn w => litOk true w.a && litOk true w.b && litOk true w.c && litOk false w.e
  | .sadv w => litOk true w.a && litOk false w.b && litOk false w.c && litOk false w.e
  | .stnd w => litOk false w.a && litOk false w.b && litOk false w.c && litOk false w.e
  | .scls w => litOk false w.a && litOk false w.b && litOk false w.c && litOk false w.e
  | .sget w => litOk false w.a && litOk false w.b && litOk false w.c && litOk false w.e
  | .br w => litOk false w.a
  | .bru w => litOk false w.a
  | .bri w => litOk true w.a
  | .briu w => litOk true w.a
  | .call w => litOk false w.a
  | .calli w => litOk true w.a
  | .ret w => litOk false w.a
  | .loop w => litOk false w.a
  | .exit w => litOk false w.a
  | .nop w => litOk false w.a
  | .yield w => litOk false w.a
  | .sleep w => litOk false w.a
  | .bkpt w => litOk false w.a
  | .phini w => litOk true w.a
  | .phreg w => litOk true w.a
  | .phdrp w => litOk true w.a
  | .pharr w => litOk true w.a
  | .phwt w => litOk true w.a
  | .phwtOut w => litOk true w.a
  | .phaw w => litOk true w.a
  | .phexp w => litOk true w.a
  | .phqry w => litOk true w.a
  | .bar w => litOk false w.a
  | .bart w => litOk false w.a
  | .bard w => litOk false w.a
  | .waitf w => litOk false w.a
  | .fence w => litOk false w.a
  | .mcall w => litOk true w.a
  | .waitj w => litOk true w.a
  | .jmskSet w => litOk true w.a
  | .jmskOr w => litOk true w.a
  | .jmskClr w => litOk true w.a
  | .jmskRd w => litOk false w.a
  | .trap w => litOk false w.a
  | .rftRet w => litOk false w.a
  | .rftRetry w => litOk false w.a
  | .rftSkip w => litOk false w.a
  | .launch w => litOk false w.a
  | .lwait w => litOk true w.a
  | .qloc w => litOk true w.a
  | .qlep w => litOk true w.a
  | .cut w => litOk false w.a
  | .qspr w => litOk true w.a
  | .icinvCore w => litOk false w.a
  | .icinvLaunch w => litOk false w.a
  | .erriRegc w => litOk false w.a
  | .erriRegu w => litOk false w.a
  | .erriCvc w => litOk true w.a
  | .erriCvu w => litOk true w.a
  | .erriRes w => litOk true w.a
  | .erriClone w => litOk false w.a
  | _ => true

/-- The bits that pick the form among the rows of one opcode are the instruction's own (R270, R303). -/
def Instr.selOk (i : Instr) : Bool :=
  match i with
  | .phwt w => !w.k.getLsbD 6
  | .phwtOut w => w.k.getLsbD 6
  | .rmskAnd w => decide (w.imm.toNat % 4 = 0)
  | .rmskOr w => decide (w.imm.toNat % 4 = 1)
  | .rmskAndn w => decide (w.imm.toNat % 4 = 2)
  | .rmskLd w => decide (w.imm.toNat % 4 = 3)
  | _ => true

/-- A legal instruction in a kernel with `vc` declared registers and the views `vw`. -/
def Instr.wellFormed (vc : Nat) (vw : List Word) (i : Instr) : Bool :=
  i.litsOk && i.selOk && (subcodes vc vw i).isEmpty && !rodUnused i

end Sys2Proof
end

