-- ==== Sys2Proof/Decode.lean ====
section
/-! DEFINITION. Decoding: words to instructions (R36, R46, R48-R62, R270), the checks of a clause header
(R37), and an encoder from the same tables. -/
namespace Sys2Proof

open Sys2Proof.Machine

/-- A decoded instruction, its length in words, and whether a must-be-zero bit that no format record holds was set. -/
structure Dec where
  i : Instr
  len : Nat
  rsv : Bool
deriving DecidableEq, Repr

/-- The literal of a field that takes one (R46), out of the words after the instruction's own. -/
def litOf (cap : Bool) (c : BitVec 8) (ws : List Word) : Word := if cap && c == 0xFF then ws.headD 0 else 0
def litRest (cap : Bool) (c : BitVec 8) (ws : List Word) : List Word := if cap && c == 0xFF then ws.tail else ws
def litN (cap : Bool) (c : BitVec 8) : Nat := if cap && c == 0xFF then 1 else 0

/-- The words the instruction of opcode `op` and format A holds, with the literals of A and B. -/
def decA (ca cb : Bool) (w : Word) (r : List Word) : FmtA :=
  let a := w.extractLsb' 8 8
  let b := w.extractLsb' 0 8
  let r1 := litRest ca a r
  { g := w.extractLsb' 23 3, d := w.extractLsb' 16 7, a := { code := a, lit := litOf ca a r }, b := { code := b, lit := litOf cb b r1 } }
def lenA (ca cb : Bool) (f : FmtA) : Nat := 1 + litN ca f.a.code + litN cb f.b.code

def decAX (ca cb cc : Bool) (w : Word) (r0 : List Word) : FmtAX :=
  let x := r0.headD 0
  let r := r0.tail
  let a := w.extractLsb' 8 8
  let b := w.extractLsb' 0 8
  let c := x.extractLsb' 24 8
  let r1 := litRest ca a r
  let r2 := litRest cb b r1
  { g := w.extractLsb' 23 3, d := w.extractLsb' 16 7,
    a := { code := a, lit := litOf ca a r }, b := { code := b, lit := litOf cb b r1 }, c := { code := c, lit := litOf cc c r2 },
    ty := x.extractLsb' 20 4, sty := x.extractLsb' 16 4, rnd := x.extractLsb' 14 2, neg := x.extractLsb' 11 3,
    abs := x.extractLsb' 8 3, sat := x.getLsbD 7, fs := x.getLsbD 6, wide := x.getLsbD 5, md := x.extractLsb' 0 5 }
def lenAX (ca cb cc : Bool) (f : FmtAX) : Nat := 2 + litN ca f.a.code + litN cb f.b.code + litN cc f.c.code

def decI (w : Word) : FmtI := { g := w.extractLsb' 23 3, d := w.extractLsb' 16 7, imm := w.extractLsb' 0 16 }

/-- What a format M word does with DATA (R202): nothing, store data, or data of an atomic operation. -/
inductive DatK where
  | none | store | atomic
deriving DecidableEq, Repr

/-- DATA takes a literal in the words that read it, but for SZ 4 (R46) and for .cas, whose DATA names a register (R52). -/
def capData (k : DatK) (sz : BitVec 3) (aop : BitVec 5) : Bool :=
  match k with
  | .none => false
  | .store => sz != 4
  | .atomic => sz != 4 && aop != 9

def decM (dat : DatK) (w : Word) (r0 : List Word) : FmtM :=
  let x := r0.headD 0
  let r := r0.tail
  let idx := w.extractLsb' 0 8
  let sz := w.extractLsb' 9 3
  let dt := x.extractLsb' 0 8
  { g := w.extractLsb' 23 3, d := w.extractLsb' 16 7, buf := w.extractLsb' 12 4, sz := sz, fs := w.getLsbD 8,
    idx := { code := idx, lit := litOf true idx r }, off := x.extractLsb' 16 16, aop := x.extractLsb' 11 5,
    nt := x.getLsbD 10, spl := x.getLsbD 9, sx := x.getLsbD 8,
    data := { code := dt, lit := litOf (capData dat sz (x.extractLsb' 11 5)) dt (litRest true idx r) } }
def lenM (dat : DatK) (f : FmtM) : Nat := 2 + litN true f.idx.code + litN (capData dat f.sz f.aop) f.data.code

def decC (ca cb cc ce : Bool) (w : Word) (r0 : List Word) : FmtC :=
  let x := r0.headD 0
  let r := r0.tail
  let a := w.extractLsb' 8 8
  let b := w.extractLsb' 0 8
  let c := x.extractLsb' 24 8
  let e := x.extractLsb' 16 8
  let r1 := litRest ca a r
  let r2 := litRest cb b r1
  let r3 := litRest cc c r2
  { g := w.extractLsb' 23 3, d := w.extractLsb' 16 7,
    a := { code := a, lit := litOf ca a r }, b := { code := b, lit := litOf cb b r1 },
    c := { code := c, lit := litOf cc c r2 }, e := { code := e, lit := litOf ce e r3 },
    vw := x.extractLsb' 14 2, q := x.extractLsb' 11 3, qen := x.getLsbD 10, fs := x.getLsbD 9, md := x.extractLsb' 4 5 }
def lenC (ca cb cc ce : Bool) (f : FmtC) : Nat :=
  2 + litN ca f.a.code + litN cb f.b.code + litN cc f.c.code + litN ce f.e.code
/-- MOD of a C word's operand word. -/
def mdOfC (r0 : List Word) : BitVec 5 := (r0.headD 0).extractLsb' 4 5
def rsvC (r0 : List Word) : Bool := (r0.headD 0).extractLsb' 0 4 != 0

def decJ (ca : Bool) (w : Word) (r0 : List Word) : FmtJ :=
  let x := r0.headD 0
  let a := w.extractLsb' 0 8
  { g := w.extractLsb' 23 3, d := w.extractLsb' 16 7, cp := w.extractLsb' 12 4, a := { code := a, lit := litOf ca a r0.tail },
    tgt := x.extractLsb' 16 16, rj := x.extractLsb' 0 16 }
def lenJ (ca : Bool) (f : FmtJ) : Nat := 2 + litN ca f.a.code
def rsvJ (w : Word) : Bool := w.extractLsb' 8 4 != 0

def decY (ca : Bool) (w : Word) (r : List Word) : FmtY :=
  let a := w.extractLsb' 8 8
  { g := w.extractLsb' 23 3, d := w.extractLsb' 16 7, a := { code := a, lit := litOf ca a r }, k := w.extractLsb' 0 8 }
def lenY (ca : Bool) (f : FmtY) : Nat := 1 + litN ca f.a.code

def decYX (ca : Bool) (w : Word) (r0 : List Word) : FmtYX :=
  let a := w.extractLsb' 8 8
  { g := w.extractLsb' 23 3, d := w.extractLsb' 16 7, a := { code := a, lit := litOf ca a r0.tail }, k := w.extractLsb' 0 8,
    imm := r0.headD 0 }
def lenYX (ca : Bool) (f : FmtYX) : Nat := 2 + litN ca f.a.code

def decR (w : Word) : FmtR :=
  { d := w.extractLsb' 24 3, a := w.extractLsb' 21 3, b := w.extractLsb' 18 3, m := w.extractLsb' 16 2, t := w.extractLsb' 14 2,
    imm := w.extractLsb' 0 14 }

/-- Decoded forms of each format. -/
def dA (k : FmtA → Instr) (ca cb : Bool) (w : Word) (r : List Word) : Option Dec :=
  let f := decA ca cb w r
  some { i := k f, len := lenA ca cb f, rsv := false }
def dAX (k : FmtAX → Instr) (ca cb cc : Bool) (w : Word) (r : List Word) : Option Dec :=
  let f := decAX ca cb cc w r
  some { i := k f, len := lenAX ca cb cc f, rsv := false }
def dI (k : FmtI → Instr) (w : Word) : Option Dec := some { i := k (decI w), len := 1, rsv := false }
def dM (k : FmtM → Instr) (dat : DatK) (w : Word) (r : List Word) : Option Dec :=
  let f := decM dat w r
  some { i := k f, len := lenM dat f, rsv := false }
def dC (k : FmtC → Instr) (ca cb cc ce : Bool) (w : Word) (r : List Word) : Option Dec :=
  let f := decC ca cb cc ce w r
  some { i := k f, len := lenC ca cb cc ce f, rsv := rsvC r }
def dJ (k : FmtJ → Instr) (ca : Bool) (w : Word) (r : List Word) : Option Dec :=
  let f := decJ ca w r
  some { i := k f, len := lenJ ca f, rsv := rsvJ w }
def dY (k : FmtY → Instr) (ca : Bool) (w : Word) (r : List Word) : Option Dec :=
  let f := decY ca w r
  some { i := k f, len := lenY ca f, rsv := false }
def dYX (k : FmtYX → Instr) (ca : Bool) (w : Word) (r : List Word) : Option Dec :=
  let f := decYX ca w r
  some { i := k f, len := lenYX ca f, rsv := false }

/-- Table INT (R57). -/
def decInt (w : Word) (r : List Word) : Option Dec :=
  match (w.extractLsb' 26 6).toNat with
  | 0 => dAX .iadd true true false w r
  | 1 => dAX .iaddc true true false w r
  | 2 => dAX .isub true true false w r
  | 3 => dAX .isubb true true false w r
  | 4 => dAX .imul true true false w r
  | 5 => dAX .imulh true true false w r
  | 6 => dAX .imad true true true w r
  | 7 => dAX .idiv true true false w r
  | 8 => dAX .irem true true false w r
  | 9 => dAX .imin true true false w r
  | 10 => dAX .imax true true false w r
  | 11 => dAX .iabs true false false w r
  | 12 => dAX .ineg true false false w r
  | 13 => dA .and true true w r
  | 14 => dA .or true true w r
  | 15 => dA .xor true true w r
  | 16 => dA .andn true true w r
  | 17 => dA .not true false w r
  | 18 => dAX .shl true true false w r
  | 19 => dAX .shr true true false w r
  | 20 => dAX .sar true true false w r
  | 21 => dA .rol true true w r
  | 22 => dA .popc true false w r
  | 23 => dA .clz true false w r
  | 24 => dA .ctz true false w r
  | 25 => dA .brev true false w r
  | 26 => dAX .bfx true true false w r
  | 27 => dAX .bfi true true true w r
  | 28 => dAX .bmix true true true w r
  | 29 => dAX .isat true false false w r
  | 30 => dAX .vcmp true true false w r
  | 31 => dAX .vsel true true false w r
  | 32 => dA .pand false false w r
  | 33 => dA .por false false w r
  | 34 => dA .pxor false false w r
  | 35 => dA .pnot false false w r
  | 36 => dA .pmov false false w r
  | 37 => dA .pany false false w r
  | 38 => dA .pall false false w r
  | 39 => dA .pcnt false false w r
  | 40 => dA .pset true false w r
  | 41 => dA .mov true false w r
  | 42 => dI .movi w
  | 43 => dA .movs true false w r
  | 44 => dA .rdln false true w r
  | 45 => dA .wrln false true w r
  | 46 => dA .qswp false false w r
  | 47 => dA .qbc false true w r
  | 48 => dA .gshf false true w r
  | 49 => dA .gbc false true w r
  | 50 => dAX .gred true false false w r
  | 51 => dAX .gscn true false false w r
  | 52 => dA .ballot false false w r
  | _ => none

/-- Table FLT (R58). -/
def decFlt (w : Word) (r : List Word) : Option Dec :=
  match (w.extractLsb' 26 6).toNat with
  | 0 => dA .fadd true true w r
  | 1 => dA .fmul true true w r
  | 3 => dA .fmin true true w r
  | 4 => dA .fmax true true w r
  | 5 => dA .fdiv true true w r
  | 6 => dA .frcp true false w r
  | 7 => dA .frsq true false w r
  | 8 => dA .fsqrt true false w r
  | 9 => dA .fexp2 true false w r
  | 10 => dA .flog2 true false w r
  | 11 => dA .fsin true false w r
  | 12 => dA .fcos true false w r
  | 13 => dA .ftanh true false w r
  | 14 => dA .frnd true false w r
  | 15 => dA .fscl true true w r
  | 16 => dA .fxtr true false w r
  | 17 => dA .fcls true true w r
  | 19 => dA .padd true true w r
  | 20 => dA .pmul true true w r
  | 26 => dA .tmv false true w r
  | 32 => dAX .faddAx true true false w r
  | 33 => dAX .fmulAx true true false w r
  | 34 => dAX .ffma true true true w r
  | 35 => dAX .fminAx true true false w r
  | 36 => dAX .fmaxAx true true false w r
  | 37 => dAX .fdivAx true true false w r
  | 38 => dAX .frcpAx true false false w r
  | 39 => dAX .frsqAx true false false w r
  | 40 => dAX .fsqrtAx true false false w r
  | 41 => dAX .fexp2Ax true false false w r
  | 42 => dAX .flog2Ax true false false w r
  | 43 => dAX .fsinAx true false false w r
  | 44 => dAX .fcosAx true false false w r
  | 45 => dAX .ftanhAx true false false w r
  | 46 => dAX .frndAx true false false w r
  | 47 => dAX .fsclAx true true false w r
  | 48 => dAX .fxtrAx true false false w r
  | 49 => dAX .fclsAx true true false w r
  | 50 => dAX .fcmp true true false w r
  | 51 => dAX .paddAx true true false w r
  | 52 => dAX .pmulAx true true false w r
  | 53 => dAX .pfma true true true w r
  | 54 => dAX .fdot4 false false true w r
  | 55 => dAX .cvt true false false w r
  | 56 => dAX .cvti true false false w r
  | 57 => dAX .cvtm false false false w r
  | 58 => dAX .tmvAx false true false w r
  | _ => none

/-- Table SCL (R58). -/
def decScl (w : Word) (r : List Word) : Option Dec :=
  match (w.extractLsb' 26 6).toNat with
  | 0 => dA .sadd true true w r
  | 1 => dA .ssub true true w r
  | 2 => dA .smul true true w r
  | 3 => dA .sand true true w r
  | 4 => dA .sor true true w r
  | 5 => dA .sxor true true w r
  | 6 => dA .sshl true true w r
  | 7 => dA .sshr true true w r
  | 8 => dA .ssar true true w r
  | 10 => dA .smov true false w r
  | 11 => dI .smovi w
  | 13 => dA .smin true true w r
  | 14 => dA .smax true true w r
  | 15 => dA .sldc true true w r
  | 16 => dM .sld .none w r
  | 17 => dI .srd w
  | 18 => dI .swr w
  | 32 => dAX .saddAx true true false w r
  | 33 => dAX .ssubAx true true false w r
  | 34 => dAX .smulAx true true false w r
  | 38 => dAX .sshlAx true true false w r
  | 39 => dAX .sshrAx true true false w r
  | 40 => dAX .ssarAx true true false w r
  | 41 => dAX .scmp true true false w r
  | 42 => dAX .smovAx true false false w r
  | 44 => dAX .ssel true true true w r
  | 45 => dAX .sminAx true true false w r
  | 46 => dAX .smaxAx true true false w r
  | _ => none

/-- Table MEM (R59). -/
def decMem (w : Word) (r : List Word) : Option Dec :=
  match (w.extractLsb' 26 6).toNat with
  | 0 => dM .ld .none w r
  | 1 => dM .st .store w r
  | 2 => dM .ldx .none w r
  | 3 => dM .stx .store w r
  | 4 => dM .ldc .none w r
  | 5 => dM .ldm .none w r
  | 6 => dM .stm .store w r
  | 7 => dM .atom .atomic w r
  | 8 => dM .atomn .atomic w r
  | 9 => dM .red .atomic w r
  | 10 => dM .atomm .atomic w r
  | 11 => dM .pref .none w r
  | 12 => dM .brec .none w r
  | 13 => dM .bchk .none w r
  | 14 => dM .probe .none w r
  | 15 => dY .rjn false w r
  | _ => none

/-- Table CNV (R60). -/
def decCnv (w : Word) (r : List Word) : Option Dec :=
  match (w.extractLsb' 26 6).toNat with
  | 0 => dC .cmode true false false false w r
  | 1 => dC .cbind true true true false w r
  | 2 => dC .czero true false false false w r
  | 3 => dC .cmma true false false false w r
  | 4 => dC .cmmas true false true false w r
  | 5 => dC .cacc false true true true w r
  | 6 => dC .crd false true true true w r
  | 7 => dC .cswp false true true false w r
  | 8 => dC .cstat false true false false w r
  | 9 => dC .cpin true false false false w r
  | 10 => dC .cunp true false false false w r
  | 11 => dC .cpy true false true ((mdOfC r).getLsbD 0) w r
  | 12 => dC .cpyw true true true ((mdOfC r).getLsbD 0) w r
  | 13 => if (mdOfC r).getLsbD 1 then dC .cpymTile true true true ((mdOfC r).getLsbD 0) w r else dC .cpymBox true false true ((mdOfC r).getLsbD 0) w r
  | 14 => dC .cpys true true true ((mdOfC r).getLsbD 0) w r
  | 15 => dC .cpyc true false true ((mdOfC r).getLsbD 0) w r
  | 16 => dC .sopn true true true false w r
  | 17 => dC .sadv true false false false w r
  | 18 => dC .stnd false false false false w r
  | 19 => dC .scls false false false false w r
  | 20 => dC .sget false false false false w r
  | _ => none

/-- Table CTL (R61). -/
def decCtl (w : Word) (r : List Word) : Option Dec :=
  match (w.extractLsb' 26 6).toNat with
  | 0 => dJ .br false w r
  | 1 => dJ .bru false w r
  | 2 => dJ .bri true w r
  | 3 => dJ .briu true w r
  | 4 => dJ .call false w r
  | 5 => dJ .calli true w r
  | 6 => dY .ret false w r
  | 7 => dJ .loop false w r
  | 8 => dY .exit false w r
  | 9 => dY .nop false w r
  | 10 => dY .yield false w r
  | 11 => dY .sleep false w r
  | 12 => dY .bkpt false w r
  | _ => none

/-- Table SYN (R62). -/
def decSyn (w : Word) (r : List Word) : Option Dec :=
  match (w.extractLsb' 26 6).toNat with
  | 0 => dY .phini true w r
  | 1 => dY .phreg true w r
  | 2 => dY .phdrp true w r
  | 3 => dY .pharr true w r
  | 4 => if w.getLsbD 6 then dY .phwtOut true w r else dY .phwt true w r
  | 5 => dY .phaw true w r
  | 6 => dY .phexp true w r
  | 7 => dY .phqry true w r
  | 8 => dY .bar false w r
  | 9 => dY .bart false w r
  | 10 => dY .bard false w r
  | 11 => dYX .waitf false w r
  | 12 => dY .fence false w r
  | 13 => dYX .mcall true w r
  | 14 => dY .waitj true w r
  | 15 =>
    match (w.extractLsb' 0 8).toNat with
    | 1 => dY .jmskOr true w r
    | 2 => dY .jmskClr true w r
    | 3 => dY .jmskRd false w r
    | _ => dY .jmskSet true w r
  | _ => none

/-- Table SYS (R62). -/
def decSys (w : Word) (r : List Word) : Option Dec :=
  match (w.extractLsb' 26 6).toNat with
  | 0 => dY .trap false w r
  | 1 =>
    match (w.extractLsb' 0 8).toNat with
    | 1 => dY .rftRetry false w r
    | 2 => dY .rftSkip false w r
    | _ => dY .rftRet false w r
  | 2 => dY .launch false w r
  | 3 => dY .lwait true w r
  | 4 => dY .qloc true w r
  | 5 => dY .qlep true w r
  | 6 => dY .cut false w r
  | 7 => dY .qspr true w r
  | 8 =>
    match (w.extractLsb' 0 8).toNat with
    | 1 => dY .icinvLaunch false w r
    | _ => dY .icinvCore false w r
  | 9 =>
    match (w.extractLsb' 0 8).toNat with
    | 1 => dY .erriRegu false w r
    | 2 => dY .erriCvc true w r
    | 3 => dY .erriCvu true w r
    | 4 => dY .erriRes true w r
    | 5 => dY .erriClone false w r
    | _ => dY .erriRegc false w r
  | _ => none

/-- The instruction at the head of a clause's words, by the clause's table; none for an unassigned opcode. -/
def decode (cls : BitVec 3) (ws : List Word) : Option Dec :=
  match ws with
  | [] => none
  | w :: r =>
    match cls.toNat with
    | 0 => decInt w r
    | 1 => decFlt w r
    | 2 => decScl w r
    | 3 => decMem w r
    | 4 => decCnv w r
    | 5 => decCtl w r
    | 6 => decSyn w r
    | _ => decSys w r

/-- A frame or rod word (R270, R271); none for OP 0x11 to 0x1F. -/
def decodeRod (w : Word) : Option Instr :=
  match (w.extractLsb' 27 5).toNat with
  | 0 => some (.ract (decR w))
  | 1 => some (.rldv (decR w))
  | 2 => some (.rwr (decR w))
  | 3 => some (.rmac (decR w))
  | 4 => some (.radd (decR w))
  | 5 => some (.rmul (decR w))
  | 6 => some (.rscl (decR w))
  | 7 => some (.rcmp (decR w))
  | 8 => some (.rsel (decR w))
  | 9 =>
    match (w.extractLsb' 0 2).toNat with
    | 0 => some (.rmskAnd (decR w))
    | 1 => some (.rmskOr (decR w))
    | 2 => some (.rmskAndn (decR w))
    | _ => some (.rmskLd (decR w))
  | 10 => some (.rskp (decR w))
  | 11 => some (.rsum (decR w))
  | 12 => some (.rloop (decR w))
  | 13 => some (.rend (decR w))
  | 14 => some (.ired (decR w))
  | 15 => some (.xred (decR w))
  | 16 => some (.fill (decR w))
  | _ => none

/-! ## Encoding -/

def encLit (cap : Bool) (f : Fld) : List Word := if cap && f.code == 0xFF then [f.lit] else []

def bit1 (b : Bool) : BitVec 1 := BitVec.ofBool b

def encA (op : BitVec 6) (ca cb : Bool) (f : FmtA) : List Word :=
  (op ++ f.g ++ f.d ++ f.a.code ++ f.b.code) :: (encLit ca f.a ++ encLit cb f.b)
def encAX (op : BitVec 6) (ca cb cc : Bool) (f : FmtAX) : List Word :=
  (op ++ f.g ++ f.d ++ f.a.code ++ f.b.code)
  :: (f.c.code ++ f.ty ++ f.sty ++ f.rnd ++ f.neg ++ f.abs ++ bit1 f.sat ++ bit1 f.fs ++ bit1 f.wide ++ f.md)
  :: (encLit ca f.a ++ encLit cb f.b ++ encLit cc f.c)
def encI (op : BitVec 6) (f : FmtI) : List Word := [op ++ f.g ++ f.d ++ f.imm]
def encM (op : BitVec 6) (dat : DatK) (f : FmtM) : List Word :=
  (op ++ f.g ++ f.d ++ f.buf ++ f.sz ++ bit1 f.fs ++ f.idx.code)
  :: (f.off ++ f.aop ++ bit1 f.nt ++ bit1 f.spl ++ bit1 f.sx ++ f.data.code)
  :: (encLit true f.idx ++ encLit (capData dat f.sz f.aop) f.data)
def encC (op : BitVec 6) (ca cb cc ce : Bool) (f : FmtC) : List Word :=
  (op ++ f.g ++ f.d ++ f.a.code ++ f.b.code)
  :: (f.c.code ++ f.e.code ++ f.vw ++ f.q ++ bit1 f.qen ++ bit1 f.fs ++ f.md ++ (0#4))
  :: (encLit ca f.a ++ encLit cb f.b ++ encLit cc f.c ++ encLit ce f.e)
def encJ (op : BitVec 6) (ca : Bool) (f : FmtJ) : List Word :=
  (op ++ f.g ++ f.d ++ f.cp ++ (0#4) ++ f.a.code) :: (f.tgt ++ f.rj) :: encLit ca f.a
def encY (op : BitVec 6) (ca : Bool) (f : FmtY) : List Word := (op ++ f.g ++ f.d ++ f.a.code ++ f.k) :: encLit ca f.a
def encYX (op : BitVec 6) (ca : Bool) (f : FmtYX) : List Word := (op ++ f.g ++ f.d ++ f.a.code ++ f.k) :: f.imm :: encLit ca f.a
def encR (op : BitVec 5) (f : FmtR) : List Word := [op ++ f.d ++ f.a ++ f.b ++ f.m ++ f.t ++ f.imm]

/-- The words of an instruction; the rows that are no words have none. -/
def encode (i : Instr) : List Word :=
  match i with
  | .powerGood => []
  | .powerOff => []
  | .trestleLinkUp => []
  | .imageLoad => []
  | .imageComplete => []
  | .diesUp => []
  | .stacksTrained => []
  | .memoryInitialised => []
  | .mapRestore => []
  | .partDefine => []
  | .attest => []
  | .deviceId => []
  | .fuseMin => []
  | .configDone => []
  | .mapUpdateReply => []
  | .thermalWarning => []
  | .thermalTrip => []
  | .launchMessage => []
  | .launchAccept => []
  | .workgroupPlace => []
  | .groupEnd => []
  | .launchRetire => []
  | .clauseFetch => []
  | .activeSetExchange => []
  | .schedulerRotate => []
  | .branchResolve => []
  | .sectorReturn => []
  | .storePerformed => []
  | .atomicPerformed => []
  | .laneWordComplete => []
  | .faultReply => []
  | .pageFaultTrap => []
  | .shootdown => []
  | .retiredListRead => []
  | .bankQueueEntry => []
  | .kblockDone => []
  | .copyStart => []
  | .copyDelivery => []
  | .copyComplete => []
  | .tileAttemptEnd => []
  | .tileReadTimeout => []
  | .rowRepair => []
  | .bankRemap => []
  | .bankRemapPiece => []
  | .tsvSwap => []
  | .repairWindowEnd => []
  | .mcallCallAccept => []
  | .callEnd => []
  | .callTimeout => []
  | .xredSourceTimeout => []
  | .rodYield => []
  | .yieldWindowLimit => []
  | .barrierCombine => []
  | .sleepWake => []
  | .replayExecute => []
  | .replayQueueAgeLimit => []
  | .intervalTimeLimit => []
  | .preempt => []
  | .saveComplete => []
  | .restore => []
  | .monitorPeriodEnd => []
  | .thresholdCrossing => []
  | .quiesce => []
  | .transfer => []
  | .commit => []
  | .sourceOutOfService => []
  | .checkpoint => []
  | .checkpointEnd => []
  | .peerLinkUp => []
  | .peerLoss => []
  | .peerUp => []
  | .iadd w => encAX 0 true true false w
  | .iaddc w => encAX 1 true true false w
  | .isub w => encAX 2 true true false w
  | .isubb w => encAX 3 true true false w
  | .imul w => encAX 4 true true false w
  | .imulh w => encAX 5 true true false w
  | .imad w => encAX 6 true true true w
  | .idiv w => encAX 7 true true false w
  | .irem w => encAX 8 true true false w
  | .imin w => encAX 9 true true false w
  | .imax w => encAX 10 true true false w
  | .iabs w => encAX 11 true false false w
  | .ineg w => encAX 12 true false false w
  | .and w => encA 13 true true w
  | .or w => encA 14 true true w
  | .xor w => encA 15 true true w
  | .andn w => encA 16 true true w
  | .not w => encA 17 true false w
  | .shl w => encAX 18 true true false w
  | .shr w => encAX 19 true true false w
  | .sar w => encAX 20 true true false w
  | .rol w => encA 21 true true w
  | .popc w => encA 22 true false w
  | .clz w => encA 23 true false w
  | .ctz w => encA 24 true false w
  | .brev w => encA 25 true false w
  | .bfx w => encAX 26 true true false w
  | .bfi w => encAX 27 true true true w
  | .bmix w => encAX 28 true true true w
  | .isat w => encAX 29 true false false w
  | .vcmp w => encAX 30 true true false w
  | .vsel w => encAX 31 true true false w
  | .pand w => encA 32 false false w
  | .por w => encA 33 false false w
  | .pxor w => encA 34 false false w
  | .pnot w => encA 35 false false w
  | .pmov w => encA 36 false false w
  | .pany w => encA 37 false false w
  | .pall w => encA 38 false false w
  | .pcnt w => encA 39 false false w
  | .pset w => encA 40 true false w
  | .mov w => encA 41 true false w
  | .movi w => encI 42 w
  | .movs w => encA 43 true false w
  | .rdln w => encA 44 false true w
  | .wrln w => encA 45 false true w
  | .qswp w => encA 46 false false w
  | .qbc w => encA 47 false true w
  | .gshf w => encA 48 false true w
  | .gbc w => encA 49 false true w
  | .gred w => encAX 50 true false false w
  | .gscn w => encAX 51 true false false w
  | .ballot w => encA 52 false false w
  | .fadd w => encA 0 true true w
  | .faddAx w => encAX 32 true true false w
  | .fmul w => encA 1 true true w
  | .fmulAx w => encAX 33 true true false w
  | .ffma w => encAX 34 true true true w
  | .fmin w => encA 3 true true w
  | .fminAx w => encAX 35 true true false w
  | .fmax w => encA 4 true true w
  | .fmaxAx w => encAX 36 true true false w
  | .fdiv w => encA 5 true true w
  | .fdivAx w => encAX 37 true true false w
  | .frcp w => encA 6 true false w
  | .frcpAx w => encAX 38 true false false w
  | .frsq w => encA 7 true false w
  | .frsqAx w => encAX 39 true false false w
  | .fsqrt w => encA 8 true false w
  | .fsqrtAx w => encAX 40 true false false w
  | .fexp2 w => encA 9 true false w
  | .fexp2Ax w => encAX 41 true false false w
  | .flog2 w => encA 10 true false w
  | .flog2Ax w => encAX 42 true false false w
  | .fsin w => encA 11 true false w
  | .fsinAx w => encAX 43 true false false w
  | .fcos w => encA 12 true false w
  | .fcosAx w => encAX 44 true false false w
  | .ftanh w => encA 13 true false w
  | .ftanhAx w => encAX 45 true false false w
  | .frnd w => encA 14 true false w
  | .frndAx w => encAX 46 true false false w
  | .fscl w => encA 15 true true w
  | .fsclAx w => encAX 47 true true false w
  | .fxtr w => encA 16 true false w
  | .fxtrAx w => encAX 48 true false false w
  | .fcls w => encA 17 true true w
  | .fclsAx w => encAX 49 true true false w
  | .fcmp w => encAX 50 true true false w
  | .padd w => encA 19 true true w
  | .paddAx w => encAX 51 true true false w
  | .pmul w => encA 20 true true w
  | .pmulAx w => encAX 52 true true false w
  | .pfma w => encAX 53 true true true w
  | .fdot4 w => encAX 54 false false true w
  | .cvt w => encAX 55 true false false w
  | .cvti w => encAX 56 true false false w
  | .cvtm w => encAX 57 false false false w
  | .tmv w => encA 26 false true w
  | .tmvAx w => encAX 58 false true false w
  | .sadd w => encA 0 true true w
  | .saddAx w => encAX 32 true true false w
  | .ssub w => encA 1 true true w
  | .ssubAx w => encAX 33 true true false w
  | .smul w => encA 2 true true w
  | .smulAx w => encAX 34 true true false w
  | .sand w => encA 3 true true w
  | .sor w => encA 4 true true w
  | .sxor w => encA 5 true true w
  | .sshl w => encA 6 true true w
  | .sshlAx w => encAX 38 true true false w
  | .sshr w => encA 7 true true w
  | .sshrAx w => encAX 39 true true false w
  | .ssar w => encA 8 true true w
  | .ssarAx w => encAX 40 true true false w
  | .scmp w => encAX 41 true true false w
  | .smov w => encA 10 true false w
  | .smovAx w => encAX 42 true false false w
  | .smovi w => encI 11 w
  | .ssel w => encAX 44 true true true w
  | .smin w => encA 13 true true w
  | .sminAx w => encAX 45 true true false w
  | .smax w => encA 14 true true w
  | .smaxAx w => encAX 46 true true false w
  | .sldc w => encA 15 true true w
  | .sld w => encM 16 .none w
  | .srd w => encI 17 w
  | .swr w => encI 18 w
  | .ld w => encM 0 .none w
  | .st w => encM 1 .store w
  | .ldx w => encM 2 .none w
  | .stx w => encM 3 .store w
  | .ldc w => encM 4 .none w
  | .ldm w => encM 5 .none w
  | .stm w => encM 6 .store w
  | .atom w => encM 7 .atomic w
  | .atomn w => encM 8 .atomic w
  | .red w => encM 9 .atomic w
  | .atomm w => encM 10 .atomic w
  | .pref w => encM 11 .none w
  | .brec w => encM 12 .none w
  | .bchk w => encM 13 .none w
  | .probe w => encM 14 .none w
  | .rjn w => encY 15 false w
  | .cmode w => encC 0 true false false false w
  | .cbind w => encC 1 true true true false w
  | .czero w => encC 2 true false false false w
  | .cmma w => encC 3 true false false false w
  | .cmmas w => encC 4 true false true false w
  | .cacc w => encC 5 false true true true w
  | .crd w => encC 6 false true true true w
  | .cswp w => encC 7 false true true false w
  | .cstat w => encC 8 false true false false w
  | .cpin w => encC 9 true false false false w
  | .cunp w => encC 10 true false false false w
  | .cpy w => encC 11 true false true (w.md.getLsbD 0) w
  | .cpyw w => encC 12 true true true (w.md.getLsbD 0) w
  | .cpymBox w => encC 13 true false true (w.md.getLsbD 0) w
  | .cpymTile w => encC 13 true true true (w.md.getLsbD 0) w
  | .cpys w => encC 14 true true true (w.md.getLsbD 0) w
  | .cpyc w => encC 15 true false true (w.md.getLsbD 0) w
  | .sopn w => encC 16 true true true false w
  | .sadv w => encC 17 true false false false w
  | .stnd w => encC 18 false false false false w
  | .scls w => encC 19 false false false false w
  | .sget w => encC 20 false false false false w
  | .br w => encJ 0 false w
  | .bru w => encJ 1 false w
  | .bri w => encJ 2 true w
  | .briu w => encJ 3 true w
  | .call w => encJ 4 false w
  | .calli w => encJ 5 true w
  | .ret w => encY 6 false w
  | .loop w => encJ 7 false w
  | .exit w => encY 8 false w
  | .nop w => encY 9 false w
  | .yield w => encY 10 false w
  | .sleep w => encY 11 false w
  | .bkpt w => encY 12 false w
  | .phini w => encY 0 true w
  | .phreg w => encY 1 true w
  | .phdrp w => encY 2 true w
  | .pharr w => encY 3 true w
  | .phwt w => encY 4 true w
  | .phwtOut w => encY 4 true w
  | .phaw w => encY 5 true w
  | .phexp w => encY 6 true w
  | .phqry w => encY 7 true w
  | .bar w => encY 8 false w
  | .bart w => encY 9 false w
  | .bard w => encY 10 false w
  | .waitf w => encYX 11 false w
  | .fence w => encY 12 false w
  | .mcall w => encYX 13 true w
  | .waitj w => encY 14 true w
  | .jmskSet w => encY 15 true w
  | .jmskOr w => encY 15 true w
  | .jmskClr w => encY 15 true w
  | .jmskRd w => encY 15 false w
  | .trap w => encY 0 false w
  | .rftRet w => encY 1 false w
  | .rftRetry w => encY 1 false w
  | .rftSkip w => encY 1 false w
  | .launch w => encY 2 false w
  | .lwait w => encY 3 true w
  | .qloc w => encY 4 true w
  | .qlep w => encY 5 true w
  | .cut w => encY 6 false w
  | .qspr w => encY 7 true w
  | .icinvCore w => encY 8 false w
  | .icinvLaunch w => encY 8 false w
  | .erriRegc w => encY 9 false w
  | .erriRegu w => encY 9 false w
  | .erriCvc w => encY 9 true w
  | .erriCvu w => encY 9 true w
  | .erriRes w => encY 9 true w
  | .erriClone w => encY 9 false w
  | .ract w => encR 0 w
  | .rldv w => encR 1 w
  | .rwr w => encR 2 w
  | .rmac w => encR 3 w
  | .radd w => encR 4 w
  | .rmul w => encR 5 w
  | .rscl w => encR 6 w
  | .rcmp w => encR 7 w
  | .rsel w => encR 8 w
  | .rmskAnd w => encR 9 w
  | .rmskOr w => encR 9 w
  | .rmskAndn w => encR 9 w
  | .rmskLd w => encR 9 w
  | .rskp w => encR 10 w
  | .rsum w => encR 11 w
  | .rloop w => encR 12 w
  | .rend w => encR 13 w
  | .ired w => encR 14 w
  | .xred w => encR 15 w
  | .fill w => encR 16 w
  | .companionWrite => []
  | .companionRead => []
  | .peerAccess => []
  | .peerLinkDown => []
  | .redAccepted => []

/-- The table a clause word stands in; none for frame words and for rows that are no words. -/
def clsOf (i : Instr) : Option (BitVec 3) :=
  match i with
  | .iadd _ => some 0
  | .iaddc _ => some 0
  | .isub _ => some 0
  | .isubb _ => some 0
  | .imul _ => some 0
  | .imulh _ => some 0
  | .imad _ => some 0
  | .idiv _ => some 0
  | .irem _ => some 0
  | .imin _ => some 0
  | .imax _ => some 0
  | .iabs _ => some 0
  | .ineg _ => some 0
  | .and _ => some 0
  | .or _ => some 0
  | .xor _ => some 0
  | .andn _ => some 0
  | .not _ => some 0
  | .shl _ => some 0
  | .shr _ => some 0
  | .sar _ => some 0
  | .rol _ => some 0
  | .popc _ => some 0
  | .clz _ => some 0
  | .ctz _ => some 0
  | .brev _ => some 0
  | .bfx _ => some 0
  | .bfi _ => some 0
  | .bmix _ => some 0
  | .isat _ => some 0
  | .vcmp _ => some 0
  | .vsel _ => some 0
  | .pand _ => some 0
  | .por _ => some 0
  | .pxor _ => some 0
  | .pnot _ => some 0
  | .pmov _ => some 0
  | .pany _ => some 0
  | .pall _ => some 0
  | .pcnt _ => some 0
  | .pset _ => some 0
  | .mov _ => some 0
  | .movi _ => some 0
  | .movs _ => some 0
  | .rdln _ => some 0
  | .wrln _ => some 0
  | .qswp _ => some 0
  | .qbc _ => some 0
  | .gshf _ => some 0
  | .gbc _ => some 0
  | .gred _ => some 0
  | .gscn _ => some 0
  | .ballot _ => some 0
  | .fadd _ => some 1
  | .faddAx _ => some 1
  | .fmul _ => some 1
  | .fmulAx _ => some 1
  | .ffma _ => some 1
  | .fmin _ => some 1
  | .fminAx _ => some 1
  | .fmax _ => some 1
  | .fmaxAx _ => some 1
  | .fdiv _ => some 1
  | .fdivAx _ => some 1
  | .frcp _ => some 1
  | .frcpAx _ => some 1
  | .frsq _ => some 1
  | .frsqAx _ => some 1
  | .fsqrt _ => some 1
  | .fsqrtAx _ => some 1
  | .fexp2 _ => some 1
  | .fexp2Ax _ => some 1
  | .flog2 _ => some 1
  | .flog2Ax _ => some 1
  | .fsin _ => some 1
  | .fsinAx _ => some 1
  | .fcos _ => some 1
  | .fcosAx _ => some 1
  | .ftanh _ => some 1
  | .ftanhAx _ => some 1
  | .frnd _ => some 1
  | .frndAx _ => some 1
  | .fscl _ => some 1
  | .fsclAx _ => some 1
  | .fxtr _ => some 1
  | .fxtrAx _ => some 1
  | .fcls _ => some 1
  | .fclsAx _ => some 1
  | .fcmp _ => some 1
  | .padd _ => some 1
  | .paddAx _ => some 1
  | .pmul _ => some 1
  | .pmulAx _ => some 1
  | .pfma _ => some 1
  | .fdot4 _ => some 1
  | .cvt _ => some 1
  | .cvti _ => some 1
  | .cvtm _ => some 1
  | .tmv _ => some 1
  | .tmvAx _ => some 1
  | .sadd _ => some 2
  | .saddAx _ => some 2
  | .ssub _ => some 2
  | .ssubAx _ => some 2
  | .smul _ => some 2
  | .smulAx _ => some 2
  | .sand _ => some 2
  | .sor _ => some 2
  | .sxor _ => some 2
  | .sshl _ => some 2
  | .sshlAx _ => some 2
  | .sshr _ => some 2
  | .sshrAx _ => some 2
  | .ssar _ => some 2
  | .ssarAx _ => some 2
  | .scmp _ => some 2
  | .smov _ => some 2
  | .smovAx _ => some 2
  | .smovi _ => some 2
  | .ssel _ => some 2
  | .smin _ => some 2
  | .sminAx _ => some 2
  | .smax _ => some 2
  | .smaxAx _ => some 2
  | .sldc _ => some 2
  | .sld _ => some 2
  | .srd _ => some 2
  | .swr _ => some 2
  | .ld _ => some 3
  | .st _ => some 3
  | .ldx _ => some 3
  | .stx _ => some 3
  | .ldc _ => some 3
  | .ldm _ => some 3
  | .stm _ => some 3
  | .atom _ => some 3
  | .atomn _ => some 3
  | .red _ => some 3
  | .atomm _ => some 3
  | .pref _ => some 3
  | .brec _ => some 3
  | .bchk _ => some 3
  | .probe _ => some 3
  | .rjn _ => some 3
  | .cmode _ => some 4
  | .cbind _ => some 4
  | .czero _ => some 4
  | .cmma _ => some 4
  | .cmmas _ => some 4
  | .cacc _ => some 4
  | .crd _ => some 4
  | .cswp _ => some 4
  | .cstat _ => some 4
  | .cpin _ => some 4
  | .cunp _ => some 4
  | .cpy _ => some 4
  | .cpyw _ => some 4
  | .cpymBox _ => some 4
  | .cpymTile _ => some 4
  | .cpys _ => some 4
  | .cpyc _ => some 4
  | .sopn _ => some 4
  | .sadv _ => some 4
  | .stnd _ => some 4
  | .scls _ => some 4
  | .sget _ => some 4
  | .br _ => some 5
  | .bru _ => some 5
  | .bri _ => some 5
  | .briu _ => some 5
  | .call _ => some 5
  | .calli _ => some 5
  | .ret _ => some 5
  | .loop _ => some 5
  | .exit _ => some 5
  | .nop _ => some 5
  | .yield _ => some 5
  | .sleep _ => some 5
  | .bkpt _ => some 5
  | .phini _ => some 6
  | .phreg _ => some 6
  | .phdrp _ => some 6
  | .pharr _ => some 6
  | .phwt _ => some 6
  | .phwtOut _ => some 6
  | .phaw _ => some 6
  | .phexp _ => some 6
  | .phqry _ => some 6
  | .bar _ => some 6
  | .bart _ => some 6
  | .bard _ => some 6
  | .waitf _ => some 6
  | .fence _ => some 6
  | .mcall _ => some 6
  | .waitj _ => some 6
  | .jmskSet _ => some 6
  | .jmskOr _ => some 6
  | .jmskClr _ => some 6
  | .jmskRd _ => some 6
  | .trap _ => some 7
  | .rftRet _ => some 7
  | .rftRetry _ => some 7
  | .rftSkip _ => some 7
  | .launch _ => some 7
  | .lwait _ => some 7
  | .qloc _ => some 7
  | .qlep _ => some 7
  | .cut _ => some 7
  | .qspr _ => some 7
  | .icinvCore _ => some 7
  | .icinvLaunch _ => some 7
  | .erriRegc _ => some 7
  | .erriRegu _ => some 7
  | .erriCvc _ => some 7
  | .erriCvu _ => some 7
  | .erriRes _ => some 7
  | .erriClone _ => some 7
  | _ => none

/-! ## Clause headers (R36, R37) -/

/-- The fields of a clause header. -/
structure Hdr where
  len : Nat
  cls : BitVec 3
  wait : BitVec 12
  setA : BitVec 4
  setB : BitVec 4
  yld : Bool
  nspec : Bool
  rsv : BitVec 3
deriving DecidableEq, Repr

def hdrOf (h : Word) : Hdr :=
  { len := (h.extractLsb' 28 4).toNat, cls := h.extractLsb' 25 3, wait := h.extractLsb' 13 12, setA := h.extractLsb' 9 4,
    setB := h.extractLsb' 5 4, yld := h.getLsbD 4, nspec := h.getLsbD 3, rsv := h.extractLsb' 0 3 }

/-- A header from its fields (R36). -/
def encodeHdr (h : Hdr) : Word :=
  BitVec.ofNat 4 h.len ++ h.cls ++ h.wait ++ h.setA ++ h.setB ++ bit1 h.yld ++ bit1 h.nspec ++ h.rsv

/-- The walk of R37 over a clause's words: subcode 4 where an instruction runs past LEN, 5 where one follows
a flow word; it stops at an unassigned opcode. -/
def walkSubs (cls : BitVec 3) : Nat → Bool → List Word → List Nat
  | 0, _, _ => []
  | fuel + 1, flow, ws =>
    match ws with
    | [] => []
    | w :: r =>
      (if flow then [5] else []) ++
      (match decode cls (w :: r) with
       | none => []
       | some d =>
         if r.length + 1 < d.len then [4]
         else walkSubs cls fuel (flow || isFlow d.i) ((w :: r).drop d.len))

def minSub (l : List Nat) : Option Nat := l.foldl (fun m x => match m with | none => some x | some y => some (min x y)) none

/-- The subcode that a header with the words after it takes, if any (R37, R63). -/
def hdrSub (h : Word) (ws : List Word) : Option Nat :=
  let f := hdrOf h
  let badSet := fun (s : BitVec 4) => decide (12 ≤ s.toNat ∧ s.toNat ≤ 14)
  minSub ((if f.len = 0 then [1] else []) ++ (if f.rsv != 0 then [2] else []) ++ (if badSet f.setA || badSet f.setB then [3] else [])
    ++ walkSubs f.cls ws.length false ws)

/-- The subcode an instruction takes when it issues, if any (R63, R64). -/
def wordSub (vc : Nat) (vw : List Word) (d : Dec) : Option Nat := minSub ((if d.rsv then [7] else []) ++ subcodes vc vw d.i)

/-! ## The table's words -/

/-- The 32-bit words of a number, the first lowest. -/
def wordsOf : Nat → Nat → List Word
  | 0, _ => []
  | k + 1, w => BitVec.ofNat 32 w :: wordsOf k (w / 2 ^ 32)

/-- Rows of the opcode table that give their bits, by mask, match and table (8 for frame words), SCL first (its guard is fixed), then those with the most fixed bits. -/
def tableRows0 : List (Nat × Nat × Nat) :=
  [(0xFFC000FF, 0x2B800000, 2),
   (0xFFC00000, 0x03800000, 2),
   (0xFFC00000, 0x07800000, 2),
   (0xFFC00000, 0x0B800000, 2),
   (0xFFC00000, 0x0F800000, 2),
   (0xFFC00000, 0x13800000, 2),
   (0xFFC00000, 0x17800000, 2),
   (0xFFC00000, 0x1B800000, 2),
   (0xFFC00000, 0x1F800000, 2),
   (0xFFC00000, 0x23800000, 2),
   (0xFFC00000, 0x2F800000, 2),
   (0xFFC00000, 0x37800000, 2),
   (0xFFC00000, 0x3B800000, 2),
   (0xFFC00000, 0x3F800000, 2),
   (0xFFC00000, 0x47800000, 2),
   (0xFFC00000, 0x4B800000, 2),
   (0xFFFFFFFF, 0x68000000, 8),
   (0xFC7FFFFF, 0x3C000000, 3),
   (0xFC7FFFFF, 0x20000000, 5),
   (0xFC7FFFFF, 0x24000000, 5),
   (0xFC7FFFFF, 0x28000000, 5),
   (0xFC7FFFFF, 0x20000000, 6),
   (0xFC7FFFFF, 0x24000000, 6),
   (0xFC7FFFFF, 0x28000000, 6),
   (0xFC7FFFFF, 0x04000000, 7),
   (0xFC7FFFFF, 0x04000001, 7),
   (0xFC7FFFFF, 0x04000002, 7),
   (0xFC7FFFFF, 0x18000000, 7),
   (0xFC7FFFFF, 0x20000000, 7),
   (0xFC7FFFFF, 0x20000001, 7),
   (0xFC7FFFFF, 0x2400C005, 7),
   (0xFC1FFFFF, 0x48000003, 8)]
def tableRows1 : List (Nat × Nat × Nat) :=
  [(0xFC93FFFF, 0x48000000, 8),
   (0xFC93FFFF, 0x48000001, 8),
   (0xFC93FFFF, 0x48000002, 8),
   (0xFF1F3FFE, 0x78000000, 8),
   (0xFC7FFF07, 0x30000000, 6),
   (0xFF033FFE, 0x70000000, 8),
   (0xF803FFFF, 0x80000000, 8),
   (0xFC78F0FF, 0x8C000000, 0),
   (0xFC78F0FF, 0x90000000, 0),
   (0xFC78F0FF, 0x94000000, 0),
   (0xFC78F0FF, 0x98000000, 0),
   (0xF8DC3FFC, 0x58000000, 8),
   (0xFC7F00FF, 0x18000000, 5),
   (0xFC7FFF00, 0x2C000000, 5),
   (0xFC7FFF00, 0x30000000, 5),
   (0xFC7F00FF, 0x0C000000, 6),
   (0xFC7F00FF, 0x10000040, 6),
   (0xFC7F00FF, 0x14000000, 6),
   (0xFC7FFF00, 0x00000000, 7),
   (0xFC7F00FF, 0x0C000000, 7),
   (0xFC7F00FF, 0x24000000, 7),
   (0xFC7F00FF, 0x24000001, 7),
   (0xFC7F00FF, 0x24000002, 7),
   (0xFC7F00FF, 0x24000003, 7),
   (0xFC7F00FF, 0x24000004, 7),
   (0xFE003FFF, 0x18000000, 8),
   (0xF8FFFF00, 0x50000000, 8),
   (0xFC78C0FF, 0x3C008003, 6),
   (0xF8003FFF, 0x20000000, 8),
   (0xF8003FFF, 0x28000000, 8),
   (0xF8003FFF, 0x30000000, 8),
   (0xF800FFFC, 0x40000000, 8)]
def tableRows2 : List (Nat × Nat × Nat) :=
  [(0xFC78F0F0, 0x80000000, 0),
   (0xFC78F0F0, 0x84000000, 0),
   (0xFC78F0F0, 0x88000000, 0),
   (0xFC00F0FF, 0x9C000000, 0),
   (0xFC7800FF, 0xA0000000, 0),
   (0xFC00F0FF, 0xD0000000, 0),
   (0xFC7F00F8, 0x04000000, 6),
   (0xFC7F00F8, 0x08000000, 6),
   (0xFC7800FF, 0x38000000, 6),
   (0xFC7800FF, 0x3C000000, 6),
   (0xFC7800FF, 0x3C000001, 6),
   (0xFC7800FF, 0x3C000002, 6),
   (0xFC40C1FF, 0x08008000, 7),
   (0xF81F3FC0, 0x08000000, 8),
   (0xFC003FF8, 0x38000000, 8),
   (0xF81FFE00, 0x60000000, 8),
   (0xF81C3FC0, 0x10000000, 8),
   (0xFC7F00C0, 0x00000000, 6),
   (0xFC7F00C0, 0x10000000, 6),
   (0xFC7F00C0, 0x18000000, 6),
   (0xFC4000FF, 0x14000000, 7),
   (0xFF1FC000, 0x00000000, 8),
   (0xFC0000FF, 0x44000000, 0),
   (0xFC0000FF, 0x58000000, 0),
   (0xFC0000FF, 0x5C000000, 0),
   (0xFC0000FF, 0x60000000, 0),
   (0xFC0000FF, 0x64000000, 0),
   (0xFC0000FF, 0xA4000000, 0),
   (0xFC0000FF, 0x18000000, 1),
   (0xFC0000FF, 0x1C000000, 1),
   (0xFC0000FF, 0x20000000, 1),
   (0xFC0000FF, 0x24000000, 1)]
def tableRows3 : List (Nat × Nat × Nat) :=
  [(0xFC0000FF, 0x28000000, 1),
   (0xFC0000FF, 0x2C000000, 1),
   (0xFC0000FF, 0x30000000, 1),
   (0xFC0000FF, 0x34000000, 1),
   (0xFC0000FF, 0x38000000, 1),
   (0xFC0000FF, 0x40000000, 1),
   (0xFC0000FC, 0xB80000C0, 0),
   (0xFC780000, 0x44000000, 1),
   (0xFC400000, 0x1C000000, 6),
   (0xFC400000, 0x10000000, 7),
   (0xFC400000, 0x1C000000, 7),
   (0xFC000000, 0x34000000, 0),
   (0xFC000000, 0x38000000, 0),
   (0xFC000000, 0x3C000000, 0),
   (0xFC000000, 0x40000000, 0),
   (0xFC000000, 0x54000000, 0),
   (0xFC000000, 0xA8000000, 0),
   (0xFC000000, 0xAC000000, 0),
   (0xFC000000, 0xB0000000, 0),
   (0xFC000000, 0xB4000000, 0),
   (0xFC000000, 0xBC000000, 0),
   (0xFC000000, 0xC0000000, 0),
   (0xFC000000, 0xC4000000, 0),
   (0xFC000000, 0x00000000, 1),
   (0xFC000000, 0x04000000, 1),
   (0xFC000000, 0x0C000000, 1),
   (0xFC000000, 0x10000000, 1),
   (0xFC000000, 0x14000000, 1),
   (0xFC000000, 0x3C000000, 1),
   (0xFC000000, 0x4C000000, 1),
   (0xFC000000, 0x50000000, 1),
   (0xFC000000, 0x68000000, 1)]
def tableRows : List (Nat × Nat × Nat) := tableRows0 ++ tableRows1 ++ tableRows2 ++ tableRows3

/-- The table a word stands in: the opcode table gives a word no CLS, so a row with exactly the word's bits
names it, else the first of `tableRows` whose fixed bits the word has (log 17). -/
def tableOf (w : Nat) : Option Nat :=
  ((tableRows.find? (fun r => w == r.2.1)) <|> (tableRows.find? (fun r => Nat.land w r.1 == r.2.1))).map (fun r => r.2.2)

/-- The words of an instruction whose bits are `w`: those above `nbits` are zero. -/
def tableWords (nbits w : Nat) : List Word := wordsOf 6 (w % 2 ^ nbits)

/-- The instruction the decoder reads from words that stand in the table `tableOf` names. -/
def decodeTableWord (nbits w : Nat) : Option Instr :=
  match tableOf (w % 2 ^ nbits) with
  | none => none
  | some k =>
    if k = 8 then decodeRod (BitVec.ofNat 32 w)
    else (decode (BitVec.ofNat 3 k) (tableWords nbits w)).map Dec.i

end Sys2Proof
end

