-- ==== Sys2Proof/Machine/State.lean ====
section
/-! DEFINITION. The state of the machine as plain data: device, partitions, launches, workgroups, groups, quads,
canvas banks, copies, frame calls, cores, stacks and memory; the faults and refusals; the state after reset. -/
namespace Sys2Proof.Machine

/-- The reasons a step can stop with a fault. The manual stops the device nowhere; these name states in
which no agent of the manual stands. -/
inductive Fault where
  /-- A clause word is executed in a state where no gang is issuing (`State.cur` is none). Raised by
  every meaning of a clause word; `step` never does so. Safe: the hardware is in no such state. -/
  | noIssuer
  /-- A frame or rod word is executed in a state where no call is executing (`State.curCall` is none).
  Raised by every meaning of a frame or rod word; `step` never does so. Safe: the hardware is in no such state. -/
  | noCall
deriving DecidableEq, Repr

/-- The reasons a step can be refused. -/
inductive Refusal where
  /-- The instruction has no meaning in the model yet. Safe: the model says nothing of it. -/
  | notModelled (mnemonic : String)
deriving DecidableEq, Repr

/-- Trap kinds, in the order of R315; ILLEGAL_OP is code 1. -/
inductive TrapKind where
  | illegalOp | uniformity | reconvOverflow | breakpoint | software | nonfinite | readOnlyBuffer
  | accessSize | outOfBounds | canvasBounds | rangeHazard | pageFault | memoryPoison | badRecord
  | canvasState | weightInvalid | copyState | phaserState | badBarrier | handlerState | peerLost
deriving DecidableEq, Repr, Inhabited

/-- A 32-bit register slot with its poison bit (R200). -/
structure Slot where
  val : Word
  poison : Bool
deriving DecidableEq, Repr, Inhabited

/-! ## Sequencers (R114, R115, R325) -/

inductive StreamState where
  | closed | opened | ended | endedErr
deriving DecidableEq, Repr, Inhabited

/-- A sparse stream (R265); a frame's stream holds the virtual address AUX in `addr` (R275). -/
structure Stream where
  st : StreamState
  addr : DWord
  len : Word
  limit : Word
  cur : Word
  pos : Word
deriving DecidableEq, Repr, Inhabited

inductive EntryKind where
  | lane | gang
deriving DecidableEq, Repr, Inhabited

/-- A fetched clause (R36, R38): the header's address, its fields and the words that follow it. -/
structure Clause where
  hdr : Word
  len : Nat
  cls : BitVec 3
  wait : BitVec 12
  setA : BitVec 4
  setB : BitVec 4
  yld : Bool
  nspec : Bool
  words : List Word
deriving DecidableEq, Repr, Inhabited

/-- A reconvergence stack entry (R115). -/
structure StackEntry where
  kind : EntryKind
  rpc : Option Word
  ppc : Word
  pmask : QMask
  omask : QMask
  sib : QMask
  spec : Bool
  /-- The clause that PPC stands in, where PPC is a word and no header (R134). -/
  clause : Option Clause
  /-- Its pending lanes have resumed at PPC, a word, and not issued it yet (R134 step 3). -/
  again : Bool
deriving DecidableEq, Repr, Inhabited

/-- Why a gang is parked, with the argument of R325. -/
inductive Park where
  | none
  | bar | bart | bard
  /-- At a phaser: workgroup, byte offset, generation waited past. -/
  | phwt (wg boff gen : Nat)
  | phwtOut (wg boff : Nat)
  | phaw (wg boff gen : Nat)
  | waitf (mask : BitVec 12)
  | waitj (j : Nat) (mask : LMask)
  /-- LWAIT on the launch with this identifier (bound at issue, R107), and the word's own address. -/
  | lwait (launch : Nat) (pc : Word)
  | sleep (wake : Nat)
  /-- LAUNCH waiting for the launch unit's answer (R106). -/
  | launchAnswer
  /-- MCALL waiting until the calls of this issue are accepted or refused (R279). -/
  | mcall (first last : Nat)
  /-- FENCE waiting for the operations it covers, with identifiers below `limit` (R300). -/
  | fence (agent storage limit : Nat)
  /-- A word whose record read met a translation fault, waiting for the reply for this page (R80, R211, R240). -/
  | fault (page : Nat)
  /-- RFT.retry of a PAGE_FAULT waiting for its entries (R343). -/
  | retryOps
  /-- A word that must follow an interval cut, waiting for it (R299, R329). -/
  | cut
deriving DecidableEq, Repr, Inhabited

inductive QState where
  | running | holdGang | holdRjn | parked | done
deriving DecidableEq, Repr, Inhabited

/-- An old value kept by the replay buffer (R123): a vector slot or a predicate bit of one lane. -/
inductive UndoKey where
  | v (reg lane : Nat) (old : Slot)
  | p (reg lane : Nat) (old : Bool)
deriving DecidableEq, Repr, Inhabited

/-- A quad under an unresolved predicted BR (R122-R124). -/
structure Pred where
  /-- Address of the BR word, and its gang at issue. -/
  brPc : Word
  gang : QMask
  tgt : Word
  fall : Word
  rj : Option Word
  /-- The quad runs the target side. -/
  onTarget : Bool
  /-- The quad's running lanes at the BR, and those of them that truly go to the target. -/
  lanes : QMask
  truth : QMask
  /-- Words issued on the side beyond the BR. -/
  issued : Nat
  /-- Operations with identifiers from here on were issued on the side. -/
  mark : Nat
  /-- The replay buffer, newest first. -/
  undo : List UndoKey
  /-- A trap condition stopped the side (R126). -/
  stopped : Bool
deriving DecidableEq, Repr, Inhabited

/-- Lanes replaying a side after resolution (R124 step 3): what they still have to issue, where the side starts,
and the old values of everything the quad wrote on the side. -/
structure Replay where
  lanes : QMask
  pc : Word
  clause : Option Clause
  left : Nat
  start : Word
  mark : Nat
  undo : List UndoKey
  /-- The quad's other lanes have stopped at a word inside a clause, which they could not issue before the join. -/
  atWord : Bool
deriving DecidableEq, Repr, Inhabited

/-- A quad's sequencer (R114, R325). The stack's head is its top entry. -/
structure Quad where
  pc : Word
  run : QMask
  live : QMask
  stack : List StackEntry
  st : QState
  gang : Nat
  park : Park
  /-- The fetched clause. With the PC at its header its first word waits for WAIT; with the PC at a word it
  has begun (R42, R111). -/
  clause : Option Clause
  pred : Option Pred
  replay : Option Replay
  /-- Pages a refused fault named for the record read this quad's gang is stopped at (R80, R211). -/
  refused : List Nat
deriving DecidableEq, Repr, Inhabited

/-! ## Pending operations of a group (R39, R192, R195, R208, R154) -/

/-- Where the bytes of one atomic piece of an access lie. -/
inductive Loc where
  /-- Global memory at a physical address. -/
  | global (pa : Nat)
  /-- The storage window of a workgroup. -/
  | canvas (wg boff : Nat)
  /-- Memory of a peer package: PEERID and the leaf's physical address. -/
  | peer (peer pa : Nat)
deriving DecidableEq, Repr, Inhabited

inductive AccState where
  /-- Not yet performed. -/
  | todo
  /-- Performed; a load's bytes are captured. -/
  | performed
  /-- A load's bytes have returned to the core, or a store or atomic is finished. -/
  | done
  /-- Faulted, and waiting in the core for an entry of the operand log (R195). -/
  | unlogged
  /-- In the operand log, waiting for a fault reply (R195). -/
  | logged
  /-- Its page is resolved; to be replayed (R195 step 4). -/
  | resolved
  /-- Refused; kept for the handler (R196, R343). -/
  | refused
deriving DecidableEq, Repr, Inhabited

/-- One single-copy-atomic piece of one lane's access (R192): bytes of one aligned 16-byte chunk. -/
structure Acc where
  lane : Nat
  /-- Offset of the piece in the lane's value, in bytes. -/
  off : Nat
  len : Nat
  va : Nat
  loc : Loc
  /-- Store or atomic data. -/
  data : List Byte
  /-- Bytes read, each with its poison. -/
  got : List (Byte × Bool)
  st : AccState
deriving DecidableEq, Repr, Inhabited

/-- Kinds of pending operation. `crd` is a word whose captured results are written later and that no condition holds
its gang behind; `wait` stands for a word that waits at its place for a record (R80, R211, R241). -/
inductive OpKind where
  | load | store | atom | red | laneWord | crd | wait
deriving DecidableEq, Repr, Inhabited

/-- What one lane of a lane word delivers (R153, R149): register writes, predicate writes, the conditions
of R148 met (bit e - 4 for LFLAGS bit e) and the operands of the trap frame. -/
structure LaneOut where
  lane : Nat
  v : List (Nat × Word)
  /-- Registers of `v` that take poison (R72). -/
  bad : List Nat
  p : List (Nat × Bool)
  conds : BitVec 5
  opa : DWord
  opb : DWord
  opc : DWord
deriving DecidableEq, Repr, Inhabited

/-- A pending operation of a group, in issue order. -/
structure Op where
  id : Nat
  kind : OpKind
  flag : Option Nat
  quads : QMask
  lanes : LMask
  /-- Address of the word and of its clause header, and where the word after it stands. -/
  pc : Word
  hdr : Word
  next : Word
  accs : List Acc
  /-- Destination register of a load or returning atomic. -/
  dst : Nat
  scalar : Bool
  width : Nat
  sx : Bool
  aop : Nat
  /-- Returns old values (ATOM, ATOMM). -/
  ret : Bool
  /-- A RED that has been accepted (R209), so its flag has fallen. -/
  accepted : Bool
  /-- Lanes of a lane word with their captured results; TYPE and STYPE for the trap frame. -/
  outs : List LaneOut
  wtype : BitVec 8
  /-- Opened the group's split (R214). -/
  split : Bool
  /-- Performed again on RFT.retry (R343). -/
  retried : Bool
  /-- The die that issued it, whose operand log takes its faulted lines (R19, R195). -/
  die : Nat
  /-- Destination slots (lane, slot) that a refusal leaves unwritten (R196). -/
  skip : List (Nat × Nat)
  /-- Replayed issues of a lane word that joined it, each counted on its flag again (R124). -/
  more : Nat
deriving DecidableEq, Repr, Inhabited

/-- An open split (R214-R216): its quads, the split word and the flag it counts on. -/
structure Split where
  quads : QMask
  pc : Word
  op : Nat
  flag : Option Nat
deriving DecidableEq, Repr, Inhabited

/-- A refusal waiting to be taken as PAGE_FAULT (R196): the faulting word and its refused lanes. -/
structure RefusalRec where
  pc : Word
  lanes : LMask
  va : Nat
  write : Bool
  copy : Bool
  op : Nat
  quads : QMask
  /-- Another trap of the group was taken first, so this one stands until its handler returns (R314 step 2). -/
  stands : Bool
deriving DecidableEq, Repr, Inhabited

/-- A resident group (R6, R19, R114, R324, R380). Vector slots are keyed `16 × register + lane`. -/
structure Group where
  v : SMap Slot
  s : SMap Slot
  /-- Predicates p0-p6, bit l for lane l. -/
  p : SMap LMask
  f : SMap (BitVec 6)
  j : SMap LMask
  b : SMap (BitVec 128)
  q : SMap Stream
  oob : BitVec 16
  /-- Trap-frame registers 0x0100-0x016F by number (R316). -/
  trap : SMap Word
  inHandler : Bool
  /-- The trap context: the quads as at the last trap (R314), the gang that trapped, and whether at a header. -/
  ctx : List Quad
  ctxQuads : QMask
  ctxHeader : Bool
  /-- Operand-log entries kept for RFT after a PAGE_FAULT (R196, R343). -/
  kept : List Op
  refusals : List RefusalRec
  /-- Instance counts of BAR, BART, BARD, and whether the group has arrived at the current instance (R307). -/
  barN : Nat
  bartN : Nat
  bardN : Nat
  barArr : Bool
  bartArr : Bool
  bardArr : Bool
  /-- Operations with identifiers below this were issued before the group's last arrival at a barrier (R307). -/
  arrMark : Nat
  split : Option Split
  ops : List Op
  quads : List Quad
  /-- Lanes counted by THREADS, and helper lanes that share a quad with one (R82, R116). -/
  counted : LMask
  helper : LMask
  /-- Issue slot, membership of the active set, device time since ready while pending or since entering (R110-R113). -/
  slot : Nat
  active : Bool
  since : Nat
  /-- ERRI.clone: the next checked INT or FLT word compares unequal (R344). -/
  cloneBad : Bool
  /-- Ended and its resources released (R138). -/
  ended : Bool
deriving DecidableEq, Repr, Inhabited

/-! ## Canvas (R217-R247) -/

inductive BMode where
  | fill | compute
deriving DecidableEq, Repr, Inhabited

inductive TState where
  | empty | loading | valid | invalid
deriving DecidableEq, Repr, Inhabited

inductive TFail where
  | none | corrupt | missing
deriving DecidableEq, Repr, Inhabited

/-- An entry of a bank's queue (R229): a canvas word, or a copy, and the k-blocks still to do at this bank. -/
inductive QEntry where
  | word (id : Nat) (blocks : List Nat)
  | copy (id : Nat)
deriving DecidableEq, Repr, Inhabited

/-- A compute bank (R218). -/
structure Bank where
  mode : BMode
  ts : TState
  fail : TFail
  tile : SMap Byte
  /-- The tile bytes are undefined: free values from this number on (R219). -/
  junk : Option Nat
  /-- Tile bytes that carry poison from a save image (R327). -/
  tileBad : List Nat
  tfmt : BitVec 2
  tset : Word
  tgen : Word
  kt : BitVec 12
  nt : BitVec 12
  bound : Bool
  slot : BitVec 4
  /-- Accumulator (r, n) at key 128 r + n. -/
  acc : SMap Word
  accPoison : SMap Bool
  /-- Accumulators whose residue is corrupted (R235, R344). -/
  resBad : SMap Bool
  queue : List QEntry
deriving DecidableEq, Repr, Inhabited

inductive Pin where
  | none | pinned | refused
deriving DecidableEq, Repr, Inhabited

/-- A bound weight slot (R231). -/
structure WSlot where
  addr : DWord
  setid : Word
  gen : Word
  wfmt : BitVec 8
  ktiles : Nat
  ntiles : Nat
  adapt : Bool
  rank : BitVec 16
  afmt : BitVec 4
  pin : Pin
deriving DecidableEq, Repr, Inhabited

inductive CWordKind where
  | cmode (m : BMode)
  | czero
  /-- CMMA or CMMAS: activation format, k256. -/
  | cmma (afmt : Nat) (k256 : Bool)
  | cacc (col0 ncol : Nat)
  | crd (ty : Nat) (col0 ncol : Nat) (clr : Bool) (d : Nat)
  | cswp (x y : Nat) (acc : Bool)
  /-- CBIND to a slot; none once CUNP has unbound the slot (R240, R241). -/
  | cbind (slot : Option Nat)
deriving DecidableEq, Repr, Inhabited

/-- Captured operands of one lane of a canvas word. -/
structure CRow where
  lane : Nat
  bytes : List Byte
  scales : List Byte
  vals : List Word
deriving DecidableEq, Repr, Inhabited

/-- A canvas word issued and not yet performed in full (R229, R323). -/
structure CWord where
  id : Nat
  grp : Nat
  flag : Option Nat
  kind : CWordKind
  rows : List CRow
  /-- Banks that have still to perform it. -/
  left : List Nat
  pc : Word
  hdr : Word
  next : Word
  quads : QMask
  lanes : LMask
deriving DecidableEq, Repr, Inhabited

/-! ## Checked workgroups (R328-R339) -/

/-- An entry of the interval store buffer (R201, R330): a store piece or one lane operation. -/
structure BufEntry where
  /-- The operation it belongs to; entries stand in the order of issue (R299). -/
  id : Nat
  grp : Nat
  va : Nat
  loc : Loc
  bytes : List Byte
  /-- None for a store; the operation of an ATOMN or RED lane. -/
  aop : Option Nat
deriving DecidableEq, Repr, Inhabited

/-- A row of the storage undo log (R331): the 4-byte words the interval wrote, and the row with its poisoned bytes as it stood. -/
structure RowLog where
  row : Nat
  words : List Nat
  bytes : List Byte
  bad : List Nat
deriving DecidableEq, Repr, Inhabited

/-- The state of a CHECKED workgroup's open interval (R329-R331). -/
structure Checked where
  opened : Nat
  /-- Operations, canvas words, copies and calls with identifiers from here on were issued in the interval. -/
  mark : Nat
  /-- The snapshot: group records and registers (R329 step 6). -/
  snap : List Group
  snapPoison : Bool
  /-- The undo logs hold an uncorrectable error (R339). -/
  logPoison : Bool
  stLog : List RowLog
  /-- Accumulator undo log: bank number and the bank as it stood (R331). -/
  accLog : List (Nat × Bank)
  buf : List BufEntry
  /-- The interval is a re-run after a rollback (R333). -/
  rerun : Bool
  /-- A cut has been called for and falls at the next word boundary (R329, R330, R331). -/
  cutDue : Bool
deriving DecidableEq, Repr, Inhabited

/-! ## Workgroups and launches -/

/-- Where a workgroup is: on its core, being saved, in the save reserve, or being evacuated. -/
inductive Place where
  | live
  /-- A save has been called for (R322). -/
  | saving
  /-- In the save reserve at a physical address, with its length (R323). -/
  | saved (addr len : Nat)
deriving DecidableEq, Repr, Inhabited

structure Workgroup where
  id : Nat
  launch : Nat
  /-- Linear index (R96). -/
  lin : Nat
  trank : Nat
  tsize : Nat
  /-- Device logical core it occupies (R99). -/
  lcore : Nat
  place : Place
  /-- Cores of its last save, to tell whether a restore changed them (R101). -/
  savedPcore : Nat
  reloc : BitVec 16
  /-- Storage banks, nS of R221. -/
  ns : Nat
  /-- The storage window: bytes 0 to CVB - 1 (R221). -/
  win : SMap Byte
  /-- Poisoned bytes of the window (R234, R260). -/
  winPoison : SMap Bool
  banks : List Bank
  wslots : List (Nat × WSlot)
  groups : List Group
  cwords : List CWord
  chk : Option Checked
  /-- Image offsets at which the save under way met an uncorrectable error (R327), and whether a transfer met one in sequencer,
  bank, slot or queue state (R352). -/
  saveBad : List Nat
  moveBad : Bool
  retired : Bool
deriving DecidableEq, Repr, Inhabited

inductive LaunchState where
  | queued | running | failing | done
deriving DecidableEq, Repr, Inhabited

/-- An accepted launch (R69-R85): the device's own copy of what it read. -/
structure Launch where
  id : Nat
  part : Nat
  st : LaunchState
  -- the launch record (R82, R83)
  kimg : DWord
  tag : Word
  lflags : Word
  gridx : Nat
  gridy : Nat
  gridz : Nat
  threads : Nat
  team : Nat
  cvb : Nat
  cbanks : Nat
  handler : Word
  btab : DWord
  bcnt : Nat
  wtab : List DWord
  caddr : DWord
  cval : DWord
  -- the image header (R69-R71)
  codeoff : Nat
  codelen : Nat
  entry : Word
  vcount : Nat
  vw : List Word
  paloff : Nat
  pallen : Nat
  /-- Buffer records 0-15 as copied (R76). -/
  recs : List (BitVec 128)
  /-- Producers bound and not yet retired (R90), and all bound producers of an EARLY launch (R93). -/
  deps : List Nat
  early : List Nat
  /-- Next workgroup in linear order to place (R96). -/
  next : Nat
  /-- The retirement counter (R359). -/
  retired : Nat
  /-- Failure: status code and detail (R319). -/
  fail : Option (Nat × DWord)
  /-- Lowest refused address of a lost reduction (R197), first dropped peer write (R362). -/
  lostRed : Option Nat
  lostPeer : Option (Nat × Nat)
  /-- Pages whose fault was refused for a pin's release (R232) or the completion block (R364), and the page waited for. -/
  refused : List Nat
  waitPage : Option Nat
  /-- The physical core whose palette copy waits for that page, and pages refused to a core's copy under way (R72). -/
  waitCore : Option Nat
  palRefused : List (Nat × Nat)
  /-- The core slots that have copied the palette: physical core and the bytes as copied (R72). -/
  palettes : List (Nat × SMap (Byte × Bool))
deriving DecidableEq, Repr, Inhabited

/-! ## Copies, locks, calls -/

inductive LockSpace where
  | global (part : Nat)
  | canvas (wg : Nat)
deriving DecidableEq, Repr, Inhabited

/-- A range lock (R252): an entry of the table of die `die`. -/
structure Lock where
  id : Nat
  die : Nat
  write : Bool
  space : LockSpace
  lo : Nat
  hi : Nat
  launch : Nat
  /-- The copy or call that owns it. -/
  owner : Nat
deriving DecidableEq, Repr, Inhabited

inductive CopyKind where
  | cpy | cpyw | cpymBox | cpymTile | cpys | cpyc
deriving DecidableEq, Repr, Inhabited

/-- A tensor shape record as read at issue (R77). -/
structure Shape where
  base : Nat
  ndim : Nat
  swz : Nat
  box : List Nat
  fmt : Nat
  fillNan : Bool
  size : List Nat
  stride : List Nat
deriving DecidableEq, Repr, Inhabited

/-- A copy, queued or moving (R248-R263). -/
structure Copy where
  id : Nat
  kind : CopyKind
  launch : Nat
  part : Nat
  wg : Nat
  grp : Nat
  flag : Option Nat
  /-- Phaser byte offset when PH is set (R250). -/
  ph : Option Nat
  pc : Word
  next : Word
  quads : QMask
  lane : Nat
  die : Nat
  shape : Shape
  coord : List Int
  /-- Canvas byte offset of the box in the source (CPYC) or each receiver, or of CPYS's source. -/
  src : Nat × Nat
  boff : Nat
  /-- Receiving workgroups (CPYC: none). -/
  recv : List Nat
  /-- Bytes to move in all, and moved so far. -/
  total : Nat
  moved : Nat
  started : Bool
  /-- Source bytes read before the copy started, where source and destination overlap (R263). -/
  snap : List (Byte × Bool)
  /-- Tile mode: banks with their addresses still to try, TCRC, KT, NT; start of the attempt. -/
  tiles : List (Nat × List Nat × Word × Nat × Nat)
  slotSet : Word
  slotGen : Word
  wfmt : Nat
  attempt : Nat
  /-- Pages a refused fault named, and the page whose fault is waited on (R260). -/
  refused : List Nat
  waitPage : Option Nat
  /-- Issued in place order before its accesses (R251): operations of the group with identifiers below this precede it. -/
  after : Nat
  /-- Refused pages that the issuing group has been told of (R260). -/
  told : List Nat
deriving DecidableEq, Repr, Inhabited

/-- A rod's state (R269). Vector register n, lane l at key 16 n + l; accumulator n likewise. -/
structure Rod where
  rv : SMap (BitVec 16 × Bool)
  rm : List LMask
  ra : SMap Slot
  row : Option Nat
deriving DecidableEq, Repr, Inhabited

inductive CallState where
  /-- Acceptance under way: its checks; then, with its locks registered, the wait for room in the frame's queue (R277). -/
  | accepting | locked | queued | running | ending | ended
deriving DecidableEq, Repr, Inhabited

/-- A frame call (R269, R276-R278, R283). -/
structure Call where
  id : Nat
  launch : Nat
  part : Nat
  wg : Nat
  grp : Nat
  lane : Nat
  j : Nat
  die : Nat
  /-- The MCALL's address and gang (R277). -/
  pc : Word
  quads : QMask
  st : CallState
  /-- The record and byte offset the block is reached through (R279), and the slot's bounds. -/
  brec : BitVec 128
  off : Nat
  /-- Order place of the MCALL: operations of the group below this precede it (R277). -/
  after : Nat
  nw : Nat
  bmask : LMask
  page : DWord
  aux : DWord
  dst : DWord
  auxlen : Nat
  dstlen : Nat
  wpage : Bool
  sparse : Bool
  prog : List Word
  /-- Physical address of the page, its stack and pseudo-channel; translations of AUX pages taken at acceptance. -/
  pagePa : Nat
  stack : Nat
  pch : Nat
  auxPa : List (Nat × Loc)
  fpc : Nat
  fp : List Word
  rods : List Rod
  stream : Stream
  /-- Words since the last RACT, and the yield points here that have had their window (R283): 1 the end of a 64th word, 2 the
  word's own; device time it started and time
  not counted (R272). -/
  sinceAct : Nat
  passed : Nat
  started : Nat
  uncounted : Nat
  /-- A yield window: accesses served, device time it opened (R283). -/
  yld : Option (Nat × Nat)
  status : Nat
  detail : Nat
  /-- DST writes in the operand log, and those that wait in the frame for a place that stalls or for room in the log: virtual address
  and bytes with poison (R195, R278). -/
  logged : List (Nat × List (Byte × Bool))
  pend : List (Nat × List (Byte × Bool))
  /-- Physical addresses at which its last read or write outside its page stalled (R283). -/
  waits : List Nat
  refused : List Nat
  waitPage : Option Nat
  /-- CST has been written or given up (R278 step 3). -/
  cstDone : Bool
deriving DecidableEq, Repr, Inhabited

/-! ## Faults for the privileged handler, cores, stacks, partitions -/

/-- A FAULT event not yet answered (R318). -/
structure FaultRec where
  part : Nat
  page : Nat
  seq : BitVec 16
  va : Nat
  /-- The page had no valid leaf (R198, R213). -/
  absent : Bool
deriving DecidableEq, Repr, Inhabited

/-- What an entry of a die's TLB holds (R194): the 64 KiB pages of one 2 MiB region, one 2 MiB page, or one 128 MiB span. -/
inductive TlbKind where
  | pages | big | span
deriving DecidableEq, Repr, Inhabited

/-- A leaf that a TLB entry holds: its page's number in the entry, its frame, and its attributes. -/
structure TlbLeaf where
  idx : Nat
  frame : Nat
  wr : Bool
  span : Bool
  /-- PEERID and the incarnation seen, for a PEER leaf (R369). -/
  peer : Option (Nat × Nat)
deriving DecidableEq, Repr, Inhabited

/-- A TLB entry of a die (R194): its kind, the base of the addresses it covers, and its leaves, one but for `pages`. -/
structure TlbEntry where
  part : Nat
  kind : TlbKind
  va : Nat
  leaves : List TlbLeaf
deriving DecidableEq, Repr, Inhabited

structure Die where
  tlb : List TlbEntry
deriving DecidableEq, Repr, Inhabited

/-- An entry of a core's replay queue (R131). -/
structure ReplayEntry where
  wg : Nat
  grp : Nat
  pc : Word
  /-- Device time of its issue. -/
  time : Nat
  /-- The word, and its operands: source number, lane and the slots as read. -/
  words : List Word
  opnds : List (Nat × Nat × List Slot)
  /-- Its committed result, and what its operands give when it is executed again. -/
  result : List LaneOut
  again : List LaneOut
deriving DecidableEq, Repr, Inhabited

/-- A mask predictor entry (R121). -/
structure PredEntry where
  mask : LMask
  conf : BitVec 2
deriving DecidableEq, Repr, Inhabited

/-- A physical core: die × 9 + number. -/
structure CoreSt where
  oos : Bool
  /-- Events of the current period and the 15 before it (R345), newest first. -/
  mon : List Nat
  replayQ : List ReplayEntry
  predictor : SMap PredEntry
  /-- Code words held by the instruction cache: launch, byte offset, word (R343). -/
  icache : List (Nat × Nat × Word)
deriving DecidableEq, Repr, Inhabited

inductive EvacPhase where
  | prepare | paused | transferred | committed
deriving DecidableEq, Repr, Inhabited

/-- An evacuation in progress (R347-R355). -/
structure Evac where
  lcore : Nat
  src : Nat
  dst : Nat
  phase : EvacPhase
deriving DecidableEq, Repr, Inhabited

/-- A repair under way or due: kind (0 row, 1 bank, 2 TSV), pseudo-channel or channel, bank, row or lane. -/
structure Repair where
  kind : Nat
  pch : Nat
  bank : Nat
  row : Nat
deriving DecidableEq, Repr, Inhabited

/-- A stack's repair controller (R286-R288). Unit keys: bank pch × 16 + bank, pseudo-channel, channel. -/
structure StackSt where
  factoryRows : SMap Nat
  factoryBanks : SMap Nat
  factoryTsv : SMap Nat
  usedRows : SMap Nat
  usedBanks : SMap Nat
  usedTsv : SMap Nat
  /-- Corrected sectors: bank key, row, device time; corrected bytes on TSV lanes: channel, lane, row, time;
  row repairs per bank: bank key, time. -/
  corr : List (Nat × Nat × Nat)
  lanes : List (Nat × Nat × Nat × Nat)
  rowReps : List (Nat × Nat)
  /-- Rows retargeted to a spare row, banks remapped, lanes swapped. -/
  rowMap : List (Nat × Nat)
  bankMap : List Nat
  tsvMap : List (Nat × Nat)
  /-- Repairs that are due, in trigger order, and the one whose window is open. -/
  due : List Repair
  window : Option Repair
  /-- A bank remap and the next 4 KiB piece of it, and device time of the last window's end. -/
  remap : Option (Repair × Nat × Nat)
  /-- Kinds of which a repair found no spare; kinds and units whose LOW was reported. -/
  exhausted : BitVec 3
  lowTold : List (Nat × Nat)
deriving DecidableEq, Repr, Inhabited

structure PeerBind where
  links : BitVec 8
  valid : Bool
  part : Nat
deriving DecidableEq, Repr, Inhabited

/-- How a launch request came (R86). -/
inductive Via where
  | message (seq : BitVec 16) (cls : BitVec 2)
  | word (wg grp : Nat) (quads : QMask) (d : Nat)
deriving DecidableEq, Repr, Inhabited

structure Request where
  via : Via
  addr : DWord
  refused : List Nat
  waitPage : Option Nat
  /-- The launch unit's own copy of what it has read so far (R85): record, image header, tables, in that order. -/
  got : List Byte
deriving DecidableEq, Repr, Inhabited

/-- A retired-page list entry (R289). -/
structure RetEntry where
  frame : Nat
  stack : Nat
  kind : Nat
  seq : Nat
deriving DecidableEq, Repr, Inhabited

/-- A partition's retired-page list, kept by the launch unit (R19, R289). -/
structure RetList where
  entries : List RetEntry
  ovf : Bool
deriving DecidableEq, Repr, Inhabited

/-- A checkpoint stream (R365). -/
structure Ckpt where
  seq : BitVec 16
  va : Nat
  len : Nat
  dst : Nat
  moved : Nat
  poisoned : Nat
deriving DecidableEq, Repr, Inhabited

/-- A partition (R27, R32). -/
structure Partition where
  block : List Byte
  errinj : Bool
  errthr : Nat
  dies : BitVec 32
  troot : Nat
  rsvu : Nat
  units : BitVec 768
  nbmap : BitVec 768
  peers : List PeerBind
  /-- PEERIDs that are LOST (R369). -/
  lost : BitVec 8
  reqs : List Request
  ckpt : Option Ckpt
deriving DecidableEq, Repr, Inhabited

/-- A remap table entry (R100). -/
structure Remap where
  epoch : BitVec 16
  degraded : Bool
  part : BitVec 3
  die : BitVec 5
  pcore : BitVec 4
deriving DecidableEq, Repr, Inhabited

/-- An arrival of a workgroup in the BART and BARD tree (R308): launch, team (none for BARD), the workgroup, and how
many levels of the tree it has passed: 0 sent by its core, 1 by its die, 2 by its hub; and the dies of the barrier's workgroups
when the instance's first arrival was sent. -/
structure Arrival where
  launch : Nat
  team : Option Nat
  wg : Nat
  level : Nat
  dies : List (Nat × Nat)
deriving DecidableEq, Repr, Inhabited

/-- A shootdown whose reply waits (R194). -/
structure Shoot where
  /-- Operations and calls with identifiers below this may use the dropped entries. -/
  mark : Nat
  part : Nat
  seq : BitVec 16
  cls : BitVec 2
  lo : Nat
  hi : Nat
deriving DecidableEq, Repr, Inhabited

/-- A peer link (R369). -/
structure Link where
  up : Bool
  inc : Nat
deriving DecidableEq, Repr, Inhabited

/-- The boot steps of R21; `off` is before power-good. -/
inductive Boot where
  | off | rom | waitImage | imageRead | dies | stks | stackFailed | memory | waitMap | config | ready
deriving DecidableEq, Repr, Inhabited

/-! ## The machine -/

/-- What stands in `cur` while a word of a clause is executed: the gang and the word. -/
structure Issue where
  wg : Nat
  grp : Nat
  quads : QMask
  /-- Running lanes of the gang. -/
  run : LMask
  pc : Word
  /-- Address of the word after this one in its clause, or of the fall-through clause. -/
  next : Word
  /-- The word is its clause's last. -/
  last : Bool
  clause : Clause
  /-- The agenda asked for issue under prediction (R122). -/
  predict : Bool
  /-- Replaying lanes issue this word (R124). -/
  replay : Bool
deriving DecidableEq, Repr, Inhabited

/-- A physical upset: an error that hardware finds, where the manual says what follows (R200, R234, R235, R284, R327, R336,
R339, R345, R352). -/
inductive Upset where
  /-- A corrected error in a physical core's register file, canvas or L1, and an uncorrectable one in its L1 (R345). -/
  | coreCorrected (core : Nat)
  | l1Uncorrectable (core : Nat)
  /-- An uncorrectable error in a vector slot or a scalar of a group (R200, R345). -/
  | regUncorrectable (wg grp reg lane : Nat)
  | sclUncorrectable (wg grp reg : Nat)
  /-- An uncorrectable error in the canvas word of a storage window that holds a byte (R234). -/
  | winUncorrectable (wg boff : Nat)
  /-- An uncorrectable error in a tile byte, found by the word the bank performs, if any (R219, R234), or in an accumulator. -/
  | tileUncorrectable (wg bank byte : Nat)
  | accUncorrectable (wg bank key : Nat)
  /-- The residue of an accumulator is wrong, or that of the dot product that its bank computes for it now (R235). -/
  | residueWrong (wg bank key : Nat)
  | dotWrong (wg bank key : Nat)
  /-- An error in a core's re-execution of its replay queue's oldest entry (R131). -/
  | replayWrong (core : Nat)
  /-- A lane clone, scalar or address mismatch of a CHECKED group (R336). -/
  | mismatch (wg trigger : Nat)
  /-- An uncorrectable error in a CHECKED workgroup's snapshot, or in an undo log that holds something (R339). -/
  | snapUncorrectable (wg : Nat)
  | logUncorrectable (wg : Nat)
  /-- An uncorrectable error while live state is read for a save, by image offset (R327). -/
  | saveUncorrectable (wg off : Nat)
  /-- An uncorrectable error in sequencer, bank, slot or queue state while an evacuation transfers it (R352). -/
  | moveUncorrectable (wg : Nat)
  /-- Wrong bytes among the 68 of a sector, by position; and the TSV lane that brought them, where it was one (R284, R287). -/
  | sectorError (pa : Nat) (bytes : List Nat) (lane : Option Nat)
deriving DecidableEq, Repr, Inhabited

/-- What moves the machine: the model's own data, not the manual's (log 4). -/
inductive Stim where
  /-- The gang that holds this quad issues: its next clause is fetched, or its next word executed. -/
  | issue (wg grp quad : Nat) (predict : Bool)
  /-- The running frame call executes its next word. -/
  | frame (call : Nat)
  /-- A row of the opcode table that is no word. -/
  | event (i : Instr) (x : EvArg)
  /-- Device time advances. -/
  | tick (n : Nat)
  | upset (u : Upset)
  /-- A partition's checkpoint stream moves sectors (R366). -/
  | stream (part n : Nat)
deriving DecidableEq, Repr

/-- The state of the whole device. -/
structure State where
  agenda : List Stim
  turn : Nat
  freeCtr : Nat
  nextId : Nat
  cur : Option Issue
  curCall : Option Nat
  /-- What names the event being executed. -/
  arg : EvArg
  clk : BitVec 64
  compMem : SMap Byte
  /-- Companion memory written with the Trestle poison marker (R366). -/
  compPoison : SMap Bool
  outbox : List Msg
  /-- Writes and messages from the companion that wait behind one of their class that cannot be performed yet (R297), and accesses from
  outside that wait for their channel (R199, R283). -/
  inbox : List (Instr × EvArg)
  /-- What reads from outside returned: the companion's (0) or a peer link's (its number plus 1), each byte with its poison. -/
  answers : List (Nat × List (Byte × Bool))
  -- boot and management (R20-R34)
  boot : Boot
  imgReq : Option (BitVec 16 × Nat × Nat)
  sram : List Byte
  fwImage : List Byte
  fwVersion : Word
  fuseMin : Word
  devSeq : BitVec 16
  /-- The incarnation number this package advertises on its peer links (R369). -/
  incarnation : Word
  mapBuf : Nat
  mapGen : Nat
  /-- SEQ of the MAP_UPDATE that waits for its answer. -/
  mapWait : Option (BitVec 16)
  mapDirty : Bool
  mapHash : List Byte
  /-- Reports that wait for the answer to a MAP_UPDATE, and how many of them the one in flight covers (R25, R31). -/
  heldReports : List Msg
  mapCovers : Nat
  retLists : List RetList
  parts : List (Nat × Partition)
  remap : List Remap
  spares : List (BitVec 4)
  links : List Link
  -- memory and its guards
  mem : SMap Byte
  memPoison : SMap Bool
  stks : List StackSt
  dies : List Die
  locks : List Lock
  faults : List FaultRec
  shoots : List Shoot
  -- cores and work
  cores : List CoreSt
  evacs : List Evac
  launches : List Launch
  wgs : List Workgroup
  arrivals : List Arrival
  copies : List Copy
  calls : List Call
deriving DecidableEq, Repr

/-- A monitor with no events (R35, R345). -/
def zeroMonitor : List Nat := List.replicate 16 0

/-- A physical core with nothing in it (R35). -/
def CoreSt.fresh : CoreSt :=
  { oos := false, mon := zeroMonitor, replayQ := [], predictor := [], icache := [] }

/-- A stack's repair controller with every factory spare free (R286, log 6). -/
def StackSt.fresh : StackSt :=
  { factoryRows := [], factoryBanks := [], factoryTsv := [], usedRows := [], usedBanks := [], usedTsv := [],
    corr := [], lanes := [], rowReps := [], rowMap := [], bankMap := [], tsvMap := [], due := [], window := none,
    remap := none, exhausted := 0, lowTold := [] }

/-- A remap entry before firmware writes it (R100). -/
def Remap.zero : Remap := { epoch := 0, degraded := false, part := 0, die := 0, pcore := 0 }

/-- The device powered and held in reset, before power-good (R20, R21): every state is lost or not yet
set; the fuses hold what log 6 names. -/
def State.reset : State :=
  { agenda := [], turn := 0, freeCtr := 0, nextId := 0, cur := none, curCall := none, arg := EvArg.none, clk := 0,
    compMem := [], compPoison := [], outbox := [], inbox := [], answers := [], boot := .off, imgReq := none, sram := [], fwImage := [], fwVersion := 0,
    fuseMin := 0, devSeq := 0, incarnation := 0, mapBuf := 0, mapGen := 0, mapWait := none, mapDirty := false, mapHash := [],
    heldReports := [], mapCovers := 0, retLists := List.replicate 8 { entries := [], ovf := false }, parts := [], remap := List.replicate 256 Remap.zero, spares := List.replicate 32 8,
    links := List.replicate 8 { up := false, inc := 0 }, mem := [], memPoison := [],
    stks := List.replicate 12 StackSt.fresh, dies := List.replicate 32 { tlb := [] }, locks := [],
    faults := [], shoots := [], cores := List.replicate 288 CoreSt.fresh, evacs := [], launches := [],
    wgs := [], arrivals := [], copies := [], calls := [] }

end Sys2Proof.Machine
end

