-- ==== Sys2Proof/Machine/Transc.lean ====
section
/-! DEFINITION. The transcendental words FEXP2, FLOG2, FSIN, FCOS and FTANH (R172): values computed to 320
binary places, rounded once for f16 and bf16, and the bounds that hold the f32 value of the part (log 14). -/
namespace Sys2Proof.Machine

/-- Binary places of the working values. -/
def fxBits : Nat := 320
def fxOne : Nat := 2 ^ 320
/-- π and ln 2 to 320 binary places, rounded down. -/
def piFx : Nat := 0x3243F6A8885A308D313198A2E03707344A4093822299F31D0082EFA98EC4E6C89452821E638D01377
def ln2Fx : Nat := 0xB17217F7D1CF79ABC9E3B39803F2F6AF40F343267298B62D8A0D175B8BAAFA2BE7B876206DEBAC98

/-- m × 2^e in working places. -/
def fxOf (m : Nat) (e : Int) : Nat :=
  if 0 ≤ e + fxBits then m * 2 ^ (e + fxBits).toNat else m / 2 ^ (-(e + fxBits)).toNat

/-- Sum of x^k ÷ k! from the term `t` on, for `n` terms. -/
def expGo (x : Nat) : Nat → Nat → Nat → Nat
  | 0, _, _ => 0
  | n + 1, k, t => t + expGo x n (k + 1) (t * x / (fxOne * (k + 1)))

/-- e^x − 1 for x from 0 to 1. -/
def expm1Fx (x : Nat) : Nat := expGo x 90 1 x

/-- The alternating series of sin and cos from term `t`, whose next divisor is k (k + 1). -/
def sinGo (x2 : Nat) : Nat → Nat → Nat → Int
  | 0, _, _ => 0
  | n + 1, k, t => (t : Int) - sinGo x2 n (k + 2) (t * x2 / (fxOne * (k * (k + 1))))

/-- sin x and cos x for x from 0 to π ÷ 2. -/
def sinFx (x : Nat) : Int := sinGo (x * x / fxOne) 50 2 x
def cosFx (x : Nat) : Int := sinGo (x * x / fxOne) 50 1 fxOne

/-- Sum of z^(2i+1) ÷ (2i+1) from the power `t` on. -/
def atanhGo (z2 : Nat) : Nat → Nat → Nat → Nat
  | 0, _, _ => 0
  | n + 1, k, t => t / k + atanhGo z2 n (k + 2) (t * z2 / fxOne)

/-- atanh z for |z| at most 1 ÷ 5. -/
def atanhFx (z : Nat) : Nat := atanhGo (z * z / fxOne) 75 1 z

/-- log2 of m × 2^e, m > 0, as a signed number of working places. -/
def log2Fx (m : Nat) (e : Int) : Int :=
  let k := log2N m
  let x := m * fxOne / 2 ^ k
  let up := decide (4 * fxOne < 3 * x)
  let y := if up then x / 2 else x
  let kk : Int := (k : Int) + e + (if up then 1 else 0)
  let below := decide (y < fxOne)
  let d := if below then fxOne - y else y - fxOne
  let l := 2 * atanhFx (d * fxOne / (y + fxOne)) * fxOne / ln2Fx
  kk * (fxOne : Int) + (if below then -(l : Int) else (l : Int))

/-- A signed number of working places as an exact result that lies strictly beyond its digits. -/
def exOfFx (x : Int) : Exact := .fin (decide (x < 0)) x.natAbs (-320) true

/-- Functions by number: 0 exp2, 1 log2, 2 sin, 3 cos, 4 tanh; with INV and DVZ (R172). -/
def transcExact (fn : Nat) (v : FVal) : Exact × Bool × Bool :=
  match fn, v with
  | _, .nan s => (.nan, s, false)
  | 0, .inf n => (if n then .fin false 0 0 false else .inf false, false, false)
  | 1, .inf n => (if n then .nan else .inf false, n, false)
  | 4, .inf n => (.fin n 1 0 false, false, false)
  | _, .inf _ => (.nan, true, false)
  | 0, .fin n m e =>
    if m = 0 then (.fin false 1 0 false, false, false)
    else if 2000 * fxOne ≤ fxOf m e then (.fin false 1 (if n then -2000 else 2000) true, false, false)
    else
      let x : Int := if n then -(fxOf m e : Int) else (fxOf m e : Int)
      let k := x.fdiv (fxOne : Int)
      let f := (x - k * (fxOne : Int)).toNat
      if f = 0 then (.fin false 1 k false, false, false)
      else (.fin false (fxOne + expm1Fx (f * ln2Fx / fxOne)) (k - 320) true, false, false)
  | 1, .fin n m e =>
    if m = 0 then (.inf true, false, true)
    else if n then (.nan, true, false)
    else if m = 2 ^ log2N m then (exOf (let k : Int := (log2N m : Nat) + e; .fin (decide (k < 0)) k.natAbs 0), false, false)
    else (exOfFx (log2Fx m e), false, false)
  | 2, .fin n m e =>
    if m = 0 then (.fin n 0 0 false, false, false)
    else
      let a := fxOf m e
      let q := 2 * a / piFx
      let r := (2 * a - q * piFx) / 2
      let s := match q % 4 with | 0 => sinFx r | 1 => cosFx r | 2 => -(sinFx r) | _ => -(cosFx r)
      (exOfFx (if n then -s else s), false, false)
  | 3, .fin _ m e =>
    if m = 0 then (.fin false 1 0 false, false, false)
    else
      let a := fxOf m e
      let q := 2 * a / piFx
      let r := (2 * a - q * piFx) / 2
      (exOfFx (match q % 4 with | 0 => cosFx r | 1 => -(sinFx r) | 2 => -(cosFx r) | _ => sinFx r), false, false)
  | _, .fin n m e =>
    if m = 0 then (.fin n 0 0 false, false, false)
    else if 200 * fxOne ≤ fxOf m e then (.fin n (fxOne - 1) (-320) true, false, false)
    else
      let y := 2 * fxOf m e
      let k := y / ln2Fx
      let em := expm1Fx (y - k * ln2Fx)
      let big := fxOne * 2 ^ k + em * 2 ^ k
      (.fin n ((big - fxOne) * fxOne / (big + fxOne)) (-320) true, false, false)

/-- Whether a finite value lies within the f32 bound of R172 of an exact result: 2 ulp, or 2^-22 (log2) or
2^-24 (sin, cos) where that is larger; tanh never above 1 in magnitude. -/
def transcBound (fn : Nat) (x : Exact) (v : FVal) : Bool :=
  match x, v with
  | .fin n m e _, .fin n' m' e' =>
    let ue : Int := max (finLog2 m e) (-126) - 22
    let re : Int := match fn with
      | 1 => max ue (-22)
      | 2 => max ue (-24)
      | 3 => max ue (-24)
      | _ => ue
    let q := min (min e e') re
    let d := (scaled n m e q - scaled n' m' e' q).natAbs
    decide (d < 2 ^ (re - q).toNat) && (fn != 4 || !finLe 1 0 m' e' || (m' * 2 ^ (e' + 149).toNat == 2 ^ 149))
  | _, _ => false

/-- A transcendental word on one value (R172). -/
def fTransc (fn ty : Nat) (sat : Bool) (v : FVal) (x : Nat) : FOut :=
  let r := transcExact fn v
  let o := deliver ty 0 sat r.1 r.2.1 r.2.2
  match r.1 with
  | .fin _ _ _ true =>
    if ty = 10 && !o.ovf then
      let c := (Config.transcF32 fn (wordOf x)).toNat
      if transcBound fn r.1 (fDecode 10 c) then { o with bits := c } else o
    else o
  | _ => o

end Sys2Proof.Machine
end

