-- ==== Sys2Proof/Machine/Ops.lean ====
section
/-! DEFINITION. The named operations over the state: registers, flags, messages, reconvergence (R117-R119),
memory and its poison (R3, R284), translation (R193, R194), failing a launch (R319), taking a trap
(R314-R316) and returning from one (R343). -/
namespace Sys2Proof.Machine

/-! ## Finding and changing parts of the state -/

def findWg (s : State) (id : Nat) : Option Workgroup := s.wgs.find? (fun w => w.id == id)
def modWg (s : State) (id : Nat) (f : Workgroup → Workgroup) : State :=
  { s with wgs := s.wgs.map (fun w => if w.id = id then f w else w) }
def findLaunch (s : State) (id : Nat) : Option Launch := s.launches.find? (fun l => l.id == id)
def modLaunch (s : State) (id : Nat) (f : Launch → Launch) : State :=
  { s with launches := s.launches.map (fun l => if l.id = id then f l else l) }
def findCopy (s : State) (id : Nat) : Option Copy := s.copies.find? (fun c => c.id == id)
def modCopy (s : State) (id : Nat) (f : Copy → Copy) : State :=
  { s with copies := s.copies.map (fun c => if c.id = id then f c else c) }
def delCopy (s : State) (id : Nat) : State := { s with copies := s.copies.filter (fun c => c.id != id) }
def findCall (s : State) (id : Nat) : Option Call := s.calls.find? (fun c => c.id == id)
def modCall (s : State) (id : Nat) (f : Call → Call) : State :=
  { s with calls := s.calls.map (fun c => if c.id = id then f c else c) }
def findPart (s : State) (p : Nat) : Option Partition := assoc? s.parts p
def modPart (s : State) (p : Nat) (f : Partition → Partition) : State :=
  { s with parts := s.parts.map (fun e => if e.1 = p then (e.1, f e.2) else e) }
def findGrp (s : State) (wg grp : Nat) : Option Group := (findWg s wg).bind (fun w => w.groups[grp]?)
def modGrp (s : State) (wg grp : Nat) (f : Group → Group) : State :=
  modWg s wg (fun w => { w with groups := modifyAt w.groups grp f })
def modCore (s : State) (c : Nat) (f : CoreSt → CoreSt) : State := { s with cores := modifyAt s.cores c f }

/-- A fresh identifier; identifiers rise with time. -/
def freshId (s : State) : Nat × State := (s.nextId, { s with nextId := s.nextId + 1 })
/-- A fresh free value of 32 bits (log 5). -/
def freshWord (s : State) : Word × State := (Config.freeWord s.freeCtr, { s with freeCtr := s.freeCtr + 1 })
/-- A fresh free choice below `n` (log 5). -/
def freshChoice (s : State) (n : Nat) : Nat × State := (Config.freeChoice s.freeCtr % n, { s with freeCtr := s.freeCtr + 1 })

/-- A message leaves the device. -/
def send (s : State) (m : Msg) : State := { s with outbox := s.outbox ++ [m] }

/-- Device time as a number, and as the group counters see it. -/
def now (s : State) : Nat := s.clk.toNat

/-! ## Where a logical core is (R99, R100) -/

/-- Physical core, die × 9 + number, of a device logical core by the remap table. -/
def physCore (s : State) (lcore : Nat) : Nat :=
  match s.remap[lcore]? with
  | some r => r.die.toNat * 9 + r.pcore.toNat
  | none => 0
def dieOf (s : State) (lcore : Nat) : Nat := physCore s lcore / 9

/-! ## Registers (R6, R19, R114) -/

def slot0 : Slot := { val := 0, poison := false }
def closedStream : Stream := { st := .closed, addr := 0, len := 0, limit := 0, cur := 0, pos := 0 }

def getV (g : Group) (n l : Nat) : Slot := smGet g.v (16 * n + l) slot0
def putVSlot (g : Group) (n l : Nat) (x : Slot) : Group := { g with v := smPut g.v (16 * n + l) x slot0 }
/-- A write of a value clears poison (R200). -/
def putV (g : Group) (n l : Nat) (x : Word) : Group := putVSlot g n l { val := x, poison := false }
def getS (g : Group) (n : Nat) : Slot := smGet g.s n slot0
def putSSlot (g : Group) (n : Nat) (x : Slot) : Group := { g with s := smPut g.s n x slot0 }
def putS (g : Group) (n : Nat) (x : Word) : Group := putSSlot g n { val := x, poison := false }
/-- A scalar pair, low word in the even register. -/
def putSPair (g : Group) (n x : Nat) : Group := putS (putS g n (wordOf x)) (n + 1) (wordOf (x / 2 ^ 32))
def getPMask (g : Group) (n : Nat) : LMask := if n = 7 then 0xFFFF else smGet g.p n 0
def getP (g : Group) (n l : Nat) : Bool := hasLane (getPMask g n) l
/-- Predicate bits of the lanes of `m` become those of `x`. -/
def putPMask (g : Group) (n : Nat) (m x : LMask) : Group :=
  { g with p := smPut g.p n ((smGet g.p n 0 &&& ~~~m) ||| (x &&& m)) 0 }
def putP (g : Group) (n l : Nat) (b : Bool) : Group := putPMask g n (laneBit l) (if b then laneBit l else 0)
def getF (g : Group) (n : Nat) : Nat := (smGet g.f n 0).toNat
def getJ (g : Group) (n : Nat) : LMask := smGet g.j n 0
def putJ (g : Group) (n : Nat) (x : LMask) : Group := { g with j := smPut g.j n x 0 }
def getB (g : Group) (n : Nat) : BitVec 128 := smGet g.b n 0
def putB (g : Group) (n : Nat) (x : BitVec 128) : Group := { g with b := smPut g.b n x 0 }
def getQ (g : Group) (n : Nat) : Stream := smGet g.q n closedStream
def putQ (g : Group) (n : Nat) (x : Stream) : Group := { g with q := smPut g.q n x closedStream }
def getTrap (g : Group) (n : Nat) : Word := smGet g.trap n 0

/-! ## Flags (R39) -/

def flagInc (g : Group) (f : Option Nat) : Group :=
  match f with
  | none => g
  | some n => { g with f := smPut g.f n (BitVec.ofNat 6 (getF g n + 1)) 0 }
def flagDec (g : Group) (f : Option Nat) : Group :=
  match f with
  | none => g
  | some n => { g with f := smPut g.f n (BitVec.ofNat 6 (getF g n - 1)) 0 }
/-- The flag falls for an operation, as often as it was counted. -/
def flagDrop (g : Group) (o : Op) : Group :=
  match o.flag with
  | none => g
  | some n => { g with f := smPut g.f n (BitVec.ofNat 6 (getF g n - (1 + o.more))) 0 }
/-- A word that would raise a flag that reads 63 does not issue (R39). -/
def flagFull (g : Group) (f : Option Nat) : Bool :=
  match f with
  | none => false
  | some n => getF g n == 63
/-- The flag a long-latency word selects (R40): FS picks SETA or SETB; 15 counts on none. -/
def flagSel (c : Clause) (fs : Bool) : Option Nat :=
  let n := (if fs then c.setB else c.setA).toNat
  if n = 15 then none else some n

/-! ## Quads and gangs (R114) -/

def quad0 : Quad :=
  { pc := 0, run := 0, live := 0, stack := [], st := .done, gang := 0, park := .none, clause := none,
    pred := none, replay := none, refused := [] }
def quadAt (g : Group) (q : Nat) : Quad := g.quads.getD q quad0
def modQuads (g : Group) (m : QMask) (f : Quad → Quad) : Group :=
  { g with quads := (List.range g.quads.length).map (fun q => if hasQuad m q then f (quadAt g q) else quadAt g q) }
/-- The quads of the gang that quad `q` issues with. -/
def gangOf (g : Group) (q : Nat) : QMask :=
  qmaskOf (fun k => (quadAt g k).gang == (quadAt g q).gang && (quadAt g k).st == (quadAt g q).st)
/-- The lanes a set of quads is running. -/
def runOf (g : Group) (m : QMask) : LMask :=
  (quadsOf m).foldl (fun r q => r ||| quadLift (quadAt g q).run q) 0
def liveOf (g : Group) (m : QMask) : LMask :=
  (quadsOf m).foldl (fun r q => r ||| quadLift (quadAt g q).live q) 0
def lanesOfQuads (m : QMask) : LMask := (quadsOf m).foldl (fun r q => r ||| quadLift 0xF q) 0
/-- Lanes under an unresolved prediction (R123). -/
def predLanes (g : Group) : LMask :=
  quads4.foldl (fun r q => if (quadAt g q).pred.isSome then r ||| quadLift (quadAt g q).run q else r) 0
/-- Some lane is predicted or replaying: no trap, cut or stop point falls (R127). -/
def speculative (g : Group) : Bool := g.quads.any (fun q => q.pred.isSome || q.replay.isSome)
/-- The group has ended its program: no counted lane is live (R138). -/
def lanesEnded (g : Group) : Bool := liveOf g 0xF &&& g.counted == 0

/-! ## Reconvergence at clause headers (R118, R119, R214) -/

/-- The quad stands at a clause header whose clause has not begun. -/
def atHeader (q : Quad) : Bool :=
  match q.clause with
  | none => true
  | some c => q.pc == c.hdr

/-- The quad stands behind its clause's last word. -/
def atEnd (q : Quad) : Bool :=
  match q.clause with
  | none => false
  | some c => q.pc == c.hdr + BitVec.ofNat 32 (4 * (1 + c.len))

/-- The quad's lanes that chose right run on to the next clause boundary, where its replaying lanes join them (R124 step 3). -/
def runsOn (q : Quad) : Bool :=
  match q.replay with
  | some r => !r.atWord && !atHeader q && !atEnd q
  | none => false

/-- The pending lanes of a LANE entry run (R118); at a PPC inside a clause they resume in that clause (R134). -/
def resumePending (q : Quad) (e : StackEntry) (below : List StackEntry) : Quad :=
  { q with run := e.pmask &&& q.live, pc := e.ppc, clause := e.clause,
           stack := { e with pmask := 0, again := e.clause.isSome } :: below }

/-- One action of R118 for a quad that runs at a header; none where no rule acts. -/
def headerAct (q : Quad) : Option Quad :=
  if q.live = 0 then (if q.st = .done then none else some { q with st := .done, run := 0, stack := [], clause := none })
  else match q.stack with
  | [] => none
  | e :: below =>
    if e.spec then none
    else match e.rpc with
    | some r =>
      if q.run = 0 ∨ q.pc = r then
        match e.kind with
        | .lane =>
          if e.pmask &&& q.live != 0 then
            some (resumePending q e below)
          else some { q with run := e.omask &&& q.live, pc := r, stack := below, clause := none }
        | .gang => if q.st = .holdGang then none else some { q with st := .holdGang, pc := r, clause := none }
      else none
    | none =>
      let under := below.head?.bind StackEntry.rpc
      if q.run = 0 ∨ under = some q.pc then
        if e.pmask &&& q.live != 0 then
          some (resumePending q e below)
        else some { q with run := e.omask &&& q.live, pc := under.getD q.pc, stack := below, clause := none }
      else none

/-- The actions of R118 on a quad until none acts. -/
def headerRun : Nat → Quad → Quad
  | 0, q => q
  | n + 1, q => match headerAct q with
    | none => q
    | some q' => headerRun n q'

/-- Quads that hold at the rejoin point of their GANG entry, all with a live lane there at one depth, form one gang (R118). -/
def gangRelease (g : Group) : Option Group :=
  let ready := quads4.find? (fun q =>
    let a := quadAt g q
    match a.st, a.stack with
    | .holdGang, e :: _ =>
      (quadsOf e.sib).all (fun k =>
        let b := quadAt g k
        b.live == 0 || (b.st == .holdGang && b.pc == a.pc && b.stack.length == a.stack.length))
    | _, _ => false)
  match ready with
  | none => none
  | some q =>
    match (quadAt g q).stack with
    | [] => none
    | e :: _ =>
      let m := qmaskOf (fun k => hasQuad e.sib k && (quadAt g k).live != 0)
      let low := (quadsOf m).headD q
      some (modQuads g m (fun a => { a with st := .running, stack := a.stack.tail, gang := low, clause := none }))

/-- Membership of the open split. -/
def inSplit (g : Group) (q : Nat) : Bool := match g.split with | none => false | some x => hasQuad x.quads q

/-- The lanes of quad `q` in the split word have their destinations written (R214). -/
def splitQuadDone (g : Group) (q : Nat) : Bool :=
  match g.split with
  | none => true
  | some x => match g.ops.find? (fun o => o.id == x.op) with
    | none => true
    | some o => o.accs.all (fun a => a.lane / 4 != q || a.st == .done)

/-- A quad of the open split that stands at a header and is not released from it (R214). -/
def splitHeld (g : Group) (q : Nat) : Bool := inSplit g q && atHeader (quadAt g q) && !splitQuadDone g q

/-- Quads of one gang that no longer agree on PC or state, or on their release from the split, part into gangs. -/
def partGangs (g : Group) : Group :=
  { g with quads := (List.range g.quads.length).map (fun q =>
      let a := quadAt g q
      let low := (quads4.find? (fun k =>
        let b := quadAt g k
        b.gang == a.gang && b.pc == a.pc && b.st == a.st && b.park == a.park && splitHeld g k == splitHeld g q)).getD q
      { a with gang := low }) }

/-- Two gangs that R119 merges: at a header with one PC and one depth, no SPEC entry on top, both in the split or both out of it. -/
def mayMerge (g : Group) (p q : Nat) : Bool :=
  let a := quadAt g p
  let b := quadAt g q
  let ok := fun (m : QMask) => (quadsOf m).all (fun k =>
    let c := quadAt g k
    c.st == .running && atHeader c && c.stack.length == a.stack.length
      && !(match c.stack with | [] => false | e :: _ => e.spec) && inSplit g k == inSplit g p && !splitHeld g k)
  a.gang != b.gang && a.pc == b.pc && ok (gangOf g p) && ok (gangOf g q)

/-- Gangs merge by R119 until none may. -/
def mergeGangs : Nat → Group → Group
  | 0, g => g
  | n + 1, g =>
    match (quads4.flatMap (fun p => quads4.map (fun q => (p, q)))).find? (fun x => mayMerge g x.1 x.2) with
    | none => g
    | some (p, q) =>
      let m := gangOf g p ||| gangOf g q
      let low := (quadsOf m).headD 0
      mergeGangs n (modQuads g m (fun a => { a with gang := low, clause := none }))

/-- Header actions of every running quad at a header, releases of holding gangs, and merging. -/
def settleGo : Nat → Group → Group
  | 0, g => g
  | n + 1, g =>
    let g1 := { g with quads := g.quads.map (fun q =>
      if (q.st = .running ∧ atHeader q ∧ q.pred.isNone ∧ q.replay.isNone) ∨ q.live = 0 then headerRun 24 q else q) }
    match gangRelease g1 with
    | none => g1
    | some g2 => settleGo n g2

def settle (g : Group) : Group := mergeGangs 4 (partGangs (settleGo 16 g))

/-! ## Ending an issue -/

/-- Replaying lanes have issued one more word; when none is left they join their side (R124 step 3). -/
def replayOn (c : Issue) (q : Quad) : Quad :=
  match q.replay with
  | none => q
  | some r =>
    if r.left ≤ 1 then { q with run := (q.run ||| r.lanes) &&& q.live, replay := none }
    else { q with replay := some { r with pc := c.next, clause := if c.last then none else some c.clause, left := r.left - 1 } }

/-- A quad of the gang has issued one more word: a word of its side where it is predicted (R122), and one more for its replaying lanes
where it runs on (R124 step 3). -/
def issuedOn (q : Quad) : Quad :=
  { q with pred := q.pred.map (fun p => { p with issued := p.issued + 1 }),
           replay := q.replay.map (fun r => { r with left := r.left + 1 }) }

/-- The issue of a word is over: the gang goes to the word after it, or at the end of a clause to the
fall-through header (R38). -/
def advanceGrp (c : Issue) (g : Group) : Group :=
  if c.replay then settle (modQuads g c.quads (replayOn c))
  else
    let g1 := modQuads g c.quads (fun q => { issuedOn q with pc := c.next, clause := if c.last then none else some c.clause })
    if c.last then settle g1 else g1

/-- As `advanceGrp`, but the gang takes no header action until a long-latency lane word it is held behind is over (R154). -/
def advanceHold (c : Issue) (g : Group) : Group :=
  if c.replay then settle (modQuads g c.quads (replayOn c))
  else modQuads g c.quads (fun q => { issuedOn q with pc := c.next, clause := some c.clause })

/-- Quads at the end of a clause that no lane word of theirs holds any longer go on to the next header (R154). -/
def releaseHold (g : Group) : Group :=
  settle { g with quads := (List.range g.quads.length).map (fun q =>
    let a := quadAt g q
    if atEnd a && !g.ops.any (fun o => o.kind == .laneWord && hasQuad o.quads q) then { a with clause := none } else a) }

/-- The word parks its gang; it resumes after the word. -/
def parkGrp (c : Issue) (p : Park) (g : Group) : Group :=
  modQuads g c.quads (fun q =>
    let q1 := { q with pc := c.next, clause := if c.last then none else some c.clause }
    if q.live = 0 then q1 else { q1 with st := .parked, park := p })

/-- The gang stays at the word and waits. -/
def stayGrp (c : Issue) (p : Park) (g : Group) : Group :=
  modQuads g c.quads (fun q => { q with pc := c.pc, clause := some c.clause, st := .parked, park := p })

/-- A parked quad that satisfies a condition runs again. -/
def unparkQuad (f : Park → Bool) (q : Quad) : Quad := if q.st = .parked ∧ f q.park then { q with st := .running, park := .none } else q

/-- Parked quads that satisfy a condition run again, in the trap context too. -/
def unparkGrp (f : Park → Bool) (g : Group) : Group := settle { g with quads := g.quads.map (unparkQuad f), ctx := g.ctx.map (unparkQuad f) }

def advance (s : State) (c : Issue) : State := modGrp s c.wg c.grp (advanceGrp c)

/-! ## The issuing gang and its operands' context -/

/-- What the meaning of a clause word sees: the issue, its workgroup, group, launch and ACTIVE (R7). -/
structure Ctx where
  c : Issue
  w : Workgroup
  g : Group
  l : Launch
  act : LMask

/-- ACTIVE of the issuing gang under guard `gd` (R7, R49). -/
def activeOf (c : Issue) (g : Group) (gd : BitVec 3) : LMask := c.run &&& getPMask g gd.toNat

/-- The meaning of a clause word, given what it sees; a state with no issuing gang is a fault of the model. -/
def withCtx (s : State) (gd : BitVec 3) (f : Ctx → State) : Host.Outcome State Fault Refusal :=
  match s.cur with
  | none => .fault .noIssuer
  | some c =>
    match findWg s c.wg with
    | none => .fault .noIssuer
    | some w =>
      match w.groups[c.grp]?, findLaunch s w.launch with
      | some g, some l => .next (f { c := c, w := w, g := g, l := l, act := activeOf c g gd })
      | _, _ => .fault .noIssuer

/-- ACTIVE of a word that acts for the group: helper lanes alone count as none (R116). -/
def groupAct (x : Ctx) : LMask := if x.act &&& x.g.counted = 0 then 0 else x.act

/-- The launch is CHECKED (R83). -/
def isChecked (l : Launch) : Bool := l.lflags.getLsbD 0
def isCoop (l : Launch) : Bool := l.lflags.getLsbD 1
def isEarly (l : Launch) : Bool := l.lflags.getLsbD 2
def isPreemptible (l : Launch) : Bool := l.lflags.getLsbD 3
/-- Enables INV, DVZ, OVF, NFPRO, NFCON: LFLAGS bits 8:4 (R83, R148). -/
def enablesOf (l : Launch) : BitVec 5 := l.lflags.extractLsb' 4 5
/-- CLASS, 0 highest (R83). -/
def classOf (l : Launch) : Nat := (l.lflags.extractLsb' 9 2).toNat
def hasHandler (l : Launch) : Bool := l.handler != 0xFFFFFFFF

/-! ## Workgroup indices (R82, R96) -/

def wgX (l : Launch) (lin : Nat) : Nat := lin % l.gridx
def wgY (l : Launch) (lin : Nat) : Nat := lin / l.gridx % l.gridy
def wgZ (l : Launch) (lin : Nat) : Nat := lin / l.gridx / l.gridy
def gridSize (l : Launch) : Nat := l.gridx * l.gridy * l.gridz
def groupsPer (l : Launch) : Nat := ceilDiv l.threads 16
/-- A workgroup has ended: every group has ended and released its resources (R188). -/
def wgEnded (w : Workgroup) : Bool := w.groups.all (fun g => g.ended)
/-- The team member of the rank `rank` of a workgroup's team. -/
def teamMember (s : State) (w : Workgroup) (rank : Int) : Option Workgroup :=
  if rank < 0 ∨ (w.tsize : Int) ≤ rank then none
  else s.wgs.find? (fun v => v.launch == w.launch && v.lin == w.lin - w.trank + rank.toNat)

/-! ## Memory (R3, R15, R284) -/

/-- Device memory is 720 units of 1 GiB (R32). -/
def physTop : Nat := 720 * 2 ^ 30

/-- The byte at a physical address; memory is zero at READY (R24). -/
def memByte (s : State) (pa : Nat) : Byte := smGet s.mem pa 0
/-- The 64-byte sector of the address holds poison. -/
def sectorBad (s : State) (pa : Nat) : Bool :=
  s.memPoison.any (fun e => e.1 / 64 == pa / 64)
/-- Bytes read, each with the poison of its sector (R284). -/
def memRead (s : State) (pa n : Nat) : List (Byte × Bool) :=
  (List.range n).map (fun i => (memByte s (pa + i), sectorBad s (pa + i)))
def memBytes (s : State) (pa n : Nat) : List Byte := smGetList s.mem pa n 0
def anyBad (bs : List (Byte × Bool)) : Bool := bs.any (fun b => b.2)

/-- The poison left after a write of `n` bytes: a byte written is no longer among a sector's poisoned bytes, and a sector with none
is clean (R284, log 39). -/
def poisonAfter (p : SMap Bool) (pa n : Nat) : SMap Bool := p.filter (fun e => !(decide (pa ≤ e.1) && decide (e.1 < pa + n)))

/-- A write of bytes at a physical address. -/
def memWrite (s : State) (pa : Nat) (bs : List Byte) : State :=
  if bs = [] then s
  else { s with mem := smPutList s.mem pa bs 0, memPoison := poisonAfter s.memPoison pa bs.length }

/-- A write of bytes that carry poison (R260, R271, R274): poisoned bytes are marked after the write. -/
def memWriteP (s : State) (pa : Nat) (bs : List (Byte × Bool)) : State :=
  let s1 := memWrite s pa (bs.map Prod.fst)
  { s1 with memPoison := (List.range bs.length).foldl (fun m i =>
      match bs[i]? with
      | some (_, true) => smPut m (pa + i) true false
      | _ => m) s1.memPoison }

/-- Little-endian number at a physical address. -/
def memNat (s : State) (pa n : Nat) : Nat := bytesToNat (memBytes s pa n)

/-! ## Translation (R193, R194) -/

/-- A leaf found by a walk. -/
structure Leaf where
  frame : Nat
  wr : Bool
  big : Bool
  /-- SPAN, and that the 64 leaves about it make a span (R193). -/
  span : Bool
  whole : Bool
  peer : Option Nat
deriving DecidableEq, Repr

/-- Must-be-zero bits of an entry by kind (R193). -/
def pointerBad (e level : Nat) : Bool :=
  bitsOf e 63 57 != 0 || bitsOf e 7 5 != 0 || bitOf e 4 || bitOf e 3 || (level != 1 && bitsOf e 11 8 != 0) || level == 0
/-- The same of a leaf; one with PEER set and a PEERID beyond 7 is malformed (R193, log 137). -/
def leafBad (e level : Nat) : Bool :=
  bitsOf e 63 57 != 0 || bitsOf e 15 12 != 0 || bitsOf e 7 5 != 0 || decide (2 ≤ level)
    || (level == 0 && bitOf e 3) || (level == 1 && bitsOf e 20 16 != 0) || decide (physTop ≤ bitsOf e 56 16 * 65536 && !bitOf e 4)
    || (bitOf e 4 && decide (8 ≤ bitsOf e 11 8))

/-- Index of a virtual address in the table of a level. -/
def vaIndex (va level : Nat) : Nat := if level = 0 then bitsOf va 20 16 else bitsOf va (20 + 9 * level) (12 + 9 * level)

/-- The 64 aligned leaves about entry `i` of a level-1 table make a span: the same attributes, and frames that follow one
another (R193). -/
def spanWhole (s : State) (table i : Nat) : Bool :=
  let e := memNat s (table + 8 * i) 8
  bitOf e 3 && (List.range 64).all (fun k =>
    let d := memNat s (table + 8 * (i / 64 * 64 + k)) 8
    bitOf d 0 && bitOf d 2 && !leafBad d 1 && bitsOf d 11 0 == bitsOf e 11 0
      && bitsOf d 56 16 + 32 * (i % 64) == bitsOf e 56 16 + 32 * k)

/-- The walk of R193 from a table of level `n`; a malformed entry counts as V = 0. -/
def walk (s : State) (table va : Nat) : Nat → Option Leaf
  | 0 =>
    let e := memNat s (table + 8 * vaIndex va 0) 8
    if !bitOf e 0 || !bitOf e 2 || leafBad e 0 then none
    else some { frame := bitsOf e 56 16 * 65536, wr := bitOf e 1, big := false, span := false, whole := false,
                peer := if bitOf e 4 then some (bitsOf e 11 8) else none }
  | n + 1 =>
    let e := memNat s (table + 8 * vaIndex va (n + 1)) 8
    if !bitOf e 0 then none
    else if bitOf e 2 then
      (if leafBad e (n + 1) then none
       else some { frame := bitsOf e 56 16 * 65536, wr := bitOf e 1, big := true, span := bitOf e 3,
                   whole := spanWhole s table (vaIndex va (n + 1)), peer := if bitOf e 4 then some (bitsOf e 11 8) else none })
    else if pointerBad e (n + 1) then none
    else walk s (bitsOf e 56 8 * 256) va n

/-- A walk of a partition's table. -/
def walkPart (s : State) (part va : Nat) : Option Leaf :=
  match findPart s part with
  | none => none
  | some p => if 2 ^ 57 ≤ va then none else walk s p.troot va 4

def pageBits (big : Bool) : Nat := if big then 21 else 16

/-- Bits of the addresses that a TLB entry covers, and of one leaf's page in it. -/
def coverBits (k : TlbKind) : Nat := match k with | .pages | .big => 21 | .span => 27
def leafBits (k : TlbKind) : Nat := match k with | .pages => 16 | .big => 21 | .span => 27

/-- The leaf of an entry that translates an address. -/
def entryLeaf (e : TlbEntry) (part va : Nat) : Option TlbLeaf :=
  if e.part == part && e.va / 2 ^ coverBits e.kind == va / 2 ^ coverBits e.kind then
    e.leaves.find? (fun f => f.idx == va % 2 ^ coverBits e.kind / 2 ^ leafBits e.kind)
  else none

/-- A translation result: physical address, writable, PEERID, and the kind of page. -/
structure Phys where
  pa : Nat
  wr : Bool
  peer : Option Nat
  big : Bool
  span : Bool
deriving DecidableEq, Repr

/-- What a leaf of an entry of a kind makes of an address. -/
def physOf (k : TlbKind) (va : Nat) (f : TlbLeaf) : Phys :=
  { pa := f.frame + va % 2 ^ leafBits k, wr := f.wr, peer := f.peer.map Prod.fst, big := decide (k ≠ .pages), span := f.span }

/-- The TLB of a die translates an address (R194). -/
def tlbFind (s : State) (die part va : Nat) : Option Phys :=
  match s.dies[die]? with
  | none => none
  | some d => d.tlb.findSome? (fun e => (entryLeaf e part va).map (physOf e.kind va))

/-- Incarnation seen on the lowest link bound to a peer that is up (R369). -/
def peerInc (s : State) (part k : Nat) : Nat :=
  match (findPart s part).bind (fun p => p.peers[k]?) with
  | some b => ((List.range 8).findSome? (fun i => if b.links.getLsbD i then (s.links[i]?).bind (fun (x : Link) => if x.up then some x.inc else none) else none)).getD 0
  | none => 0

/-- The entry kind and leaf that a walk's leaf is kept as. -/
def tlbLeaf (s : State) (part va : Nat) (lf : Leaf) : TlbKind × TlbLeaf :=
  let k : TlbKind := if lf.whole then .span else if lf.big then .big else .pages
  (k, { idx := va % 2 ^ coverBits k / 2 ^ leafBits k, frame := if lf.whole then lf.frame - va % 2 ^ 27 / 2 ^ 21 * 2 ^ 21 else lf.frame,
        wr := lf.wr, span := lf.span, peer := lf.peer.map (fun p => (p, peerInc s part p)) })

/-- A leaf goes into a TLB: among the 64 KiB pages of its 2 MiB region where an entry holds them, else into an entry of its own,
in place of the oldest of 4,096 (R194, log 9). -/
def tlbPut (part va : Nat) (k : TlbKind) (f : TlbLeaf) (tlb : List TlbEntry) : List TlbEntry :=
  let mine := fun (e : TlbEntry) => e.part == part && e.kind == .pages && k == .pages && e.va / 2 ^ 21 == va / 2 ^ 21
  if tlb.any mine then tlb.map (fun e => if mine e then { e with leaves := f :: e.leaves } else e)
  else ({ part := part, kind := k, va := va / 2 ^ coverBits k * 2 ^ coverBits k, leaves := [f] } :: tlb).take 4096

/-- Translation at a die: the TLB first, then a walk whose leaf the TLB keeps until a shootdown (R194, log 9). -/
def translate (s : State) (die part va : Nat) : Option Phys × State :=
  match tlbFind s die part va with
  | some p => (some p, s)
  | none =>
    match walkPart s part va with
    | none => (none, s)
    | some lf =>
      let e := tlbLeaf s part va lf
      (some (physOf e.1 va e.2), { s with dies := modifyAt s.dies die (fun d => { d with tlb := tlbPut part va e.1 e.2 d.tlb }) })

/-- A leaf usable for an access: present, writable where it must be. -/
def translateFor (s : State) (die part va : Nat) (write : Bool) : Option Phys × State :=
  match translate s die part va with
  | (some p, s1) => if write && !p.wr then (none, s1) else (some p, s1)
  | r => r

/-- What is left of a TLB entry without the leaves that `f` names, by page address and bits. -/
def dropLeaves (f : Nat → Nat → TlbLeaf → Bool) (e : TlbEntry) : Option TlbEntry :=
  let l := e.leaves.filter (fun x => !f (e.va + x.idx * 2 ^ leafBits e.kind) (leafBits e.kind) x)
  if l.isEmpty then none else some { e with leaves := l }

/-- The leaves that translate a page of a partition leave every die: the replies to its faults let the accesses walk the
table again (R195, log 9). -/
def forgetPage (s : State) (part page : Nat) : State :=
  { s with dies := s.dies.map (fun (d : Die) =>
      { tlb := d.tlb.filterMap (fun e => if e.part = part then dropLeaves (fun va b _ => va / 2 ^ b == page * 65536 / 2 ^ b) e else some e) }) }

/-- The peer of a partition is out of reach: LOST, or bound to no link (R370, log 21). -/
def peerGone (s : State) (part k : Nat) : Bool :=
  match findPart s part with
  | none => true
  | some p => p.lost.getLsbD k || match p.peers[k]? with
    | some b => !b.valid
    | none => true

/-- A write to a peer is dropped: its launch keeps the first (R362, R370). -/
def noteDrop (s : State) (launch k va : Nat) : State :=
  modLaunch s launch (fun l => { l with lostPeer := if l.lostPeer.isNone then some (va, k) else l.lostPeer })

/-! ## FAULT events (R195, R318) -/

/-- Device message SEQ, chosen by the device: the next number (log 6). -/
def nextSeq (s : State) : BitVec 16 × State := (s.devSeq, { s with devSeq := s.devSeq + 1 })

/-- An event message of 32 bytes to a partition's privileged handler (R318). -/
def eventMsg (part : Nat) (seq : BitVec 16) (ev b5 half : Nat) (va tail : Nat) : Msg :=
  { cls := 0, bytes := natToBytes 1 0x51 ++ natToBytes 1 part ++ natToBytes 2 seq.toNat ++ natToBytes 1 ev ++ natToBytes 1 b5
      ++ natToBytes 2 half ++ natToBytes 8 va ++ natToBytes 16 tail }

def pageOf (va : Nat) : Nat := va / 65536

/-- A FAULT for a page, unless one for that page and partition is unanswered (R318). `how`: bit 0 write,
bit 1 copy channel, bit 2 frame. -/
def raiseFault (s : State) (part va how tag : Nat) : State :=
  if s.faults.any (fun f => f.part == part && f.page == pageOf va) then s
  else
    let (q, s1) := nextSeq s
    send { s1 with faults := s1.faults ++ [{ part := part, page := pageOf va, seq := q, va := va, absent := (walkPart s part va).isNone }] }
      (eventMsg part q 1 how 0 va tag)

def faultPending (s : State) (part page : Nat) : Bool := s.faults.any (fun f => f.part == part && f.page == page)

/-! ## Poison of slots (R200, R340) -/

/-- Operand codes of a word that read poisoned slots, in field order. -/
def wordAt (g : Group) (c : BitVec 8) (k l : Nat) : Slot :=
  if isVec c then getV g (c.toNat + k) l else if isScl c then getS g (c.toNat - 0x80 + k) else slot0

/-! ## Error-rate monitors (R345) -/

/-- A physical core holds a logical core (R346). -/
def coreInUse (s : State) (core : Nat) : Bool := s.remap.any (fun r => r.die.toNat * 9 + r.pcore.toNat == core)

def monCount (s : State) (core : Nat) : Nat :=
  match s.cores[core]? with
  | none => 0
  | some c => c.mon.foldl (· + ·) 0

/-! ## Crossing the threshold (R346-R348) -/

/-- Hops between two dies of the package's grid (R10). -/
def natDist (a b : Nat) : Nat := (a - b) + (b - a)
def dieHops (a b : Nat) : Nat := natDist (a / 8) (b / 8) + natDist (a % 8) (b % 8)

/-- The device logical core that a physical core holds. -/
def lcoreOf (s : State) (core : Nat) : Option Nat :=
  (List.range 256).find? (fun k => match s.remap[k]? with | some r => r.die.toNat * 9 + r.pcore.toNat == core | none => false)

/-- The partition a logical core belongs to. -/
def corePart (s : State) (lcore : Nat) : Option (Nat × Partition) :=
  match s.remap[lcore]? with
  | none => none
  | some r => match findPart s r.part.toNat with
    | some p => if p.dies.getLsbD (lcore / 8) then some (r.part.toNat, p) else none
    | none => none

/-- The spare of a die, as a physical core, if it is free (R347). -/
def freeSpare (s : State) (d : Nat) : Option Nat :=
  match s.spares[d]? with
  | none => none
  | some k =>
    let c := d * 9 + k.toNat
    if coreInUse s c || s.evacs.any (fun e => e.dst == c) || (match s.cores[c]? with | some x => x.oos | none => true) then none else some c

/-- The free spare nearest to a die, the lowest die number on a tie. -/
def chooseSpare (s : State) (d : Nat) : Option Nat :=
  ((List.range 11).findSome? (fun h => (List.range 32).findSome? (fun e => if dieHops d e = h then freeSpare s e else none)))

/-- A core's count reaches its partition's threshold: its monitor clears, and the launch unit starts an evacuation to the spare it
chooses, or marks the core degraded (R346-R348). -/
def crossing (s : State) (core : Nat) : State :=
  match lcoreOf s core with
  | none => s
  | some lc => match corePart s lc with
    | none => s
    | some (p, part) =>
      if s.boot != .ready || decide (monCount s core < part.errthr) then s
      else
        let s1 := modCore s core (fun c => { c with mon := zeroMonitor })
        if s.evacs.any (fun e => e.lcore == lc && e.phase != .committed) then s1
        else match chooseSpare s (core / 9) with
        | some sp => { s1 with evacs := s1.evacs ++ [{ lcore := lc, src := core, dst := sp, phase := .prepare }] }
        | none =>
          let q := nextSeq { s1 with remap := modifyAt s1.remap lc (fun r => { r with degraded := true }) }
          send q.2 (eventMsg p q.1 5 0 lc 0 0)

/-- One event counted by a physical core's monitor, which may cross at once; a spare, and a core out of service, count nothing
(R345, R346, R349), and no core before READY (R35). -/
def monEvent (s : State) (core : Nat) : State :=
  if s.boot == .ready && coreInUse s core then
    crossing (modCore s core (fun c => { c with mon := match c.mon with | [] => [1] | x :: r => (x + 1) :: r })) core
  else s

/-! ## Operations that are over -/

/-- Operations whose effects are all in place leave the list, and their flags fall (R39, R192, R209). -/
def opOver (o : Op) : Bool :=
  match o.kind with
  | .load | .store | .atom => o.accs.all (fun a => a.st == .done)
  | .red => o.accepted && o.accs.all (fun a => a.st == .done)
  | .laneWord | .crd | .wait => false

def finishGrp (g : Group) : Group :=
  let fin := g.ops.filter opOver
  { (fin.foldl (fun g o => if o.kind == .red then g else flagDec g o.flag) g) with ops := g.ops.filter (fun o => !opOver o) }

/-! ## Failing a launch (R319) -/

/-- Operations of a group that a failing launch discards: outstanding loads and long-latency lane words, and what was refused. -/
def dropReads (g : Group) : Group :=
  let gone := fun (o : Op) => o.kind == .load || o.kind == .laneWord || o.kind == .crd || o.kind == .wait
  finishGrp { g with
    ops := (g.ops.filter (fun o => !gone o)).map (fun o => { o with accs := o.accs.filter (fun a => a.st != .refused) }),
    f := (g.ops.filter gone).foldl (fun m o => match o.flag with
             | none => m
             | some n => smPut m n (BitVec.ofNat 6 ((smGet m n 0).toNat - (1 + o.more))) 0) g.f,
    refusals := [], kept := [],
    quads := g.quads.map (fun q => { q with st := .done, run := 0, live := 0, stack := [], clause := none, park := .none, pred := none, replay := none }) }

/-- An open interval is discarded unseen: its stores, ATOMNs and REDs to global memory leave the group, and their flags fall (R299). -/
def dropOpen (mark : Nat) (g : Group) : Group :=
  let gone := fun (o : Op) => decide (mark ≤ o.id) && !o.ret && (o.kind == .store || o.kind == .atom || o.kind == .red)
    && o.accs.any (fun a => match a.loc with | .canvas _ _ => false | _ => true)
  { (g.ops.filter gone).foldl (fun g o => flagDec g o.flag) g with ops := g.ops.filter (fun o => !gone o) }

def dropInterval (c : Option Checked) (g : Group) : Group := match c with | some c => dropOpen c.mark g | none => g

/-- A workgroup of a failing launch: its groups stop, a save under way is given up, and one in the save reserve, whose image is freed
once nothing is under way to it, retires (R319, R341, R359, logs 142 and 143). -/
def dropWg (w : Workgroup) : Workgroup :=
  let w1 := { w with groups := w.groups.map (fun g => dropReads (dropInterval w.chk g)), chk := none }
  match w.place with
  | .saved _ _ => { w1 with groups := w1.groups.map (fun g => { g with ended := true, active := false }), cwords := [], retired := true }
  | .saving => { w1 with place := .live }
  | .live => w1

/-- A launch fails with a status and detail; the first cause is the one reported. Its groups stop, reads are
discarded, open intervals are dropped and saved images released. -/
def failLaunch (s : State) (lid status : Nat) (detail : Nat) : State :=
  match findLaunch s lid with
  | none => s
  | some l =>
    if l.fail.isSome then s
    else
      let out := s.wgs.filter (fun w => w.launch == lid && !w.retired && match w.place with | .saved _ _ => true | _ => false)
      let s1 := modLaunch s lid (fun l => { l with st := .failing, fail := some (status, dwordOf detail), retired := l.retired + out.length })
      { s1 with wgs := s1.wgs.map (fun w => if w.launch = lid then dropWg w else w) }

/-- A refusal waits to be taken as PAGE_FAULT (R196), unless its group has ended or its launch is failing. -/
def addRefusal (s : State) (wg grp : Nat) (r : RefusalRec) : State :=
  let failing := ((findWg s wg).bind (fun w => findLaunch s w.launch)).any (fun l => l.fail.isSome)
  if failing then s else modGrp s wg grp (fun g => if g.ended then g else { g with refusals := g.refusals ++ [r] })

/-- Launch status codes (R362). -/
def stLostReduction : Nat := 1
def stPeerLost : Nat := 2
def stDepFailed : Nat := 16
def stTrapped : Nat := 17
def stCheckFailed : Nat := 18
def stSaveLost : Nat := 19

/-! ## Traps (R314-R317) -/

/-- Code of a trap kind (R315). -/
def TrapKind.code : TrapKind → Nat
  | .illegalOp => 1 | .uniformity => 2 | .reconvOverflow => 3 | .breakpoint => 4 | .software => 5 | .nonfinite => 6
  | .readOnlyBuffer => 7 | .accessSize => 8 | .outOfBounds => 9 | .canvasBounds => 10 | .rangeHazard => 11
  | .pageFault => 12 | .memoryPoison => 13 | .badRecord => 14 | .canvasState => 15 | .weightInvalid => 16
  | .copyState => 17 | .phaserState => 18 | .badBarrier => 19 | .handlerState => 20 | .peerLost => 21

/-- What a trap records (R315, R316, R149). -/
structure Trap where
  kind : TrapKind
  sub : Nat
  mask : LMask
  addr : Nat
  info : Nat
  wtype : Nat
  outs : List LaneOut
  pc : Word
  resume : Word
  /-- The gang that traps, and whether it stands at a header. -/
  quads : QMask
  header : Bool

/-- A trap of a kind at a word, with nothing else in its frame. -/
def Trap.at (c : Issue) (k : TrapKind) (sub : Nat) (mask : LMask) : Trap :=
  { kind := k, sub := sub, mask := mask, addr := 0, info := 0, wtype := 0, outs := [], pc := c.pc, resume := c.pc,
    quads := c.quads, header := false }

/-- The trap-frame registers of a trap (R316), in number order: the operands of every ACTIVE lane, the CAUSE of LMASK's (R149). -/
def trapFrame (t : Trap) : SMap Word :=
  let outOf := fun l => t.outs.find? (fun o => o.lane == l)
  let cause := fun i => (List.range 4).foldl (fun a k =>
    a + (match outOf (4 * i + k) with | none => 0 | some o => if hasLane t.mask o.lane then o.conds.toNat * 2 ^ (8 * k) else 0)) 0
  let op := fun (f : LaneOut → DWord) (l : Nat) => match outOf l with | none => 0 | some o => (f o).toNat
  let pairs := fun (base : Nat) (f : LaneOut → DWord) =>
    lanes16.flatMap (fun l => [(base + 2 * l, wordOf (op f l)), (base + 2 * l + 1, wordOf (op f l / 2 ^ 32))])
  let all : List (Nat × Word) :=
    [(0x100, wordOf (t.kind.code + 256 * t.sub)), (0x101, t.pc), (0x102, t.resume), (0x103, wordOf t.mask.toNat),
     (0x104, wordOf t.addr), (0x105, wordOf (t.addr / 2 ^ 32)), (0x106, wordOf t.info), (0x107, wordOf t.wtype)]
    ++ (List.range 4).map (fun i => (0x108 + i, wordOf (cause i)))
    ++ pairs 0x110 LaneOut.opa ++ pairs 0x130 LaneOut.opb ++ pairs 0x150 LaneOut.opc
  all.foldl (fun m e => smPut m e.1 e.2 0) []

/-- The results of a lane word reach its registers. -/
def applyOut (g : Group) (o : LaneOut) : Group :=
  let g1 := o.v.foldl (fun g e => putVSlot g e.1 o.lane { val := e.2, poison := o.bad.contains e.1 }) g
  o.p.foldl (fun g e => putP g e.1 o.lane e.2) g1

/-- Lanes of a lane word in which an enabled condition holds and may trap: helper lanes never do (R116, R149). -/
def condLanes (g : Group) (en : BitVec 5) (outs : List LaneOut) : LMask :=
  outs.foldl (fun m o => if o.conds &&& en != 0 && hasLane g.counted o.lane then m ||| laneBit o.lane else m) 0

/-- The trap of a lane word whose condition is enabled (R149). -/
def opTrap (o : Op) (mask : LMask) : Trap :=
  { kind := .nonfinite, sub := 0, mask := mask, addr := 0, info := 0, wtype := o.wtype.toNat, outs := o.outs, pc := o.pc,
    resume := o.pc, quads := o.quads, header := false }

/-- A pending lane word is over: written, or undone so that its gang stands at it again (R314 step 2). -/
def endLaneWord (en : BitVec 5) (o : Op) (g : Group) : Group :=
  let g1 := { flagDrop g o with ops := g.ops.filter (fun x => x.id != o.id) }
  if condLanes g en o.outs = 0 then releaseHold (o.outs.foldl applyOut g1)
  else modQuads g1 o.quads (fun q => if q.live = 0 then q else { q with pc := o.pc })

/-- Pending lane words that R154 holds their gangs behind, oldest first. -/
def heldLaneWords (en : BitVec 5) (g : Group) : List Op :=
  if en = 0 then [] else g.ops.filter (fun o => o.kind == .laneWord)

/-- Refusals that are to be taken: inside a handler not those that stood when it was entered (R196, R314 step 2). -/
def dueRefusals (g : Group) : List RefusalRec := if g.inHandler then g.refusals.filter (fun r => !r.stands) else g.refusals

/-- The pending lane word that traps before operation `id`, if any: the oldest whose condition is met (R314 step 2). -/
def trapsFirst (en : BitVec 5) (g : Group) (id : Nat) : Option Op :=
  (heldLaneWords en g).find? (fun o => condLanes g en o.outs != 0 && decide (o.id < id))

/-- Taking a trap (R314) of operation `id` for a gang of group `grp` of workgroup `wg`: pending lane words of other gangs come
to their end first, the earliest trapping word is the one taken and what else traps stands, the frame and context are written, and
the group enters its handler; with no handler, or inside it, the launch fails TRAPPED (R319). What stands refused is log 140's. -/
def takeTrapOf (s : State) (wg grp id : Nat) (t0 : Trap) : State :=
  match findWg s wg with
  | none => s
  | some w =>
    match w.groups[grp]?, findLaunch s w.launch with
    | some g, some l =>
      let en := enablesOf l
      let held := heldLaneWords en g
      let t := match trapsFirst en g id with
        | none => t0
        | some o => opTrap o (condLanes g en o.outs)
      let g1 := held.foldl (fun g o => endLaneWord en o g) g
      let g2 := { g1 with refusals := g1.refusals.map (fun r => { r with stands := true }), trap := trapFrame t, ctx := g1.quads, ctxQuads := t.quads, ctxHeader := t.header }
      let detail := t.kind.code + 256 * t.sub + (if g.inHandler then 2 ^ 16 else 0) + 2 ^ 32 * t.pc.toNat
      if !hasHandler l || g.inHandler then
        failLaunch (modGrp s wg grp (fun _ => g2)) w.launch stTrapped detail
      else
        let start := fun (q : Nat) =>
          let a := quadAt g2 q
          if quadLift a.live q &&& g2.counted = 0 then { a with st := .done }
          else { a with pc := l.handler, run := a.live, stack := [], st := .running, park := .none, clause := none, pred := none, replay := none }
        let low := (quads4.find? (fun q => quadLift (quadAt g2 q).live q &&& g2.counted != 0)).getD 0
        modGrp s wg grp (fun _ => { g2 with
          inHandler := true,
          quads := (List.range g2.quads.length).map (fun q =>
            let a := start q
            if a.st = .done then a else { a with gang := low }) })
    | _, _ => s

/-- The trap of a word being issued: every pending word was issued before it. -/
def takeTrap (s : State) (wg grp : Nat) (t : Trap) : State := takeTrapOf s wg grp s.nextId t

/-- Old values come back, newest first (R123). -/
def undoKeys (g : Group) (u : List UndoKey) : Group :=
  u.foldl (fun g k => match k with
    | .v n l old => putVSlot g n l old
    | .p n l b => putP g n l b) g

/-- Loads and lane words with identifiers from `mark` on lose lanes `m`, and so do their refusals; one with nothing left to wait
for is over, and its flag falls (R39). -/
def dropLanes (mark : Nat) (m : LMask) (g : Group) : Group :=
  let cut := fun (o : Op) =>
    if o.id < mark ∨ o.lanes &&& m = 0 then o
    else { o with lanes := o.lanes &&& ~~~m, accs := o.accs.filter (fun a => !hasLane m a.lane), outs := o.outs.filter (fun a => !hasLane m a.lane) }
  let gone := fun (o : Op) => decide (mark ≤ o.id) && o.lanes &&& m != 0 && (cut o).accs.all (fun a => a.st == .done) && (cut o).outs.isEmpty
  let mine := fun (r : RefusalRec) => g.ops.any (fun o => o.id == r.op && decide (mark ≤ o.id)) && r.lanes &&& m != 0
  { (g.ops.filter gone).foldl flagDrop g with
    ops := (g.ops.filter (fun o => !gone o)).map cut,
    refusals := (g.refusals.map (fun r => if mine r then { r with lanes := r.lanes &&& ~~~m } else r)).filter (fun r => r.lanes != 0 || r.copy) }

/-- Quads of `m` have left the side that they issued the operations from `mark` on for (R124, R126). -/
def leaveOps (mark : Nat) (m : QMask) (g : Group) : Group :=
  { g with ops := g.ops.map (fun o => if mark ≤ o.id then { o with quads := o.quads &&& ~~~m } else o) }

/-- A replayed word that would trap: the quad goes back to the start of its side, and all its lanes there issue the
side again, unpredicted, so that the trap is taken for the right lanes (R123, R126, R127, log 24). -/
def restartSide (q : Nat) (g : Group) : Group :=
  let a := quadAt g q
  match a.replay with
  | none => g
  | some r =>
    let lanes := a.run ||| r.lanes
    modQuads (leaveOps r.mark (quadBit q) (dropLanes r.mark (quadLift lanes q) (undoKeys g r.undo))) (quadBit q)
      (fun a => { a with run := lanes &&& a.live, pc := r.start, clause := none, replay := none })

/-- A gang is inside a word that must finish before a boundary (R320). -/
def insideWord (q : Quad) : Bool :=
  match q.park with
  | .launchAnswer | .mcall _ _ => q.st == .parked
  | _ => false

/-- A trap waits: some lane is predicted or replaying, a gang is inside a word it must finish (R320), or a readout another gang is held behind has not reached its
bank (R127, R314 step 2). -/
def trapWaits (g : Group) : Bool := speculative g || g.quads.any insideWord || g.ops.any (fun o => o.kind == .laneWord && o.outs.isEmpty)

/-- Replaying quads of a gang issue their side again from its start, unpredicted. -/
def restartQuads (m : QMask) (g : Group) : Group := settle ((quadsOf m).foldl (fun g q => restartSide q g) g)

/-- The trap of the word being issued: while a lane of the group is predicted or replaying it waits (R127). -/
def raise (s : State) (x : Ctx) (t : Trap) : State :=
  if x.c.replay then modGrp s x.c.wg x.c.grp (restartQuads x.c.quads)
  else if trapWaits x.g then s
  else takeTrap s x.c.wg x.c.grp t

/-- Quads that run on to a clause boundary stop at the word where they stand, and their replaying lanes join them there (R124). -/
def stopRun (q : Quad) : Quad := if runsOn q then { q with replay := q.replay.map (fun r => { r with atWord := true }) } else q

/-- A word for predicted lanes that meets a trap condition: it writes nothing and its side stops (R126). -/
def stopSide (s : State) (c : Issue) : State :=
  modGrp s c.wg c.grp (fun g => modQuads g c.quads (fun q => { stopRun q with pred := q.pred.map (fun p => { p with stopped := true }) }))

/-- The gang holds predicted lanes, or replaying lanes are to join lanes of it (R122, R124). -/
def unsettled (g : Group) (m : QMask) : Bool := (quadsOf m).any (fun q => (quadAt g q).pred.isSome || runsOn (quadAt g q))
def predicted (x : Ctx) : Bool := unsettled x.g x.c.quads

/-- A precise trap, or the stop of a predicted side. -/
def trapOr (s : State) (x : Ctx) (t : Trap) : State := if predicted x then stopSide s x.c else raise s x t

/-! ## Return from a handler (R343) -/

/-- The sequencers of the trap context, the trapping gang at `goal`; pending lanes that resumed at an indirect branch passed by
have not issued it (R134). -/
def leaveHandler (g : Group) (goal : Word) (clause : Quad → Option Clause) : Group :=
  { g with
    inHandler := false,
    refusals := g.refusals.map (fun r => { r with stands := false }),
    quads := (List.range g.ctx.length).map (fun q =>
      let a := g.ctx.getD q quad0
      let live := (quadAt g q).live
      let a1 := { a with live := live, run := a.run &&& live }
      if live = 0 then { a1 with st := .done }
      else if hasQuad g.ctxQuads q then
        { a1 with pc := goal, st := .running, park := .none, clause := clause a,
                  stack := if goal = getTrap g 0x101 then a.stack else a.stack.map (fun e => { e with again := false }) }
      else a1) }

end Sys2Proof.Machine
end

