-- ==== Sys2Proof/Machine/Operands.lean ====
section
/-! DEFINITION. Operand forms: registers, inline constants (R44), specials (R45), literals (R46), slots narrower
than 32 bits (R144), and the poison of the slots a word reads (R200). -/
namespace Sys2Proof.Machine

/-! ## Specials (R45) -/

/-- The value of a special for a lane. -/
def specialVal (s : State) (x : Ctx) (c : BitVec 8) (l : Nat) : Nat :=
  match c.toNat with
  | 0xF0 => l
  | 0xF1 => l / 4
  | 0xF2 => l % 4
  | 0xF3 => x.c.grp
  | 0xF4 => wgX x.l x.w.lin
  | 0xF5 => wgY x.l x.w.lin
  | 0xF6 => wgZ x.l x.w.lin
  | 0xF7 => x.w.lin
  | 0xF8 => x.w.trank
  | 0xF9 => x.w.tsize
  | 0xFA => groupsPer x.l
  | 0xFB => x.act.toNat
  | 0xFC => bitsOf s.clk.toNat 31 0
  | 0xFD => bitsOf s.clk.toNat 63 32
  | _ => 0

/-! ## Inline constants (R44) -/

/-- The integer an integer constant code denotes. -/
def intConst (c : BitVec 8) : Int := if c.toNat < 0xD0 then (c.toNat : Int) - 0xC0 else (c.toNat : Int) - 0xE0

/-- 1 ÷ x for a fraction scaled by 2^320. -/
def fxInv (x : Nat) : Nat := 2 ^ 640 / x

/-- The real value of an inline constant as an exact result. -/
def constExact (c : BitVec 8) : Exact :=
  match c.toNat with
  | 0xE0 => .fin false 1 (-1) false
  | 0xE1 => .fin false 1 0 false
  | 0xE2 => .fin false 2 0 false
  | 0xE3 => .fin false 4 0 false
  | 0xE4 => .fin false 8 0 false
  | 0xE5 => .fin false 1 (-2) false
  | 0xE6 => .fin true 1 (-1) false
  | 0xE7 => .fin true 1 0 false
  | 0xE8 => .fin true 2 0 false
  | 0xE9 => .fin true 4 0 false
  | 0xEA => .fin false ln2Fx (-320) true
  | 0xEB => .fin false (fxInv ln2Fx) (-320) true
  | 0xEC => .fin false piFx (-320) true
  | 0xED => .fin false (fxInv piFx) (-320) true
  | 0xEE => .inf false
  | 0xEF => .fin true 0 0 false
  | _ => exOfInt (intConst c)

/-- The bits of an inline constant in a floating-point type. -/
def fltConst (ty : Nat) (c : BitVec 8) : Nat := (deliver ty 0 false (constExact c) false false).bits

/-- An f32 literal widened to f64 (R46). -/
def widenLit (x : Nat) : Nat :=
  match fDecode 10 x with
  | .nan _ => (if bitOf x 31 then 2 ^ 63 else 0) + 0x7FF * 2 ^ 52 + x % 2 ^ 23 * 2 ^ 29
  | .inf n => fInfBits 11 n
  | .fin n m e => (deliver 11 0 false (.fin n m e false) false false).bits

/-! ## Reading an operand field -/

/-- The 32 bits of register code `c + k` for a lane. -/
def regWord (g : Group) (c : BitVec 8) (k l : Nat) : Word :=
  if isVec c then (getV g (c.toNat + k) l).val else (getS g (c.toNat - 0x80 + k)).val

/-- An integer operand of `w` bits (32 or 64); a 64-bit literal is sign-extended when `sg`. -/
def readInt (s : State) (x : Ctx) (f : Fld) (w : Nat) (sg : Bool) (l : Nat) : Nat :=
  if isVec f.code ∨ isScl f.code then
    (if w = 64 then pairVal (regWord x.g f.code 0 l) (regWord x.g f.code 1 l) else (regWord x.g f.code 0 l).toNat)
  else if isIntConst f.code then wrapNat w (intConst f.code)
  else if isLit f.code then (if w = 64 ∧ sg then wrapNat 64 (toSigned 32 f.lit.toNat) else f.lit.toNat)
  else specialVal s x f.code l

/-- An operand of an integer type: its bits as read; of a literal in an 8-bit or 16-bit operand the low ones are used (R46, log 118). -/
def readTy (s : State) (x : Ctx) (f : Fld) (ty l : Nat) : Nat :=
  readInt s x f (if tyPair ty then 64 else 32) (tySigned ty) l % 2 ^ tyWidth ty

/-- A 32-bit operand read as n32, and as a signed number. -/
def readN (s : State) (x : Ctx) (f : Fld) (l : Nat) : Nat := readInt s x f 32 false l
def readI (s : State) (x : Ctx) (f : Fld) (l : Nat) : Int := toSigned 32 (readInt s x f 32 false l)

/-- An unpacked floating-point operand: its bits as read (R144), an e8m0 value in bits 7:0 (log 38); of a literal in an 8-bit or 4-bit
operand the low ones (log 118). -/
def readFlt (x : Ctx) (f : Fld) (ty l : Nat) : Nat :=
  let r :=
    if isVec f.code ∨ isScl f.code then
      (if ty = 11 then pairVal (regWord x.g f.code 0 l) (regWord x.g f.code 1 l) else (regWord x.g f.code 0 l).toNat)
    else if isIntConst f.code ∨ isFltConst f.code then fltConst ty f.code
    else if ty = 11 then widenLit f.lit.toNat
    else f.lit.toNat
  r % 2 ^ (if ty = 14 then 4 else tyWidth ty)

/-- A packed slot: a constant is rounded to the type and placed in both halves (R44). -/
def readPk (x : Ctx) (f : Fld) (ty l : Nat) : Nat :=
  if isVec f.code ∨ isScl f.code then (regWord x.g f.code 0 l).toNat
  else if isLit f.code then f.lit.toNat
  else let v := fltConst ty f.code; v + 2 ^ 16 * v

/-- A predicate operand field (R47). -/
def readP (x : Ctx) (f : Fld) (l : Nat) : Bool := xor (getP x.g (f.code.toNat % 8) l) (f.code.getLsbD 3)

/-- The uniform value of an operand, read once for the group. -/
def readU (s : State) (x : Ctx) (f : Fld) (w : Nat) (sg : Bool) : Nat := readInt s x f w sg 0
def readUN (s : State) (x : Ctx) (f : Fld) : Nat := readInt s x f 32 false 0

/-! ## Poisoned sources (R200, R315) -/

/-- A source of a word: the source number of the trap frame (0 A, 1 B, 2 C, 3 another), the register code and how
many registers it covers. -/
structure Src where
  which : Nat
  code : BitVec 8
  n : Nat
deriving DecidableEq, Repr

def srcOf (which : Nat) (f : Fld) (n : Nat) : Src := { which := which, code := f.code, n := n }

/-- The first poisoned slot of a source for a lane, as its operand code. -/
def srcPoison (g : Group) (l : Nat) (x : Src) : Option (BitVec 8) :=
  if isVec x.code ∨ isScl x.code then
    ((List.range x.n).find? (fun k => (wordAt g x.code k l).poison)).map (fun k => BitVec.ofNat 8 (x.code.toNat + k))
  else none

/-- The first poisoned source of a lane in the order A, B, C, others. -/
def lanePoison (g : Group) (srcs : List Src) (l : Nat) : Option (Nat × BitVec 8) :=
  match srcs with
  | [] => none
  | x :: r => match srcPoison g l x with
    | some c => some (x.which, c)
    | none => lanePoison g r l

/-- Lanes of `m` that would consume poison; helper lanes never trap (R116). -/
def poisonLanes (g : Group) (srcs : List Src) (m : LMask) : LMask :=
  maskOf (fun l => hasLane m l && hasLane g.counted l && (lanePoison g srcs l).isSome)

/-- SR_TRAPINFO of MEMORY_POISON (R315): the operand code and the source of the lowest lane. -/
def poisonInfo (g : Group) (srcs : List Src) (m : LMask) : Nat :=
  match (lowestLane m).bind (lanePoison g srcs) with
  | some (w, c) => c.toNat + 256 * w
  | none => 0

end Sys2Proof.Machine
end

