-- ==== Sys2Proof/Machine/Boxes.lean ====
section
/-! DEFINITION. The boxes of a tensor (R77, R256), and the addresses of global memory that a copy reaches next. -/
namespace Sys2Proof.Machine

/-- Element bits of a format. -/
def fmtBits (ty : Nat) : Nat := if ty = 14 then 4 else tyWidth ty

/-! ## Boxes (R77, R256) -/

/-- One part of a box byte: the source byte's address and whether the part is its upper half (elements of four bits);
none where the element lies outside the tensor. -/
structure BoxPart where
  va : Option Nat
  high : Bool

/-- Offsets of element number `i` along the dimensions of a box. -/
def boxOffsets : List Nat → Nat → List Nat
  | [], _ => []
  | b :: r, i => i % (b + 1) :: boxOffsets r (i / (b + 1))

/-- Coordinates of element number `i` of the box at `coord`. -/
def boxCoord (h : Shape) (coord : List Int) (i : Nat) : List Int :=
  (List.zip coord (boxOffsets h.box i)).map (fun (e : Int × Nat) => e.1 + (e.2 : Int))

def coordIn (h : Shape) (cs : List Int) : Bool := (List.zip cs h.size).all (fun (e : Int × Nat) => decide (0 ≤ e.1 ∧ e.1 < (e.2 : Int)))

/-- Bits of an element's address beyond BASE, in units of a bit, so that two elements can share a byte. -/
def elemBit (h : Shape) (cs : List Int) : Nat :=
  (cs.headD 0).toNat * fmtBits h.fmt + 8 * ((List.zip cs.tail h.stride.tail).foldl (fun a (e : Int × Nat) => a + e.1.toNat * e.2) 0)

/-- A part of a box: `k` bits into element `i`. -/
def boxPart (h : Shape) (coord : List Int) (i k : Nat) : BoxPart :=
  let cs := boxCoord h coord i
  if coordIn h cs then
    let b := elemBit h cs + k
    { va := some (h.base + b / 8), high := b % 8 != 0 }
  else { va := none, high := false }

/-- The parts of byte `o` of a box: one, or two of four bits. -/
def boxByte (h : Shape) (coord : List Int) (o : Nat) : List BoxPart :=
  let e := fmtBits h.fmt
  if e = 4 then [boxPart h coord (2 * o) 0, boxPart h coord (2 * o + 1) 0]
  else [boxPart h coord (8 * o / e) (8 * o % e)]

/-- The fill of an element outside the tensor, at byte `o` of the box. -/
def fillByte (h : Shape) (o : Nat) : Nat :=
  if h.fillNan && h.fmt != 14 then fNan h.fmt / 2 ^ (8 * o % fmtBits h.fmt) % 256 else 0

/-- Virtual addresses that the in-bounds elements span; none where no element lies in the tensor. -/
def boxSpan (h : Shape) (coord : List Int) : Option (Nat × Nat) :=
  let dims := List.zip coord (List.zip h.box h.size)
  let lo := dims.map (fun (e : Int × Nat × Nat) => max e.1 0)
  let hi := dims.map (fun (e : Int × Nat × Nat) => min (e.1 + (e.2.1 : Int)) ((e.2.2 : Int) - 1))
  if (List.zip lo hi).any (fun (e : Int × Int) => decide (e.2 < e.1)) then none
  else some (h.base + elemBit h lo / 8, h.base + (elemBit h hi + fmtBits h.fmt - 1) / 8)

/-! ## Where a copy stands -/

def isTileCopy (c : Copy) : Bool := c.kind == .cpyw || c.kind == .cpymTile

/-- The address of the attempt under way. -/
def tileAddr (c : Copy) : Option Nat := c.tiles.head?.bind (fun e => e.2.1.head?)

def copyOver (c : Copy) : Bool := if isTileCopy c then c.tiles.isEmpty else c.started && decide (c.total ≤ c.moved)

/-- Virtual addresses of global memory that the copy's next byte lies at. -/
def copyVas (c : Copy) : List Nat :=
  match c.kind with
  | .cpys => []
  | .cpyw | .cpymTile => (tileAddr c).toList.map (· + c.moved)
  | _ => (boxByte c.shape c.coord c.moved).filterMap BoxPart.va

/-- Physical addresses that the copy reaches next, while it moves and no fault holds it. -/
def copyGoal (s : State) (c : Copy) : List Nat :=
  if !c.started || copyOver c || c.waitPage.isSome then []
  else (copyVas c).filterMap (fun va => match (translate s c.die c.part va).1 with
    | some p => if p.peer.isSome then none else some p.pa
    | none => none)

end Sys2Proof.Machine
end

