-- ==== Sys2Proof/Machine/Stacks.lean ====
section
/-! DEFINITION. Where bytes of device memory lie in the stacks (R32, R268), and the stalls of repair windows (R199) and of rods
that hold a row open (R283), and stalls for an evacuation or a save (R199, R207, R351). -/
namespace Sys2Proof.Machine

/-- The groups of a logical core stand still for an evacuation (R351). -/
def evacPaused (s : State) (lcore : Nat) : Bool :=
  s.evacs.any (fun e => e.lcore == lcore && (e.phase == .paused || e.phase == .transferred))

/-- The class a workgroup's accesses travel in: its launch's, and 0 while the drain of its core's evacuation lasts (R350, R367). -/
def accClass (s : State) (wg : Nat) : Nat :=
  match findWg s wg with
  | none => 3
  | some w => if evacPaused s w.lcore then 0 else match findLaunch s w.launch with | some l => classOf l | none => 3

/-- The class of a launch's traffic (R367). -/
def launchClass (s : State) (id : Nat) : Nat := match findLaunch s id with | some l => classOf l | none => 3

/-- Unit of 1 GiB of a physical address, and whether some partition marks it near-bank (R32). -/
def unitOf (pa : Nat) : Nat := pa / 2 ^ 30
def isNb (s : State) (u : Nat) : Bool := s.parts.any (fun e => e.2.nbmap.getLsbD u)

/-- A place in a stack. -/
structure Place3 where
  stack : Nat
  pch : Nat
  bank : Nat
  row : Nat
deriving DecidableEq, Repr

/-- Where 1,024 bytes number `x` of unit `u` lie where the unit is near-bank (R32, R268): every row below the check rows of
R268 is home to one. -/
def rowHome (u x : Nat) : Place3 :=
  let p := x / 2048
  { stack := u / 60, pch := p % 64, bank := x % 16, row := 128 * (8 * (u % 60) + p / 64) + x / 16 % 128 }

/-- The unit and number of the bytes whose home is a row; none for a check row. -/
def homeOf (p : Place3) : Option (Nat × Nat) :=
  if p.row < 61440 then some (p.stack * 60 + p.row / 1024, (64 * (p.row / 128 % 8) + p.pch) * 2048 + p.row % 128 * 16 + p.bank) else none

/-- The units that are not near-bank, in order. -/
def spreadUnits (s : State) : List Nat := (List.range 720).filter (fun u => !isNb s u)

/-- A permutation of the numbers below `n`, read at any number. -/
def permAt {n : Nat} (f : Equiv.Perm (Fin n)) (i : Nat) : Nat := if h : i < n then (f ⟨i, h⟩).val else i

/-- Stack, pseudo-channel, bank and row of a physical address: of a near-bank unit its home (R32, R268); the other units share
their homes among them as the part chose, every row within one 64 KiB frame (R268, log 22). -/
def placeOf (s : State) (pa : Nat) : Place3 :=
  let u := unitOf pa
  if isNb s u then rowHome u (pa % 2 ^ 30 / 1024)
  else
    let us := spreadUnits s
    let f := pa / 65536
    let r := (us.takeWhile (· < u)).length * 2 ^ 20 + f % 16384 * 64 + permAt (Config.spreadSector f) (pa / 64 % 1024) / 16
    let k := permAt (Config.spreadRow (us.length * 2 ^ 20)) r
    rowHome (us.getD (k / 2 ^ 20) 0) (k % 2 ^ 20)

/-- The 64 KiB frame that has bytes in a row (R268, R288). -/
def frameOf (s : State) (p : Place3) : Option Nat :=
  match homeOf p with
  | none => none
  | some (u, x) =>
    if isNb s u then some ((u * 2 ^ 30 + x * 1024) / 65536 * 65536)
    else
      let us := spreadUnits s
      let r := permAt (Config.spreadRow (us.length * 2 ^ 20)).symm ((us.takeWhile (· < u)).length * 2 ^ 20 + x)
      some (us.getD (r / 2 ^ 20) 0 * 2 ^ 30 + r % 2 ^ 20 / 64 * 65536)

/-- A repair window covers a place: its row, the 4 KiB piece of its bank, or its channel of two pseudo-channels (R287). -/
def windowHits (r : Repair) (p : Place3) : Bool :=
  match r.kind with
  | 0 => r.pch == p.pch && r.bank == p.bank && r.row == p.row
  | 1 => r.pch == p.pch && r.bank == p.bank && r.row == p.row / 4
  | _ => r.pch == p.pch / 2

/-- A repair window covers the address (R199). -/
def windowPa (s : State) (pa : Nat) : Bool :=
  if s.stks.all (fun k => k.window.isNone) then false
  else
    let p := placeOf s pa
    match s.stks[p.stack]? with
    | some k => (match k.window with | some r => windowHits r p | none => false)
    | none => false

/-- A call holds a bank: its rod has a row open, or stands at a yield point, or between the window there and its next word (R283,
R374). -/
def rodOpen (c : Call) (p : Place3) : Bool :=
  c.st == .running && c.stack == p.stack && c.pch == p.pch && hasLane c.bmask p.bank
    && match c.rods[p.bank]? with | some r => r.row.isSome | none => false

/-- A yield window is over for accesses that are not of class 0: 8 served, or 320 ns passed (R283). -/
def yieldLimit (s : State) (w : Nat × Nat) : Bool := decide (8 ≤ w.1) || decide (560 ≤ now s - w.2)

/-- The repair copy that a stack makes next (R287). -/
def repairNext (k : StackSt) : Option Repair :=
  if k.window.isSome then none
  else match k.remap with
    | some e => some e.1
    | none => k.due.head?

/-- The repair copy waits for a rod of the call (R283). -/
def repairBlocked (c : Call) (r : Repair) : Bool := r.kind != 2 && rodOpen c { stack := c.stack, pch := r.pch, bank := r.bank, row := r.row }
def repairWaits (s : State) (c : Call) : Bool :=
  match s.stks[c.stack]? with
  | some k => (match repairNext k with | some r => repairBlocked c r | none => false)
  | none => false

/-- Physical addresses of accesses that a group could make now but for the rods: nothing earlier of it is held by a fault. -/
def groupGoals (g : Group) : List Nat :=
  if g.ops.any (fun o => o.accs.any (fun a => a.st == .unlogged || a.st == .logged || a.st == .resolved)) then []
  else g.ops.flatMap (fun o => o.accs.filterMap (fun a => if a.st == .todo then (match a.loc with | .global pa => some pa | _ => none) else none))

/-- Addresses that a due interval cut commits to. -/
def cutGoals (w : Workgroup) : List Nat :=
  match w.chk with
  | some c => if c.cutDue then c.buf.filterMap (fun e => match e.loc with | .global pa => some pa | _ => none) else []
  | none => []

/-- Physical addresses at which a call waits outside its page: its last stalled access, and DST writes that wait in the frame. -/
def callGoals (s : State) (c : Call) : List Nat :=
  c.waits ++ c.pend.filterMap (fun e => match (translate s c.die c.part e.1).1 with
    | some p => if p.peer.isSome then none else some p.pa
    | none => none)

/-- An address in each sector of a run of bytes. -/
def rangePas (pa n : Nat) : List Nat :=
  if n = 0 then [] else ((List.range (n / 64 + 2)).filter (fun i => decide (64 * i < n + 64))).map (fun i => pa + min (64 * i) (n - 1))

/-- Some 64-byte piece of a physical range stalls. -/
def rangeStalled (st : Nat → Bool) (pa n : Nat) : Bool := (rangePas pa n).any st

/-- The physical bytes that an access from outside reaches. -/
def outsideRange (i : Instr) (x : EvArg) : Option (Nat × Nat) :=
  match i with
  | .companionWrite => some (x.a, x.bytes.length)
  | .companionRead => some (x.a, x.b)
  | .peerAccess => match x.req with
    | .read pa n => some (pa, n)
    | .write pa bs => some (pa, bs.length)
    | .atomic _ w pa _ _ => some (pa, w)
  | _ => none

/-- Addresses that accesses from outside wait at. -/
def outsideGoals (s : State) (f : Nat → Bool) : List Nat :=
  s.inbox.flatMap (fun e => if f e.2.msg.cls.toNat then (match outsideRange e.1 e.2 with | some r => rangePas r.1 r.2 | none => []) else [])

/-- The die whose TLB the launch unit and the management core use (log 32). -/
def unitDie (s : State) (part : Nat) : Nat := match findPart s part with | some p => ((List.range 32).filter (fun d => p.dies.getLsbD d)).headD 0 | none => 0

/-- The next sectors of checkpoint streams, class-3 traffic (R365, R366). -/
def ckptGoals (s : State) (f : Nat → Bool) : List Nat :=
  if !f 3 then []
  else s.parts.filterMap (fun e => e.2.ckpt.bind (fun k => match (translate s (unitDie s e.1) e.1 (k.va + k.moved)).1 with
    | some p => if p.peer.isSome then none else some p.pa
    | none => none))

/-- Addresses of accesses of every class chosen by `f` that wait for memory; those of call `me` itself are not its own to wait for. -/
def goals (s : State) (me : Nat) (f : Nat → Bool) : List Nat :=
  s.wgs.flatMap (fun w => if f (accClass s w.id) then w.groups.flatMap groupGoals ++ cutGoals w else [])
    ++ s.copies.flatMap (fun k => if f (launchClass s k.launch) then copyGoal s k else [])
    ++ s.calls.flatMap (fun c => if c.id != me && f (launchClass s c.launch) then callGoals s c else [])
    ++ outsideGoals s f ++ ckptGoals s f

/-- Accesses of the classes chosen by `f` wait for a bank whose rod holds a row open, and for no repair window. -/
def rodWaiters (s : State) (c : Call) (f : Nat → Bool) : Bool :=
  (goals s c.id f).any (fun pa => rodOpen c (placeOf s pa) && !windowPa s pa)

/-- An ordinary access of a class waits for the yield point of a rod, or there for those of class 0 (R283). -/
def rodHolds (s : State) (cls pa : Nat) : Bool :=
  if s.calls.all (fun c => c.st != .running) then false
  else
    let p := placeOf s pa
    s.calls.any (fun c => rodOpen c p && match c.yld with
      | none => true
      | some w => cls != 0 && (yieldLimit s w || rodWaiters s c (· == 0)))

/-- An access of a class to the address stalls (R199, R283). -/
def stalledFor (s : State) (cls pa : Nat) : Bool := windowPa s pa || rodHolds s cls pa

/-- The workgroup is in the save reserve. -/
def isSaved (w : Workgroup) : Bool := match w.place with | .saved _ _ => true | _ => false

/-- A piece of workgroup `wg` at another's window waits while that workgroup is saved, but for a team-mate's that is being saved too,
whose pieces end in the image (R322); and while the other's core is evacuated, and once it has moved, until both have resumed. The
moved groups' own accesses end at the source (R207, R350, R351, R358, log 23). -/
def windowShut (s : State) (wg tgt : Nat) : Bool :=
  match findWg s tgt, findWg s wg with
  | none, _ => false
  | some t, none => isSaved t || evacPaused s t.lcore
  | some t, some w =>
    (isSaved t && w.place != .saving)
      || (w.lcore != t.lcore && (evacPaused s t.lcore || (evacPaused s w.lcore && s.evacs.any (fun e => e.lcore == t.lcore && e.phase == .committed))))

/-- A piece of workgroup `wg` waits: for a repair window, a rod, or a window that is shut (R199, R283). -/
def stalledAt (s : State) (wg : Nat) (l : Loc) : Bool :=
  match l with
  | .global pa => stalledFor s (accClass s wg) pa
  | .canvas t _ => windowShut s wg t
  | .peer _ _ => false

/-- Something that must be performed with an operation of the group stalls (R199, R207). -/
def opStalled (s : State) (wg : Nat) (g : Group) (id : Nat) : Bool :=
  g.ops.any (fun o => decide (o.id ≤ id) && o.accs.any (fun a => a.st == .todo && stalledAt s wg a.loc))

/-- Sectors among the addresses that lie under an open row of a call. -/
def yieldCount (s : State) (c : Call) (pas : List Nat) : Nat :=
  (dedupNat ((pas.filter (fun pa => rodOpen c (placeOf s pa))).map (· / 64))).length

/-- The open yield windows have room for accesses of a class to these addresses (R283). -/
def yieldRoom (s : State) (cls : Nat) (pas : List Nat) : Bool :=
  if cls = 0 || s.calls.all (fun c => c.yld.isNone) then true
  else s.calls.all (fun c => match c.yld with
    | some w => let n := yieldCount s c pas
      n == 0 || decide (w.1 + n ≤ 8)
    | none => true)

/-- The yield windows that hold the addresses have served them, an access for each sector (R283). -/
def yieldServe (s : State) (pas : List Nat) : State :=
  if s.calls.all (fun c => c.yld.isNone) then s
  else { s with calls := s.calls.map (fun c => match c.yld with
    | some w => { c with yld := some (w.1 + yieldCount s c pas, w.2) }
    | none => c) }

/-! ## What the decoders find (R284, R287) -/

def modStack (s : State) (i : Nat) (f : StackSt → StackSt) : State := { s with stks := modifyAt s.stks i f }

/-- A repair becomes due, once. -/
def addDue (r : Repair) (k : StackSt) : StackSt :=
  if k.due.contains r || k.window == some r || (match k.remap with | some e => e.1 == r | none => false) then k else { k with due := k.due ++ [r] }

/-- A row repair is due for a row. -/
def rowDue (pch bank row : Nat) (k : StackSt) : StackSt :=
  addDue { kind := 0, pch := pch, bank := bank, row := row }
    { k with corr := k.corr.filter (fun (e : Nat × Nat × Nat) => !(e.1 == pch * 16 + bank && e.2.1 == row)) }

/-- A corrected sector in a row: the fourth within 2^24 clk makes its repair due. -/
def countSector (t : Nat) (p : Place3) (k : StackSt) : StackSt :=
  let c := ((p.pch * 16 + p.bank, p.row, t) :: k.corr).filter (fun (e : Nat × Nat × Nat) => decide (t - e.2.2 < 2 ^ 24))
  if 4 ≤ (c.filter (fun (e : Nat × Nat × Nat) => e.1 == p.pch * 16 + p.bank && e.2.1 == p.row)).length then rowDue p.pch p.bank p.row { k with corr := c }
  else { k with corr := c }

/-- A row of a stack, named among all its rows. -/
def rowKey (p : Place3) : Nat := (p.pch * 16 + p.bank) * 65536 + p.row

/-- Corrected bytes on a TSV lane of a channel: the eighth distinct row within 2^24 clk makes its swap due. -/
def countLane (t : Nat) (p : Place3) (lane : Nat) (k : StackSt) : StackSt :=
  let ch := p.pch / 2
  let c := ((ch, lane, rowKey p, t) :: k.lanes).filter (fun (e : Nat × Nat × Nat × Nat) => decide (t - e.2.2.2 < 2 ^ 24))
  let same := fun (e : Nat × Nat × Nat × Nat) => e.1 == ch && e.2.1 == lane
  if 8 ≤ (dedupNat ((c.filter same).map (fun e => e.2.2.1))).length then
    addDue { kind := 2, pch := ch, bank := 0, row := lane } { k with lanes := c.filter (fun e => !same e) }
  else { k with lanes := c }

end Sys2Proof.Machine
end

