-- ==== Sys2Proof/Machine/MemOps.lean ====
section
/-! DEFINITION. Memory accesses of groups: buffer records and elements (R74, R75, R187), pieces (R192), places
of bytes, atomic operations (R208), the interval store buffer (R201), performing pieces in T (R292), delivery to
registers (R192), faults and their replay (R195-R197), range locks (R252-R255). -/
namespace Sys2Proof.Machine

/-! ## Buffer records (R74, R75) -/

def recBase (r : BitVec 128) : Nat := bitsOf r.toNat 56 0
def recEsz (r : BitVec 128) : Nat := bitsOf r.toNat 59 57
def recSwz (r : BitVec 128) : Nat := bitsOf r.toNat 63 60
def recExtent (r : BitVec 128) : Nat := bitsOf r.toNat 95 64
def recE (r : BitVec 128) : Nat := 2 ^ recEsz r
/-- Bytes between elements: STRIDE, or the element size. -/
def recStride (r : BitVec 128) : Nat := let s := bitsOf r.toNat 115 96; if s = 0 then recE r else s
def recOobt (r : BitVec 128) : Bool := bitOf r.toNat 120
def recRdonly (r : BitVec 128) : Bool := bitOf r.toNat 121
/-- blimit of R187. -/
def recLimit (r : BitVec 128) : Nat := if recExtent r = 0 then 0 else (recExtent r - 1) * recStride r + recE r

/-- A malformed record (R74); a BASE or STRIDE that is no multiple of the element size too (log 120). -/
def recBad (r : BitVec 128) : Bool :=
  let x := r.toNat
  bitsOf x 127 124 != 0 || bitOf x 122 || bitsOf x 119 116 != 0 || decide (4 ≤ recSwz r) || decide (5 ≤ recEsz r)
    || recBase r % recE r != 0 || bitsOf x 115 96 % recE r != 0
    || (recExtent r != 0 && decide (2 ^ 57 ≤ recBase r + (recExtent r - 1) * recStride r + recE r - 1))

/-- The swizzle of R75. -/
def swz (o k : Nat) : Nat := if k = 0 then o else Nat.xor o (o / 128 % 2 ^ k * 16)

/-! ## Pieces (R192) -/

/-- Bytes (offset in the value, address) joined into single-copy-atomic pieces: offset, length, address. -/
def groupPieces : List (Nat × Nat) → List (Nat × Nat × Nat)
  | [] => []
  | (o, a) :: r =>
    match groupPieces r with
    | (o', n, a') :: t => if o' = o + 1 ∧ a' = a + 1 ∧ a' / 16 = a / 16 then (o, n + 1, a) :: t else (o, 1, a) :: (o', n, a') :: t
    | [] => [(o, 1, a)]

/-- Element numbers that an access of `w` bytes at element `i` reaches (R187). -/
def elemsOf (r : BitVec 128) (i : Int) (w : Nat) : List Int :=
  if w ≤ recE r then [i] else (List.range (w / recE r)).map (fun (k : Nat) => i + (k : Int))

def elemIn (r : BitVec 128) (i : Int) : Bool := decide (0 ≤ i ∧ i < (recExtent r : Int))

/-- Bytes of the in-bounds elements: offset in the value and virtual address. -/
def elemBytes (r : BitVec 128) (i : Int) (w : Nat) : List (Nat × Nat) :=
  let n := min w (recE r)
  let es := elemsOf r i w
  (List.range es.length).flatMap (fun (k : Nat) =>
    let e := i + (k : Int)
    if elemIn r e then (List.range n).map (fun (j : Nat) => (k * recE r + j, recBase r + swz (e.toNat * recStride r + j) (recSwz r))) else [])

/-- Bytes of an access by byte offset, in bounds or none (R187). -/
def offIn (r : BitVec 128) (o : Int) (w : Nat) : Bool := decide (0 ≤ o ∧ o + (w : Int) ≤ (recLimit r : Int))
def offBytes (r : BitVec 128) (o : Int) (w : Nat) : List (Nat × Nat) :=
  if offIn r o w then (List.range w).map (fun j => (j, recBase r + swz (o.toNat + j) (recSwz r))) else []

/-! ## Bytes at a place -/

/-- Storage bank of a window byte, and the byte's place in it (R221). -/
def bankByte (ns boff : Nat) : Nat × Nat := (boff / 4 % ns, boff / (4 * ns) * 4 + boff % 4)

/-- The 8-byte ECC word of a window byte: its bank, and which 8 bytes of it (R234). -/
def eccWord (ns boff : Nat) : Nat × Nat := ((bankByte ns boff).1, (bankByte ns boff).2 / 8)

/-- Window bytes of the ECC word of a byte, two words of the window 4 × nS apart (R221, R234). -/
def eccBytes (ns boff : Nat) : List Nat :=
  let b := bankByte ns boff
  (List.range 8).map (fun i => let o := b.2 / 8 * 8 + i; (o / 4 * ns + b.1) * 4 + o % 4)

/-- Poison of a canvas byte: that of its ECC word (R234). -/
def winBad (w : Workgroup) (boff : Nat) : Bool := w.winPoison.any (fun e => eccWord w.ns e.1 == eccWord w.ns boff)

def winRead (w : Workgroup) (boff n : Nat) : List (Byte × Bool) :=
  (List.range n).map (fun i => (smGet w.win (boff + i) 0, winBad w (boff + i)))

/-- Poison of the window after a write: a word none of whose bytes is poisoned any longer is clean (log 39). -/
def winClean (p : SMap Bool) (boff n : Nat) : SMap Bool := p.filter (fun e => !(decide (boff ≤ e.1) && decide (e.1 < boff + n)))

/-- A write of canvas bytes. -/
def winWrite (w : Workgroup) (boff : Nat) (bs : List Byte) : Workgroup :=
  if bs = [] then w
  else { w with win := smPutList w.win boff bs 0, winPoison := winClean w.winPoison boff bs.length }

/-- A write of canvas bytes that carry poison (R260). -/
def winWriteP (w : Workgroup) (boff : Nat) (bs : List (Byte × Bool)) : Workgroup :=
  let w1 := winWrite w boff (bs.map Prod.fst)
  { w1 with winPoison := (List.range bs.length).foldl (fun m i =>
      match bs[i]? with
      | some (_, true) => smPut m (boff + i) true false
      | _ => m) w1.winPoison }

def locRead (s : State) (l : Loc) (n : Nat) : List (Byte × Bool) :=
  match l with
  | .global pa => memRead s pa n
  | .canvas wg boff => match findWg s wg with
    | some w => winRead w boff n
    | none => List.replicate n (0, false)
  | .peer _ _ => List.replicate n (0, false)

def locWrite (s : State) (l : Loc) (bs : List Byte) : State :=
  match l with
  | .global pa => memWrite s pa bs
  | .canvas wg boff => modWg s wg (fun w => winWrite w boff bs)
  | .peer _ _ => s

def isPeer (l : Loc) : Bool := match l with | .peer _ _ => true | _ => false
def isGlobal (l : Loc) : Bool := match l with | .canvas _ _ => false | _ => true

/-- Where byte `k` of a piece lies. -/
def locAdd (l : Loc) (k : Nat) : Loc :=
  match l with
  | .global pa => .global (pa + k)
  | .canvas wg b => .canvas wg (b + k)
  | .peer p pa => .peer p (pa + k)

/-- Offset of place `b` from place `a`, where both lie in one storage. -/
def locDiff (a b : Loc) : Option Int :=
  match a, b with
  | .global x, .global y => some ((y : Int) - x)
  | .canvas w x, .canvas v y => if w = v then some ((y : Int) - x) else none
  | .peer p x, .peer q y => if p = q then some ((y : Int) - x) else none
  | _, _ => none

/-! ## Atomic operations (R208) -/

/-- Floating-point type of an atomic of `w` bytes (R52). -/
def aopTy (aop w : Nat) : Nat := if aop = 13 then 9 else match w with | 2 => 8 | 4 => 10 | _ => 11

/-- op(old, d) on `w` bytes; `cmp` is the compare value of .cas. -/
def atomOp (aop w old d cmp : Nat) : Nat :=
  let b := 8 * w
  let sv := fun (x : Nat) => toSigned b x
  match aop with
  | 0 => (old + d) % 2 ^ b
  | 1 => if sv d < sv old then d else old
  | 2 => if sv old < sv d then d else old
  | 3 => min old d
  | 4 => max old d
  | 5 => Nat.land old d
  | 6 => Nat.lor old d
  | 7 => Nat.xor old d
  | 8 => d
  | 9 => if old = cmp then d else old
  | 10 | 13 => addRne (aopTy aop w) old d
  | 11 => (fMinMax (aopTy aop w) false false (fDecode (aopTy aop w) old) (fDecode (aopTy aop w) d)).bits
  | 12 => (fMinMax (aopTy aop w) false true (fDecode (aopTy aop w) old) (fDecode (aopTy aop w) d)).bits
  | _ => old

/-- An atomic piece's data: its operand, then the compare value of .cas. -/
def atomNew (aop w : Nat) (old data : List Byte) : List Byte :=
  natToBytes w (atomOp aop w (bytesToNat old) (bytesToNat (data.take w)) (bytesToNat (data.drop w)))

/-! ## The interval store buffer (R201, R330) -/

/-- A buffered entry laid over bytes read at a place. -/
def overlayOne (l : Loc) (bs : List (Byte × Bool)) (e : BufEntry) : List (Byte × Bool) :=
  let n := (e.bytes.length : Int)
  match locDiff l e.loc with
  | none => bs
  | some d =>
    match e.aop with
    | none => (List.range bs.length).map (fun (i : Nat) =>
        let k := (i : Int) - d
        if 0 ≤ k ∧ k < n then (e.bytes.getD k.toNat 0, false) else bs.getD i (0, false))
    | some op =>
      let w := e.bytes.length
      let old := (bs.drop d.toNat).take w
      if 0 ≤ d ∧ d + w ≤ bs.length ∧ !anyBad old then
        let new := atomNew op w (old.map Prod.fst) e.bytes
        bs.take d.toNat ++ new.map (fun b => (b, false)) ++ bs.drop (d.toNat + w)
      else bs

/-- The open interval's buffer of a CHECKED workgroup; empty for another. -/
def bufOf (s : State) (wg : Nat) : List BufEntry :=
  match (findWg s wg).bind (fun w => w.chk) with
  | some c => c.buf
  | none => []

/-- The aligned 16-byte chunk in which a place lies, and the place's offset in it. -/
def chunkOf (l : Loc) : Loc × Nat :=
  match l with
  | .global pa => (.global (pa / 16 * 16), pa % 16)
  | .canvas wg b => (.canvas wg (b / 16 * 16), b % 16)
  | .peer p pa => (.peer p (pa / 16 * 16), pa % 16)

/-- What a load of a workgroup returns (R201): the buffered operations are laid over whole chunks, so that a load of a part of
what an atomic wrote returns that part. -/
def loadBytes (s : State) (wg : Nat) (l : Loc) (n : Nat) : List (Byte × Bool) :=
  let buf := bufOf s wg
  if buf.isEmpty then locRead s l n
  else
    let c := chunkOf l
    ((buf.foldl (overlayOne c.1) (locRead s c.1 ((c.2 + n + 15) / 16 * 16))).drop c.2).take n

/-- An operation whose accesses enter the buffer: a store, ATOMN or RED of the open interval to global memory (R201). -/
def entersBuf (mark : Nat) (o : Op) : Bool := decide (mark ≤ o.id) && !o.ret && (o.kind == .store || o.kind == .atom || o.kind == .red)

/-- Entries of the buffer that a workgroup's words take, with those of more store pieces `st` and `at'` more atomic lanes:
one for each virtual sector stored to, one for each atomic lane (R330). -/
def bufUse (w : Workgroup) (mark : Nat) (st : List Nat) (at' : Nat) : Nat :=
  let ops := (w.groups.flatMap (fun g => g.ops)).filter (entersBuf mark)
  let accs := fun (o : Op) => o.accs.filter (fun a => match a.loc with | .canvas _ _ => false | _ => a.st != .done)
  let sectors := (ops.filter (fun o => o.kind == .store)).flatMap (fun o => (accs o).map (fun a => a.va / 64))
  (dedupNat (sectors ++ st)).length + ((ops.filter (fun o => o.kind != .store)).map (fun o => (accs o).length)).foldl (· + ·) 0 + at'

/-! ## Undo of predicted writes (R123) -/

/-- An old value is noted for a quad under a prediction or a replay. An operation issued before the branch writes
what the branch would find, so it changes the value to go back to. -/
def noteQuad (k : UndoKey) (same : UndoKey → Bool) (upd : UndoKey → UndoKey) (id : Nat) (q : Quad) : Quad :=
  let patch := fun (u : List UndoKey) =>
    match (u.reverse).find? same with
    | none => u
    | some _ =>
      -- the oldest entry of the slot is the last of the list
      (u.foldr (fun e (acc : List UndoKey × Bool) => if !acc.2 && same e then (upd e :: acc.1, true) else (e :: acc.1, acc.2)) ([], false)).1
  match q.pred, q.replay with
  | some p, _ => { q with pred := some { p with undo := if p.mark ≤ id then k :: p.undo else patch p.undo } }
  | none, some r => { q with replay := some { r with undo := if r.mark ≤ id then k :: r.undo else patch r.undo } }
  | none, none => q

/-- A write of a vector slot by operation `id`, noted for its quad. -/
def writeV (g : Group) (id n l : Nat) (x : Slot) : Group :=
  let k := UndoKey.v n l (getV g n l)
  let same := fun (e : UndoKey) => match e with | .v n' l' _ => n' == n && l' == l | _ => false
  let upd := fun (_ : UndoKey) => UndoKey.v n l x
  putVSlot (modQuads g (quadBit (l / 4)) (noteQuad k same upd id)) n l x

/-- A write of a predicate by operation `id`, noted for its quad. -/
def writeP (g : Group) (id n l : Nat) (b : Bool) : Group :=
  let k := UndoKey.p n l (getP g n l)
  let same := fun (e : UndoKey) => match e with | .p n' l' _ => n' == n && l' == l | _ => false
  let upd := fun (_ : UndoKey) => UndoKey.p n l b
  putP (modQuads g (quadBit (l / 4)) (noteQuad k same upd id)) n l b

/-- The results of one lane of a lane word, noted. -/
def writeOut (id : Nat) (g : Group) (o : LaneOut) : Group :=
  let g1 := o.v.foldl (fun g e => writeV g id e.1 o.lane { val := e.2, poison := o.bad.contains e.1 }) g
  o.p.foldl (fun g e => writeP g id e.1 o.lane e.2) g1

/-! ## Performing pieces (R292) -/

def modOp (s : State) (wg grp id : Nat) (f : Op → Op) : State :=
  modGrp s wg grp (fun g => { g with ops := g.ops.map (fun o => if o.id = id then f o else o) })
def findOp (s : State) (wg grp id : Nat) : Option Op := (findGrp s wg grp).bind (fun g => g.ops.find? (fun o => o.id == id))

/-- First writes of an interval to a row of the workgroup's own window are logged (R331). -/
def logRow (w : Workgroup) (boff n : Nat) : Workgroup :=
  match w.chk with
  | none => w
  | some c =>
    let row := boff / 512
    let words := dedupNat ((List.range n).map (fun i => (boff + i) / 4))
    let old := smGetList w.win (512 * row) 512 0
    let bad := (List.range 512).filter (fun i => smGet w.winPoison (512 * row + i) false)
    let log := if c.stLog.any (fun e => e.row == row)
      then c.stLog.map (fun e => if e.row = row then { e with words := dedupNat (words ++ e.words) } else e)
      else c.stLog ++ [{ row := row, words := words, bytes := old, bad := bad }]
    { w with chk := some { c with stLog := log, cutDue := c.cutDue || decide (90 < log.length) } }

/-- A canvas write by workgroup `wg`, logged when it is its own window's. -/
def canvasWrite (s : State) (wg : Nat) (l : Loc) (bs : List Byte) : State :=
  match l with
  | .canvas t b => locWrite (if t = wg then modWg s wg (fun w => logRow w b bs.length) else s) l bs
  | _ => locWrite s l bs

/-- Does a workgroup buffer its global stores? -/
def buffers (s : State) (wg : Nat) : Bool := ((findWg s wg).bind (fun w => w.chk)).isSome

/-- An entry takes its place in the buffer: behind the entries of its word and of words issued before it (R299). -/
def bufPut (e : BufEntry) : List BufEntry → List BufEntry
  | [] => [e]
  | x :: r => if e.id < x.id then e :: x :: r else x :: bufPut e r

def bufAdd (s : State) (wg : Nat) (e : BufEntry) : State :=
  modWg s wg (fun w => { w with chk := w.chk.map (fun c => { c with buf := bufPut e c.buf }) })

/-- The piece goes to the interval's buffer (R201). -/
def buffered (s : State) (wg : Nat) (o : Op) (a : Acc) : Bool :=
  buffers s wg && isGlobal a.loc && !o.ret && (o.kind == .store || o.kind == .atom || o.kind == .red)

/-- One piece of an operation is performed; the piece with what it read. -/
def performAcc (s : State) (wg grp : Nat) (o : Op) (a : Acc) : State × Acc :=
  if buffered s wg o a then
    (bufAdd s wg { id := o.id, grp := grp, va := a.va, loc := a.loc, bytes := a.data, aop := if o.kind = .store then none else some o.aop },
     { a with st := .performed })
  else
    match o.kind with
    | .load => (s, { a with got := loadBytes s wg a.loc a.len, st := .performed })
    | .store => (canvasWrite s wg a.loc a.data, { a with st := .done })
    | .atom | .red =>
      let old := locRead s a.loc a.len
      let s1 := if anyBad old then s else canvasWrite s wg a.loc (atomNew o.aop a.len (old.map Prod.fst) a.data)
      (s1, { a with got := old, st := if o.ret then .performed else .done })
    | .laneWord | .crd | .wait => (s, a)

/-- The piece is performed at a peer package (R298); one that the interval's buffer takes is not. -/
def atPeer (s : State) (wg : Nat) (o : Op) (a : Acc) : Bool := isPeer a.loc && !buffered s wg o a

/-- Physical addresses of the pieces of an operation chosen by `f` that memory performs now; an unbroken sequence of R208 counts as one
access (log 122). -/
def reachPas (f : Nat → Op → Acc → Bool) (s : State) (wg : Nat) (o : Op) : List Nat :=
  let pas := (List.range o.accs.length).filterMap (fun i => match o.accs[i]? with
    | some a => if f i o a && a.st == .todo && !buffered s wg o a then (match a.loc with | .global pa => some pa | _ => none) else none
    | none => none)
  if o.kind == .atom || o.kind == .red then pas.take 1 else pas

/-- The pieces of an operation chosen by `f` are performed in lane order. -/
def performWhere (f : Nat → Op → Acc → Bool) (s0 : State) (wg grp id : Nat) : State :=
  match findOp s0 wg grp id with
  | none => s0
  | some o =>
    let s := yieldServe s0 (reachPas f s0 wg o)
    let r := (List.range o.accs.length).foldl (fun (acc : State × List Acc) i =>
      match o.accs[i]? with
      | none => acc
      | some a =>
        if f i o a && a.st == .todo then
          let x := performAcc acc.1 wg grp o a
          (x.1, acc.2 ++ [x.2])
        else (acc.1, acc.2 ++ [a])) (s, [])
    modOp r.1 wg grp id (fun o => { o with accs := r.2 })

/-- How many pieces of an operation must be performed for the lanes of `n` to have theirs: pieces stand in T in
lane order, and a sequence of R208 is unbroken. Peer pieces are in no order with these (R298). -/
def prefixFor (o : Op) (n : LMask) : Nat :=
  let hit := (List.range o.accs.length).filter (fun i => match o.accs[i]? with
    | some a => a.st == .todo && (o.scalar || hasLane n a.lane) && !isPeer a.loc
    | none => false)
  match hit.reverse with
  | [] => 0
  | i :: _ => if o.kind == .atom then o.accs.length else i + 1

/-- Lanes that the first `k` pieces are accesses of; a scalar load is one of every lane of its ACTIVE (R293). -/
def prefixLanes (o : Op) (k : Nat) : LMask := if o.scalar then (if k = 0 then 0 else o.lanes) else (o.accs.take k).foldl (fun m a => m ||| laneBit a.lane) 0

/-- The operation is none of the lanes' accesses. -/
def apartFrom (o : Op) (n : LMask) : Bool := o.scalar && o.lanes &&& n == 0

/-- The earlier operations that must be performed first, newest first in, oldest first out; no RED, whose flag falls before it is
performed (R209, log 139). -/
def closureGo : List Op → LMask → List (Nat × Nat)
  | [], _ => []
  | o :: r, n =>
    if o.kind == .red || o.kind == .laneWord || o.kind == .crd || o.kind == .wait || apartFrom o n then closureGo r n
    else
      let k := prefixFor o n
      closureGo r (n ||| prefixLanes o k) ++ (if k = 0 then [] else [(o.id, k)])

/-- The open yield windows have room for every access that waits for memory of the group's operations chosen by `f` (R283). -/
def opsRoom (s : State) (wg : Nat) (g : Group) (f : Op → Bool) : Bool :=
  if s.calls.all (fun c => c.yld.isNone) then true
  else yieldRoom s (accClass s wg) ((g.ops.filter f).flatMap (fun o => reachPas (fun _ _ _ => true) s wg o))

/-- What a word needs performed before it, or with it, has to wait (R199, R207, R283). -/
def prevStalled (s : State) (wg : Nat) (g : Group) (id : Nat) : Bool := opStalled s wg g id || !opsRoom s wg g (fun o => decide (o.id < id))

/-- Every earlier access of the lanes of `n` is performed (R292, R293). -/
def performBefore (s : State) (wg grp id : Nat) (n : LMask) : State :=
  match findGrp s wg grp with
  | none => s
  | some g =>
    let before := (g.ops.takeWhile (fun o => o.id != id)).reverse
    (closureGo before n).foldl (fun s e => performWhere (fun i o a => decide (i < e.2) && !atPeer s wg o a) s wg grp e.1) s

/-- The same for a group of the machine. -/
def finishOps (s : State) (wg grp : Nat) : State := modGrp s wg grp finishGrp

/-- The first `k` pieces of an operation are performed, after what must precede them. -/
def performTo (s : State) (wg grp id k : Nat) : State :=
  match findOp s wg grp id with
  | none => s
  | some o =>
    let n := if o.kind == .red then (0xFFFF : LMask) else prefixLanes o k
    let s1 := performBefore s wg grp id n
    finishOps (performWhere (fun i o a => decide (i < k) && !atPeer s1 wg o a) s1 wg grp id) wg grp

def performAll (s : State) (wg grp id : Nat) : State :=
  match findOp s wg grp id with
  | none => s
  | some o => performTo s wg grp id o.accs.length

/-! ## Delivery to registers (R192, R200) -/

/-- Registers of a value of `w` bytes. -/
def slotsOf (w : Nat) : Nat := if w ≤ 4 then 1 else w / 4

/-- Pieces of a lane that bring bytes of slot `k`. -/
def slotAccs (o : Op) (l k : Nat) : List Acc :=
  o.accs.filter (fun a => a.lane == l && decide (a.off < 4 * k + 4) && decide (4 * k < a.off + a.len))

/-- The bytes of a slot: what its pieces brought, zero where no element lies. -/
def slotBytes (o : Op) (l k : Nat) : List (Byte × Bool) :=
  let as := slotAccs o l k
  (List.range (min 4 o.width)).map (fun i =>
    match as.find? (fun a => decide (a.off ≤ 4 * k + i) && decide (4 * k + i < a.off + a.len)) with
    | some a => a.got.getD (4 * k + i - a.off) (0, false)
    | none => (0, false))

/-- Lanes whose pieces bring the destination: of a scalar load, the one lane that stands for all. -/
def slotLanes (o : Op) : List Nat := if o.scalar then (match lowestLane o.lanes with | some l => [l] | none => []) else lanesOf o.lanes

/-- The 32 bits of a loaded slot (R204). -/
def slotValue (o : Op) (bs : List (Byte × Bool)) : Word :=
  let x := bytesToNat (bs.map Prod.fst)
  if o.width < 4 ∧ o.sx then wordOfInt (toSigned (8 * o.width) x) else wordOf x

/-- A change by operation `id`: one issued before the open interval reaches its snapshot too (R329). -/
def modSince (s : State) (wg grp id : Nat) (f : Group → Group) : State :=
  modWg s wg (fun w => { w with groups := modifyAt w.groups grp f,
                                chk := w.chk.map (fun c => if id < c.mark then { c with snap := modifyAt c.snap grp f } else c) })

/-- A destination slot of an operation is written; poison leaves it a free value (log 12). -/
def writeDst (s : State) (wg grp : Nat) (o : Op) (l k : Nat) : State :=
  let bs := slotBytes o l k
  let (x, s1) := if anyBad bs then (let r := freshWord s; (({ val := r.1, poison := true } : Slot), r.2))
    else (({ val := slotValue o bs, poison := false } : Slot), s)
  modSince s1 wg grp o.id (fun g => if o.scalar then putSSlot g (o.dst + k) x else writeV g o.id (o.dst + k) l x)

/-- The performed pieces chosen by `f` reach the core: slots that now have all their bytes are written. -/
def deliverWhere (f : Acc → Bool) (s : State) (wg grp id : Nat) : State :=
  match findOp s wg grp id with
  | none => s
  | some o =>
    let new := fun (a : Acc) => a.st == .performed && f a
    let o1 := { o with accs := o.accs.map (fun a => if new a then { a with st := .done } else a) }
    let slots := (slotLanes o).flatMap (fun l => (List.range (slotsOf o.width)).map (fun k => (l, k))) |>.filter (fun e => !o.skip.contains e)
    let ready := slots.filter (fun e => (slotAccs o e.1 e.2).any new && (slotAccs o1 e.1 e.2).all (fun a => a.st == .done))
    let s1 := ready.foldl (fun s e => writeDst s wg grp o1 e.1 e.2) s
    modGrp (finishOps (modOp s1 wg grp id (fun _ => o1)) wg grp) wg grp (fun g => if g.split.isSome then settle g else g)

/-! ## Sectors (R192) -/

/-- Sector number of a piece: 64 bytes of physical memory, of the window, or of the peer's memory. -/
def sectorOf (a : Acc) : Nat :=
  match a.loc with
  | .global pa => pa / 64
  | .canvas _ b => b / 64
  | .peer _ pa => pa / 64

/-! ## Range locks (R252-R255) -/

/-- A lock that a thread access to `n` bytes at a place conflicts with (R254). -/
def lockHit (s : State) (tag : Nat) (die : Nat) (sp : LockSpace) (a n : Nat) (write : Bool) : Option Lock :=
  s.locks.find? (fun k => k.die == die && k.launch == tag && k.space == sp && (k.write || write)
    && decide (a ≤ k.hi) && decide (k.lo ≤ a + n - 1))

/-! ## Requests outstanding at a core (R191) -/

def opLines (o : Op) : Nat :=
  (dedupNat ((o.accs.filter (fun a => isGlobal a.loc && (a.st == .todo || a.st == .performed || a.st == .unlogged))).map (fun a => a.va / 128))).length

/-- Outstanding requests of the groups that stand on a physical core. -/
def coreRequests (s : State) (pc : Nat) : Nat :=
  (s.wgs.filter (fun w => (w.place == .live || w.place == .saving) && physCore s w.lcore == pc)).foldl
    (fun n w => w.groups.foldl (fun n g => g.ops.foldl (fun n o => n + opLines o) n) n) 0

/-! ## Translation faults (R195-R197) -/

/-- A piece that a fault holds: it waits for the operand log, for the reply, or for its replay (R195). -/
def heldAcc (a : Acc) : Bool := a.st == .unlogged || a.st == .logged || a.st == .resolved

/-- The group holds later words that touch memory or canvas STORE: lines of it are faulted, or a word of it waits for a record
whose page faulted (R195 step 3). -/
def heldByFault (g : Group) : Bool := g.ops.any (fun o => o.kind == .wait || o.accs.any heldAcc)

/-- Some of the operations leaves an access of the lanes to a peer still to be performed; where a faulted piece lies is not known
(R298). -/
def peerAhead (ops : List Op) (lanes : LMask) (k : Nat) : Bool :=
  ops.any (fun p => p.accs.any (fun b =>
    (b.st == .todo || heldAcc b) && (if p.scalar then p.lanes &&& lanes != 0 else hasLane lanes b.lane)
      && match b.loc with | .peer j _ => j == k | _ => heldAcc b))

/-- Write access of an operation. -/
def opWrites (o : Op) : Bool := o.kind != .load

/-- Entries of an operation in its die's operand log, one for each faulted line (R195), and one for a record that a word waits for. -/
def opEntries (o : Op) : List Nat := if o.kind == .wait then [0] else dedupNat ((o.accs.filter (fun a => a.st == .logged || a.st == .resolved)).map (fun a => a.va / 128))

/-- Entries of a die's operand log, of 512 (R13): of accesses, of calls' DST and CST writes, and of their acceptance. -/
def logUse (s : State) (die : Nat) : Nat :=
  s.wgs.foldl (fun n w => w.groups.foldl (fun n g => g.ops.foldl (fun n o => if o.die = die then n + (opEntries o).length else n) n) n) 0
    + s.calls.foldl (fun n c => if c.die = die then n + (dedupNat (c.logged.map (fun e => e.1 / 128))).length + (if c.waitPage.isSome then 1 else 0) else n) 0
def logSize : Nat := 512
def logFull (s : State) (die : Nat) : Bool := decide (logSize ≤ logUse s die)

/-- A faulted line of an operation enters the log if it has room, and its fault goes to the handler (R195). -/
def logLine (part tag wg grp id line : Nat) (s : State) : State :=
  match findOp s wg grp id with
  | none => s
  | some o =>
    let mine := fun (a : Acc) => a.st == .unlogged && a.va / 128 == line
    if !o.accs.any mine || (!(opEntries o).contains line && logFull s o.die) then s
    else
      let s1 := modOp s wg grp id (fun o => { o with accs := o.accs.map (fun a => if mine a then { a with st := .logged } else a) })
      raiseFault s1 part (match o.accs.find? mine with | some a => a.va | none => 0) (if opWrites o then 1 else 0) tag

/-- Faulted lines of a group's operations that wait for the log enter it, in issue order, while there is room. -/
def logGrp (part tag wg grp : Nat) (s : State) : State :=
  match findGrp s wg grp with
  | none => s
  | some g => g.ops.foldl (fun s o =>
      (dedupNat ((o.accs.filter (fun a => a.st == .unlogged)).map (fun a => a.va / 128))).foldl (fun s line => logLine part tag wg grp o.id line s) s) s

/-- A resolved piece is replayed at the die whose log held it: performed, or faulted once more; while its place, or an
earlier access that must come first, stalls, it waits (R195 step 4, R199). -/
def replayAcc (s : State) (wg grp id i : Nat) : State :=
  match findWg s wg, findGrp s wg grp, findOp s wg grp id with
  | some w, some g, some o =>
    match o.accs[i]?, findLaunch s w.launch with
    | some a, some l =>
      if a.st != .resolved then s
      else
        match translateFor s o.die l.part a.va (opWrites o) with
        | (none, s1) => logGrp l.part l.tag.toNat wg grp
            (modOp s1 wg grp id (fun o => { o with accs := modifyAt o.accs i (fun a => { a with st := .unlogged }) }))
        | (some p, s1) =>
          let loc := match p.peer with | some k => Loc.peer k p.pa | none => Loc.global p.pa
          if stalledAt s1 wg loc || prevStalled s1 wg g id then s1
          else
            let s2 := modOp s1 wg grp id (fun o => { o with accs := modifyAt o.accs i (fun a => { a with loc := loc, st := .todo }) })
            performWhere (fun j o a => j == i && !atPeer s2 wg o a) (performBefore s2 wg grp id (prefixLanes { o with accs := [a] } 1)) wg grp id
    | _, _ => s
  | _, _, _ => s

/-- Pieces from the `i`-th on are replayed in ascending lane order, up to the first that must wait. -/
def replayFrom (wg grp id : Nat) : Nat → Nat → State → State
  | 0, _, s => s
  | n + 1, i, s =>
    let s1 := replayAcc s wg grp id i
    if ((findOp s1 wg grp id).bind (fun o => o.accs[i]?)).any (fun a => a.st == .resolved) then s1
    else replayFrom wg grp id n (i + 1) s1

/-- The resolved entries of one group are replayed, word by word, and what waits for the log enters it. The replay of a group whose core
is paused for an evacuation waits for the commit (R350, R351, R358). -/
def replayGrp (s : State) (wg grp : Nat) : State :=
  match findWg s wg, findGrp s wg grp with
  | some w, some g =>
    if !g.ops.any (fun o => o.accs.any (fun a => a.st == .resolved || a.st == .unlogged)) then s
    else
      let waits := fun (s : State) (id : Nat) => match findGrp s wg grp with
        | some g => g.ops.any (fun o => decide (o.id < id) && o.accs.any (fun a => a.st == .resolved))
        | none => true
      let s1 := if evacPaused s w.lcore then s else
        g.ops.foldl (fun s o => if o.accs.any (fun a => a.st == .resolved) && !waits s o.id then replayFrom wg grp o.id o.accs.length 0 s else s) s
      match findLaunch s w.launch with
      | some l => finishOps (logGrp l.part l.tag.toNat wg grp s1) wg grp
      | none => finishOps s1 wg grp
  | _, _ => s

/-- The entries of a page in one group's log are resolved. -/
def replayPage (s : State) (wg grp page : Nat) : State :=
  replayGrp (modGrp s wg grp (fun g => { g with ops := g.ops.map (fun o => { o with accs := o.accs.map (fun a =>
    if a.st == .logged && pageOf a.va == page then { a with st := .resolved } else a) }) })) wg grp

/-- A refused page: a failing launch only loses what was to be done there (R319); a RED's entries are lost (R197); those of another word wait to be taken as PAGE_FAULT (R196). -/
def refusePage (s : State) (wg grp page : Nat) : State :=
  match findWg s wg, findGrp s wg grp with
  | some w, some g =>
    let hit := fun (a : Acc) => a.st == .logged && pageOf a.va == page
    let low := fun (o : Op) => (o.accs.filter hit).foldl (fun m a => match m with | none => some a.va | some x => some (min x a.va)) none
    let s1 := g.ops.foldl (fun s o =>
      if !o.accs.any hit then s
      else if o.kind == .red then
        modOp (modLaunch s w.launch (fun l => { l with lostRed := match l.lostRed, low o with
            | some x, some y => some (min x y) | none, y => y | x, none => x })) wg grp o.id
          (fun o => { o with accs := o.accs.filter (fun a => !hit a) })
      else
        let m := if o.scalar then o.lanes &&& g.counted else (o.accs.filter hit).foldl (fun m a => m ||| laneBit a.lane) (0 : LMask)
        let va := match o.accs.find? hit with | some a => a.va | none => 0
        if (findLaunch s w.launch).any (fun l => l.fail.isSome) then modOp s wg grp o.id (fun o => { o with accs := o.accs.filter (fun a => !hit a) })
        else addRefusal (modOp s wg grp o.id (fun x => { x with accs := x.accs.map (fun a => if hit a then { a with st := .refused } else a) })) wg grp
          { pc := o.pc, lanes := m, va := va, write := opWrites o, copy := false, op := o.id, quads := o.quads, stands := false }) s
    finishOps s1 wg grp
  | _, _ => s

end Sys2Proof.Machine
end

