-- ==== Sys2Proof/Machine/Checked.lean ====
section
/-! DEFINITION. CHECKED workgroups: the commit of an interval's buffer, cuts and snapshots (R299, R329-R331), rollback
(R333, R336-R339), and the results a word can have. -/
namespace Sys2Proof.Machine

def coreOf (s : State) (w : Workgroup) : Nat := physCore s w.lcore

/-- A change of a group that stands whatever becomes of the open interval: it reaches the snapshot too. -/
def modBoth (s : State) (wg grp : Nat) (f : Group → Group) : State :=
  modWg s wg (fun w => { w with groups := modifyAt w.groups grp f,
                                chk := w.chk.map (fun c => { c with snap := modifyAt c.snap grp f }) })

/-! ## Cuts (R329) -/

/-- The interval store buffer enters T in one run, in issue order (R299). -/
def commitEntry (s : State) (e : BufEntry) : State :=
  match e.aop with
  | none => locWrite s e.loc e.bytes
  | some op =>
    let w := if op = 9 then e.bytes.length / 2 else e.bytes.length
    let old := locRead s e.loc w
    if anyBad old then s else locWrite s e.loc (atomNew op w (old.map Prod.fst) e.bytes)

/-- Buffered operations are performed by the commit. -/
def commitGrp (g : Group) : Group :=
  let g1 := (g.ops.filter (fun o => o.kind == .red && !o.accepted)).foldl (fun g o => flagDec g o.flag) g
  finishGrp { g1 with ops := g1.ops.map (fun o =>
    if o.kind == .load || o.ret then o
    else { o with accepted := true, accs := o.accs.map (fun a => if a.st == .performed then { a with st := .done } else a) }) }

/-- Entries that a peer out of reach drops (R370). -/
def dropEntries (s : State) (wg : Nat) : State :=
  match findWg s wg with
  | none => s
  | some w => match findLaunch s w.launch with
    | none => s
    | some l => (bufOf s wg).foldl (fun s e => match e.loc with
        | .peer k _ => if peerGone s l.part k then noteDrop s l.id k e.va else s
        | _ => s) s

/-- Physical addresses that the commit writes. -/
def bufPas (s : State) (wg : Nat) : List Nat := (bufOf s wg).filterMap (fun e => match e.loc with | .global pa => some pa | _ => none)

def commitBuf (s : State) (wg : Nat) : State :=
  let s1 := yieldServe ((bufOf s wg).foldl commitEntry (dropEntries s wg)) (bufPas s wg)
  modWg s1 wg (fun w => { w with groups := w.groups.map commitGrp, chk := w.chk.map (fun c => { c with buf := [] }) })

/-- An interval that opens on the groups `snap` at a time, before anything of it is issued. -/
def freshInterval (time mark : Nat) (snap : List Group) : Checked :=
  { opened := time, mark := mark, snap := snap, snapPoison := false, logPoison := false, stLog := [], accLog := [], buf := [],
    rerun := false, cutDue := false }

/-- A new interval opens on a snapshot of the workgroup (R329 step 6). -/
def openInterval (s : State) (wg : Nat) : State := modWg s wg (fun w => { w with chk := some (freshInterval (now s) s.nextId w.groups) })

/-- An operation that a cut waits for: everything but stores that stand in the buffer (R329 step 3). -/
def blocksCut (o : Op) : Bool :=
  match o.kind with
  | .load | .laneWord | .crd | .wait => true
  | .store | .atom | .red => o.ret || !o.accs.all (fun a => a.st == .performed || a.st == .done)

/-- What is left of the operation stands refused while a handler of an earlier trap runs (R314 step 2). -/
def refusedOp (g : Group) (o : Op) : Bool := g.inHandler && o.accs.any (fun a => a.st == .refused) && o.accs.all (fun a => a.st == .refused || a.st == .done)

/-- The replay queue of the workgroup's core holds an entry of it (R131). -/
def inReplayQueue (s : State) (w : Workgroup) : Bool :=
  match s.cores[coreOf s w]? with
  | none => false
  | some c => c.replayQ.any (fun e => e.wg == w.id)

def isCrd (k : CWordKind) : Bool := match k with | .crd .. => true | _ => false

/-- Every group can stop, nothing of the interval is outstanding, and no repair window or rod is in the commit's way (R283, R329 steps 1 to 3,
R341). -/
def cutReady (s : State) (w : Workgroup) : Bool :=
  w.groups.all (fun g => !speculative g && (dueRefusals g).isEmpty && !g.ops.any (fun o => blocksCut o && !refusedOp g o) && !g.quads.any insideWord)
    && !inReplayQueue s w && !w.cwords.any (fun c => isCrd c.kind)
    && !(bufOf s w.id).any (fun e => stalledAt s w.id e.loc) && yieldRoom s (accClass s w.id) (bufPas s w.id)

/-- A cut with nothing to perform in it (R329). -/
def cutNow (s : State) (wg : Nat) : State := openInterval (commitBuf s wg) wg

/-! ## Rollback (R337) -/

/-- Operations that counted on flag `n` of a group and survive a rollback. -/
def survivors (s : State) (w : Workgroup) (grp mark n : Nat) (ops : List Op) : Nat :=
  ((ops.filter (fun o => o.flag == some n && !(o.kind == .red && o.accepted))).map (fun o => 1 + o.more)).foldl (· + ·) 0
  + (w.cwords.filter (fun c => c.grp == grp && c.flag == some n && decide (c.id < mark))).length
  + (s.copies.filter (fun c => c.wg == w.id && c.grp == grp && c.flag == some n && decide (c.id < mark))).length

/-- A group goes back to its snapshot; operations issued before the interval run on. -/
def rollGrp (s : State) (w : Workgroup) (mark : Nat) (i : Nat) (snap : Group) : Group :=
  let cur := (w.groups[i]?).getD snap
  let ops := cur.ops.filter (fun o => decide (o.id < mark))
  { snap with
    ops := ops,
    f := (List.range 12).foldl (fun m n => smPut m n (BitVec.ofNat 6 (survivors s w i mark n ops)) 0) [],
    slot := cur.slot, active := cur.active, since := cur.since, cloneBad := false }

/-- A logged word of the window, by its bytes and its poison, is written back. -/
def rollWord (e : RowLog) (w : Workgroup) (k : Nat) : Workgroup :=
  let o := 4 * k - 512 * e.row
  { w with win := smPutList w.win (4 * k) (slice e.bytes o 4) 0,
           winPoison := (List.range 4).foldl (fun m i => smPut m (4 * k + i) (e.bad.contains (o + i)) false) w.winPoison }

/-- Logged words of the window are written back (R331, R337 step 5). -/
def rollWin (c : Checked) (w : Workgroup) : Workgroup := c.stLog.foldl (fun w e => e.words.foldl (rollWord e) w) w

def qEntryId : QEntry → Nat
  | .word id _ => id
  | .copy id => id

/-- A bank after a rollback: the interval's entries leave its queue, and a logged bank regains its slot. -/
def rollBank (c : Checked) (i : Nat) (b : Bank) : Bank :=
  let q := b.queue.filter (fun e => decide (qEntryId e < c.mark))
  match assoc? c.accLog i with
  | none => { b with queue := q }
  | some o => { b with queue := q, acc := o.acc, accPoison := o.accPoison, resBad := o.resBad, mode := o.mode, bound := o.bound, slot := o.slot }

/-- A rollback has not taken effect yet: canvas words issued before the interval are still being performed (R236, R337 step 2). The banks
it has restored hold no such word (R229, R331). -/
def rolling (w : Workgroup) : Bool :=
  match w.chk with
  | some c => c.rerun && w.cwords.any (fun x => decide (x.id < c.mark))
  | none => false

/-- The workgroup runs an interval again that a cut has not ended yet (R333, R334). -/
def rerunning (w : Workgroup) : Bool := match w.chk with | some c => c.rerun && !c.cutDue | none => false

/-- A rollback for a trigger of R336. A second failure in one interval, or a poisoned snapshot or log, fails the launch (R333, R339). -/
def rollback (s0 : State) (wg trigger : Nat) : State :=
  match findWg s0 wg with
  | none => s0
  | some w =>
    let s := monEvent s0 (coreOf s0 w)
    match w.chk with
    | none => s
    | some c =>
      if c.rerun || c.snapPoison || c.logPoison then failLaunch s w.launch stCheckFailed (w.lin % 2 ^ 32 + trigger * 2 ^ 32)
      else
        let w1 := { w with
          groups := (List.range c.snap.length).map (fun i => rollGrp s w c.mark i ((c.snap[i]?).getD (w.groups.headD (c.snap.headD
            (default : Group))))),
          win := (rollWin c w).win, winPoison := (rollWin c w).winPoison,
          banks := (List.range w.banks.length).map (fun i => match w.banks[i]? with
            | some b => rollBank c i b
            | none => default),
          cwords := w.cwords.filter (fun x => decide (x.id < c.mark)),
          chk := some { c with stLog := [], accLog := [], buf := [], rerun := true, cutDue := false, opened := now s } }
        modCore (modWg s wg (fun _ => w1)) (coreOf s w) (fun k => { k with replayQ := k.replayQ.filter (fun e => e.wg != wg) })

/-! ## What issuing a word comes to -/

/-- The outcome of a word inside the machine. -/
inductive Res where
  /-- It is performed, or started, and its gang has moved on. -/
  | ok (s : State)
  /-- It takes a precise trap; what stands before the trap (a sticky bit) is in the state. -/
  | trap (s : State) (t : Trap)
  /-- It consumes poison of its sources for some lanes, and does nothing else (R200, R340). -/
  | consumes (srcs : List Src) (m : LMask)
  /-- It cannot issue yet. -/
  | wait

/-- A word that consumes poison (R200, R340). -/
def onPoison (s : State) (x : Ctx) (srcs : List Src) (m : LMask) : State :=
  if predicted x then stopSide s x.c
  else if isChecked x.l then rollback s x.w.id 6
  else raise s x { Trap.at x.c .memoryPoison 0 m with info := poisonInfo x.g srcs m }

/-- Close a word without a cut. -/
def closeRes (s : State) (x : Ctx) (r : Res) : State :=
  match r with
  | .ok s1 => s1
  | .trap s1 t => trapOr s1 x t
  | .consumes srcs m => onPoison s x srcs m
  | .wait => s

/-- A word that an interval cut precedes in a CHECKED launch (R299, R329): the cut waits until it can fall, the
word is performed in its step 5, and a trap of it belongs to the new interval. Poison that it consumes rolls back the interval that is still
open (R333, R337): nothing is committed. -/
def withCut (s : State) (x : Ctx) (f : State → Res) : State :=
  match x.w.chk with
  | none => closeRes s x (f s)
  | some _ =>
    if cutReady s x.w then
      match f (commitBuf s x.w.id) with
      | .ok s1 => openInterval s1 x.w.id
      | .trap s1 t => raise (openInterval s1 x.w.id) x t
      | .consumes srcs m => onPoison s x srcs m
      | .wait => s
    else modGrp s x.c.wg x.c.grp (stayGrp x.c .cut)

/-- A word reads its sources: consumed poison ends it, else `f` goes on. What %actm is stands only once every branch has resolved
(R45, R123). -/
def withSources (s : State) (x : Ctx) (srcs : List Src) (f : State → State) : State :=
  let m := poisonLanes x.g srcs x.act
  if predicted x && srcs.any (fun c => c.code == 0xFB) then stopSide s x.c
  else if m = 0 then f s else onPoison s x srcs m

end Sys2Proof.Machine
end

