-- ==== Sys2Proof/Machine/SyncOps.lean ====
section
/-! DEFINITION. Canvas addresses (R188), phaser objects (R301, R302), barriers and their tree (R307, R308), package
geometry (R9, R10), the conditions that end a wait (R111, R215, R296, R300, R310), and readiness (R111). -/
namespace Sys2Proof.Machine

/-! ## Canvas addresses (R188) -/

/-- Where a canvas address of `n` bytes leads for a workgroup; none where R188 traps. -/
def canvasAt (s : State) (l : Launch) (w : Workgroup) (a n : Nat) : Option (Workgroup × Nat) :=
  let boff := bitsOf a 20 0
  if bitsOf a 31 28 != 0 || bitsOf a 23 21 != 0 then none
  else match teamMember s w ((w.trank : Int) + toSigned 4 (bitsOf a 27 24)) with
    | none => none
    | some t => if wgEnded t || decide (l.cvb < boff + n) || (n != 0 && boff % n != 0) then none else some (t, boff)

/-! ## Package geometry (R9, R10) -/

/-- The dies a hub connects to. -/
def hubDies (h : Nat) : List Nat := (List.range 4).map (fun i => match h with | 0 => i | 1 => 4 + i | 2 => 24 + i | _ => 28 + i)
def hubHops (d h : Nat) : Nat := 1 + ((hubDies h).map (dieHops d)).foldl min 10
/-- The nearest hub, the lowest number on a tie. -/
def nearestHub (d : Nat) : Nat := ([1, 2, 3] : List Nat).foldl (fun b h => if hubHops d h < hubHops d b then h else b) 0

/-! ## Phasers (R301, R302) -/

structure Phaser where
  gen : Nat
  nsig : Nat
  nwait : Nat
  pend : Nat
  zhi : Nat
  outb : Nat
  zlo : Nat
  inb : Nat
deriving DecidableEq, Repr

def phaserOf (x : Nat) : Phaser :=
  { gen := bitsOf x 127 124, nsig := bitsOf x 123 114, nwait := bitsOf x 113 104, pend := bitsOf x 103 94, zhi := bitsOf x 93 80,
    outb := bitsOf x 79 64, zlo := bitsOf x 63 32, inb := bitsOf x 31 0 }

def phaserNat (p : Phaser) : Nat :=
  p.gen % 16 * 2 ^ 124 + p.nsig % 1024 * 2 ^ 114 + p.nwait % 1024 * 2 ^ 104 + p.pend % 1024 * 2 ^ 94 + p.zhi % 2 ^ 14 * 2 ^ 80
    + p.outb % 2 ^ 16 * 2 ^ 64 + p.zlo % 2 ^ 32 * 2 ^ 32 + p.inb % 2 ^ 32

def phRead (s : State) (wg boff : Nat) : Phaser :=
  phaserOf (match findWg s wg with
    | some w => bytesToNat (smGetList w.win boff 16 0)
    | none => 0)

def phWrite (s : State) (wg boff : Nat) (p : Phaser) : State := modWg s wg (fun w => winWrite w boff (natToBytes 16 (phaserNat p)))

/-- Parked gangs of every group that wait for `f` run again, in the snapshot of an interval too. -/
def releaseParked (s : State) (f : Park → Bool) : State :=
  { s with wgs := s.wgs.map (fun w =>
      { w with groups := w.groups.map (unparkGrp f), chk := w.chk.map (fun c => { c with snap := c.snap.map (unparkGrp f) }) }) }

def onPhaser (wg boff : Nat) (p : Park) : Bool :=
  match p with
  | .phwt w b _ => w == wg && b == boff
  | .phaw w b _ => w == wg && b == boff
  | _ => false

/-- The test of completion after an arrival, a delivery or a PHEXP (R302). -/
def phTest (s : State) (wg boff : Nat) (p : Phaser) : State :=
  if p.pend = 0 ∧ p.inb = 0 then
    releaseParked (phWrite s wg boff { p with gen := (p.gen + 1) % 16, pend := p.nsig }) (onPhaser wg boff)
  else phWrite s wg boff p

/-- A copy reports `n` delivered bytes (R250, R301); an ended workgroup's phaser takes no update (R188). -/
def phDeliver (s : State) (wg boff n : Nat) : State :=
  if (findWg s wg).any wgEnded then s
  else
    let p := phRead s wg boff
    phTest s wg boff { p with inb := (p.inb + 2 ^ 32 - n % 2 ^ 32) % 2 ^ 32 }

/-- OUTB changes; gangs of PHWT.out run again at zero (R304). An ended workgroup's phaser takes no update (R188). -/
def phOutb (s : State) (wg boff : Nat) (up : Bool) : State :=
  if (findWg s wg).any wgEnded then s else
  let p := phRead s wg boff
  let q := { p with outb := if up then p.outb + 1 else p.outb - 1 }
  let s1 := phWrite s wg boff q
  if q.outb = 0 then releaseParked s1 (fun k => match k with | .phwtOut w b => w == wg && b == boff | _ => false) else s1

/-! ## Barriers (R307, R308) -/

/-- A group whose counted lanes have all exited counts as arrived: its EXIT stands in a CHECKED workgroup once the interval
has committed, and what it accessed before is performed (R307). -/
def exitStands (w : Workgroup) (i : Nat) (g : Group) : Bool :=
  lanesEnded g && !g.ops.any (fun o => o.kind != .red && o.accs.any (fun a => (a.st == .todo && !isPeer a.loc) || heldAcc a))
    && match w.chk with
      | none => true
      | some c => (c.snap[i]?).any lanesEnded

/-- What the group accessed before its arrival stands in T: a release waits for it (R307, log 141). -/
def arrivalStands (g : Group) : Bool :=
  !g.ops.any (fun o => decide (o.id < g.arrMark) && o.kind != .red && o.accs.any (fun a => (a.st == .todo && !isPeer a.loc) || heldAcc a))

/-- Every group of a workgroup has arrived, or counts as arrived. -/
def allArrived (f : Group → Bool) (w : Workgroup) : Bool :=
  (List.range w.groups.length).all (fun i => match w.groups[i]? with
    | some g => (f g && arrivalStands g) || exitStands w i g
    | none => true)

/-- An instance is released for a group: its parked gangs run on, and its count advances. -/
def releaseBar (k : Park) (g : Group) : Group :=
  let g1 := match k with
    | .bar => { g with barArr := false, barN := g.barN + 1 }
    | .bart => { g with bartArr := false, bartN := g.bartN + 1 }
    | _ => { g with bardArr := false, bardN := g.bardN + 1 }
  unparkGrp (fun p => p == k) g1

def releaseWg (k : Park) (w : Workgroup) : Workgroup :=
  { w with groups := w.groups.map (releaseBar k), chk := w.chk.map (fun c => { c with snap := c.snap.map (releaseBar k) }) }

/-- BAR is released when every group has arrived or ended (R307). -/
def barCheck (s : State) (wg : Nat) : State :=
  modWg s wg (fun w =>
    if w.groups.any (fun g => g.barArr) && allArrived Group.barArr w then releaseWg .bar w else w)

def teamNo (w : Workgroup) : Nat := w.lin - w.trank

/-- Every group's part in a barrier is over: the workgroup has ended its program. -/
def wgThrough (w : Workgroup) : Bool := (List.range w.groups.length).all (fun i => match w.groups[i]? with
  | some g => exitStands w i g
  | none => true)

/-- The workgroups of a barrier that have not ended their programs. -/
def barMembers (s : State) (launch : Nat) (team : Option Nat) : List Workgroup :=
  s.wgs.filter (fun w => w.launch == launch && !wgThrough w && match team with
    | some t => teamNo w == t
    | none => true)

/-- The dies of a barrier's workgroups: those of its instance's first arrival, or as they stand now (R308). -/
def barDies (s : State) (launch : Nat) (team : Option Nat) : List (Nat × Nat) :=
  match s.arrivals.find? (fun a => a.launch == launch && a.team == team) with
  | some a => a.dies
  | none => (barMembers s launch team).map (fun w => (w.id, dieOf s w.lcore))

/-- A workgroup sends its arrival up when all its groups have arrived. -/
def sendArrival (s : State) (wg : Nat) : State :=
  match findWg s wg with
  | none => s
  | some w =>
    let one := fun (s : State) (team : Option Nat) (f : Group → Bool) =>
      if w.groups.any f && allArrived f w
          && !s.arrivals.any (fun a => a.launch == w.launch && a.team == team && a.wg == wg) then
        { s with arrivals := s.arrivals ++ [{ launch := w.launch, team := team, wg := wg, level := 0, dies := barDies s w.launch team }] }
      else s
    one (one s (some (teamNo w)) Group.bartArr) none Group.bardArr

/-- Level of a workgroup's arrival; 0 for none yet, else one more than the levels it has passed. -/
def arrivalLevel (s : State) (launch : Nat) (team : Option Nat) (wg : Nat) : Nat :=
  match s.arrivals.find? (fun a => a.launch == launch && a.team == team && a.wg == wg) with
  | some a => a.level + 1
  | none => 0

/-- The instance is released down the tree. -/
def releaseTree (s : State) (launch : Nat) (team : Option Nat) : State :=
  let k := if team.isSome then Park.bart else Park.bard
  { s with
    arrivals := s.arrivals.filter (fun a => !(a.launch == launch && a.team == team)),
    wgs := s.wgs.map (fun w => if w.launch == launch && (team.isNone || team == some (teamNo w)) then releaseWg k w else w) }

/-- All of a COOP grid has been placed; a barrier of the grid waits for workgroups still to come (R98). -/
def allPlaced (s : State) (launch : Nat) (team : Option Nat) : Bool :=
  team.isSome || match findLaunch s launch with
    | some l => decide (gridSize l ≤ l.next)
    | none => true

/-- One level of the tree acts for a die, a hub or the package (R308); a level whose arrivals are not complete waits, and so
does a barrier with a member that is saved (R311). -/
def combine (s : State) (launch : Nat) (team : Option Nat) (level unit : Nat) : State :=
  let ms := barMembers s launch team
  let dies := barDies s launch team
  let dieOfWg := fun (w : Workgroup) => (assoc? dies w.id).getD (dieOf s w.lcore)
  let low := dies.foldl (fun d e => min d e.2) 31
  let mine := ms.filter (fun w => match level with
    | 0 => dieOfWg w == unit
    | 1 => if team.isSome then nearestHub low == unit else nearestHub (dieOfWg w) == unit
    | _ => unit == 0)
  let ok := !mine.isEmpty && !ms.any isSaved && mine.all (fun w => decide (level < arrivalLevel s launch team w.id))
  let oneDie := dies.all (fun e => e.2 == unit)
  if !ok then s
  else if team.isSome && ((level == 0 && oneDie) || level == 1) then releaseTree s launch team
  else if 2 ≤ level then (if allPlaced s launch team then releaseTree s launch team else s)
  else
    { s with arrivals := s.arrivals.map (fun a =>
        if a.launch = launch ∧ a.team = team ∧ a.level = level ∧ mine.any (fun w => w.id == a.wg) then { a with level := level + 1 } else a) }

/-- A group's lanes have ended or it has arrived: barriers it belongs to may be complete. -/
def barriers (s : State) (wg : Nat) : State := sendArrival (barCheck s wg) wg

/-- Barriers that some group waits at are looked at again. -/
def barriersAll (s : State) : State :=
  (s.wgs.filter (fun w => !isSaved w && w.groups.any (fun g => g.barArr || g.bartArr || g.bardArr))).foldl (fun s w => barriers s w.id) s

/-! ## Conditions that end a wait -/

/-- A named flag counts as clear for quad `q` (R36, R215). -/
def flagClear (g : Group) (q n : Nat) : Bool :=
  getF g n == 0 ||
  match g.split with
  | some x => inSplit g q && x.flag == some n && getF g n == 1 && g.ops.any (fun o => o.id == x.op && o.flag == some n) && splitQuadDone g q
  | none => false

def flagsClear (g : Group) (m : QMask) (mask : BitVec 12) : Bool :=
  (List.range 12).all (fun n => !mask.getLsbD n || (quadsOf m).all (fun q => flagClear g q n))

/-- Operations of a group that a FENCE of storage scope `st` and agent scope `ag` covers, issued before `limit` (R300). -/
def fenceOpen (s : State) (wg grp ag st limit : Nat) : Bool :=
  let all : List Op := match findGrp s wg grp with
    | some g => g.ops
    | none => []
  let ops := all.filter (fun o => decide (o.id < limit))
  let global := st == 1 || st == 3
  let logged := fun (o : Op) => opWrites o && o.accs.any heldAcc
  let copies := s.copies.filter (fun c => c.wg == wg && c.grp == grp && decide (c.id < limit))
  (global && ops.any (fun o => o.kind == .red || logged o))
    || (ag != 0 && global && copies.any (fun c => c.kind == .cpyc))
    || (ag != 0 && (st == 0 || st == 3) && copies.any (fun c => c.kind == .cpy || c.kind == .cpymBox || c.kind == .cpys))
    || (ag != 0 && (st == 2 || st == 3)
        && s.calls.any (fun c => c.wg == wg && c.grp == grp && decide (c.id < limit) && c.st != .ended && !c.cstDone))
    || (ag == 4 && ops.any (fun o => o.accs.any (fun a => isPeer a.loc && (a.st == .todo || heldAcc a))))

/-- Calls of an MCALL still being accepted (R279). -/
def callsOpen (s : State) (a b : Nat) : Bool :=
  s.calls.any (fun c => decide (a ≤ c.id) && decide (c.id < b) && (c.st == .accepting || c.st == .locked))

/-- A launch is still known and not retired (R107). -/
def launchOpen (s : State) (id : Nat) : Bool := s.launches.any (fun l => l.id == id && l.st != .done)

/-- The wait of quad `q` of a parked gang is over by what the state now holds. Waits that an event ends are not here. -/
def waitOver (s : State) (wg grp : Nat) (g : Group) (q : Nat) (p : Park) : Bool :=
  match p with
  | .waitf m => flagsClear g (quadBit q) m
  | .waitj j m => getJ g j &&& m == m
  | .lwait id _ => !launchOpen s id
  | .sleep wake => decide (wake ≤ now s)
  | .mcall a b => !callsOpen s a b
  | .fence ag st limit => !fenceOpen s wg grp ag st limit
  | .fault page => match (findWg s wg).bind (fun w => findLaunch s w.launch) with
    | some l => !faultPending s l.part page
    | none => true
  | .retryOps => !g.ops.any (fun o => o.retried)
  | _ => false

/-- A parked quad runs again, past the end of its clause where its word was the last. -/
def wakeQuad (q : Quad) : Quad :=
  { q with st := .running, park := .none, clause := match q.clause with
    | some c => if q.pc = c.hdr + BitVec.ofNat 32 (4 * (1 + c.len)) then none else some c
    | none => none }

/-- Gangs whose waits are over run again. -/
def wakeGrp (s : State) (wg grp : Nat) : State :=
  match findGrp s wg grp with
  | none => s
  | some g =>
    if g.quads.any (fun q => q.st == .parked) then
      let fini := fun (k : Nat) => (quadsOf (gangOf g k)).all (fun q => waitOver s wg grp g q (quadAt g q).park)
      let m := qmaskOf (fun k => (quadAt g k).st == .parked && fini k)
      if m = 0 then s
      else modGrp s wg grp (fun g => settle (modQuads g m wakeQuad))
    else s

end Sys2Proof.Machine
end

