-- ==== Sys2Proof/Machine/Ready.lean ====
section
/-! DEFINITION. Readiness of gangs and groups (R111, R113, R122, R127, R154, R214), and yielding a place in the active set. -/
namespace Sys2Proof.Machine

/-- A gang of the workgroup stands at a word that an interval cut precedes. -/
def cutWaiter (w : Workgroup) : Bool := w.groups.any (fun g => g.quads.any (fun q => q.st == .parked && q.park == .cut))

/-- The workgroup issues nothing: it is not on a core, or its launch is not running. -/
def wgStopped (s : State) (w : Workgroup) : Bool :=
  (match w.place with | .saved _ _ => true | _ => false)
    || match findLaunch s w.launch with
      | some l => l.st != .running
      | none => true

/-- The workgroup issues nothing, or its core is paused. -/
def wgHalted (s : State) (w : Workgroup) : Bool := wgStopped s w || evacPaused s w.lcore

/-- Gangs stop at their next word boundary for an evacuation: it has paused the core, or a CHECKED workgroup is to be cut
for it (R334, R350, R351). -/
def evacStopping (s : State) (w : Workgroup) : Bool :=
  evacPaused s w.lcore || (w.chk.isSome && !rerunning w && s.evacs.any (fun e => e.lcore == w.lcore && e.phase == .prepare))

/-- The group's gangs stop at their next word boundary: for a save, an interval cut or a refused fault (R196, R320, R329). -/
def grpStopping (w : Workgroup) (g : Group) : Bool :=
  (w.place == .saving && !rerunning w) || rolling w || (match w.chk with | some c => c.cutDue | none => false) || cutWaiter w || !(dueRefusals g).isEmpty

/-- The gang is inside a word that waits for a record; such a word is finished first (R320). -/
def midWord (g : Group) (q : Nat) : Bool := g.ops.any (fun o => o.kind == .wait && hasQuad o.quads q)

/-- The gang is held behind a long-latency lane word (R154). -/
def laneHeld (l : Launch) (g : Group) (m : QMask) : Bool :=
  enablesOf l != 0 && g.ops.any (fun o => o.kind == .laneWord && o.quads &&& m != 0)

/-- A predicted side has stopped (R122, R126): also at a header where R118 would act on its top entry. -/
def sideStopped (q : Quad) : Bool :=
  match q.pred with
  | none => false
  | some p => p.stopped || decide (32 ≤ p.issued)
      || (atHeader q && (headerAct { q with stack := q.stack.map (fun e => { e with spec := false }) }).isSome)
      || (match q.clause with | some c => c.nspec | none => false)

/-- A FENCE, LAUNCH or LWAIT of a gang outside `m` waits: no later word of the group issues (R106, R107, R300). -/
def heldOutside (g : Group) (m : QMask) : Bool :=
  quads4.any (fun k => !hasQuad m k && (quadAt g k).st == .parked && match (quadAt g k).park with | .fence _ _ _ | .launchAnswer | .lwait _ _ => true | _ => false)
def fenceHeld (g : Group) : Bool := heldOutside g 0

/-- The group waits for the launch unit's answer (R106). -/
def launching (g : Group) : Bool := g.quads.any (fun q => q.st == .parked && q.park == .launchAnswer)

/-- A clause may begin: a word other than its first issues whatever its WAIT (R36, R42). -/
def clauseOpen (g : Group) (m : QMask) (c : Clause) (pc : Word) : Bool := (pc != c.hdr && pc != c.hdr + 4) || flagsClear g m c.wait

/-- Where a quad stands: its clause, the index of the word it issues next, and the quads and lanes that issue it. -/
structure Stand where
  quads : QMask
  run : LMask
  clause : Clause
  idx : Nat
  replay : Bool

/-- Index of the word at an address in its clause's words; the header stands before the first. -/
def wordIndex (c : Clause) (pc : Word) : Nat := if pc = c.hdr then 0 else (pc - c.hdr).toNat / 4 - 1

def standOf (g : Group) (q : Nat) : Option Stand :=
  let a := quadAt g q
  match a.replay, runsOn a with
  | some r, false => r.clause.map (fun c => { quads := quadBit q, run := quadLift r.lanes q, clause := c, idx := wordIndex c r.pc, replay := true })
  | _, _ => a.clause.map (fun c => { quads := gangOf g q, run := runOf g (gangOf g q), clause := c, idx := wordIndex c a.pc, replay := false })

/-- The instruction at a word of a clause. -/
def wordDecode (x : Stand) : Option Dec := decode x.clause.cls (x.clause.words.drop x.idx)

/-- ACTIVE of the word where a quad stands. -/
def standAct (g : Group) (x : Stand) : LMask := x.run &&& getPMask g (((x.clause.words.drop x.idx).headD 0).extractLsb' 23 3).toNat

/-- Whether a lane word of a CHECKED launch goes to the replay queue: the words that read other lanes, and one with too few idle lanes
(R130). -/
def wantsQueue (i : Instr) (act : LMask) : Bool := isLaneWord i && act != 0 && (!mayPredict i || decide (16 - popCount act < popCount act))

/-- The next word of a gang cannot issue yet: its flag reads 63 (R39), R125 holds it back, or the replay queue is full (R131). -/
def wordHeld (s : State) (w : Workgroup) (l : Launch) (g : Group) (x : Stand) : Bool :=
  match wordDecode x with
  | none => false
  | some d =>
    (isLong d.i && flagFull g (flagSel x.clause (fsOf d.i)))
      || (!x.replay && (quadsOf x.quads).any (fun k => (quadAt g k).pred.isSome) && !mayPredict d.i)
      || (isChecked l && wantsQueue d.i (standAct g x) && match s.cores[coreOf s w]? with | some c => decide (64 ≤ c.replayQ.length) | none => false)

/-- Replaying lanes that could issue: they take the WAIT of their clauses, and are held behind their own lane words (R123, R124, R154). -/
def replayReady (l : Launch) (g : Group) (q : Nat) (r : Replay) : Bool :=
  !launching g
    && !(enablesOf l != 0 && g.ops.any (fun o => o.kind == .laneWord && decide (r.mark ≤ o.id) && o.lanes &&& quadLift r.lanes q != 0))
    && match r.clause with
      | some c => clauseOpen g (quadBit q) c r.pc
      | none => true

/-- The gang of quad `q` could issue its next clause or word now (R111). -/
def quadReady (s : State) (w : Workgroup) (g : Group) (q : Nat) : Bool :=
  let a := quadAt g q
  let m := gangOf g q
  match findLaunch s w.launch with
  | none => false
  | some l =>
    !wgStopped s w && (!(grpStopping w g || evacStopping s w) || a.replay.isSome || midWord g q) && !g.ended && a.st == .running && !splitHeld g q
      && (match a.replay, runsOn a with
        | some r, false => replayReady l g q r
        | _, _ =>
          !fenceHeld g && !laneHeld l g m && a.run != 0 && (quadsOf m).all (fun k => ((quadAt g k).replay.isNone || runsOn (quadAt g k)) && !sideStopped (quadAt g k))
            && match a.clause with
              | some c => clauseOpen g m c a.pc || midWord g q
              | none => true)
      && !(standOf g q).any (wordHeld s w l g)

/-- A parked gang that would be ready once it runs again. -/
def quadWakes (s : State) (w : Workgroup) (grp : Nat) (g : Group) (q : Nat) : Bool :=
  (quadAt g q).st == .parked && !wgHalted s w && !heldOutside g (gangOf g q) && waitOver s w.id grp g q (quadAt g q).park

def groupReady (s : State) (w : Workgroup) (grp : Nat) : Bool :=
  match w.groups[grp]? with
  | none => false
  | some g => quads4.any (fun q => quadReady s w g q || quadWakes s w grp g q)

/-- Groups of a core's slot: workgroup, group number, group. -/
def slotGroups (s : State) (core slot : Nat) : List (Workgroup × Nat × Group) :=
  (s.wgs.filter (fun w => w.place == .live && coreOf s w == core)).flatMap (fun w =>
    (List.range w.groups.length).filterMap (fun k => match w.groups[k]? with
      | some g => if g.slot == slot && !g.ended then some (w, k, g) else none
      | none => none))

/-- A group leaves its active set for the pending set with age 0, if a ready pending group of its slot exists (R113, R139). -/
def yieldGrp (s : State) (wg grp : Nat) : State :=
  match findWg s wg with
  | none => s
  | some w =>
    match w.groups[grp]? with
    | none => s
    | some g =>
      if (slotGroups s (coreOf s w) g.slot).any (fun e => !e.2.2.active && groupReady s e.1 e.2.1) then
        modGrp s wg grp (fun g => { g with active := false, since := now s })
      else s

end Sys2Proof.Machine
end

