-- ==== Sys2Proof/Machine/Ctl.lean ====
section
/-! DEFINITION. The CTL words (R132-R139): branches and the division of gangs (R117, R128, R129, R134), branch prediction at
issue (R121, R122), calls and returns, LOOP, EXIT, and the words that end no clause. -/
namespace Sys2Proof.Machine

/-! ## Addresses of a branch -/

/-- A clause header at a signed word offset from the branch's own header (R54). -/
def hdrOff (c : Issue) (o : BitVec 16) : Word := c.clause.hdr + wordOfInt (4 * toSigned 16 o.toNat)
/-- The fall-through of a clause (R38). -/
def fallOf (c : Clause) : Word := c.hdr + BitVec.ofNat 32 (4 * (1 + c.len))
def rjOf (c : Issue) (o : BitVec 16) : Option Word := if o = 0 then none else some (hdrOff c o)
/-- cond(l): the predicate that CP names, with its negation (R132). -/
def condMask (g : Group) (cp : BitVec 4) : LMask :=
  let m := getPMask g (cp.toNat % 8)
  if cp.getLsbD 3 then ~~~m else m

/-! ## Division of a gang (R117) -/

def gangEntry (rj : Option Word) (sib : QMask) (spec : Bool) : StackEntry :=
  { kind := .gang, rpc := rj, ppc := 0, pmask := 0, omask := 0, sib := sib, spec := spec, clause := none, again := false }
def laneEntry (rj : Option Word) (ppc : Word) (pend run : QMask) (spec : Bool) (cl : Option Clause) : StackEntry :=
  { kind := .lane, rpc := rj, ppc := ppc, pmask := pend, omask := run, sib := 0, spec := spec, clause := cl, again := false }

/-- Where a quad goes next: the target unless none of its running lanes goes there. -/
def nextOf (g : Group) (take : LMask) (tgt fall : Word) (q : Nat) : Word :=
  let r := (quadAt g q).run
  let t := quadPart take q &&& r
  if r &&& ~~~t = 0 then tgt else if t = 0 then fall else tgt

/-- The quads of a gang do not all have the same next PC. -/
def apart (m : QMask) (next : Nat → Word) : Bool :=
  let qs := quadsOf m
  qs.any (fun q => next q != next (qs.headD 0))

/-- The lowest quad of the gang with the same next PC names the gang that forms there. -/
def gangName (m : QMask) (next : Nat → Word) (q : Nat) : Nat := ((quadsOf m).find? (fun k => next k == next q)).getD q

/-- The division of R117; none where a quad would take a ninth entry. -/
def divide (m : QMask) (take : LMask) (tgt fall : Word) (rj : Option Word) (spec : Bool) (g : Group) : Option Group :=
  let next := nextOf g take tgt fall
  let gang := apart m next && rj.isSome
  let part := fun q => quadPart take q &&& (quadAt g q).run
  let rest := fun q => (quadAt g q).run &&& ~~~quadPart take q
  let mixed := fun q => part q != 0 && rest q != 0
  let pushes := fun q => (if gang then 1 else 0) + (if mixed q then 1 else 0)
  if (quadsOf m).any (fun q => decide (8 < (quadAt g q).stack.length + pushes q)) then none
  else some { g with quads := (List.range g.quads.length).map (fun q =>
    let a := quadAt g q
    if hasQuad m q then
      let st1 := if gang then gangEntry rj m spec :: a.stack else a.stack
      { a with
        pc := next q, clause := none, gang := gangName m next q,
        stack := if mixed q then laneEntry rj fall (rest q) a.run spec none :: st1 else st1,
        run := if mixed q then part q else a.run }
    else a) }

/-- The trap RECONV_OVERFLOW for the gang's confirmed lanes. -/
def overflowTrap (x : Ctx) : Trap := Trap.at x.c .reconvOverflow 0 (x.act &&& x.g.counted)

/-- A flow word ends: `f` moves the gang, or the word traps. -/
def flowEnd (s : State) (x : Ctx) (r : Option Group) : State :=
  match r with
  | none => raise s x (overflowTrap x)
  | some g => modGrp s x.c.wg x.c.grp (fun _ => settle g)

/-! ## The mask predictor (R121) -/

def predKey (x : Ctx) : Nat := Config.predictorHash x.c.pc.toNat x.g.slot % 2048
def predEntry (s : State) (x : Ctx) : PredEntry :=
  match s.cores[coreOf s x.w]? with
  | some k => smGet k.predictor (predKey x) default
  | none => default

/-- The update of an entry by what running lanes `m` did. -/
def predLearn (e : PredEntry) (m seen : LMask) : PredEntry :=
  if e.mask &&& m = seen &&& m then { e with conf := if e.conf = 3 then 3 else e.conf + 1 }
  else if 2 ≤ e.conf.toNat then { e with conf := e.conf - 1 }
  else { mask := (e.mask &&& ~~~m) ||| (seen &&& m), conf := 1 }

def predUpdate (s : State) (core key : Nat) (m seen : LMask) : State :=
  modCore s core (fun k => { k with predictor := smPut k.predictor key (predLearn (smGet k.predictor key default) m seen) default })

/-! ## BR and BRU (R133) -/

/-- An unconditional branch moves its gang together, predicted and replaying lanes too. -/
def jumpGrp (c : Issue) (tgt : Word) (g : Group) : Group :=
  advanceGrp { c with next := tgt, last := true } g

/-- The condition and the guard are the constant p7, in force in every lane, so they are always available (R122). -/
def alwaysKnown (w : FmtJ) : Bool := w.cp.toNat % 8 == 7 && w.g == 7

/-- A predicted BR divides its gang by the predictor's mask; its lanes are then predicted (R122). -/
def predictBr (s : State) (x : Ctx) (take : LMask) (mask : LMask) (tgt fall : Word) (rj : Option Word) (g1 : Group) : State :=
  modGrp s x.c.wg x.c.grp (fun g =>
    let pred := fun (q : Nat) =>
      let r := (quadAt g q).run
      ({ brPc := x.c.pc, gang := x.c.quads, tgt := tgt, fall := fall, rj := rj, onTarget := nextOf g mask tgt fall q == tgt && quadPart mask q &&& r != 0,
         lanes := r, truth := quadPart take q &&& r, issued := 0, mark := s.nextId, undo := [], stopped := false } : Pred)
    { g1 with quads := (List.range g1.quads.length).map (fun q =>
      let a := quadAt g1 q
      if hasQuad x.c.quads q then { a with pred := some (pred q) } else a) })

def execBr (w : FmtJ) (s : State) : Host.Outcome State Fault Refusal :=
  withCtx s w.g fun x =>
    let tgt := hdrOff x.c w.tgt
    let fall := fallOf x.c.clause
    let rj := rjOf x.c w.rj
    if w.cp = 7 ∧ w.g = 7 then modGrp (predUpdate s (coreOf s x.w) (predKey x) x.c.run x.c.run) x.c.wg x.c.grp (jumpGrp x.c tgt)
    else
      let take := x.act &&& condMask x.g w.cp
      let e := predEntry s x
      let room := (quadsOf x.c.quads).all (fun q => decide ((quadAt x.g q).stack.length ≤ 6))
      let guess := if x.c.predict && !alwaysKnown w && room && decide (2 ≤ e.conf.toNat) then divide x.c.quads (e.mask &&& x.c.run) tgt fall rj true x.g else none
      match guess with
      | some g1 => predictBr s x take (e.mask &&& x.c.run) tgt fall rj g1
      | none => flowEnd (predUpdate s (coreOf s x.w) (predKey x) x.c.run take) x (divide x.c.quads take tgt fall rj false x.g)

/-- Lanes of a mask do not agree. -/
def disagree (act take : LMask) : Bool := act &&& take != 0 && act &&& ~~~take != 0

/-- Lanes whose agreement BRU and BRIU check: the counted lanes of ACTIVE, or helper lanes alone (R116, R128, log 18). -/
def judges (x : Ctx) : LMask := if x.act &&& x.g.counted = 0 then x.act else x.act &&& x.g.counted

/-- The lanes of ACTIVE all go where the lowest lane that is checked goes, so no LANE entry is pushed for them (R128). -/
def bruTake (x : Ctx) (take : LMask) : LMask := match lowestLane (judges x) with | some l => if hasLane take l then x.act else 0 | none => 0

/-- The trap UNIFORMITY holds ACTIVE (R128). -/
def uniformTrap (x : Ctx) : Trap := Trap.at x.c .uniformity 0 x.act

def execBru (w : FmtJ) (s : State) : Host.Outcome State Fault Refusal :=
  withCtx s w.g fun x =>
    let take := x.act &&& condMask x.g w.cp
    if disagree (x.act &&& x.g.counted) take then raise s x (uniformTrap x)
    else flowEnd s x (divide x.c.quads (bruTake x take) (hdrOff x.c w.tgt) (fallOf x.c.clause) (rjOf x.c w.rj) false x.g)

/-! ## Indirect branches (R134) -/

/-- Lanes of ACTIVE with a register target that is no multiple of 4 (R132). -/
def oddTargets (x : Ctx) (tg : Nat → Word) : LMask :=
  maskOf (fun l => hasLane x.act l && hasLane x.g.counted l && (tg l).toNat % 4 != 0)

/-- A target as the front end fetches it: a helper lane's odd target counts as rounded down (log 18). -/
def evenTarget (tg : Nat → Word) (l : Nat) : Word := tg l &&& 0xFFFFFFFC#32

/-- Lanes of a quad that an indirect branch sends off now: those of ACTIVE that share the lowest one's target. -/
def firstLanes (act : LMask) (tg : Nat → Word) (q : Nat) : QMask :=
  match (lanesOf act).find? (fun l => l / 4 == q) with
  | none => 0
  | some l0 => quadPart (maskOf (fun l => hasLane act l && l / 4 == q && tg l == tg l0)) q

/-- The quad's pending lanes resumed at this word, so its top entry is reused. -/
def reuses (q : Quad) : Bool := match q.stack with | e :: _ => e.again | [] => false

/-- A quad's stack after an indirect branch that leaves `rest` pending. -/
def briStack (c : Issue) (a : Quad) (rj : Option Word) (rest : QMask) (gang : Bool) : List StackEntry :=
  if reuses a then
    match a.stack with
    | e :: r => { e with pmask := rest, again := false } :: r
    | [] => []
  else
    let st1 := if gang then gangEntry rj c.quads false :: a.stack else a.stack
    if rest = 0 then st1 else laneEntry rj c.pc rest a.run false (some c.clause) :: st1

/-- The division by an indirect branch. -/
def divideBy (c : Issue) (act : LMask) (tg : Nat → Word) (rj : Option Word) (g : Group) : Option Group :=
  let fall := fallOf c.clause
  let first := firstLanes act tg
  let next := fun q => match (lanesOf act).find? (fun l => l / 4 == q) with
    | none => fall
    | some l0 => tg l0
  let again := (quadsOf c.quads).any (fun q => reuses (quadAt g q))
  let gang := apart c.quads next && rj.isSome && !again
  let rest := fun q => if first q = 0 then 0 else (quadAt g q).run &&& ~~~first q
  if (quadsOf c.quads).any (fun q => decide (8 < (briStack c (quadAt g q) rj (rest q) gang).length)) then none
  else some { g with quads := (List.range g.quads.length).map (fun q =>
    let a := quadAt g q
    if hasQuad c.quads q then
      { a with pc := next q, clause := none, gang := gangName c.quads next q, stack := briStack c a rj (rest q) gang,
               run := if first q = 0 then a.run else first q }
    else a) }

/-- BRI, CALLI and RET: their targets are checked, `link` is applied for the lanes that go, and the gang divides. -/
def indirect (s : State) (x : Ctx) (tg : Nat → Word) (rj : Option Word) (link : Group → LMask → Group) : State :=
  let odd := oddTargets x tg
  if odd != 0 then raise s x (Trap.at x.c .illegalOp 11 odd)
  else
    let go := quads4.foldl (fun m q => m ||| quadLift (firstLanes x.act (evenTarget tg) q) q) (0 : LMask) &&& x.c.run
    flowEnd s x (divideBy x.c x.act (evenTarget tg) rj (link x.g go))

def targetOf (s : State) (x : Ctx) (f : Fld) (l : Nat) : Word := wordOf (readN s x f l)

def execBri (w : FmtJ) (s : State) : Host.Outcome State Fault Refusal :=
  withCtx s w.g fun x =>
    withSources s x [srcOf 0 w.a 1] fun s => indirect s x (targetOf s x w.a) (rjOf x.c w.rj) (fun g _ => g)

/-- BRIU: helper lanes, whose targets trap nothing, go with the counted ones (R116, log 18). -/
def execBriu (w : FmtJ) (s : State) : Host.Outcome State Fault Refusal :=
  withCtx s w.g fun x =>
    withSources s x [srcOf 0 w.a 1] fun s =>
      let tg := targetOf s x w.a
      let odd := oddTargets x tg
      if odd != 0 then raise s x (Trap.at x.c .illegalOp 11 odd)
      else match lowestLane (judges x) with
        | none => flowEnd s x (divide x.c.quads 0 0 (fallOf x.c.clause) (rjOf x.c w.rj) false x.g)
        | some l0 =>
          if (lanesOf (x.act &&& x.g.counted)).any (fun l => evenTarget tg l != evenTarget tg l0) then raise s x (uniformTrap x)
          else flowEnd s x (divide x.c.quads x.act (evenTarget tg l0) (fallOf x.c.clause) (rjOf x.c w.rj) false x.g)

/-! ## Calls and returns (R135, R136) -/

/-- The link value in vector register `d` of the lanes of `m`. -/
def putLink (c : Issue) (d : Nat) (g : Group) (m : LMask) : Group := (lanesOf m).foldl (fun g l => putV g d l (fallOf c.clause)) g

def execCall (w : FmtJ) (s : State) : Host.Outcome State Fault Refusal :=
  withCtx s w.g fun x =>
    let take := x.act &&& condMask x.g w.cp
    flowEnd s x (divide x.c.quads take (hdrOff x.c w.tgt) (fallOf x.c.clause) (rjOf x.c w.rj) false (putLink x.c w.d.toNat x.g take))

def execCalli (w : FmtJ) (s : State) : Host.Outcome State Fault Refusal :=
  withCtx s w.g fun x =>
    withSources s x [srcOf 0 w.a 1] fun s =>
      indirect s x (targetOf s x w.a) (rjOf x.c w.rj) (putLink x.c w.d.toNat)

def execRet (w : FmtY) (s : State) : Host.Outcome State Fault Refusal :=
  withCtx s w.g fun x =>
    withSources s x [srcOf 0 w.a 1] fun s => indirect s x (targetOf s x w.a) none (fun g _ => g)

/-! ## LOOP (R137) -/

def execLoop (w : FmtJ) (s : State) : Host.Outcome State Fault Refusal :=
  withCtx s w.g fun x =>
    let fall := fallOf x.c.clause
    let rj := rjOf x.c w.rj
    if x.act = 0 then flowEnd s x (divide x.c.quads 0 (hdrOff x.c w.tgt) fall rj false x.g)
    else withSources s x [srcOf 0 w.a 1] fun s =>
      let n := w.a.code.toNat - 0x80
      let v := (getS x.g n).val - 1
      flowEnd s x (divide x.c.quads (if v = 0 then 0 else x.act) (hdrOff x.c w.tgt) fall rj false (putS x.g n v))

/-! ## EXIT (R138) -/

/-- Live lanes of a quad after lanes `m` exit: helper lanes go with the last counted one (R116). -/
def liveAfter (g : Group) (m : LMask) (q : Nat) : QMask :=
  let live := (quadAt g q).live &&& ~~~quadPart m q
  if quadLift live q &&& g.counted = 0 then 0 else live

/-- A quad with only the live lanes `live`. -/
def stripQuad (live : QMask) (alive : QMask) (q : Quad) : Quad :=
  let q1 := { q with live := live, run := q.run &&& live,
                     stack := q.stack.map (fun e => { e with pmask := e.pmask &&& live, omask := e.omask &&& live, sib := e.sib &&& alive }) }
  if live = 0 then { q1 with st := .done, run := 0, stack := [], clause := none, park := .none, pred := none, replay := none, refused := [] } else q1

/-- Outstanding loads of lanes that have exited are discarded. -/
def dropLoads (gone : LMask) (g : Group) : Group :=
  finishGrp { g with ops := g.ops.map (fun o =>
    if o.kind == .load && !o.scalar then { o with lanes := o.lanes &&& ~~~gone, accs := o.accs.filter (fun a => !hasLane gone a.lane) } else o) }

/-- An open split with every live quad holding at one RJN, or with none live, closes (R216). -/
def joinSplit (g : Group) : Group :=
  match g.split with
  | none => g
  | some x =>
    let m := qmaskOf (fun q => hasQuad x.quads q && (quadAt g q).live != 0)
    let low := (quadsOf m).headD 0
    let a := quadAt g low
    if m = 0 then { g with split := none }
    else if (quadsOf m).all (fun q => (quadAt g q).st == .holdRjn && (quadAt g q).pc == a.pc && (quadAt g q).stack.length == a.stack.length) then
      { modQuads g m (fun q => { q with st := .running, gang := low }) with split := none }
    else { g with split := some { x with quads := m } }

/-- Lanes `m` of a group exit. -/
def exitLanes (m : LMask) (g : Group) : Group :=
  let alive := qmaskOf (fun q => liveAfter g m q != 0)
  let g1 := { g with quads := (List.range g.quads.length).map (fun q => stripQuad (liveAfter g m q) alive (quadAt g q)) }
  let gone := liveOf g 0xF &&& ~~~liveOf g1 0xF
  joinSplit (dropLoads gone g1)

def execExit (w : FmtY) (s : State) : Host.Outcome State Fault Refusal :=
  withCtx s w.g fun x =>
    if x.act = 0 then advance s x.c
    else barriers (modGrp s x.c.wg x.c.grp (fun g => settle (advanceGrp x.c (exitLanes x.act g)))) x.c.wg

/-! ## The remaining words (R139) -/

def execNop (w : FmtY) (s : State) : Host.Outcome State Fault Refusal := withCtx s w.g fun x => advance s x.c

def execYield (w : FmtY) (s : State) : Host.Outcome State Fault Refusal :=
  withCtx s w.g fun x => if x.act = 0 then advance s x.c else yieldGrp (advance s x.c) x.c.wg x.c.grp

def execSleep (w : FmtY) (s : State) : Host.Outcome State Fault Refusal :=
  withCtx s w.g fun x =>
    if x.act = 0 then advance s x.c
    else if w.k = 0 then yieldGrp (advance s x.c) x.c.wg x.c.grp
    else modGrp s x.c.wg x.c.grp (parkGrp x.c (.sleep (now s + 256 * w.k.toNat)))

def execBkpt (w : FmtY) (s : State) : Host.Outcome State Fault Refusal :=
  withCtx s w.g fun x =>
    if groupAct x = 0 ∨ !hasHandler x.l then advance s x.c
    else raise s x { Trap.at x.c .breakpoint 0 x.act with info := w.k.toNat, resume := x.c.next }

end Sys2Proof.Machine
end

