-- ==== Sys2Proof/Machine/Lane.lean ====
section
/-! DEFINITION. What every lane word keeps (R153, R154): its sources, the checks of a CHECKED launch (R130, R131), the
conditions of R148 and their trap (R149), and results written at once or by a long-latency completion. -/
namespace Sys2Proof.Machine

/-! ## Lane results -/

/-- A lane with nothing to write. -/
def outNone (l : Nat) : LaneOut := { lane := l, v := [], bad := [], p := [], conds := 0, opa := 0, opb := 0, opc := 0 }
/-- One 32-bit slot. -/
def outV (l d : Nat) (x : Word) : LaneOut := { outNone l with v := [(d, x)] }
/-- An even pair. -/
def outPair (l d x : Nat) : LaneOut := { outNone l with v := [(d, wordOf x), (d + 1, wordOf (x / 2 ^ 32))] }
def outP (l d : Nat) (b : Bool) : LaneOut := { outNone l with p := [(d, b)] }
/-- A result of an integer type as R144 writes it. -/
def outInt (ty l d x : Nat) : LaneOut := if tyPair ty then outPair l d x else outV l d (slotOfInt ty x)
/-- A result of a floating-point type as R144 writes it. -/
def outFlt (ty l d x : Nat) : LaneOut := if ty = 11 then outPair l d x else outV l d (wordOf x)

/-! ## Conditions (R148) -/

/-- The five condition bits, INV lowest. -/
def condBits (inv dvz ovf pro con : Bool) : BitVec 5 :=
  BitVec.ofNat 5 ((if inv then 1 else 0) + (if dvz then 2 else 0) + (if ovf then 4 else 0) + (if pro then 8 else 0) + (if con then 16 else 0))

/-- Conditions of a delivered floating-point value of a type: NFPRO where it is not finite and no source is (R148). -/
def condOf (ty : Nat) (o : FOut) (srcs : List FVal) : BitVec 5 :=
  let con := srcs.any fNonFinite
  condBits o.inv o.dvz o.ovf (fNonFinite (fDecode ty o.bits) && !con) con

def withOps (o : LaneOut) (c : BitVec 5) (a b k : Nat) : LaneOut :=
  { o with conds := c, opa := dwordOf a, opb := dwordOf b, opc := dwordOf k }

/-! ## The shell of a lane word -/

/-- What the shell needs of a word: guard, sources, the WTYPE of R149, its flag select when long-latency, and
whether it always goes to the replay queue (R130). -/
structure LaneSpec where
  g : BitVec 3
  srcs : List Src
  wtype : Nat
  ll : Option Bool
  queue : Bool

/-- The slots of a source as a lane reads them; none where it is no register. -/
def srcSlots (g : Group) (l : Nat) (x : Src) : List Slot :=
  if isVec x.code ∨ isScl x.code then (List.range x.n).map (fun k => wordAt g x.code k l) else []

/-- What the replay queue keeps of a word: the word, its operands and its committed result (R131). -/
def replayEntry (s : State) (x : Ctx) (srcs : List Src) (outs : List LaneOut) : ReplayEntry :=
  { wg := x.c.wg, grp := x.c.grp, pc := x.c.pc, time := now s,
    words := (x.c.clause.words.drop ((x.c.pc - x.c.clause.hdr).toNat / 4 - 1)).take ((x.c.next - x.c.pc).toNat / 4),
    opnds := (lanesOf x.act).flatMap (fun l => srcs.map (fun c => (c.which, l, srcSlots x.g l c))),
    result := outs, again := outs }

/-- The check of an INT or FLT word in a CHECKED launch: pairing with idle lanes, or an entry of the replay queue,
for which the word waits while it is full; a word that traps commits no result and leaves no entry (R130, R131). -/
def checkedWord (s : State) (x : Ctx) (queue : Bool) (e : ReplayEntry) (f : State → State) : State :=
  let traps := condLanes x.g (enablesOf x.l) e.result != 0
  if !isChecked x.l || x.act = 0 then f s
  else if x.g.cloneBad then
    rollback (modGrp s x.c.wg x.c.grp (fun g => { g with cloneBad := false })) x.w.id 8
  else if queue || decide (16 - popCount x.act < popCount x.act) then
    let core := coreOf s x.w
    match s.cores[core]? with
    | none => f s
    | some k =>
      if 64 ≤ k.replayQ.length then s
      else if traps then f s
      else f (modCore s core (fun k => { k with replayQ := k.replayQ ++ [e] }))
  else f s

/-- The trap NONFINITE of a word (R149). -/
def nonfiniteTrap (x : Ctx) (wtype : Nat) (m : LMask) (outs : List LaneOut) : Trap :=
  { Trap.at x.c .nonfinite 0 m with wtype := wtype, outs := outs }

/-- A lane word issued long-latency: its results stand in a pending operation until it completes (R154). -/
def laneOp (s : State) (x : Ctx) (wtype : Nat) (fl : Option Nat) (outs : List LaneOut) : Op :=
  { id := s.nextId, kind := .laneWord, flag := fl, quads := x.c.quads, lanes := x.act, pc := x.c.pc, hdr := x.c.clause.hdr,
    next := x.c.next, accs := [], dst := 0, scalar := false, width := 0, sx := false, aop := 0, ret := false,
    accepted := false, outs := outs, wtype := BitVec.ofNat 8 wtype, split := false, retried := false, die := dieOf s x.w.lcore, skip := [], more := 0 }

/-- The word of the gang's side that a replaying quad now issues again, where it stands unfinished: the last word of
the side, which the quad's other lanes are held behind with their condition met (R126, R154). -/
def heldTwin (x : Ctx) (en : BitVec 5) : Option Op :=
  if x.c.replay && en != 0 && (quadsOf x.c.quads).all (fun q => match (quadAt x.g q).replay with | some r => decide (r.left ≤ 1) | none => false) then
    x.g.ops.find? (fun o => o.kind == .laneWord && o.pc == x.c.pc && o.quads &&& x.c.quads != 0 && o.lanes &&& x.act == 0)
  else none

/-- The results of a lane word, and how they reach the registers. A replayed long-latency word joins the word of its
side that still stands, so that one trap is taken for all its lanes (R126). -/
def laneFinish (s : State) (x : Ctx) (sp : LaneSpec) (outs : List LaneOut) : State :=
  let en := enablesOf x.l
  match sp.ll with
  | none =>
    let m := condLanes x.g en outs
    if m != 0 then trapOr s x (nonfiniteTrap x sp.wtype m outs)
    else modGrp s x.c.wg x.c.grp (fun g => advanceGrp x.c (outs.foldl (writeOut s.nextId) g))
  | some fs =>
    if outs.isEmpty then advance s x.c
    else match heldTwin x en with
    | some t => modGrp s x.c.wg x.c.grp (fun g => advanceGrp x.c { flagInc g t.flag with
        ops := g.ops.map (fun o => if o.id = t.id then { o with lanes := o.lanes ||| x.act, outs := o.outs ++ outs, more := o.more + 1 } else o) })
    | none =>
      if x.c.replay && condLanes x.g en outs != 0 then raise s x (nonfiniteTrap x sp.wtype (condLanes x.g en outs) outs) else
      let fl := flagSel x.c.clause fs
      let o := laneOp s x sp.wtype fl outs
      modGrp (freshId s).2 x.c.wg x.c.grp (fun g =>
        let g1 := { flagInc g fl with ops := g.ops ++ [o] }
        if en = 0 then advanceGrp x.c g1 else advanceHold x.c g1)

/-- A lane word (R153): `f` gives the results of the lanes of ACTIVE, every source read before any write. -/
def laneWord (s : State) (sp : LaneSpec) (f : State → Ctx → List LaneOut) : Host.Outcome State Fault Refusal :=
  withCtx s sp.g fun x =>
    match sp.ll with
    | some fs =>
      if flagFull x.g (flagSel x.c.clause fs) then s
      else withSources s x sp.srcs fun s => checkedWord s x sp.queue (replayEntry s x sp.srcs (f s x)) fun s => laneFinish s x sp (f s x)
    | none => withSources s x sp.srcs fun s => checkedWord s x sp.queue (replayEntry s x sp.srcs (f s x)) fun s => laneFinish s x sp (f s x)

/-- The results of each lane of ACTIVE by one function. -/
def perLane (f : State → Ctx → Nat → LaneOut) (s : State) (x : Ctx) : List LaneOut := (lanesOf x.act).map (f s x)

/-- The spec of a word that meets no condition and is not long-latency. -/
def plainSpec (g : BitVec 3) (srcs : List Src) : LaneSpec := { g := g, srcs := srcs, wtype := 0, ll := none, queue := false }

/-- Registers an operand of a type covers. -/
def nTy (ty : Nat) : Nat := if tyPair ty then 2 else 1

/-! ## Palette reads (R72, R206) -/

/-- Bytes of the launch's palette window at a core: zero at and beyond PALLEN. -/
def palRead (s : State) (x : Ctx) (o n : Nat) : List (Byte × Bool) :=
  let win := (assoc? x.l.palettes (coreOf s x.w)).getD []
  (List.range n).map (fun i => let b := (o + i) % 2 ^ 32; if b < x.l.pallen then smGet win b (0, false) else (0, false))

end Sys2Proof.Machine
end

