-- ==== Sys2Proof/Machine/Mem.lean ====
section
/-! DEFINITION. The MEM words and SLD (R202-R216): where each lane's access leads (R187, R188), the checks at issue (R189,
R190), translation and the operand log (R193, R195), and the pending operation that performs the access. -/
namespace Sys2Proof.Machine

/-! ## Where a lane's access leads -/

/-- What a memory word is. -/
structure MemForm where
  kind : OpKind
  /-- By byte offset (LDX, STX). -/
  byOff : Bool
  canvas : Bool
  scalar : Bool
  /-- Returns old values. -/
  ret : Bool

/-- One lane's access: the bytes of its value that exist, with their addresses. -/
structure LanePlan where
  lane : Nat
  bytes : List (Nat × Nat)
  oob : Bool
  oobAt : Int
  /-- Canvas address, and the target's identifier where the address passes R188. -/
  addr : Nat
  tgt : Option Nat
  data : List Byte

def memW (w : FmtM) : Nat := 2 ^ w.sz.toNat

/-- Bytes of DATA: the value, and behind it the compare value of .cas (R52, R205); a literal in a 64-bit DATA is widened with zeros
(log 117). -/
def memData (s : State) (x : Ctx) (f : MemForm) (w : FmtM) (l : Nat) : List Byte :=
  let n := memW w
  let reg := fun k => (regWord x.g w.data.code k l).toNat
  if f.kind == .load then []
  else if f.kind != .store && w.aop = 9 then
    (if n = 8 then natToBytes 4 (reg 2) ++ natToBytes 4 (reg 3) ++ natToBytes 4 (reg 0) ++ natToBytes 4 (reg 1)
     else natToBytes n (reg 1) ++ natToBytes n (reg 0))
  else if n = 16 then (List.range 4).flatMap (fun k => natToBytes 4 (reg k))
  else natToBytes n (readInt s x w.data (if n = 8 then 64 else 32) false l)

def memOff (w : FmtM) : Int := toSigned 16 w.off.toNat

/-- The plan of a lane for a buffer word. -/
def planBuf (s : State) (x : Ctx) (f : MemForm) (w : FmtM) (l : Nat) : LanePlan :=
  let r := getB x.g w.buf.toNat
  let n := memW w
  if f.byOff then
    let o := (readInt s x w.idx 64 false l : Int) + memOff w
    { lane := l, bytes := offBytes r o n, oob := !offIn r o n, oobAt := o, addr := 0, tgt := none, data := memData s x f w l }
  else
    let i := (readN s x w.idx l : Int) + memOff w
    let es := if f.kind == .load || f.kind == .store then elemsOf r i n else [i]
    let out := es.filter (fun e => !elemIn r e)
    { lane := l, bytes := elemBytes r i (if es.length = 1 then min n (recE r) else n), oob := !out.isEmpty, oobAt := out.headD i, addr := 0, tgt := none,
      data := memData s x f w l }

/-- A canvas address (R188). -/
def canvasAddr (s : State) (x : Ctx) (w : FmtM) (l : Nat) : Nat := wrapNat 32 ((readN s x w.idx l : Int) + memOff w)

def planCv (s : State) (x : Ctx) (f : MemForm) (w : FmtM) (l : Nat) : LanePlan :=
  let a := canvasAddr s x w l
  let n := memW w
  match canvasAt s x.l x.w a n with
  | none => { lane := l, bytes := [], oob := false, oobAt := 0, addr := a, tgt := none, data := memData s x f w l }
  | some t => { lane := l, bytes := (List.range n).map (fun j => (j, t.2 + j)), oob := false, oobAt := 0, addr := a, tgt := some t.1.id,
                data := memData s x f w l }

def planOf (s : State) (x : Ctx) (f : MemForm) (w : FmtM) (l : Nat) : LanePlan :=
  if f.canvas then planCv s x f w l else planBuf s x f w l

/-- Lanes for which the word computes: one for a scalar load, which is an access of every lane of ACTIVE (R293). -/
def memLanes (x : Ctx) (f : MemForm) : LMask :=
  if f.scalar then (match lowestLane x.act with | none => 0 | some l => laneBit l) else x.act

/-! ## The checks at issue (R189) -/

def plansIn (ps : List LanePlan) (f : LanePlan → Bool) : LMask := ps.foldl (fun m p => if f p then m ||| laneBit p.lane else m) 0
/-- Confirmed lanes of an issue that acts for the group. -/
def sureLanes (x : Ctx) : LMask := x.act &&& x.g.counted

/-- An access that may trap: a counted lane's, and a scalar load's unless helper lanes alone are ACTIVE (R116). -/
def sureAcc (x : Ctx) (f : MemForm) (p : LanePlan) : Bool := if f.scalar then sureLanes x != 0 else hasLane x.g.counted p.lane

/-- Lanes of a trap: all counted lanes of ACTIVE for a scalar load, whose one access is every lane's (R189, R293). -/
def trapLanes (x : Ctx) (f : MemForm) (ps : List LanePlan) (t : LanePlan → Bool) : LMask :=
  if f.scalar then (if ps.any t then sureLanes x else 0) else plansIn ps t

def planAt (f : MemForm) (ps : List LanePlan) (m : LMask) : Option LanePlan :=
  if f.scalar then ps.head? else (lowestLane m).bind (fun l => ps.find? (fun p => p.lane == l))

/-- The lock that a lane's byte conflicts with, and the address of the first such byte (R254). -/
def byteLock (s : State) (x : Ctx) (f : MemForm) (p : LanePlan) : Option (Lock × Nat) :=
  let die := if f.canvas then (match p.tgt.bind (findWg s) with | some t => dieOf s t.lcore | none => 0) else dieOf s x.w.lcore
  let sp := match p.tgt with | some t => LockSpace.canvas t | none => LockSpace.global x.l.part
  (p.bytes.findSome? (fun b => (lockHit s x.l.id die sp b.2 1 (f.kind != .load)).map (fun k => (k, b.2)))).map
    (fun e => (e.1, if f.canvas then p.addr else e.2))

/-- The trap that the confirmed lanes of the word meet first in the order of R189. -/
def memTrap (s : State) (x : Ctx) (f : MemForm) (w : FmtM) (ps : List LanePlan) : Option Trap :=
  let r := getB x.g w.buf.toNat
  let sure := sureAcc x f
  let atomic := f.kind != .load && f.kind != .store
  let slot := w.buf.toNat
  let ro := if f.kind != .load && !f.canvas && recRdonly r then trapLanes x f ps (fun p => sure p && !p.bytes.isEmpty) else 0
  let big := !f.canvas && atomic && decide (recE r < memW w) && ps.any sure
  let oob := if !f.canvas && recOobt r then trapLanes x f ps (fun p => sure p && p.oob) else 0
  let cv := if f.canvas then trapLanes x f ps (fun p => sure p && p.tgt.isNone) else 0
  let hz := trapLanes x f ps (fun p => sure p && (byteLock s x f p).isSome)
  let mk := fun (k : TrapKind) (m : LMask) (a i : Nat) => some { Trap.at x.c k 0 m with addr := a, info := i }
  if ro != 0 then mk .readOnlyBuffer ro (match planAt f ps ro with | some p => (p.bytes.headD (0, 0)).2 | none => 0) slot
  else if big then mk .accessSize x.act 0 slot
  else if oob != 0 then mk .outOfBounds oob (match planAt f ps oob with | some p => wrapNat 64 p.oobAt | none => 0) slot
  else if cv != 0 then mk .canvasBounds cv (match planAt f ps cv with | some p => p.addr | none => 0) 0
  else if hz != 0 then
    match (planAt f ps hz).bind (byteLock s x f) with
    | some e => mk .rangeHazard hz e.2 ((if e.1.write then 1 else 0) + (if f.canvas then 2 else 0))
    | none => none
  else none

/-- Some confirmed lane is out of bounds, so the slot's sticky bit is set (R190). -/
def setsSticky (x : Ctx) (f : MemForm) (ps : List LanePlan) : Bool :=
  !f.canvas && ps.any (fun p => sureAcc x f p && p.oob)

def setSticky (n : Nat) (g : Group) : Group := { g with oob := g.oob ||| BitVec.ofNat 16 (2 ^ n) }

/-! ## Pieces and their translation -/

/-- Helper lanes store nothing, and load zero where a counted lane would trap (R116). -/
def planActs (s : State) (x : Ctx) (f : MemForm) (w : FmtM) (p : LanePlan) : Bool :=
  sureAcc x f p
    || (f.kind == .load && !(p.oob && recOobt (getB x.g w.buf.toNat)) && (byteLock s x f p).isNone)

/-- A piece before translation. -/
def pieceAcc (f : MemForm) (p : LanePlan) (e : Nat × Nat × Nat) : Acc :=
  { lane := p.lane, off := e.1, len := e.2.1, va := if f.canvas then 0 else e.2.2,
    loc := (match p.tgt with | some t => .canvas t e.2.2 | none => .global 0),
    data := if f.kind == .load then [] else if f.kind == .store then slice p.data e.1 e.2.1 else p.data,
    got := [], st := .todo }

def planAccs (f : MemForm) (p : LanePlan) : List Acc := (groupPieces p.bytes).map (pieceAcc f p)

/-- Translation of the pieces of a buffer word, in order: each with its place, or faulted. -/
def placeAccs (die part : Nat) (wr : Bool) (s : State) : List Acc → List Acc × State
  | [] => ([], s)
  | a :: r =>
    match translateFor s die part a.va wr with
    | (none, s1) => let t := placeAccs die part wr s1 r; ({ a with st := .unlogged } :: t.1, t.2)
    | (some p, s1) =>
      let t := placeAccs die part wr s1 r
      ({ a with loc := match p.peer with | some k => Loc.peer k p.pa | none => Loc.global p.pa } :: t.1, t.2)

/-- Lines of 128 bytes of buffers that the word's pieces touch; canvas accesses are no requests (R191). -/
def newLines (as : List Acc) : Nat := (dedupNat ((as.filter (fun a => isGlobal a.loc)).map (fun a => a.va / 128))).length

/-! ## The pending operation -/

def memOp (s : State) (x : Ctx) (f : MemForm) (w : FmtM) (as : List Acc) (fl : Option Nat) (split : Bool) : Op :=
  { id := s.nextId, kind := f.kind, flag := fl, quads := x.c.quads, lanes := x.act, pc := x.c.pc, hdr := x.c.clause.hdr, next := x.c.next,
    accs := as, dst := w.d.toNat, scalar := f.scalar, width := memW w, sx := w.sx, aop := w.aop.toNat, ret := f.ret, accepted := false,
    outs := [], wtype := 0, split := split, retried := false, die := dieOf s x.w.lcore, skip := [], more := 0 }

/-- Slots that take no bytes from memory are written at issue (R192). -/
def emptySlots (o : Op) (g : Group) : Group :=
  ((slotLanes o).flatMap (fun l => (List.range (slotsOf o.width)).map (fun k => (l, k)))).foldl (fun g e =>
    if (slotAccs o e.1 e.2).isEmpty then
      (if o.scalar then putS g (o.dst + e.2) 0 else writeV g o.id (o.dst + e.2) e.1 { val := 0, poison := false })
    else g) g

/-- The gang's live quads become a split (R214). -/
def openSplit (x : Ctx) (id : Nat) (fl : Option Nat) (g : Group) : Group :=
  { g with split := some { quads := qmaskOf (fun q => hasQuad x.c.quads q && (quadAt g q).live != 0), pc := x.c.pc, op := id, flag := fl } }

/-- The word's operation stands in its group; a word with no access completes at once. -/
def addOp (s : State) (x : Ctx) (o : Op) : State :=
  modGrp (freshId s).2 x.c.wg x.c.grp (fun g =>
    let g1 := if o.kind == .load || o.ret then emptySlots o g else g
    let g2 := if o.accs.isEmpty then g1 else { flagInc g1 o.flag with ops := g1.ops ++ [o] }
    advanceGrp x.c (if o.split then openSplit x o.id o.flag g2 else g2))

/-! ## Issue of a memory word -/

def memSrcs (f : MemForm) (w : FmtM) : List Src :=
  let n := memW w
  let dn := if f.kind == .load then 0 else if f.kind != .store && w.aop = 9 then (if n = 8 then 4 else 2) else if n = 16 then 4 else if n = 8 then 2 else 1
  [srcOf 3 w.idx (if f.byOff then 2 else 1), srcOf 3 w.data dn]

/-- The word cannot issue yet: its flag is full, a fault of its group is open, or the core's request budget is (R39, R191, R195). -/
def memWaits (s : State) (x : Ctx) (fl : Option Nat) (as : List Acc) : Bool :=
  flagFull x.g fl || heldByFault x.g || decide (1024 < coreRequests s (coreOf s x.w) + newLines as)

/-- Entries of the interval's buffer once a word with these pieces has issued (R330). -/
def bufAfter (x : Ctx) (c : Checked) (f : MemForm) (as : List Acc) : Nat :=
  if f.kind == .store then bufUse x.w c.mark (as.map (fun a => a.va / 64)) 0 else bufUse x.w c.mark [] as.length

/-- A word whose writes the interval's buffer takes (R201). -/
def fillsBuf (f : MemForm) : Bool := f.kind != .load && !f.ret && !f.canvas

/-- Rows of the interval's storage log once a word with these pieces, and every pending one, has written (R331). -/
def rowsAfter (x : Ctx) (c : Checked) (as : List Acc) : Nat :=
  let rows := fun (as : List Acc) => as.filterMap (fun a => match a.loc with | .canvas t b => if t = x.c.wg then some (b / 512) else none | _ => none)
  (dedupNat (c.stLog.map (fun e => e.row) ++ rows as
    ++ x.w.groups.flatMap (fun g => g.ops.flatMap (fun o => if o.kind == .load then [] else rows (o.accs.filter (fun a => a.st == .todo)))))).length

/-- A canvas word whose writes the storage log takes (R331). -/
def logsRows (f : MemForm) : Bool := f.kind != .load && f.canvas

/-- A store of a CHECKED workgroup that would overfill its buffer, of 512 entries, or its storage log, of 120 rows, waits for a cut
(R330, R331). -/
def bufferFull (x : Ctx) (f : MemForm) (as : List Acc) : Bool :=
  match x.w.chk with
  | none => false
  | some c => (fillsBuf f && decide (512 < bufAfter x c f as)) || (logsRows f && decide (120 < rowsAfter x c as))

/-- A word after which a cut is due (R330, R331). -/
def bufferDue (x : Ctx) (c : Checked) (f : MemForm) (as : List Acc) : Bool :=
  (fillsBuf f && decide (384 < bufAfter x c f as)) || (logsRows f && decide (90 < rowsAfter x c as))

/-- A word that leaves more than 384 entries, or 90 rows, calls for a cut at the next word boundary (R330, R331). -/
def bufferHigh (x : Ctx) (f : MemForm) (as : List Acc) (s : State) : State :=
  match x.w.chk with
  | none => s
  | some c => if bufferDue x c f as
    then modWg s x.c.wg (fun w => { w with chk := w.chk.map (fun c => { c with cutDue := true }) }) else s

/-- The piece lies with a peer out of reach (R370). -/
def goneAcc (s : State) (x : Ctx) (a : Acc) : Bool := match a.loc with | .peer k _ => peerGone s x.l.part k && a.st != .unlogged | _ => false

/-- Peer pieces of a word whose peer is out of reach: the trap PEER_LOST, of every counted lane for a scalar load (R293, R370). -/
def peerTrap (s : State) (x : Ctx) (f : MemForm) (as : List Acc) : Option Trap :=
  match as.find? (goneAcc s x) with
  | none => none
  | some a =>
    let k := match a.loc with | .peer k _ => k | _ => 0
    let m := if f.scalar then sureLanes x else as.foldl (fun m b => if goneAcc s x b then m ||| laneBit b.lane else m) 0
    some { Trap.at x.c .peerLost 0 m with addr := a.va, info := k }

/-- A piece of an access that may trap. -/
def surePiece (x : Ctx) (f : MemForm) (a : Acc) : Bool := if f.scalar then sureLanes x != 0 else hasLane x.g.counted a.lane

/-- Pieces that are performed: a helper lane's load that would fault, or lies with a peer out of reach, is zero as a whole (R116). -/
def actPieces (s : State) (x : Ctx) (f : MemForm) (as : List Acc) : List Acc :=
  let zero := as.foldl (fun m a => if !surePiece x f a && (a.st == .unlogged || goneAcc s x a) then m ||| laneBit a.lane else m) (0 : LMask)
  as.filter (fun a => surePiece x f a || !hasLane zero a.lane)

/-- LDX with SPL, no split being open (R214). -/
def opensSplit (x : Ctx) (f : MemForm) (w : FmtM) : Bool := f.byOff && f.kind == .load && w.spl && x.g.split.isNone

/-- A memory word after its poison check: the checks of R189, translation, and its operation. `fin` goes on with the
operation's identifier once it stands. -/
def memGo (s : State) (x : Ctx) (f : MemForm) (w : FmtM) (fl : Option Nat) (fin : State → Nat → Res) : Res :=
  let ps := (lanesOf (memLanes x f)).map (planOf s x f w)
  let sticky := setsSticky x f ps
  let s1 := if sticky then modGrp s x.c.wg x.c.grp (setSticky w.buf.toNat) else s
  match memTrap s x f w ps with
  | some t => .trap (if predicted x then s else s1) t
  | none =>
    let as0 := (ps.filter (planActs s x f w)).flatMap (planAccs f)
    if predicted x && sticky then .ok (stopSide s x.c)
    else if memWaits s x fl as0 then .wait
    else if bufferFull x f as0 then .ok (modWg s x.c.wg (fun w => { w with chk := w.chk.map (fun c => { c with cutDue := true }) }))
    else
      let wr := f.kind != .load
      let r := if f.canvas then (as0, s1) else placeAccs (dieOf s x.w.lcore) x.l.part wr s1 as0
      let as := actPieces s x f r.1
      let hit := as.any (fun a => a.st == .unlogged)
      match peerTrap s x f (as.filter (surePiece x f)) with
      | some t => .trap s1 t
      | none =>
        if predicted x && hit then .ok (stopSide s x.c)
        else
          let splits := opensSplit x f w
          let o := memOp r.2 x f w as fl splits
          fin (bufferHigh x f as (logGrp x.l.part x.l.tag.toNat x.c.wg x.c.grp (addOp r.2 x o))) o.id

/-- A memory word: an empty ACTIVE completes at once (R202). -/
def memWord (s : State) (w : FmtM) (f : MemForm) : Host.Outcome State Fault Refusal :=
  withCtx s w.g fun x =>
    let fl := flagSel x.c.clause w.fs
    if flagFull x.g fl then s
    else if x.act = 0 then
      (if opensSplit x f w then modGrp (freshId s).2 x.c.wg x.c.grp (fun g => advanceGrp x.c (openSplit x s.nextId fl g)) else advance s x.c)
    else withSources s x (memSrcs f w) fun s => closeRes s x (memGo s x f w fl (fun s1 _ => .ok s1))

def execLd (w : FmtM) (s : State) := memWord s w { kind := .load, byOff := false, canvas := false, scalar := false, ret := false }
def execLdx (w : FmtM) (s : State) := memWord s w { kind := .load, byOff := true, canvas := false, scalar := false, ret := false }
def execSld (w : FmtM) (s : State) := memWord s w { kind := .load, byOff := false, canvas := false, scalar := true, ret := false }
def execSt (w : FmtM) (s : State) := memWord s w { kind := .store, byOff := false, canvas := false, scalar := false, ret := false }
def execStx (w : FmtM) (s : State) := memWord s w { kind := .store, byOff := true, canvas := false, scalar := false, ret := false }
def execLdm (w : FmtM) (s : State) := memWord s w { kind := .load, byOff := false, canvas := true, scalar := false, ret := false }
def execStm (w : FmtM) (s : State) := memWord s w { kind := .store, byOff := false, canvas := true, scalar := false, ret := false }
def execAtomn (w : FmtM) (s : State) := memWord s w { kind := .atom, byOff := false, canvas := false, scalar := false, ret := false }
def execRed (w : FmtM) (s : State) := memWord s w { kind := .red, byOff := false, canvas := false, scalar := false, ret := false }

/-! ## Atomics that a cut precedes (R201, R299) -/

/-- In a CHECKED launch the atomic is performed in the cut: its old values are written there. Lines of it that fault are logged
and replayed in the new interval, which the word belongs to no more (R195, R329); one at a stalled place waits. -/
def atomNow (x : Ctx) (s : State) (id : Nat) : Res :=
  match findGrp s x.c.wg x.c.grp, findOp s x.c.wg x.c.grp id with
  | some g, some o =>
    if o.accs.any (fun a => isPeer a.loc) then .ok s
    else if opStalled s x.c.wg g id then .wait
    else .ok (deliverWhere (fun _ => true) (performAll s x.c.wg x.c.grp id) x.c.wg x.c.grp id)
  | _, _ => .ok s

/-- ATOM and ATOMM. -/
def atomWord (s : State) (w : FmtM) (f : MemForm) : Host.Outcome State Fault Refusal :=
  withCtx s w.g fun x =>
    let fl := flagSel x.c.clause w.fs
    if flagFull x.g fl then s
    else if x.act = 0 then advance s x.c
    else withSources s x (memSrcs f w) fun s =>
      if x.w.chk.isNone then closeRes s x (memGo s x f w fl (fun s1 _ => .ok s1))
      else withCut s x fun s => memGo s x f w fl (atomNow x)

def execAtom (w : FmtM) (s : State) := atomWord s w { kind := .atom, byOff := false, canvas := false, scalar := false, ret := true }
def execAtomm (w : FmtM) (s : State) := atomWord s w { kind := .atom, byOff := false, canvas := true, scalar := false, ret := true }

/-! ## LDC, PREF, BCHK, PROBE -/

/-- LDC (R206): palette bytes, a slot with a poisoned byte a free value with poison (R72). -/
def ldcSlot (s : State) (x : Ctx) (w : FmtM) (l k : Nat) : Slot × State :=
  let n := memW w
  let o := wrapNat 32 ((readN s x w.idx l : Int) + memOff w) / n * n
  let bs := palRead s x (o + 4 * k) (min 4 n)
  if anyBad bs then (let r := freshWord s; ({ val := r.1, poison := true }, r.2))
  else
    let v := bytesToNat (bs.map Prod.fst)
    ({ val := if n < 4 ∧ w.sx then wordOfInt (toSigned (8 * n) v) else wordOf v, poison := false }, s)

def execLdc (w : FmtM) (s : State) : Host.Outcome State Fault Refusal :=
  withCtx s w.g fun x =>
    withSources s x [srcOf 3 w.idx 1] fun s =>
      let slots := (lanesOf x.act).flatMap (fun l => (List.range (slotsOf (memW w))).map (fun k => (l, k)))
      let s1 := slots.foldl (fun s e =>
        let r := ldcSlot s x w e.1 e.2
        modGrp r.2 x.c.wg x.c.grp (fun g => writeV g s.nextId (w.d.toNat + e.2) e.1 r.1)) s
      advance s1 x.c

/-- PREF (R210): no value changes and no trap of the access is taken; a poisoned IDX is consumed as by any word (R200, log 138). -/
def execPref (w : FmtM) (s : State) : Host.Outcome State Fault Refusal :=
  withCtx s w.g fun x => withSources s x [srcOf 3 w.idx 1] fun s => advance s x.c

/-- BCHK (R212). -/
def execBchk (w : FmtM) (s : State) : Host.Outcome State Fault Refusal :=
  withCtx s w.g fun x =>
    withSources s x [srcOf 3 w.idx 1] fun s =>
      let r := getB x.g w.buf.toNat
      let inb := fun l => (elemsOf r ((readN s x w.idx l : Int) + memOff w) (memW w)).all (elemIn r)
      modGrp s x.c.wg x.c.grp (fun g => advanceGrp x.c ((lanesOf x.act).foldl (fun g l => writeP g s.nextId w.d.toNat l (inb l)) g))

/-- A FAULT that the page met with no valid leaf is unanswered: a migration may cover it, up to the handler's reply (R198, R213). -/
def migrating (s : State) (part page : Nat) : Bool := s.faults.any (fun f => f.part == part && f.page == page && f.absent)

/-- The status of PROBE for a lane (R213). -/
def probeBits (s : State) (x : Ctx) (w : FmtM) (l : Nat) : Nat :=
  let r := getB x.g w.buf.toNat
  let i := (readN s x w.idx l : Int) + memOff w
  if !elemIn r i then 0
  else
    let va := recBase r + swz (i.toNat * recStride r) (recSwz r)
    let pend := migrating s x.l.part (pageOf va)
    match (translate s (dieOf s x.w.lcore) x.l.part va).1 with
    | none => 1 + (if pend then 64 else 0)
    | some p =>
      1 + 2 + (if p.wr then 4 else 0) + (if p.big then 8 else 0) + (if p.span then 16 else 0) + (if p.peer.isSome then 32 else 0)
        + (if pend || (p.peer.isNone && windowPa s p.pa) then 64 else 0)

/-- PROBE (R213): long-latency; its status is read at one instant and written when it completes. -/
def execProbe (w : FmtM) (s : State) : Host.Outcome State Fault Refusal :=
  withCtx s w.g fun x =>
    let fl := flagSel x.c.clause w.fs
    if flagFull x.g fl then s
    else withSources s x [srcOf 3 w.idx 1] fun s =>
      let outs := (lanesOf x.act).map (fun l => outV l w.d.toNat (wordOf (probeBits s x w l)))
      if outs.isEmpty then advance s x.c
      else modGrp (freshId s).2 x.c.wg x.c.grp (fun g =>
        let o := { laneOp s x 0 fl outs with kind := .crd }
        advanceGrp x.c { flagInc g fl with ops := g.ops ++ [o] })

/-! ## Words that wait at their place for a record (R80, R211, R240) -/

/-- While such a word waits it counts on its flag by an operation with nothing in it. -/
def isWaitOp (x : Ctx) (o : Op) : Bool := o.kind == .wait && o.pc == x.c.pc && o.quads &&& x.c.quads != 0
def clearWait (x : Ctx) (g : Group) : Group :=
  { (g.ops.filter (isWaitOp x)).foldl (fun g o => flagDec g o.flag) g with ops := g.ops.filter (fun o => !isWaitOp x o) }

/-- The word's gang stays at it until the fault for a page is answered; while its die's operand log is full it stands there and tries
again (R13, R195, log 144). -/
def waitPage (s : State) (x : Ctx) (fl : Option Nat) (va how : Nat) : State :=
  if logFull s (dieOf s x.w.lcore) then s
  else raiseFault (modGrp (freshId s).2 x.c.wg x.c.grp (fun g =>
    let o := { laneOp s x 0 fl [] with kind := .wait }
    stayGrp x.c (.fault (pageOf va)) { flagInc g fl with ops := g.ops ++ [o] })) x.l.part va how x.l.tag.toNat

/-- The reply for a page that the word waited on was a refusal; noted pages are forgotten when the word ends. -/
def pageRefused (x : Ctx) (va : Nat) : Bool := (quadAt x.g ((quadsOf x.c.quads).headD 0)).refused.contains (pageOf va)
def forgetPages (x : Ctx) (g : Group) : Group := modQuads g x.c.quads (fun q => { q with refused := [] })

/-- A word that may wait this way sees its group without the mark of its wait. -/
def withWait (s : State) (gd : BitVec 3) (f : State → Ctx → State) : Host.Outcome State Fault Refusal :=
  withCtx s gd fun x => f (modGrp s x.c.wg x.c.grp (clearWait x)) { x with g := clearWait x x.g }

/-! ## BREC (R211) -/

/-- 128 bits nothing determines. -/
def freeRec (s : State) : BitVec 128 × State :=
  let a := freshWord s
  let b := freshWord a.2
  let c := freshWord b.2
  let d := freshWord c.2
  (d.1 ++ c.1 ++ b.1 ++ a.1, d.2)

/-- The slot takes a record, or the word takes BAD_RECORD; issued for helper lanes alone it takes no trap, and reads zero where it
would (R116). -/
def brecPut (s : State) (x : Ctx) (n va : Nat) (r : BitVec 128) : State :=
  if recBad r && sureLanes x = 0 then modGrp s x.c.wg x.c.grp (fun g => advanceGrp x.c (putB (forgetPages x g) n 0))
  else if recBad r then raise (modGrp s x.c.wg x.c.grp (forgetPages x)) x { Trap.at x.c .badRecord 0 (sureLanes x) with addr := va }
  else modGrp s x.c.wg x.c.grp (fun g => advanceGrp x.c (putB (forgetPages x g) n r))

/-- The table entry at a virtual address is read. -/
def brecRead (s : State) (x : Ctx) (fl : Option Nat) (n va : Nat) : State :=
  match translateFor s (dieOf s x.w.lcore) x.l.part va false with
  | (none, s1) =>
    if sureLanes x = 0 then brecPut s1 x n va 0
    else if pageRefused x va then
      raise (modGrp s1 x.c.wg x.c.grp (forgetPages x)) x { Trap.at x.c .pageFault 0 (sureLanes x) with addr := va, resume := x.c.next }
    else waitPage s1 x fl va 0
  | (some p, s1) =>
    match p.peer with
    | some k =>
      if peerGone s x.l.part k && sureLanes x = 0 then brecPut s1 x n va 0
      else if peerGone s x.l.part k then raise s1 x { Trap.at x.c .peerLost 0 (sureLanes x) with addr := va, info := k }
      else if peerAhead x.g.ops x.act k then s1
      else (let r := freeRec s1; brecPut r.2 x n va r.1)
    | none =>
      if stalledAt s1 x.c.wg (.global p.pa) || prevStalled s1 x.c.wg x.g s1.nextId then s1
      else
        let s2 := yieldServe (performBefore s1 x.c.wg x.c.grp s1.nextId x.act) [p.pa]
        let bs := loadBytes s2 x.c.wg (.global p.pa) 16
        if anyBad bs then (let r := freeRec s2; brecPut r.2 x n va r.1)
        else brecPut s2 x n va (BitVec.ofNat 128 (bytesToNat (bs.map Prod.fst)))

/-- A WRITE lock over the table entry, and the first byte it covers (R189 row 5, R254). -/
def brecLock (s : State) (x : Ctx) (va : Nat) : Option Nat :=
  (List.range 16).findSome? (fun i =>
    (lockHit s x.l.id (dieOf s x.w.lcore) (.global x.l.part) (va + i) 1 false).map (fun _ => va + i))

def execBrec (w : FmtM) (s : State) : Host.Outcome State Fault Refusal :=
  withWait s w.g fun s x =>
    let fl := flagSel x.c.clause w.fs
    if flagFull x.g fl then s
    else if x.act = 0 then advance s x.c
    else withSources s x [srcOf 3 w.idx 1] fun s =>
      let e := (readUN s x w.idx : Int) + memOff w
      let n := w.d.toNat % 16
      let va := x.l.btab.toNat + 16 * e.toNat
      if e < 0 ∨ (x.l.bcnt : Int) ≤ e then brecPut s x n 0 0
      else match brecLock s x va with
        | some a => if sureLanes x = 0 then brecPut s x n va 0 else raise (modGrp s x.c.wg x.c.grp (forgetPages x)) x { Trap.at x.c .rangeHazard 0 (sureLanes x) with addr := a, info := 1 }
        | none => if heldByFault x.g then s else brecRead s x fl n va

/-! ## RJN (R216) -/

/-- A gang of an open split holds at its word until the split closes there; none where the gang is in no split. -/
def holdSplit (s : State) (x : Ctx) : Option State :=
  if (quadsOf x.c.quads).any (inSplit x.g) then
    some (modGrp s x.c.wg x.c.grp (fun g =>
      joinSplit (modQuads g x.c.quads (fun q => { q with st := .holdRjn, pc := x.c.pc, clause := some x.c.clause }))))
  else none

def execRjn (w : FmtY) (s : State) : Host.Outcome State Fault Refusal :=
  withCtx s w.g fun x => (holdSplit s x).getD (advance s x.c)

end Sys2Proof.Machine
end

