-- ==== Sys2Proof/Machine/Streams.lean ====
section
/-! DEFINITION. Sparse streams (R264-R267): the gap code, the stream registers and the stream words. -/
namespace Sys2Proof.Machine

/-! ## Gap code (R264, R265) -/

/-- The next listed position of a stream whose metadata bytes are `b`; `prev` is the position listed last. -/
def streamNext (b : Nat → Nat) (q : Stream) (prev : Option Nat) : Stream :=
  let c := q.cur.toNat
  let len := q.len.toNat
  let goal := fun (gap n : Nat) =>
    let pos := match prev with | none => gap | some p => p + 1 + gap
    if q.limit.toNat ≤ pos then { q with cur := wordOf (c + n), st := .ended }
    else { q with cur := wordOf (c + n), pos := wordOf pos, st := .opened }
  if len ≤ c then { q with st := .ended }
  else if b c < 255 then goal (b c) 1
  else if len < c + 4 then { q with st := .endedErr }
  else goal (b (c + 1) + 256 * b (c + 2) + 65536 * b (c + 3)) 4

/-- A stream opened on its first position. -/
def streamOpen (b : Nat → Nat) (addr : DWord) (limit len : Word) : Stream :=
  streamNext b { st := .opened, addr := addr, len := len, limit := limit, cur := 0, pos := 0 } none

/-- Listed positions below `target`, the stream moved past them (R267 SADV). -/
def streamAdvance (b : Nat → Nat) (target : Nat) : Nat → Stream → List Nat × Stream
  | 0, q => ([], q)
  | n + 1, q =>
    if q.st = .opened ∧ q.pos.toNat < target then
      let r := streamAdvance b target n (streamNext b q (some q.pos.toNat))
      (q.pos.toNat :: r.1, r.2)
    else ([], q)

/-- Metadata bytes that a move from `p` to `q` reads: offset and count. -/
def streamReads (p q : Stream) : Nat × Nat :=
  (p.cur.toNat, q.cur.toNat - p.cur.toNat + (if q.st = .endedErr && p.st != .endedErr then 1 else 0))

/-! ## Canvas metadata (R266) -/

/-- A range of canvas bytes by R188, without alignment. -/
def canvasRange (s : State) (x : Ctx) (a n : Nat) : Option (Workgroup × Nat) :=
  match canvasAt s x.l x.w a 1 with
  | some t => if x.l.cvb < t.2 + n then none else some t
  | none => none

/-- A metadata byte; a poisoned one is a free value (log 12). -/
def metaByte (s : State) (t : Workgroup) (boff i : Nat) : Nat :=
  if winBad t (boff + i) then (Config.freeWord (s.freeCtr + i)).toNat % 256 else (smGet t.win (boff + i) 0).toNat

/-- Free values that reading `n` metadata bytes used are passed. -/
def metaDone (s : State) (t : Workgroup) (boff n : Nat) : State :=
  if (List.range n).any (fun i => winBad t (boff + i)) then { s with freeCtr := s.freeCtr + n } else s

/-- RANGE_HAZARD of a canvas access by the group: `n` bytes at BOFF of a workgroup, canvas address `a` (R189 row 5). -/
def groupHazard (s : State) (x : Ctx) (t : Workgroup) (boff n a : Nat) (write : Bool) : Option Trap :=
  if n = 0 then none
  else match lockHit s x.l.id (dieOf s t.lcore) (.canvas t.id) boff n write with
    | none => none
    | some k => some { Trap.at x.c .rangeHazard 0 (sureLanes x) with addr := a + (max boff k.lo - boff), info := (if k.write then 1 else 0) + 2 }

/-- A stream read: `f` computes listed positions and the new register from the metadata; `fin` puts it into place. -/
def streamRead (s : State) (x : Ctx) (a n : Nat) (old : Stream) (f : (Nat → Nat) → List Nat × Stream) (fin : State → List Nat × Stream → Res) : Res :=
  if n = 0 then fin s (f (fun _ => 0))
  else match canvasRange s x a n with
  | none => .trap s { Trap.at x.c .canvasBounds 0 (sureLanes x) with addr := a }
  | some (t, boff) =>
    if stalledAt s x.c.wg (.canvas t.id boff) || heldByFault x.g || prevStalled s x.c.wg x.g s.nextId then .wait
    else
      let s1 := performBefore s x.c.wg x.c.grp s.nextId x.act
      match canvasRange s1 x a n with
      | none => .wait
      | some (t1, _) =>
        let q := f (metaByte s1 t1 boff)
        let r := streamReads old q.2
        match groupHazard s1 x t1 (boff + r.1) r.2 (a + r.1) false with
        | some tr => .trap s1 tr
        | none => fin (metaDone s1 t1 boff n) q

/-- A stream word: it does nothing with no counted lane in ACTIVE. -/
def streamWord (s : State) (w : FmtC) (srcs : List Src) (f : State → Ctx → Res) : Host.Outcome State Fault Refusal :=
  withCtx s w.g fun x =>
    if groupAct x = 0 then advance s x.c
    else withSources s x srcs fun s => closeRes s x (f s x)

def setStream (s : State) (x : Ctx) (n : Nat) (q : Stream) : State := modGrp s x.c.wg x.c.grp (fun g => advanceGrp x.c (putQ g n q))

def execSopn (w : FmtC) (s : State) : Host.Outcome State Fault Refusal :=
  streamWord s w [srcOf 0 w.a 1, srcOf 1 w.b 1, srcOf 2 w.c 1] fun s x =>
    let a := readUN s x w.a
    let len := readUN s x w.c
    streamRead s x a len closedStream (fun b => ([], streamOpen b (dwordOf a) (wordOf (readUN s x w.b)) (wordOf len)))
      (fun s q => .ok (setStream s x (w.d.toNat % 8) q.2))

def execSadv (w : FmtC) (s : State) : Host.Outcome State Fault Refusal :=
  streamWord s w [srcOf 0 w.a 1] fun s x =>
    let n := w.d.toNat % 8
    let q := getQ x.g n
    if q.st = .opened ∧ q.pos.toNat < readUN s x w.a then
      streamRead s x q.addr.toNat q.len.toNat q (fun b => streamAdvance b (readUN s x w.a) (q.len.toNat + 1) q)
        (fun s q => .ok (setStream s x n q.2))
    else .ok (advance s x.c)

/-- STND: set in each lane of ACTIVE where the stream is not open. -/
def execStnd (w : FmtC) (s : State) : Host.Outcome State Fault Refusal :=
  streamWord s w [] fun s x =>
    .ok (modGrp s x.c.wg x.c.grp (fun g =>
      advanceGrp x.c (putPMask g w.d.toNat x.act (if (getQ g w.q.toNat).st = .opened then 0 else x.act))))

def execScls (w : FmtC) (s : State) : Host.Outcome State Fault Refusal :=
  streamWord s w [] fun s x =>
    let n := w.d.toNat % 8
    .ok (setStream s x n { getQ x.g n with st := .closed })

def streamCode (q : Stream) : Nat := match q.st with | .closed => 0 | .opened => 1 | .ended => 2 | .endedErr => 3

def execSget (w : FmtC) (s : State) : Host.Outcome State Fault Refusal :=
  streamWord s w [] fun s x =>
    let q := getQ x.g w.q.toNat
    let v : Word := match w.md.toNat with
      | 0 => if q.st = .opened then q.pos else 0xFFFFFFFF
      | 1 => q.cur
      | _ => wordOf (streamCode q)
    .ok (modGrp s x.c.wg x.c.grp (fun g => advanceGrp x.c (putS g w.d.toNat v)))

end Sys2Proof.Machine
end

