-- ==== Sys2Proof/Machine/Canvas.lean ====
section
/-! DEFINITION. Compute banks and their queues (R217-R230), the arithmetic of CMMA (R222-R226), accumulator errors (R234,
R235), and the events of the banks. -/
namespace Sys2Proof.Machine

def modBank (s : State) (wg k : Nat) (f : Bank → Bank) : State := modWg s wg (fun w => { w with banks := modifyAt w.banks k f })
def bankAt (w : Workgroup) (k : Nat) : Option Bank := w.banks[k]?

/-- A compute bank at placement (R219). -/
def bank0 : Bank :=
  { mode := .fill, ts := .empty, fail := .none, tile := [], junk := none, tileBad := [], tfmt := 0, tset := 0, tgen := 0, kt := 0, nt := 0, bound := false, slot := 0,
    acc := [], accPoison := [], resBad := [], queue := [] }

def isCopyEntry (e : QEntry) : Bool := match e with | .copy _ => true | .word _ _ => false
/-- A copy is queued or moving bytes for the bank (R237). -/
def copyAt (b : Bank) : Bool := b.queue.any isCopyEntry

/-! ## Tiles and accumulators (R222, R223) -/

def tileKB (b : Bank) : Nat := if b.tfmt = 2 then 8 else 4
/-- A tile byte; those of an INVALID bank are free values (R219, log 15). -/
def tileByte (b : Bank) (o : Nat) : Nat :=
  match b.junk with
  | none => (smGet b.tile o 0).toNat
  | some c => (Config.freeWord (c + o)).toNat % 256

/-- A bank turns INVALID: its tile bytes are undefined from here on (R219). -/
def spoil (s : State) (wg k : Nat) : State :=
  { modWg s wg (fun w => { w with banks := modifyAt w.banks k (fun b => { b with ts := .invalid, tile := [], junk := some s.freeCtr, tileBad := [] }) }) with
    freeCtr := s.freeCtr + 32768 }

/-- Element (k, n) of the tile. -/
def tileElem (b : Bank) (k n : Nat) : FVal :=
  if b.tfmt = 2 then mxElem 2 (tileByte b (n * 128 + k / 2) / (if k % 2 = 0 then 1 else 16))
  else mxElem b.tfmt.toNat (tileByte b (n * 128 + k))
def tileScale (b : Bank) (kb n : Nat) : Nat := tileByte b (0x4000 + n * tileKB b + kb)

def accKey (r n : Nat) : Nat := 128 * r + n
def getAcc (b : Bank) (r n : Nat) : Word := smGet b.acc (accKey r n) 0
def putAcc (b : Bank) (r n : Nat) (x : Word) : Bank := { b with acc := smPut b.acc (accKey r n) x 0 }
def accBad (b : Bank) (r n : Nat) : Bool := smGet b.accPoison (accKey r n) false
def clearAcc (b : Bank) (r n : Nat) : Bank :=
  { b with acc := smPut b.acc (accKey r n) 0 0, accPoison := smPut b.accPoison (accKey r n) false false,
           resBad := smPut b.resBad (accKey r n) false false }

/-! ## One k-block (R225) -/

/-- An element of a captured activation row. -/
def actElem (afmt : Nat) (row : CRow) (k : Nat) : FVal :=
  if afmt = 2 then mxElem 2 ((row.bytes.getD (k / 2) 0).toNat / (if k % 2 = 0 then 1 else 16)) else mxElem afmt (row.bytes.getD k 0).toNat
def actScale (row : CRow) (kb : Nat) : Nat := (row.scales.getD kb 0).toNat

/-- A k-block of the row is a NaN block (R226). -/
def actNan (afmt : Nat) (row : CRow) (kb : Nat) : Bool :=
  actScale row kb == 255 || (List.range 32).any (fun i => fIsNan (actElem afmt row (32 * kb + i)))

/-- p: the block dot product times both scales, as f32 (R225). -/
def blockProduct (afmt : Nat) (row : CRow) (b : Bank) (kb n : Nat) : Nat :=
  let ws := (List.range 32).map (fun i => tileElem b (32 * kb + i) n)
  if actNan afmt row kb || tileScale b kb n == 255 || ws.any fIsNan then fNan 10
  else
    let d := (List.range 32).foldl (fun (acc : FixAcc) i =>
      match actElem afmt row (32 * kb + i), ws.getD i (.fin false 0 0) with
      | .fin n1 m1 e1, .fin n2 m2 e2 => acc.add (xor n1 n2) (m1 * m2) (e1 + e2)
      | _, _ => acc) { q := 0, s := 0 }
    let e : Int := (actScale row kb : Int) + (tileScale b kb n : Int) - 254
    match exactOfFix d with
    | .fin s m q st => (deliver 10 0 false (.fin s m (q + e) st) false false).bits
    | r => (deliver 10 0 false r false false).bits

/-- The column that a tile byte feeds, and the k-block it belongs to (R222). -/
def tileCol (b : Bank) (byte : Nat) : Nat := if byte < 0x4000 then byte / 128 else (byte - 0x4000) / tileKB b
def tileBlk (b : Bank) (byte : Nat) : Nat :=
  if byte < 0x4000 then byte % 128 * (if b.tfmt = 2 then 2 else 1) / 32 else (byte - 0x4000) % tileKB b

/-- Column `n` of an accumulator is poisoned in some rows (R234). -/
def poisonCol (rows : List CRow) (n : Nat) (b : Bank) : Bank :=
  rows.foldl (fun b r => { b with accPoison := smPut b.accPoison (accKey r.lane n) true false }) b

/-- A k-block at a bank, for every row of the word; poisoned tile bytes of the block poison the columns they feed (R234, R327). -/
def blockAt (afmt : Nat) (rows : List CRow) (kb : Nat) (b : Bank) : Bank :=
  (b.tileBad.filter (fun o => tileBlk b o == kb)).foldl (fun a o => poisonCol rows (tileCol b o) a) <| rows.foldl (fun a row => (List.range 128).foldl (fun a n =>
    putAcc a row.lane n (wordOf (addRne 10 (getAcc a row.lane n).toNat (blockProduct afmt row b kb n)))) a) b

/-! ## Residues (R235) -/

/-- Accumulators a word writes or reads at a bank: row and column. -/
def wordAccs (c : CWord) : List (Nat × Nat) :=
  let cols := fun (a n : Nat) => c.rows.flatMap (fun r => (List.range n).map (fun j => (r.lane, a + j)))
  match c.kind with
  | .cmma _ _ => cols 0 128
  | .cacc a n => cols a n
  | .crd _ a n _ _ => cols a n
  | _ => []

/-- Accumulators with a corrupted residue that the word meets are poisoned, one event each; in a CHECKED launch the
interval rolls back instead. `none`: the rollback took place. -/
def residues (s : State) (w : Workgroup) (k : Nat) (b : Bank) (c : CWord) : Option State :=
  let bad := if b.resBad.isEmpty then [] else (wordAccs c).filter (fun e => smGet b.resBad (accKey e.1 e.2) false)
  if bad.isEmpty then some s
  else if w.chk.isSome then none
  else some (bad.foldl (fun s e => monEvent (modBank s w.id k (fun b =>
    { b with accPoison := smPut b.accPoison (accKey e.1 e.2) true false, resBad := smPut b.resBad (accKey e.1 e.2) false false })) (coreOf s w)) s)

/-! ## Performing entries (R229) -/

def findCWord (w : Workgroup) (id : Nat) : Option CWord := w.cwords.find? (fun c => c.id == id)

/-- The interval's first change of a bank logs it (R331). -/
def logBank (s : State) (wg k id : Nat) : State :=
  modWg s wg (fun w => match w.chk, bankAt w k with
    | some c, some b => if c.mark ≤ id && !c.accLog.any (fun e => e.1 == k) then { w with chk := some { c with accLog := c.accLog ++ [(k, b)] } } else w
    | _, _ => w)

/-- A bank has performed its part of a word: the entry leaves its queue; after the last bank the word is over and its flag falls. -/
def partDone (s : State) (wg k id : Nat) : State :=
  let s1 := modWg s wg (fun w => { w with
    banks := modifyAt w.banks k (fun b => { b with queue := b.queue.filter (fun e => qEntryId e != id) }),
    cwords := w.cwords.map (fun c => if c.id = id then { c with left := c.left.filter (fun j => j != k) } else c) })
  match (findWg s1 wg).bind (findCWord · id) with
  | none => s1
  | some c =>
    if c.left.isEmpty then
      modGrp (modWg s1 wg (fun w => { w with cwords := w.cwords.filter (fun c => c.id != id) })) wg c.grp (fun g => flagDec g c.flag)
    else s1

/-- y of CRD: the pattern in the destination type, with its conditions (R226, R245). -/
def crdValue (ty : Nat) (x : Word) : Nat × BitVec 5 :=
  let v := fDecode 10 x.toNat
  if ty = 10 then (x.toNat, condBits false false false false (fNonFinite v))
  else
    let o := fCvt ty 0 false v
    (o.bits, condOf ty o [v] &&& 0b11100#5)

/-- The results of one row; poisoned accumulators leave free values with poison. -/
def crdRow (s : State) (b : Bank) (ty col0 ncol d l : Nat) : LaneOut × State :=
  let ys := (List.range ncol).map (fun j => (crdValue ty (getAcc b l (col0 + j)), accBad b l (col0 + j)))
  let per := if ty = 10 then 1 else 2
  let slots := List.range (ceilDiv ncol per)
  let half := fun (j : Nat) => match ys[j]? with | some y => y.1.1 | none => 0
  let bad := fun (k : Nat) => (List.range per).any (fun i => match ys[per * k + i]? with | some y => y.2 | none => false)
  let hot := (List.range ncol).find? (fun j => match ys[j]? with | some y => !y.2 && y.1.2 != 0 | none => false)
  let conds := ys.foldl (fun c y => if y.2 then c else c ||| y.1.2) (0 : BitVec 5)
  let vs := slots.map (fun k =>
    (d + k, if bad k then Config.freeWord (s.freeCtr + k) else wordOf (if ty = 10 then half k else half (2 * k) + 2 ^ 16 * half (2 * k + 1))))
  let bads := (slots.filter bad).map (fun k => d + k)
  ({ outNone l with v := vs, bad := bads, conds := conds, opa := dwordOf (hot.getD 0),
                    opb := dwordOf (match hot with | some j => (getAcc b l (col0 + j)).toNat | none => 0) },
   if bads.isEmpty then s else { s with freeCtr := s.freeCtr + slots.length })

/-- CRD at its bank (R245): the results go to the word's operation, and cleared accumulators to +0 unless it will trap. -/
def crdAt (s : State) (w : Workgroup) (k : Nat) (b : Bank) (c : CWord) (ty col0 ncol : Nat) (clr : Bool) (d : Nat) : State :=
  let r := c.rows.foldl (fun (e : List LaneOut × State) row => let o := crdRow e.2 b ty col0 ncol d row.lane; (e.1 ++ [o.1], o.2)) ([], s)
  match w.groups[c.grp]?, findLaunch s w.launch with
  | some g, some l =>
    let s1 := modOp r.2 w.id c.grp c.id (fun o => { o with outs := r.1 })
    if clr && condLanes g (enablesOf l) r.1 == 0 then
      modBank (logBank s1 w.id k c.id) w.id k (fun b => c.rows.foldl (fun b row =>
        if hasLane g.counted row.lane then (List.range ncol).foldl (fun b j => clearAcc b row.lane (col0 + j)) b else b) b)
    else s1
  | _, _ => s

/-- CACC at its bank (R244). -/
def caccAt (rows : List CRow) (col0 : Nat) (b : Bank) : Bank :=
  rows.foldl (fun b row => (List.range row.vals.length).foldl (fun b j =>
    putAcc b row.lane (col0 + j) (wordOf (addRne 10 (getAcc b row.lane (col0 + j)).toNat (row.vals.getD j 0).toNat))) b) b

/-- CSWP at the head of both queues (R246). -/
def cswpAt (s : State) (wg id x y : Nat) (acc : Bool) : State :=
  match findWg s wg with
  | none => s
  | some w =>
    match bankAt w x, bankAt w y with
    | some bx, some by' =>
      if (by'.queue.head?.map qEntryId) == some id && (bx.queue.head?.map qEntryId) == some id then
        let s1 := logBank (logBank s wg x id) wg y id
        let s2 := modBank s1 wg x (fun b => if acc then { b with mode := .fill, acc := [], accPoison := [], resBad := [] } else { b with mode := .fill })
        let s3 := modBank s2 wg y (fun b => if acc then { b with mode := .compute, acc := bx.acc, accPoison := bx.accPoison, resBad := bx.resBad } else { b with mode := .compute })
        partDone (partDone s3 wg x id) wg y id
      else s
    | _, _ => s

/-- An entry that runs at its bank without interruption is performed (R228). -/
def entryAt (s : State) (w : Workgroup) (k : Nat) (b : Bank) (c : CWord) : State :=
  match residues s w k b c with
  | none => rollback s w.id 5
  | some s1 =>
    match (findWg s1 w.id).bind (bankAt · k) with
    | none => s1
    | some b1 =>
      let log := logBank s1 w.id k c.id
      match c.kind with
      | .cmode m => partDone (modBank log w.id k (fun b => { b with mode := m })) w.id k c.id
      | .czero => partDone (modBank log w.id k (fun b => { b with acc := [], accPoison := [], resBad := [] })) w.id k c.id
      | .cacc col0 _ => partDone (modBank log w.id k (caccAt c.rows col0)) w.id k c.id
      | .crd ty col0 ncol clr d => partDone (crdAt s1 w k b1 c ty col0 ncol clr d) w.id k c.id
      | .cswp x y acc => cswpAt s1 w.id c.id x y acc
      | .cbind slot => partDone (modBank log w.id k (fun b => { b with bound := slot.isSome, slot := BitVec.ofNat 4 (slot.getD 0) })) w.id k c.id
      | .cmma _ _ => partDone log w.id k c.id

/-- A readout of the workgroup is open. -/
def crdOpen (w : Workgroup) : Bool := w.cwords.any (fun c => isCrd c.kind)

/-- The banks of the workgroup go on: it is on its core and no evacuation moves it; while it is saved, and in the drain of an
evacuation, they stop once no readout is open (R322, R350, R351). -/
def banksGo (s : State) (w : Workgroup) : Bool :=
  match w.place with
  | .live => !evacPaused s w.lcore || (crdOpen w && !s.evacs.any (fun e => e.lcore == w.lcore && e.phase == .transferred))
  | .saving => crdOpen w
  | .saved _ _ => false

/-- BANK_QUEUE_ENTRY: bank `b` of workgroup `a` performs the entry at the head of its queue; the blocks of a CMMA follow by KBLOCK_DONE. -/
def execBankQueueEntry (s : State) : Host.Outcome State Fault Refusal :=
  .next (match findWg s s.arg.a with
  | none => s
  | some w =>
    match bankAt w s.arg.b with
    | none => s
    | some b =>
      match b.queue with
      | .word id [] :: _ => (match findCWord w id with
        | some c => if banksGo s w then entryAt s w s.arg.b b c else s
        | none => s)
      | _ => s)

/-- KBLOCK_DONE: bank `b` of workgroup `a` finishes the next k-block of the word it performs (R225, R228). -/
def execKblockDone (s : State) : Host.Outcome State Fault Refusal :=
  let wg := s.arg.a
  let k := s.arg.b
  .next (match findWg s wg with
  | none => s
  | some w =>
    match bankAt w k with
    | none => s
    | some b =>
      match b.queue with
      | .word id (kb :: more) :: rest => (match findCWord w id with
        | some c => (match c.kind with
          | .cmma afmt _ =>
            if !banksGo s w then s
            else match residues s w k b c with
              | none => rollback s wg 5
              | some s1 =>
                let s2 := modBank (logBank s1 wg k id) wg k (fun b => { blockAt afmt c.rows kb b with queue := .word id more :: rest })
                if more.isEmpty then partDone s2 wg k id else s2
          | _ => s)
        | none => s)
      | _ => s)

/-! ## Errors the ECC finds (R219, R234) -/

/-- The word whose k-blocks a bank performs now, and the next of them. -/
def headWord (w : Workgroup) (b : Bank) : Option (CWord × Nat) :=
  match b.queue with
  | .word id (kb :: _) :: _ => (findCWord w id).map (fun c => (c, kb))
  | _ => none

/-- A wrong residue of the dot product that a bank computes now for an accumulator: the interval rolls back, or the accumulator is
poisoned and one event counts (R235). Nothing stays wrong after it. -/
def dotError (s : State) (wg k key : Nat) : State :=
  match findWg s wg with
  | none => s
  | some w =>
    match (bankAt w k).bind (headWord w) with
    | none => s
    | some (c, _) =>
      if !banksGo s w || !(wordAccs c).any (fun e => accKey e.1 e.2 == key) then s
      else if w.chk.isSome then rollback s wg 5
      else monEvent (modBank (logBank s wg k c.id) wg k (fun b => { b with accPoison := smPut b.accPoison key true false })) (coreOf s w)

/-- An uncorrectable tile byte: columns it feeds are poisoned for the word that finds it, and the bank becomes INVALID. -/
def tileError (s : State) (wg k byte : Nat) : State :=
  match findWg s wg with
  | none => s
  | some w =>
    match bankAt w k with
    | none => s
    | some b =>
      let rows := match headWord w b with | some (c, _) => c.rows | none => []
      let s1 := modBank s wg k (fun b => { poisonCol rows (tileCol b byte) b with fail := if b.ts = .valid then .none else b.fail })
      monEvent (if b.ts = .valid then spoil s1 wg k else s1) (coreOf s w)

end Sys2Proof.Machine
end

