-- ==== Sys2Proof/Machine/Records.lean ====
section
/-! DEFINITION. Records that a word reads at its place (R77-R80): the read with its waits, the weight-set header, tile
entries and tensor shapes, and their checks. -/
namespace Sys2Proof.Machine

/-! ## Reading -/

/-- What reading a record comes to. -/
inductive RecRead where
  | bytes (b : List Byte)
  /-- Refused or poisoned. -/
  | unreadable
  /-- A translation fault on this page is waited on. -/
  | fault (va : Nat)
  | lost (peer : Nat)
  /-- The channel stalls. -/
  | stalled

/-- Bytes nothing determines (log 19). -/
def freeBytes (s : State) : Nat → List Byte × State
  | 0 => ([], s)
  | n + 1 => let w := freshWord s; let r := freeBytes w.2 n; (BitVec.ofNat 8 w.1.toNat :: r.1, r.2)

/-- `n` bytes within one page at a virtual address, read in the order of the group: once for every lane of ACTIVE (R80, R291,
R293), and at a peer after these lanes' accesses there (R298). -/
def readRec (s : State) (x : Ctx) (va n : Nat) : RecRead × State :=
  match translateFor s (dieOf s x.w.lcore) x.l.part va false with
  | (none, s1) => if pageRefused x va then (.unreadable, s1) else (.fault va, s1)
  | (some p, s1) =>
    match p.peer with
    | some k => if peerGone s1 x.l.part k then (.lost k, s1) else if peerAhead x.g.ops x.act k then (.stalled, s1) else (let r := freeBytes s1 n; (.bytes r.1, r.2))
    | none =>
      if stalledAt s1 x.c.wg (.global p.pa) || prevStalled s1 x.c.wg x.g s1.nextId then (.stalled, s1)
      else
        let s2 := yieldServe (performBefore s1 x.c.wg x.c.grp s1.nextId x.act) [p.pa]
        let bs := loadBytes s2 x.c.wg (.global p.pa) n
        if anyBad bs then (.unreadable, s2) else (.bytes (bs.map Prod.fst), s2)

/-- BAD_RECORD for the address of a header, entry or record. -/
def badRecord (s : State) (x : Ctx) (m : LMask) (va : Nat) : Res :=
  .trap (modGrp s x.c.wg x.c.grp (forgetPages x)) { Trap.at x.c .badRecord 0 m with addr := va }

/-- Go on with a record's bytes, or wait, or trap. -/
def withRec (s : State) (x : Ctx) (fl : Option Nat) (m : LMask) (va n : Nat) (f : State → List Byte → Res) : Res :=
  if va % 64 != 0 || decide (2 ^ 57 ≤ va) then badRecord s x m va
  else match readRec s x va n with
  | (.bytes b, s1) => f s1 b
  | (.unreadable, s1) => badRecord s1 x m va
  | (.fault a, s1) => .ok (waitPage s1 x fl a 0)
  | (.lost k, s1) => .trap s1 { Trap.at x.c .peerLost 0 m with addr := va, info := k }
  | (.stalled, _) => .wait

/-! ## The weight-set header (R78) -/

structure WHdr where
  setid : Word
  gen : Word
  wfmt : Nat
  adapt : Bool
  nrepl : Nat
  kt : Nat
  nt : Nat
  rank : Nat
  afmt : Nat

def whdrOf (b : List Byte) : WHdr :=
  { setid := wordOf (fieldAt b 0 4), gen := wordOf (fieldAt b 4 4), wfmt := fieldAt b 0xC 1, adapt := bitOf (fieldAt b 0xD 1) 0,
    nrepl := fieldAt b 0xE 1, kt := fieldAt b 0x10 2, nt := fieldAt b 0x12 2, rank := fieldAt b 0x28 2, afmt := fieldAt b 0x2A 1 }

def whdrBad (b : List Byte) : Bool :=
  let h := whdrOf b
  h.setid == 0 || decide (2 < h.wfmt) || decide (1 < fieldAt b 0xD 1) || decide (2 < h.nrepl) || fieldAt b 0xF 1 != 0
    || h.kt == 0 || decide (4096 < h.kt) || h.nt == 0 || decide (4096 < h.nt) || fieldAt b 0x14 4 != 0 || fieldAt b 0x2B 21 != 0
    || (if h.adapt then h.rank % 16 != 0 || decide (h.rank < 16) || decide (256 < h.rank) || decide (h.afmt < 8) || decide (10 < h.afmt)
        else fieldAt b 0x18 8 != 0 || fieldAt b 0x20 8 != 0 || h.rank != 0 || h.afmt != 0)

/-- A tile entry (R80): addresses in the order tried, TCRC, KT, NT. -/
structure TileEnt where
  addrs : List Nat
  crc : Word
  kt : Nat
  nt : Nat

def tileEntOf (nrepl : Nat) (b : List Byte) : TileEnt :=
  { addrs := fieldAt b 0 8 :: (if 1 ≤ nrepl then [fieldAt b 0x10 8] else []) ++ (if nrepl = 2 then [fieldAt b 0x18 8] else []),
    crc := wordOf (fieldAt b 8 4), kt := fieldAt b 0xC 2, nt := fieldAt b 0xE 2 }

/-- A breach of R80 by entry `e` of a set with `kt` tiles along k. -/
def tileEntBad (nrepl kt e : Nat) (b : List Byte) : Bool :=
  let badAddr := fun (a : Nat) => a % 64 != 0 || decide (2 ^ 57 ≤ a)
  badAddr (fieldAt b 0 8) || fieldAt b 0xC 2 != e % kt || fieldAt b 0xE 2 != e / kt
    || (if 1 ≤ nrepl then badAddr (fieldAt b 0x10 8) else fieldAt b 0x10 8 != 0)
    || (if nrepl = 2 then badAddr (fieldAt b 0x18 8) else fieldAt b 0x18 8 != 0)

/-! ## Tensor shapes (R77) -/


def shapeOf (b : List Byte) : Shape :=
  let n := bitsOf (fieldAt b 0 8) 59 57
  { base := bitsOf (fieldAt b 0 8) 56 0, ndim := n, swz := bitsOf (fieldAt b 0 8) 63 60,
    box := (List.range n).map (fun k => bitsOf (fieldAt b 8 8) (8 * k + 7) (8 * k)),
    fmt := bitsOf (fieldAt b 8 8) 43 40, fillNan := bitsOf (fieldAt b 8 8) 45 44 == 1,
    size := (List.range n).map (fun k => fieldAt b (0x10 + 4 * k) 4),
    stride := 0 :: (List.range (n - 1)).map (fun k => fieldAt b (0x24 + 6 * k) 6) }

/-- Bytes of a box row and of the whole box (R256). -/
def shapeRow (h : Shape) : Nat := (h.box.headD 0 + 1) * fmtBits h.fmt / 8
def shapeBytes (h : Shape) : Nat := (h.box.foldl (fun p b => p * (b + 1)) 1) * fmtBits h.fmt / 8
/-- Canvas extent of the box (R256). -/
def shapeExtent (h : Shape) : Nat := if h.swz = 0 then shapeBytes h else ceilDiv (shapeBytes h) 128 * 128

/-- A malformed shape (R77); a SIZE of 0 in use too (log 120). -/
def shapeBad (b : List Byte) : Bool :=
  let w0 := fieldAt b 0 8
  let w1 := fieldAt b 8 8
  let n := bitsOf w0 59 57
  let h := shapeOf b
  let fill := bitsOf w1 45 44
  n == 0 || decide (5 < n) || decide (3 < h.swz) || decide (1 < fill) || bitsOf w1 63 46 != 0 || fieldAt b 0x3C 4 != 0
    || (fill == 1 && (decide (h.fmt < 8) || h.fmt == 15))
    || h.base % 16 != 0
    || h.size.any (fun x => x == 0)
    || h.stride.any (fun x => x % 16 != 0)
    || (List.range 5).any (fun k => decide (n ≤ k) && (bitsOf w1 (8 * k + 7) (8 * k) != 0 || fieldAt b (0x10 + 4 * k) 4 != 0))
    || (List.range 4).any (fun k => decide (n ≤ k + 1) && fieldAt b (0x24 + 6 * k) 6 != 0)
    || (h.box.headD 0 + 1) * fmtBits h.fmt % 128 != 0

end Sys2Proof.Machine
end

