-- ==== Sys2Proof/Machine/Cnv.lean ====
section
/-! DEFINITION. The canvas words (R237-R247): checks at issue (R238), capture of operands, and their places in the queues. -/
namespace Sys2Proof.Machine

/-! ## Common to the canvas words (R237) -/

/-- The compute banks a bank-set operand names. -/
def bankSet (s : State) (x : Ctx) (f : Fld) : List Nat :=
  let m := readU s x f 64 false
  (List.range x.l.cbanks).filter (fun k => bitOf m k)

/-- The trap CANVAS_STATE with its reason and the bank or slot concerned. -/
def canvasTrap (s : State) (x : Ctx) (reason info : Nat) : Res :=
  .trap s { Trap.at x.c .canvasState reason (sureLanes x) with info := info }

/-- A word of one canvas issue: none of it for an empty ACTIVE; a long-latency one waits while its flag is full. -/
def canvasIssue (s : State) (w : FmtC) (ll : Bool) (srcs : List Src) (f : State → Ctx → Option Nat → Res) : Host.Outcome State Fault Refusal :=
  withWait s w.g fun s x =>
    let fl := if ll then flagSel x.c.clause w.fs else none
    if flagFull x.g fl then s
    else if groupAct x = 0 then advance s x.c
    else withSources s x srcs fun s => closeRes s x (f s x fl)

def anyCopy (x : Ctx) (bs : List Nat) : Bool := bs.any (fun k => match bankAt x.w k with | some b => copyAt b | none => false)
/-- A workgroup has at most 16 canvas words that some bank has not performed in full (R323). -/
def canvasFull (x : Ctx) : Bool := decide (16 ≤ x.w.cwords.length)

/-- A word joins the queues of its banks. -/
def enqueue (s : State) (x : Ctx) (fl : Option Nat) (kind : CWordKind) (rows : List CRow) (banks blocks : List Nat) : State :=
  let c : CWord := { id := s.nextId, grp := x.c.grp, flag := fl, kind := kind, rows := rows, left := banks, pc := x.c.pc, hdr := x.c.clause.hdr,
                     next := x.c.next, quads := x.c.quads, lanes := x.act }
  modWg (freshId s).2 x.c.wg (fun w => { w with
    cwords := w.cwords ++ [c],
    banks := (List.range w.banks.length).map (fun k => match w.banks[k]? with
      | some b => if banks.contains k then { b with queue := b.queue ++ [.word c.id blocks] } else b
      | none => bank0) })

/-- The word stands in its queues and the gang goes on. -/
def queued (s : State) (x : Ctx) (fl : Option Nat) (kind : CWordKind) (rows : List CRow) (banks blocks : List Nat) : Res :=
  if canvasFull x then .wait
  else .ok (modGrp (enqueue s x fl kind rows banks blocks) x.c.wg x.c.grp (fun g => advanceGrp x.c (flagInc g fl)))

/-! ## CMODE, CZERO, CSWP -/

def execCmode (w : FmtC) (s : State) : Host.Outcome State Fault Refusal :=
  canvasIssue s w false [srcOf 0 w.a 2] fun s x fl =>
    let bs := bankSet s x w.a
    if bs.isEmpty then .ok (advance s x.c) else queued s x fl (.cmode (if w.md = 1 then .compute else .fill)) [] bs []

def execCzero (w : FmtC) (s : State) : Host.Outcome State Fault Refusal :=
  canvasIssue s w true [srcOf 0 w.a 2] fun s x fl =>
    let bs := bankSet s x w.a
    if bs.isEmpty then .ok (advance s x.c) else queued s x fl .czero [] bs []

def execCswp (w : FmtC) (s : State) : Host.Outcome State Fault Refusal :=
  canvasIssue s w false [srcOf 1 w.b 1, srcOf 2 w.c 1] fun s x fl =>
    let a := readUN s x w.b
    let b := readUN s x w.c
    match bankAt x.w a, bankAt x.w b with
    | none, _ => canvasTrap s x 1 a
    | _, none => canvasTrap s x 1 b
    | some ba, some bb =>
      if anyCopy x [a, b] then .wait
      else if a = b ∨ ba.mode ≠ .compute then canvasTrap s x 9 a
      else if bb.mode ≠ .fill ∨ bb.ts ≠ .valid then canvasTrap s x 9 b
      else queued s x fl (.cswp a b (w.md.getLsbD 0)) [] [a, b] []

/-! ## CMMA and CMMAS (R243) -/

def cmmaAfmt (w : FmtC) : Nat := w.md.toNat % 4
def cmmaK256 (w : FmtC) : Bool := w.md.getLsbD 2
def cmmaKB (w : FmtC) : Nat := if cmmaK256 w then 8 else 4

/-- The view's register words, in view order. -/
def viewRegs (x : Ctx) (w : FmtC) : List Nat :=
  (List.range (cmmaBytes w / 4)).map (fun k => viewOffset (x.l.vw.getD w.vw.toNat 0) (4 * k) / 4)

def cmmaSrcs (x : Ctx) (w : FmtC) (streamed : Bool) : List Src :=
  [srcOf 1 w.b (cmmaKB w / 4)] ++ (if streamed then [srcOf 2 w.c 1] else [])
    ++ (viewRegs x w).map (fun r => { which := 3, code := BitVec.ofNat 8 r, n := 1 })

/-- A lane's captured activations and scales (R224). -/
def cmmaRow (x : Ctx) (w : FmtC) (l : Nat) : CRow :=
  { lane := l,
    bytes := (viewRegs x w).flatMap (fun r => natToBytes 4 (getV x.g r l).val.toNat),
    scales := (List.range (cmmaKB w / 4)).flatMap (fun k => natToBytes 4 (regWord x.g w.b.code k l).toNat),
    vals := [] }

/-- The checks of R238 over the named banks in ascending order, reasons 4 to 7, then WEIGHT_INVALID. -/
def cmmaCheck (s : State) (x : Ctx) (w : FmtC) (bs : List Nat) : Option Res :=
  let b := fun (k : Nat) => (bankAt x.w k).getD bank0
  let mixed := fun (k : Nat) => bs.any (fun j => (b j).tset == (b k).tset && (b j).tgen != (b k).tgen)
  let failOf := fun (k : Nat) => match (b k).fail with | .none => 0 | .corrupt => 1 | .missing => 2
  match bs.find? (fun k => (b k).mode == .fill), bs.find? (fun k => (b k).ts == .empty),
        bs.find? (fun k => ((b k).tfmt == 2) != cmmaK256 w), bs.find? mixed, bs.find? (fun k => (b k).ts == .invalid) with
  | some k, _, _, _, _ => some (canvasTrap s x 4 k)
  | none, some k, _, _, _ => some (canvasTrap s x 5 k)
  | none, none, some k, _, _ => some (canvasTrap s x 6 k)
  | none, none, none, some k, _ => some (canvasTrap s x 7 k)
  | none, none, none, none, some k => some (.trap s { Trap.at x.c .weightInvalid 0 (sureLanes x) with info := k + 256 * failOf k })
  | none, none, none, none, none => none

/-- WTYPE of an activation format (R226). -/
def cmmaType (w : FmtC) : Nat := 10 + 16 * (match cmmaAfmt w with | 0 => 0 | 1 => 12 | _ => 14)

/-- NaN blocks of the rows among those listed. -/
def cmmaConds (w : FmtC) (rows : List CRow) (blocks : List Nat) : List LaneOut :=
  rows.filterMap (fun r => (blocks.find? (actNan (cmmaAfmt w) r)).map (fun b =>
    { outNone r.lane with conds := condBits false false false false true, opa := dwordOf b, opb := dwordOf (actScale r b) }))

/-- The word joins its queues over the listed blocks, or traps on an enabled NaN block. -/
def cmmaGo (s : State) (x : Ctx) (w : FmtC) (fl : Option Nat) (bs blocks : List Nat) (adv : State → State) : Res :=
  let rows := (lanesOf (sureLanes x)).map (cmmaRow x w)
  let outs := cmmaConds w rows blocks
  let m := condLanes x.g (enablesOf x.l) outs
  if m != 0 then .trap s { Trap.at x.c .nonfinite 0 m with wtype := cmmaType w, outs := outs }
  else queued (adv s) x fl (.cmma (cmmaAfmt w) (cmmaK256 w)) rows bs blocks

/-- The shell of CMMA and CMMAS: the named banks, the wait of R237, the checks of R238, and only then the activations, scales and
kbase (R243). -/
def cmmaIssue (s : State) (w : FmtC) (streamed : Bool) (f : State → Ctx → Option Nat → List Nat → Res) : Host.Outcome State Fault Refusal :=
  withCtx s w.g fun x =>
    let fl := flagSel x.c.clause w.fs
    if flagFull x.g fl then s
    else if groupAct x = 0 then advance s x.c
    else withSources s x [srcOf 0 w.a 2] fun s =>
      let bs := bankSet s x w.a
      if bs.isEmpty then advance s x.c
      else if anyCopy x bs || canvasFull x then s
      else match cmmaCheck s x w bs with
        | some r => closeRes s x r
        | none => withSources s x (cmmaSrcs x w streamed) fun s => closeRes s x (f s x fl bs)

def execCmma (w : FmtC) (s : State) : Host.Outcome State Fault Refusal :=
  cmmaIssue s w false fun s x fl bs => cmmaGo s x w fl bs (List.range (cmmaKB w)) id

/-- CMMAS: the blocks are those that the stream lists from kbase, and the stream moves past them. -/
def execCmmas (w : FmtC) (s : State) : Host.Outcome State Fault Refusal :=
  cmmaIssue s w true fun s x fl bs =>
    let n := w.q.toNat
    let q := getQ x.g n
    let kbase := readUN s x w.c
    let top := kbase + cmmaKB w
    if q.st = .opened ∧ q.pos.toNat < top then
      streamRead s x q.addr.toNat q.len.toNat q (fun b => streamAdvance b top (q.len.toNat + 1) q)
        (fun s1 r => cmmaGo s1 x w fl bs ((r.1.filter (fun p => decide (kbase ≤ p))).map (fun p => p - kbase))
          (fun s => modGrp s x.c.wg x.c.grp (fun g => putQ g n r.2)))
    else cmmaGo s x w fl bs [] id

/-! ## CACC and CRD (R244, R245) -/

def accTy (m : Nat) : Nat := match m % 4 with | 0 => 10 | 1 => 8 | _ => 9
/-- Registers that `n` values of a type cover. -/
def accRegs (ty n : Nat) : Nat := if ty = 10 then n else ceilDiv n 2

/-- Reasons 1 and 8. -/
def accCheck (s : State) (x : Ctx) (bank col0 ncol reg ty : Nat) : Option Res :=
  if x.l.cbanks ≤ bank then some (canvasTrap s x 1 bank)
  else if ncol = 0 ∨ 32 < ncol ∨ 128 < col0 + ncol ∨ x.l.vcount < reg + accRegs ty ncol then some (canvasTrap s x 8 bank)
  else none

/-- x[j] of CACC: its pattern in the source type. -/
def caccVal (x : Ctx) (w : FmtC) (ty l j : Nat) : Nat :=
  if ty = 10 then (regWord x.g w.a.code j l).toNat else bitsOf (regWord x.g w.a.code (j / 2) l).toNat (16 * (j % 2) + 15) (16 * (j % 2))

def execCacc (w : FmtC) (s : State) : Host.Outcome State Fault Refusal :=
  canvasIssue s w true [srcOf 1 w.b 1, srcOf 2 w.c 1, srcOf 3 w.e 1] fun s x fl =>
    let ty := accTy w.md.toNat
    let bank := readUN s x w.b
    let col0 := readUN s x w.c
    let ncol := readUN s x w.e
    match accCheck s x bank col0 ncol w.a.code.toNat ty with
    | some r => r
    | none =>
      let srcs := [srcOf 0 w.a (accRegs ty ncol)]
      let pm := poisonLanes x.g srcs x.act
      if pm != 0 then .consumes srcs pm
      else
        let lanes := lanesOf (sureLanes x)
        let outs := lanes.filterMap (fun l => ((List.range ncol).find? (fun j => fNonFinite (fDecode ty (caccVal x w ty l j)))).map (fun j =>
          { outNone l with conds := condBits false false false false true, opa := dwordOf j, opb := dwordOf (caccVal x w ty l j) }))
        let m := condLanes x.g (enablesOf x.l) outs
        if m != 0 then .trap s { Trap.at x.c .nonfinite 0 m with wtype := 10 + 16 * ty, outs := outs }
        else
          let valsAt := fun (l : Nat) => (List.range ncol).map (fun j => wordOf (cvtRne 10 ty (caccVal x w ty l j)))
          let rows := lanes.map (fun l => ({ lane := l, bytes := [], scales := [], vals := valsAt l } : CRow))
          queued s x fl (.cacc col0 ncol) rows [bank] []

/-- Enables that CRD can meet (R226). -/
def crdEnables (ty : Nat) : BitVec 5 := if ty = 10 then 0b10000 else 0b11100

def execCrd (w : FmtC) (s : State) : Host.Outcome State Fault Refusal :=
  canvasIssue s w true [srcOf 1 w.b 1, srcOf 2 w.c 1, srcOf 3 w.e 1] fun s x fl =>
    let ty := accTy w.md.toNat
    let bank := readUN s x w.b
    let col0 := readUN s x w.c
    let ncol := readUN s x w.e
    match accCheck s x bank col0 ncol w.d.toNat ty with
    | some r => r
    | none =>
      if canvasFull x then .wait
      else
        let rows := (lanesOf x.act).map (fun l => ({ lane := l, bytes := [], scales := [], vals := [] } : CRow))
        let held := enablesOf x.l &&& crdEnables ty != 0
        let o := { laneOp s x (ty + 160) fl [] with kind := if held then .laneWord else .crd }
        .ok (modGrp (enqueue s x none (.crd ty col0 ncol (w.md.getLsbD 2) w.d.toNat) rows [bank] []) x.c.wg x.c.grp (fun g =>
          let g1 := { flagInc g fl with ops := g.ops ++ [o] }
          if held then advanceHold x.c g1 else advanceGrp x.c g1))

/-! ## CBIND, CPIN, CUNP (R240, R241) -/

def slotOfWg (w : Workgroup) (k : Nat) : Option WSlot := assoc? w.wslots k

/-- CBIND once both headers are read: the slot is bound, and the named banks are when the word's place in their queues comes (R229,
R240). -/
def cbindGo (s : State) (x : Ctx) (k r : Nat) (bs : List Nat) (h : WHdr) : Res :=
  let old := slotOfWg x.w k
  if (match old with | some o => o.pin == Pin.pinned && o.addr.toNat != r | none => false) then canvasTrap s x 3 k
  else
    let new : WSlot := { addr := dwordOf r, setid := h.setid, gen := h.gen, wfmt := BitVec.ofNat 8 h.wfmt, ktiles := h.kt,
                         ntiles := h.nt, adapt := h.adapt, rank := BitVec.ofNat 16 h.rank, afmt := BitVec.ofNat 4 h.afmt, pin := .none }
    let slot := match old with | some o => if o.addr.toNat = r then o else new | none => new
    let s1 := modWg (modGrp s x.c.wg x.c.grp (forgetPages x)) x.w.id (fun w => { w with wslots := assocPut w.wslots k slot })
    if bs.isEmpty then .ok (advance s1 x.c) else queued s1 x none (.cbind (some k)) [] bs []

def execCbind (w : FmtC) (s : State) : Host.Outcome State Fault Refusal :=
  canvasIssue s w false [srcOf 0 w.a 2, srcOf 1 w.b 1, srcOf 2 w.c 2] fun s x _ =>
    let bs := bankSet s x w.a
    let k := readUN s x w.b
    let raddr := readU s x w.c 64 false
    if anyCopy x bs || (!bs.isEmpty && canvasFull x) || heldByFault x.g then .wait
    else match x.l.wtab[k]? with
      | none => canvasTrap s x 2 k
      | some e =>
        let r := if raddr = 0 then e.toNat else raddr
        withRec s x none (sureLanes x) r 64 fun s b1 =>
          if whdrBad b1 then badRecord s x (sureLanes x) r
          else withRec s x none (sureLanes x) e.toNat 64 fun s b2 =>
            if whdrBad b2 then badRecord s x (sureLanes x) e.toNat
            else if (whdrOf b1).setid != (whdrOf b2).setid then badRecord s x (sureLanes x) r
            else cbindGo s x k r bs (whdrOf b1)

/-- An atomic change of a record's PINW; `f` of the old word gives the new one. -/
def pinAtomic (s : State) (x : Ctx) (va : Nat) (f : Nat → Nat) (fin : State → Option Nat → State) : Res :=
  match translateFor s (dieOf s x.w.lcore) x.l.part va true with
  | (none, s1) =>
    if pageRefused x va then
      .trap (modGrp s1 x.c.wg x.c.grp (forgetPages x)) { Trap.at x.c .pageFault 0 (sureLanes x) with addr := va, info := 1, resume := x.c.next }
    else .ok (waitPage s1 x none va 1)
  | (some p, s1) =>
    match p.peer with
    | some k =>
      if peerGone s1 x.l.part k then .trap s1 { Trap.at x.c .peerLost 0 (sureLanes x) with addr := va, info := k }
      else if peerAhead x.g.ops x.act k then .wait
      else .ok (fin s1 none)
    | none =>
      if stalledAt s1 x.c.wg (.global p.pa) || prevStalled s1 x.c.wg x.g s1.nextId then .wait
      else
        let s2 := yieldServe (performBefore s1 x.c.wg x.c.grp s1.nextId x.act) [p.pa]
        let old := memRead s2 p.pa 4
        if anyBad old then .ok (fin s2 none)
        else
          let v := bytesToNat (old.map Prod.fst)
          .ok (fin (memWrite s2 p.pa (natToBytes 4 (f v))) (some v))

/-- The slot is unbound, and its banks with it; a CBIND to it that still waits in a queue binds no bank
(R240, R241, log 129). -/
def unbindSlot (k : Nat) (w : Workgroup) : Workgroup :=
  { w with wslots := assocDel w.wslots k,
           cwords := w.cwords.map (fun c => if c.kind = .cbind (some k) then { c with kind := .cbind none } else c),
           banks := w.banks.map (fun b => if b.bound ∧ b.slot.toNat = k then { b with bound := false, slot := 0 } else b) }

def goOn (s : State) (x : Ctx) : State := modGrp s x.c.wg x.c.grp (fun g => advanceGrp x.c (forgetPages x g))

/-- CPIN. A PINW that no value is known of leaves PINNED or REFUSED open (log 12, log 19). -/
def execCpin (w : FmtC) (s : State) : Host.Outcome State Fault Refusal :=
  canvasIssue s w false [srcOf 0 w.a 1] fun s x _ =>
    let k := readUN s x w.a
    match (if k < x.l.wtab.length then slotOfWg x.w k else none) with
    | none => canvasTrap s x 2 k
    | some o =>
      if o.pin != .none then .ok (goOn s x)
      else if heldByFault x.g then .wait
      else pinAtomic s x (o.addr.toNat + 8) (fun v => if bitOf v 31 then v else v + 1) (fun s v =>
        let r := match v with
          | some v => (if bitOf v 31 then Pin.refused else Pin.pinned, s)
          | none => (let c := freshChoice s 2; (if c.1 = 0 then Pin.pinned else Pin.refused, c.2))
        goOn (modWg r.2 x.w.id (fun w => { w with wslots := assocPut w.wslots k { o with pin := r.1 } })) x)

def execCunp (w : FmtC) (s : State) : Host.Outcome State Fault Refusal :=
  canvasIssue s w false [srcOf 0 w.a 1] fun s x _ =>
    let k := readUN s x w.a
    match (if k < x.l.wtab.length then slotOfWg x.w k else none) with
    | none => .ok (goOn s x)
    | some o =>
      if o.pin != .pinned then .ok (goOn (modWg s x.w.id (unbindSlot k)) x)
      else if heldByFault x.g then .wait
      else pinAtomic s x (o.addr.toNat + 8) (fun v => (v + 2 ^ 32 - 1) % 2 ^ 32) (fun s _ => goOn (modWg s x.w.id (unbindSlot k)) x)

/-! ## CSTAT (R247) -/

def bankWord (b : Bank) : Nat :=
  (match b.mode with | .fill => 1 | .compute => 2) * 2 ^ 30
  + (match b.ts with | .empty => 0 | .loading => 1 | .valid => 2 | .invalid => 3) * 2 ^ 28
  + (match b.fail with | .none => 0 | .corrupt => 1 | .missing => 2) * 2 ^ 26
  + (if b.queue.isEmpty then 0 else 2 ^ 25) + (if b.bound then 2 ^ 24 else 0) + b.slot.toNat * 2 ^ 20 + b.tfmt.toNat * 2 ^ 18

def slotWord (o : WSlot) : Nat :=
  (match o.pin with | .none => 0 | .pinned => 1 | .refused => 2) * 2 ^ 30 + 2 ^ 29 + o.wfmt.toNat % 4 * 2 ^ 27
  + (o.ntiles - 1) * 2 ^ 12 + (o.ktiles - 1)

def cstatValue (x : Ctx) (item k : Nat) : Word :=
  if item < 3 then
    match bankAt x.w k with
    | none => 0xFFFFFFFF
    | some b => match item with
      | 0 => wordOf (bankWord b)
      | 1 => wordOf (b.nt.toNat * 2 ^ 12 + b.kt.toNat)
      | _ => if b.ts = .empty then 0 else b.tgen
  else if 15 < k then 0xFFFFFFFF
  else match (if k < x.l.wtab.length then slotOfWg x.w k else none) with
    | none => 0
    | some o => match item with
      | 3 => wordOf (slotWord o)
      | 4 => o.gen
      | _ => if o.adapt then wordOf (o.rank.toNat + o.afmt.toNat * 2 ^ 16) else 0

def execCstat (w : FmtC) (s : State) : Host.Outcome State Fault Refusal :=
  canvasIssue s w false [srcOf 1 w.b 1] fun s x _ =>
    .ok (modGrp s x.c.wg x.c.grp (fun g => advanceGrp x.c (putS g w.d.toNat (cstatValue x w.md.toNat (readUN s x w.b)))))

end Sys2Proof.Machine
end

