-- ==== Sys2Proof/Machine/CallOps.lean ====
section
/-! DEFINITION. What frame calls write through the partition's table: DST pieces and their operand log (R274, R278, R197). -/
namespace Sys2Proof.Machine

/-- A lost write of a call: the launch keeps the lowest refused address (R197, R278). -/
def lostWrite (s : State) (launch va : Nat) : State :=
  modLaunch s launch (fun l => { l with lostRed := match l.lostRed with | some x => some (min x va) | none => some va })

/-- An access of a call to an address stalls: its own rods do not hold it up (R199, R283). -/
def callStalls (s : State) (c : Call) (pa : Nat) : Bool :=
  stalledFor { s with calls := s.calls.filter (fun k => k.id != c.id) } (launchClass s c.launch) pa

/-- The call's line of 128 bytes has an entry in the operand log, or room for one (R13, R195). -/
def dstRoom (s : State) (c : Call) (va : Nat) : Bool := c.logged.any (fun e => e.1 / 128 == va / 128) || !logFull s c.die

/-- One 16-byte piece, or a part of one, is written at DST; a fault puts it into the operand log. It waits in the frame while its place
stalls, while the log is full, and behind an earlier one of the same bytes. -/
def dstPiece (s : State) (id va : Nat) (bs : List (Byte × Bool)) : State :=
  match findCall s id with
  | none => s
  | some c =>
    let wait := fun (s : State) => modCall s id (fun c => { c with pend := c.pend ++ [(va, bs)] })
    if (c.logged ++ c.pend).any (fun e => e.1 / 16 == va / 16) then wait s
    else match translateFor s c.die c.part va true with
    | (none, s1) =>
      if dstRoom s1 c va then
        raiseFault (modCall s1 id (fun c => { c with logged := c.logged ++ [(va, bs)] })) c.part va 5 (match findLaunch s1 c.launch with | some l => l.tag.toNat | none => 0)
      else wait s1
    | (some p, s1) =>
      match p.peer with
      | some k => if peerGone s1 c.part k then lostWrite s1 c.launch va else s1
      | none =>
        if callStalls s1 c p.pa || !yieldRoom s1 (launchClass s1 c.launch) [p.pa] then wait s1 else yieldServe (memWriteP s1 p.pa bs) [p.pa]

/-- Bytes at DST in pieces of 16. -/
def dstPieces (id va : Nat) : Nat → List (Byte × Bool) → State → State
  | 0, _, s => s
  | n + 1, bs, s =>
    let k := 16 - va % 16
    let s1 := dstPiece s id va (bs.take k)
    if bs.length ≤ k then s1 else dstPieces id (va + k) n (bs.drop k) s1

def dstWrite (s : State) (id va : Nat) (bs : List (Byte × Bool)) : State := if bs.isEmpty then s else dstPieces id va (bs.length / 16 + 2) bs s

/-- A call with nothing left to do is gone. -/
def reapCalls (s : State) : State := { s with calls := s.calls.filter (fun c => !(c.st == .ended && c.logged.isEmpty && c.pend.isEmpty)) }

/-- A FAULT for the page stands unanswered. -/
def pageOpen (s : State) (part page : Nat) : Bool := s.faults.any (fun f => f.part == part && f.page == page)

/-- Logged writes whose page has no unanswered FAULT, and writes that wait in the frame, are tried in their order (R195, R197, R278). -/
def retryCalls (s : State) : State :=
  if s.calls.all (fun c => c.logged.isEmpty && c.pend.isEmpty) then s
  else reapCalls (s.calls.foldl (fun s c =>
    let hit := fun (e : Nat × List (Byte × Bool)) => !pageOpen s c.part (pageOf e.1)
    let again := c.logged.filter hit ++ c.pend
    if again.isEmpty then s
    else again.foldl (fun s e => dstPiece s c.id e.1 e.2) (modCall s c.id (fun c => { c with logged := c.logged.filter (fun e => !hit e), pend := [] }))) s)

/-- Logged writes of a page are tried again, or lost (R197, R278). -/
def answerCalls (s : State) (part page : Nat) (refused : Bool) : State :=
  if !refused then retryCalls s
  else reapCalls (s.calls.foldl (fun s c =>
    if c.part != part then s
    else
      let hit := fun (e : Nat × List (Byte × Bool)) => pageOf e.1 == page
      ((c.logged ++ c.pend).filter hit).foldl (fun s e => lostWrite s c.launch e.1)
        (modCall s c.id (fun c => { c with logged := c.logged.filter (fun e => !hit e), pend := c.pend.filter (fun e => !hit e) }))) s)

end Sys2Proof.Machine
end

