-- ==== Sys2Proof/Machine/Sched.lean ====
section
/-! DEFINITION. The group scheduler (R110-R113): clause fetch (R37, R38, R343), exchange and rotation of active sets,
waking sleepers, and the passing of device time. -/
namespace Sys2Proof.Machine

/-! ## Clause fetch (R38) -/

/-- Virtual address of a code word (R69). -/
def codeVa (l : Launch) (pc : Word) : Nat := l.kimg.toNat + l.codeoff + pc.toNat

/-- Put a fetched word into a core's instruction cache. -/
def icachePut (s : State) (core launch off : Nat) (w : Word) : State :=
  modCore s core (fun k => { k with icache := (launch, off, w) :: k.icache.filter (fun (e : Nat × Nat × Word) => !(e.1 == launch && e.2.1 == off)) })

/-- The word memory holds at an address; a poisoned word and a word of a peer's memory are free values (log 19). -/
def codeMem (s : State) (p : Phys) : Word × State :=
  let bs := memRead s p.pa 4
  if p.peer.isSome || anyBad bs then freshWord s else (wordOf (bytesToNat (bs.map Prod.fst)), s)

/-- One code word: a core that holds an earlier value of it returns either (R343, log 10); none on a translation fault, and from
a peer out of reach (R370). -/
def codeWord (s : State) (w : Workgroup) (l : Launch) (pc : Word) : Option Word × State :=
  let core := coreOf s w
  match translateFor s (dieOf s w.lcore) l.part (codeVa l pc) false with
  | (none, s1) => (none, s1)
  | (some p, s1) =>
    if p.peer.any (peerGone s1 l.part) then (none, s1)
    else
    let m := codeMem s1 p
    let old := match m.2.cores[core]? with
      | some k => k.icache.find? (fun (e : Nat × Nat × Word) => e.1 == l.id && e.2.1 == pc.toNat)
      | none => none
    match old with
    | none => (some m.1, icachePut m.2 core l.id pc.toNat m.1)
    | some e =>
      if e.2.2 = m.1 then (some m.1, m.2)
      else
        let ch := freshChoice m.2 2
        let v := if ch.1 = 0 then e.2.2 else m.1
        (some v, icachePut ch.2 core l.id pc.toNat v)

/-- `n` code words from an address; on a fault, the address of the word that faults. -/
def codeWords (s : State) (w : Workgroup) (l : Launch) (pc : Word) : Nat → (List Word × Option Word) × State
  | 0 => (([], none), s)
  | n + 1 =>
    match codeWord s w l pc with
    | (none, s1) => (([], some pc), s1)
    | (some v, s1) =>
      let r := codeWords s1 w l (pc + 4) n
      ((v :: r.1.1, r.1.2), r.2)

def clauseOf (hdr h : Word) (ws : List Word) : Clause :=
  let f := hdrOf h
  { hdr := hdr, len := f.len, cls := f.cls, wait := f.wait, setA := f.setA, setB := f.setB, yld := f.yld, nspec := f.nspec, words := ws }

/-- A trap taken at a clause header. -/
def headerTrap (m : QMask) (run : LMask) (hdr : Word) (k : TrapKind) (sub addr : Nat) : Trap :=
  { kind := k, sub := sub, mask := run, addr := addr, info := 0, wtype := 0, outs := [], pc := hdr, resume := hdr, quads := m, header := true }

/-- The quads that a fetch for quad `q` serves: a replaying quad is fetched for alone. -/
def fetchQuads (g : Group) (q : Nat) : QMask := if (quadAt g q).replay.isSome then quadBit q else gangOf g q

/-- Where quad `q` fetches its next clause; none where it has one. -/
def fetchPc (g : Group) (q : Nat) : Option Word :=
  let a := quadAt g q
  match a.replay with
  | some r => if r.clause.isSome then none else some r.pc
  | none => if a.clause.isSome then none else some a.pc

def setClause (c : Clause) (q : Quad) : Quad :=
  match q.replay with
  | some r => { q with replay := some { r with clause := some c } }
  | none => { q with clause := some c }

/-- A trap that a fetch meets: a replaying quad issues its side again from its start, unpredicted, and the trap waits while a lane of
the group is predicted or replaying (R126, R127). -/
def fetchTrap (s : State) (w : Workgroup) (grp : Nat) (g : Group) (m : QMask) (t : Trap) : State :=
  if (quadsOf m).any (fun q => (quadAt g q).replay.isSome) then modGrp s w.id grp (restartQuads m)
  else if trapWaits g then s
  else takeTrap s w.id grp t

/-- A header fault: confirmed gangs wait for the handler's reply, and take PAGE_FAULT where it refused; a predicted
side stops (R38, R126); code of a peer out of reach is PEER_LOST (R370). -/
def fetchFault (s : State) (w : Workgroup) (grp : Nat) (g : Group) (l : Launch) (m : QMask) (hdr bad : Word) : State :=
  let va := codeVa l bad
  let q0 := quadAt g ((quadsOf m).headD 0)
  let gone := ((translateFor s (dieOf s w.lcore) l.part va false).1.bind Phys.peer).filter (peerGone s l.part)
  if q0.pred.isSome then modGrp s w.id grp (fun g => modQuads g m (fun q => { q with pred := q.pred.map (fun p => { p with stopped := true }) }))
  else if gone.isSome then
    fetchTrap s w grp g m { headerTrap m (runOf g m &&& g.counted) hdr .peerLost 0 va with info := gone.getD 0 }
  else if q0.refused.contains (pageOf va) then
    fetchTrap (modGrp s w.id grp (fun g => modQuads g m (fun q => { q with refused := [] }))) w grp g m
      (headerTrap m (runOf g m &&& g.counted) hdr .pageFault 0 va)
  else
    raiseFault (modGrp s w.id grp (fun g => modQuads g m (fun q => { q with st := .parked, park := .fault (pageOf va) }))) l.part va 0 l.tag.toNat

/-- A whole clause is fetched for a gang and its header checked (R37, R38, R63, R64). -/
def fetchClause (s : State) (w : Workgroup) (grp : Nat) (g : Group) (l : Launch) (q : Nat) (hdr : Word) : State :=
  let m := fetchQuads g q
  match codeWord s w l hdr with
  | (none, s1) => fetchFault s1 w grp g l m hdr hdr
  | (some h, s1) =>
    match codeWords s1 w l (hdr + 4) (hdrOf h).len with
    | ((_, some bad), s2) => fetchFault s2 w grp g l m hdr bad
    | ((ws, none), s2) =>
      match hdrSub h ws with
      | none => modGrp s2 w.id grp (fun g => modQuads g m (fun a => { setClause (clauseOf hdr h ws) a with refused := [] }))
      | some sub =>
        if (quadAt g q).pred.isSome then
          modGrp s2 w.id grp (fun g => modQuads g m (fun a => { a with pred := a.pred.map (fun p => { p with stopped := true }) }))
        else fetchTrap s2 w grp g m (headerTrap m (runOf g m &&& g.counted) hdr .illegalOp sub 0)

/-- CLAUSE_FETCH: quad `c` of group `b` of workgroup `a` stands at a header it may fetch. -/
def execClauseFetch (s : State) : Host.Outcome State Fault Refusal :=
  .next (match findWg s s.arg.a with
  | none => s
  | some w =>
    match w.groups[s.arg.b]?, findLaunch s w.launch with
    | some g, some l =>
      if g.active && quadReady s w g s.arg.c then
        match fetchPc g s.arg.c with
        | some pc => fetchClause s w s.arg.b g l s.arg.c pc
        | none => s
      else s
    | _, _ => s)

/-! ## Active sets (R111, R112) -/

/-- The parks of R111: at MCALL, WAITJ, LAUNCH, LWAIT, SLEEP, WAITF, a barrier or a phaser wait. -/
def parksAway (p : Park) : Bool :=
  match p with
  | .bar | .bart | .bard | .phwt _ _ _ | .phwtOut _ _ | .phaw _ _ _ | .waitf _ | .waitj _ _ | .lwait _ _ | .sleep _ | .launchAnswer | .mcall _ _ => true
  | .none | .fence _ _ _ | .fault _ | .retryOps | .cut => false

/-- Every live gang of the group is parked. -/
def allParked (g : Group) : Bool := g.quads.all (fun q => q.live == 0 || (q.st == .parked && parksAway q.park))

/-- A group whose every gang is parked leaves its active set at once (R111), and one that waits for a launch's answer (R106). -/
def leaveParked (s : State) (wg grp : Nat) : State :=
  modGrp s wg grp (fun g => if g.active && (allParked g || launching g) then { g with active := false, since := now s } else g)

/-- Of two candidates the older, the first on a tie. -/
def older (a b : Workgroup × Nat × Group) : Workgroup × Nat × Group := if b.2.2.since < a.2.2.since then b else a
def oldest (l : List (Workgroup × Nat × Group)) : Option (Workgroup × Nat × Group) :=
  match l with
  | [] => none
  | a :: r => some (r.foldl older a)

def grpClass (s : State) (w : Workgroup) : Nat := match findLaunch s w.launch with | some l => classOf l | none => 3

/-- The ready pending group that takes a free place (R112 steps 1 and 2). -/
def chooseGroup (s : State) (core slot : Nat) : Option (Workgroup × Nat × Group) :=
  let pend := (slotGroups s core slot).filter (fun e => !e.2.2.active && groupReady s e.1 e.2.1)
  let aged := pend.filter (fun e => decide (256 ≤ now s - e.2.2.since))
  if aged.isEmpty then
    let best := pend.foldl (fun m e => min m (grpClass s e.1)) 3
    oldest (pend.filter (fun e => grpClass s e.1 == best))
  else oldest aged

def enter (s : State) (e : Workgroup × Nat × Group) : State := modGrp s e.1.id e.2.1 (fun g => { g with active := true, since := now s })
def leave (s : State) (e : Workgroup × Nat × Group) : State := modGrp s e.1.id e.2.1 (fun g => { g with active := false, since := now s })

/-- ACTIVE_SET_EXCHANGE at slot `b` of core `a`: a free place, or that of a group that is not ready, is filled. -/
def execActiveSetExchange (s : State) : Host.Outcome State Fault Refusal :=
  let core := s.arg.a
  let slot := s.arg.b
  .next (match chooseGroup s core slot with
  | none => s
  | some e =>
    let act := (slotGroups s core slot).filter (fun e => e.2.2.active)
    if act.length < 8 then enter s e
    else match oldest (act.filter (fun e => !groupReady s e.1 e.2.1)) with
      | none => s
      | some o => enter (leave s o) e)

/-- SCHEDULER_ROTATE at slot `b` of core `a` (R112 step 3). -/
def execSchedulerRotate (s : State) : Host.Outcome State Fault Refusal :=
  let core := s.arg.a
  let slot := s.arg.b
  let all := slotGroups s core slot
  let act := all.filter (fun e => e.2.2.active)
  let aged := all.filter (fun e => !e.2.2.active && groupReady s e.1 e.2.1 && decide (256 ≤ now s - e.2.2.since))
  .next (match oldest aged, oldest act with
  | some e, some o => if act.length < 8 || act.any (fun e => !groupReady s e.1 e.2.1) then s else enter (leave s o) e
  | _, _ => s)

/-- SLEEP_WAKE: the gang of quad `c` of group `b` of workgroup `a` reaches its wake time. -/
def execSleepWake (s : State) : Host.Outcome State Fault Refusal :=
  .next (match findGrp s s.arg.a s.arg.b with
  | none => s
  | some g =>
    match (quadAt g s.arg.c).st, (quadAt g s.arg.c).park with
    | .parked, .sleep wake =>
      if wake ≤ now s then modGrp s s.arg.a s.arg.b (fun g => settle (modQuads g (gangOf g s.arg.c) (fun q => { q with st := .running, park := .none })))
      else s
    | _, _ => s)

/-! ## Device time -/

/-- Device time advances; a pending group that is not ready has no age (R112). -/
def tickBy (s : State) (n : Nat) : State :=
  let s1 := { s with clk := s.clk + BitVec.ofNat 64 n }
  { s1 with wgs := s1.wgs.map (fun w => { w with groups := (List.range w.groups.length).filterMap (fun k =>
      (w.groups[k]?).map (fun g => if g.active || g.ended || groupReady s w k then g else { g with since := now s1 })) }) }

end Sys2Proof.Machine
end

