-- ==== Sys2Proof/Machine/Complete.lean ====
section
/-! DEFINITION. Completions of a group's words: sectors, stores, atomics, reductions, lane words (R154, R192, R208, R209,
R292); resolution of a predicted branch (R124); fault replies and PAGE_FAULT (R195-R197, R318). -/
namespace Sys2Proof.Machine

/-! ## Memory operations -/

/-- Physical addresses that the event which led from `s` to `t` reached for a group. -/
def placesDone (s t : State) (wg grp : Nat) : List Nat :=
  match findGrp s wg grp with
  | none => []
  | some g => g.ops.flatMap (fun o => (List.range o.accs.length).filterMap (fun i => match o.accs[i]? with
    | some a =>
      let left := match (findOp t wg grp o.id).bind (fun k => k.accs[i]?) with | some b => b.st == .todo | none => false
      (match a.loc with
      | .global pa => if a.st == .todo && !left then some pa else none
      | _ => none)
    | none => none))

/-- An event of a group's accesses: one with more accesses than the open yield windows have room for waits (R283). An unbroken sequence of R208 is one access (log 122). -/
def withYield (s t : State) (wg grp : Nat) (whole : Bool) : State :=
  if s.calls.all (fun c => c.yld.isNone) then t
  else
    let pas := placesDone s t wg grp
    let pas := if whole then pas.take 1 else pas
    if yieldRoom s (accClass s wg) pas then t else s

/-- An earlier access of the piece's lane to the same peer is still to be performed (R298). -/
def peerBlocked (g : Group) (o : Op) (a : Acc) : Bool :=
  match a.loc with
  | .peer k _ => peerAhead (g.ops.takeWhile (fun p => p.id != o.id)) (if o.scalar then o.lanes else laneBit a.lane) k
  | _ => false

/-- What a load of a workgroup finds in the bytes a peer sent for piece `i`: its own buffered bytes are laid over them, over whole
chunks whose other bytes nothing determines (R201, R299). -/
def peerSee (s : State) (wg i : Nat) (a : Acc) (bs : List Byte) : List (Byte × Bool) :=
  let buf := bufOf s wg
  if buf.isEmpty then bs.map (fun b => (b, false))
  else
    let c := chunkOf a.loc
    let base := (List.range ((c.2 + a.len + 15) / 16 * 16)).map (fun k =>
      (if c.2 ≤ k ∧ k < c.2 + a.len then bs.getD (k - c.2) 0 else (Config.freeWord (s.freeCtr + 32 * i + k)).extractLsb' 0 8, false))
    ((buf.foldl (overlayOne c.1) base).drop c.2).take a.len

/-- Bytes a peer sent for the pieces chosen by `f`, in order, as `see` finds them (R298). -/
def takePeer (see : Nat → Acc → List Byte → List (Byte × Bool)) (f : Nat → Acc → Bool) (o : Op) (bs : List Byte) : Op :=
  let r := (List.range o.accs.length).foldl (fun (e : List Acc × List Byte) i =>
    match o.accs[i]? with
    | none => e
    | some a =>
      if isPeer a.loc && a.st == .todo && f i a then
        (e.1 ++ [{ a with got := see i a (slice e.2 0 a.len), st := if o.kind == .load || o.ret then .performed else .done }], e.2.drop a.len)
      else (e.1 ++ [a], e.2)) ([], bs)
  { o with accs := r.1 }

def seePlain (_ : Nat) (_ : Acc) (bs : List Byte) : List (Byte × Bool) := bs.map (fun b => (b, false))

/-- How many pieces stand up to the last of a sector. -/
def upToSector (o : Op) (sec : Nat) : Nat :=
  match ((List.range o.accs.length).filter (fun i => match o.accs[i]? with
    | some a => sectorOf a == sec
    | none => false)).reverse with
  | [] => 0
  | i :: _ => i + 1

/-- SECTOR_RETURN: sector `d` of load `c` of group `b` of workgroup `a` returns; a peer's bytes stand in `bytes`. -/
def execSectorReturn (s : State) : Host.Outcome State Fault Refusal :=
  let x := s.arg
  .next (match findGrp s x.a x.b with
  | none => s
  | some g =>
    match g.ops.find? (fun o => o.id == x.c) with
    | none => s
    | some o =>
      if o.kind != .load || opStalled s x.a g o.id then s
      else
        let here := fun (a : Acc) => sectorOf a == x.d
        let s1 := performTo s x.a x.b o.id (upToSector o x.d)
        let s2 := if (bufOf s1 x.a).isEmpty then s1 else { s1 with freeCtr := s1.freeCtr + 32 * o.accs.length }
        withYield s (deliverWhere here (modOp s2 x.a x.b o.id (fun o => takePeer (peerSee s1 x.a) (fun _ a => here a && !peerBlocked g o a) o x.bytes)) x.a x.b o.id) x.a x.b false)

/-- STORE_PERFORMED: the first `d` pieces of store `c` are performed. -/
def execStorePerformed (s : State) : Host.Outcome State Fault Refusal :=
  let x := s.arg
  .next (match findGrp s x.a x.b with
  | none => s
  | some g =>
    match g.ops.find? (fun o => o.id == x.c) with
    | none => s
    | some o =>
      if o.kind != .store || opStalled s x.a g o.id then s
      else withYield s (finishOps (modOp (performTo s x.a x.b o.id x.d) x.a x.b o.id (takePeer seePlain (fun i a => decide (i < x.d) && !peerBlocked g o a) · [])) x.a x.b) x.a x.b false)

/-- ATOMIC_PERFORMED: the sequences of atomic or reduction `c` are performed; a peer's old values stand in `bytes`. -/
def execAtomicPerformed (s : State) : Host.Outcome State Fault Refusal :=
  let x := s.arg
  .next (match findGrp s x.a x.b with
  | none => s
  | some g =>
    match g.ops.find? (fun o => o.id == x.c) with
    | none => s
    | some o =>
      if !(o.kind == .atom || o.kind == .red) || opStalled s x.a g o.id then s
      else
        let s1 := modOp (performAll s x.a x.b o.id) x.a x.b o.id (takePeer seePlain (fun _ a => !peerBlocked g o a) · x.bytes)
        withYield s (if o.ret then deliverWhere (fun _ => true) s1 x.a x.b o.id else finishOps s1 x.a x.b) x.a x.b true)

/-- Updates of the reduction stand in the open interval's buffer, so it is accepted at the commit; not one whose every update stands
in the operand log (R201, R209). -/
def redBuffered (s : State) (wg : Nat) (o : Op) : Bool :=
  match (findWg s wg).bind (fun w => w.chk) with
  | some c => decide (c.mark ≤ o.id) && o.accs.any (fun a => !(a.st == .logged || a.st == .resolved))
  | none => false

/-- RED_ACCEPTED: every update of RED `c` has left the core or stands in the operand log, and its flag falls (R209). -/
def execRedAccepted (s : State) : Host.Outcome State Fault Refusal :=
  let x := s.arg
  .next (match findOp s x.a x.b x.c with
  | none => s
  | some o =>
    if o.kind != .red || o.accepted || redBuffered s x.a o || o.accs.any (fun a => a.st == .unlogged) then s
    else modGrp s x.a x.b (fun g =>
      finishGrp { flagDec g o.flag with ops := g.ops.map (fun p => if p.id = o.id then { p with accepted := true } else p) }))

/-! ## Long-latency lane words (R154) -/

/-- LANE_WORD_COMPLETE: lane word `c` of group `b` of workgroup `a` writes its results or meets its condition. A predicted
word whose condition is met waits for its branch, and an earlier refused access traps first (R314). All slots of the word are written in this one event (R41, log 119). -/
def execLaneWordComplete (s : State) : Host.Outcome State Fault Refusal :=
  let x := s.arg
  .next (match findWg s x.a with
  | none => s
  | some w =>
    match w.groups[x.b]?, findLaunch s w.launch with
    | some g, some l =>
      match g.ops.find? (fun o => o.id == x.c && (o.kind == .laneWord || o.kind == .crd) && !o.outs.isEmpty) with
      | none => s
      | some o =>
        let en := enablesOf l
        if o.kind == .laneWord && condLanes g en o.outs != 0 then
          (if (dueRefusals g).any (fun r => decide (r.op < o.id)) then s
           else if trapWaits g then modGrp s x.a x.b (fun g => modQuads g o.quads stopRun)
           else takeTrapOf s x.a x.b o.id (opTrap o (condLanes g en o.outs)))
        else modGrp s x.a x.b (fun g =>
          let g1 := { flagDrop g o with ops := g.ops.filter (fun p => p.id != o.id) }
          releaseHold (o.outs.foldl (writeOut o.id) g1))
    | _, _ => s)

/-! ## Resolution of a predicted branch (R124) -/

/-- The lanes of an undo entry. -/
def undoLane (k : UndoKey) : Nat := match k with | .v _ l _ => l | .p _ l _ => l

/-- The side a quad was predicted on, and the other one. -/
def sideOf (p : Pred) : Word := if p.onTarget then p.tgt else p.fall
def otherSide (p : Pred) : Word := if p.onTarget then p.fall else p.tgt
/-- Lanes of a predicted quad that truly take its side. -/
def trueLanes (a : Quad) (p : Pred) : QMask := p.lanes &&& a.live &&& (if p.onTarget then p.truth else ~~~p.truth)

/-- Where a predicted quad goes on after resolution (R124 step 5). -/
def resolvedTo (g : Group) (q : Nat) : Word :=
  match (quadAt g q).pred with
  | none => 0
  | some p => if trueLanes (quadAt g q) p = 0 then otherSide p else sideOf p

/-- The GANG entry that R117 asks of the true division and the prediction, which took the gang one way, did not push (log 128). -/
def lateGang (p : Pred) (g : Group) : List StackEntry :=
  let guess := fun q => match (quadAt g q).pred with | none => 0 | some k => sideOf k
  if p.rj.isSome && !apart p.gang guess && apart p.gang (resolvedTo g) then [gangEntry p.rj p.gang false] else []

/-- Stack of a quad after resolution, over the entries `base` of `lateGang`: its LANE entry, if the prediction pushed one,
holds the pending lanes. -/
def resolveStack (p : Pred) (pend : QMask) (base st : List StackEntry) : List StackEntry :=
  let clear := fun (l : List StackEntry) => base ++ l.map (fun e => { e with spec := false })
  let fresh := laneEntry p.rj (otherSide p) pend p.lanes false none
  match st with
  | e :: r =>
    if e.spec && e.kind == .lane then (if pend = 0 then clear r else { e with spec := false, pmask := pend, ppc := otherSide p } :: clear r)
    else if pend = 0 then clear st else fresh :: clear st
  | [] => if pend = 0 then base else fresh :: base

/-- One quad of the gang at resolution. -/
def resolveQuad (base : List StackEntry) (g : Group) (q : Nat) : Group :=
  let a := quadAt g q
  match a.pred with
  | none => g
  | some p =>
    let r := p.lanes &&& a.live
    let ts := trueLanes a p
    let start := sideOf p
    let x := a.run
    let y := r &&& ~~~x
    let keep := x &&& ts
    let squash := x &&& ~~~ts
    let again := y &&& ts
    let pend := r &&& ~~~ts
    let u := p.undo.filter (fun k => hasLane (quadLift squash q) (undoLane k))
    let g0 := dropLanes p.mark (quadLift squash q) (undoKeys g u)
    let g1 := if keep = 0 then leaveOps p.mark (quadBit q) g0 else g0
    modQuads g1 (quadBit q) (fun a =>
      let b := { a with pred := none }
      if ts = 0 then { b with run := r, pc := otherSide p, clause := none, stack := resolveStack p 0 base a.stack }
      else
        let st := resolveStack p pend base a.stack
        if keep = 0 then { b with run := again, pc := start, clause := none, stack := st }
        else if again = 0 ∨ p.issued = 0 then { b with run := keep ||| again, stack := st }
        else { b with run := keep, stack := st,
                      replay := some { lanes := again, pc := start, clause := none, left := p.issued, start := start, mark := p.mark, undo := p.undo, atWord := false } })

/-- BRANCH_RESOLVE: the predicates of the branch that quad `c` of group `b` of workgroup `a` runs under are available. -/
def execBranchResolve (s : State) : Host.Outcome State Fault Refusal :=
  let x := s.arg
  .next (match findWg s x.a with
  | none => s
  | some w =>
    match w.groups[x.b]? with
    | none => s
    | some g =>
      match (quadAt g x.c).pred with
      | none => s
      | some p =>
        let qs := (quadsOf p.gang).filter (fun q => match (quadAt g q).pred with
          | some k => k.brPc == p.brPc && k.gang == p.gang
          | none => false)
        let lanes := fun (f : Pred → QMask) => qs.foldl (fun m q => match (quadAt g q).pred with
          | some k => m ||| quadLift (f k) q
          | none => m) (0 : LMask)
        let key := Config.predictorHash p.brPc.toNat g.slot % 2048
        predUpdate (modGrp s x.a x.b (fun g => settle (qs.foldl (resolveQuad (lateGang p g)) g))) (coreOf s w) key (lanes Pred.lanes) (lanes Pred.truth))

/-! ## Fault replies (R318) -/

/-- A page is refused for a gang that waits for it. -/
def refuseQuad (page : Nat) (q : Quad) : Quad :=
  match q.st, q.park with
  | .parked, .fault k => if k = page then { q with refused := page :: q.refused } else q
  | _, _ => q

def refuseWait (page : Nat) (wait : Option Nat) (refused : List Nat) : List Nat := if wait = some page then page :: refused else refused

/-- A launch's engine hears of the page it waits for: a core's palette copy, or the release of a pin or the completion block. -/
def answerLaunch (page : Nat) (refused : Bool) (l : Launch) : Launch :=
  let l1 := { l with waitPage := none, waitCore := none }
  if !refused then l1
  else match l.waitCore with
    | some pc => { l1 with palRefused := (pc, page) :: l.palRefused }
    | none => { l1 with refused := page :: l.refused }

/-- Engines that wait on a page try it again, or know it refused (R72, R85, R260, R278). -/
def answerEngines (s : State) (part page : Nat) (refused : Bool) : State :=
  let ask := fun (wait : Option Nat) (l : List Nat) => if refused then refuseWait page wait l else l
  let done := fun (wait : Option Nat) => if wait = some page then none else wait
  { s with
    copies := s.copies.map (fun c => if c.part = part then { c with refused := ask c.waitPage c.refused, waitPage := done c.waitPage } else c),
    calls := s.calls.map (fun c => if c.part = part then { c with refused := ask c.waitPage c.refused, waitPage := done c.waitPage } else c),
    launches := s.launches.map (fun l => if l.part = part && l.waitPage == some page then answerLaunch page refused l else l),
    parts := s.parts.map (fun e => if e.1 = part then (e.1, { e.2 with reqs := e.2.reqs.map (fun r =>
      { r with refused := ask r.waitPage r.refused, waitPage := done r.waitPage }) }) else e) }

/-- Every group of a partition. -/
def partGroups (s : State) (part : Nat) : List (Nat × Nat) :=
  (s.wgs.filter (fun w => match findLaunch s w.launch with | some l => l.part == part | none => false)).flatMap
    (fun w => (List.range w.groups.length).map (fun k => (w.id, k)))

/-- The page is answered for everything that waits on it. -/
def answerPage (s : State) (part page : Nat) (refused : Bool) : State :=
  let gs := partGroups s part
  let s1 := gs.foldl (fun s e =>
    if refused then modGrp (refusePage s e.1 e.2 page) e.1 e.2 (fun g => { g with quads := g.quads.map (refuseQuad page), ctx := g.ctx.map (refuseQuad page) })
    else replayPage s e.1 e.2 page) s
  answerEngines (answerCalls s1 part page refused) part page refused

/-- FAULT_REPLY: a reply of R318; one that names no unanswered FAULT, or is malformed, is ignored. -/
def execFaultReply (s : State) : Host.Outcome State Fault Refusal :=
  let b := s.arg.msg.bytes
  let part := fieldAt b 1 1
  let code := fieldAt b 4 1
  .next (if b.length != 16 || fieldAt b 0 1 != 0x52 || s.arg.msg.cls != 0 || decide (1 < code) || fieldAt b 5 11 != 0 then s
  else match s.faults.find? (fun f => f.part == part && f.seq.toNat == fieldAt b 2 2) with
    | none => s
    | some f => answerPage (forgetPage { s with faults := s.faults.filter (fun k => k != f) } part f.page) part f.page (code == 1))

/-! ## PAGE_FAULT (R196) -/

/-- The refusals of one word that stand together, with the address of the lowest lane refused (R196, R315). -/
def refusalOf (g : Group) : Option RefusalRec :=
  match dueRefusals g with
  | [] => none
  | r :: _ =>
    let mine := (dueRefusals g).filter (fun k => k.op == r.op && k.copy == r.copy)
    let m := mine.foldl (fun m k => m ||| k.lanes) (0 : LMask)
    some { r with lanes := m, va := (((lowestLane m).bind (fun l => mine.find? (fun k => hasLane k.lanes l))).getD r).va }

/-- Quads whose replay cannot go on issue their side again from its start, so that no trap waits for them for ever (R127, log 24). -/
def freeReplays (s : State) (w : Workgroup) (g : Group) : Group :=
  restartQuads (qmaskOf (fun q => (quadAt g q).replay.isSome && !quadReady s w g q)) g

/-- Destination slots that take bytes of a refused piece. -/
def refusedSlots (o : Op) : List (Nat × Nat) :=
  if o.kind == .load || o.ret then
    ((slotLanes o).flatMap (fun l => (List.range (slotsOf o.width)).map (fun k => (l, k)))).filter (fun e => (slotAccs o e.1 e.2).any (fun a => a.st == .refused))
  else []

/-- A piece brings bytes of one of the slots. -/
def feeds (slots : List (Nat × Nat)) (a : Acc) : Bool := slots.any (fun e => e.1 == a.lane && decide (a.off < 4 * e.2 + 4) && decide (4 * e.2 < a.off + a.len))

/-- What is kept of a refused word for the handler: its refused pieces, and those that share a slot with them (R192, R196). -/
def keptOf (o : Op) : Op :=
  let bad := refusedSlots o
  let all := (slotLanes o).flatMap (fun l => (List.range (slotsOf o.width)).map (fun k => (l, k)))
  { o with flag := none, accs := o.accs.filter (fun a => a.st == .refused || feeds bad a), skip := all.filter (fun e => !bad.contains e) }

/-- What is left of it: pieces for the slots that no refusal touches; the others stay unwritten. -/
def leftOf (o : Op) : Op :=
  let bad := refusedSlots o
  let all := ((slotLanes o).flatMap (fun l => (List.range (slotsOf o.width)).map (fun k => (l, k)))).filter (fun e => !bad.contains e && !o.skip.contains e)
  { o with flag := none, skip := o.skip ++ bad,
           accs := o.accs.filter (fun a => a.st != .refused && (!feeds bad a || feeds all a)) }

/-- Refused entries of an operation are kept for the handler, and its flag falls. -/
def keepRefused (id : Nat) (g : Group) : Group :=
  match g.ops.find? (fun o => o.id == id) with
  | none => g
  | some o => finishGrp { flagDec g o.flag with kept := g.kept ++ [keptOf o], ops := g.ops.map (fun k => if k.id = id then leftOf k else k) }

def launchEnables (s : State) (w : Workgroup) : BitVec 5 := match findLaunch s w.launch with | some l => enablesOf l | none => 0

/-- PAGE_FAULT_TRAP: group `b` of workgroup `a` takes its refused fault at its word boundary; one of a CHECKED workgroup that is
to be saved, before its cut (R334, R341). A pending lane word issued before the refused one traps first, and the refusal stands
(R314 step 2). -/
def execPageFaultTrap (s : State) : Host.Outcome State Fault Refusal :=
  let x := s.arg
  .next (match findWg s x.a with
  | none => s
  | some w =>
    match w.groups[x.b]? with
    | none => s
    | some g =>
      match refusalOf g with
      | none => s
      | some r =>
        if wgHalted s w then s
        else if g.quads.any (fun q => q.replay.isSome) && (freeReplays s w g).quads != g.quads then modGrp s x.a x.b (freeReplays s w)
        else if trapWaits g || !(w.place == .live || (w.place == .saving && w.chk.isSome)) || (quads4.any (fun q => midWord g q)) then s
        else
          let q := ((quadsOf r.quads ++ quads4).find? (fun q => (quadAt g q).live != 0)).getD ((quadsOf r.quads).headD 0)
          let a := quadAt g q
          let va := match (g.ops.find? (fun o => o.id == r.op)).bind (fun o => o.accs.find? (fun k => k.st == .refused && some k.lane == lowestLane r.lanes)) with
            | some k => k.va
            | none => r.va
          let g1 := match trapsFirst (launchEnables s w) g r.op with
            | some _ => g
            | none => keepRefused r.op { g with refusals := g.refusals.filter (fun k => !(k.op == r.op && k.copy == r.copy)) }
          takeTrapOf (modGrp s x.a x.b (fun _ => g1)) x.a x.b r.op
            { kind := .pageFault, sub := 0, mask := r.lanes, addr := va, info := (if r.write then 1 else 0) + (if r.copy then 2 else 0), wtype := 0,
              outs := [], pc := r.pc, resume := a.pc, quads := gangOf g1 q, header := atHeader a })

end Sys2Proof.Machine
end

