-- ==== Sys2Proof/Machine/Copies.lean ====
section
/-! DEFINITION. Copies (R248-R263): boxes, range locks, the bytes a copy moves, tiles, and the events of a copy. -/
namespace Sys2Proof.Machine

/-! ## Range locks (R252, R253, R255) -/

/-- A lock over a range rounded outward to 64 bytes. -/
def mkLock (s : State) (die : Nat) (write : Bool) (sp : LockSpace) (lo hi launch owner : Nat) : Lock :=
  { id := s.nextId, die := die, write := write, space := sp, lo := lo / 64 * 64, hi := hi / 64 * 64 + 63, launch := launch, owner := owner }

/-- Entries of a die's range-lock table (R13), and room there for new locks. -/
def lockTable : Nat := 256
def lockRoom (s : State) (ks : List Lock) : Bool :=
  ks.all (fun k => decide ((s.locks.filter (fun e => e.die == k.die)).length + (ks.filter (fun e => e.die == k.die)).length ≤ lockTable))

def addLock (s : State) (k : Lock) : State := { s with locks := s.locks ++ [{ k with id := s.nextId }], nextId := s.nextId + 1 }
def dropLocks (s : State) (owner : Nat) : State := { s with locks := s.locks.filter (fun k => k.owner != owner) }
def dropReadLocks (s : State) (owner : Nat) : State := { s with locks := s.locks.filter (fun k => k.owner != owner || k.write) }

/-- The owner waits for a conflicting lock that a copy or call registered earlier in the same table (R253, R277). -/
def lockWaits (s : State) (owner : Nat) : Bool :=
  (s.locks.filter (fun k => k.owner == owner)).any (fun k =>
    s.locks.any (fun e => decide (e.id < k.id) && e.owner != owner && e.die == k.die && e.space == k.space && (k.write || e.write)
      && decide (e.lo ≤ k.hi) && decide (k.lo ≤ e.hi) && (s.copies.any (fun c => c.id == e.owner) || s.calls.any (fun c => c.id == e.owner))))

/-! ## Accesses of the group that precede a copy or a call (R251, R277) -/

/-- Earlier operations that cannot be performed now: held by a fault, stalled, under way at a peer, or without room in a yield window. Before a copy the
group's REDs are performed too (R251); a call stands in no order with them (R277, R291). -/
def prevBlocked (s : State) (reds : Bool) (wg grp limit : Nat) : Bool :=
  match findGrp s wg grp with
  | none => false
  | some g =>
    let mine := fun (o : Op) => (reds || o.kind != .red) && decide (o.id < limit)
    g.ops.any (fun o => mine o && o.accs.any (fun a => heldAcc a || (a.st == .todo && (isPeer a.loc || stalledAt s wg a.loc))))
      || !opsRoom s wg g mine

def performPrev (s : State) (reds : Bool) (wg grp limit : Nat) : State :=
  match findGrp s wg grp with
  | none => s
  | some g => (g.ops.filter (fun o => (reds || o.kind != .red) && decide (o.id < limit))).foldl (fun s o => performAll s wg grp o.id) s

/-! ## The bytes of a copy -/

/-- What reading or reaching one byte comes to. -/
inductive CopyByte where
  | data (b : Byte) (bad : Bool)
  /-- The byte lies in a refused page, or a peer's out of reach. -/
  | skip (va : Nat)
  | fault (va : Nat)
  | stall

/-- A copy's access to an address stalls (R199, R283). -/
def copyStalls (s : State) (c : Copy) (pa : Nat) : Bool := stalledFor s (launchClass s c.launch) pa

/-- A byte of global memory that a copy reads; `peer` is the byte a peer sent for it. -/
def copyRead (s : State) (c : Copy) (peer : Byte) (va : Nat) : CopyByte × State :=
  if c.refused.contains (pageOf va) then (.skip va, s)
  else match translateFor s c.die c.part va false with
  | (none, s1) => (.fault va, s1)
  | (some p, s1) => match p.peer with
    | some k => (if peerGone s1 c.part k then .skip va else .data peer false, s1)
    | none => if copyStalls s1 c p.pa then (.stall, s1)
      else match memRead s1 p.pa 1 with
        | [(b, bad)] => (.data b bad, s1)
        | _ => (.stall, s1)

/-- Byte `o` of a box in global memory, each part read in its turn. -/
def boxRead (s : State) (c : Copy) (peer : Byte) (o : Nat) : List BoxPart → CopyByte × State
  | [] => (.data 0 false, s)
  | p :: r =>
    match boxRead s c peer o r with
    | (.data hi hb, s1) =>
      let e := fmtBits c.shape.fmt
      let join := fun (x : Nat) (bad : Bool) => CopyByte.data (BitVec.ofNat 8 (if e = 4 then x % 16 + 16 * hi.toNat else x)) (bad || hb)
      (match p.va with
      | none => (join (fillByte c.shape o) false, s1)
      | some va => match copyRead s1 c peer va with
        | (.data b bad, s2) => (join (if p.high then b.toNat / 16 else b.toNat) bad, s2)
        | x => x)
    | x => x

/-- Source byte `o` of a copy that is no tile. -/
def copySource (s : State) (c : Copy) (peer : Byte) (o : Nat) : CopyByte × State :=
  match c.kind with
  | .cpy | .cpymBox => boxRead s c peer o (boxByte c.shape c.coord o)
  | _ =>
    let at' := c.src.2 + (if c.kind = .cpyc then swz o c.shape.swz else o)
    match c.snap[o]? with
    | some b => (.data b.1 b.2, s)
    | none => match findWg s c.src.1 with
      | some w => (match winRead w at' 1 with
        | [(b, bad)] => (.data b bad, s)
        | _ => (.stall, s))
      | none => (.stall, s)

/-- The issuing group is told of a refused page once (R260). -/
def tellRefused (s : State) (c : Copy) (va : Nat) : State :=
  if c.told.contains (pageOf va) then s
  else
    let s1 := modCopy s c.id (fun c => { c with told := pageOf va :: c.told, refused := pageOf va :: c.refused })
    addRefusal s1 c.wg c.grp { pc := c.pc, lanes := laneBit c.lane, va := va, write := c.kind == .cpyc, copy := true, op := c.id, quads := c.quads, stands := false }

/-- Bits of a byte of global memory that a CPYC writes: all, or one half. A part in a refused page keeps its value, and the others
are written all the same (R260). -/
def boxWrite (s : State) (c : Copy) (b : Byte) (bad : Bool) : List BoxPart → CopyByte × State
  | [] => (.data b bad, s)
  | p :: r =>
    let e := fmtBits c.shape.fmt
    let rest := BitVec.ofNat 8 (b.toNat / 16)
    let pass := fun (s : State) (va : Nat) => match boxWrite s c rest bad r with
      | (.data _ _, s1) => (CopyByte.skip va, s1)
      | (.skip va', s1) => (.skip va', tellRefused s1 c va)
      | x => x
    match p.va with
    | none => boxWrite s c rest bad r
    | some va =>
      if c.refused.contains (pageOf va) then pass s va
      else match translateFor s c.die c.part va true with
      | (none, s1) => (.fault va, s1)
      | (some q, s1) => match q.peer with
        | some k => if peerGone s1 c.part k then pass s1 va else boxWrite s1 c rest bad r
        | none =>
          if copyStalls s1 c q.pa then (.stall, s1)
          else
            let old := (memByte s1 q.pa).toNat
            let x := if e != 4 then b else BitVec.ofNat 8 (if p.high then old % 16 + 16 * (b.toNat % 16) else old / 16 * 16 + b.toNat % 16)
            boxWrite (memWriteP s1 q.pa [(x, bad)]) c rest bad r

/-- A byte reaches its destinations; those of an ended workgroup take none (R188). -/
def copyPut (s : State) (c : Copy) (o : Nat) (b : Byte) (bad : Bool) : CopyByte × State :=
  match c.kind with
  | .cpyc => boxWrite s c b bad (boxByte c.shape c.coord o)
  | _ =>
    let at' := c.boff + (if c.kind = .cpys then o else swz o c.shape.swz)
    (.data b bad, c.recv.foldl (fun s r => modWg s r (fun w => if wgEnded w then w else winWriteP w at' [(b, bad)])) s)

/-- The next `n` bytes of a copy that is no tile; `bs` are bytes that peers sent. A fault holds the copy at its line. -/
def copyMove (id : Nat) (bs : List Byte) (tag : Nat) : Nat → State → State
  | 0, s => s
  | n + 1, s =>
    match findCopy s id with
    | none => s
    | some c =>
      if c.total ≤ c.moved ∨ c.waitPage.isSome then s
      else
        let hold := fun (s : State) (va : Nat) (wr : Bool) =>
          raiseFault (modCopy s id (fun c => { c with waitPage := some (pageOf va) })) c.part va ((if wr then 1 else 0) + 2) tag
        let next := fun (s : State) => copyMove id bs.tail tag n (modCopy s id (fun c => { c with moved := c.moved + 1 }))
        match copySource s c (bs.headD 0) c.moved with
        | (.skip va, s1) => next (tellRefused s1 c va)
        | (.fault va, s1) => hold s1 va false
        | (.stall, s1) => s1
        | (.data b bad, s1) =>
          match copyPut s1 c c.moved b bad with
          | (.skip va, s2) => next (tellRefused s2 c va)
          | (.fault va, s2) => hold s2 va true
          | (.stall, s2) => s2
          | (.data _ _, s2) => next s2

/-- Bytes of the copy up to the end of the 16-byte piece that its next byte is written in: of a receiver's window, or of global
memory (R192, R295). -/
def pieceLen (c : Copy) : Nat :=
  let left := min 16 (c.total - c.moved)
  if c.kind = .cpyc then
    let chunk := fun (i : Nat) => ((boxByte c.shape c.coord (c.moved + i)).head?.bind BoxPart.va).map (· / 16)
    ((List.range left).takeWhile (fun i => chunk i == chunk 0)).length
  else min left (16 - c.moved % 16)

/-- One piece of a copy, written whole or not at all (R295); each access to a bank of an open yield window counts there. -/
def copyPiece (s : State) (c : Copy) (bs : List Byte) (tag : Nat) : State :=
  let n := pieceLen c
  let pas := copyGoal s c
  let s1 := copyMove c.id bs tag n s
  match findCopy s1 c.id with
  | none => s1
  | some c1 =>
    if !yieldRoom s (launchClass s c.launch) pas then s
    else if c.moved + n ≤ c1.moved then yieldServe s1 pas
    else modCopy { s1 with mem := s.mem, memPoison := s.memPoison, wgs := s.wgs, copies := s.copies } c.id (fun c => { c with waitPage := c1.waitPage })

/-- The pieces of a copy that begin among its next `n` bytes. -/
def copyRun (id : Nat) (tag stop : Nat) : Nat → List Byte → State → State
  | 0, _, s => s
  | n + 1, bs, s =>
    match findCopy s id with
    | none => s
    | some c =>
      if stop ≤ c.moved ∨ c.total ≤ c.moved ∨ c.waitPage.isSome then s
      else
        let s1 := copyPiece s c bs tag
        match findCopy s1 id with
        | some c1 => if c1.moved = c.moved then s1 else copyRun id tag stop n (bs.drop (c1.moved - c.moved)) s1
        | none => s1

/-! ## Tiles (R257) -/

/-- 100 µs of device time at 1.75 GHz (R8), the limit of an attempt. -/
def us100 : Nat := 175000
def attemptOver (s : State) (c : Copy) : Bool := decide (us100 < now s - c.attempt)

def tileBytes (wfmt : Nat) : Nat := if wfmt = 2 then 17408 else 16896

/-- One step of CRC-32C on a bit-reflected register. -/
def crcBit (c : Nat) : Nat := if c % 2 = 1 then Nat.xor (c / 2) 0x82F63B78 else c / 2
def crcByte (c : Nat) (b : Byte) : Nat := (List.range 8).foldl (fun c _ => crcBit c) (Nat.xor c b.toNat)
/-- CRC-32C (R80). -/
def crc32c (bs : List Byte) : Nat := Nat.xor (bs.foldl crcByte 0xFFFFFFFF) 0xFFFFFFFF

/-- The next `n` bytes of the tile being read; what comes after the limit comes too late (R257). -/
def tileMove (id : Nat) (bs : List Byte) (tag : Nat) : Nat → State → State
  | 0, s => s
  | n + 1, s =>
    match findCopy s id with
    | none => s
    | some c =>
      match tileAddr c with
      | none => s
      | some a =>
        if tileBytes c.wfmt ≤ c.moved ∨ c.waitPage.isSome ∨ attemptOver s c then s
        else
          let pas := if (a + c.moved) % 64 = 0 ∨ c.moved = 0 then copyGoal s c else []
          if !yieldRoom s (launchClass s c.launch) pas then s
          else match copyRead s c (bs.headD 0) (a + c.moved) with
        | (.data b bad, s1) =>
          tileMove id bs.tail tag n (modCopy (yieldServe s1 pas) id (fun c => { c with moved := c.moved + 1, snap := c.snap ++ [(b, bad)] }))
        | (.fault va, s1) => raiseFault (modCopy s1 id (fun c => { c with waitPage := some (pageOf va) })) c.part va 2 tag
        | (_, s1) => s1

/-- The read can make no more progress: a byte of it lies in a refused page, or a peer's out of reach. -/
def tileRefused (s : State) (c : Copy) : Bool :=
  match tileAddr c with
  | none => false
  | some a => match (copyRead s c 0 (a + c.moved)).1 with | .skip _ => true | _ => false

/-- A bank leaves LOADING, and the phaser counts a whole tile (R250); one of an ended workgroup takes nothing (R188). -/
def tileLand (c : Copy) (bank kt nt : Nat) (data : Option (List Byte)) (fail : TFail) (s : State) (r : Nat) : State :=
  if (findWg s r).any wgEnded then modBank s r bank (fun b => { b with queue := b.queue.filter (fun e => qEntryId e != c.id) })
  else
  let s0 := if data.isNone then spoil s r bank else s
  let s1 := modBank s0 r bank (fun b =>
    let b1 := { b with queue := b.queue.filter (fun e => qEntryId e != c.id) }
    match data with
    | some bs => { b1 with ts := .valid, fail := .none, tile := smPutList [] 0 bs 0, junk := none, tileBad := [], tfmt := BitVec.ofNat 2 c.wfmt, tset := c.slotSet,
                           tgen := c.slotGen, kt := BitVec.ofNat 12 kt, nt := BitVec.ofNat 12 nt }
    | none => { b1 with ts := .invalid, fail := fail, tfmt := BitVec.ofNat 2 c.wfmt, tset := c.slotSet, tgen := c.slotGen,
                        kt := BitVec.ofNat 12 kt, nt := BitVec.ofNat 12 nt })
  match c.ph with
  | none => s1
  | some b => phDeliver s1 r b (tileBytes c.wfmt)

/-- The read lock moves to the next address to be read. -/
def moveLock (s : State) (c : Copy) : State :=
  let s1 := dropReadLocks s c.id
  match (findCopy s1 c.id).bind tileAddr with
  | none => s1
  | some a => addLock s1 (mkLock s1 c.die false (.global c.part) a (a + tileBytes c.wfmt - 1) c.launch c.id)

/-- An attempt ends with its outcome: none when the bytes are good. The lock moves or falls before a bank's phaser is told
(R302). -/
def attemptEnd (s : State) (c : Copy) (fail : Option TFail) : State :=
  let fresh := fun (c : Copy) (t : List (Nat × List Nat × Word × Nat × Nat)) =>
    { c with tiles := t, moved := 0, snap := [], started := false, waitPage := none, refused := [] }
  match c.tiles with
  | [] => s
  | (bank, addrs, crc, kt, nt) :: rest =>
    match fail, addrs.tail with
    | none, _ => c.recv.foldl (tileLand c bank kt nt (some (c.snap.map Prod.fst)) .none) (moveLock (modCopy s c.id (fun c => fresh c rest)) c)
    | some f, [] => c.recv.foldl (tileLand c bank kt nt none f) (moveLock (modCopy s c.id (fun c => fresh c rest)) c)
    | some _, more => moveLock (modCopy s c.id (fun c => fresh c ((bank, more, crc, kt, nt) :: rest))) c

/-- TILE_ATTEMPT_END: the read of copy `a` has all its bytes, or none more can come. -/
def execTileAttemptEnd (s : State) : Host.Outcome State Fault Refusal :=
  .next (match findCopy s s.arg.a with
  | none => s
  | some c =>
    if !isTileCopy c || !c.started then s
    else match c.tiles with
    | [] => s
    | (_, _, crc, _, _) :: _ =>
      if tileBytes c.wfmt ≤ c.moved then
        attemptEnd s c (if anyBad c.snap || crc32c (c.snap.map Prod.fst) != crc.toNat then some .corrupt else none)
      else if attemptOver s c || tileRefused s c then attemptEnd s c (some .missing)
      else s)

/-- TILE_READ_TIMEOUT: the attempt of copy `a` has run for more than 100 µs. -/
def execTileReadTimeout (s : State) : Host.Outcome State Fault Refusal :=
  .next (match findCopy s s.arg.a with
  | none => s
  | some c => if isTileCopy c && c.started && attemptOver s c && decide (c.moved < tileBytes c.wfmt) then attemptEnd s c (some .missing) else s)

/-! ## The events of a copy -/

/-- Bytes of source and destination share a window. -/
def copyOverlaps (c : Copy) : Bool := c.kind == .cpys && c.recv.contains c.src.1

/-- The four channels of a die each hold a copy that moves bytes (R249). -/
def channelsFull (s : State) (die : Nat) : Bool := decide (4 ≤ (s.copies.filter (fun c => c.die == die && c.started && !copyOver c)).length)

/-- COPY_START: copy `a` takes a channel and begins to move bytes (R249, R251, R253). -/
def execCopyStart (s : State) : Host.Outcome State Fault Refusal :=
  .next (match findCopy s s.arg.a with
  | none => s
  | some c =>
    if c.started || channelsFull s c.die || lockWaits s c.id || prevBlocked s true c.wg c.grp c.after || (isTileCopy c && c.tiles.isEmpty) then s
    else
      let s1 := performPrev s true c.wg c.grp c.after
      let snap := if copyOverlaps c then (match findWg s1 c.src.1 with | some w => winRead w c.src.2 c.total | none => []) else []
      modCopy s1 c.id (fun c => { c with started := true, attempt := now s1, snap := snap }))

def tagOf (s : State) (launch : Nat) : Nat := match findLaunch s launch with | some l => l.tag.toNat | none => 0

/-- The phasers of a copy that is no tile count what was delivered. -/
def copyCount (s : State) (c : Copy) (n : Nat) : State :=
  match c.ph with
  | none => s
  | some b => if c.kind = .cpyc ∨ n = 0 then s else c.recv.foldl (fun s r => phDeliver s r b n) s

/-- COPY_DELIVERY: copy `a` moves the pieces that begin among its next `b` bytes; bytes of peers stand in `bytes`. With the last
of them its locks fall, no later than a phaser is told (R255, R302). -/
def execCopyDelivery (s : State) : Host.Outcome State Fault Refusal :=
  .next (match findCopy s s.arg.a with
  | none => s
  | some c =>
    if !c.started then s
    else if isTileCopy c then tileMove c.id s.arg.bytes (tagOf s c.launch) s.arg.b s
    else
      let s1 := copyRun c.id (tagOf s c.launch) (c.moved + s.arg.b) s.arg.b s.arg.bytes s
      match findCopy s1 c.id with
      | none => s1
      | some c1 => copyCount (if c1.total ≤ c1.moved then dropLocks s1 c.id else s1) c1 (c1.moved - c.moved))

/-- COPY_COMPLETE: everything of copy `a` is in place (R250, R255). -/
def execCopyComplete (s : State) : Host.Outcome State Fault Refusal :=
  .next (match findCopy s s.arg.a with
  | none => s
  | some c =>
    if copyOver c then
      let s1 := modSince (delCopy (dropLocks s c.id) c.id) c.wg c.grp c.id (fun g => flagDec g c.flag)
      match c.kind, c.ph with
      | .cpyc, some b => phOutb s1 c.wg b false
      | _, _ => s1
    else s)

/-! ## Issue of the copy words (R248, R261, R262) -/

/-- A copy word at its elected lane `l`. -/
structure CopyCtx where
  x : Ctx
  l : Nat
  fl : Option Nat
  ph : Bool

def copyTrap (s : State) (k : CopyCtx) (kind : TrapKind) (sub addr info : Nat) : Res :=
  .trap (modGrp s k.x.c.wg k.x.c.grp (forgetPages k.x)) { Trap.at k.x.c kind sub (laneBit k.l) with addr := addr, info := info }

/-- Shell of a copy word: an issue with no elected lane starts no copy; a cut precedes it in a CHECKED launch (R299, R329). -/
def copyIssue (s : State) (w : FmtC) (srcs : List Src) (f : State → CopyCtx → Res) : Host.Outcome State Fault Refusal :=
  withWait s w.g fun s x =>
    let fl := flagSel x.c.clause w.fs
    if flagFull x.g fl then s
    else match lowestLane (x.act &&& x.g.counted) with
    | none => advance s x.c
    | some l =>
      let ph := w.md.getLsbD 0
      withSources s { x with act := laneBit l } (srcs ++ (if ph then [srcOf 3 w.e 1] else [])) fun s =>
        withCut s x fun s => if heldByFault x.g then .wait else f s { x := x, l := l, fl := fl, ph := ph }

/-- A canvas range of a copy's own address: 16-byte aligned (R262). -/
def copyRange (s : State) (k : CopyCtx) (a n : Nat) : Option (Workgroup × Nat) :=
  match canvasAt s k.x.l k.x.w a 0 with
  | some t => if t.2 % 16 = 0 ∧ t.2 + n ≤ k.x.l.cvb then some t else none
  | none => none

/-- A byte offset in a receiver's window that holds `n` bytes. -/
def boffOk (k : CopyCtx) (b n : Nat) : Bool := b / 2 ^ 21 == 0 && b % 16 == 0 && decide (b + n ≤ k.x.l.cvb)

/-- The phaser's byte offset, when PH is set. -/
def phOf (s : State) (k : CopyCtx) (w : FmtC) : Option Nat := if k.ph then some (readN s k.x w.e k.l) else none
def phOk (s : State) (k : CopyCtx) (w : FmtC) : Bool := match phOf s k w with | none => true | some b => boffOk k b 16

/-- 64 copies stand at the die (R249). -/
def copiesFull (s : State) (die : Nat) : Bool := decide (64 ≤ (s.copies.filter (fun c => c.die == die)).length)

/-- A copy as issued, with nothing of its kind in it yet. -/
def copyBase (s : State) (k : CopyCtx) (w : FmtC) (kind : CopyKind) : Copy :=
  { id := s.nextId, kind := kind, launch := k.x.l.id, part := k.x.l.part, wg := k.x.c.wg, grp := k.x.c.grp, flag := k.fl,
    ph := phOf s k w, pc := k.x.c.pc, next := k.x.c.next, quads := k.x.c.quads, lane := k.l, die := dieOf s k.x.w.lcore,
    shape := { base := 0, ndim := 0, swz := 0, box := [], fmt := 0, fillNan := false, size := [], stride := [] }, coord := [], src := (0, 0),
    boff := 0, recv := [], total := 0, moved := 0, started := false, snap := [], tiles := [], slotSet := 0, slotGen := 0, wfmt := 0, attempt := 0,
    refused := [], waitPage := none, after := s.nextId, told := [] }

/-- The copy takes its place and its locks, and the gang goes on; without room for them it waits (R249). -/
def copyStand (s : State) (k : CopyCtx) (c : Copy) (locks : List Lock) : Res :=
  if !lockRoom s locks then .wait
  else
  let s1 := { (freshId s).2 with copies := s.copies ++ [c] }
  let s2 := locks.foldl addLock s1
  .ok (modGrp s2 k.x.c.wg k.x.c.grp (fun g => advanceGrp k.x.c (forgetPages k.x (flagInc g k.fl))))

/-- The word completes at once with no copy. -/
def copyNone (s : State) (k : CopyCtx) : Res := .ok (goOn s k.x)

/-- Where the word has read its shape, its coordinates (R261). -/
def withShape (s : State) (k : CopyCtx) (w : FmtC) (f : State → Shape → List Int → Res) : Res :=
  let a := readInt s k.x w.a 64 false k.l
  withRec s k.x k.fl (laneBit k.l) a 64 fun s b =>
    if shapeBad b then badRecord s k.x (laneBit k.l) a
    else
      let h := shapeOf b
      let last := w.b.code.toNat + h.ndim - 1
      if isVec w.b.code && decide (k.x.l.vcount ≤ last) then copyTrap s k .illegalOp 9 0 0
      else if !isVec w.b.code && decide (0xC0 ≤ last) then copyTrap s k .illegalOp 8 0 0
      else
        let src := [srcOf 1 w.b h.ndim]
        let m := poisonLanes k.x.g src (laneBit k.l)
        if m != 0 then .consumes src m
        else f s h ((List.range h.ndim).map (fun i => toSigned 32 (regWord k.x.g w.b.code i k.l).toNat))

/-- Locks over the global bytes of a box and over its canvas extent. -/
def boxLocks (s : State) (k : CopyCtx) (h : Shape) (coord : List Int) (writeGlobal : Bool) (recv : List Workgroup) (boff : Nat) : List Lock :=
  let g := match boxSpan h coord with
    | none => []
    | some (lo, hi) => [mkLock s (dieOf s k.x.w.lcore) writeGlobal (.global k.x.l.part) lo hi k.x.l.id s.nextId]
  g ++ recv.map (fun t => mkLock s (dieOf s t.lcore) (!writeGlobal) (.canvas t.id) boff (boff + shapeExtent h - 1) k.x.l.id s.nextId)

def execCpy (w : FmtC) (s : State) : Host.Outcome State Fault Refusal :=
  copyIssue s w [srcOf 0 w.a 2, srcOf 2 w.c 1] fun s k =>
    withShape s k w fun s h coord =>
      let a := readN s k.x w.c k.l
      match copyRange s k a (shapeExtent h) with
      | none => copyTrap s k .canvasBounds 0 a 0
      | some (t, boff) =>
        if !phOk s k w then copyTrap s k .canvasBounds 0 ((phOf s k w).getD 0) 0
        else if copiesFull s (dieOf s k.x.w.lcore) then .wait
        else copyStand s k { copyBase s k w .cpy with shape := h, coord := coord, boff := boff, recv := [t.id], total := shapeBytes h }
          (boxLocks s k h coord false [t] boff)

def execCpyc (w : FmtC) (s : State) : Host.Outcome State Fault Refusal :=
  copyIssue s w [srcOf 0 w.a 2, srcOf 2 w.c 1] fun s k =>
    withShape s k w fun s h coord =>
      let a := readN s k.x w.c k.l
      match copyRange s k a (shapeExtent h) with
      | none => copyTrap s k .canvasBounds 0 a 0
      | some (t, boff) =>
        if !phOk s k w then copyTrap s k .canvasBounds 0 ((phOf s k w).getD 0) 0
        else if copiesFull s (dieOf s k.x.w.lcore) then .wait
        else if (match phOf s k w with | some b => (phRead s k.x.c.wg b).outb == 65535 | none => false) then .wait
        else
          let locks := boxLocks s k h coord true [t] boff
          let s1 := match phOf s k w with | some b => phOutb s k.x.c.wg b true | none => s
          copyStand s1 k { copyBase s1 k w .cpyc with shape := h, coord := coord, src := (t.id, boff), total := shapeBytes h } locks

/-- The receivers that a CPYM's mask names (R258). -/
def cpymRecv (s : State) (k : CopyCtx) (c : Nat) : List Workgroup :=
  (List.range 8).filterMap (fun j =>
    if bitOf c (24 + j) && decide (j < k.x.w.tsize) then teamMember s k.x.w (((k.x.w.trank + j) % k.x.w.tsize : Nat) : Int) else none)

def execCpymBox (w : FmtC) (s : State) : Host.Outcome State Fault Refusal :=
  copyIssue s w [srcOf 0 w.a 2, srcOf 2 w.c 1] fun s k =>
    withShape s k w fun s h coord =>
      let c := readN s k.x w.c k.l
      let recv := cpymRecv s k c
      let boff := bitsOf c 23 0
      if !boffOk k boff (shapeExtent h) || recv.any wgEnded then copyTrap s k .canvasBounds 0 boff 0
      else if !phOk s k w then copyTrap s k .canvasBounds 0 ((phOf s k w).getD 0) 0
      else if recv.isEmpty then copyNone s k
      else if copiesFull s (dieOf s k.x.w.lcore) then .wait
      else copyStand s k { copyBase s k w .cpymBox with shape := h, coord := coord, boff := boff, recv := recv.map (fun t => t.id), total := shapeBytes h }
        (boxLocks s k h coord false recv boff)

/-- Reads tile entries `e`, `e` + 1, … that lie in the set, with the replicas that the header just read counts (R80, R262). -/
def withEntries (s : State) (k : CopyCtx) (o : WSlot) (nrepl e : Nat) (acc : List TileEnt) (f : State → List TileEnt → Res) : Nat → Res
  | 0 => f s acc
  | n + 1 =>
    if o.ktiles * o.ntiles ≤ e then f s acc
    else
      let va := o.addr.toNat + 64 + 32 * e
      match readRec s k.x va 32 with
      | (.bytes b, s1) =>
        if tileEntBad nrepl o.ktiles e b then badRecord s1 k.x (laneBit k.l) va
        else withEntries s1 k o nrepl (e + 1) (acc ++ [tileEntOf nrepl b]) f n
      | (.unreadable, s1) => badRecord s1 k.x (laneBit k.l) va
      | (.fault a, s1) => .ok (waitPage s1 k.x k.fl a 0)
      | (.lost p, s1) => copyTrap s1 k .peerLost 0 va p
      | (.stalled, _) => .wait

/-- A tile copy once its entries are read: the checks of R262 rows 2 and 3, and its place. -/
def tileGo (s : State) (k : CopyCtx) (w : FmtC) (kind : CopyKind) (bs : List Nat) (slot e0 : Nat) (recv : List Workgroup) (o : WSlot)
    (es : List TileEnt) : Res :=
  let banksOf := fun (b : Nat) => recv.map (fun t => (bankAt t b).getD bank0)
  let bound := fun (b : Bank) => b.bound && b.slot.toNat == slot
  let sameRec := fun (t : Workgroup) => match slotOfWg t slot with | some p => p.addr == o.addr | none => false
  if !phOk s k w || recv.any (fun t => k.ph && wgEnded t) then copyTrap s k .canvasBounds 0 ((phOf s k w).getD 0) 0
  else if bs.any (fun b => (banksOf b).any (fun x => !x.queue.isEmpty)) then .wait
  else match bs.find? (fun b => (banksOf b).any (fun x => !bound x)), recv.all sameRec, bs.find? (fun b => (banksOf b).any (fun x => x.mode != .fill)) with
  | some b, _, _ => copyTrap s k .copyState 2 0 b
  | none, false, _ => copyTrap s k .copyState 2 0 slot
  | none, true, some b => copyTrap s k .copyState 3 0 b
  | none, true, none =>
    if o.ktiles * o.ntiles < e0 + bs.length then copyTrap s k .copyState 4 0 slot
    else if recv.isEmpty then copyNone s k
    else if copiesFull s (dieOf s k.x.w.lcore) then .wait
    else
      let tiles := (List.zip bs es).map (fun (e : Nat × TileEnt) => (e.1, e.2.addrs, e.2.crc, e.2.kt, e.2.nt))
      let c := { copyBase s k w kind with recv := recv.map (fun t => t.id), tiles := tiles, slotSet := o.setid, slotGen := o.gen, wfmt := o.wfmt.toNat }
      let s1 := recv.foldl (fun s t => bs.foldl (fun s b => modBank s t.id b (fun b =>
        { b with ts := .loading, fail := .none, queue := b.queue ++ [.copy c.id] })) s) s
      copyStand s1 k c (match tileAddr c with
        | some a => [mkLock s1 c.die false (.global c.part) a (a + tileBytes c.wfmt - 1) c.launch c.id]
        | none => [])

/-- CPYW, and CPYM in tile mode. -/
def tileCopy (s : State) (w : FmtC) (kind : CopyKind) (recvOf : State → CopyCtx → Nat → List Workgroup) (e0Of : Nat → Nat) :
    Host.Outcome State Fault Refusal :=
  copyIssue s w [srcOf 0 w.a 2, srcOf 1 w.b 1, srcOf 2 w.c 1] fun s k =>
    let m := readInt s k.x w.a 64 false k.l
    let bs := (List.range k.x.l.cbanks).filter (fun b => bitOf m b)
    let slot := readN s k.x w.b k.l
    let c := readN s k.x w.c k.l
    if bs.isEmpty then copyNone s k
    else match (if slot < k.x.l.wtab.length then slotOfWg k.x.w slot else none) with
    | none =>
      if !phOk s k w then copyTrap s k .canvasBounds 0 ((phOf s k w).getD 0) 0 else copyTrap s k .copyState 1 0 slot
    | some o =>
      withRec s k.x k.fl (laneBit k.l) o.addr.toNat 64 fun s b =>
        if whdrBad b then badRecord s k.x (laneBit k.l) o.addr.toNat
        else withEntries s k o (whdrOf b).nrepl (e0Of c) [] (tileGo · k w kind bs slot (e0Of c) (recvOf s k c) o) bs.length

def execCpyw (w : FmtC) (s : State) : Host.Outcome State Fault Refusal := tileCopy s w .cpyw (fun _ k _ => [k.x.w]) id
def execCpymTile (w : FmtC) (s : State) : Host.Outcome State Fault Refusal := tileCopy s w .cpymTile cpymRecv (· % 2 ^ 24)

def execCpys (w : FmtC) (s : State) : Host.Outcome State Fault Refusal :=
  copyIssue s w [srcOf 0 w.a 1, srcOf 1 w.b 1, srcOf 2 w.c 2] fun s k =>
    let a := readN s k.x w.a k.l
    let len := readN s k.x w.b k.l
    let c := readInt s k.x w.c 64 true k.l
    let boff := bitsOf c 31 0
    let lin := (k.x.w.lin : Int) + toSigned 32 (bitsOf c 63 32)
    match copyRange s k a len with
    | none => copyTrap s k .canvasBounds 0 a 0
    | some (t, sb) =>
      if !boffOk k boff len then copyTrap s k .canvasBounds 0 boff 0
      else if !phOk s k w then copyTrap s k .canvasBounds 0 ((phOf s k w).getD 0) 0
      else if lin < 0 ∨ (gridSize k.x.l : Int) ≤ lin ∨ len = 0 ∨ len % 16 ≠ 0 then copyTrap s k .copyState 5 0 0
      else match s.wgs.find? (fun v => v.launch == k.x.l.id && v.lin == lin.toNat) with
      | none => if k.x.l.next ≤ lin.toNat then .wait else copyNone s k
      | some v =>
        if wgEnded v then copyNone s k
        else if copiesFull s (dieOf s k.x.w.lcore) then .wait
        else copyStand s k { copyBase s k w .cpys with src := (t.id, sb), boff := boff, recv := [v.id], total := len }
          [mkLock s (dieOf s t.lcore) false (.canvas t.id) sb (sb + len - 1) k.x.l.id s.nextId,
           mkLock s (dieOf s v.lcore) true (.canvas v.id) boff (boff + len - 1) k.x.l.id s.nextId]

end Sys2Proof.Machine
end

