-- ==== Sys2Proof/Machine/Launch.lean ====
section
/-! DEFINITION. The launch unit's acceptance (R85-R90, R93, R98): what it reads, the checks in their order, the answers. -/
namespace Sys2Proof.Machine

/-! ## Reading for a partition -/

/-- What a read by the launch unit or the management core comes to. -/
inductive UnitRead where
  /-- Bytes, each with its poison. -/
  | bytes (b : List (Byte × Bool))
  | fault (va : Nat)
  /-- A byte lies in a refused page, or at a peer out of reach. -/
  | gone (va : Nat)
  | stalled

/-- One byte through a partition's table, read in a class (R367); a peer's byte is a free value (log 19). -/
def unitByte (s : State) (part die cls : Nat) (refused : List Nat) (va : Nat) : UnitRead × State :=
  if refused.contains (pageOf va) then (.gone va, s)
  else match translateFor s die part va false with
  | (none, s1) => (.fault va, s1)
  | (some p, s1) => match p.peer with
    | some k => if peerGone s1 part k then (.gone va, s1) else (let w := freshWord s1; (.bytes [(BitVec.ofNat 8 w.1.toNat, false)], w.2))
    | none =>
      let first := if p.pa % 64 = 0 then [p.pa] else []
      if stalledFor s1 cls p.pa || !yieldRoom s1 cls first then (.stalled, s1) else (.bytes (memRead s1 p.pa 1), yieldServe s1 first)

/-- `n` bytes; with `zeros`, bytes that are gone read as zero (R72). -/
def unitRead (s : State) (part die cls : Nat) (refused : List Nat) (zeros : Bool) (va : Nat) : Nat → UnitRead × State
  | 0 => (.bytes [], s)
  | n + 1 =>
    match unitByte s part die cls refused va with
    | (.bytes b, s1) => (match unitRead s1 part die cls refused zeros (va + 1) n with
      | (.bytes r, s2) => (.bytes (b ++ r), s2)
      | e => e)
    | (.gone va', s1) =>
      if zeros then (match unitRead s1 part die cls refused zeros (va + 1) n with
        | (.bytes r, s2) => (.bytes ((0, false) :: r), s2)
        | e => e)
      else (.gone va', s1)
    | e => e

/-- The dies of a partition in ascending order. -/
def partDies (p : Partition) : List Nat := (List.range 32).filter (fun d => p.dies.getLsbD d)

/-! ## The kernel image header (R69-R71) -/

structure ImgHdr where
  codeoff : Nat
  codelen : Nat
  entry : Nat
  regdecl : Nat
  vw : List Word
  paloff : Nat
  pallen : Nat
  recoff : Nat
  reclen : Nat
  dataoff : Nat
  datalen : Nat

def imgOf (b : List Byte) : ImgHdr :=
  { codeoff := fieldAt b 8 4, codelen := fieldAt b 0xC 4, entry := fieldAt b 0x10 4, regdecl := fieldAt b 0x14 4,
    vw := (List.range 4).map (fun k => wordOf (fieldAt b (0x18 + 4 * k) 4)), paloff := fieldAt b 0x28 4, pallen := fieldAt b 0x2C 4,
    recoff := fieldAt b 0x30 4, reclen := fieldAt b 0x34 4, dataoff := fieldAt b 0x38 4, datalen := fieldAt b 0x3C 4 }

def imgVcount (h : ImgHdr) : Nat := bitsOf h.regdecl 7 0
def imgCbmin (h : ImgHdr) : Nat := bitsOf h.regdecl 14 8
def imgCvmin (h : ImgHdr) : Nat := bitsOf h.regdecl 31 16

/-- Two runs of bytes, neither empty, share a byte. -/
def runsMeet (a b : Nat × Nat) : Bool := a.2 != 0 && b.2 != 0 && decide (a.1 < b.1 + b.2) && decide (b.1 < a.1 + a.2)

/-- Some pair of a list's members meets. -/
def anyMeet : List (Nat × Nat) → Bool
  | [] => false
  | a :: r => r.any (runsMeet a) || anyMeet r

/-- A breach of R69 by the four sections: offsets, lengths and extent. -/
def sectionsBad (h : ImgHdr) : Bool :=
  let all := [(h.codeoff, h.codelen), (h.paloff, h.pallen), (h.recoff, h.reclen), (h.dataoff, h.datalen)]
  all.any (fun (e : Nat × Nat) => e.2 != 0 && decide (e.1 < 0x40)) || all.any (fun (e : Nat × Nat) => decide (2 ^ 32 < e.1 + e.2)) || anyMeet all
    || h.codeoff % 256 != 0 || h.codelen % 4 != 0 || decide (h.codelen < 8) || decide (16777216 < h.codelen)
    || (h.pallen != 0 && h.paloff % 256 != 0) || h.pallen % 256 != 0 || decide (65536 < h.pallen)

/-- A breach of R71 by a defined view. -/
def viewBad (vc : Nat) (v : Word) : Bool :=
  let x := v.toNat
  let l := 4 * 2 ^ bitsOf x 27 25
  bitOf x 31 && (bitsOf x 30 28 != 0 || decide (5 < bitsOf x 27 25) || bitsOf x 24 18 == 0 || bitsOf x 17 9 % 4 != 0 || bitsOf x 8 0 % 4 != 0
    || decide (4 * vc < bitsOf x 8 0 + (bitsOf x 24 18 - 1) * bitsOf x 17 9 + l))

/-- The header breaks R69 to R71. -/
def imageBad (kimg : Nat) (b : List Byte) : Bool :=
  let h := imgOf b
  kimg % 256 != 0 || fieldAt b 0 4 != 0x4B564E4F || fieldAt b 4 2 != 1 || fieldAt b 6 2 != 0 || sectionsBad h
    || h.entry % 4 != 0 || decide (h.codelen ≤ h.entry)
    || decide (32768 < imgCvmin h) || bitOf h.regdecl 15 || decide (64 < imgCbmin h) || decide (imgVcount h < 16) || decide (128 < imgVcount h)
    || h.vw.any (viewBad (imgVcount h))

/-! ## The launch record (R82, R83) -/

/-- A queued or running launch of the partition with a TAG. -/
def tagHolder (s : State) (part : Nat) (tag : Nat) : Option Launch :=
  s.launches.find? (fun l => l.part == part && l.tag.toNat == tag && l.st != .done)

/-- The record breaks R82 or R83, or its HANDLER lies outside the code. -/
def launchBad (s : State) (part : Nat) (r : List Byte) (h : ImgHdr) : Bool :=
  let f := fun (o n : Nat) => fieldAt r o n
  let fl := f 0xC 4
  let badAddr := fun (a k : Nat) => decide (2 ^ 57 ≤ a) || a % k != 0
  decide (2 ^ 57 ≤ f 0 8) || f 8 4 == 0 || (tagHolder s part (f 8 4)).isSome || fl / 2 ^ 11 != 0
    || f 0x10 4 == 0 || f 0x14 2 == 0 || f 0x16 2 == 0 || decide (2 ^ 32 ≤ f 0x10 4 * f 0x14 2 * f 0x16 2)
    || f 0x18 2 == 0 || decide (1024 < f 0x18 2) || f 0x1A 1 == 0 || decide (8 < f 0x1A 1) || (f 0x1B 1 != 0 && f 0x1B 1 != imgVcount h)
    || f 0x1C 4 % 64 != 0 || decide (f 0x1C 4 < 64 * imgCvmin h) || decide (2097152 < f 0x1C 4)
    || decide (f 0x20 1 < imgCbmin h) || decide (64 < f 0x20 1) || f 0x21 3 != 0
    || (f 0x24 4 != 0xFFFFFFFF && (f 0x24 4 % 4 != 0 || decide (h.codelen ≤ f 0x24 4)))
    || (bitsOf fl 8 4 != 0 && f 0x24 4 == 0xFFFFFFFF)
    || badAddr (f 0x28 8) 16 || decide (16 < f 0x32 2) || f 0x34 4 != 0 || badAddr (f 0x38 8) 8 || (f 0x32 2 == 0 && f 0x38 8 != 0)
    || badAddr (f 0x50 8) 32 || f 0x60 16 != 0 || f 0x70 16 != 0

/-- The nonzero DEP fields. -/
def depTags (r : List Byte) : List Nat := ((List.range 4).map (fun k => fieldAt r (0x40 + 4 * k) 4)).filter (fun t => t != 0)

/-- The launch a record describes, with the device's own copies of what it read. -/
def launchOf (s : State) (part : Nat) (r : List Byte) (h : ImgHdr) (bt wt : List Byte) : Launch :=
  let f := fun (o n : Nat) => fieldAt r o n
  let bound := dedupNat ((depTags r).filterMap (fun t => (tagHolder s part t).map (fun l => l.id)))
  { id := s.nextId, part := part, st := .queued, kimg := dwordOf (f 0 8), tag := wordOf (f 8 4), lflags := wordOf (f 0xC 4),
    gridx := f 0x10 4, gridy := f 0x14 2, gridz := f 0x16 2, threads := f 0x18 2, team := f 0x1A 1, cvb := f 0x1C 4, cbanks := f 0x20 1,
    handler := wordOf (f 0x24 4), btab := dwordOf (f 0x28 8), bcnt := f 0x30 2,
    wtab := (List.range (f 0x32 2)).map (fun k => dwordOf (fieldAt wt (8 * k) 8)),
    caddr := dwordOf (f 0x50 8), cval := dwordOf (f 0x58 8),
    codeoff := h.codeoff, codelen := h.codelen, entry := wordOf h.entry, vcount := imgVcount h, vw := h.vw, paloff := h.paloff, pallen := h.pallen,
    recs := (List.range 16).map (fun k => if k < f 0x30 2 then BitVec.ofNat 128 (fieldAt bt (16 * k) 16) else 0),
    deps := bound, early := if bitOf (f 0xC 4) 2 then bound else [], next := 0, retired := 0, fail := none, lostRed := none, lostPeer := none,
    refused := [], waitPage := none, waitCore := none, palRefused := [], palettes := [] }

/-! ## Footprints (R73, R82, R328) -/

/-- Reserve banks of a CHECKED workgroup (R328). -/
def reserveBanks (l : Launch) : Nat :=
  if isChecked l then ceilDiv (groupsPer l * (64 * l.vcount + 3072)) 32768 + 2 + ceilDiv l.cbanks 3 + 1 else 0
def banksPer (l : Launch) : Nat := ceilDiv l.cvb 32768 + l.cbanks + reserveBanks l
def regsPer (l : Launch) : Nat := 64 * l.vcount * groupsPer l
/-- Bytes of the palette window (R72). -/
def palWindow (l : Launch) : Nat := ceilDiv l.pallen 4096 * 4096

/-- Workgroups of a launch that fit in what is free: groups, register bytes, banks. -/
def fitCount (l : Launch) (groups regs banks : Nat) : Nat :=
  min (min (groups / groupsPer l) (regs / regsPer l)) (if banksPer l = 0 then 256 else banks / banksPer l)

/-- Workgroups that fit an empty core. -/
def coreFit (l : Launch) : Nat := if palWindow l ≤ 65536 then fitCount l 256 524288 64 else 0

/-- Logical cores of a partition (R99). -/
def partCores (s : State) (part : Nat) : List Nat :=
  match findPart s part with
  | none => []
  | some p => (partDies p).flatMap (fun d => (List.range 8).map (fun k => 8 * d + k))

/-- Workgroups of a launch that each die takes with the partition's cores empty, by where the remap table has them. -/
def dieCaps (s : State) (l : Launch) : List Nat :=
  (List.range 32).map (fun d => ((partCores s l.part).filter (fun c => dieOf s c == d)).length * coreFit l)

/-- A COOP grid fits the partition's empty cores, its teams each on one die (R98, R102). -/
def coopFits (s : State) (l : Launch) : Bool :=
  let caps := dieCaps s l
  let full := gridSize l / l.team
  let rest := gridSize l % l.team
  let slots := (caps.map (· / l.team)).foldl (· + ·) 0
  decide (full ≤ slots) && (rest == 0 || decide (full < slots) || caps.any (fun c => decide (rest ≤ c % l.team)))

/-! ## Requests and their answers (R87, R88, R106) -/

/-- How far acceptance of a request comes. -/
inductive LuRes where
  | answer (s : State) (code tag : Nat) (l : Option Launch)
  /-- It waits for a fault on this address, with what it has read. -/
  | wait (s : State) (q : Request) (va tag : Nat)
  /-- It waits for the memory, with what it has read. -/
  | hold (s : State) (q : Request)

/-- Why a run of bytes stops short of its end. -/
inductive LuStop where
  | fini
  | fault (va : Nat)
  /-- Refused, at a peer out of reach, or poisoned. -/
  | lost
  | stalled

/-- Bytes as far as they can be read, and why they stop. -/
def luBytes (s : State) (part die cls : Nat) (refused : List Nat) (va : Nat) : Nat → List Byte × LuStop × State
  | 0 => ([], .fini, s)
  | n + 1 =>
    match unitByte s part die cls refused va with
    | (.bytes [(b, false)], s1) => let r := luBytes s1 part die cls refused (va + 1) n; (b :: r.1, r.2.1, r.2.2)
    | (.fault a, s1) => ([], .fault a, s1)
    | (.stalled, s1) => ([], .stalled, s1)
    | (_, s1) => ([], .lost, s1)

/-- Class of the reads for a request: that of its message, or of the workgroup that made it (R367). -/
def reqClass (s : State) (q : Request) : Nat :=
  match q.via with
  | .message _ cls => cls.toNat
  | .word wg _ _ _ => accClass s wg

/-- Go on with `n` bytes that acceptance reads, at place `o` of its own copy: what the copy holds is not read again (R85);
or RECORD_FAULT. -/
def luRead (s : State) (part : Nat) (q : Request) (o tag va n : Nat) (f : State → Request → List Byte → LuRes) : LuRes :=
  let have_ := min n (q.got.length - o)
  match luBytes s part (unitDie s part) (reqClass s q) q.refused (va + have_) (n - have_) with
  | (b, e, s1) =>
    let q1 := { q with got := q.got ++ b }
    match e with
    | .fini => f s1 q1 (slice q1.got o n)
    | .fault a => .wait s1 q1 a tag
    | .lost => .answer s1 1 tag none
    | .stalled => .hold s1 q1

/-- The checks once everything is read (R85 rows 2 to 5, R90, R93, R98, R89). -/
def luCheck (s : State) (part : Nat) (r ib bt wt : List Byte) : LuRes :=
  let tag := fieldAt r 8 4
  let h := imgOf ib
  let l := launchOf s part r h bt wt
  let no := fun (c : Nat) => LuRes.answer s c tag none
  if imageBad (fieldAt r 0 8 % 2 ^ 57) ib then no 2
  else if launchBad s part r h then no 3
  else if l.recs.any recBad then no 4
  else if coreFit l = 0 then no 5
  else if (depTags r).contains tag then no 3
  else if isEarly l && (!isPreemptible l || (depTags r).isEmpty || isCoop l) then no 3
  else if isCoop l && !coopFits s l then no 5
  else if 64 ≤ (s.launches.filter (fun k => k.part == part && classOf k == classOf l && k.st != .done)).length then no 6
  else .answer s 0 tag (some l)

/-- Acceptance of a request (R85). -/
def luGo (s : State) (part : Nat) (q : Request) : LuRes :=
  let a := q.addr.toNat
  if 2 ^ 57 ≤ a ∨ a % 64 ≠ 0 then .answer s 1 0 none
  else luRead s part q 0 0 a 128 fun s q r =>
    let tag := fieldAt r 8 4
    let nb := 16 * min 16 (fieldAt r 0x30 2)
    luRead s part q 128 tag (fieldAt r 0 8 % 2 ^ 57) 64 fun s q ib =>
      luRead s part q 192 tag (fieldAt r 0x28 8 % 2 ^ 57) nb fun s q bt =>
        luRead s part q (192 + nb) tag (fieldAt r 0x38 8 % 2 ^ 57) (8 * min 16 (fieldAt r 0x32 2)) fun s _ wt => luCheck s part r ib bt wt

/-- The reply of R87. -/
def launchReply (part : Nat) (seq : BitVec 16) (cls : BitVec 2) (code tag : Nat) : Msg :=
  { cls := cls, bytes := natToBytes 1 0x22 ++ natToBytes 1 part ++ natToBytes 2 seq.toNat ++ natToBytes 4 code ++ natToBytes 8 tag }

/-- The answer returns by the path the request came by. -/
def luAnswer (s : State) (part : Nat) (q : Request) (code tag : Nat) : State :=
  match q.via with
  | .message seq cls => send s (launchReply part seq cls code tag)
  | .word wg grp _ d => modBoth s wg grp (fun g => if lanesEnded g then g else unparkGrp (fun p => p == .launchAnswer) (putS g d (wordOf code)))

/-- The first request of a partition's queue becomes `q`. -/
def firstReq (s : State) (part : Nat) (q : Request) : State :=
  modPart s part (fun p => { p with reqs := match p.reqs with | [] => [] | _ :: r => q :: r })

/-- LAUNCH_ACCEPT: the first request of partition `a` is read, checked, and queued or refused. -/
def execLaunchAccept (s : State) : Host.Outcome State Fault Refusal :=
  let part := s.arg.a
  .next (match (findPart s part).bind (fun p => p.reqs.head?) with
  | none => s
  | some q =>
    if q.waitPage.isSome then s
    else match luGo s part q with
    | .hold s1 q1 => firstReq s1 part q1
    | .wait s1 q1 va tag => raiseFault (firstReq s1 part { q1 with waitPage := some (pageOf va) }) part va 0 tag
    | .answer s1 code tag l =>
      let s2 := modPart s1 part (fun p => { p with reqs := p.reqs.tail })
      let s3 := match l with
        | none => s2
        | some l => { (freshId s2).2 with launches := s2.launches ++ [{ l with id := s2.nextId }] }
      luAnswer s3 part q code tag)

/-- LAUNCH_MESSAGE: a launch message arrives (R87, R88 steps 1 to 3); one of another length is dropped (log 114). -/
def execLaunchMessage (s : State) : Host.Outcome State Fault Refusal :=
  let b := s.arg.msg.bytes
  let part := fieldAt b 1 1
  let seq : BitVec 16 := BitVec.ofNat 16 (fieldAt b 2 2)
  let no := fun (c : Nat) => send s (launchReply part seq s.arg.msg.cls c 0)
  .next (if s.boot == .off || b.length != 32 || fieldAt b 0 1 != 0x21 then s
  else if s.boot != .ready then no 7
  else if (findPart s part).isNone then no 8
  else if fieldAt b 4 4 != 0 || fieldAt b 0x10 16 != 0 then no 3
  else modPart s part (fun p => { p with reqs := p.reqs ++ [Request.mk (.message seq s.arg.msg.cls) (dwordOf (fieldAt b 8 8)) [] none []] }))

end Sys2Proof.Machine
end

