-- ==== Sys2Proof/Machine/Place.lean ====
section
/-! DEFINITION. Placement of workgroups (R72, R73, R91-R103, R110, R114, R380), the end of groups and workgroups (R138, R232,
R359), and the retirement of launches (R361-R364). -/
namespace Sys2Proof.Machine

/-! ## What a core holds (R73) -/

/-- The workgroups that take room on a physical core. -/
def onCore (s : State) (pc : Nat) : List Workgroup := s.wgs.filter (fun w => !w.retired && !isSaved w && coreOf s w == pc)

/-- Groups, register bytes and banks. -/
structure Room where
  groups : Nat
  regs : Nat
  banks : Nat

def usedBy (s : State) (w : Workgroup) : Room :=
  match findLaunch s w.launch with
  | none => { groups := 0, regs := 0, banks := 0 }
  | some l =>
    let n := (w.groups.filter (fun g => !g.ended)).length
    { groups := n, regs := 64 * l.vcount * n, banks := banksPer l }

def usedOn (s : State) (pc : Nat) : Room :=
  (onCore s pc).foldl (fun r w => let u := usedBy s w; { groups := r.groups + u.groups, regs := r.regs + u.regs, banks := r.banks + u.banks })
    { groups := 0, regs := 0, banks := 0 }

/-- A launch's palette window stands on a core; bytes of all windows there. -/
def windowOn (s : State) (pc lid : Nat) : Bool := (onCore s pc).any (fun w => w.launch == lid)
def palUsed (s : State) (pc : Nat) : Nat :=
  (s.launches.filter (fun l => windowOn s pc l.id)).foldl (fun n l => n + palWindow l) 0

/-- Palette bytes a launch would add on a core. -/
def palNeed (s : State) (pc : Nat) (l : Launch) : Nat := if windowOn s pc l.id then 0 else palWindow l

/-! ## Reservations (R94) -/

/-- Producers of an EARLY launch that still hold workgroups not yet placed. -/
def openProducers (s : State) (l : Launch) : List Launch :=
  s.launches.filter (fun p => l.early.contains p.id && p.fail.isNone && decide (p.next < gridSize p))

/-- What is kept free of a consumer's workgroups on a core, palette bytes beside: the largest of what its producers need (R94). -/
def reserveFor (s : State) (pc : Nat) (l : Launch) : Room × Nat :=
  (openProducers s l).foldl (fun (r : Room × Nat) p =>
    ({ groups := max r.1.groups (groupsPer p), regs := max r.1.regs (regsPer p), banks := max r.1.banks (banksPer p) }, max r.2 (palNeed s pc p)))
    ({ groups := 0, regs := 0, banks := 0 }, 0)

/-- Workgroups of a launch that a physical core can take now. -/
def roomFor (s : State) (pc : Nat) (l : Launch) : Nat :=
  let u := usedOn s pc
  let r := reserveFor s pc l
  if 65536 < palUsed s pc + palNeed s pc l + r.2 then 0
  else fitCount l (256 - u.groups - r.1.groups) (524288 - u.regs - r.1.regs) (64 - u.banks - r.1.banks)

/-! ## Eligibility and order (R91-R93) -/

/-- A launch that can be placed: not failing, its producers retired, or, for an EARLY one, each with a workgroup placed. -/
def eligible (s : State) (l : Launch) : Bool :=
  (l.st == .queued || l.st == .running) && l.fail.isNone
    && (l.deps.isEmpty || (isEarly l && l.early.all (fun e => match findLaunch s e with | some p => decide (0 < p.next) | none => true)))

/-- Workgroups of a launch that wait to be restored. -/
def savedWgs (s : State) (lid : Nat) : List Workgroup := s.wgs.filter (fun w => w.launch == lid && isSaved w && !w.retired)

/-- Workgroups of a launch that are saved or being saved. -/
def outWgs (s : State) (lid : Nat) : List Workgroup := s.wgs.filter (fun w => w.launch == lid && w.place != .live && !w.retired)

/-- Workgroups that take one step of placement together: the rest of a team (R102), or a COOP grid (R98). -/
def teamStep (l : Launch) : Nat := if isCoop l then gridSize l - l.next else min l.team (gridSize l - l.next)

/-- Logical cores of a partition but for those an evacuation has closed (R350). -/
def openCores (s : State) (part : Nat) : List Nat := (partCores s part).filter (fun c => !s.evacs.any (fun e => e.lcore == c && e.phase != .committed))

def isDegraded (s : State) (c : Nat) : Bool := match s.remap[c]? with | some r => r.degraded | none => false

/-- Cores with the number of workgroups each can take: those in good order, and the DEGRADED ones. -/
structure DieRoom where
  good : List (Nat × Nat)
  worn : List (Nat × Nat)

/-- The room of a die. -/
def dieRoom (s : State) (l : Launch) (cores : List Nat) (d : Nat) : DieRoom :=
  let here := (cores.filter (fun c => dieOf s c == d)).map (fun c => (c, roomFor s (physCore s c) l))
  { good := here.filter (fun e => !isDegraded s e.1), worn := here.filter (fun e => isDegraded s e.1) }

def roomSum (r : List (Nat × Nat)) : Nat := r.foldl (fun n (e : Nat × Nat) => n + e.2) 0

/-- The first `n` places of some cores, and what is left. -/
def takeRoom (n : Nat) : List (Nat × Nat) → List Nat × List (Nat × Nat)
  | [] => ([], [])
  | (c, k) :: r =>
    let m := min n k
    let t := takeRoom (n - m) r
    (List.replicate m c ++ t.1, (c, k - m) :: t.2)

/-- A team's places on one die, good cores first. -/
def takeDie (n : Nat) (d : DieRoom) : List Nat × DieRoom :=
  let t := takeRoom n d.good
  let u := takeRoom (n - t.1.length) d.worn
  (t.1 ++ u.1, { good := t.2, worn := u.2 })

/-- A team takes its places on the first die with room for all of it by a measure of room. -/
def placeBy (room : DieRoom → Nat) (n : Nat) : List DieRoom → Option (List Nat × List DieRoom)
  | [] => none
  | d :: r =>
    if n ≤ room d then (let t := takeDie n d; some (t.1, t.2 :: r))
    else (placeBy room n r).map (fun t => (t.1, d :: t.2))

/-- A team's places: on the first of the dies that need the fewest DEGRADED cores for it (R100). -/
def placeTeam (n : Nat) (ds : List DieRoom) : Option (List Nat × List DieRoom) :=
  (List.range (n + 1)).findSome? (fun m => placeBy (fun d => if n ≤ roomSum d.good + m then roomSum d.good + roomSum d.worn else 0) n ds)

def placeTeams : List Nat → List DieRoom → Option (List Nat)
  | [], _ => some []
  | n :: r, ds => match placeTeam n ds with
    | none => none
    | some t => (placeTeams r t.2).map (fun more => t.1 ++ more)

/-- Sizes of the teams that `n` workgroups from a team's first make. -/
def teamSizes (team : Nat) : Nat → Nat → List Nat
  | 0, _ => []
  | f + 1, n => if n = 0 then [] else min team n :: teamSizes team f (n - min team n)

/-- Sizes of the teams that the next step of a launch places. -/
def stepSizes (l : Launch) : List Nat := teamSizes l.team (teamStep l) (teamStep l)

/-- Sizes of the teams that some workgroups, in index order, belong to (R102). -/
def wgSizes : List Workgroup → List Nat
  | [] => []
  | w :: r => match r, wgSizes r with
    | v :: _, n :: t => if teamNo v == teamNo w then (n + 1) :: t else 1 :: n :: t
    | _, _ => [1]

/-- Dies of some cores in order of first mention. -/
def diesIn (s : State) (cores : List Nat) : List Nat := (dedupNat (cores.reverse.map (dieOf s))).reverse

/-- Places for teams of these sizes on some cores; none where they do not fit (R98, R102). -/
def planOn (s : State) (l : Launch) (cores : List Nat) (sizes : List Nat) : Option (List Nat) :=
  placeTeams sizes ((diesIn s cores).map (dieRoom s l cores))

/-- The cores from `b` on, cyclically. -/
def rotateTo (cores : List Nat) (b : Nat) : List Nat := cores.filter (fun c => decide (b ≤ c)) ++ cores.filter (fun c => decide (c < b))

/-- Cores that an event names for teams of these sizes are open, have the room, and hold each team on one die. -/
def namedOk (s : State) (l : Launch) (cores : List Nat) : List Nat → List Nat → Bool
  | [], p => p.isEmpty
  | n :: r, p => decide (n ≤ p.length) && decide ((diesIn s (p.take n)).length ≤ 1) && namedOk s l cores r (p.drop n)
      && p.all (fun c => cores.contains c && decide ((p.filter (· == c)).length ≤ roomFor s (physCore s c) l))

/-- Cores for teams that step together: those that the event names, or, tried from core `b` on, the first with room: a team goes to
the die of `b`, a COOP grid anywhere. DEGRADED cores serve only where no others can (R100, R103, log 16). -/
def planStep (s : State) (l : Launch) (b : Nat) (sizes : List Nat) : Option (List Nat) :=
  let cores := openCores s l.part
  let here := if isCoop l then rotateTo cores b else (rotateTo cores b).filter (fun c => dieOf s c == dieOf s b)
  let named := s.arg.bytes.map BitVec.toNat
  let worn := fun (p : List Nat) => (p.filter (isDegraded s)).length
  match (if named.isEmpty then planOn s l here sizes else if namedOk s l cores sizes named then some named else none), planOn s l cores sizes with
  | some p, some q => if worn p ≤ worn q then some p else none
  | _, _ => none

/-- A launch has a workgroup that a core could take (R92 step 1). -/
def couldTake (s : State) (l : Launch) (c : Nat) : Bool :=
  eligible s l && (decide (l.next < gridSize l) || !(savedWgs s l.id).isEmpty) && decide (0 < roomFor s (physCore s c) l)
    && (!isCoop l || (planOn s l (openCores s l.part) (if (savedWgs s l.id).isEmpty then stepSizes l else wgSizes (savedWgs s l.id))).isSome)

/-- The order of R92 lets the launch take these cores now. -/
def mayTake (s : State) (l : Launch) (plan : List Nat) : Bool :=
  let others := s.launches.filter (fun k => k.part == l.part && k.id != l.id)
  !others.any (fun k => decide (classOf k < classOf l) && plan.any (couldTake s k))
    && (decide (0 < l.next) || !others.any (fun k => classOf k == classOf l && decide (k.id < l.id) && eligible s k && decide (k.next < gridSize k)))

/-! ## The palette copy (R72) -/

/-- Pages refused to the copy that a core makes. -/
def palGone (l : Launch) (pc : Nat) : List Nat := (l.palRefused.filter (fun e => e.1 == pc)).map Prod.snd

/-- The window of a launch on a physical core is filled, unless it is there; `none` while the copy waits. -/
def fillPalette (s : State) (lid pc : Nat) : Option State × State :=
  match findLaunch s lid with
  | none => (none, s)
  | some l =>
    if (assoc? l.palettes pc).isSome then (some s, s)
    else match unitRead s l.part (pc / 9) (classOf l) (palGone l pc) true (l.kimg.toNat + l.paloff) l.pallen with
      | (.bytes b, s1) =>
        (some (modLaunch s1 lid (fun l => { l with palettes := assocPut l.palettes pc (smPutList [] 0 b (0, false)),
                                                   palRefused := l.palRefused.filter (fun e => e.1 != pc) })), s1)
      | (.fault va, s1) =>
        (none, raiseFault (modLaunch s1 lid (fun l => { l with waitPage := some (pageOf va), waitCore := some pc })) l.part va 0 l.tag.toNat)
      | (_, s1) => (none, s1)

/-- Every core of a list; at the first that waits, the state that waits. -/
def fillPalettes (lid : Nat) : List Nat → State → Option State × State
  | [], s => (some s, s)
  | pc :: r, s => match fillPalette s lid pc with
    | (some s1, _) => fillPalettes lid r s1
    | w => w

/-! ## Starting workgroups (R110, R114, R219, R380) -/

/-- Resident groups of a slot of a physical core. -/
def slotCount (s : State) (pc slot : Nat) : Nat :=
  (onCore s pc).foldl (fun n w => n + (w.groups.filter (fun g => g.slot == slot && !g.ended)).length) 0

/-- The slot with the fewest of the given counts, the lowest on a tie. -/
def leastSlot (ns : List Nat) : Nat := ([1, 2, 3] : List Nat).foldl (fun b k => if ns.getD k 0 < ns.getD b 0 then k else b) 0

/-- Slots for `n` groups one after another. -/
def giveSlots : Nat → List Nat → List Nat
  | 0, _ => []
  | n + 1, ns => let k := leastSlot ns; k :: giveSlots n (modifyAt ns k (· + 1))

/-- Lanes of group `k` that THREADS counts. -/
def countedOf (threads k : Nat) : LMask := maskOf (fun l => decide (16 * k + l < threads))
/-- Lanes of the quads that hold a lane of `m`. -/
def quadMates (m : LMask) : LMask := maskOf (fun l => quadPart m (l / 4) != 0)

/-- A group at its start. -/
def group0 (l : Launch) (k slot time : Nat) : Group :=
  let m := countedOf l.threads k
  let live := quadMates m
  { v := [], s := [], p := [], f := [], j := [], b := smPutList [] 0 l.recs 0, q := [], oob := 0, trap := [], inHandler := false, ctx := [], ctxQuads := 0,
    ctxHeader := false, kept := [], refusals := [], barN := 0, bartN := 0, bardN := 0, barArr := false, bartArr := false, bardArr := false, arrMark := 0,
    split := none, ops := [],
    quads := quads4.map (fun q =>
      let x := quadPart live q
      if x = 0 then quad0 else { quad0 with pc := l.entry, run := x, live := x, st := .running }),
    counted := m, helper := live &&& ~~~m, slot := slot, active := false, since := time, cloneBad := false, ended := false }

/-- A workgroup at its start on a logical core; a CHECKED one opens its first interval (R329). -/
def wg0 (s : State) (l : Launch) (id lin core : Nat) : Workgroup :=
  let pc := physCore s core
  let slots := giveSlots (groupsPer l) (quads4.map (slotCount s pc))
  { id := id, launch := l.id, lin := lin, trank := lin % l.team, tsize := min l.team (gridSize l - lin / l.team * l.team), lcore := core, place := .live,
    savedPcore := pc, reloc := 0, ns := ceilDiv l.cvb 32768, win := [], winPoison := [], banks := List.replicate l.cbanks bank0, wslots := [],
    groups := (List.range (groupsPer l)).map (fun k => group0 l k (slots.getD k 0) (now s)), cwords := [], chk := none, saveBad := [], moveBad := false, retired := false }

/-- The next workgroup of a launch starts on a core. -/
def startWg (lid : Nat) (s : State) (core : Nat) : State :=
  match findLaunch s lid with
  | none => s
  | some l =>
    let w := wg0 s l s.nextId l.next core
    let s1 := modLaunch { (freshId s).2 with wgs := s.wgs ++ [w] } lid (fun l => { l with next := l.next + 1, st := .running })
    if isChecked l then openInterval s1 w.id else s1

/-- Workgroups start on the planned cores, once every core has the launch's palette. -/
def startOn (s : State) (lid : Nat) (plan : List Nat) : State :=
  match fillPalettes lid (dedupNat (plan.map (physCore s))) s with
  | (none, s1) => s1
  | (some s1, _) => plan.foldl (startWg lid) s1

/-- WORKGROUP_PLACE: the next team of launch `a`, or its whole COOP grid, is placed from logical core `b` on (R92-R102). -/
def execWorkgroupPlace (s : State) : Host.Outcome State Fault Refusal :=
  .next (match findLaunch s s.arg.a with
  | none => s
  | some l =>
    if !eligible s l || l.waitPage.isSome || !(outWgs s l.id).isEmpty || !decide (l.next < gridSize l) then s
    else match planStep s l s.arg.b (stepSizes l) with
    | none => s
    | some plan => if mayTake s l plan then startOn s l.id plan else s)

/-! ## The end of groups and workgroups -/

/-- Every flag reads zero. -/
def flagsZero (g : Group) : Bool := (List.range 12).all (fun n => getF g n == 0)

/-- The group has ended and may release its resources; in a CHECKED workgroup its end stands in the snapshot too, so
that no rollback revives it (log 33). -/
def mayEnd (w : Workgroup) (k : Nat) (g : Group) : Bool :=
  !g.ended && lanesEnded g && flagsZero g && g.refusals.isEmpty
    && match w.chk with
      | none => true
      | some c => match c.snap[k]? with | some h => lanesEnded h && flagsZero h | none => false

/-- PINW is counted down at a physical address, unless poisoned (R79, R340). -/
def unpinAt (s : State) (pa : Nat) : State :=
  let old := memRead s pa 4
  yieldServe (if anyBad old then s else memWrite s pa (natToBytes 4 ((bytesToNat (old.map Prod.fst) + 2 ^ 32 - 1) % 2 ^ 32))) [pa]

/-- CUNP of one slot of an ended workgroup; `none` while it waits. A refused page, or a peer out of reach, has no pin to release. -/
def dropPin (s : State) (w : Workgroup) (l : Launch) (e : Nat × WSlot) : Option State × State :=
  let done := fun (s : State) => let s1 := modWg s w.id (unbindSlot e.1); (some s1, s1)
  let va := e.2.addr.toNat + 8
  if e.2.pin != .pinned || l.refused.contains (pageOf va) then done s
  else match translateFor s (dieOf s w.lcore) l.part va true with
  | (none, s1) => (none, raiseFault (modLaunch s1 l.id (fun l => { l with waitPage := some (pageOf va) })) l.part va 1 l.tag.toNat)
  | (some p, s1) =>
    if p.peer.isSome then done s1
    else if stalledFor s1 (classOf l) p.pa || !yieldRoom s1 (classOf l) [p.pa] then (none, s1)
    else done (unpinAt s1 p.pa)

def dropPins (w : Workgroup) (l : Launch) : List (Nat × WSlot) → State → Option State × State
  | [], s => (some s, s)
  | e :: r, s => match dropPin s w l e with
    | (some s1, _) => dropPins w l r s1
    | x => x

/-- The last group of a workgroup has ended: its pins are released, then its banks, and it retires (R232, R359). -/
def retireWg (s : State) (w : Workgroup) (l : Launch) (k : Nat) : State :=
  match dropPins w l w.wslots s with
  | (none, s1) => s1
  | (some s1, _) =>
    modLaunch (modWg (modBoth s1 w.id k (fun g => { g with ended := true, active := false })) w.id (fun w => { w with retired := true, chk := none })) l.id
      (fun l => { l with retired := l.retired + 1, refused := [] })

/-- GROUP_END: group `b` of workgroup `a` releases its resources; one of a failing launch waits for the end of an evacuation's pause
(R358). -/
def execGroupEnd (s : State) : Host.Outcome State Fault Refusal :=
  .next (match findWg s s.arg.a with
  | none => s
  | some w =>
    match w.groups[s.arg.b]?, findLaunch s w.launch with
    | some g, some l =>
      if !mayEnd w s.arg.b g || (l.fail.isSome && evacPaused s w.lcore) then s
      else if ((List.range w.groups.length).all (fun k => k == s.arg.b || match w.groups[k]? with | some h => h.ended | none => true)) then
        (if l.waitPage.isSome || !w.cwords.isEmpty then s else retireWg s w l s.arg.b)
      else modBoth s w.id s.arg.b (fun g => { g with ended := true, active := false })
    | _, _ => s)

/-! ## Retirement of a launch (R361-R364) -/

/-- An operation that outlives its group has still to take effect (R360); a failing launch loses what was refused. -/
def opOpen (failing : Bool) (o : Op) : Bool :=
  match o.kind with
  | .store | .atom | .red => o.accs.any (fun a => !(a.st == .done || (failing && a.st == .refused)))
  | _ => false

def detached (s : State) (l : Launch) : Bool :=
  s.wgs.any (fun w => w.launch == l.id && w.groups.any (fun g => g.ops.any (opOpen l.fail.isSome) || (l.fail.isNone && !g.refusals.isEmpty)))
    || s.copies.any (fun c => c.launch == l.id) || s.calls.any (fun c => c.launch == l.id)

/-- Step 1 of R361. -/
def allRetired (s : State) (l : Launch) : Bool :=
  if l.fail.isSome then (s.wgs.filter (fun w => w.launch == l.id)).all (fun w => w.retired) else l.retired == gridSize l

/-- Status and detail (R362, R363). -/
def statusOf (l : Launch) : Nat × Nat :=
  match l.fail, l.lostRed, l.lostPeer with
  | some (c, d), _, _ => (c, d.toNat)
  | none, some va, _ => (stLostReduction, va)
  | none, none, some (va, k) => (stPeerLost, va + k * 2 ^ 60)
  | none, none, none => (0, 0)

/-- Bytes 0x08 to 0x1F of the completion block (R84). -/
def blockTail (st : Nat × Nat) : List Byte := natToBytes 4 st.1 ++ natToBytes 4 0 ++ natToBytes 8 st.2 ++ natToBytes 8 0

/-- A launch of the partition that names this one as a producer (R90, R91). -/
def dependant (l : Launch) (status : Nat) (k : Launch) : Launch :=
  if !k.deps.contains l.id then k
  else
    let k1 := { k with deps := k.deps.filter (fun d => d != l.id) }
    if status != 0 && k.next == 0 && k.fail.isNone then { k1 with st := .failing, fail := some (stDepFailed, dwordOf l.tag.toNat) } else k1

/-- Step 6: the launch leaves its queue. -/
def leaveQueue (s : State) (l : Launch) : State :=
  { s with
    launches := (s.launches.filter (fun k => k.id != l.id)).map (dependant l (statusOf l).1),
    wgs := s.wgs.filter (fun w => w.launch != l.id),
    arrivals := s.arrivals.filter (fun a => a.launch != l.id) }

/-- The pins of workgroups that a failing launch lost in the save reserve are released (R232, R319). -/
def freePins (l : Launch) : List Workgroup → State → Option State × State
  | [], s => (some s, s)
  | w :: r, s =>
    match dropPins w l w.wslots s with
    | (some s1, _) => freePins l r s1
    | x => x

/-- LAUNCH_RETIRE: launch `a` retires. -/
def execLaunchRetire (s : State) : Host.Outcome State Fault Refusal :=
  .next (match findLaunch s s.arg.a with
  | none => s
  | some l =>
    let va := l.caddr.toNat
    if !allRetired s l || detached s l || l.waitPage.isSome then s
    else match freePins l (s.wgs.filter (fun w => w.launch == l.id)) s with
    | (none, s1) => s1
    | (some s, _) =>
    if l.refused.contains (pageOf va) then
      let q := nextSeq s
      leaveQueue (send q.2 (eventMsg l.part q.1 7 0 0 0 l.tag.toNat)) l
    else match translateFor s (unitDie s l.part) l.part va true with
    | (none, s1) => raiseFault (modLaunch s1 l.id (fun l => { l with waitPage := some (pageOf va) })) l.part va 1 l.tag.toNat
    | (some p, s1) =>
      if p.peer.isSome then leaveQueue s1 l
      else if stalledFor s1 (classOf l) p.pa || !yieldRoom s1 (classOf l) [p.pa] then s1
      else leaveQueue (yieldServe (memWrite (memWrite s1 (p.pa + 8) (blockTail (statusOf l))) p.pa (natToBytes 8 l.cval.toNat)) [p.pa]) l)

end Sys2Proof.Machine
end

