-- ==== Sys2Proof/Machine/Image.lean ====
section
/-! DEFINITION. Save images: their place in the reserve (R32, R321), their regions (R323) and the layout of group and quad
records (R324, R325). -/
namespace Sys2Proof.Machine

/-! ## Regions (R323) -/

def page4 (n : Nat) : Nat := ceilDiv n 4096 * 4096

/-- Snapshot banks of a CHECKED workgroup (R328). -/
def snapBanks (l : Launch) : Nat := if isChecked l then ceilDiv (groupsPer l * (64 * l.vcount + 3072)) 32768 else 0

/-- Bytes of the nine regions of an image in order. -/
def regionSizes (l : Launch) : List Nat :=
  [4096, page4 (3072 * groupsPer l), page4 (regsPer l), 32768 * ceilDiv l.cvb 32768, 32768 * l.cbanks, page4 (1024 * l.cbanks), 69632, palWindow l,
   32768 * snapBanks l]
def imageLen (l : Launch) : Nat := (regionSizes l).foldl (· + ·) 0
/-- Where region `k` starts. -/
def regionAt (l : Launch) (k : Nat) : Nat := ((regionSizes l).take k).foldl (· + ·) 0

/-! ## The reserve (R32, R321) -/

/-- The units of a partition in ascending order, and those of its save reserve: the highest. -/
def partUnits (p : Partition) : List Nat := (List.range 720).filter (fun u => p.units.getLsbD u)
def reserveUnits (p : Partition) : List Nat := let us := partUnits p; us.drop (us.length - p.rsvu)

/-- Something is still to be written into a workgroup's image: of a copy to it, or of its own accesses, which write there (R324, R341). -/
def imageOpen (s : State) (w : Workgroup) : Bool :=
  s.copies.any (fun c => c.recv.contains w.id) || s.wgs.any (fun v => v.groups.any (fun g => g.ops.any (fun o => o.accs.any (fun a => match a.loc with
    | .canvas t _ => t == w.id && (a.st == .todo || heldAcc a)
    | _ => false))))

/-- Images that stand in the reserve: address and length. That of a failing launch is freed once nothing is under way to it (R341, log 142). -/
def imagesOf (s : State) : List (Nat × Nat) :=
  s.wgs.filterMap (fun w => match w.place with | .saved a n => if w.retired && !imageOpen s w then none else some (a, n) | _ => none)

/-- What takes room in a partition's reserve: images, and frames that have been retired (R327). -/
def reserveTaken (s : State) (part : Nat) : List (Nat × Nat) :=
  imagesOf s ++ match s.retLists[part]? with | some r => r.entries.map (fun e => (e.frame, 65536)) | none => []

/-- A run of bytes that meets none of the given ones. -/
def freeRun (used : List (Nat × Nat)) (a n : Nat) : Bool := !used.any (runsMeet (a, n))

/-- The lowest place for `n` bytes in the reserve beside the given images. -/
def carve (p : Partition) (used : List (Nat × Nat)) (n : Nat) : Option Nat :=
  (reserveUnits p).findSome? (fun u =>
    let lo := u * 2 ^ 30
    let starts := lo :: (used.map (fun (e : Nat × Nat) => e.1 + e.2)).filter (fun a => decide (lo ≤ a))
    let ok := starts.filter (fun a => decide (a + n ≤ lo + 2 ^ 30) && freeRun used a n)
    ok.foldl (fun m a => match m with | none => some a | some b => some (min a b)) none)

/-- The reserve has room for images of these lengths beside those in it. -/
def hasRoom (p : Partition) : List Nat → List (Nat × Nat) → Bool
  | [], _ => true
  | n :: r, used => match carve p used n with
    | none => false
    | some a => hasRoom p r ((a, n) :: used)

/-! ## Records (R324, R325) -/

def nb (n x : Nat) : List Byte := natToBytes n x
def zeros (n : Nat) : List Byte := List.replicate n 0

/-- A stack entry of 16 bytes. -/
def entryBytes (e : StackEntry) : List Byte :=
  let k := match e.kind with | .lane => 0 | .gang => 1
  let rpc := match e.rpc with | some r => r.toNat | none => 0xFFFFFFFF
  nb 16 (rpc + e.ppc.toNat * 2 ^ 32 + e.pmask.toNat * 2 ^ 64 + e.omask.toNat * 2 ^ 68 + e.sib.toNat * 2 ^ 72 + k * 2 ^ 76 + (if e.spec then 2 ^ 77 else 0))

/-- Team-relative canvas address of a phaser. -/
def phaserAddr (s : State) (w : Workgroup) (wg boff : Nat) : Nat :=
  match findWg s wg with
  | some t => boff + wrapNat 4 ((t.trank : Int) - w.trank) * 2 ^ 24
  | none => boff

/-- Park kind in bits 3:0 and its argument above (log 35). -/
def parkBits (s : State) (w : Workgroup) (p : Park) : Nat :=
  let tag := fun (id : Nat) => match findLaunch s id with | some l => l.tag.toNat | none => 0
  match p with
  | .bar => 1
  | .bart => 2
  | .bard => 3
  | .phwt wg b gen => 4 + 16 * (phaserAddr s w wg b + 2 ^ 32 * gen)
  | .phwtOut wg b => 5 + 16 * phaserAddr s w wg b
  | .phaw wg b gen => 6 + 16 * (phaserAddr s w wg b + 2 ^ 32 * gen)
  | .waitf m => 7 + 16 * m.toNat
  | .waitj j m => 8 + 16 * (j + 8 * m.toNat)
  | .lwait id _ => 9 + 16 * tag id
  | .sleep t => 10 + 16 * t
  | _ => 0

/-- STATE of a quad: a park with no kind of its own counts as running (log 35). -/
def quadState (s : State) (w : Workgroup) (q : Quad) : Nat :=
  match q.st with
  | .running => 0
  | .holdGang => 1
  | .holdRjn => 2
  | .parked => if parkBits s w q.park = 0 then 0 else 3
  | .done => 4

/-- A quad record of 160 bytes. -/
def quadBytes (s : State) (w : Workgroup) (q : Quad) : List Byte :=
  nb 4 q.pc.toNat ++ nb 1 (q.run.toNat + 16 * q.live.toNat) ++ nb 1 q.stack.length ++ nb 1 (quadState s w q) ++ nb 1 q.gang ++ nb 8 (parkBits s w q.park) ++ zeros 16
    ++ (List.range 8).flatMap (fun k => match q.stack.reverse[k]? with | some e => entryBytes e | none => zeros 16)

def streamCodeOf (q : Stream) : Nat := match q.st with | .closed => 0 | .opened => 1 | .ended => 2 | .endedErr => 3

def bitsNat (n : Nat) (f : Nat → Bool) : Nat := ((List.range n).map (fun i => if f i then 2 ^ i else 0)).foldl (· + ·) 0

/-- Flags, counts and split of a group record: bytes 0x2E0 to 0x2FF. -/
def groupTail (g : Group) : List Byte :=
  let sp := match g.split with | some x => 2 ^ 25 + x.quads.toNat * 2 ^ 26 | none => 0
  (List.range 12).flatMap (fun n => nb 1 (getF g n))
    ++ nb 4 (g.barN % 256 + g.bartN % 256 * 2 ^ 8 + g.bardN % 256 * 2 ^ 16 + (if g.inHandler then 2 ^ 24 else 0) + sp)
    ++ nb 8 (bitsNat 64 (fun n => (getS g n).poison))
    ++ nb 8 (match g.split with | some x => x.flag.getD 15 + x.pc.toNat * 2 ^ 32 | none => 0)

/-- A group record of 3,072 bytes. -/
def groupBytes (s : State) (w : Workgroup) (g : Group) : List Byte :=
  let quads := fun (qs : List Quad) => quads4.flatMap (fun k => match qs[k]? with | some q => quadBytes s w q | none => zeros 160)
  (List.range 64).flatMap (fun n => nb 4 (getS g n).val.toNat)
    ++ (List.range 16).flatMap (fun n => nb 16 (getB g n).toNat)
    ++ (List.range 8).flatMap (fun n => let q := getQ g n
        nb 4 q.addr.toNat ++ nb 4 q.len.toNat ++ nb 4 q.limit.toNat ++ nb 4 q.cur.toNat ++ nb 4 q.pos.toNat ++ nb 4 (streamCodeOf q))
    ++ (List.range 8).flatMap (fun n => nb 2 (getJ g n).toNat)
    ++ lanes16.flatMap (fun l => nb 1 (bitsNat 7 (fun n => getP g n l)))
    ++ groupTail g
    ++ (List.range 128).flatMap (fun n => nb 2 (bitsNat 16 (fun l => (getV g n l).poison)))
    ++ quads g.quads ++ quads g.ctx
    ++ (List.range 112).flatMap (fun k => nb 4 (getTrap g (0x100 + k)).toNat)
    ++ nb 4 g.oob.toNat ++ zeros 316

/-- A bank as its 32,768 bytes lie (R222, R223): tile bytes and accumulators. -/
def bankRuns (b : Bank) : List (Nat × List Byte) :=
  [(0, (List.range 0x4400).map (fun i => BitVec.ofNat 8 (tileByte b i))), (0x6000, (List.range 2048).flatMap (fun k => nb 4 (smGet b.acc k 0).toNat))]

/-- The runs of bytes of an image whose layout the manual gives, by offset. -/
def imageRuns (s : State) (w : Workgroup) (l : Launch) : List (Nat × List Byte) :=
  let pal := (assoc? l.palettes w.savedPcore).getD []
  (List.range w.groups.length).flatMap (fun k => match w.groups[k]? with
    | some g => [(regionAt l 1 + 3072 * k, groupBytes s w g),
        (regionAt l 2 + 64 * l.vcount * k, (List.range l.vcount).flatMap (fun n => lanes16.flatMap (fun ln => nb 4 (getV g n ln).val.toNat)))]
    | none => [])
    ++ [(regionAt l 3, smGetList w.win 0 (32768 * ceilDiv l.cvb 32768) 0)]
    ++ (List.range w.banks.length).flatMap (fun k => match w.banks[k]? with
      | some b => (bankRuns b).map (fun (e : Nat × List Byte) => (regionAt l 4 + 32768 * k + e.1, e.2))
      | none => [])
    ++ [(regionAt l 7, (List.range (palWindow l)).map (fun i => (smGet pal i (0, false)).1))]

/-- A saved workgroup's image as memory holds it now, deliveries included (R326). -/
def putImage (s : State) (w : Workgroup) : State :=
  match w.place, findLaunch s w.launch with
  | .saved a _, some l => { s with mem := (imageRuns s w l).foldl (fun m (e : Nat × List Byte) => smPutList m (a + e.1) e.2 0) s.mem }
  | _, _ => s

/-- Every image brought up to date. -/
def putImages (s : State) : State := s.wgs.foldl putImage s

/-- The address lies in a region of an image whose layout is not architectural. -/
def imageHidden (s : State) (pa : Nat) : Bool :=
  s.wgs.any (fun w => match w.place, findLaunch s w.launch with
    | .saved a n, some l =>
      let o := pa - a
      decide (a ≤ pa) && decide (pa < a + n)
        && (decide (o < regionAt l 1) || (decide (regionAt l 5 ≤ o) && decide (o < regionAt l 7)) || decide (regionAt l 8 ≤ o)
            || (decide (regionAt l 4 ≤ o) && decide (o < regionAt l 5) && decide (0x4400 ≤ (o - regionAt l 4) % 32768) && decide ((o - regionAt l 4) % 32768 < 0x6000)))
    | _, _ => false)

end Sys2Proof.Machine
end

