-- ==== Sys2Proof/Machine/Sync.lean ====
section
/-! DEFINITION. The synchronisation words (R300-R310, R280, R281): phasers, barriers, flag waits, FENCE, rejoin masks;
and the combining of barriers (R308). -/
namespace Sys2Proof.Machine

/-! ## Order before a release (R305, R307) -/

/-- An access of the domain that the group made earlier cannot be performed now. -/
def domainBlocked (s : State) (wg : Nat) (g : Group) : Bool :=
  g.ops.any (fun o => o.kind != .red && o.accs.any (fun a => heldAcc a || (a.st == .todo && !isPeer a.loc && stalledAt s wg a.loc)))
    || !opsRoom s wg g (fun o => o.kind != .red)

/-- Every access of the domain that the group made earlier is performed. -/
def performGroup (s : State) (wg grp : Nat) : State := performBefore s wg grp s.nextId 0xFFFF

/-! ## Phaser words (R303, R304) -/

/-- What a phaser word does to its object. -/
inductive PhRes where
  /-- PHASER_STATE with its reason. -/
  | bad (reason : Nat)
  /-- The object is read only: a scalar takes a value, if any. -/
  | value (d : Nat) (x : Nat)
  /-- The gang waits for a generation, or for OUTB. -/
  | wait (p : Park)
  | done
  /-- The object is written, and completion tested where R302 says so; a gang that waits for the old generation parks. -/
  | put (p : Phaser) (test : Bool) (park : Bool)

def phTrap (s : State) (x : Ctx) (k : TrapKind) (sub a info : Nat) : Res := .trap s { Trap.at x.c k sub (sureLanes x) with addr := a, info := info }

/-- A phaser word at its object. -/
def phApply (s : State) (x : Ctx) (a wg boff : Nat) (init : Bool) (f : Phaser → PhRes) : Res :=
  let p := phRead s wg boff
  if !init && (p.zhi != 0 || p.zlo != 0) then phTrap s x .phaserState 4 a 0
  else match f p with
  | .bad r => phTrap s x .phaserState r a 0
  | .value d v => .ok (modGrp s x.c.wg x.c.grp (fun g => advanceGrp x.c (putS g d (wordOf v))))
  | .wait k => .ok (modGrp s x.c.wg x.c.grp (parkGrp x.c k))
  | .done => .ok (advance s x.c)
  | .put q test park =>
    let s1 := if test then phTest s wg boff q else phWrite s wg boff q
    if park && (phRead s1 wg boff).gen == p.gen then .ok (modGrp s1 x.c.wg x.c.grp (parkGrp x.c (.phaw wg boff p.gen)))
    else .ok (advance s1 x.c)

/-- A phaser word: none of it for an empty ACTIVE; its address is checked, and it is an access of the domain. -/
def phWord (s : State) (w : FmtY) (useK init : Bool) (f : State → Ctx → Nat → Nat → Phaser → PhRes) : Host.Outcome State Fault Refusal :=
  withCtx s w.g fun x =>
    if groupAct x = 0 then advance s x.c
    else
      let ksrc : List Src := if useK then [{ which := 3, code := BitVec.ofNat 8 (0x80 + w.k.toNat % 64), n := 1 }] else []
      withSources s x (srcOf 0 w.a 1 :: ksrc) fun s => withCut s x fun s =>
        let a := readUN s x w.a
        match canvasAt s x.l x.w a 16 with
        | none => phTrap s x .canvasBounds 0 a 0
        | some (t, boff) =>
          match lockHit s x.l.id (dieOf s t.lcore) (.canvas t.id) boff 16 false with
          | some k => phTrap s x .rangeHazard 0 (a + (max boff k.lo - boff)) 3
          | none =>
            if heldByFault x.g || domainBlocked s x.c.wg x.g || stalledAt s x.c.wg (.canvas t.id boff) then .wait
            else phApply (performGroup s x.c.wg x.c.grp) x a t.id boff init (f s x t.id boff)

def kScalar (x : Ctx) (w : FmtY) : Nat := (getS x.g (w.k.toNat % 64)).val.toNat

def execPhini (w : FmtY) (s : State) : Host.Outcome State Fault Refusal :=
  phWord s w true true fun _ x _ _ _ =>
    let v := kScalar x w
    if bitsOf v 15 10 != 0 || bitsOf v 31 26 != 0 then .bad 5
    else .put { gen := 0, nsig := bitsOf v 9 0, nwait := bitsOf v 25 16, pend := bitsOf v 9 0, zhi := 0, outb := 0, zlo := 0, inb := 0 } false false

/-- The mode of PHREG and PHDRP: signals, waits. -/
def phSig (w : FmtY) : Bool := w.k.toNat % 4 != 1
def phWt (w : FmtY) : Bool := w.k.toNat % 4 != 0

def execPhreg (w : FmtY) (s : State) : Host.Outcome State Fault Refusal :=
  phWord s w false false fun _ _ _ _ p =>
    if (phSig w && p.nsig == 1023) || (phWt w && p.nwait == 1023) then .bad 2
    else .put { p with nsig := if phSig w then p.nsig + 1 else p.nsig, nwait := if phWt w then p.nwait + 1 else p.nwait,
                       pend := if phSig w && w.k.getLsbD 2 then p.pend + 1 else p.pend } false false

/-- An arrival (R304). -/
def phArrive (p : Phaser) : Phaser := { p with pend := p.pend - 1 }

def execPhdrp (w : FmtY) (s : State) : Host.Outcome State Fault Refusal :=
  phWord s w false false fun _ _ _ _ p =>
    let arr := w.k.getLsbD 2
    if arr && p.pend == 0 then .bad 1
    else if (phSig w && p.nsig == 0) || (phWt w && p.nwait == 0) then .bad 2
    else
      let q := { p with nsig := if phSig w then p.nsig - 1 else p.nsig, nwait := if phWt w then p.nwait - 1 else p.nwait }
      .put (if arr then phArrive q else q) arr false

def execPharr (w : FmtY) (s : State) : Host.Outcome State Fault Refusal :=
  phWord s w false false fun _ _ _ _ p => if p.pend = 0 then .bad 1 else .put (phArrive p) true false

def execPhaw (w : FmtY) (s : State) : Host.Outcome State Fault Refusal :=
  phWord s w false false fun _ _ _ _ p => if p.pend = 0 then .bad 1 else .put (phArrive p) true true

def execPhwt (w : FmtY) (s : State) : Host.Outcome State Fault Refusal :=
  phWord s w true false fun _ x wg boff p => if p.gen = kScalar x w % 16 then .wait (.phwt wg boff p.gen) else .done

def execPhwtOut (w : FmtY) (s : State) : Host.Outcome State Fault Refusal :=
  phWord s w false false fun _ _ wg boff p => if p.outb = 0 then .done else .wait (.phwtOut wg boff)

def execPhexp (w : FmtY) (s : State) : Host.Outcome State Fault Refusal :=
  phWord s w true false fun _ x _ _ p =>
    let n := kScalar x w
    if 2 ^ 31 ≤ n ∨ 2 ^ 31 ≤ toSigned 32 p.inb + (n : Int) then .bad 3
    else .put { p with inb := (p.inb + n) % 2 ^ 32 } true false

def execPhqry (w : FmtY) (s : State) : Host.Outcome State Fault Refusal :=
  phWord s w false false fun _ _ _ _ p =>
    .value w.d.toNat (match w.k.toNat with
      | 0 => p.gen
      | 1 => p.pend
      | 2 => p.inb
      | 3 => p.outb
      | 4 => p.nsig
      | _ => p.nwait)

/-! ## Barriers (R306-R308) -/

/-- A gang arrives, or joins its group's arrival, and parks; a release waits for accesses of the group that cannot be performed yet. -/
def barArrive (s : State) (x : Ctx) (k : Park) (mark : Group → Group) : Res :=
  let s1 := if domainBlocked s x.c.wg x.g then s else performGroup s x.c.wg x.c.grp
  .ok (barriers (modGrp s1 x.c.wg x.c.grp (fun g => { mark (parkGrp x.c k g) with arrMark := s.nextId })) x.c.wg)

def barWord (s : State) (x : Ctx) (k : Park) (mark : Group → Group) : State :=
  if groupAct x = 0 then advance s x.c else withCut s x fun s => barArrive s x k mark

def execBar (w : FmtY) (s : State) : Host.Outcome State Fault Refusal :=
  withCtx s w.g fun x => (holdSplit s x).getD (barWord s x .bar (fun g => { g with barArr := true }))

def execBart (w : FmtY) (s : State) : Host.Outcome State Fault Refusal :=
  withCtx s w.g fun x => barWord s x .bart (fun g => { g with bartArr := true })

def execBard (w : FmtY) (s : State) : Host.Outcome State Fault Refusal :=
  withCtx s w.g fun x =>
    if groupAct x != 0 && !isCoop x.l then trapOr s x (Trap.at x.c .badBarrier 0 (sureLanes x))
    else barWord s x .bard (fun g => { g with bardArr := true })

/-- BARRIER_COMBINE: level `c` of the tree acts for launch `a`, team `b` - 1 or the grid (`b` = 0), at die or hub `d`. -/
def execBarrierCombine (s : State) : Host.Outcome State Fault Refusal :=
  .next (combine s s.arg.a (if s.arg.b = 0 then none else some (s.arg.b - 1)) s.arg.c s.arg.d)

/-! ## Flag waits, rejoin masks, FENCE (R280, R281, R300, R310) -/

def execWaitf (w : FmtYX) (s : State) : Host.Outcome State Fault Refusal :=
  withCtx s w.g fun x =>
    let m : BitVec 12 := BitVec.ofNat 12 w.imm.toNat
    if groupAct x = 0 ∨ m = 0 ∨ flagsClear x.g x.c.quads m then advance s x.c
    else modGrp s x.c.wg x.c.grp (parkGrp x.c (.waitf m))

def execWaitj (w : FmtY) (s : State) : Host.Outcome State Fault Refusal :=
  withCtx s w.g fun x =>
    if groupAct x = 0 then advance s x.c
    else withSources s x [srcOf 0 w.a 1] fun s =>
      let m : LMask := BitVec.ofNat 16 (readUN s x w.a)
      let n := w.d.toNat % 8
      if getJ x.g n &&& m = m then advance s x.c
      else modGrp s x.c.wg x.c.grp (parkGrp x.c (.waitj n m))

/-- A rejoin mask changes by a function of the operand. -/
def jmskWord (s : State) (w : FmtY) (f : LMask → LMask → LMask) : Host.Outcome State Fault Refusal :=
  withCtx s w.g fun x =>
    if groupAct x = 0 then advance s x.c
    else withSources s x [srcOf 0 w.a 1] fun s =>
      let n := w.d.toNat % 8
      modGrp s x.c.wg x.c.grp (fun g => advanceGrp x.c (putJ g n (f (getJ g n) (BitVec.ofNat 16 (readUN s x w.a)))))

def execJmskSet (w : FmtY) (s : State) : Host.Outcome State Fault Refusal := jmskWord s w (fun _ a => a)
def execJmskOr (w : FmtY) (s : State) : Host.Outcome State Fault Refusal := jmskWord s w (fun j a => j ||| a)
def execJmskClr (w : FmtY) (s : State) : Host.Outcome State Fault Refusal := jmskWord s w (fun j a => j &&& ~~~a)

def execJmskRd (w : FmtY) (s : State) : Host.Outcome State Fault Refusal :=
  withCtx s w.g fun x =>
    if groupAct x = 0 then advance s x.c
    else modGrp s x.c.wg x.c.grp (fun g => advanceGrp x.c (putS g (w.a.code.toNat % 64) (wordOf (getJ g (w.d.toNat % 8)).toNat)))

def execFence (w : FmtY) (s : State) : Host.Outcome State Fault Refusal :=
  withCtx s w.g fun x =>
    let ag := bitsOf w.k.toNat 7 5
    let st := bitsOf w.k.toNat 4 3
    let body := fun (s : State) =>
      if fenceOpen s x.c.wg x.c.grp ag st s.nextId then Res.ok (modGrp s x.c.wg x.c.grp (parkGrp x.c (.fence ag st s.nextId)))
      else Res.ok (advance s x.c)
    if groupAct x = 0 then advance s x.c
    else if 2 ≤ ag then withCut s x body
    else closeRes s x (body s)

end Sys2Proof.Machine
end

