-- ==== Sys2Proof/Machine/Calls.lean ====
section
/-! DEFINITION. Memory-side calls: MCALL (R279), acceptance (R276, R277), the end of a call (R278), its time limits (R272,
R274) and yielding (R283). -/
namespace Sys2Proof.Machine

/-! ## MCALL (R279) -/

def mcallOff (s : State) (x : Ctx) (w : FmtYX) (l : Nat) : Int := (readN s x w.a l : Int) + toSigned 32 w.imm.toNat

/-- The 64 bytes of the block lie in the record and are aligned. -/
def mcallIn (r : BitVec 128) (o : Int) : Bool := offIn r o 64 && decide (o % 64 = 0)

/-- A call of lane `l`; all calls of one MCALL stand at the place `after` of the word (R277). -/
def call0 (s : State) (x : Ctx) (w : FmtYX) (l off after : Nat) : Call :=
  { id := s.nextId, launch := x.l.id, part := x.l.part, wg := x.c.wg, grp := x.c.grp, lane := l, j := w.d.toNat % 8, die := dieOf s x.w.lcore,
    pc := x.c.pc, quads := x.c.quads, st := .accepting, brec := getB x.g (w.k.toNat % 16), off := off, after := after, nw := 0, bmask := 0, page := 0,
    aux := 0, dst := 0, auxlen := 0, dstlen := 0, wpage := false, sparse := false, prog := [], pagePa := 0, stack := 12, pch := 0, auxPa := [],
    fpc := 0, fp := [], rods := [], stream := closedStream, sinceAct := 0, passed := 0, started := 0, uncounted := 0, yld := none, status := 0,
    detail := 0, logged := [], pend := [], waits := [], refused := [], waitPage := none, cstDone := false }

/-- The trap that a confirmed lane of an MCALL meets first: rows 1, 3 and 5 of R189. -/
def mcallTrap (s : State) (x : Ctx) (w : FmtYX) : Option Trap :=
  let n := w.k.toNat % 16
  let r := getB x.g n
  let ls := lanesOf (sureLanes x)
  let pick := fun (f : Nat → Bool) => ls.foldl (fun m l => if f l then m ||| laneBit l else m) (0 : LMask)
  let off := fun (l : Nat) => mcallOff s x w l
  let hit := fun (l : Nat) => if mcallIn r (off l) then
      ((offBytes r (off l) 64).findSome? (fun b => (lockHit s x.l.id (dieOf s x.w.lcore) (.global x.l.part) b.2 1 true).map (fun k => (k, b.2)))) else none
  let ro := if recRdonly r then pick (fun l => mcallIn r (off l)) else 0
  let oob := if recOobt r then pick (fun l => !mcallIn r (off l)) else 0
  let hz := pick (fun l => (hit l).isSome)
  let low := fun (m : LMask) => (lowestLane m).getD 0
  if ro != 0 then some { Trap.at x.c .readOnlyBuffer 0 ro with addr := ((offBytes r (off (low ro)) 64).headD (0, 0)).2, info := n }
  else if oob != 0 then some { Trap.at x.c .outOfBounds 0 oob with addr := wrapNat 64 (off (low oob)), info := n }
  else if hz != 0 then match hit (low hz) with
    | some e => some { Trap.at x.c .rangeHazard 0 hz with addr := e.2, info := if e.1.write then 1 else 0 }
    | none => none
  else none

/-- One lane of an MCALL: its bit falls, and its call starts; a helper lane or one out of bounds makes no call. -/
def mcallLane (x : Ctx) (w : FmtYX) (after : Nat) (s : State) (l : Nat) : State :=
  let j := w.d.toNat % 8
  let o := mcallOff s x w l
  if !hasLane x.g.counted l || !mcallIn (getB x.g (w.k.toNat % 16)) o then
    modGrp s x.c.wg x.c.grp (fun g => putJ g j (getJ g j ||| laneBit l))
  else
    let c := call0 s x w l o.toNat after
    modGrp { (freshId s).2 with calls := s.calls ++ [c] } x.c.wg x.c.grp (fun g => putJ g j (getJ g j &&& ~~~laneBit l))

def mcallGo (x : Ctx) (w : FmtYX) (s : State) : Res :=
  let r := getB x.g (w.k.toNat % 16)
  let sticky := (lanesOf (sureLanes x)).any (fun l => !mcallIn r (mcallOff s x w l))
  let s1 := if sticky then modGrp s x.c.wg x.c.grp (setSticky (w.k.toNat % 16)) else s
  match mcallTrap s x w with
  | some t => .trap s1 t
  | none =>
    if heldByFault x.g then .wait
    else
      let s2 := (lanesOf x.act).foldl (mcallLane x w s1.nextId) s1
      if s2.nextId = s1.nextId then .ok (advance s2 x.c)
      else .ok (modGrp s2 x.c.wg x.c.grp (parkGrp x.c (.mcall s1.nextId s2.nextId)))

/-- In a CHECKED launch the interval is cut first, and the word issues as the first of the new one (R329). -/
def execMcall (w : FmtYX) (s : State) : Host.Outcome State Fault Refusal :=
  withCtx s w.g fun x =>
    if groupAct x = 0 then advance s x.c
    else withSources s x [srcOf 0 w.a 1] fun s =>
      if x.w.chk.isNone then closeRes s x (mcallGo x w s)
      else if cutReady s x.w then closeRes s x (mcallGo x w (openInterval (commitBuf s x.w.id) x.w.id))
      else modGrp s x.c.wg x.c.grp (stayGrp x.c .cut)

/-! ## Reading a call block (R276, R277, R279) -/

inductive CallRead where
  /-- Bytes, each with its poison, and the physical address of the first poisoned one. -/
  | bytes (b : List Byte) (bad : Option Nat)
  | fault (va : Nat)
  | refused (va : Nat)
  | stalled (pa : Nat)

/-- Virtual address of byte `j` of a call block. -/
def blockVa (c : Call) (j : Nat) : Nat := recBase c.brec + swz (c.off + j) (recSwz c.brec)

/-- Bytes `j`, `j` + 1, … of the block. Bytes of a peer's memory are free values (log 19). -/
def readBlock (c : Call) (s : State) (j : Nat) : Nat → CallRead × State
  | 0 => (.bytes [] none, s)
  | n + 1 =>
    let va := blockVa c j
    if c.refused.contains (pageOf va) then (.refused va, s)
    else match translateFor s c.die c.part va false with
    | (none, s1) => (.fault va, s1)
    | (some p, s1) =>
      let here : Option ((Byte × Bool) × State) := match p.peer with
        | some k => if peerGone s1 c.part k then none else (let w := freshWord s1; some ((BitVec.ofNat 8 w.1.toNat, false), w.2))
        | none => (loadBytes s1 c.wg (.global p.pa) 1).head?.map (fun b => (b, s1))
      match here with
      | none => (.refused va, s1)
      | some (b, s2) =>
        let first := p.peer.isNone && (j == 0 || p.pa % 64 == 0)
        if first && (stalledFor s2 (launchClass s2 c.launch) p.pa || !yieldRoom s2 (launchClass s2 c.launch) [p.pa]) then (.stalled p.pa, s2)
        else match readBlock c (if first then yieldServe s2 [p.pa] else s2) (j + 1) n with
          | (.bytes bs bad, s3) => (.bytes (b.1 :: bs) (if b.2 then some p.pa else bad), s3)
          | r => r

/-- A program that consists of XRED and REND (R276). -/
def xredOnly (prog : List Word) : Bool :=
  match prog with
  | [a, b] => bitsOf a.toNat 31 27 == 0x0F && bitsOf b.toNat 31 27 == 0x0D
  | _ => false

def wordsOf : List Byte → List Word
  | a :: b :: c :: d :: r => wordOf (bytesToNat [a, b, c, d]) :: wordsOf r
  | _ => []

/-- The fields of the block's first 64 bytes. -/
def blockFields (c : Call) (b : List Byte) : Call :=
  { c with nw := fieldAt b 4 2, bmask := BitVec.ofNat 16 (fieldAt b 6 2), page := dwordOf (fieldAt b 8 8), aux := dwordOf (fieldAt b 0x10 8),
           dst := dwordOf (fieldAt b 0x18 8), auxlen := fieldAt b 0x20 4, dstlen := fieldAt b 0x24 4, wpage := bitOf (fieldAt b 0x28 4) 0,
           sparse := bitOf (fieldAt b 0x28 4) 1, fp := ((List.range 5).map (fun k => wordOf (fieldAt b (0x2C + 4 * k) 4))) ++ [0, 0, 0] }

/-! ## Ends -/

/-- A call ends with a status: its end is carried out by CALL_END. -/
def endCall (s : State) (id status detail : Nat) : State :=
  modCall s id (fun c => { c with st := .ending, status := status, detail := detail % 256, waitPage := none, waits := [], rods := [], yld := none })

/-- The lane's bit in its rejoin mask rises (R278 step 5). -/
def setRejoin (s : State) (c : Call) : State :=
  modSince s c.wg c.grp c.id (fun g => putJ g c.j (getJ g c.j ||| laneBit c.lane))

def cstBytes (status detail : Nat) : List (Byte × Bool) := (natToBytes 4 (status + 256 * detail)).map (fun b => (b, false))

/-- Physical addresses of CST in device memory that stall. -/
def cstStalls (s : State) (c : Call) : List Nat :=
  (List.range 4).filterMap (fun j => match (translateFor s c.die c.part (blockVa c j) true).1 with
    | some p => if p.peer.isNone && (callStalls s c p.pa || !yieldRoom s (launchClass s c.launch) [p.pa]) then some p.pa else none
    | none => none)

/-- The call waits for these addresses (R283). -/
def callWaits (s : State) (id : Nat) (pas : List Nat) : State := modCall s id (fun c => { c with waits := pas })

/-- CST's four bytes are written, where they can be; none on a fault. -/
def writeCst (s : State) (c : Call) (status : Nat) : Option State :=
  (List.range 4).foldl (fun (r : Option State) j =>
    match r with
    | none => none
    | some s => match translateFor s c.die c.part (blockVa c j) true with
      | (none, _) => none
      | (some p, s1) => match p.peer with
        | some _ => some s1
        | none =>
          let s2 := memWriteP s1 p.pa (((cstBytes status c.detail).drop j).take 1)
          some (if j = 0 then yieldServe s2 [p.pa] else s2)) (some s)

/-- A translation fault of acceptance that was refused: no call is made; the lanes refused for one MCALL are one refusal (R277). It waits
while CST's place stalls. -/
def refuseCall (s : State) (c : Call) (va : Nat) (wr : Bool) : State :=
  if !(cstStalls s c).isEmpty then callWaits s c.id (cstStalls s c)
  else
  let s1 := (writeCst s { c with detail := 0 } 7).getD s
  let s2 := setRejoin s1 c
  let s3 := addRefusal s2 c.wg c.grp { pc := c.pc, lanes := laneBit c.lane, va := va, write := wr, copy := false, op := c.after, quads := c.quads, stands := false }
  { s3 with calls := s3.calls.filter (fun k => k.id != c.id) }

/-- The call waits for the reply to a fault, which takes an entry of its die's operand log; it tries again while that is full (R13, R195,
log 144). -/
def waitCall (s : State) (c : Call) (va how : Nat) : State :=
  if logFull s c.die then s
  else raiseFault (modCall s c.id (fun c => { c with waitPage := some (pageOf va), waits := [] })) c.part va how (tagOf s c.launch)

/-! ## Acceptance (R277) -/

/-- Where a translation leads. -/
def physLoc (q : Phys) : Loc := match q.peer with
  | some k => .peer k q.pa
  | none => .global q.pa

/-- What translating AUX comes to: where its pages lie; or a page that faults, or lies at a peer out of reach. -/
inductive AuxRes where
  | pages (at' : List (Nat × Loc))
  | fault (va : Nat)
  | gone (va : Nat)

def auxPages (c : Call) (s : State) : List Nat → AuxRes × State
  | [] => (.pages [], s)
  | p :: r =>
    match translateFor s c.die c.part (p * 65536) false with
    | (none, s1) => (.fault (max c.aux.toNat (p * 65536)), s1)
    | (some q, s1) =>
      if q.peer.any (peerGone s1 c.part) then (.gone (max c.aux.toNat (p * 65536)), s1)
      else match auxPages c s1 r with
      | (.pages l, s2) => (.pages ((p, physLoc q) :: l), s2)
      | e => e

/-- The 64 KiB pages of AUX. -/
def auxList (c : Call) : List Nat :=
  if c.auxlen = 0 then [] else (List.range ((c.aux.toNat + c.auxlen - 1) / 65536 - c.aux.toNat / 65536 + 1)).map (· + c.aux.toNat / 65536)

/-- AUX reaches, by the translation taken at acceptance, into the memory of a peer that is out of reach (R275, R370). -/
def auxGone (s : State) (c : Call) : Bool :=
  c.auxPa.any (fun e => match e.2 with | .peer k _ => peerGone s c.part k | _ => false)

/-- Physical addresses in device memory of AUX, one in each sector. -/
def auxGoals (c : Call) : List Nat :=
  c.auxPa.flatMap (fun e => match e.2 with
    | .global pa =>
      let lo := max c.aux.toNat (e.1 * 65536)
      rangePas (pa + lo % 65536) (min (c.aux.toNat + c.auxlen) ((e.1 + 1) * 65536) - lo)
    | _ => [])

/-- AUX's own bytes stall, where `st` says. -/
def auxStalled (c : Call) (st : Nat → Bool) : Bool := (auxGoals c).any st

/-- Step 5: the call joins the queue of its frame; acceptance waits while that is full. -/
def queueCall (s : State) (c : Call) : State :=
  let n := (s.calls.filter (fun k => k.st == .queued && k.stack == c.stack && k.pch == c.pch)).length
  if 32 ≤ n then s else { s with calls := s.calls.filter (fun k => k.id != c.id) ++ [{ c with st := .queued, waits := [] }] }

/-- The locks of a call (R277 step 4). -/
def callLocks (s : State) (c : Call) : List Lock :=
  let lock := fun (write : Bool) (lo n : Nat) => if n = 0 then [] else [mkLock s c.die write (.global c.part) lo (lo + n - 1) c.launch c.id]
  (if c.page = 0 then [] else lock c.wpage c.page.toNat (2 ^ 21)) ++ lock false c.aux.toNat c.auxlen ++ lock true c.dst.toNat c.dstlen

/-- Step 4: the locks, once the die's table has room for them (R13); then step 5. -/
def lockCall (s : State) (c : Call) : State :=
  let ks := callLocks s c
  if !lockRoom s ks then s
  else
    let c1 := { c with st := .locked }
    queueCall (modCall (ks.foldl addLock s) c.id (fun _ => c1)) c1

/-- Step 3: the page. -/
def checkPage (s : State) (c : Call) (p : Option Phys) : State :=
  let near := match p with
    | none => c.page = 0 && xredOnly c.prog
    | some q => c.page.toNat % 2 ^ 21 == 0 && q.peer.isNone && q.big && isNb s (unitOf q.pa)
  if !near then endCall (modCall s c.id (fun _ => c)) c.id 4 0
  else match p with
    | none => lockCall s c
    | some q =>
      let at' := placeOf s q.pa
      lockCall s { c with pagePa := q.pa, stack := at'.stack, pch := at'.pch }

/-- Step 2: PAGE, for writing with WPAGE, and AUX are translated. -/
def translateCall (s : State) (c : Call) : State :=
  let auxs := auxList c
  let hit := auxs.find? c.refused.contains
  let wr := c.wpage && (translate s c.die c.part c.page.toNat).1.isSome
  if c.page ≠ 0 ∧ c.refused.contains (pageOf c.page.toNat) then refuseCall s c c.page.toNat wr
  else match hit with
  | some p => refuseCall s c (max c.aux.toNat (p * 65536)) false
  | none =>
    match (if c.page = 0 then (none, s) else translateFor s c.die c.part c.page.toNat c.wpage) with
    | (p, s1) =>
      if c.page ≠ 0 ∧ p.isNone then waitCall s1 c c.page.toNat (if wr then 5 else 4)
      else match auxPages c s1 auxs with
        | (.fault va, s2) => waitCall s2 c va 4
        | (.gone va, s2) => refuseCall s2 c va false
        | (.pages l, s2) => checkPage s2 { c with auxPa := l } p

/-- MCALL_CALL_ACCEPT: acceptance of call `a` goes as far as it can. -/
def execMcallCallAccept (s : State) : Host.Outcome State Fault Refusal :=
  .next (match findCall s s.arg.a with
  | none => s
  | some c =>
    if c.st == .locked then queueCall s c
    else if c.st != .accepting || c.waitPage.isSome || prevBlocked s false c.wg c.grp c.after then s
    else
      let s0 := performPrev s false c.wg c.grp c.after
      match readBlock c s0 0 64 with
      | (.fault va, s1) => waitCall s1 c va 0
      | (.refused va, s1) => refuseCall s1 c va false
      | (.stalled pa, s1) => callWaits s1 c.id [pa]
      | (.bytes _ (some pa), s1) =>
        endCall (modCall s1 c.id (fun c => { c with cstDone := sectorBad s1 pa && pa / 64 == (blockPa s1 c) / 64 })) c.id 2 (placeOf s1 pa).stack
      | (.bytes b none, s1) =>
        let c1 := blockFields c b
        if fieldAt b 0x28 4 / 4 != 0 || c1.nw == 0 || decide (256 < c1.nw) then endCall s1 c.id 5 0
        else if c1.dst.toNat % 32 != 0 || c1.dstlen % 32 != 0 then endCall s1 c.id 6 0
        else if !offIn c.brec c.off (64 + 4 * c1.nw) then endCall s1 c.id 6 0
        else match readBlock c s1 64 (4 * c1.nw) with
          | (.fault va, s2) => waitCall s2 c va 0
          | (.refused va, s2) => refuseCall s2 c va false
          | (.stalled pa, s2) => callWaits s2 c.id [pa]
          | (.bytes _ (some pa), s2) => endCall s2 c.id 2 (placeOf s2 pa).stack
          | (.bytes p none, s2) => translateCall s2 { c1 with prog := wordsOf p })
where
  /-- Physical address of CST. -/
  blockPa (s : State) (c : Call) : Nat :=
    match (translateFor s c.die c.part (blockVa c 0) false).1 with
    | some p => p.pa
    | none => 0

/-! ## Running (R269, R275, R283) -/

def rod0 : Rod := { rv := [], rm := [0xFFFF, 0, 0, 0], ra := [], row := none }

/-- A metadata or list byte of AUX through the translation taken at acceptance; a peer's byte is a free value (log 19). -/
def auxByte (s : State) (c : Call) (i : Nat) : Byte × Bool :=
  let va := c.aux.toNat + i
  match assoc? c.auxPa (va / 65536) with
  | some (.global pa) => (memByte s (pa + va % 65536), sectorBad s (pa + va % 65536))
  | _ => (BitVec.ofNat 8 (Config.freeWord (s.freeCtr + i)).toNat, false)

/-- Stack that holds the first poisoned metadata byte among `n` from offset `o`. -/
def auxBad (s : State) (c : Call) (o n : Nat) : Option Nat :=
  ((List.range n).find? (fun i => (auxByte s c (o + i)).2)).map (fun i =>
    let va := c.aux.toNat + o + i
    match assoc? c.auxPa (va / 65536) with
    | some (.global pa) => (placeOf s (pa + va % 65536)).stack
    | _ => 0)

/-- The stream moves on; a poisoned sector or a broken code ends the call with a status and detail (R275), and a peer out of
reach ends it as refused (R370). -/
def streamStep (s : State) (c : Call) (first : Bool) : Except (Nat × Nat) Stream :=
  let b := fun (i : Nat) => (auxByte s c i).1.toNat
  let q0 := if first then { closedStream with st := .opened, addr := c.aux, len := wordOf c.auxlen, limit := 0xFFFFFFFF } else c.stream
  let q := if first then streamOpen b c.aux 0xFFFFFFFF (wordOf c.auxlen) else streamNext b c.stream (some c.stream.pos.toNat)
  let r := streamReads q0 q
  if auxGone s c then .error (7, 0)
  else match auxBad s c r.1 r.2 with
  | some k => .error (2, k)
  | none => if q.st = .endedErr then .error (6, c.fpc) else .ok q

/-- The first queued call of a frame starts when the frame is free and no earlier lock conflicts (R253, R269), and its opening decode can
read AUX (R275). -/
def startCall (s : State) (c : Call) : State :=
  let same := fun (k : Call) => k.stack == c.stack && k.pch == c.pch
  let first := (s.calls.find? (fun k => k.st == .queued && same k)).map (fun k => k.id)
  if s.calls.any (fun k => k.st == .running && same k) || first != some c.id || lockWaits s c.id then s
  else if c.bmask != 0 && c.sparse && auxStalled c (callStalls s c) then callWaits s c.id ((auxGoals c).filter (callStalls s c))
  else
    let c1 := { c with st := .running, waits := [], started := now s, rods := List.replicate 16 rod0, fpc := 0 }
    let s1 := modCall s c.id (fun _ => c1)
    if c.bmask = 0 then endCall s1 c.id 5 0
    else if c.sparse then
      match streamStep s1 c1 true with
      | .ok q => modCall s1 c.id (fun c => { c with stream := q })
      | .error (st, d) => endCall s1 c.id st d
    else s1

/-- The yield points of the call here (R283): the end of a 64th word since the last RACT; before a RACT, and at REND. -/
def wordPoint (c : Call) : Bool := decide (0 < c.sinceAct) && c.sinceAct % 64 == 0
def rowPoint (c : Call) : Bool :=
  match c.prog[c.fpc]? with
  | some w => bitsOf w.toNat 31 27 == 0 || bitsOf w.toNat 31 27 == 0x0D
  | none => false

/-- A yield point that has not had its window yet. -/
def atYield (c : Call) : Bool :=
  c.rods.any (fun r => r.row.isSome) && ((wordPoint c && c.passed == 0) || (rowPoint c && decide (c.passed < 2)))

/-- Something waits for the rods of a call: an access, a copy, or a repair copy (R283). -/
def yieldWaiters (s : State) (c : Call) : Bool := rodWaiters s c (fun _ => true) || repairWaits s c

/-- ROD_YIELD: the rods of call `a` stop at a yield point for the accesses that wait; State does not hold those of a word at
issue, a record's or a clause's reads, so they may stop with none known (log 122). -/
def execRodYield (s : State) : Host.Outcome State Fault Refusal :=
  .next (match findCall s s.arg.a with
  | none => s
  | some c =>
    if c.st == .running && atYield c && c.yld.isNone then
      modCall s c.id (fun c => { c with yld := some (0, now s) })
    else s)

/-- YIELD_WINDOW_LIMIT: the window of call `a` is over and no class-0 access waits; its rods go on. -/
def execYieldWindowLimit (s : State) : Host.Outcome State Fault Refusal :=
  .next (match findCall s s.arg.a with
  | none => s
  | some c => match c.yld with
    | none => s
    | some w =>
      if (yieldLimit s w && !rodWaiters s c (· == 0)) || !yieldWaiters s c then
        modCall s c.id (fun c => { c with yld := none, passed := if wordPoint c && c.passed == 0 then 1 else 2 })
      else s)

/-! ## The events of a call's end -/

/-- CALL_END: call `a` ends once each of its DST writes is performed or in the operand log (R278). -/
def execCallEnd (s : State) : Host.Outcome State Fault Refusal :=
  .next (match findCall s s.arg.a with
  | none => s
  | some c =>
    if c.st != .ending || c.waitPage.isSome || !c.pend.isEmpty then s
    else
      let status := if c.status = 0 ∧ !c.logged.isEmpty then 1 else c.status
      let fini := fun (s : State) =>
        reapCalls (setRejoin (dropLocks (modCall s c.id (fun c => { c with st := .ended, cstDone := true })) c.id) c)
      let gone := match (translateFor s c.die c.part (blockVa c 0) true).1 with
        | some p => (match p.peer with | some k => peerGone s c.part k | none => false)
        | none => c.refused.contains (pageOf (blockVa c 0))
      if c.cstDone then fini s
      else if gone then fini (lostWrite s c.launch (blockVa c 0))
      else if !(cstStalls s c).isEmpty then callWaits s c.id (cstStalls s c)
      else match writeCst s c status with
        | some s1 => fini s1
        | none => waitCall s c (blockVa c 0) 5)

/-- CALL_TIMEOUT: call `a` has run for more than 100 ms of counted device time (R272). -/
def execCallTimeout (s : State) : Host.Outcome State Fault Refusal :=
  .next (match findCall s s.arg.a with
  | none => s
  | some c => if c.st == .running && decide (1000 * us100 < now s - c.started - c.uncounted) then endCall s c.id 3 c.stack else s)

end Sys2Proof.Machine
end

