-- ==== Sys2Proof/Machine/Frames.lean ====
section
/-! DEFINITION. Frame and rod words (R269-R275): the checks of a word, rod registers and arithmetic, columns of the page,
IRED, XRED and FILL. -/
namespace Sys2Proof.Machine

/-! ## The shell of a frame or rod word (R272) -/

/-- What executing a word comes to. -/
inductive RodRes where
  /-- The call goes on at its next word, or at a target. -/
  | next (s : State)
  | jump (s : State) (target : Nat)
  /-- The call ends with a status; the detail is the FPC, or what is given. -/
  | stop (s : State) (status : Nat) (detail : Option Nat)
  /-- A repair window stalls the frame, or accesses outside the page wait at these addresses. -/
  | stall (pas : List Nat)

/-- The running call and its program's word. -/
def withCall (s : State) (f : Call → State) : Host.Outcome State Fault Refusal :=
  match s.curCall.bind (findCall s) with
  | none => .fault .noCall
  | some c => .next (f c)

/-- The word has been executed: FPC moves on. -/
def rodNext (s : State) (id fpc : Nat) (act : Bool) : State :=
  modCall s id (fun c => { c with fpc := fpc, sinceAct := if act then 0 else c.sinceAct + 1, passed := 0, waits := [] })

/-- A frame or rod word: BAD_CODE for a breach of R272 that the word itself shows. -/
def rodWord (s : State) (i : Instr) (bad act : Bool) (f : Call → RodRes) : Host.Outcome State Fault Refusal :=
  withCall s fun c =>
    if rodUnused i || bad then endCall s c.id 5 c.fpc
    else match f c with
    | .next s1 => rodNext s1 c.id (c.fpc + 1) act
    | .jump s1 t => rodNext s1 c.id t act
    | .stop s1 st d => endCall s1 c.id st (d.getD c.fpc)
    | .stall pas => callWaits s c.id pas

/-! ## Rod registers -/

def fpReg (c : Call) (n : Nat) : Word := c.fp.getD n 0
def fpSet (s : State) (id n : Nat) (x : Word) : State := modCall s id (fun c => { c with fp := modifyAt c.fp n (fun _ => x) })

def rvGet (r : Rod) (n l : Nat) : BitVec 16 × Bool := smGet r.rv (16 * n + l) (0, false)
def rvPut (r : Rod) (n l : Nat) (x : BitVec 16 × Bool) : Rod := { r with rv := smPut r.rv (16 * n + l) x (0, false) }
def raGet (r : Rod) (n l : Nat) : Slot := smGet r.ra (16 * n + l) slot0
def raPut (r : Rod) (n l : Nat) (x : Slot) : Rod := { r with ra := smPut r.ra (16 * n + l) x slot0 }
def rmGet (r : Rod) (n : Nat) : LMask := if n = 0 then 0xFFFF else r.rm.getD n 0
def rmPut (r : Rod) (n : Nat) (m : LMask) : Rod := { r with rm := modifyAt r.rm n (fun _ => m) }

/-- Every rod of BMASK acts; `f` is given the bank. -/
def eachRod (s : State) (c : Call) (f : Nat → Rod → Rod) : State :=
  modCall s c.id (fun c => { c with rods := (List.range c.rods.length).map (fun b =>
    let r := c.rods.getD b rod0
    if hasLane c.bmask b then f b r else r) })

/-- Every lane of a mask of a rod acts. -/
def eachLane (m : LMask) (f : Rod → Nat → Rod) (r : Rod) : Rod := (lanesOf m).foldl f r

/-! ## Arithmetic (R273) -/

/-- Floating-point type of T. -/
def rodTy (t : BitVec 2) : Nat := if t = 0 then 8 else 9
def isI8 (t : BitVec 2) : Bool := t == 2
def i8Of (x : BitVec 16) : Int := toSigned 8 (x.toNat % 256)
def i8To (x : Int) : BitVec 16 := BitVec.ofNat 16 (wrapNat 16 (intClamp 0 x))
def valOfInt (x : Int) : FVal := .fin (decide (x < 0)) x.natAbs 0
/-- A lane's value as a number. -/
def rodVal (t : BitVec 2) (x : BitVec 16) : FVal := if isI8 t then valOfInt (i8Of x) else fDecode (rodTy t) x.toNat
/-- A value rounded into T; i8 is rounded and clamped, NaN gives 0. -/
def rodRound (t : BitVec 2) (v : FVal) : BitVec 16 :=
  if isI8 t then i8To (fToInt 0 0 v).1 else BitVec.ofNat 16 (deliver (rodTy t) 0 false (exOf v) false false).bits

def rodAdd (t : BitVec 2) (a b : BitVec 16) : BitVec 16 :=
  if isI8 t then i8To (i8Of a + i8Of b) else BitVec.ofNat 16 (addRne (rodTy t) a.toNat b.toNat)
def rodMul (t : BitVec 2) (a b : BitVec 16) : BitVec 16 :=
  if isI8 t then i8To (i8Of a * i8Of b) else BitVec.ofNat 16 (fMul (rodTy t) 0 false (rodVal t a) (rodVal t b)).bits
def rodScl (t : BitVec 2) (a : BitVec 16) (k : Word) : BitVec 16 := rodRound t (exMul (rodVal t a) (fDecode 10 k.toNat)).1
/-- The exact product, of integers for i8, added to an accumulator. -/
def rodMac (t : BitVec 2) (a b : BitVec 16) (acc : Word) : Word :=
  let p := if isI8 t then (valOfInt (i8Of a * i8Of b), FVal.fin false 1 0) else (rodVal t a, rodVal t b)
  wordOf (fFma 10 0 false p.1 p.2 (fDecode 10 acc.toNat)).bits
def rodCond (t : BitVec 2) (cond : Nat) (a b : BitVec 16) : Bool :=
  if isI8 t then iCond cond (i8Of a) (i8Of b) else fCond cond (rodVal t a) (rodVal t b)

/-- A word of two sources: poison of either passes on (R271). -/
def rodTwo (s : State) (i : Instr) (w : FmtR) (f : BitVec 16 → BitVec 16 → BitVec 16) : Host.Outcome State Fault Refusal :=
  rodWord s i (w.t == 3) false fun c =>
    .next (eachRod s c (fun _ r => eachLane (rmGet r w.m.toNat) (fun q l =>
      let a := rvGet r w.a.toNat l
      let b := rvGet r w.b.toNat l
      rvPut q w.d.toNat l (f a.1 b.1, a.2 || b.2)) r))

def execRadd (w : FmtR) (s : State) : Host.Outcome State Fault Refusal := rodTwo s (.radd w) w (rodAdd w.t)
def execRmul (w : FmtR) (s : State) : Host.Outcome State Fault Refusal := rodTwo s (.rmul w) w (rodMul w.t)

def execRscl (w : FmtR) (s : State) : Host.Outcome State Fault Refusal :=
  rodWord s (.rscl w) (w.t == 3) false fun c =>
    .next (eachRod s c (fun _ r => eachLane (rmGet r w.m.toNat) (fun q l =>
      let a := rvGet r w.a.toNat l
      rvPut q w.d.toNat l (rodScl w.t a.1 (fpReg c w.b.toNat), a.2)) r))

def execRmac (w : FmtR) (s : State) : Host.Outcome State Fault Refusal :=
  rodWord s (.rmac w) (w.t == 3) false fun c =>
    .next (eachRod s c (fun _ r => eachLane (rmGet r w.m.toNat) (fun q l =>
      let a := rvGet r w.a.toNat l
      let b := rvGet r w.b.toNat l
      let x := raGet r (w.d.toNat % 2) l
      raPut q (w.d.toNat % 2) l { val := rodMac w.t a.1 b.1 x.val, poison := a.2 || b.2 || x.poison }) r))

def execRcmp (w : FmtR) (s : State) : Host.Outcome State Fault Refusal :=
  rodWord s (.rcmp w) (w.t == 3 || decide (5 < w.imm.toNat % 8) || w.d.toNat % 4 == 0) false fun c =>
    .next (eachRod s c (fun _ r =>
      let m := rmGet r w.m.toNat
      let x := maskOf (fun l => rodCond w.t (w.imm.toNat % 8) (rvGet r w.a.toNat l).1 (rvGet r w.b.toNat l).1)
      let d := w.d.toNat % 4
      rmPut r d ((rmGet r d &&& ~~~m) ||| (x &&& m))))

def execRsel (w : FmtR) (s : State) : Host.Outcome State Fault Refusal :=
  rodWord s (.rsel w) false false fun c =>
    .next (eachRod s c (fun _ r =>
      let sel := rmGet r (w.imm.toNat % 4)
      eachLane (rmGet r w.m.toNat) (fun q l =>
        let a := rvGet r w.a.toNat l
        let b := rvGet r w.b.toNat l
        rvPut q w.d.toNat l (if hasLane sel l then a.1 else b.1, a.2 || b.2)) r))

/-- A mask word. -/
def rodMask (s : State) (i : Instr) (w : FmtR) (f : Call → Rod → LMask) : Host.Outcome State Fault Refusal :=
  rodWord s i (w.d.toNat % 4 == 0) false fun c => .next (eachRod s c (fun _ r => rmPut r (w.d.toNat % 4) (f c r)))

def execRmskAnd (w : FmtR) (s : State) : Host.Outcome State Fault Refusal :=
  rodMask s (.rmskAnd w) w (fun _ r => rmGet r (w.a.toNat % 4) &&& rmGet r (w.b.toNat % 4))
def execRmskOr (w : FmtR) (s : State) : Host.Outcome State Fault Refusal :=
  rodMask s (.rmskOr w) w (fun _ r => rmGet r (w.a.toNat % 4) ||| rmGet r (w.b.toNat % 4))
def execRmskAndn (w : FmtR) (s : State) : Host.Outcome State Fault Refusal :=
  rodMask s (.rmskAndn w) w (fun _ r => rmGet r (w.a.toNat % 4) &&& ~~~(rmGet r (w.b.toNat % 4)))
def execRmskLd (w : FmtR) (s : State) : Host.Outcome State Fault Refusal :=
  rodMask s (.rmskLd w) w (fun c _ => BitVec.ofNat 16 (fpReg c w.a.toNat).toNat)

/-- The sum of a rod's accumulators over a mask, in ascending lane order from the lowest. -/
def rodSum (r : Rod) (n : Nat) (m : LMask) : Slot :=
  match lanesOf m with
  | [] => slot0
  | l :: rest => rest.foldl (fun a k =>
      let x := raGet r n k
      { val := wordOf (addRne 10 a.val.toNat x.val.toNat), poison := a.poison || x.poison }) (raGet r n l)

def execRsum (w : FmtR) (s : State) : Host.Outcome State Fault Refusal :=
  rodWord s (.rsum w) (w.t == 3) false fun c =>
    .next (eachRod s c (fun _ r =>
      let m := rmGet r w.m.toNat
      let n := w.a.toNat % 2
      let goal := fun (x : Slot) => (rodRound w.t (fDecode 10 x.val.toNat), x.poison)
      let r1 :=
        if !w.imm.getLsbD 0 then eachLane m (fun q l => rvPut q w.d.toNat l (goal (raGet r n l))) r
        else if m = 0 then r
        else rvPut (eachLane m (fun q l => rvPut q w.d.toNat l (0, false)) r) w.d.toNat 0 (goal (rodSum r n m))
      if w.imm.getLsbD 1 then eachLane m (fun q l => raPut q n l slot0) r1 else r1))

/-! ## Rows and columns (R268, R271) -/

/-- Physical address of column `col` of row `row` of the page in bank `b`. -/
def colPa (c : Call) (row b col : Nat) : Nat := c.pagePa + (row * 16 + b) * 1024 + col * 32

def ractRow (c : Call) (w : FmtR) : Nat := wrapNat 32 (((fpReg c w.a.toNat).toNat : Int) + toSigned 14 w.imm.toNat)

/-- A repair window covers the row of some rod (R199, R282). -/
def ractStalled (s : State) (c : Call) (row : Nat) : Bool := (List.range 16).any (fun b => hasLane c.bmask b && windowPa s (colPa c row b 0))

def execRact (w : FmtR) (s : State) : Host.Outcome State Fault Refusal :=
  rodWord s (.ract w) false true fun c =>
    let row := ractRow c w
    if 128 ≤ row then .stop s 6 none
    else if ractStalled s c row then .stall []
    else .next (eachRod s c (fun _ r => { r with row := some row }))

def rodCol (c : Call) (w : FmtR) : Nat := ((fpReg c w.a.toNat).toNat + w.imm.toNat % 32) % 32

/-- No rod of the call has a row open. -/
def noRow (c : Call) : Bool := (List.range 16).any (fun b => hasLane c.bmask b && (c.rods.getD b rod0).row.isNone)
/-- A repair window covers an open row. -/
def rowStalled (s : State) (c : Call) (col : Nat) : Bool :=
  (List.range 16).any (fun b => hasLane c.bmask b && match (c.rods.getD b rod0).row with
    | some r => windowPa s (colPa c r b col)
    | none => false)

/-- Byte offset and count of a lane in a column. -/
def laneBytes (w : FmtR) (l : Nat) : Nat × Nat := if isI8 w.t then (16 * (if w.imm.getLsbD 5 then 1 else 0) + l, 1) else (2 * l, 2)

/-- A field of another type's word is not zero: H outside i8. -/
def strayH (w : FmtR) : Bool := !isI8 w.t && w.imm.getLsbD 5

def execRldv (w : FmtR) (s : State) : Host.Outcome State Fault Refusal :=
  rodWord s (.rldv w) (w.t == 3 || strayH w) false fun c =>
    let col := rodCol c w
    if noRow c then .stop s 5 none
    else if rowStalled s c col then .stall []
    else .next (eachRod { s with freeCtr := s.freeCtr + 256 } c (fun b r => eachLane (rmGet r w.m.toNat) (fun q l =>
      let o := laneBytes w l
      let bs := memRead s (colPa c (r.row.getD 0) b col + o.1) o.2
      let v := if anyBad bs then (Config.freeWord (s.freeCtr + 16 * b + l)).toNat else bytesToNat (bs.map Prod.fst)
      rvPut q w.d.toNat l (if isI8 w.t then BitVec.ofNat 16 (wrapNat 16 (toSigned 8 v)) else BitVec.ofNat 16 v, anyBad bs)) r))

def execRwr (w : FmtR) (s : State) : Host.Outcome State Fault Refusal :=
  rodWord s (.rwr w) (w.t == 3 || strayH w) false fun c =>
    let col := rodCol c w
    if !c.wpage || noRow c then .stop s 5 none
    else if rowStalled s c col then .stall []
    else
      let put := fun (s : State) (b l : Nat) =>
        let r := c.rods.getD b rod0
        let x := rvGet r w.d.toNat l
        let o := laneBytes w l
        memWriteP s (colPa c (r.row.getD 0) b col + o.1) ((natToBytes o.2 x.1.toNat).map (fun y => (y, x.2)))
      .next ((List.range 16).foldl (fun s b =>
        if hasLane c.bmask b then (lanesOf (rmGet (c.rods.getD b rod0) w.m.toNat)).foldl (fun s l => put s b l) s else s) s)

/-! ## Flow (R271) -/

/-- The target of a flow word lies at or beyond NW. -/
def badTarget (c : Call) (w : FmtR) : Bool := decide (c.nw ≤ w.imm.toNat % 256)

def execRskp (w : FmtR) (s : State) : Host.Outcome State Fault Refusal :=
  rodWord s (.rskp w) false false fun c =>
    if badTarget c w then .stop s 5 none
    else if c.sparse ∧ c.stream.st = .opened ∧ auxStalled c (callStalls s c) then .stall ((auxGoals c).filter (callStalls s c))
    else if c.sparse ∧ c.stream.st = .opened then
      match streamStep s c false with
      | .ok q => .next (fpSet (modCall s c.id (fun c => { c with stream := q })) c.id w.d.toNat c.stream.pos)
      | .error (st, d) => .stop s st (some d)
    else .jump s (w.imm.toNat % 256)

def execRloop (w : FmtR) (s : State) : Host.Outcome State Fault Refusal :=
  rodWord s (.rloop w) false false fun c =>
    if badTarget c w then .stop s 5 none
    else
      let s1 := fpSet s c.id w.a.toNat (fpReg c w.a.toNat - 1)
      let c1 := (findCall s1 c.id).getD c
      let s2 := if w.imm.getLsbD 8 then fpSet s1 c.id w.d.toNat (fpReg c1 w.d.toNat + 1) else s1
      let c2 := (findCall s2 c.id).getD c
      if fpReg c2 w.a.toNat ≠ 0 then .jump s2 (w.imm.toNat % 256) else .next s2

def execRend (w : FmtR) (s : State) : Host.Outcome State Fault Refusal :=
  rodWord s (.rend w) false false fun _ => .stop s 0 (some 0)

/-! ## IRED, XRED, FILL (R274) -/

/-- A running sum of one output element: none before the first step. -/
def sumStep (a : Option (Nat × Bool)) (x : Nat) (bad : Bool) : Option (Nat × Bool) :=
  match a with
  | none => some (x, bad)
  | some (y, b) => some (addRne 10 y x, b || bad)

/-- Element `k` of bytes in type T, as an f32 pattern. -/
def elemF32 (t : BitVec 2) (bs : List (Byte × Bool)) (k : Nat) : Nat × Bool :=
  if isI8 t then
    let b := bs.getD k (0, false)
    ((deliver 10 0 false (exOfInt (toSigned 8 b.1.toNat)) false false).bits, b.2)
  else
    let a := bs.getD (2 * k) (0, false)
    let b := bs.getD (2 * k + 1) (0, false)
    (cvtRne 10 (rodTy t) (a.1.toNat + 256 * b.1.toNat), a.2 || b.2)

/-- An output element's bytes: f32, or rounded to T. -/
def outElem (t : BitVec 2) (f32 : Bool) (x : Nat × Bool) : List (Byte × Bool) :=
  let bs := if f32 then natToBytes 4 x.1
    else if isI8 t then natToBytes 1 (rodRound t (fDecode 10 x.1)).toNat
    else natToBytes 2 (rodRound t (fDecode 10 x.1)).toNat
  bs.map (fun b => (b, x.2))

/-- Sums over vectors, element by element; an empty list gives +0. -/
def sumVectors (t : BitVec 2) (f32 : Bool) (n : Nat) (vs : List (List (Byte × Bool))) : List (Byte × Bool) :=
  (List.range n).flatMap (fun k =>
    let r := vs.foldl (fun a v => let e := elemF32 t v k; sumStep a e.1 e.2) none
    outElem t f32 (r.getD (0, false)))

/-- Elements in `n` bytes of type T. -/
def elemsIn (t : BitVec 2) (n : Nat) : Nat := if isI8 t then n else n / 2

/-- A call's accesses outside its page stall where `callStalls` says; the page's own accesses for a repair window alone. -/
def pageStalled (s : State) (pa n : Nat) : Bool := if s.stks.all (fun k => k.window.isNone) then false else rangeStalled (windowPa s) pa n

/-- The output is written at DST; one that reaches beyond DSTLEN ends the call OUT_OF_RANGE and is not written (R274, log 109). -/
def putDst (s : State) (c : Call) (out : List (Byte × Bool)) : RodRes :=
  if c.dstlen < out.length then .stop s 6 none else .next (dstWrite s c.id c.dst.toNat out)

/-- Physical addresses of the pieces of `n` bytes at DST. -/
def dstGoals (s : State) (c : Call) (n : Nat) : List Nat :=
  (List.range (n / 16 + 1)).filterMap (fun i => match (translateFor s c.die c.part (c.dst.toNat + 16 * i) true).1 with
    | some p => if p.peer.isSome then none else some p.pa
    | none => none)

/-- Some piece of DST stalls, where `st` says. -/
def dstStalled (s : State) (c : Call) (st : Nat → Bool) (n : Nat) : Bool := (dstGoals s c n).any st

/-- An index list as IRED reads it: a poisoned index is a free value. -/
def iredIndex (s : State) (c : Call) : List (Nat × Bool) :=
  (List.range (c.auxlen / 4)).map (fun i =>
    let bs := (List.range 4).map (fun k => auxByte s c (4 * i + k))
    if anyBad bs then ((Config.freeWord (s.freeCtr + i)).toNat, true) else (bytesToNat (bs.map Prod.fst), false))

/-- Some access of an IRED stalls: of its index list, its vectors or its output. -/
def iredStalled (s : State) (c : Call) (w : FmtR) (st : Nat → Bool) : Bool :=
  auxStalled c st || (iredIndex s c).any (fun e => pageStalled s (c.pagePa + e.1 * (fpReg c w.b.toNat).toNat) (32 * (fpReg c w.a.toNat).toNat))
    || dstStalled s c st c.dstlen

def execIred (w : FmtR) (s : State) : Host.Outcome State Fault Refusal :=
  rodWord s (.ired w) (w.t == 3) false fun c =>
    let len := (fpReg c w.a.toNat).toNat
    let step := (fpReg c w.b.toNat).toNat
    let f32 := w.imm.getLsbD 0
    if len = 0 ∨ 32 < len then .stop s 6 none
    else if auxGone s c then .stop s 7 (some 0)
    else
      let idx := iredIndex s c
      if idx.any (fun e => decide (2 ^ 21 < e.1 * step + 32 * len)) then .stop s 6 none
      else if iredStalled s c w (callStalls s c) then .stall ((auxGoals c ++ dstGoals s c c.dstlen).filter (callStalls s c))
      else
        let vs := idx.map (fun e => (memRead s (c.pagePa + e.1 * step) (32 * len)).map (fun b => (b.1, b.2 || e.2)))
        putDst { s with freeCtr := s.freeCtr + idx.length } c (sumVectors w.t f32 (elemsIn w.t (32 * len)) vs)

/-- The parts of `n` bytes at a virtual address that lie in one 64 KiB page each. -/
def vaParts (va n : Nat) : List (Nat × Nat) :=
  (List.range ((va % 65536 + n + 65535) / 65536)).map (fun i =>
    let lo := max va ((va / 65536 + i) * 65536)
    (lo, min (va + n) ((va / 65536 + i + 1) * 65536) - lo))

/-- A source of XRED: 32-byte aligned, near-bank in one stack from its first byte to its last; its parts, physically. -/
def xredSource (s : State) (c : Call) (va n : Nat) : Option (Nat × List (Nat × Nat)) :=
  let parts := (vaParts va (max n 1)).map (fun e => ((translateFor s c.die c.part e.1 false).1, e.2))
  let pas := parts.filterMap (fun e => match e.1 with
    | some p => if p.peer.isSome || !isNb s (unitOf p.pa) then none else some (p.pa, e.2)
    | none => none)
  match pas with
  | [] => none
  | (pa, _) :: _ =>
    let k := (placeOf s pa).stack
    if va % 32 != 0 || pas.length != parts.length || pas.any (fun e => (placeOf s e.1).stack != k) then none else some (k, pas)

/-- The sources of an XRED of `n` bytes in ascending stack number: stack and physical parts; none where R274 is broken. -/
def xredSources (s : State) (c : Call) (n : Nat) : Option (List (Nat × List (Nat × Nat))) :=
  if c.auxlen % 8 != 0 || decide (c.auxlen < 16) || decide (96 < c.auxlen) || n % 32 != 0 || decide (c.dstlen < n) then none
  else
    let vas := (List.range (c.auxlen / 8)).map (fun i =>
      let bs := (List.range 8).map (fun k => auxByte s c (8 * i + k))
      if anyBad bs then (Config.freeWord (s.freeCtr + i)).toNat else bytesToNat (bs.map Prod.fst))
    let srcs := vas.filterMap (fun va => xredSource s c va n)
    let stks := srcs.map Prod.fst
    if srcs.length != vas.length || (dedupNat stks).length != stks.length then none
    else some ((List.range 12).filterMap (fun k => srcs.find? (fun e => e.1 == k)))

/-- The bytes a source gives. -/
def xredRead (s : State) (parts : List (Nat × Nat)) : List (Byte × Bool) := parts.flatMap (fun e => memRead s e.1 e.2)

/-- Length of the vectors of an XRED. -/
def xredLen (c : Call) (w : FmtR) : Nat := (fpReg c w.a.toNat).toNat

/-- Physical addresses that an XRED reaches: its source list, its sources, its output. -/
def xredGoals (s : State) (c : Call) (srcs : List (Nat × List (Nat × Nat))) : List Nat :=
  auxGoals c ++ srcs.flatMap (fun e => e.2.flatMap (fun p => rangePas p.1 p.2)) ++ dstGoals s c c.dstlen

/-- Some access of an XRED stalls. -/
def xredStalled (s : State) (c : Call) (srcs : List (Nat × List (Nat × Nat))) (st : Nat → Bool) : Bool := (xredGoals s c srcs).any st

def execXred (w : FmtR) (s : State) : Host.Outcome State Fault Refusal :=
  withCall s fun c0 =>
    match (rodWord s (.xred w) (w.t == 3 || !xredOnly c0.prog) false fun c =>
      let n := xredLen c w
      if auxGone s c then .stop s 7 (some 0)
      else match xredSources s c n with
      | none => .stop s 6 none
      | some srcs =>
        if xredStalled s c srcs (callStalls s c) then .stall ((xredGoals s c srcs).filter (callStalls s c))
        else
          let vs := srcs.map (fun e => (e.1, (xredRead s e.2).take n))
          let out := sumVectors w.t (w.imm.getLsbD 0) (elemsIn w.t n) (vs.map Prod.snd)
          match putDst s c out, vs.find? (fun e => anyBad e.2) with
          | .next s1, some e => .stop s1 2 (some e.1)
          | r, _ => r) with
    | .next s1 => s1
    | _ => s

/-- XRED_SOURCE_TIMEOUT: source stack `b` of call `a` has delivered nothing for 100 µs: DST is poisoned (R274). -/
def execXredSourceTimeout (s : State) : Host.Outcome State Fault Refusal :=
  .next (match findCall s s.arg.a with
  | none => s
  | some c =>
    if c.st == .running && xredOnly c.prog && c.fpc == 0 && decide (us100 < now s - c.started - c.uncounted)
        && (match (c.prog[0]?).bind decodeRod with
          | some (.xred w) => (match xredSources s c (xredLen c w) with | some l => l.any (fun e => e.1 == s.arg.b) | none => false)
          | _ => false) then
      let bs := (List.range c.dstlen).map (fun i => ((BitVec.ofNat 8 (Config.freeWord (s.freeCtr + i)).toNat, true) : Byte × Bool))
      endCall (dstWrite { s with freeCtr := s.freeCtr + c.dstlen } c.id c.dst.toNat bs) c.id 3 s.arg.b
    else s)

def execFill (w : FmtR) (s : State) : Host.Outcome State Fault Refusal :=
  rodWord s (.fill w) false false fun c =>
    let n := (fpReg c w.b.toNat).toNat
    let o := (fpReg c w.d.toNat).toNat
    if !c.wpage then .stop s 5 none
    else if n % 32 ≠ 0 ∨ o % 32 ≠ 0 ∨ 2 ^ 21 < o + n then .stop s 6 none
    else if pageStalled s (c.pagePa + o) n then .stall []
    else .next (memWrite s (c.pagePa + o) ((List.range (n / 4)).flatMap (fun _ => natToBytes 4 (fpReg c w.a.toNat).toNat)))

/-- The word at a call's FPC stands still for a repair window (R272, R274, R282). -/
def rodWordHeld (s : State) (c : Call) : Bool :=
  let st := windowPa s
  match (c.prog[c.fpc]?).bind decodeRod with
  | some (.ract w) => decide (ractRow c w < 128) && ractStalled s c (ractRow c w)
  | some (.rldv w) => rowStalled s c (rodCol c w)
  | some (.rwr w) => rowStalled s c (rodCol c w)
  | some (.ired w) => iredStalled s c w st
  | some (.xred w) => (match xredSources s c (xredLen c w) with | some l => xredStalled s c l st | none => false)
  | some (.fill w) => pageStalled s (c.pagePa + (fpReg c w.d.toNat).toNat) (fpReg c w.b.toNat).toNat
  | some (.rskp _) => c.sparse && auxStalled c st
  | _ => false

/-! ## One word of a call -/

/-- The call executes the word at its FPC, or starts: past its program and at an unassigned code it ends BAD_CODE. -/
def frameGo (s : State) (c : Call) (run : Instr → State → Host.Outcome State Fault Refusal) : Host.Outcome State Fault Refusal :=
  match c.st with
  | .queued => .next (startCall s c)
  | .running =>
    if c.yld.isSome || (atYield c && yieldWaiters s c) then .next s
    else if c.nw ≤ c.fpc then .next (endCall s c.id 5 c.fpc)
    else match (c.prog[c.fpc]?).bind decodeRod with
      | none => .next (endCall s c.id 5 c.fpc)
      | some i => run i { s with curCall := some c.id }
  | _ => .next s

end Sys2Proof.Machine
end

