-- ==== Sys2Proof/Machine/Save.lean ====
section
/-! DEFINITION. Pre-emption, saves and restores (R92, R95, R98, R101, R102, R320-R327), the time limit of an interval (R329)
and the replay queue (R131). -/
namespace Sys2Proof.Machine

/-! ## Choosing what is pre-empted (R92, R95, R98, R102, R321) -/

/-- The workgroups that are saved and restored together with one: its team, or its COOP grid. -/
def together (s : State) (w : Workgroup) (l : Launch) : List Workgroup :=
  s.wgs.filter (fun v => v.launch == l.id && !v.retired && (isCoop l || teamNo v == teamNo w))

/-- The machine without some workgroups. -/
def without (s : State) (f : Workgroup → Bool) : State := { s with wgs := s.wgs.filter (fun w => !f w) }

/-- Sizes of the teams that a launch has next to put on cores: the first team to be restored, a COOP grid whole, or new ones. -/
def nextSizes (s : State) (h : Launch) : List Nat :=
  match savedWgs s h.id with
  | [] => stepSizes h
  | w :: _ => wgSizes (together s w h)

/-- A launch whose next workgroups, new or to be restored, fit nowhere in a state. -/
def starved (s : State) (h : Launch) : Bool :=
  eligible s h && !(nextSizes s h).isEmpty && (planOn s h (openCores s h.part) (nextSizes s h)).isNone

def launchAt (s : State) (w : Workgroup) (f : Launch → Bool) : Bool := match findLaunch s w.launch with | some l => f l | none => false

/-- The reserve has room for the images of all that goes together; those being saved count as in it. -/
def roomToSave (s : State) (ws : List Workgroup) (l : Launch) : Bool :=
  match findPart s l.part with
  | none => false
  | some p =>
    let soon := (s.wgs.filter (fun v => v.place == .saving)).filterMap (fun v => (findLaunch s v.launch).map imageLen)
    hasRoom p (soon ++ ws.map (fun _ => imageLen l)) (reserveTaken s l.part)

/-- Workgroups that a launch could take room from: not its own, of its partition, PREEMPTIBLE, on their cores with room in the reserve for
all that goes with them (R321), or being saved. -/
def loser (s : State) (h : Launch) (f : Launch → Bool) (v : Workgroup) : Bool :=
  !isSaved v && !v.retired
    && launchAt s v (fun k => isPreemptible k && k.part == h.part && k.id != h.id && f k && (v.place == .saving || roomToSave s (together s v k) k))

/-- The workgroups of its EARLY consumers, and those of lower classes. -/
def consumerOf (s : State) (h : Launch) (v : Workgroup) : Bool := loser s h (fun k => k.early.contains h.id) v
def belowOf (s : State) (h : Launch) (v : Workgroup) : Bool := loser s h (fun k => decide (classOf h < classOf k)) v

/-- The first fewest cores whose consumers' going makes a producer fit (R95). Taken in the cores' order, they stay the same while their
consumers go one by one. -/
def fewCores (s : State) (h : Launch) : Option (List Nat) :=
  let held := (s.wgs.filter (consumerOf s h)).map (coreOf s)
  let cores := (List.range 288).filter held.contains
  (List.range (cores.length + 1)).findSome? (fun n =>
    (cores.sublistsLen n).find? (fun cs => !starved (without s (fun v => consumerOf s h v && cs.contains (coreOf s v))) h))

/-- The workgroups that a starved launch takes room from: its EARLY consumers on the fewest cores that do (R95); else those of
lower classes, and where these alone do not do, both (R92 step 3). -/
def pool (s : State) (h : Launch) (v : Workgroup) : Bool :=
  if !starved (without s (consumerOf s h)) h then
    consumerOf s h v && (match fewCores s h with | some cs => cs.contains (coreOf s v) | none => true)
  else if !starved (without s (belowOf s h)) h then belowOf s h v
  else (consumerOf s h v || belowOf s h v) && !starved (without s (fun v => consumerOf s h v || belowOf s h v)) h

/-- Workgroup `w` is the one to be pre-empted for launch `h`: `h` stays starved with every save under way finished, `w` is of
the pool, and of what is left of that it comes first: lowest class, then highest index. -/
def victimFor (s : State) (h : Launch) (w : Workgroup) (l : Launch) : Bool :=
  starved (without s (fun v => v.place == .saving)) h && w.place == .live && pool s h w
    && s.wgs.all (fun v => !pool s h v || v.place != .live || v.id == w.id || launchAt s v (fun k => decide (classOf k < classOf l) || (classOf k == classOf l && (k.id != l.id || decide (v.lin ≤ w.lin)))))

/-- A save is called for; a CHECKED workgroup is first cut (R334). -/
def toSave (w : Workgroup) : Workgroup := { w with place := .saving, chk := w.chk.map (fun c => { c with cutDue := true }) }

/-- PREEMPT: the launch unit calls for a save of workgroup `a`, and of what goes with it. -/
def execPreempt (s : State) : Host.Outcome State Fault Refusal :=
  .next (match findWg s s.arg.a with
  | none => s
  | some w =>
    match findLaunch s w.launch with
    | none => s
    | some l =>
      let ws := together s w l
      if l.st != .running || !(ws.all (fun v => v.place == .live && !s.evacs.any (fun e => e.lcore == v.lcore && e.phase != .committed))) || w.retired || !roomToSave s ws l
          || !s.launches.any (fun h => victimFor s h w l) then s
      else { s with wgs := s.wgs.map (fun v => if ws.any (fun k => k.id == v.id) then toSave v else v) })

/-! ## Saving (R320, R322) -/

/-- An operation that a save waits for: loads, lane words and canvas readouts but those in the operand log, and stores and
atomics that are neither performed nor logged. -/
def opBusy (o : Op) : Bool :=
  match o.kind with
  | .load | .store | .atom => o.accs.any (fun a => !(a.st == .done || a.st == .logged || a.st == .resolved || a.st == .refused))
  | .red => !o.accepted
  | .laneWord | .crd | .wait => true

/-- Every group has reached its point, and what must complete has completed. -/
def saveReady (w : Workgroup) : Bool :=
  w.groups.all (fun g => !speculative g && !g.quads.any insideWord && !g.ops.any opBusy) && !crdOpen w

/-- Sectors of a run of bytes hold poison, by offset from its start (R327). -/
def markSectors (s : State) (a : Nat) (offs : List Nat) : State :=
  { s with memPoison := offs.foldl (fun m o => smPutList m ((a + o) / 64 * 64) (List.replicate 64 true) false) s.memPoison }

/-- The image is carved and written, and the workgroup's location becomes it; what could not be read of it is poisoned (R327). -/
def saveAt (s : State) (w : Workgroup) (a n : Nat) : State :=
  let s1 := modWg s w.id (fun v => { v with place := .saved a n, savedPcore := coreOf s w, saveBad := [],
                                            groups := v.groups.map (fun g => { g with active := false }) })
  let s2 := { s1 with memPoison := poisonAfter s1.memPoison a n }
  let s3 := match findWg s2 w.id with
    | some v => putImage s2 v
    | none => s2
  markSectors s3 a (w.saveBad.filter (fun o => decide (o < n)))

/-- A repair window covers some of `n` bytes from an address (R199, R341). -/
def windowRun (s : State) (a n : Nat) : Bool :=
  if s.stks.all (fun k => k.window.isNone) then false
  else rangeStalled (windowPa s) a n

/-- A workgroup that has stopped goes into its image. -/
def saveNow (s : State) (w : Workgroup) (l : Launch) : State :=
  if !saveReady w then s
  else match (findPart s l.part).bind (fun p => carve p (reserveTaken s l.part) (imageLen l)) with
  | none => s
  | some a => if windowRun s a (imageLen l) then s else saveAt s w a (imageLen l)

/-- SAVE_COMPLETE: the image of workgroup `a` is written; a CHECKED one is cut first, and after a rollback runs its interval
again before that (R334). -/
def execSaveComplete (s : State) : Host.Outcome State Fault Refusal :=
  .next (match findWg s s.arg.a with
  | none => s
  | some w =>
    match findLaunch s w.launch with
    | none => s
    | some l =>
      if w.place != .saving || w.retired || l.st != .running then s
      else if w.chk.isNone then saveNow s w l
      else if rerunning w || rolling w || !cutReady s w then s
      else
        let s1 := cutNow s w.id
        match findWg s1 w.id with
        | none => s1
        | some w1 => saveNow s1 w1 l)

/-! ## Restoring (R101, R326, R327) -/

/-- A gang that was parked by LWAIT stands at its word again (R107). -/
def backToLwait (q : Quad) : Quad :=
  match q.st, q.park with
  | .parked, .lwait _ pc => { q with st := .running, park := .none, pc := pc }
  | _, _ => q

def lwaitAgain (g : Group) : Group := { g with quads := g.quads.map backToLwait, ctx := g.ctx.map backToLwait }

/-- Relocation counts wrap from 0xFFFE to 0 (R101). -/
def nextReloc (x : BitVec 16) : BitVec 16 := if x = 0xFFFE then 0 else x + 1

/-- Locks on a workgroup's window, and global locks of the copies and calls it issued, stand in the table of another die; its copies'
state goes to that die's channels (R19, R354), also where that leaves more there than the die's limits (R13, log 131). -/
def moveLocks (s : State) (wg die : Nat) : State :=
  { s with
    copies := s.copies.map (fun c => if c.wg = wg then { c with die := die } else c),
    locks := s.locks.map (fun k =>
      let mine := k.space == .canvas wg || ((match k.space with | .global _ => true | _ => false)
        && (s.copies.any (fun c => c.id == k.owner && c.wg == wg) || s.calls.any (fun c => c.id == k.owner && c.wg == wg)))
      if mine then { k with die := die } else k) }

/-- The window of a launch stands on a core as another held it. -/
def movePalette (s : State) (lid src dst : Nat) : State :=
  modLaunch s lid (fun l => match assoc? l.palettes dst, assoc? l.palettes src with
    | none, some m => { l with palettes := assocPut l.palettes dst m }
    | _, _ => l)

/-- Some sector of a run of bytes holds poison. -/
def runPoisoned (s : State) (a n : Nat) : Bool := n != 0 && s.memPoison.any (fun e => decide (a / 64 ≤ e.1 / 64) && decide (e.1 / 64 ≤ (a + n - 1) / 64))

/-- Poison that the image's compute bank region brings to a bank: to its accumulators, and to its tile bytes; a VALID tile is then
unusable, its other bytes undefined (R219, R222, R223, R234, R236, R327). -/
def imageBank (s : State) (a junk : Nat) (b : Bank) : Bank :=
  let bad := ((List.range 272).filter (fun i => sectorBad s (a + 64 * i))).flatMap (fun i => (List.range 64).map (fun o => 64 * i + o))
  let b1 := { b with
    accPoison := (List.range 2048).foldl (fun m k => if sectorBad s (a + 0x6000 + 4 * k) then smPut m k true false else m) b.accPoison,
    tileBad := dedupNat (bad ++ b.tileBad) }
  if !bad.isEmpty && b.ts == .valid then { b1 with ts := .invalid, fail := .none, tile := [], junk := some junk } else b1

/-- Poison that the image's canvas regions bring to the window and the banks (R327). -/
def imagePoison (s : State) (l : Launch) (a : Nat) (w : Workgroup) : Workgroup :=
  let lo := a + regionAt l 3
  { w with
    winPoison := (List.range l.cvb).foldl (fun m i => if sectorBad s (lo + i) then smPut m i true false else m) w.winPoison,
    banks := (List.range w.banks.length).map (fun k => match w.banks[k]? with
      | some b => imageBank s (a + regionAt l 4 + 32768 * k) (s.freeCtr + 32768 * k) b
      | none => bank0) }

/-- Poison that the image's palette window brings to a window that comes back from it (R327). -/
def palettePoison (s : State) (l : Launch) (a dst : Nat) (t : State) : State :=
  if (assoc? l.palettes dst).isSome then t
  else modLaunch t l.id (fun l => match assoc? l.palettes dst with
    | none => l
    | some m => { l with palettes := assocPut l.palettes dst ((List.range (palWindow l)).foldl (fun m i =>
        if sectorBad s (a + regionAt l 7 + i) then smPut m i ((smGet m i (0, false)).1, true) (0, false) else m) m) })

/-- Groups take slots one after another on a core with these counts (R110); ended groups take none. -/
def seatGroups (time : Nat) : List Group → List Nat → List Group × List Nat
  | [], ns => ([], ns)
  | g :: r, ns =>
    let k := leastSlot ns
    let t := seatGroups time r (if g.ended then ns else modifyAt ns k (· + 1))
    (lwaitAgain { g with slot := k, active := false, since := time } :: t.1, t.2)

/-- A workgroup comes back onto a core. -/
def restoreWg (s : State) (e : Workgroup × Nat) : State :=
  match findWg s e.1.id with
  | none => s
  | some w =>
    match w.place, findLaunch s w.launch with
    | .saved a n, some l =>
      let pc := physCore s e.2
      let moved := e.2 != w.lcore || pc != w.savedPcore
      let bad := runPoisoned s a n
      let hurt := runPoisoned s (a + regionAt l 8) (n - regionAt l 8)
      let back := fun (v : Workgroup) =>
        { (if bad then imagePoison s l a v else v) with
          place := .live, lcore := e.2, reloc := if moved then nextReloc v.reloc else v.reloc,
          groups := (seatGroups (now s) v.groups (quads4.map (slotCount s pc))).1,
          chk := v.chk.map (fun c => { c with opened := now s, mark := s.nextId, snap := c.snap.map lwaitAgain, snapPoison := c.snapPoison || hurt }) }
      let s0 := movePalette (moveLocks (modWg s w.id back) w.id (pc / 9)) l.id w.savedPcore pc
      let s1 := if bad then palettePoison s l a pc { s0 with freeCtr := s0.freeCtr + 32768 * w.banks.length } else s0
      if !bad then s1
      else if w.chk.isSome then rollback s1 w.id 7
      else failLaunch s1 l.id stSaveLost w.lin
    | _, _ => s

/-- No workgroup of the launch with a lower index is away from its core (R97). -/
def lowestOut (s : State) (w : Workgroup) : Bool := (outWgs s w.launch).all (fun v => decide (w.lin - w.trank ≤ v.lin))

/-- RESTORE: the team of saved workgroup `a`, or its COOP grid, comes back from logical core `b` on; teams of a launch come back
in index order. -/
def execRestore (s : State) : Host.Outcome State Fault Refusal :=
  .next (match findWg s s.arg.a with
  | none => s
  | some w =>
    match findLaunch s w.launch with
    | none => s
    | some l =>
      let ws := together s w l
      if w.retired || !eligible s l || !lowestOut s w || !ws.all isSaved || ws.any (fun v => match v.place with | .saved a n => windowRun s a n | _ => false) then s
      else match planStep s l s.arg.b (wgSizes ws) with
      | none => s
      | some plan => if mayTake s l plan then (List.zip ws plan).foldl restoreWg s else s)

/-! ## Intervals and the replay queue (R131, R329) -/

/-- INTERVAL_TIME_LIMIT: the interval of workgroup `a` has been open for 8,192 clk. -/
def execIntervalTimeLimit (s : State) : Host.Outcome State Fault Refusal :=
  .next (match findWg s s.arg.a with
  | none => s
  | some w => match w.chk with
    | none => s
    | some c => if 8192 ≤ now s - c.opened then modWg s w.id (fun w => { w with chk := w.chk.map (fun c => { c with cutDue := true }) }) else s)

/-- The oldest entry of a core's replay queue is executed again on its operands and compared with its committed result (R131). -/
def replayOne (s : State) (core : Nat) : State :=
  match (s.cores[core]?).bind (fun k => k.replayQ.head?) with
  | none => s
  | some e =>
    let s1 := modCore s core (fun k => { k with replayQ := k.replayQ.tail })
    if e.again = e.result then s1 else rollback s1 e.wg 2

/-- REPLAY_EXECUTE: a slot of core `a` with no word to issue re-executes the oldest entry. -/
def execReplayExecute (s : State) : Host.Outcome State Fault Refusal := .next (replayOne s s.arg.a)

/-- REPLAY_QUEUE_AGE_LIMIT: the oldest entry of core `a` is 1,500 clk old, and a slot gives up issue until it is done. -/
def execReplayQueueAgeLimit (s : State) : Host.Outcome State Fault Refusal :=
  .next (match (s.cores[s.arg.a]?).bind (fun k => k.replayQ.head?) with
  | none => s
  | some e => if 1500 ≤ now s - e.time then replayOne s s.arg.a else s)

end Sys2Proof.Machine
end

