-- ==== Sys2Proof/Machine/Evac.lean ====
section
/-! DEFINITION. Error-rate monitors and device time (R345, R346, R257, R272), and evacuation to a spare core (R347-R355). -/
namespace Sys2Proof.Machine

/-! ## Device time and the monitors' periods (R345) -/

/-- A monitor's window moves on by one period. -/
def monShift (m : List Nat) : List Nat := (0 :: m).take 16
def monShiftN : Nat → List Nat → List Nat
  | 0, m => m
  | n + 1, m => monShiftN n (monShift m)

def periodClk : Nat := 2 ^ 20

/-- Periods that end while `n` clk pass. -/
def periodsIn (s : State) (n : Nat) : Nat := min 16 ((now s + n) / periodClk - now s / periodClk)

def shiftMonitors (s : State) (k : Nat) : State :=
  if k = 0 then s else { s with cores := s.cores.map (fun c => { c with mon := monShiftN k c.mon }) }

/-- A tile read stands still for a repair window, or while a receiver is saved (R257). -/
def tileHeld (s : State) (c : Copy) : Bool :=
  c.recv.any (fun r => match findWg s r with | some w => isSaved w | none => false) || (copyGoal s c).any (windowPa s)

/-- A call stands still for a yield window, or its word for a repair window (R272). -/
def callHeld (s : State) (c : Call) : Bool := c.yld.isSome || (!s.stks.all (fun k => k.window.isNone) && rodWordHeld s c)

/-- Device time advances by `n` clk (log 2). -/
def tickAll (s : State) (n : Nat) : State :=
  let s1 := { s with
    copies := s.copies.map (fun c => if c.started && isTileCopy c && tileHeld s c then { c with attempt := c.attempt + n } else c),
    calls := s.calls.map (fun c => if c.st == .running && callHeld s c then { c with uncounted := c.uncounted + n } else c) }
  shiftMonitors (tickBy s1 n) (periodsIn s n)

/-- MONITOR_PERIOD_END: device time reaches the end of the current period (R345, log 130). -/
def execMonitorPeriodEnd (s : State) : Host.Outcome State Fault Refusal := .next (tickAll s (periodClk - now s % periodClk))

/-! ## Crossing the threshold (R346-R348) -/

/-- THRESHOLD_CROSSING: the count of physical core `a` has reached its partition's threshold; the event that brings it there
crosses at once (R346), so this finds one only where the companion has lowered the threshold. -/
def execThresholdCrossing (s : State) : Host.Outcome State Fault Refusal := .next (crossing s s.arg.a)

/-! ## The move (R350-R354) -/

def evacFrom (s : State) (core : Nat) (ph : EvacPhase) : Option Evac := s.evacs.find? (fun e => e.src == core && e.phase == ph)
def setPhase (s : State) (e : Evac) (ph : EvacPhase) : State :=
  { s with evacs := s.evacs.map (fun k => if k.src = e.src ∧ k.lcore = e.lcore then { k with phase := ph } else k) }

/-- The workgroups that stand on a logical core. -/
def wgsOn (s : State) (lc : Nat) : List Workgroup := s.wgs.filter (fun w => w.lcore == lc && !isSaved w && !w.retired)

/-- A gang stands inside a word that is finished before the pause (R350 step 2). -/
def grpInside (g : Group) : Bool := g.quads.any insideWord || quads4.any (fun q => midWord g q)

/-- QUIESCE: the pause of the evacuation from physical core `a` starts; CHECKED workgroups are cut first, one that has
rolled back after its interval has run again (R334, R341, R358). -/
def execQuiesce (s : State) : Host.Outcome State Fault Refusal :=
  .next (match evacFrom s s.arg.a .prepare with
  | none => s
  | some e =>
    let ws := wgsOn s e.lcore
    if ws.any (fun w => w.place == .saving || w.groups.any grpInside || (w.chk.isSome && (rerunning w || rolling w || !cutReady s w))) then s
    else setPhase (ws.foldl (fun s w => if w.chk.isSome then cutNow s w.id else s) s) e .paused)

/-- The drain waits for an operation: it is not over, and no earlier piece of its group stands before another's shut window, whose
core is evacuated too (R350 step 4, R358). -/
def drainBusy (s : State) (wg : Nat) (g : Group) (o : Op) : Bool :=
  opBusy o && !g.ops.any (fun p => decide (p.id ≤ o.id) && p.accs.any (fun a => a.st == .todo && match a.loc with
    | .canvas t _ => windowShut s wg t
    | _ => false))

/-- TRANSFER: the drain of physical core `a` has ended, and its state is copied to the spare (R350 steps 4 and 5, R352). -/
def execTransfer (s : State) : Host.Outcome State Fault Refusal :=
  .next (match evacFrom s s.arg.a .paused with
  | none => s
  | some e =>
    if (wgsOn s e.lcore).any (fun w => w.groups.any (fun g => speculative g || grpInside g || g.ops.any (drainBusy s w.id g)) || crdOpen w) then s
    else setPhase s e .transferred)

/-- What an uncorrectable error that the transfer met in a workgroup's sequencer, bank, slot or queue state comes to when it resumes
(R352). -/
def moveHurt (s : State) (w : Workgroup) : State :=
  if !w.moveBad then s
  else
    let s1 := modWg s w.id (fun v => { v with moveBad := false })
    if w.chk.isSome then rollback s1 w.id 7 else failLaunch s1 w.launch stSaveLost w.lin

/-- A workgroup's part of the commit (R101, R353, R354). -/
def commitWg (e : Evac) (r : State × List Nat) (w : Workgroup) : State × List Nat :=
  let s := r.1
  let t := seatGroups (now s) w.groups r.2
  let s1 := modWg s w.id (fun v => { v with
    reloc := nextReloc v.reloc, groups := t.1, chk := v.chk.map (fun c => { c with snap := c.snap.map lwaitAgain }) })
  (movePalette (moveLocks s1 w.id (e.dst / 9)) w.launch e.src e.dst, t.2)

/-- The EVACUATED event (R349). -/
def evacMsg (part : Nat) (seq : BitVec 16) (e : Evac) (epoch : Nat) : Msg :=
  eventMsg part seq 6 0 e.lcore (e.src / 9 + e.src % 9 * 2 ^ 8 + e.dst / 9 * 2 ^ 16 + e.dst % 9 * 2 ^ 24 + epoch * 2 ^ 32) 0

/-- COMMIT: the logical core of physical core `a` moves to the spare, and its groups resume there. -/
def execCommit (s : State) : Host.Outcome State Fault Refusal :=
  .next (match evacFrom s s.arg.a .transferred with
  | none => s
  | some e =>
    let ws := wgsOn s e.lcore
    let s1 := (ws.foldl (commitWg e) (s, [0, 0, 0, 0])).1
    let s2 := { s1 with remap := modifyAt s1.remap e.lcore (fun r =>
      { r with die := BitVec.ofNat 5 (e.dst / 9), pcore := BitVec.ofNat 4 (e.dst % 9), epoch := r.epoch + 1 }) }
    let s3 := setPhase (modCore s2 e.dst (fun c => { c with mon := zeroMonitor })) e .committed
    let s4 := ws.foldl moveHurt s3
    match s4.remap[e.lcore]? with
    | none => s4
    | some r =>
      let q := nextSeq s4
      send q.2 (evacMsg r.part.toNat q.1 e r.epoch.toNat))

/-- SOURCE_OUT_OF_SERVICE: every channel, frame and die has acknowledged the commit, and physical core `a` leaves service. -/
def execSourceOutOfService (s : State) : Host.Outcome State Fault Refusal :=
  .next (match evacFrom s s.arg.a .committed with
  | none => s
  | some e => modCore { s with evacs := s.evacs.filter (fun k => k != e) } e.src (fun c => { c with oos := true, mon := zeroMonitor }))

end Sys2Proof.Machine
end

