-- ==== Sys2Proof/Machine/Sys.lean ====
section
/-! DEFINITION. The SYS words TRAP, RFT, CUT, ICINV and ERRI (R342-R344), and the launch words LAUNCH, LWAIT, QLOC and QLEP
(R105-R109). -/
namespace Sys2Proof.Machine

/-- Shell of a SYS word: an issue that acts for no counted lane has no effect (R105, R116, R342). -/
def sysWord (s : State) (gd : BitVec 3) (f : Ctx → State) : Host.Outcome State Fault Refusal :=
  withCtx s gd fun x => if groupAct x = 0 then advance s x.c else f x

/-! ## TRAP and RFT (R343) -/

def execTrap (w : FmtY) (s : State) : Host.Outcome State Fault Refusal :=
  sysWord s w.g fun x => raise s x { Trap.at x.c .software 0 x.act with info := w.k.toNat, resume := x.c.next }

/-- A gang goes on at a word of the clause it holds, or fetches at a header. -/
def clauseAt (goal : Word) (q : Quad) : Option Clause :=
  match q.clause with
  | none => none
  | some c => if 4 ≤ (goal - c.hdr).toNat ∧ (goal - c.hdr).toNat ≤ 4 * c.len then some c else none

/-- The word after the one at `pc` in the clause a quad holds; after a flow word, the fall-through. -/
def wordAfter (q : Quad) (pc : Word) : Word :=
  match q.clause with
  | none => pc + 4
  | some c =>
    let i := (pc - c.hdr).toNat / 4 - 1
    let n := match decode c.cls (c.words.drop i) with
      | none => 1
      | some d => if isFlow d.i then c.len else d.len
    if c.len ≤ i + n then fallOf c else pc + BitVec.ofNat 32 (4 * n)

/-- Where .skip goes from a header. -/
def headerSkip (s : State) (x : Ctx) (hdr : Word) : Word × State :=
  let at' := (getTrap x.g 0x104).toNat + 2 ^ 32 * (getTrap x.g 0x105).toNat
  if (getTrap x.g 0x100).toNat % 256 = 12 ∧ at' = codeVa x.l hdr then (hdr + 4, s)
  else match codeWord s x.w x.l hdr with
  | (none, s1) => (hdr + 4, s1)
  | (some h, s1) => (hdr + BitVec.ofNat 32 (4 * (1 + (hdrOf h).len)), s1)

/-- The trapping gang goes on at an address; the other gangs stand as at the trap. -/
def rftTo (s : State) (x : Ctx) (goal : Word) : State :=
  modGrp s x.c.wg x.c.grp (fun g => settle { leaveHandler g goal (clauseAt goal) with kept := [] })

/-- The kept entries of a refused word, to be performed again under fresh identifiers. -/
def retryOps : Nat → List Op → List Op
  | _, [] => []
  | id, o :: r => { o with id := id, retried := true, accs := o.accs.map (fun a => { a with st := .resolved }) } :: retryOps (id + 1) r

/-- RFT after a PAGE_FAULT of R196: every gang stands as at the trap; with .retry the kept entries are performed again
first, and the gang waits for them. -/
def rftPage (s : State) (x : Ctx) (again : Bool) : State :=
  let m := x.g.ctxQuads
  let back := fun (g : Group) => settle { leaveHandler { g with ctxQuads := 0 } 0 (fun _ => none) with kept := [] }
  if !again || x.g.kept.isEmpty then modGrp s x.c.wg x.c.grp back
  else
    let ops := retryOps s.nextId x.g.kept
    let s1 := modGrp { s with nextId := s.nextId + ops.length } x.c.wg x.c.grp (fun g =>
      let g1 := back g
      modQuads { g1 with ops := g1.ops ++ ops } m (fun q => if q.st = .running then { q with st := .parked, park := .retryOps } else q))
    replayGrp s1 x.c.wg x.c.grp

/-- The trap was a PAGE_FAULT of R196, taken at a boundary: its gang stood at RESUME. -/
def atBoundary (g : Group) : Bool :=
  let q := g.ctx.getD ((quadsOf g.ctxQuads).headD 0) quad0
  (getTrap g 0x100).toNat % 256 == 12 && q.pc == getTrap g 0x102 && !(g.ctxHeader && getTrap g 0x101 == getTrap g 0x102)

/-- RFT: 0 .ret, 1 .retry, 2 .skip. While a lane of the group is predicted it waits (R127). -/
def rftWord (w : FmtY) (k : Nat) (s : State) : Host.Outcome State Fault Refusal :=
  sysWord s w.g fun x =>
    let pc := getTrap x.g 0x101
    let res := getTrap x.g 0x102
    if !x.g.inHandler then raise s x (Trap.at x.c .handlerState 0 (sureLanes x))
    else if speculative x.g then s
    else if atBoundary x.g then rftPage s x (k == 1)
    else if k = 0 then rftTo s x res
    else if k = 1 then rftTo s x pc
    else if x.g.ctxHeader && pc == res then (let t := headerSkip s x pc; rftTo t.2 x t.1)
    else if (getTrap x.g 0x100).toNat % 256 = 12 then rftTo s x res
    else rftTo s x (wordAfter (x.g.ctx.getD ((quadsOf x.g.ctxQuads).headD 0) quad0) pc)

def execRftRet (w : FmtY) (s : State) : Host.Outcome State Fault Refusal := rftWord w 0 s
def execRftRetry (w : FmtY) (s : State) : Host.Outcome State Fault Refusal := rftWord w 1 s
def execRftSkip (w : FmtY) (s : State) : Host.Outcome State Fault Refusal := rftWord w 2 s

/-! ## CUT (R329, R332) -/

def execCut (w : FmtY) (s : State) : Host.Outcome State Fault Refusal :=
  sysWord s w.g fun x => withCut s x fun s => .ok (advance s x.c)

/-! ## The group's stores and atomics, before LAUNCH and ICINV (R106, R343) -/

def isWrite (o : Op) : Bool := o.kind == .store || o.kind == .atom

/-- A store or atomic of the group cannot be performed now. -/
def writesBlocked (s : State) (wg : Nat) (g : Group) : Bool :=
  g.ops.any (fun o => isWrite o && o.accs.any (fun a => heldAcc a || (a.st == .todo && (isPeer a.loc || stalledAt s wg a.loc))))

def performWrites (s : State) (wg grp : Nat) : State :=
  match findGrp s wg grp with
  | none => s
  | some g => (g.ops.filter isWrite).foldl (fun s o => performAll s wg grp o.id) s

/-- A store or atomic of the group is not in T yet: it stands in the interval's buffer. -/
def writesOpen (s : State) (wg grp : Nat) : Bool :=
  match findGrp s wg grp with
  | none => false
  | some g => g.ops.any (fun o => isWrite o && !o.ret && o.accs.any (fun a => a.st != .done))

/-! ## ICINV (R343) -/

def dropCode (lid : Nat) (s : State) (core : Nat) : State :=
  modCore s core (fun k => { k with icache := k.icache.filter (fun (e : Nat × Nat × Word) => e.1 != lid) })

def icinvWord (w : FmtY) (cores : State → Ctx → List Nat) (s : State) : Host.Outcome State Fault Refusal :=
  sysWord s w.g fun x =>
    if writesBlocked s x.c.wg x.g then s
    else
      let s1 := performWrites s x.c.wg x.c.grp
      if writesOpen s1 x.c.wg x.c.grp then s1 else advance ((cores s1 x).foldl (dropCode x.l.id) s1) x.c

def execIcinvCore (w : FmtY) (s : State) : Host.Outcome State Fault Refusal := icinvWord w (fun s x => [coreOf s x.w]) s
def execIcinvLaunch (w : FmtY) (s : State) : Host.Outcome State Fault Refusal :=
  icinvWord w (fun s x => dedupNat ((s.wgs.filter (fun v => v.launch == x.l.id && !v.retired && !isSaved v)).map (coreOf s))) s

/-! ## ERRI (R344) -/

def injects (s : State) (l : Launch) : Bool := match findPart s l.part with | some p => p.errinj | none => false

/-- A corrected error at a core is one event (R345). -/
def hitCore (s : State) (w : Workgroup) : State := monEvent s (coreOf s w)

/-- An uncorrectable error in a vector slot poisons it and is one event (R200, R345). -/
def hitSlot (s : State) (w : Workgroup) (grp n l : Nat) : State :=
  let r := freshWord s
  hitCore (modGrp r.2 w.id grp (fun g => putVSlot g n l { val := r.1, poison := true })) w

/-- An uncorrectable error in a scalar poisons it and is one event (R200, R345). -/
def hitScl (s : State) (w : Workgroup) (grp n : Nat) : State :=
  let r := freshWord s
  hitCore (modGrp r.2 w.id grp (fun g => putSSlot g n { val := r.1, poison := true })) w

/-- An uncorrectable error in the ECC word of a window byte poisons it and is one event (R221, R234, R345). -/
def hitWin (s : State) (w : Workgroup) (boff : Nat) : State :=
  hitCore (modWg s w.id (fun w => { w with winPoison := (eccBytes w.ns boff).foldl (fun m b => smPut m b true false) w.winPoison })) w

/-- A corrupted residue (R235). -/
def hitResidue (s : State) (wg k key : Nat) : State := modBank s wg k (fun b => { b with resBad := smPut b.resBad key true false })

/-- ERRI acts only where the companion has allowed it. -/
def erriWord (s : State) (gd : BitVec 3) (f : Ctx → State) : Host.Outcome State Fault Refusal :=
  sysWord s gd fun x => if injects s x.l then f x else advance s x.c

def execErriRegc (w : FmtY) (s : State) : Host.Outcome State Fault Refusal := erriWord s w.g fun x => advance (hitCore s x.w) x.c

def execErriRegu (w : FmtY) (s : State) : Host.Outcome State Fault Refusal :=
  erriWord s w.g fun x => advance (hitSlot s x.w x.c.grp w.a.code.toNat ((lowestLane x.act).getD 0)) x.c

/-- The canvas kinds: the address is checked by R188 with W = 4. -/
def erriCanvas (s : State) (w : FmtY) (f : State → Workgroup → Nat → State) : Host.Outcome State Fault Refusal :=
  erriWord s w.g fun x => withSources s x [srcOf 0 w.a 1] fun s =>
    let a := readUN s x w.a
    match canvasAt s x.l x.w a 4 with
    | none => raise s x { Trap.at x.c .canvasBounds 0 (sureLanes x) with addr := a }
    | some (t, boff) => advance (f s t boff) x.c

def execErriCvc (w : FmtY) (s : State) : Host.Outcome State Fault Refusal := erriCanvas s w (fun s t _ => hitCore s t)
def execErriCvu (w : FmtY) (s : State) : Host.Outcome State Fault Refusal := erriCanvas s w hitWin

def execErriRes (w : FmtY) (s : State) : Host.Outcome State Fault Refusal :=
  erriWord s w.g fun x => withSources s x [srcOf 0 w.a 1] fun s =>
    let k := readUN s x w.a
    if x.l.cbanks ≤ k then closeRes s x (canvasTrap s x 1 k) else advance (hitResidue s x.w.id k 0) x.c

def execErriClone (w : FmtY) (s : State) : Host.Outcome State Fault Refusal :=
  erriWord s w.g fun x => modGrp s x.c.wg x.c.grp (fun g => advanceGrp x.c { g with cloneBad := g.cloneBad || isChecked x.l })

/-! ## LAUNCH and LWAIT (R106, R107) -/

def launchGo (w : FmtY) (x : Ctx) (s : State) : Res :=
  match findGrp s x.c.wg x.c.grp with
  | none => .wait
  | some g =>
    if writesBlocked s x.c.wg g then .wait
    else
      let s1 := performWrites s x.c.wg x.c.grp
      let q := Request.mk (.word x.c.wg x.c.grp x.c.quads w.d.toNat) (dwordOf (readInt s x w.a 64 false 0)) [] none []
      .ok (modGrp (modPart s1 x.l.part (fun p => { p with reqs := p.reqs ++ [q] })) x.c.wg x.c.grp (parkGrp x.c .launchAnswer))

def execLaunch (w : FmtY) (s : State) : Host.Outcome State Fault Refusal :=
  sysWord s w.g fun x => withSources s x [srcOf 0 w.a 2] fun s => withCut s x (launchGo w x)

/-- LWAIT's gang is parked past its word, and holds its clause to come back to it (R107). -/
def parkLwait (c : Issue) (id : Nat) (g : Group) : Group :=
  modQuads g c.quads (fun q => { q with pc := c.next, clause := some c.clause, st := .parked, park := .lwait id c.pc })

def execLwait (w : FmtY) (s : State) : Host.Outcome State Fault Refusal :=
  sysWord s w.g fun x => withSources s x [srcOf 0 w.a 1] fun s =>
    match tagHolder s x.l.part (readUN s x w.a) with
    | none => advance s x.c
    | some t => if t.id = x.l.id then advance s x.c else modGrp s x.c.wg x.c.grp (parkLwait x.c t.id)

/-! ## QLOC and QLEP (R108, R109) -/

/-- The team member a query names; none where it lies outside the team or has ended. -/
def queried (s : State) (x : Ctx) (w : FmtY) : Option Workgroup :=
  match teamMember s x.w ((x.w.trank : Int) + readI s x w.a 0) with
  | none => none
  | some t => if wgEnded t then none else some t

/-- Partition logical core of a device logical core (R99). -/
def partCoreOf (s : State) (part lcore : Nat) : Nat :=
  let dies := match findPart s part with | some p => partDies p | none => []
  8 * (dies.filter (fun d => decide (d < lcore / 8))).length + lcore % 8

/-- Banks of a core that no workgroup and no reservation holds; of several EARLY launches' reservations the largest counts
(R94, R108, log 134). -/
def freeBanks (s : State) (part pc : Nat) : Nat :=
  let held := (s.launches.filter (fun l => l.part == part && isEarly l && l.fail.isNone && l.st != .done)).foldl
    (fun m l => max m (reserveFor s pc l).1.banks) 0
  64 - (usedOn s pc).banks - held

def qlocValue (s : State) (x : Ctx) (t : Workgroup) (item : Nat) : Nat :=
  let d := dieOf s t.lcore
  match item with
  | 0 => partCoreOf s x.l.part t.lcore
  | 1 => d
  | 2 => d / 8 * 256 + d % 8
  | 3 => dieHops (dieOf s x.w.lcore) d
  | 4 => (quads4.map (fun h => hubHops d h * 2 ^ (4 * h))).foldl (· + ·) 0
  | _ => freeBanks s x.l.part (coreOf s t)

/-- A locality epoch (R101). -/
def epochOf (s : State) (t : Workgroup) : Nat :=
  t.reloc.toNat * 65536 + (match s.remap[t.lcore]? with | some r => r.epoch.toNat | none => 0)

def queryWord (w : FmtY) (s : State) (f : State → Ctx → Workgroup → Nat) : Host.Outcome State Fault Refusal :=
  sysWord s w.g fun x => withSources s x [srcOf 0 w.a 1] fun s =>
    let v := match queried s x w with | some t => wordOf (f s x t) | none => 0xFFFFFFFF
    modGrp s x.c.wg x.c.grp (fun g => advanceGrp x.c (putS g w.d.toNat v))

def execQloc (w : FmtY) (s : State) : Host.Outcome State Fault Refusal := queryWord w s (fun s x t => qlocValue s x t w.k.toNat)
def execQlep (w : FmtY) (s : State) : Host.Outcome State Fault Refusal := queryWord w s (fun s _ t => epochOf s t)

end Sys2Proof.Machine
end

