-- ==== Sys2Proof/Machine/Repair.lean ====
section
/-! DEFINITION. Self-repair of the stacks: spares (R286), repairs and their windows (R287), retirement and the reports to
partitions (R288), the retired-page lists (R289), MAP_UPDATE (R25, R31) and QSPR (R290). -/
namespace Sys2Proof.Machine

/-! ## Spares (R286). Kinds: 0 row, 1 bank, 2 TSV lane -/

def factoryOf (k : StackSt) (kind : Nat) : SMap Nat := match kind with | 0 => k.factoryRows | 1 => k.factoryBanks | _ => k.factoryTsv
def usedOf (k : StackSt) (kind : Nat) : SMap Nat := match kind with | 0 => k.usedRows | 1 => k.usedBanks | _ => k.usedTsv

/-- The unit that a repair takes its spare from: a bank, a pseudo-channel or a channel. -/
def repairUnit (r : Repair) : Nat := match r.kind with | 0 => r.pch * 16 + r.bank | _ => r.pch

/-- Units of a stack by kind. -/
def unitCount (kind : Nat) : Nat := match kind with | 0 => 1024 | 1 => 64 | _ => 32

def freeSpares (k : StackSt) (kind unit : Nat) : Nat :=
  Config.factorySpares kind - smGet (factoryOf k kind) unit 0 - smGet (usedOf k kind) unit 0

def sumVals (m : SMap Nat) : Nat := m.foldl (fun n (e : Nat × Nat) => n + e.2) 0

/-- Free spares of a stack. -/
def freeTotal (k : StackSt) (kind : Nat) : Nat :=
  unitCount kind * Config.factorySpares kind - sumVals (factoryOf k kind) - sumVals (usedOf k kind)

/-- Units whose free count is at most the LOW figure: each has a spare used. -/
def lowUnits (k : StackSt) (kind : Nat) : List Nat :=
  dedupNat (((factoryOf k kind ++ usedOf k kind).map Prod.fst).filter (fun u => decide (freeSpares k kind u ≤ Config.lowFigure kind)))

/-- One more spare of a unit is used. -/
def useSpare (kind unit : Nat) (k : StackSt) : StackSt :=
  let up := fun (m : SMap Nat) => smPut m unit (smGet m unit 0 + 1) 0
  match kind with
  | 0 => { k with usedRows := up k.usedRows }
  | 1 => { k with usedBanks := up k.usedBanks }
  | _ => { k with usedTsv := up k.usedTsv }

/-! ## The repair map and MAP_UPDATE (R25, R31) -/

def pairsNums (l : List (Nat × Nat)) : List Nat := l.length :: l.flatMap (fun (e : Nat × Nat) => [e.1, e.2])

/-- A stack's in-service repairs as numbers. -/
def stackNums (k : StackSt) : List Nat :=
  pairsNums k.usedRows ++ pairsNums k.usedBanks ++ pairsNums k.usedTsv ++ pairsNums k.rowMap ++ (k.bankMap.length :: k.bankMap) ++ pairsNums k.tsvMap

/-- A retired-page list as numbers. -/
def retNums (r : RetList) : List Nat :=
  (if r.ovf then 1 else 0) :: r.entries.length :: r.entries.flatMap (fun (e : RetEntry) => [e.frame, e.stack, e.kind, e.seq])

def mapNums (s : State) : List Nat := s.stks.flatMap stackNums ++ s.retLists.flatMap retNums

/-- A number in groups of seven bits, the lowest first. -/
def varBytes : Nat → Nat → List Byte
  | 0, _ => [0]
  | f + 1, x => if x < 128 then [BitVec.ofNat 8 x] else BitVec.ofNat 8 (128 + x % 128) :: varBytes f (x / 128)

/-- Each byte of a run is masked, from place `i` on. -/
def maskBytes : Nat → List Byte → List Byte
  | _, [] => []
  | i, b :: r => (b ^^^ Config.mapMask i) :: maskBytes (i + 1) r

/-- The bytes before the tag that stand for the in-service repairs and retired pages (R31, log 7). -/
def mapBody (ns : List Nat) : List Byte :=
  maskBytes 0 ((ns.length :: ns).flatMap (varBytes 16)) ++ (List.range (Config.mapPad % 65536)).map (fun i => Config.mapMask (2 ^ 22 + i))

/-- The tagged map: the firmware's layout, then the 48-byte tag. -/
def mapBytes (s : State) : List Byte := let b := mapBody (mapNums s); b ++ hmacSha384 b

def mapMsg (seq : BitVec 16) (len gen : Nat) : Msg :=
  { cls := 0, bytes := natToBytes 1 7 ++ natToBytes 1 0 ++ natToBytes 2 seq.toNat ++ natToBytes 4 0 ++ natToBytes 8 len
      ++ natToBytes 8 gen ++ natToBytes 8 0 }

/-- Bytes that the device writes into companion memory. -/
def compWrite (s : State) (a : Nat) (bs : List Byte) : State := { s with compMem := smPutList s.compMem a bs 0, compPoison := s.compPoison.filter (fun e => decide (e.1 < a ∨ a + bs.length ≤ e.1)) }
def compRead (s : State) (a n : Nat) : List Byte := smGetList s.compMem a n 0

/-- The updated map is written to the map buffer and announced; it covers every report held now. -/
def sendMap (s : State) : State :=
  let m := mapBytes s
  let (q, s1) := nextSeq (compWrite s s.mapBuf m)
  send { s1 with mapGen := s.mapGen + 1, mapWait := some q, mapDirty := false, mapCovers := s.heldReports.length } (mapMsg q m.length (s.mapGen + 1))

/-- After a repair or retirement: a map is sent, or waits for the answer to the one in flight. -/
def mapChanged (s : State) : State := if s.mapWait.isSome then { s with mapDirty := true } else sendMap s

/-- A report that waits until the map stands with the companion. -/
def hold (s : State) (m : BitVec 16 → Msg) : State :=
  let (q, s1) := nextSeq s
  { s1 with heldReports := s1.heldReports ++ [m q] }

/-- An event for every partition (R288). -/
def holdAll (s : State) (ev kind stack : Nat) : State :=
  (s.parts.map Prod.fst).foldl (fun s p => hold s (fun q => eventMsg p q ev kind stack 0 0)) s

/-- MAP_UPDATE_REPLY: the companion has stored the map; the reports it covers go out, and changes made since are sent. -/
def execMapUpdateReply (s : State) : Host.Outcome State Fault Refusal :=
  let b := s.arg.msg.bytes
  .next (match s.mapWait with
  | none => s
  | some q =>
    if b.length != 16 || fieldAt b 0 1 != 8 || fieldAt b 1 1 != 0 || fieldAt b 2 2 != q.toNat || fieldAt b 4 4 != 0 || fieldAt b 8 8 != 0 then s
    else
      let s1 := (s.heldReports.take s.mapCovers).foldl send { s with mapWait := none, heldReports := s.heldReports.drop s.mapCovers, mapCovers := 0 }
      if s1.mapDirty then sendMap s1 else s1)

/-! ## LOW and retirement (R288) -/

/-- Units of a stack that have newly reached their LOW figure are reported once the device is READY. -/
def reportLow (s : State) (stack kind : Nat) : State :=
  match s.stks[stack]? with
  | none => s
  | some k =>
    let new := (lowUnits k kind).filter (fun u => !k.lowTold.contains (kind, u))
    if s.boot != .ready then s
    else (new.foldl (fun s _ => holdAll s 2 kind stack) (modStack s stack (fun k => { k with lowTold := k.lowTold ++ new.map (fun u => (kind, u)) })))

/-- Near-bank frames that hold bytes of a failing unit (R32, R268): of a row, of a bank, of a channel. -/
def nbFrames (s : State) (stack : Nat) (r : Repair) : List Nat :=
  let all := fun (pch : Nat) => ((List.range 60).filter (fun u => isNb s (60 * stack + u))).flatMap (fun u =>
    (List.range 8).flatMap (fun h => (List.range 32).map (fun f => (60 * stack + u) * 2 ^ 30 + (64 * h + pch) * 2 ^ 21 + f * 65536)))
  match r.kind with
  | 0 => []
  | 1 => all r.pch
  | _ => all (2 * r.pch) ++ all (2 * r.pch + 1)

/-- The rows of a failing unit. -/
def failRows (stack : Nat) (r : Repair) : List Place3 :=
  let bank := fun (pch b : Nat) => (List.range 61440).map (fun k => ({ stack := stack, pch := pch, bank := b, row := k } : Place3))
  match r.kind with
  | 0 => [{ stack := stack, pch := r.pch, bank := r.bank, row := r.row }]
  | 1 => bank r.pch r.bank
  | _ => [2 * r.pch, 2 * r.pch + 1].flatMap (fun p => (List.range 16).flatMap (bank p))

/-- Equal neighbours once. -/
def onceEach : List Nat → List Nat
  | a :: b :: r => if a = b then onceEach (b :: r) else a :: onceEach (b :: r)
  | l => l

/-- The frames that hold bytes of a failing unit: the near-bank ones, and in ascending order those of the other units' rows (R268,
log 22). -/
def failFrames (s : State) (stack : Nat) (r : Repair) : List Nat :=
  let rows := (failRows stack r).filter (fun p => r.kind == 0 || match homeOf p with | some e => !isNb s e.1 | none => false)
  nbFrames s stack r ++ onceEach ((rows.filterMap (frameOf s)).mergeSort (fun a b => decide (a ≤ b)))

/-- The partition that owns a frame. -/
def ownerOf (s : State) (a : Nat) : Option Nat := (s.parts.find? (fun e => e.2.units.getLsbD (unitOf a))).map Prod.fst

def retEntryNat (e : RetEntry) : Nat := e.frame + 2 ^ 64 * e.stack + 2 ^ 72 * e.kind + 2 ^ 96 * e.seq

/-- Images that stand in a retired frame of the reserve move elsewhere in it, while there is room (R327). -/
def moveImages (s : State) (part a : Nat) : State :=
  (s.wgs.filter (fun w => !w.retired && match w.place with | .saved b n => runsMeet (a, 65536) (b, n) | _ => false)).foldl (fun s w =>
    match w.place, (findPart s part).bind (fun p => carve p (reserveTaken s part) (match w.place with | .saved _ n => n | _ => 0)) with
    | .saved b n, some c =>
      { modWg s w.id (fun v => { v with place := .saved c n }) with
        mem := (smGetList s.mem b n 0).zipIdx.foldl (fun m e => smPut m (c + e.2) e.1 0) s.mem,
        memPoison := (smGetList s.memPoison b n false).zipIdx.foldl (fun m e => smPut m (c + e.2) e.1 false) s.memPoison }
    | _, _ => s) s

/-- An entry of a full list is reported and not kept; no sequence number is stated for it, so it is a free value. -/
def retireFrame (stack kind : Nat) (s : State) (a : Nat) : State :=
  match ownerOf s a with
  | none => s
  | some p =>
    match s.retLists[p]? with
    | none => s
    | some l =>
      if l.entries.length < 65536 then
        let e : RetEntry := { frame := a, stack := stack, kind := kind, seq := l.entries.length }
        hold (moveImages { s with retLists := modifyAt s.retLists p (fun l => { l with entries := l.entries ++ [e] }) } p a)
          (fun q => eventMsg p q 4 0 stack 0 (retEntryNat e))
      else
        let (x, s1) := freshWord s
        hold { s1 with retLists := modifyAt s1.retLists p (fun l => { l with ovf := true }) }
          (fun q => eventMsg p q 4 0 stack 0 (retEntryNat { frame := a, stack := stack, kind := kind, seq := x.toNat }))

/-- A repair that is due finds no spare (R288). -/
def exhaust (s : State) (stack : Nat) (r : Repair) : State :=
  let s1 := holdAll (modStack s stack (fun k => { k with exhausted := k.exhausted ||| BitVec.ofNat 3 (2 ^ r.kind) })) 3 r.kind stack
  (failFrames s stack r).foldl (retireFrame stack r.kind) s1

/-! ## Repairs (R287) -/

def bootServes (s : State) : Bool := s.boot == .config || s.boot == .ready

/-- A rod holds the bank open and its yield window, if any, is over, or serves class 0 first (R283). -/
def repairHeld (s : State) (stack : Nat) (r : Repair) : Bool :=
  s.calls.any (fun c => c.stack == stack && repairBlocked c r && match c.yld with | none => true | some w => yieldLimit s w || rodWaiters s c (· == 0))

/-- The repair copy is one access of the yield windows it stands in. -/
def repairServed (s : State) (stack : Nat) (r : Repair) : State :=
  { s with calls := s.calls.map (fun c => match c.yld with
      | some w => if c.stack == stack && repairBlocked c r then { c with yld := some (w.1 + 1, w.2) } else c
      | none => c) }

/-- The repair that a stack makes now: the oldest that is due, while none is under way and no rod holds its bank. -/
def dueNow (s : State) (stack : Nat) : Option (StackSt × Repair) :=
  match s.stks[stack]? with
  | none => none
  | some k =>
    if k.window.isSome || k.remap.isSome || !bootServes s then none
    else match k.due with
      | [] => none
      | r :: _ => if repairHeld s stack r then none else some (k, r)

def dropDue (k : StackSt) : StackSt := { k with due := k.due.tail }

/-- ROW_REPAIR: row `d` of bank `c`, pseudo-channel `b`, stack `a` is copied to a spare row; with none left the row's frame
is retired and the bank's remap is due. Sixteen in one bank within 2^30 clk make the remap due as well. -/
def execRowRepair (s : State) : Host.Outcome State Fault Refusal :=
  .next (match dueNow s s.arg.a with
  | none => s
  | some (k, r) =>
    if r != { kind := 0, pch := s.arg.b, bank := s.arg.c, row := s.arg.d } then s
    else
      let i := s.arg.a
      let u := repairUnit r
      let remap : Repair := { kind := 1, pch := r.pch, bank := r.bank, row := 0 }
      if freeSpares k 0 u = 0 then mapChanged (exhaust (modStack s i (fun k => addDue remap (dropDue k))) i r)
      else
        let reps := ((u, now s) :: k.rowReps).filter (fun (e : Nat × Nat) => decide (now s - e.2 < 2 ^ 30))
        let many := decide (16 ≤ (reps.filter (fun (e : Nat × Nat) => e.1 == u)).length)
        let s1 := modStack (repairServed s i r) i (fun k =>
          let k1 := { useSpare 0 u (dropDue k) with
            rowMap := k.rowMap ++ [(u, r.row)], window := some r, rowReps := if many then reps.filter (fun (e : Nat × Nat) => e.1 != u) else reps }
          if many then addDue remap k1 else k1)
        mapChanged (reportLow s1 i 0))

/-- BANK_REMAP: bank `c` of pseudo-channel `b` of stack `a` starts moving to the spare bank, its first piece at once. -/
def execBankRemap (s : State) : Host.Outcome State Fault Refusal :=
  .next (match dueNow s s.arg.a with
  | none => s
  | some (k, r) =>
    if r != { kind := 1, pch := s.arg.b, bank := s.arg.c, row := 0 } then s
    else
      let i := s.arg.a
      if freeSpares k 1 (repairUnit r) = 0 then mapChanged (exhaust (modStack s i dropDue) i r)
      else
        let s1 := modStack (repairServed s i r) i (fun k => { useSpare 1 (repairUnit r) (dropDue k) with
          bankMap := k.bankMap ++ [r.pch * 16 + r.bank], window := some r, remap := some (r, 1, 0) })
        mapChanged (reportLow s1 i 1))

/-- 6 µs. -/
def us6 : Nat := 10500

/-- 4 KiB pieces of a bank. -/
def bankPieces : Nat := 16384

/-- BANK_REMAP_PIECE: the next piece of stack `a`'s bank remap, at least 6 µs after the window before it. -/
def execBankRemapPiece (s : State) : Host.Outcome State Fault Refusal :=
  .next (match s.stks[s.arg.a]? with
  | none => s
  | some k => match k.remap with
    | none => s
    | some (r, n, t) =>
      if k.window.isSome || bankPieces ≤ n || now s < t + us6
          || repairHeld s s.arg.a r then s
      else modStack (repairServed s s.arg.a r) s.arg.a (fun k => { k with window := some { r with row := n }, remap := some (r, n + 1, t) }))

/-- TSV_SWAP: lane `c` of channel `b` of stack `a` is replaced, or found to have no spare. -/
def execTsvSwap (s : State) : Host.Outcome State Fault Refusal :=
  .next (match dueNow s s.arg.a with
  | none => s
  | some (k, r) =>
    if r != { kind := 2, pch := s.arg.b, bank := 0, row := s.arg.c } then s
    else
      let i := s.arg.a
      if freeSpares k 2 (repairUnit r) = 0 then mapChanged (exhaust (modStack s i dropDue) i r)
      else
        let s1 := modStack s i (fun k => { useSpare 2 (repairUnit r) (dropDue k) with tsvMap := k.tsvMap ++ [(r.pch, r.row)], window := some r })
        mapChanged (reportLow s1 i 2))

/-- REPAIR_WINDOW_END: the window of stack `a` ends, and what it stalled goes on. -/
def execRepairWindowEnd (s : State) : Host.Outcome State Fault Refusal :=
  .next (match s.stks[s.arg.a]? with
  | none => s
  | some k => if k.window.isNone then s
    else modStack s s.arg.a (fun k => { k with window := none, remap := match k.remap with
      | some (r, n, _) => if bankPieces ≤ n then none else some (r, n, now s)
      | none => none }))

/-! ## RETIRED_LIST_READ and QSPR (R289, R290) -/

/-- Entry count of a partition's list, with OVF in bit 31. -/
def retCount (s : State) (part : Nat) : Nat :=
  match s.retLists[part]? with
  | some l => l.entries.length + (if l.ovf then 2 ^ 31 else 0)
  | none => 0

def retBytes (s : State) (part i : Nat) : List Byte :=
  match (s.retLists[part]?).bind (fun l => l.entries[i]?) with
  | some e => natToBytes 16 (retEntryNat e)
  | none => natToBytes 16 0

/-- RETIRED_LIST_READ: the companion reads four entries of a partition's list. -/
def execRetiredListRead (s : State) : Host.Outcome State Fault Refusal :=
  let b := s.arg.msg.bytes
  let part := fieldAt b 1 1
  let head := fun (code : Nat) => natToBytes 1 0x42 ++ natToBytes 1 part ++ natToBytes 2 (fieldAt b 2 2) ++ natToBytes 4 code
  let out := fun (code : Nat) (rest : List Byte) => send s { cls := s.arg.msg.cls, bytes := head code ++ rest }
  .next (if !bootServes s || b.length != 32 || fieldAt b 0 1 != 0x41 then s
  else if (findPart s part).isNone then out 8 (natToBytes 88 0)
  else if fieldAt b 4 4 != 0 || fieldAt b 12 20 != 0 || s.arg.msg.cls != 0 then out 3 (natToBytes 88 0)
  else out 0 (natToBytes 4 (retCount s part) ++ natToBytes 20 0 ++ (List.range 4).flatMap (fun i => retBytes s part (fieldAt b 8 4 + i))))

/-- A stack's QSPR item. -/
def qsprItem (k : StackSt) (item : Nat) : Nat :=
  if item < 3 then freeTotal k item
  else
    ((List.range 3).map (fun i => if (lowUnits k i).isEmpty then 0 else 2 ^ i)).foldl (· + ·) 0 + 8 * k.exhausted.toNat
      + (if k.window.isSome || k.remap.isSome then 64 else 0)

def qsprValue (s : State) (part item stack : Nat) : Nat :=
  if item = 4 then retCount s part
  else match s.stks[stack]? with
    | some k => if stack < 12 then qsprItem k item else 0xFFFFFFFF
    | none => 0xFFFFFFFF

def execQspr (w : FmtY) (s : State) : Host.Outcome State Fault Refusal :=
  sysWord s w.g fun x => withSources s x (if w.k = 4 then [] else [srcOf 0 w.a 1]) fun s =>
    modGrp s x.c.wg x.c.grp (fun g => advanceGrp x.c (putS g w.d.toNat (wordOf (qsprValue s x.l.part w.k.toNat (readUN s x w.a)))))

end Sys2Proof.Machine
end

