-- ==== Sys2Proof/Machine/Boot.lean ====
section
/-! DEFINITION. From power to the first launch (R18, R20-R35): the boot steps, image verification, the repair map, partitions,
attestation and the management messages. -/
namespace Sys2Proof.Machine

/-! ## Management messages (R28, R30) -/

/-- STATUS of R30. -/
def statusMsg (seq : BitVec 16) (st detail unit value : Nat) : Msg :=
  { cls := 0, bytes := natToBytes 1 3 ++ natToBytes 1 0 ++ natToBytes 2 seq.toNat ++ natToBytes 1 st ++ natToBytes 1 detail
      ++ natToBytes 2 unit ++ natToBytes 8 value ++ natToBytes 16 0 }

def sendStatus (s : State) (st detail unit value : Nat) : State :=
  let (q, s1) := nextSeq s
  send s1 (statusMsg q st detail unit value)

/-- A 16-byte reply: the request's MTYPE plus 1, its PART and SEQ, the code, and eight bytes. -/
def replyMsg (cls : BitVec 2) (m part seq code value : Nat) : Msg :=
  { cls := cls, bytes := natToBytes 1 (m + 1) ++ natToBytes 1 part ++ natToBytes 2 seq ++ natToBytes 4 code ++ natToBytes 8 value }

/-- Answer to the request that `State.arg` holds. -/
def answer (s : State) (code value : Nat) : State :=
  let b := s.arg.msg.bytes
  send s (replyMsg s.arg.msg.cls (fieldAt b 0 1) (fieldAt b 1 1) (fieldAt b 2 2) code value)

/-- The device hears the companion: port 0 of hub 0 has trained. -/
def linkUp (s : State) : Bool := s.boot != .off && s.boot != .rom

/-- A field of the request. -/
def req (s : State) (o n : Nat) : Nat := fieldAt s.arg.msg.bytes o n

/-- A management request of R28: BAD_STATE outside its steps, BAD_LAUNCH where it is malformed, else `f`. A message that is not
32 bytes long is no request: it is dropped without a reply (log 114). -/
def mgmt (s : State) (m : Nat) (step : Bool) (formed : Bool) (f : State → State) : Host.Outcome State Fault Refusal :=
  .next (if !linkUp s || s.arg.msg.bytes.length != 32 || req s 0 1 != m then s
  else if !step then answer s 11 0
  else if !formed || req s 4 4 != 0 || (m != 9 && req s 1 1 != 0) || s.arg.msg.cls != 0 then answer s 3 0
  else f s)

/-- Step 8 and after. -/
def step8 (s : State) : Bool := s.boot == .config || s.boot == .ready

def aligned64 (a : Nat) : Bool := a % 64 == 0

/-! ## Power (R18, R20, R21) -/

/-- Module power is gone: every state of the device is lost but its fuses (R20, R22, R25). -/
def powerLost (s : State) : State :=
  { State.reset with
    agenda := s.agenda, turn := s.turn, freeCtr := s.freeCtr, nextId := s.nextId, clk := s.clk, compMem := s.compMem, compPoison := s.compPoison, outbox := s.outbox, answers := s.answers,
    fuseMin := s.fuseMin, incarnation := s.incarnation,
    stks := s.stks.map (fun k => { StackSt.fresh with factoryRows := k.factoryRows, factoryBanks := k.factoryBanks, factoryTsv := k.factoryTsv }) }

/-- POWER_GOOD: the management core leaves reset and runs the boot ROM; the package's incarnation changes (R369). -/
def execPowerGood (s : State) : Host.Outcome State Fault Refusal :=
  .next (if s.boot != .off then s
  else
    let (x, s1) := freshWord s
    { s1 with boot := .rom, incarnation := s.incarnation + 1 + BitVec.ofNat 32 (x.toNat % (2 ^ 32 - 1)) })

def execPowerOff (s : State) : Host.Outcome State Fault Refusal := .next (powerLost s)

/-- TRESTLE_LINK_UP: port 0 has trained. -/
def execTrestleLinkUp (s : State) : Host.Outcome State Fault Refusal :=
  .next (if s.boot != .rom then s else sendStatus { s with boot := .waitImage } 1 0 0 0)

/-- THERMAL_WARNING: die `a` reaches 105 °C, its temperature being `b` (R18, R30). -/
def execThermalWarning (s : State) : Host.Outcome State Fault Refusal :=
  .next (if !linkUp s || s.arg.b < 105 then s else sendStatus s 8 0 s.arg.a s.arg.b)

/-- THERMAL_TRIP: at 118 °C the hub trips module power (R18). -/
def execThermalTrip (s : State) : Host.Outcome State Fault Refusal := .next (powerLost s)

/-! ## The firmware image (R22, R29) -/

def imageMax : Nat := 16777216
def imageBody : Nat := 0x42D0

/-- IMAGE_LOAD: the ROM checks the length and reads the image into boot SRAM. One that comes while an image is being read or
verified is outside its step, BAD_STATE (log 113). -/
def execImageLoad (s : State) : Host.Outcome State Fault Refusal :=
  mgmt s 1 (s.boot == .waitImage) (aligned64 (req s 8 8) && req s 0x18 8 == 0) fun s =>
    let a := req s 8 8
    let n := req s 0x10 8
    if n < imageBody ∨ imageMax < n then answer s 3 0
    else if bytesToNat (compRead s (a + 8) 4) ≠ n - imageBody then answer s 3 0
    else { s with boot := .imageRead, imgReq := some (BitVec.ofNat 16 (req s 2 2), a, n), sram := compRead s a n }

/-- The bytes both signatures cover: offsets 0x000 to 0x03F and the body. -/
def signedBytes (b : List Byte) : List Byte := b.take 0x40 ++ b.drop imageBody

/-- The first check of R22 that fails, from 1. -/
def imageCheck (fuse : Word) (b : List Byte) : Option Nat :=
  let rsa := slice b 0x40 384
  let slh := slice b 0x1C0 48
  if sha384 rsa ≠ slice Config.fusedRsaKeyHash 0 48 ∨ sha384 slh ≠ slice Config.fusedSlhKeyHash 0 48 then some 1
  else if fieldAt b 4 4 < fuse.toNat then some 2
  else if !(rsaPssVerify rsa (signedBytes b) (slice b 0x1F0 384) && slhDsaVerify slh (signedBytes b) (slice b 0x370 16224)) then some 3
  else if slice (sha384 (b.drop imageBody)) 0 48 ≠ slice b 0xC 48 then some 4
  else none

/-- The spare of a die, by its test data (R11). -/
def spareOf (d : Nat) : Nat := Config.testSpare d % 9

/-- The remap entry of a device logical core at power-on (R11, R100): the core's number counts the die's cores that are
not its spare. -/
def firstRemap (lc : Nat) : Remap :=
  let d := lc / 8
  let k := lc % 8
  { Remap.zero with die := BitVec.ofNat 5 d, pcore := BitVec.ofNat 4 (if k < spareOf d then k else k + 1) }

/-- IMAGE_COMPLETE: the image has been read, or could not be; the ROM verifies it and starts the firmware, which records each die's spare
and writes the remap table. -/
def execImageComplete (s : State) : Host.Outcome State Fault Refusal :=
  .next (match s.imgReq with
  | none => s
  | some (q, _, _) =>
    let reply := fun (s : State) (code value : Nat) => send s (replyMsg 0 1 0 q.toNat code value)
    let bad := fun (c : Nat) =>
      sendStatus (sendStatus (reply { s with boot := .waitImage, imgReq := none, sram := [] } 12 c) 2 c 0 0) 1 0 0 0
    if s.boot != .imageRead then s
    else if !s.arg.ok then bad 0
    else match imageCheck s.fuseMin s.sram with
      | some c => bad c
      | none => reply { s with
          boot := .dies, imgReq := none, fwImage := s.sram, fwVersion := wordOf (fieldAt s.sram 4 4),
          spares := (List.range 32).map (fun d => BitVec.ofNat 4 (spareOf d)), remap := (List.range 256).map firstRemap } 0 0)

/-! ## Dies, stacks and memory (R21, R23, R24) -/

def execDiesUp (s : State) : Host.Outcome State Fault Refusal := .next (if s.boot != .dies then s else { s with boot := .stks })

/-- STACKS_TRAINED: `opt` is a stack that fails. -/
def execStacksTrained (s : State) : Host.Outcome State Fault Refusal :=
  .next (if s.boot != .stks then s
  else match s.arg.opt with
    | some k => sendStatus { s with boot := .stackFailed } 3 0 k 0
    | none => { s with boot := .memory })

/-- MEMORY_INITIALISED: every sector holds zero and its check bytes. -/
def execMemoryInitialised (s : State) : Host.Outcome State Fault Refusal :=
  .next (if s.boot != .memory then s else sendStatus { s with boot := .waitMap, mem := [], memPoison := [] } 4 0 0 0)

/-! ## The repair map (R25, R31) -/

def takeNums (l : List Nat) : Option (List Nat × List Nat) :=
  match l with
  | [] => none
  | n :: r => if r.length < n then none else some (r.take n, r.drop n)

def toPairs : List Nat → List (Nat × Nat)
  | a :: b :: r => (a, b) :: toPairs r
  | _ => []

def takePairs (l : List Nat) : Option (List (Nat × Nat) × List Nat) :=
  match l with
  | [] => none
  | n :: r => if r.length < 2 * n then none else some (toPairs (r.take (2 * n)), r.drop (2 * n))

/-- A map's counts as a table of counts. -/
def countsOf (l : List (Nat × Nat)) : SMap Nat := l.foldl (fun m e => smPut m e.1 e.2 0) []

/-- A stack's in-service repairs read back from numbers, and what follows them. -/
def readStack (k : StackSt) (l : List Nat) : Option (StackSt × List Nat) :=
  match takePairs l with
  | none => none
  | some (rows, l1) => match takePairs l1 with
    | none => none
    | some (banks, l2) => match takePairs l2 with
      | none => none
      | some (tsv, l3) => match takePairs l3 with
        | none => none
        | some (rm, l4) => match takeNums l4 with
          | none => none
          | some (bm, l5) => match takePairs l5 with
            | none => none
            | some (tm, l6) =>
              some ({ k with usedRows := countsOf rows, usedBanks := countsOf banks, usedTsv := countsOf tsv, rowMap := rm, bankMap := bm, tsvMap := tm }, l6)

def readStacks : List StackSt → List Nat → Option (List StackSt × List Nat)
  | [], l => some ([], l)
  | k :: r, l => match readStack k l with
    | none => none
    | some (k1, l1) => (readStacks r l1).map (fun e => (k1 :: e.1, e.2))

def toEntries : List Nat → List RetEntry
  | a :: b :: c :: d :: r => { frame := a, stack := b, kind := c, seq := d } :: toEntries r
  | _ => []

def readLists : Nat → List Nat → Option (List RetList)
  | 0, _ => some []
  | k + 1, o :: n :: r =>
    if r.length < 4 * n then none
    else (readLists k (r.drop (4 * n))).map (fun t => { entries := toEntries (r.take (4 * n)), ovf := o != 0 } :: t)
  | _ + 1, _ => none

/-- Numbers that bytes of seven bits each stand for; the one begun has reached `x`, its next group counts `k`. -/
def varNums : Nat → Nat → List Byte → List Nat
  | _, _, [] => []
  | x, k, b :: r => if b.toNat < 128 then (x + k * b.toNat) :: varNums 0 1 r else varNums (x + k * (b.toNat - 128)) (128 * k) r

/-- The numbers that a map's body stands for (R31, log 7). -/
def mapRead (body : List Byte) : Option (List Nat) :=
  match varNums 0 1 (maskBytes 0 body) with
  | n :: r => if n ≤ r.length then some (r.take n) else none
  | [] => none

/-- A stored map applied: repair controllers and retired-page lists; none where its tag fails or it is no map (log 7). -/
def applyMap (s : State) (m : List Byte) : Option State :=
  let body := m.take (m.length - 48)
  if m.length < 48 ∨ slice (hmacSha384 body) 0 48 ≠ m.drop (m.length - 48) then none
  else match (mapRead body).bind (readStacks s.stks) with
    | none => none
    | some (ks, l) => (readLists 8 l).map (fun rs => { s with stks := ks, retLists := rs, mapHash := slice (sha384 m) 0 48 })

def mapMax : Nat := 4194304

/-- MAP_RESTORE: the stored map is applied, or the firmware starts from factory repairs; either way step 8 begins. A length
above 4 MiB makes the request malformed, and step 7 goes on (log 115). -/
def execMapRestore (s : State) : Host.Outcome State Fault Refusal :=
  mgmt s 5 (s.boot == .waitMap) (aligned64 (req s 8 8) && aligned64 (req s 0x18 8) && decide (req s 0x10 8 ≤ mapMax)) fun s =>
    let s1 := { s with boot := .config, mapBuf := req s 0x18 8 }
    let bad := fun (c : Nat) => sendStatus (sendStatus (answer s1 13 c) 5 c 0 0) 6 0 0 0
    if req s 0x10 8 = 0 then bad 1
    else match applyMap s1 (compRead s (req s 8 8) (req s 0x10 8)) with
      | none => bad 2
      | some s2 => sendStatus (answer s2 0 0) 6 0 0 0

/-! ## Partitions (R27, R32) -/

/-- A launch of the partition is queued or running (R27); a request not yet accepted is neither (R88). -/
def partBusy (s : State) (p : Nat) : Bool := s.launches.any (fun l => l.part == p && l.st != .done)

/-- A PEERS entry. -/
def peerOf (b : List Byte) (i : Nat) : PeerBind :=
  let o := 0xE0 + 16 * i
  { links := BitVec.ofNat 8 (fieldAt b o 1), valid := bitOf (fieldAt b (o + 1) 1) 7, part := fieldAt b (o + 1) 1 % 8 }

def peerBad (b : List Byte) (i : Nat) : Bool :=
  let p := peerOf b i
  (p.valid != (p.links != 0)) || bitsOf (fieldAt b (0xE1 + 16 * i) 1) 6 3 != 0 || fieldAt b (0xE2 + 16 * i) 14 != 0

/-- A peer none of whose bound links is trained is LOST (log 21). -/
def linksDown (s : State) (b : PeerBind) : Bool :=
  !((List.range 8).any (fun k => b.links.getLsbD k && match s.links[k]? with | some x => x.up | none => false))

/-- The partition that a configuration block describes. -/
def partOf (s : State) (b : List Byte) : Partition :=
  let ps := (List.range 8).map (peerOf b)
  let thr := fieldAt b 6 2
  { block := b, errinj := bitOf (fieldAt b 5 1) 0, errthr := if thr = 0 then 64 else thr, dies := BitVec.ofNat 32 (fieldAt b 8 4),
    troot := fieldAt b 0x10 8, rsvu := fieldAt b 0x18 2, units := BitVec.ofNat 768 (fieldAt b 0x20 96),
    nbmap := BitVec.ofNat 768 (fieldAt b 0x80 96), peers := ps,
    lost := BitVec.ofNat 8 (((List.range 8).map (fun i => match ps[i]? with | some x => if linksDown s x then 2 ^ i else 0 | none => 0)).foldl (· + ·) 0),
    reqs := [], ckpt := none }

/-- BAD_CONFIG of R32 for partition `p`; which cases a deletion block meets is log 132. -/
def blockBad (s : State) (p : Nat) (b : List Byte) : Bool :=
  let x := partOf s b
  let us := partUnits x
  let rs := reserveUnits x
  let del := x.dies == 0
  let thr := fieldAt b 6 2
  fieldAt b 0 4 != 0x43524150 || fieldAt b 4 1 != p || decide (2 ≤ fieldAt b 5 1) || (thr != 0 && (decide (thr < 8) || decide (4096 < thr)))
    || fieldAt b 0xC 4 != 0 || fieldAt b 0x1A 6 != 0 || decide (2 ^ 720 ≤ fieldAt b 0x20 96) || fieldAt b 0x160 160 != 0
    || (x.nbmap &&& ~~~x.units) != 0 || (List.range 8).any (peerBad b)
    || s.parts.any (fun e => e.1 != p && ((e.2.dies &&& x.dies) != 0 || (e.2.units &&& x.units) != 0))
    || (if del then x.units != 0
        else decide (us.length < x.rsvu + 1) || x.rsvu == 0 || x.troot % 4096 != 0
          || !us.contains (x.troot / 2 ^ 30) || rs.contains (x.troot / 2 ^ 30) || rs.any (fun u => x.nbmap.getLsbD u))

/-- A partition's save reserve is zeroed. -/
def clearReserve (s : State) (x : Partition) : State :=
  let rs := reserveUnits x
  { s with mem := s.mem.filter (fun e => !rs.contains (e.1 / 2 ^ 30)), memPoison := s.memPoison.filter (fun e => !rs.contains (e.1 / 2 ^ 30)) }

/-- Translations of a partition are dropped on every die. -/
def dropTlb (s : State) (p : Nat) : State := { s with dies := s.dies.map (fun (d : Die) => { tlb := d.tlb.filter (fun e => e.part != p) }) }

/-- A checkpoint stream of a partition that goes away meets an unmapped page. -/
def endCkpt (s : State) (p : Nat) : State :=
  match (findPart s p).bind Partition.ckpt with
  | none => s
  | some k => send s (replyMsg 3 0x61 p k.seq.toNat 10 (k.va + k.moved))

/-- The firmware applies a block. Remap entries of dies that the partition loses keep their PART, its retired-page list stays,
and requests not yet accepted stay in their queue, or are answered BAD_PARTITION where the partition goes (log 116). -/
def applyBlock (s : State) (p : Nat) (b : List Byte) : State :=
  let x := partOf s b
  let s1 := dropTlb s p
  let reqs := match findPart s p with | some y => y.reqs | none => []
  if x.dies = 0 then reqs.foldl (fun s q => luAnswer s p q 8 0) { endCkpt s1 p with parts := assocDel s.parts p }
  else
    let keep := (findPart s p).bind Partition.ckpt
    { clearReserve s1 x with
      parts := assocPut s.parts p { x with ckpt := keep, reqs := reqs },
      remap := (List.range s.remap.length).map (fun i =>
        let r := s.remap.getD i Remap.zero
        if x.dies.getLsbD (i / 8) then { r with part := BitVec.ofNat 3 p } else r) }

/-- PART_DEFINE: a partition is defined, redefined or deleted. BUSY is tested before BAD_CONFIG (log 116). -/
def execPartDefine (s : State) : Host.Outcome State Fault Refusal :=
  if linkUp s && s.arg.msg.bytes.length == 32 && req s 0 1 == 9 && step8 s && decide (7 < req s 1 1) then .next (answer s 8 0)
  else mgmt s 9 (step8 s) (aligned64 (req s 8 8) && req s 0x10 16 == 0) fun s =>
    let p := req s 1 1
    let b := compRead s (req s 8 8) 512
    if partBusy s p then answer s 15 0
    else if blockBad s p b then answer s 14 0
    else answer (applyBlock s p b) 0 0

/-! ## Attestation and fuses (R26, R33, R34) -/

/-- The report's bytes before the signatures. -/
def reportBody (s : State) (nonce : List Byte) : List Byte :=
  natToBytes 4 0x54534541 ++ natToBytes 4 17144 ++ nonce ++ slice (sha384 s.fwImage) 0 48 ++ natToBytes 4 s.fwVersion.toNat
    ++ natToBytes 4 s.fuseMin.toNat ++ slice s.mapHash 0 48
    ++ natToBytes 1 (((s.parts.map (fun e => 2 ^ e.1))).foldl (· + ·) 0) ++ natToBytes 7 0
    ++ (List.range 8).flatMap (fun p => match findPart s p with
      | some x => slice (sha384 x.block) 0 48
      | none => natToBytes 48 0)

def execAttest (s : State) : Host.Outcome State Fault Refusal :=
  mgmt s 0xB (step8 s) (aligned64 (req s 8 8) && aligned64 (req s 0x10 8) && req s 0x18 8 == 0) fun s =>
    let b := reportBody s (compRead s (req s 8 8) 32)
    let r := b ++ identityRsaSign s.freeCtr b ++ identitySlhSign (s.freeCtr + 48) b
    answer (compWrite { s with freeCtr := s.freeCtr + 72 } (req s 0x10 8) r) 0 17144

def execDeviceId (s : State) : Host.Outcome State Fault Refusal :=
  mgmt s 0xD (step8 s) (aligned64 (req s 8 8) && req s 0x10 16 == 0) fun s =>
    answer (compWrite s (req s 8 8) (slice Config.deviceSerial 0 16 ++ identityRsaModulus ++ identitySlhKey
      ++ natToBytes 64 0)) 0 0

def execFuseMin (s : State) : Host.Outcome State Fault Refusal :=
  mgmt s 0xF (step8 s) (req s 0xC 4 == 0 && req s 0x10 16 == 0) fun s =>
    let v := req s 8 4
    if v < s.fuseMin.toNat ∨ s.fwVersion.toNat < v then answer s 14 0 else answer { s with fuseMin := wordOf v } 0 0

/-- What R35 says of the state at READY: monitors at zero, TLBs, caches and predictors invalid, every epoch 0. -/
def atReady (s : State) : State :=
  { s with
    cores := s.cores.map (fun k => { CoreSt.fresh with oos := k.oos }),
    dies := s.dies.map (fun (d : Die) => { d with tlb := [] }),
    remap := s.remap.map (fun r => { r with epoch := 0 }) }

/-- CONFIG_DONE: step 8 ends; units already at their LOW figure are reported (R34, R288), once a map that waits for its answer
stands with the companion (R25, R31). -/
def execConfigDone (s : State) : Host.Outcome State Fault Refusal :=
  mgmt s 0x11 (s.boot == .config) (req s 8 8 == 0 && req s 0x10 16 == 0) fun s =>
    if s.parts.isEmpty then answer s 14 0
    else
      let s1 := sendStatus (answer { atReady s with boot := .ready } 0 0) 7 0 0 0
      let n := s1.heldReports.length
      let s2 := ((List.range 12).flatMap (fun i => [(i, 0), (i, 1), (i, 2)])).foldl (fun s e => reportLow s e.1 e.2) s1
      if s2.mapWait.isSome then { s2 with mapCovers := if s2.mapDirty then s2.mapCovers else s2.heldReports.length }
      else (s2.heldReports.drop n).foldl send { s2 with heldReports := s2.heldReports.take n }

end Sys2Proof.Machine
end

