-- ==== Sys2Proof/Machine/Flt.lean ====
section
/-! DEFINITION. The FLT words (R170-R180). -/
namespace Sys2Proof.Machine

/-- The AX form an A-form word stands for (R58): a type, RNE, no modifier, SETA. -/
def axOf (w : FmtA) (ty : BitVec 4) : FmtAX :=
  { g := w.g, d := w.d, a := w.a, b := w.b, c := { code := 0, lit := 0 }, ty := ty, sty := 0, rnd := 0, neg := 0, abs := 0,
    sat := false, fs := false, wide := false, md := 0 }

/-- WTYPE of R149. -/
def wtypeOf (w : FmtAX) : Nat := w.ty.toNat + 16 * w.sty.toNat

/-- A source value after ABS and NEG; `i` is 0 for A. -/
def modVal (w : FmtAX) (i : Nat) (v : FVal) : FVal := fMod (w.neg.getLsbD i) (w.abs.getLsbD i) v

/-- The bits of a source after ABS and NEG. -/
def modBits (w : FmtAX) (i x : Nat) : Nat :=
  let sb := fSignBit w.ty.toNat
  let x1 := if w.abs.getLsbD i then x % sb else x
  if w.neg.getLsbD i then (if sb ≤ x1 then x1 - sb else x1 + sb) else x1

def fltSpec (w : FmtAX) (srcs : List Src) (ll : Bool) : LaneSpec :=
  { g := w.g, srcs := srcs, wtype := wtypeOf w, ll := if ll then some w.fs else none, queue := false }

/-! ## Arithmetic (R170, R171) -/

/-- A word of two floating-point sources of TYPE. -/
def fltBin (s : State) (w : FmtAX) (ll : Bool) (op : Nat → Nat → Bool → FVal → FVal → FOut) : Host.Outcome State Fault Refusal :=
  let ty := w.ty.toNat
  laneWord s (fltSpec w [srcOf 0 w.a (nTy ty), srcOf 1 w.b (nTy ty)] ll) (perLane fun _ x l =>
    let a := readFlt x w.a ty l
    let b := readFlt x w.b ty l
    let va := fDecode ty a
    let vb := fDecode ty b
    let rty := if w.wide then 11 else ty
    let o := op rty w.rnd.toNat w.sat (modVal w 0 va) (modVal w 1 vb)
    withOps (outFlt rty l w.d.toNat o.bits) (condOf rty o [va, vb]) a b 0)

/-- A word of one floating-point source; `op` also sees the modified bits. -/
def fltUn (s : State) (w : FmtAX) (ll : Bool) (op : Nat → Nat → Bool → FVal → Nat → FOut) : Host.Outcome State Fault Refusal :=
  let ty := w.ty.toNat
  laneWord s (fltSpec w [srcOf 0 w.a (nTy ty)] ll) (perLane fun _ x l =>
    let a := readFlt x w.a ty l
    let va := fDecode ty a
    let o := op ty w.rnd.toNat w.sat (modVal w 0 va) (modBits w 0 a)
    withOps (outFlt ty l w.d.toNat o.bits) (condOf ty o [va]) a 0 0)

def execFadd (w : FmtA) (s : State) := fltBin s (axOf w 10) false fAdd
def execFaddAx (w : FmtAX) (s : State) := fltBin s w false fAdd
def execFmul (w : FmtA) (s : State) := fltBin s (axOf w 10) false fMul
def execFmulAx (w : FmtAX) (s : State) := fltBin s w false fMul
def execFmin (w : FmtA) (s : State) := fltBin s (axOf w 10) false (fun ty _ sat => fMinMax ty sat false)
def execFminAx (w : FmtAX) (s : State) := fltBin s w false (fun ty _ sat => fMinMax ty sat false)
def execFmax (w : FmtA) (s : State) := fltBin s (axOf w 10) false (fun ty _ sat => fMinMax ty sat true)
def execFmaxAx (w : FmtAX) (s : State) := fltBin s w false (fun ty _ sat => fMinMax ty sat true)
def execFdiv (w : FmtA) (s : State) := fltBin s (axOf w 10) true fDiv
def execFdivAx (w : FmtAX) (s : State) := fltBin s w true fDiv
def execFrcp (w : FmtA) (s : State) := fltUn s (axOf w 10) true (fun ty md sat v _ => fDiv ty md sat fOne v)
def execFrcpAx (w : FmtAX) (s : State) := fltUn s w true (fun ty md sat v _ => fDiv ty md sat fOne v)
def execFrsq (w : FmtA) (s : State) := fltUn s (axOf w 10) true (fun ty md sat v _ => fRsq ty md sat v)
def execFrsqAx (w : FmtAX) (s : State) := fltUn s w true (fun ty md sat v _ => fRsq ty md sat v)
def execFsqrt (w : FmtA) (s : State) := fltUn s (axOf w 10) true (fun ty md sat v _ => fSqrt ty md sat v)
def execFsqrtAx (w : FmtAX) (s : State) := fltUn s w true (fun ty md sat v _ => fSqrt ty md sat v)

/-- FFMA; with WIDE the addend and the result are f64. -/
def execFfma (w : FmtAX) (s : State) : Host.Outcome State Fault Refusal :=
  let ty := w.ty.toNat
  let rty := if w.wide then 11 else ty
  laneWord s (fltSpec w [srcOf 0 w.a (nTy ty), srcOf 1 w.b (nTy ty), srcOf 2 w.c (nTy rty)] false) (perLane fun _ x l =>
    let a := readFlt x w.a ty l
    let b := readFlt x w.b ty l
    let c := readFlt x w.c rty l
    let va := fDecode ty a
    let vb := fDecode ty b
    let vc := fDecode rty c
    let o := fFma rty w.rnd.toNat w.sat (modVal w 0 va) (modVal w 1 vb) (modVal w 2 vc)
    withOps (outFlt rty l w.d.toNat o.bits) (condOf rty o [va, vb, vc]) a b c)

/-! ## Transcendentals (R172) -/

def transcWord (s : State) (w : FmtAX) (fn : Nat) : Host.Outcome State Fault Refusal :=
  fltUn s w true (fun ty _ sat v x => fTransc fn ty sat v x)

def execFexp2 (w : FmtA) (s : State) := transcWord s (axOf w 10) 0
def execFexp2Ax (w : FmtAX) (s : State) := transcWord s w 0
def execFlog2 (w : FmtA) (s : State) := transcWord s (axOf w 10) 1
def execFlog2Ax (w : FmtAX) (s : State) := transcWord s w 1
def execFsin (w : FmtA) (s : State) := transcWord s (axOf w 10) 2
def execFsinAx (w : FmtAX) (s : State) := transcWord s w 2
def execFcos (w : FmtA) (s : State) := transcWord s (axOf w 10) 3
def execFcosAx (w : FmtAX) (s : State) := transcWord s w 3
def execFtanh (w : FmtA) (s : State) := transcWord s (axOf w 10) 4
def execFtanhAx (w : FmtAX) (s : State) := transcWord s w 4

/-! ## Parts of a value (R173) -/

/-- FRND: rounded to an integer value; a zero keeps the sign. -/
def fRnd (ty mode : Nat) (sat : Bool) (v : FVal) : FOut :=
  match v with
  | .fin n m e =>
    if 0 ≤ e ∨ m = 0 then deliver ty 0 sat (.fin n m e false) false false
    else deliver ty 0 sat (.fin n (roundSig mode n m e 0 false) 0 false) false false
  | _ => deliver ty 0 sat (exOf v) (fIsSnan v) false

/-- FSCL: a × 2^b. -/
def fScl (ty mode : Nat) (sat : Bool) (v : FVal) (b : Int) : FOut :=
  match v with
  | .fin n m e => deliver ty mode sat (.fin n m (e + b) false) false false
  | _ => deliver ty mode sat (exOf v) (fIsSnan v) false

/-- FXTR .exp: floor(log2 |a|) as i32. -/
def fXtrExp (v : FVal) : Int :=
  match v with
  | .fin _ m e => if m = 0 then -(2 ^ 31) else finLog2 m e
  | _ => 2 ^ 31 - 1

/-- FXTR .man: a ÷ 2^floor(log2 |a|). -/
def fXtrMan (ty : Nat) (v : FVal) : FOut :=
  match v with
  | .fin n m e => deliver ty 0 false (.fin n m (if m = 0 then e else -((log2N m : Nat) : Int)) false) false false
  | _ => deliver ty 0 false (exOf v) (fIsSnan v) false

def execFrnd (w : FmtA) (s : State) := fltUn s (axOf w 10) false (fun ty md sat v _ => fRnd ty md sat v)
def execFrndAx (w : FmtAX) (s : State) := fltUn s w false (fun ty md sat v _ => fRnd ty md sat v)

def sclWord (s : State) (w : FmtAX) : Host.Outcome State Fault Refusal :=
  let ty := w.ty.toNat
  laneWord s (fltSpec w [srcOf 0 w.a (nTy ty), srcOf 1 w.b 1] false) (perLane fun s x l =>
    let a := readFlt x w.a ty l
    let va := fDecode ty a
    let o := fScl ty w.rnd.toNat w.sat (modVal w 0 va) (readI s x w.b l)
    withOps (outFlt ty l w.d.toNat o.bits) (condOf ty o [va]) a (readN s x w.b l) 0)

def execFscl (w : FmtA) (s : State) := sclWord s (axOf w 10)
def execFsclAx (w : FmtAX) (s : State) := sclWord s w

def xtrWord (s : State) (w : FmtAX) : Host.Outcome State Fault Refusal :=
  let ty := w.ty.toNat
  laneWord s (fltSpec w [srcOf 0 w.a (nTy ty)] false) (perLane fun _ x l =>
    let a := readFlt x w.a ty l
    let va := fDecode ty a
    let v := modVal w 0 va
    if w.md = 0 then
      withOps (outV l w.d.toNat (wordOfInt (fXtrExp v))) (condBits (fIsSnan va) false false false (fNonFinite va)) a 0 0
    else
      let o := fXtrMan ty v
      withOps (outFlt ty l w.d.toNat o.bits) (condOf ty o [va]) a 0 0)

def execFxtr (w : FmtA) (s : State) := xtrWord s (axOf w 10)
def execFxtrAx (w : FmtAX) (s : State) := xtrWord s w

/-! ## Tests (R174) -/

def clsWord (s : State) (w : FmtAX) : Host.Outcome State Fault Refusal :=
  let ty := w.ty.toNat
  laneWord s (fltSpec w [srcOf 0 w.a (nTy ty), srcOf 1 w.b 1] false) (perLane fun s x l =>
    outP l w.d.toNat (bitOf (readN s x w.b l) (fClass ty (modVal w 0 (fDecode ty (readFlt x w.a ty l))))))

def execFcls (w : FmtA) (s : State) := clsWord s (axOf w 10)
def execFclsAx (w : FmtAX) (s : State) := clsWord s w

def execFcmp (w : FmtAX) (s : State) : Host.Outcome State Fault Refusal :=
  let ty := w.ty.toNat
  laneWord s (fltSpec w [srcOf 0 w.a (nTy ty), srcOf 1 w.b (nTy ty)] false) (perLane fun _ x l =>
    let a := readFlt x w.a ty l
    let b := readFlt x w.b ty l
    let va := fDecode ty a
    let vb := fDecode ty b
    withOps (outP l w.d.toNat (fCond w.md.toNat (modVal w 0 va) (modVal w 1 vb)))
      (condBits (fIsSnan va || fIsSnan vb) false false false false) a b 0)

/-! ## Packed pairs (R175) -/

/-- One half of a packed word with its conditions. -/
def pkHalf (w : FmtAX) (op : Nat → Nat → Bool → List FVal → FOut) (srcs : List Nat) (h : Nat) : Nat × BitVec 5 :=
  let ty := w.ty.toNat
  let vs := srcs.map (fun x => fDecode ty (x / 2 ^ (16 * h) % 2 ^ 16))
  let ms := (List.range vs.length).map (fun i => modVal w i (vs.getD i fOne))
  let o := op ty w.rnd.toNat w.sat ms
  (o.bits, condOf ty o vs)

def pkWord (s : State) (w : FmtAX) (flds : List Fld) (op : Nat → Nat → Bool → List FVal → FOut) : Host.Outcome State Fault Refusal :=
  laneWord s (fltSpec w ((List.range flds.length).map (fun i => srcOf i (flds.getD i w.a) 1)) false) (perLane fun _ x l =>
    let raw := flds.map (fun f => readPk x f w.ty.toNat l)
    let lo := pkHalf w op raw 0
    let hi := pkHalf w op raw 1
    withOps (outV l w.d.toNat (wordOf (lo.1 + 2 ^ 16 * hi.1))) (lo.2 ||| hi.2) (raw.getD 0 0) (raw.getD 1 0) (raw.getD 2 0))

def pkAdd (ty md : Nat) (sat : Bool) (v : List FVal) : FOut := fAdd ty md sat (v.getD 0 fOne) (v.getD 1 fOne)
def pkMul (ty md : Nat) (sat : Bool) (v : List FVal) : FOut := fMul ty md sat (v.getD 0 fOne) (v.getD 1 fOne)
def pkFma (ty md : Nat) (sat : Bool) (v : List FVal) : FOut := fFma ty md sat (v.getD 0 fOne) (v.getD 1 fOne) (v.getD 2 fOne)

def execPadd (w : FmtA) (s : State) := pkWord s (axOf w 8) [w.a, w.b] pkAdd
def execPaddAx (w : FmtAX) (s : State) := pkWord s w [w.a, w.b] pkAdd
def execPmul (w : FmtA) (s : State) := pkWord s (axOf w 8) [w.a, w.b] pkMul
def execPmulAx (w : FmtAX) (s : State) := pkWord s w [w.a, w.b] pkMul
def execPfma (w : FmtAX) (s : State) := pkWord s w [w.a, w.b, w.c] pkFma

/-! ## FDOT4 (R176) -/

/-- The exact sum of values, with INV for infinities of both signs where no value is a NaN (R148, R176, log 135). -/
def exactSum (mode : Nat) (vs : List FVal) : Exact × Bool :=
  if vs.any fIsNan then (.nan, false)
  else if vs.any fIsInf then
    (if vs.any (fun v => fIsInf v && fNeg v) && vs.any (fun v => fIsInf v && !fNeg v) then (.nan, true)
     else (.inf (vs.any (fun v => fIsInf v && fNeg v)), false))
  else
    let a := vs.foldl (fun (a : FixAcc) v => match v with | .fin n m e => a.add n m e | _ => a) { q := 0, s := 0 }
    if a.s = 0 then
      (if vs.all fNeg then .fin true 0 0 false
       else if vs.all (fun v => !fNeg v) then .fin false 0 0 false
       else .fin (mode == 3) 0 0 false, false)
    else (exactOfFix a, false)

/-- Element `i` of a source of FDOT4. -/
def dotElem (sty raw i : Nat) : FVal :=
  if sty = 8 ∨ sty = 9 then fDecode sty (raw / 2 ^ (16 * i) % 2 ^ 16) else fDecode sty (raw / 2 ^ (8 * i) % 2 ^ 8)

def execFdot4 (w : FmtAX) (s : State) : Host.Outcome State Fault Refusal :=
  let sty := w.sty.toNat
  let pair := sty == 8 || sty == 9
  let n := if pair then 2 else 1
  laneWord s (fltSpec w [srcOf 0 w.a n, srcOf 1 w.b n, srcOf 2 w.c 1] false) (perLane fun _ x l =>
    let raw := fun (f : Fld) => pairVal (regWord x.g f.code 0 l) (if pair then regWord x.g f.code 1 l else 0)
    let c := readFlt x w.c 10 l
    let ea := (List.range 4).map (dotElem sty (raw w.a))
    let eb := (List.range 4).map (dotElem sty (raw w.b))
    let vc := fDecode 10 c
    let ps := (List.range 4).map (fun i => exMul (modVal w 0 (ea.getD i fOne)) (modVal w 1 (eb.getD i fOne)))
    let r := exactSum w.rnd.toNat (ps.map Prod.fst ++ [modVal w 2 vc])
    let srcs := ea ++ eb ++ [vc]
    let inv := ps.any Prod.snd || srcs.any fIsSnan
    let o := if ps.any Prod.snd then deliver 10 w.rnd.toNat w.sat .nan true false
      else deliver 10 w.rnd.toNat w.sat r.1 (r.2 || inv) false
    withOps (outFlt 10 l w.d.toNat o.bits) (condOf 10 o srcs) (raw w.a) (raw w.b) c)

/-! ## Conversions (R177-R179) -/

/-- Width of a packed element. -/
def elemBits (ty : Nat) : Nat := if ty = 14 then 4 else tyWidth ty

def execCvt (w : FmtAX) (s : State) : Host.Outcome State Fault Refusal :=
  let ty := w.ty.toNat
  let sty := w.sty.toNat
  let from? := w.md.toNat / 8 == 2
  let into := w.md.toNat / 8 == 3
  let k := w.md.toNat % 8
  let srcs := srcOf 0 w.a (if from? then 1 else nTy sty) :: (if into then [{ which := 3, code := BitVec.ofNat 8 w.d.toNat, n := 1 }] else [])
  laneWord s (fltSpec w srcs false) (perLane fun _ x l =>
    let a := if from? then readPk x w.a sty l / 2 ^ (elemBits sty * k) % 2 ^ elemBits sty else readFlt x w.a sty l
    let va := fDecode sty a
    let o := fCvt ty w.rnd.toNat w.sat (modVal w 0 va)
    let old := (getV x.g w.d.toNat l).val.toNat
    let sh := elemBits ty * k
    let out := if into then
        outV l w.d.toNat (wordOf (old - old / 2 ^ sh % 2 ^ elemBits ty * 2 ^ sh + o.bits * 2 ^ sh))
      else outFlt ty l w.d.toNat o.bits
    withOps out (condOf ty { o with inv := o.inv || fIsSnan va } [va]) a 0 0)

def execCvti (w : FmtAX) (s : State) : Host.Outcome State Fault Refusal :=
  let ty := w.ty.toNat
  let sty := w.sty.toNat
  laneWord s (fltSpec w [srcOf 0 w.a (nTy sty)] false) (perLane fun s x l =>
    if tyInt ty then
      let a := readFlt x w.a sty l
      let va := fDecode sty a
      let r := fToInt ty w.rnd.toNat (modVal w 0 va)
      withOps (outInt ty l w.d.toNat (wrapNat (tyWidth ty) r.1)) (condBits (r.2 || fIsSnan va) false false false (fNonFinite va)) a 0 0
    else
      let a := readTy s x w.a sty l
      let o := deliver ty w.rnd.toNat w.sat (exOfInt (intVal sty a)) false false
      withOps (outFlt ty l w.d.toNat o.bits) (condOf ty o []) a 0 0)

/-- Source i of CVTM: its bits (R179). -/
def cvtmSrc (x : Ctx) (w : FmtAX) (l i : Nat) : Nat :=
  if w.sty = 10 then (regWord x.g w.a.code i l).toNat
  else (regWord x.g w.a.code (i / 2) l).toNat / 2 ^ (16 * (i % 2)) % 2 ^ 16

/-- The block format of a TYPE: 0 MXINT8, 1 MXFP8, 2 MXFP4. -/
def mxFmt (ty : Nat) : Nat := match ty with | 0 => 0 | 12 => 1 | _ => 2

/-- CVTM (R179). An ACTIVE lane with no enabled condition shows its first element in OPA (log 136). -/
def execCvtm (w : FmtAX) (s : State) : Host.Outcome State Fault Refusal :=
  let sty := w.sty.toNat
  let fmt := mxFmt w.ty.toNat
  let per := if fmt = 2 then 8 else 4
  let n := if sty = 10 then 32 else 16
  laneWord s (fltSpec w [srcOf 0 w.a n] false) (perLane fun _ x l =>
    let raw := (List.range 32).map (cvtmSrc x w l)
    let vs := raw.map (fDecode sty)
    let q := mxQuant fmt w.rnd.toNat vs
    let b := if fmt = 2 then 4 else 8
    let slot := fun j => (List.range per).foldl (fun r i => r + q.2.getD (per * j + i) 0 * 2 ^ (b * i)) 0
    let cond := fun v => condBits (fIsNan v) false false false (fNonFinite v)
    let en := enablesOf x.l
    let first := ((List.range 32).find? (fun i => cond (vs.getD i fOne) &&& en != 0)).getD 0
    let out := { outNone l with v := (List.range (32 / per)).map (fun j => (w.d.toNat + j, wordOf (slot j)))
                                  ++ [(w.d.toNat + 32 / per, wordOf q.1)] }
    withOps out (vs.foldl (fun c v => c ||| cond v) 0) (raw.getD first 0) first 0)

/-! ## TMV (R180) -/

/-- One step of TMV: the accumulator, and the first step whose condition is enabled: conditions, j, M, x. -/
structure TmvAcc where
  acc : Nat
  conds : BitVec 5
  hit : Option (Nat × Nat × Nat × Nat)

/-- Element `k` of a packed byte string of a type. -/
def palElem (ty : Nat) (bs : List (Byte × Bool)) (k : Nat) : Nat × Bool :=
  let n := tyWidth ty / 8
  let e := (bs.drop (k * n)).take n
  (bytesToNat (e.map Prod.fst), anyBad e)

def tmvStep (ty : Nat) (en : BitVec 5) (i j m x : Nat) (a : TmvAcc) : TmvAcc :=
  let vm := fDecode ty m
  let vx := fDecode ty x
  let va := fDecode 10 a.acc
  let o := fFma 10 0 false vm vx va
  let con := fNonFinite vm || fNonFinite vx
  let pro := fNonFinite (fDecode 10 o.bits) && !con && !fNonFinite va
  let c := condBits o.inv false o.ovf pro con
  { acc := o.bits, conds := a.conds ||| c,
    hit := if a.hit.isNone && c &&& en != 0 then some (i, j, m, x) else a.hit }

def tmvWord (s : State) (w : FmtAX) (m n : Nat) : Host.Outcome State Fault Refusal :=
  let ty := w.ty.toNat
  let size := tyWidth ty / 8
  let regs := if ty = 10 then n else (n + 1) / 2
  match laneWord s (fltSpec w [srcOf 0 w.a regs, srcOf 1 w.b 1] true) (perLane fun s x l =>
    let o := readN s x w.b l / 4 * 4
    let mat := palRead s x o (m * n * size)
    let xs := (List.range n).map (fun j =>
      if ty = 10 then (regWord x.g w.a.code j l).toNat
      else (regWord x.g w.a.code (j / 2) l).toNat / 2 ^ (16 * (j % 2)) % 2 ^ 16)
    let en := enablesOf x.l
    let rows := (List.range m).map (fun i =>
      let bad := (List.range n).any (fun j => (palElem ty mat (i * n + j)).2)
      let r := (List.range n).foldl (fun a j => tmvStep ty en i j (palElem ty mat (i * n + j)).1 (xs.getD j 0) a)
        ({ acc := 0, conds := 0, hit := none } : TmvAcc)
      (bad, r))
    let good := rows.filter (fun r => !r.1)
    let hit := (good.findSome? (fun r => r.2.hit)).getD (0, 0, 0, 0)
    let out := { outNone l with
      v := (List.range m).map (fun i => match rows[i]? with
        | some (true, _) => (w.d.toNat + i, Config.freeWord (s.freeCtr + 16 * l + i))
        | some (false, r) => (w.d.toNat + i, wordOf r.acc)
        | none => (w.d.toNat + i, 0)),
      bad := (List.range m).filterMap (fun i => match rows[i]? with
        | some (true, _) => some (w.d.toNat + i)
        | _ => none) }
    withOps out (good.foldl (fun c r => c ||| r.2.conds) 0) (hit.1 + 16 * hit.2.1) hit.2.2.1 hit.2.2.2) with
  | .next s1 => .next { s1 with freeCtr := s1.freeCtr + 256 }
  | r => r

/-- TMV (R180). OPA to OPC of an ACTIVE lane with no enabled condition are zero (log 136). -/
def execTmv (w : FmtA) (s : State) := tmvWord s (axOf w 8) 16 16
def execTmvAx (w : FmtAX) (s : State) := tmvWord s w (tmvM w) (tmvN w)

end Sys2Proof.Machine
end

