-- ==== Sys2Proof/Machine/Int.lean ====
section
/-! DEFINITION. The INT words (R140, R155-R169). -/
namespace Sys2Proof.Machine

/-! ## Integer arithmetic (R155) -/

/-- The value of an integer operand of the word's TYPE in a lane. -/
def tyVal (s : State) (x : Ctx) (f : Fld) (ty l : Nat) : Int := intVal ty (readTy s x f ty l)

/-- The result of an integer word: reduced or clamped to TYPE, or exact at twice the width (R155). -/
def intOut (w : FmtAX) (l : Nat) (r : Int) : LaneOut :=
  if w.wide then outPair l w.d.toNat (wrapNat 64 r)
  else outInt w.ty.toNat l w.d.toNat (intResult w.ty.toNat w.sat r)

def srcs2 (w : FmtAX) : List Src := let n := nTy w.ty.toNat; [srcOf 0 w.a n, srcOf 1 w.b n]

/-- A word of two integer sources. -/
def intBin (s : State) (w : FmtAX) (op : Nat → Int → Int → Int) : Host.Outcome State Fault Refusal :=
  laneWord s (plainSpec w.g (srcs2 w)) (perLane fun s x l =>
    let ty := w.ty.toNat
    intOut w l (op ty (tyVal s x w.a ty l) (tyVal s x w.b ty l)))

/-- A word of one integer source. -/
def intUn (s : State) (w : FmtAX) (op : Int → Int) : Host.Outcome State Fault Refusal :=
  laneWord s (plainSpec w.g [srcOf 0 w.a (nTy w.ty.toNat)]) (perLane fun s x l =>
    intOut w l (op (tyVal s x w.a w.ty.toNat l)))

def execIadd (w : FmtAX) (s : State) := intBin s w (fun _ a b => a + b)
def execIsub (w : FmtAX) (s : State) := intBin s w (fun _ a b => a - b)
def execImul (w : FmtAX) (s : State) := intBin s w (fun _ a b => a * b)
def execImulh (w : FmtAX) (s : State) := intBin s w (fun ty a b => (a * b) / ((2 ^ tyWidth ty : Nat) : Int))
def execImin (w : FmtAX) (s : State) := intBin s w (fun _ a b => if b < a then b else a)
def execImax (w : FmtAX) (s : State) := intBin s w (fun _ a b => if a < b then b else a)
def execIabs (w : FmtAX) (s : State) := intUn s w (fun a => if a < 0 then -a else a)
def execIneg (w : FmtAX) (s : State) := intUn s w (fun a => -a)

/-- a × b + c; with WIDE the addend is read at twice the width. -/
def execImad (w : FmtAX) (s : State) : Host.Outcome State Fault Refusal :=
  let ty := w.ty.toNat
  let cty := if w.wide then ty + 1 else ty
  laneWord s (plainSpec w.g (srcs2 w ++ [srcOf 2 w.c (nTy cty)])) (perLane fun s x l =>
    intOut w l (tyVal s x w.a ty l * tyVal s x w.b ty l + tyVal s x w.c cty l))

/-- IADDC and ISUBB (R156): the carry or borrow of the lane, out of unsigned operands. -/
def carryWord (s : State) (w : FmtAX) (sub : Bool) : Host.Outcome State Fault Refusal :=
  let ty := w.ty.toNat
  laneWord s (plainSpec w.g (srcs2 w)) (perLane fun s x l =>
    let a := (readTy s x w.a ty l : Int)
    let b := (readTy s x w.b ty l : Int)
    let c : Int := if readP x w.c l then 1 else 0
    let r := if sub then a - b - c else a + b + c
    let out := decide (if sub then r < 0 else ((2 ^ tyWidth ty : Nat) : Int) ≤ r)
    let k := w.md.toNat % 8
    { outInt ty l w.d.toNat (wrapNat (tyWidth ty) r) with p := if k = 7 then [] else [(k, out)] })

def execIaddc (w : FmtAX) (s : State) := carryWord s w false
def execIsubb (w : FmtAX) (s : State) := carryWord s w true

/-! ## Division (R157) -/

/-- Quotient truncated toward zero, with the values of a zero divisor. -/
def divQuot (ty : Nat) (a b : Int) : Int :=
  if b = 0 then (if tySigned ty ∧ a < 0 then intMin ty else intMax ty) else Int.tdiv a b
def divRem (a b : Int) : Int := if b = 0 then a else Int.tmod a b

def divWord (s : State) (w : FmtAX) (op : Nat → Int → Int → Int) : Host.Outcome State Fault Refusal :=
  let ty := w.ty.toNat
  laneWord s { g := w.g, srcs := srcs2 w, wtype := ty, ll := some w.fs, queue := false } (perLane fun s x l =>
    let a := tyVal s x w.a ty l
    let b := tyVal s x w.b ty l
    withOps (intOut w l (op ty a b)) (condBits false (b == 0) false false false) (readTy s x w.a ty l) (readTy s x w.b ty l) 0)

def execIdiv (w : FmtAX) (s : State) := divWord s w divQuot
def execIrem (w : FmtAX) (s : State) := divWord s w (fun _ => divRem)

/-! ## Bits (R158) -/

def bit2 (s : State) (w : FmtA) (op : Word → Word → Word) : Host.Outcome State Fault Refusal :=
  laneWord s (plainSpec w.g [srcOf 0 w.a 1, srcOf 1 w.b 1]) (perLane fun s x l =>
    outV l w.d.toNat (op (wordOf (readN s x w.a l)) (wordOf (readN s x w.b l))))

def bit1 (s : State) (w : FmtA) (op : Word → Word) : Host.Outcome State Fault Refusal :=
  laneWord s (plainSpec w.g [srcOf 0 w.a 1]) (perLane fun s x l => outV l w.d.toNat (op (wordOf (readN s x w.a l))))

/-- Number of 1 bits. -/
def popBits (x : Word) : Nat := ((List.range 32).filter (fun i => x.getLsbD i)).length
def clzBits (x : Word) : Nat := if x = 0 then 32 else 31 - log2N x.toNat
def ctzBits (x : Word) : Nat := ((List.range 32).find? (fun i => x.getLsbD i)).getD 32
def revBits (n x : Nat) : Nat := (List.range n).foldl (fun r i => r + (if bitOf x i then 2 ^ (n - 1 - i) else 0)) 0

def execAnd (w : FmtA) (s : State) := bit2 s w (fun a b => a &&& b)
def execOr (w : FmtA) (s : State) := bit2 s w (fun a b => a ||| b)
def execXor (w : FmtA) (s : State) := bit2 s w (fun a b => a ^^^ b)
def execAndn (w : FmtA) (s : State) := bit2 s w (fun a b => a &&& ~~~b)
def execNot (w : FmtA) (s : State) := bit1 s w (fun a => ~~~a)
def execRol (w : FmtA) (s : State) := bit2 s w (fun a b => a.rotateLeft (b.toNat % 32))
def execPopc (w : FmtA) (s : State) := bit1 s w (fun a => wordOf (popBits a))
def execClz (w : FmtA) (s : State) := bit1 s w (fun a => wordOf (clzBits a))
def execCtz (w : FmtA) (s : State) := bit1 s w (fun a => wordOf (ctzBits a))
def execBrev (w : FmtA) (s : State) := bit1 s w (fun a => wordOf (revBits 32 a.toNat))

/-! ## Shifts (R159) and fields (R160) -/

def shiftLeft (w a c : Nat) : Nat := if c < w then a * 2 ^ c % 2 ^ w else 0
def shiftRight (w a c : Nat) : Nat := if c < w then a / 2 ^ c else 0
def shiftArith (w a c : Nat) : Nat :=
  let v := toSigned w a
  if c < w then wrapNat w (v / ((2 ^ c : Nat) : Int)) else wrapNat w (if v < 0 then -1 else 0)

def shiftWord (s : State) (w : FmtAX) (op : Nat → Nat → Nat → Nat) : Host.Outcome State Fault Refusal :=
  let ty := w.ty.toNat
  laneWord s (plainSpec w.g [srcOf 0 w.a (nTy ty), srcOf 1 w.b 1]) (perLane fun s x l =>
    outInt ty l w.d.toNat (op (tyWidth ty) (readTy s x w.a ty l) (readN s x w.b l)))

def execShl (w : FmtAX) (s : State) := shiftWord s w shiftLeft
def execShr (w : FmtAX) (s : State) := shiftWord s w shiftRight
def execSar (w : FmtAX) (s : State) := shiftWord s w shiftArith

/-- Bit-field extract. -/
def bfx (ty a b : Nat) : Nat :=
  let w := tyWidth ty
  let pos := b % 256
  let len := min (b / 256 % 256) w
  let bit := fun i => if i < w then bitOf a i else tySigned ty && bitOf a (w - 1)
  let field := (List.range len).foldl (fun r k => r + (if bit (pos + k) then 2 ^ k else 0)) 0
  if len = 0 then 0 else if tySigned ty then wrapNat w (toSigned len field) else field

/-- Bit-field insert. -/
def bfi (ty a b c : Nat) : Nat :=
  let w := tyWidth ty
  let pos := b % 256
  let len := min (b / 256 % 256) w
  (List.range w).foldl (fun r i =>
    r + (if (if pos ≤ i ∧ i < pos + len then bitOf a (i - pos) else bitOf c i) then 2 ^ i else 0)) 0

def execBfx (w : FmtAX) (s : State) := shiftWord s w (fun _ a b => bfx w.ty.toNat a b)

def execBfi (w : FmtAX) (s : State) : Host.Outcome State Fault Refusal :=
  let ty := w.ty.toNat
  laneWord s (plainSpec w.g [srcOf 0 w.a (nTy ty), srcOf 1 w.b 1, srcOf 2 w.c (nTy ty)]) (perLane fun s x l =>
    outInt ty l w.d.toNat (bfi ty (readTy s x w.a ty l) (readN s x w.b l) (readTy s x w.c ty l)))

/-- One result byte of BMIX (R161). -/
def bmixByte (xs : Nat) (f : Nat) : Nat :=
  let x := xs / 2 ^ (8 * (f % 8)) % 256
  let y := match f / 8 % 4 with
    | 0 => x
    | 1 => revBits 8 x
    | 2 => 0
    | _ => if bitOf x 7 then 255 else 0
  if bitOf f 5 then 255 - y else y

def bmix (a b c : Nat) : Nat :=
  (List.range 4).foldl (fun r i => r + bmixByte (a + 2 ^ 32 * b) (c / 2 ^ (6 * i) % 64) * 2 ^ (8 * i)) 0

def execBmix (w : FmtAX) (s : State) : Host.Outcome State Fault Refusal :=
  laneWord s (plainSpec w.g [srcOf 0 w.a 1, srcOf 1 w.b 1, srcOf 2 w.c 1]) (perLane fun s x l =>
    outV l w.d.toNat (wordOf (bmix (readN s x w.a l) (readN s x w.b l) (readN s x w.c l))))

/-- ISAT (R162): MOD bit 0 a signed source, bit 1 a 64-bit one. -/
def execIsat (w : FmtAX) (s : State) : Host.Outcome State Fault Refusal :=
  let src := (if w.md.getLsbD 0 then 2 else 6) + (if w.md.getLsbD 1 then 1 else 0)
  laneWord s (plainSpec w.g [srcOf 0 w.a (nTy src)]) (perLane fun s x l =>
    outInt w.ty.toNat l w.d.toNat (intResult w.ty.toNat true (tyVal s x w.a src l)))

/-! ## Compare and select (R163) -/

def execVcmp (w : FmtAX) (s : State) : Host.Outcome State Fault Refusal :=
  let ty := w.ty.toNat
  laneWord s (plainSpec w.g (srcs2 w)) (perLane fun s x l =>
    outP l w.d.toNat (iCond w.md.toNat (tyVal s x w.a ty l) (tyVal s x w.b ty l)))

def execVsel (w : FmtAX) (s : State) : Host.Outcome State Fault Refusal :=
  let ty := w.ty.toNat
  laneWord s (plainSpec w.g (srcs2 w)) (perLane fun s x l =>
    outInt ty l w.d.toNat (readTy s x (if readP x w.c l then w.a else w.b) ty l))

/-! ## Predicates (R140) -/

def pred2 (s : State) (w : FmtA) (op : Bool → Bool → Bool) : Host.Outcome State Fault Refusal :=
  laneWord s (plainSpec w.g []) (perLane fun _ x l => outP l w.d.toNat (op (readP x w.a l) (readP x w.b l)))

def execPand (w : FmtA) (s : State) := pred2 s w (fun a b => a && b)
def execPor (w : FmtA) (s : State) := pred2 s w (fun a b => a || b)
def execPxor (w : FmtA) (s : State) := pred2 s w (fun a b => xor a b)
def execPnot (w : FmtA) (s : State) : Host.Outcome State Fault Refusal :=
  laneWord s (plainSpec w.g []) (perLane fun _ x l => outP l w.d.toNat (!readP x w.a l))
def execPmov (w : FmtA) (s : State) : Host.Outcome State Fault Refusal :=
  laneWord s (plainSpec w.g []) (perLane fun _ x l => outP l w.d.toNat (readP x w.a l))

/-- Lanes of ACTIVE in which A holds. -/
def holdLanes (x : Ctx) (a : Fld) : LMask := maskOf (fun l => hasLane x.act l && readP x a l)

/-- A word that looks at all lanes of ACTIVE; it always goes to the replay queue (R130). -/
def crossSpec (g : BitVec 3) (srcs : List Src) : LaneSpec := { plainSpec g srcs with queue := true }

def execPany (w : FmtA) (s : State) : Host.Outcome State Fault Refusal :=
  laneWord s (crossSpec w.g []) (perLane fun _ x l => outP l w.d.toNat (holdLanes x w.a != 0))
def execPall (w : FmtA) (s : State) : Host.Outcome State Fault Refusal :=
  laneWord s (crossSpec w.g []) (perLane fun _ x l => outP l w.d.toNat (holdLanes x w.a == x.act))
def execPcnt (w : FmtA) (s : State) : Host.Outcome State Fault Refusal :=
  laneWord s (crossSpec w.g []) (perLane fun _ x l => outV l w.d.toNat (wordOf (popCount (holdLanes x w.a))))
def execPset (w : FmtA) (s : State) : Host.Outcome State Fault Refusal :=
  laneWord s (plainSpec w.g [srcOf 0 w.a 1]) (perLane fun s x l => outP l w.d.toNat (bitOf (readN s x w.a l) l))
def execBallot (w : FmtA) (s : State) : Host.Outcome State Fault Refusal :=
  laneWord s (crossSpec w.g []) (perLane fun _ x l => outV l w.d.toNat (wordOf (holdLanes x w.a).toNat))

/-! ## Moves (R164, R165) -/

def execMov (w : FmtA) (s : State) : Host.Outcome State Fault Refusal :=
  laneWord s (plainSpec w.g [srcOf 0 w.a 1]) (perLane fun s x l => outV l w.d.toNat (wordOf (readN s x w.a l)))
def execMovi (w : FmtI) (s : State) : Host.Outcome State Fault Refusal :=
  laneWord s (plainSpec w.g []) (perLane fun _ _ l => outV l w.d.toNat (wordOfInt (toSigned 16 w.imm.toNat)))

/-- Window byte a MOVS position reaches, directly or through a view; none where it reads as zero. -/
def movsByte (x : Ctx) (b : BitVec 8) (o : Nat) : Option Nat :=
  let win := if b = 0 then (if o < 4 * x.l.vcount then some o else none)
    else
      let v := x.l.vw.getD (b.toNat - 4) 0
      if o < viewBytes v then some (viewOffset v o) else none
  win.bind (fun k => if k < 4 * x.l.vcount then some k else none)

/-- The registers that the bytes of a MOVS come from, as sources, in the lane. -/
def movsRegs (s : State) (x : Ctx) (w : FmtA) (l : Nat) : List Nat :=
  (List.range 4).filterMap (fun i => (movsByte x w.b.code (readN s x w.a l + i)).map (fun k => k / 4))

def movsVal (s : State) (x : Ctx) (w : FmtA) (l : Nat) : Nat :=
  (List.range 4).foldl (fun r i =>
    r + (match movsByte x w.b.code (readN s x w.a l + i) with
      | none => 0
      | some k => (getV x.g (k / 4) l).val.toNat / 2 ^ (8 * (k % 4)) % 256) * 2 ^ (8 * i)) 0

/-- MOVS reads poison both in A and in the window (R200). -/
def execMovs (w : FmtA) (s : State) : Host.Outcome State Fault Refusal :=
  withCtx s w.g fun x =>
    withSources s x [srcOf 0 w.a 1] fun s =>
      let bad := fun l => (movsRegs s x w l).find? (fun n => (getV x.g n l).poison)
      let m := maskOf (fun l => hasLane x.act l && hasLane x.g.counted l && (bad l).isSome)
      if m = 0 then
        let outs := perLane (fun s x l => outV l w.d.toNat (wordOf (movsVal s x w l))) s x
        checkedWord s x false (replayEntry s x [srcOf 0 w.a 1] outs) fun s => laneFinish s x (plainSpec w.g []) outs
      else if predicted x then stopSide s x.c
      else if isChecked x.l then rollback s x.w.id 6
      else raise s x { Trap.at x.c .memoryPoison 0 m with info := ((lowestLane m).bind bad).getD 0 + 256 * 3 }

/-! ## Exchanges (R166, R167) -/

/-- The value lane `src` gives: its register where its quad is in the gang, else zero. -/
def exchVal (x : Ctx) (a : Fld) (src : Nat) : Word :=
  if hasQuad x.c.quads (src / 4) then (getV x.g a.code.toNat src).val else 0

/-- An exchange word, whose source lanes' slots are its sources. -/
def exchWord (s : State) (w : FmtA) (withB : Bool) (src : State → Ctx → Nat → Nat) : Host.Outcome State Fault Refusal :=
  withCtx s w.g fun x =>
    withSources s x (if withB then [srcOf 1 w.b 1] else []) fun s =>
      let bad := fun l => hasQuad x.c.quads (src s x l / 4) && (getV x.g w.a.code.toNat (src s x l)).poison
      let m := maskOf (fun l => hasLane x.act l && hasLane x.g.counted l && bad l)
      if m = 0 then
        let outs := perLane (fun s x l => outV l w.d.toNat (exchVal x w.a (src s x l))) s x
        checkedWord s x true (replayEntry s x [srcOf 0 w.a 1, srcOf 1 w.b 1] outs) fun s => laneFinish s x (crossSpec w.g []) outs
      else if predicted x then stopSide s x.c
      else if isChecked x.l then rollback s x.w.id 6
      else raise s x { Trap.at x.c .memoryPoison 0 m with info := w.a.code.toNat }

def execQswp (w : FmtA) (s : State) := exchWord s w false (fun _ _ l => Nat.xor l (w.b.code.toNat % 4))
def execQbc (w : FmtA) (s : State) := exchWord s w true (fun s x l => 4 * (l / 4) + readUN s x w.b % 4)
def execGshf (w : FmtA) (s : State) := exchWord s w true (fun s x l => (((l : Int) + toSigned 32 (readUN s x w.b)) % 16).toNat)
def execGbc (w : FmtA) (s : State) := exchWord s w true (fun s x _ => readUN s x w.b % 16)
def execRdln (w : FmtA) (s : State) := exchWord s w true (fun s x l => readN s x w.b l % 16)

/-- WRLN: each lane of ACTIVE takes the value of its highest-numbered sender (R167). -/
def execWrln (w : FmtA) (s : State) : Host.Outcome State Fault Refusal :=
  laneWord s (crossSpec w.g [srcOf 0 w.a 1, srcOf 1 w.b 1]) (fun s x =>
    (lanesOf x.act).map (fun t =>
      match ((lanesOf x.act).filter (fun k => readN s x w.b k % 16 == t)).reverse with
      | [] => outNone t
      | k :: _ => outV t w.d.toNat (getV x.g w.a.code.toNat k).val))

/-! ## Reductions and scans (R152, R169) -/

/-- Combine two values of a type: MOD 0 add, 1 min, 2 max, 3 and, 4 or, 5 xor. -/
def redOp (ty md rnd : Nat) (a b : Nat) : Nat :=
  if tyInt ty then
    let x := intVal ty a
    let y := intVal ty b
    match md with
    | 0 => wrapNat (tyWidth ty) (x + y)
    | 1 => if y < x then b else a
    | 2 => if x < y then b else a
    | 3 => Nat.land a b
    | 4 => Nat.lor a b
    | _ => Nat.xor a b
  else
    match md with
    | 0 => (fAdd ty rnd false (fDecode ty a) (fDecode ty b)).bits
    | 1 => (fMinMax ty false false (fDecode ty a) (fDecode ty b)).bits
    | _ => (fMinMax ty false true (fDecode ty a) (fDecode ty b)).bits

/-- A source of a reduction: after ABS and NEG, a NaN made canonical (R169). -/
def redSrc (s : State) (x : Ctx) (w : FmtAX) (l : Nat) : Nat :=
  let ty := w.ty.toNat
  if tyInt ty then readTy s x w.a ty l
  else (deliver ty 0 false (exOf (fMod (w.neg.getLsbD 0) (w.abs.getLsbD 0) (fDecode ty (readFlt x w.a ty l)))) false false).bits

/-- Running values over the lanes of ACTIVE in ascending order. -/
def runScan (op : Nat → Nat → Nat) : Option Nat → List (Nat × Nat) → List (Nat × Nat)
  | _, [] => []
  | none, (l, v) :: r => (l, v) :: runScan op (some v) r
  | some a, (l, v) :: r => (l, op a v) :: runScan op (some (op a v)) r

def scanVals (s : State) (x : Ctx) (w : FmtAX) : List (Nat × Nat) :=
  runScan (redOp w.ty.toNat w.md.toNat w.rnd.toNat) none ((lanesOf x.act).map (fun l => (l, redSrc s x w l)))

def redOut (ty l d v : Nat) : LaneOut := if tyInt ty then outInt ty l d v else outFlt ty l d v

def execGscn (w : FmtAX) (s : State) : Host.Outcome State Fault Refusal :=
  laneWord s (crossSpec w.g [srcOf 0 w.a (nTy w.ty.toNat)]) (fun s x =>
    (scanVals s x w).map (fun e => redOut w.ty.toNat e.1 w.d.toNat e.2))

def execGred (w : FmtAX) (s : State) : Host.Outcome State Fault Refusal :=
  laneWord s (crossSpec w.g [srcOf 0 w.a (nTy w.ty.toNat)]) (fun s x =>
    match (scanVals s x w).reverse with
    | [] => []
    | e :: _ => (lanesOf x.act).map (fun l => redOut w.ty.toNat l w.d.toNat e.2))

end Sys2Proof.Machine
end

