-- ==== Sys2Proof/Machine/Outside.lean ====
section
/-! DEFINITION. What reaches the device from outside: shootdowns (R194), companion and peer accesses (R297, R298), checkpoint streams
(R365, R366), peer links and their loss (R369-R371), and errors that the hardware finds (R200, R234, R284, R336). -/
namespace Sys2Proof.Machine

/-! ## Shootdowns (R194) -/

/-- A range of virtual addresses meets another. -/
def rangesMeet (lo hi a n : Nat) : Bool := decide (a < hi) && decide (lo < a + n)

/-- Bytes that a TLB entry translates. -/
def entrySpan (e : TlbEntry) : Nat := 2 ^ coverBits e.kind

/-- The piece may still use the old translation: it is to be performed, or stands in an interval's buffer up to the commit (R194,
R330). -/
def usesOld (o : Op) (a : Acc) : Bool := a.st == .todo || (a.st == .performed && o.kind != .load && !o.ret)

/-- An access may use an entry that the shootdown dropped, or a call that has not ended its page, AUX or program words (R282). -/
def shootHeld (s : State) (k : Shoot) : Bool :=
  s.wgs.any (fun w => (match findLaunch s w.launch with | some l => l.part == k.part | none => false)
    && w.groups.any (fun g => g.ops.any (fun o => decide (o.id < k.mark) && o.accs.any (fun a =>
      usesOld o a && isGlobal a.loc && rangesMeet k.lo k.hi a.va a.len))))
  || s.calls.any (fun c => c.part == k.part && decide (c.id < k.mark) && (c.st == .locked || c.st == .queued || c.st == .running || c.st == .ending)
    && ((c.page != 0 && rangesMeet k.lo k.hi c.page.toNat (2 ^ 21)) || c.auxPa.any (fun e => rangesMeet k.lo k.hi (e.1 * 65536) 65536)
      || (List.range c.prog.length).any (fun j => rangesMeet k.lo k.hi (blockVa c (64 + 4 * j)) 4)))

/-- Shootdowns that nothing holds any longer are answered DONE. -/
def settleShoots (s : State) : State :=
  if s.shoots.isEmpty then s
  else
    let fini := s.shoots.filter (fun k => !shootHeld s k)
    fini.foldl (fun s k => send s (replyMsg k.cls 0x31 k.part k.seq.toNat 0 0)) { s with shoots := s.shoots.filter (shootHeld s) }

/-- SHOOTDOWN: entries over a range are dropped on every die; the reply waits for the accesses that used them. -/
def execShootdown (s : State) : Host.Outcome State Fault Refusal :=
  let part := req s 1 1
  let lo := req s 8 8
  let n := req s 0x10 8
  .next (if !linkUp s || s.arg.msg.bytes.length != 32 || req s 0 1 != 0x31 then s
  else if (findPart s part).isNone then answer s 8 0
  else if req s 4 4 != 0 || req s 0x18 8 != 0 || lo % 65536 != 0 || n % 65536 != 0 || n == 0 || s.arg.msg.cls != 0 then answer s 3 0
  else settleShoots { s with
    dies := s.dies.map (fun (d : Die) => { tlb := d.tlb.filter (fun e => !(e.part == part && rangesMeet lo (lo + n) e.va (entrySpan e))) }),
    shoots := s.shoots ++ [{ mark := s.nextId, part := part, seq := BitVec.ofNat 16 (req s 2 2), cls := s.arg.msg.cls, lo := lo, hi := lo + n }] })

/-! ## Checkpoint streams (R365, R366) -/

def execCheckpoint (s : State) : Host.Outcome State Fault Refusal :=
  let part := req s 1 1
  let lo := req s 8 8
  let n := req s 0x10 8
  .next (if !linkUp s || s.arg.msg.bytes.length != 32 || req s 0 1 != 0x61 then s
  else match findPart s part with
    | none => answer s 8 0
    | some p =>
      if req s 4 4 != 0 || lo % 65536 != 0 || n % 65536 != 0 || n == 0 || req s 0x18 8 % 64 != 0 || s.arg.msg.cls != 3 then answer s 3 0
      else if p.ckpt.isSome then answer s 6 0
      else modPart s part (fun p => { p with
        ckpt := some { seq := BitVec.ofNat 16 (req s 2 2), va := lo, len := n, dst := req s 0x18 8, moved := 0, poisoned := 0 } }))

/-- What the next sector of a stream comes to. -/
inductive CkptRes where
  | moved (s : State)
  | stall (s : State)
  /-- The stream is over: reply code and value. -/
  | fini (s : State) (code value : Nat)

/-- The next 64-byte sector of a partition's stream; a peer's bytes are free values. -/
def ckptSector (s : State) (part : Nat) (k : Ckpt) : CkptRes :=
  let va := k.va + k.moved
  if k.len ≤ k.moved then .fini s 0 k.poisoned
  else match translate s (unitDie s part) part va with
  | (none, s1) => .fini s1 10 va
  | (some p, s1) =>
    if p.peer.isNone && stalledFor s1 3 p.pa then .stall s1
    else
      let s1 := if p.peer.isNone then yieldServe s1 [p.pa] else s1
      let bad := p.peer.isNone && sectorBad s1 p.pa
      let bs := if bad then natToBytes 64 0
        else if p.peer.isSome then (List.range 64).map (fun i => BitVec.ofNat 8 (Config.freeWord (s1.freeCtr + i)).toNat)
        else memBytes s1 p.pa 64
      let s2 := compWrite { s1 with freeCtr := s1.freeCtr + 64 } (k.dst + k.moved) bs
      let s3 := if bad then { s2 with compPoison := smPutList s2.compPoison (k.dst + k.moved) (List.replicate 64 true) false } else s2
      .moved (modPart s3 part (fun p => { p with ckpt := some { k with moved := k.moved + 64, poisoned := k.poisoned + (if bad then 1 else 0) } }))

/-- Up to `n` sectors of a stream; at its end, its reply if `finish`. -/
def ckptGo (part : Nat) (finish : Bool) : Nat → State → State
  | 0, s => s
  | n + 1, s => match (findPart s part).bind Partition.ckpt with
    | none => s
    | some k => match ckptSector s part k with
      | .moved s1 => ckptGo part finish n s1
      | .stall s1 => s1
      | .fini s1 code value =>
        if finish then send (modPart s1 part (fun p => { p with ckpt := none })) (replyMsg 3 0x61 part k.seq.toNat code value) else s1

/-- CHECKPOINT_END: what is left of partition `a`'s stream is moved, and the reply sent. -/
def execCheckpointEnd (s : State) : Host.Outcome State Fault Refusal :=
  .next (match (findPart s s.arg.a).bind Partition.ckpt with
  | none => s
  | some k => ckptGo s.arg.a true ((k.len - k.moved) / 64 + 1) s)

/-! ## Peers (R369-R371) -/

/-- A piece that a peer out of reach completes: an access in flight (R370 step 2). -/
def lostAcc (s : State) (part : Nat) (o : Op) (a : Acc) : Bool :=
  match a.loc with
  | .peer k _ => peerGone s part k && (a.st == .todo || (a.st == .performed && (o.kind == .load || o.ret)))
  | _ => false

/-- One operation's accesses to a lost peer complete with PEER_LOST. -/
def loseOp (part launch wg grp : Nat) (s : State) (o : Op) : State :=
  if !o.accs.any (lostAcc s part o) then s
  else if o.kind == .load || o.ret then
    let hit := lostAcc s part o
    deliverWhere (fun a => isPeer a.loc) (modOp s wg grp o.id (fun o => { o with accs := o.accs.map (fun a =>
      if hit a then { a with got := List.replicate a.len (0, true), st := .performed } else a) })) wg grp o.id
  else
    let s1 := o.accs.foldl (fun s a => match a.loc with | .peer k _ => if lostAcc s part o a then noteDrop s launch k a.va else s | _ => s) s
    finishOps (modOp s1 wg grp o.id (fun o => { o with accs := o.accs.map (fun a => if lostAcc s part o a then { a with st := .done } else a) })) wg grp

/-- Accesses in flight to peers out of reach complete. -/
def sweepPeers (s : State) : State :=
  if s.parts.all (fun e => e.2.lost == 0) then s
  else s.wgs.foldl (fun s w => match findLaunch s w.launch with
    | none => s
    | some l => (List.range w.groups.length).foldl (fun s i => match findGrp s w.id i with
      | none => s
      | some g => g.ops.foldl (loseOp l.part l.id w.id i) s) s) s

/-- A peer of a partition becomes LOST, and its remote entries are dropped on every die (R370 step 1). -/
def losePeer (s : State) (part k : Nat) : State :=
  { modPart s part (fun p => { p with lost := p.lost ||| BitVec.ofNat 8 (2 ^ k) }) with
    dies := s.dies.map (fun (d : Die) => { tlb := d.tlb.filterMap (fun e => if e.part = part then dropLeaves (fun _ _ f => match f.peer with | some x => x.1 == k | none => false) e else some e) }) }

/-- Links fail; every peer that has no link left is lost. -/
def failLinks (s : State) (m : BitVec 8) : State :=
  let s1 := { s with links := (List.range s.links.length).map (fun i =>
    let x := s.links.getD i { up := false, inc := 0 }
    if m.getLsbD i then { x with up := false } else x) }
  sweepPeers ((s.parts.flatMap (fun e => (List.range 8).map (fun k => (e.1, k)))).foldl (fun s e =>
    match (findPart s e.1).bind (fun p => (p.peers[e.2]?).map (fun b => (p.lost.getLsbD e.2, b))) with
    | some (lost, b) => if b.valid && !lost && linksDown s b then losePeer s e.1 e.2 else s
    | none => s) s1)

/-- PEER_LINK_UP: link `a` trains, its peer advertising incarnation `b`. -/
def execPeerLinkUp (s : State) : Host.Outcome State Fault Refusal :=
  .next (if s.boot == .off then s
  else { s with links := modifyAt s.links s.arg.a (fun (x : Link) => if x.up then x else { up := true, inc := s.arg.b % 2 ^ 32 }) })

/-- PEER_LINK_DOWN: link `a` fails; traffic goes on over the other links of its peer. -/
def execPeerLinkDown (s : State) : Host.Outcome State Fault Refusal := .next (failLinks s (BitVec.ofNat 8 (2 ^ s.arg.a)))

/-- PEER_LOSS: peer `b` of partition `a` resets, powers down or loses its last link. -/
def execPeerLoss (s : State) : Host.Outcome State Fault Refusal :=
  .next (match (findPart s s.arg.a).bind (fun p => p.peers[s.arg.b]?) with
  | some b => if b.valid then failLinks s b.links else s
  | none => s)

/-- PEER_UP: the companion names the incarnation that a LOST peer now advertises on a trained link (R371). -/
def execPeerUp (s : State) : Host.Outcome State Fault Refusal :=
  let part := req s 1 1
  let k := req s 8 1
  .next (if !linkUp s || s.arg.msg.bytes.length != 32 || req s 0 1 != 0x71 then s
  else match (findPart s part).bind (fun p => p.peers[k]?) with
    | none => answer s 3 0
    | some b =>
      if req s 4 4 != 0 || req s 9 3 != 0 || req s 0x10 16 != 0 || s.arg.msg.cls != 0 || !b.valid
          || !((List.range 8).any (fun i => b.links.getLsbD i && match s.links[i]? with | some x => x.up && x.inc == req s 0xC 4 | none => false)) then
        answer s 3 0
      else answer (modPart s part (fun p => { p with lost := p.lost &&& ~~~(BitVec.ofNat 8 (2 ^ k)) })) 0 0)

/-! ## Accesses from outside (R297, R298) -/

/-- Device memory answers: it is initialised, from step 7 on (R35, log 133), and the bytes exist. -/
def inMemory (s : State) (pa n : Nat) : Bool := (s.boot == .waitMap || step8 s) && decide (pa + n ≤ physTop)

/-- The bytes stand in no repair window and under no rod's open row, for an access of the class it came in (R367). -/
def reachable (s : State) (pa n : Nat) : Bool :=
  inMemory s pa n && !rangeStalled (stalledFor s s.arg.msg.cls.toNat) pa n && yieldRoom s s.arg.msg.cls.toNat (rangePas pa n)

/-- The access reaches its bytes. -/
def touchRange (s : State) (pa n : Nat) : State := yieldServe s (rangePas pa n)

/-- COMPANION_WRITE: bytes at physical address `a` take their place in T. -/
def execCompanionWrite (s : State) : Host.Outcome State Fault Refusal :=
  .next (if reachable s s.arg.a s.arg.bytes.length then memWrite (touchRange s s.arg.a s.arg.bytes.length) s.arg.a s.arg.bytes else s)

/-- Bytes of a save image that the spec lays out nowhere are free values when read (R323). -/
def outsideRead (s : State) (pa n : Nat) : List (Byte × Bool) :=
  let t := putImages s
  (List.range n).map (fun i =>
    if imageHidden s (pa + i) then (BitVec.ofNat 8 (Config.freeWord (s.freeCtr + i)).toNat, sectorBad t (pa + i)) else (memByte t (pa + i), sectorBad t (pa + i)))

/-- COMPANION_READ: `b` bytes from physical address `a`, as T holds them. -/
def execCompanionRead (s : State) : Host.Outcome State Fault Refusal :=
  .next (if reachable s s.arg.a s.arg.b then
    let s1 := touchRange s s.arg.a s.arg.b
    { s1 with answers := s1.answers ++ [(0, outsideRead s1 s.arg.a s.arg.b)], freeCtr := s1.freeCtr + s.arg.b }
  else s)

/-- PEER_ACCESS: an access of a peer package on link `a` is performed here; a read or atomic returns bytes. -/
def execPeerAccess (s : State) : Host.Outcome State Fault Refusal :=
  let k := s.arg.a
  let ret := fun (s : State) (bs : List (Byte × Bool)) => { s with answers := s.answers ++ [(k + 1, bs)] }
  .next (if !(match s.links[k]? with | some x => x.up | none => false) then s
  else match s.arg.req with
    | .read pa n => if reachable s pa n then (let s1 := touchRange s pa n; ret { s1 with freeCtr := s1.freeCtr + n } (outsideRead s1 pa n)) else s
    | .write pa bs => if reachable s pa bs.length then memWrite (touchRange s pa bs.length) pa bs else s
    | .atomic aop w pa d c =>
      if !reachable s pa w then s
      else
        let s := touchRange s pa w
        let old := memRead s pa w
        ret (if anyBad old then s else memWrite s pa (atomNew aop.toNat w (old.map Prod.fst) (natToBytes w d.toNat ++ natToBytes w c.toNat))) old)

/-! ## Errors that the hardware finds -/

/-- A result with every bit wrong. -/
def flipOut (o : LaneOut) : LaneOut := { o with v := o.v.map (fun e => (e.1, ~~~e.2)), p := o.p.map (fun e => (e.1, !e.2)) }

/-- A workgroup that stands on a core. -/
def strikeWg (s : State) (wg : Nat) (f : Workgroup → State) : State :=
  match findWg s wg with
  | some w => if isSaved w || w.retired then s else f w
  | none => s

/-- A sector cannot be corrected: it is poisoned, and its row's repair is due (R284, R287). -/
def sectorLost (s : State) (pa : Nat) : State :=
  let p := placeOf s pa
  modStack { s with memPoison := smPutList s.memPoison (pa / 64 * 64) (List.replicate 64 true) false } p.stack (rowDue p.pch p.bank p.row)

/-- What the decoder finds when a sector is read: the distinct wrong bytes of its 68, up to two corrected and counted; more leave it
poisoned (R284, R287; log 100). -/
def sectorHit (s : State) (pa : Nat) (bytes : List Nat) (lane : Option Nat) : State :=
  let n := (dedupNat (bytes.filter (fun b => decide (b < 68)))).length
  let p := placeOf s pa
  if physTop ≤ pa ∨ n = 0 then s
  else if 2 < n then sectorLost s pa
  else modStack s p.stack (fun k => match lane with
    | some l => countLane (now s) p l (countSector (now s) p k)
    | none => countSector (now s) p k)

/-- An upset strikes. -/
def upset (s : State) (u : Upset) : State :=
  match u with
  | .coreCorrected core => monEvent s core
  | .l1Uncorrectable core => monEvent s core
  | .regUncorrectable wg grp n l => strikeWg s wg (fun w => hitSlot s w grp n l)
  | .sclUncorrectable wg grp n => strikeWg s wg (fun w => hitScl s w grp n)
  | .winUncorrectable wg boff => strikeWg s wg (fun w => if 32768 * w.ns ≤ boff then s else hitWin s w boff)
  | .tileUncorrectable wg bank byte => strikeWg s wg (fun _ => tileError s wg bank byte)
  | .accUncorrectable wg bank key => strikeWg s wg (fun w => hitCore (modBank s wg bank (fun b => { b with accPoison := smPut b.accPoison key true false })) w)
  | .residueWrong wg bank key => strikeWg s wg (fun _ => hitResidue s wg bank key)
  | .dotWrong wg bank key => strikeWg s wg (fun _ => dotError s wg bank key)
  | .replayWrong core => modCore s core (fun k => { k with replayQ := match k.replayQ with
      | [] => []
      | e :: r => { e with again := e.again.map flipOut } :: r })
  | .mismatch wg t => (match (findWg s wg).bind Workgroup.chk with
    | some _ => if t == 1 || t == 3 || t == 4 then rollback s wg t else s
    | none => s)
  | .snapUncorrectable wg => strikeWg s wg (fun w => if w.chk.isNone then s else
      hitCore (modWg s wg (fun w => { w with chk := w.chk.map (fun c => { c with snapPoison := true }) })) w)
  | .logUncorrectable wg => strikeWg s wg (fun w => if w.chk.all (fun c => c.stLog.isEmpty && c.accLog.isEmpty) then s else
      hitCore (modWg s wg (fun w => { w with chk := w.chk.map (fun c => { c with logPoison := true }) })) w)
  | .saveUncorrectable wg off => strikeWg s wg (fun w => if w.place != .saving then s else
      hitCore (modWg s wg (fun w => { w with saveBad := off :: w.saveBad })) w)
  | .moveUncorrectable wg => modWg s wg (fun w => if evacPaused s w.lcore && w.place == .live then { w with moveBad := true } else w)
  | .sectorError pa bytes lane => sectorHit s pa bytes lane

/-! ## After a step -/

/-- Groups with pieces that wait for the operand log or for their replay go on as far as they can (R195, R351). -/
def settleLogs (s : State) : State :=
  s.wgs.foldl (fun s w => (List.range w.groups.length).foldl (fun s k =>
    if (w.groups[k]?).any (fun g => g.ops.any (fun o => o.accs.any (fun a => a.st == .resolved || a.st == .unlogged))) then replayGrp s w.id k else s) s) s

/-- What follows of itself once a step is over: accesses to lost peers complete, held accesses and logged writes of calls go on,
barriers whose last member has arrived are released, shootdowns that wait are answered. -/
def settleAll (s : State) : State := settleShoots (barriersAll (retryCalls (settleLogs (sweepPeers s))))

end Sys2Proof.Machine
end

