-- ==== Sys2Proof/Machine/Scl.lean ====
section
/-! DEFINITION. The SCL words (R181-R185), but SLD, which stands with the memory words. -/
namespace Sys2Proof.Machine

/-- An SCL word: nothing with ACTIVE empty, else its result written once for the group (R181). -/
def sclIssue (s : State) (g : BitVec 3) (srcs : List Src) (f : State → Ctx → Group → Group) : Host.Outcome State Fault Refusal :=
  withCtx s g fun x =>
    if x.act = 0 then advance s x.c
    else withSources s x srcs fun s => modGrp s x.c.wg x.c.grp (fun grp => advanceGrp x.c (f s x grp))

/-- Write a result of a type to scalar d, or its even pair. -/
def putScl (ty d r : Nat) (g : Group) : Group := if tyPair ty then putSPair g d r else putS g d (wordOf r)

/-- A scalar word of two sources in TYPE whose result is an integer to reduce (R155, R182). -/
def sclBin (s : State) (w : FmtAX) (op : Int → Int → Int) : Host.Outcome State Fault Refusal :=
  let ty := w.ty.toNat
  sclIssue s w.g (srcs2 w) fun s x g =>
    let r := op (tyVal s x w.a ty 0) (tyVal s x w.b ty 0)
    if w.wide then putSPair g w.d.toNat (wrapNat 64 r) else putScl ty w.d.toNat (intResult ty w.sat r) g

/-- A scalar shift (R159, R182). -/
def sclShift (s : State) (w : FmtAX) (op : Nat → Nat → Nat → Nat) : Host.Outcome State Fault Refusal :=
  let ty := w.ty.toNat
  sclIssue s w.g [srcOf 0 w.a (nTy ty), srcOf 1 w.b 1] fun s x g =>
    putScl ty w.d.toNat (op (tyWidth ty) (readTy s x w.a ty 0) (readN s x w.b 0)) g

/-- A scalar bitwise word. -/
def sclBit (s : State) (w : FmtA) (op : Word → Word → Word) : Host.Outcome State Fault Refusal :=
  sclIssue s w.g [srcOf 0 w.a 1, srcOf 1 w.b 1] fun s x g =>
    putS g w.d.toNat (op (wordOf (readUN s x w.a)) (wordOf (readUN s x w.b)))

def execSadd (w : FmtA) (s : State) := sclBin s (axOf w 2) (fun a b => a + b)
def execSaddAx (w : FmtAX) (s : State) := sclBin s w (fun a b => a + b)
def execSsub (w : FmtA) (s : State) := sclBin s (axOf w 2) (fun a b => a - b)
def execSsubAx (w : FmtAX) (s : State) := sclBin s w (fun a b => a - b)
def execSmul (w : FmtA) (s : State) := sclBin s (axOf w 2) (fun a b => a * b)
def execSmulAx (w : FmtAX) (s : State) := sclBin s w (fun a b => a * b)
def execSmin (w : FmtA) (s : State) := sclBin s (axOf w 2) (fun a b => if b < a then b else a)
def execSminAx (w : FmtAX) (s : State) := sclBin s w (fun a b => if b < a then b else a)
def execSmax (w : FmtA) (s : State) := sclBin s (axOf w 2) (fun a b => if a < b then b else a)
def execSmaxAx (w : FmtAX) (s : State) := sclBin s w (fun a b => if a < b then b else a)
def execSand (w : FmtA) (s : State) := sclBit s w (fun a b => a &&& b)
def execSor (w : FmtA) (s : State) := sclBit s w (fun a b => a ||| b)
def execSxor (w : FmtA) (s : State) := sclBit s w (fun a b => a ^^^ b)
def execSshl (w : FmtA) (s : State) := sclShift s (axOf w 2) shiftLeft
def execSshlAx (w : FmtAX) (s : State) := sclShift s w shiftLeft
def execSshr (w : FmtA) (s : State) := sclShift s (axOf w 2) shiftRight
def execSshrAx (w : FmtAX) (s : State) := sclShift s w shiftRight
def execSsar (w : FmtA) (s : State) := sclShift s (axOf w 2) shiftArith
def execSsarAx (w : FmtAX) (s : State) := sclShift s w shiftArith

/-- SCMP: 1 or 0 (R183). -/
def execScmp (w : FmtAX) (s : State) : Host.Outcome State Fault Refusal :=
  let ty := w.ty.toNat
  sclIssue s w.g (srcs2 w) fun s x g =>
    putS g w.d.toNat (if iCond w.md.toNat (tyVal s x w.a ty 0) (tyVal s x w.b ty 0) then 1 else 0)

/-- SSEL: a where c is nonzero, else b (R183). -/
def execSsel (w : FmtAX) (s : State) : Host.Outcome State Fault Refusal :=
  let ty := w.ty.toNat
  sclIssue s w.g (srcs2 w ++ [srcOf 2 w.c 1]) fun s x g =>
    putScl ty w.d.toNat (readTy s x (if readUN s x w.c != 0 then w.a else w.b) ty 0) g

def sclMove (s : State) (w : FmtAX) : Host.Outcome State Fault Refusal :=
  let ty := w.ty.toNat
  sclIssue s w.g [srcOf 0 w.a (nTy ty)] fun s x g => putScl ty w.d.toNat (readTy s x w.a ty 0) g

def execSmov (w : FmtA) (s : State) := sclMove s (axOf w 2)
def execSmovAx (w : FmtAX) (s : State) := sclMove s w
def execSmovi (w : FmtI) (s : State) : Host.Outcome State Fault Refusal :=
  sclIssue s w.g [] fun _ _ g => putS g w.d.toNat (wordOfInt (toSigned 16 w.imm.toNat))

/-- SLDC: the palette word at (a + b) mod 2^32 (R184); a poisoned byte poisons the scalar (R72). -/
def execSldc (w : FmtA) (s : State) : Host.Outcome State Fault Refusal :=
  withCtx s w.g fun x =>
    if x.act = 0 then advance s x.c
    else withSources s x [srcOf 0 w.a 1, srcOf 1 w.b 1] fun s =>
      let o := (readUN s x w.a + readUN s x w.b) % 2 ^ 32 / 4 * 4
      let bs := palRead s x o 4
      let r := if anyBad bs then (let f := freshWord s; (({ val := f.1, poison := true } : Slot), f.2))
        else (({ val := wordOf (bytesToNat (bs.map Prod.fst)), poison := false } : Slot), s)
      modGrp r.2 x.c.wg x.c.grp (fun g => advanceGrp x.c (putSSlot g w.d.toNat r.1))

/-! ## System registers (R185, R316) -/

/-- Threshold of a core's monitor: ERRTHR of the partition, 64 for zero (R32, R346). -/
def errThreshold (p : Partition) : Nat := if p.errthr = 0 then 64 else p.errthr

def sysReg (s : State) (x : Ctx) (n : Nat) : Word :=
  let l := x.l
  match n with
  | 0x00 => l.tag
  | 0x01 => l.lflags
  | 0x02 => wordOf l.gridx
  | 0x03 => wordOf l.gridy
  | 0x04 => wordOf l.gridz
  | 0x05 => wordOf l.threads
  | 0x06 => wordOf l.team
  | 0x07 => wordOf l.part
  | 0x08 => wordOf l.cvb
  | 0x09 => wordOf l.cbanks
  | 0x0A => wordOf l.vcount
  | 0x0B => wordOf l.pallen
  | 0x10 => wordOf x.g.oob.toNat
  | 0x20 => wordOf (monCount s (coreOf s x.w))
  | 0x21 => wordOf (match findPart s l.part with | some p => errThreshold p | none => 64)
  | k => if 0x100 ≤ k then getTrap x.g k else 0

def execSrd (w : FmtI) (s : State) : Host.Outcome State Fault Refusal :=
  sclIssue s w.g [] fun s x g => putS g w.d.toNat (sysReg s x w.imm.toNat)

/-- SWR: SR_OOBSTICKY takes the low half of the scalar the D field names. -/
def execSwr (w : FmtI) (s : State) : Host.Outcome State Fault Refusal :=
  sclIssue s w.g [{ which := 0, code := BitVec.ofNat 8 (0x80 + w.d.toNat), n := 1 }] fun _ _ g =>
    { g with oob := BitVec.ofNat 16 (getS g w.d.toNat).val.toNat }

end Sys2Proof.Machine
end

