-- ==== Sys2Proof/Machine/Dispatch.lean ====
section
/-! DEFINITION. The meaning of every instruction and step: one arm per constructor. -/
namespace Sys2Proof.Machine

def exec (i : Instr) (s : State) : Host.Outcome State Fault Refusal :=
  match i with
  | .iadd w => Sys2Proof.Machine.execIadd w s
  | .iaddc w => Sys2Proof.Machine.execIaddc w s
  | .isub w => Sys2Proof.Machine.execIsub w s
  | .isubb w => Sys2Proof.Machine.execIsubb w s
  | .imul w => Sys2Proof.Machine.execImul w s
  | .imulh w => Sys2Proof.Machine.execImulh w s
  | .imad w => Sys2Proof.Machine.execImad w s
  | .idiv w => Sys2Proof.Machine.execIdiv w s
  | .irem w => Sys2Proof.Machine.execIrem w s
  | .imin w => Sys2Proof.Machine.execImin w s
  | .imax w => Sys2Proof.Machine.execImax w s
  | .iabs w => Sys2Proof.Machine.execIabs w s
  | .ineg w => Sys2Proof.Machine.execIneg w s
  | .and w => Sys2Proof.Machine.execAnd w s
  | .or w => Sys2Proof.Machine.execOr w s
  | .xor w => Sys2Proof.Machine.execXor w s
  | .andn w => Sys2Proof.Machine.execAndn w s
  | .not w => Sys2Proof.Machine.execNot w s
  | .shl w => Sys2Proof.Machine.execShl w s
  | .shr w => Sys2Proof.Machine.execShr w s
  | .sar w => Sys2Proof.Machine.execSar w s
  | .rol w => Sys2Proof.Machine.execRol w s
  | .popc w => Sys2Proof.Machine.execPopc w s
  | .clz w => Sys2Proof.Machine.execClz w s
  | .ctz w => Sys2Proof.Machine.execCtz w s
  | .brev w => Sys2Proof.Machine.execBrev w s
  | .bfx w => Sys2Proof.Machine.execBfx w s
  | .bfi w => Sys2Proof.Machine.execBfi w s
  | .bmix w => Sys2Proof.Machine.execBmix w s
  | .isat w => Sys2Proof.Machine.execIsat w s
  | .vcmp w => Sys2Proof.Machine.execVcmp w s
  | .vsel w => Sys2Proof.Machine.execVsel w s
  | .pand w => Sys2Proof.Machine.execPand w s
  | .por w => Sys2Proof.Machine.execPor w s
  | .pxor w => Sys2Proof.Machine.execPxor w s
  | .pnot w => Sys2Proof.Machine.execPnot w s
  | .pmov w => Sys2Proof.Machine.execPmov w s
  | .pany w => Sys2Proof.Machine.execPany w s
  | .pall w => Sys2Proof.Machine.execPall w s
  | .pcnt w => Sys2Proof.Machine.execPcnt w s
  | .pset w => Sys2Proof.Machine.execPset w s
  | .mov w => Sys2Proof.Machine.execMov w s
  | .movi w => Sys2Proof.Machine.execMovi w s
  | .movs w => Sys2Proof.Machine.execMovs w s
  | .rdln w => Sys2Proof.Machine.execRdln w s
  | .wrln w => Sys2Proof.Machine.execWrln w s
  | .qswp w => Sys2Proof.Machine.execQswp w s
  | .qbc w => Sys2Proof.Machine.execQbc w s
  | .gshf w => Sys2Proof.Machine.execGshf w s
  | .gbc w => Sys2Proof.Machine.execGbc w s
  | .gred w => Sys2Proof.Machine.execGred w s
  | .gscn w => Sys2Proof.Machine.execGscn w s
  | .ballot w => Sys2Proof.Machine.execBallot w s
  | .fadd w => Sys2Proof.Machine.execFadd w s
  | .faddAx w => Sys2Proof.Machine.execFaddAx w s
  | .fmul w => Sys2Proof.Machine.execFmul w s
  | .fmulAx w => Sys2Proof.Machine.execFmulAx w s
  | .ffma w => Sys2Proof.Machine.execFfma w s
  | .fmin w => Sys2Proof.Machine.execFmin w s
  | .fminAx w => Sys2Proof.Machine.execFminAx w s
  | .fmax w => Sys2Proof.Machine.execFmax w s
  | .fmaxAx w => Sys2Proof.Machine.execFmaxAx w s
  | .fdiv w => Sys2Proof.Machine.execFdiv w s
  | .fdivAx w => Sys2Proof.Machine.execFdivAx w s
  | .frcp w => Sys2Proof.Machine.execFrcp w s
  | .frcpAx w => Sys2Proof.Machine.execFrcpAx w s
  | .frsq w => Sys2Proof.Machine.execFrsq w s
  | .frsqAx w => Sys2Proof.Machine.execFrsqAx w s
  | .fsqrt w => Sys2Proof.Machine.execFsqrt w s
  | .fsqrtAx w => Sys2Proof.Machine.execFsqrtAx w s
  | .fexp2 w => Sys2Proof.Machine.execFexp2 w s
  | .fexp2Ax w => Sys2Proof.Machine.execFexp2Ax w s
  | .flog2 w => Sys2Proof.Machine.execFlog2 w s
  | .flog2Ax w => Sys2Proof.Machine.execFlog2Ax w s
  | .fsin w => Sys2Proof.Machine.execFsin w s
  | .fsinAx w => Sys2Proof.Machine.execFsinAx w s
  | .fcos w => Sys2Proof.Machine.execFcos w s
  | .fcosAx w => Sys2Proof.Machine.execFcosAx w s
  | .ftanh w => Sys2Proof.Machine.execFtanh w s
  | .ftanhAx w => Sys2Proof.Machine.execFtanhAx w s
  | .frnd w => Sys2Proof.Machine.execFrnd w s
  | .frndAx w => Sys2Proof.Machine.execFrndAx w s
  | .fscl w => Sys2Proof.Machine.execFscl w s
  | .fsclAx w => Sys2Proof.Machine.execFsclAx w s
  | .fxtr w => Sys2Proof.Machine.execFxtr w s
  | .fxtrAx w => Sys2Proof.Machine.execFxtrAx w s
  | .fcls w => Sys2Proof.Machine.execFcls w s
  | .fclsAx w => Sys2Proof.Machine.execFclsAx w s
  | .fcmp w => Sys2Proof.Machine.execFcmp w s
  | .padd w => Sys2Proof.Machine.execPadd w s
  | .paddAx w => Sys2Proof.Machine.execPaddAx w s
  | .pmul w => Sys2Proof.Machine.execPmul w s
  | .pmulAx w => Sys2Proof.Machine.execPmulAx w s
  | .pfma w => Sys2Proof.Machine.execPfma w s
  | .fdot4 w => Sys2Proof.Machine.execFdot4 w s
  | .cvt w => Sys2Proof.Machine.execCvt w s
  | .cvti w => Sys2Proof.Machine.execCvti w s
  | .cvtm w => Sys2Proof.Machine.execCvtm w s
  | .tmv w => Sys2Proof.Machine.execTmv w s
  | .tmvAx w => Sys2Proof.Machine.execTmvAx w s
  | .sadd w => Sys2Proof.Machine.execSadd w s
  | .saddAx w => Sys2Proof.Machine.execSaddAx w s
  | .ssub w => Sys2Proof.Machine.execSsub w s
  | .ssubAx w => Sys2Proof.Machine.execSsubAx w s
  | .smul w => Sys2Proof.Machine.execSmul w s
  | .smulAx w => Sys2Proof.Machine.execSmulAx w s
  | .sand w => Sys2Proof.Machine.execSand w s
  | .sor w => Sys2Proof.Machine.execSor w s
  | .sxor w => Sys2Proof.Machine.execSxor w s
  | .sshl w => Sys2Proof.Machine.execSshl w s
  | .sshlAx w => Sys2Proof.Machine.execSshlAx w s
  | .sshr w => Sys2Proof.Machine.execSshr w s
  | .sshrAx w => Sys2Proof.Machine.execSshrAx w s
  | .ssar w => Sys2Proof.Machine.execSsar w s
  | .ssarAx w => Sys2Proof.Machine.execSsarAx w s
  | .scmp w => Sys2Proof.Machine.execScmp w s
  | .smov w => Sys2Proof.Machine.execSmov w s
  | .smovAx w => Sys2Proof.Machine.execSmovAx w s
  | .smovi w => Sys2Proof.Machine.execSmovi w s
  | .ssel w => Sys2Proof.Machine.execSsel w s
  | .smin w => Sys2Proof.Machine.execSmin w s
  | .sminAx w => Sys2Proof.Machine.execSminAx w s
  | .smax w => Sys2Proof.Machine.execSmax w s
  | .smaxAx w => Sys2Proof.Machine.execSmaxAx w s
  | .sldc w => Sys2Proof.Machine.execSldc w s
  | .sld w => Sys2Proof.Machine.execSld w s
  | .srd w => Sys2Proof.Machine.execSrd w s
  | .swr w => Sys2Proof.Machine.execSwr w s
  | .ld w => Sys2Proof.Machine.execLd w s
  | .st w => Sys2Proof.Machine.execSt w s
  | .ldx w => Sys2Proof.Machine.execLdx w s
  | .stx w => Sys2Proof.Machine.execStx w s
  | .ldc w => Sys2Proof.Machine.execLdc w s
  | .ldm w => Sys2Proof.Machine.execLdm w s
  | .stm w => Sys2Proof.Machine.execStm w s
  | .atom w => Sys2Proof.Machine.execAtom w s
  | .atomn w => Sys2Proof.Machine.execAtomn w s
  | .red w => Sys2Proof.Machine.execRed w s
  | .atomm w => Sys2Proof.Machine.execAtomm w s
  | .pref w => Sys2Proof.Machine.execPref w s
  | .brec w => Sys2Proof.Machine.execBrec w s
  | .bchk w => Sys2Proof.Machine.execBchk w s
  | .probe w => Sys2Proof.Machine.execProbe w s
  | .rjn w => Sys2Proof.Machine.execRjn w s
  | .cmode w => Sys2Proof.Machine.execCmode w s
  | .cbind w => Sys2Proof.Machine.execCbind w s
  | .czero w => Sys2Proof.Machine.execCzero w s
  | .cmma w => Sys2Proof.Machine.execCmma w s
  | .cmmas w => Sys2Proof.Machine.execCmmas w s
  | .cacc w => Sys2Proof.Machine.execCacc w s
  | .crd w => Sys2Proof.Machine.execCrd w s
  | .cswp w => Sys2Proof.Machine.execCswp w s
  | .cstat w => Sys2Proof.Machine.execCstat w s
  | .cpin w => Sys2Proof.Machine.execCpin w s
  | .cunp w => Sys2Proof.Machine.execCunp w s
  | .cpy w => Sys2Proof.Machine.execCpy w s
  | .cpyw w => Sys2Proof.Machine.execCpyw w s
  | .cpymBox w => Sys2Proof.Machine.execCpymBox w s
  | .cpymTile w => Sys2Proof.Machine.execCpymTile w s
  | .cpys w => Sys2Proof.Machine.execCpys w s
  | .cpyc w => Sys2Proof.Machine.execCpyc w s
  | .sopn w => Sys2Proof.Machine.execSopn w s
  | .sadv w => Sys2Proof.Machine.execSadv w s
  | .stnd w => Sys2Proof.Machine.execStnd w s
  | .scls w => Sys2Proof.Machine.execScls w s
  | .sget w => Sys2Proof.Machine.execSget w s
  | .br w => Sys2Proof.Machine.execBr w s
  | .bru w => Sys2Proof.Machine.execBru w s
  | .bri w => Sys2Proof.Machine.execBri w s
  | .briu w => Sys2Proof.Machine.execBriu w s
  | .call w => Sys2Proof.Machine.execCall w s
  | .calli w => Sys2Proof.Machine.execCalli w s
  | .ret w => Sys2Proof.Machine.execRet w s
  | .loop w => Sys2Proof.Machine.execLoop w s
  | .exit w => Sys2Proof.Machine.execExit w s
  | .nop w => Sys2Proof.Machine.execNop w s
  | .yield w => Sys2Proof.Machine.execYield w s
  | .sleep w => Sys2Proof.Machine.execSleep w s
  | .bkpt w => Sys2Proof.Machine.execBkpt w s
  | .phini w => Sys2Proof.Machine.execPhini w s
  | .phreg w => Sys2Proof.Machine.execPhreg w s
  | .phdrp w => Sys2Proof.Machine.execPhdrp w s
  | .pharr w => Sys2Proof.Machine.execPharr w s
  | .phwt w => Sys2Proof.Machine.execPhwt w s
  | .phwtOut w => Sys2Proof.Machine.execPhwtOut w s
  | .phaw w => Sys2Proof.Machine.execPhaw w s
  | .phexp w => Sys2Proof.Machine.execPhexp w s
  | .phqry w => Sys2Proof.Machine.execPhqry w s
  | .bar w => Sys2Proof.Machine.execBar w s
  | .bart w => Sys2Proof.Machine.execBart w s
  | .bard w => Sys2Proof.Machine.execBard w s
  | .waitf w => Sys2Proof.Machine.execWaitf w s
  | .fence w => Sys2Proof.Machine.execFence w s
  | .mcall w => Sys2Proof.Machine.execMcall w s
  | .waitj w => Sys2Proof.Machine.execWaitj w s
  | .jmskSet w => Sys2Proof.Machine.execJmskSet w s
  | .jmskOr w => Sys2Proof.Machine.execJmskOr w s
  | .jmskClr w => Sys2Proof.Machine.execJmskClr w s
  | .jmskRd w => Sys2Proof.Machine.execJmskRd w s
  | .trap w => Sys2Proof.Machine.execTrap w s
  | .rftRet w => Sys2Proof.Machine.execRftRet w s
  | .rftRetry w => Sys2Proof.Machine.execRftRetry w s
  | .rftSkip w => Sys2Proof.Machine.execRftSkip w s
  | .launch w => Sys2Proof.Machine.execLaunch w s
  | .lwait w => Sys2Proof.Machine.execLwait w s
  | .qloc w => Sys2Proof.Machine.execQloc w s
  | .qlep w => Sys2Proof.Machine.execQlep w s
  | .cut w => Sys2Proof.Machine.execCut w s
  | .qspr w => Sys2Proof.Machine.execQspr w s
  | .icinvCore w => Sys2Proof.Machine.execIcinvCore w s
  | .icinvLaunch w => Sys2Proof.Machine.execIcinvLaunch w s
  | .erriRegc w => Sys2Proof.Machine.execErriRegc w s
  | .erriRegu w => Sys2Proof.Machine.execErriRegu w s
  | .erriCvc w => Sys2Proof.Machine.execErriCvc w s
  | .erriCvu w => Sys2Proof.Machine.execErriCvu w s
  | .erriRes w => Sys2Proof.Machine.execErriRes w s
  | .erriClone w => Sys2Proof.Machine.execErriClone w s
  | .ract w => Sys2Proof.Machine.execRact w s
  | .rldv w => Sys2Proof.Machine.execRldv w s
  | .rwr w => Sys2Proof.Machine.execRwr w s
  | .rmac w => Sys2Proof.Machine.execRmac w s
  | .radd w => Sys2Proof.Machine.execRadd w s
  | .rmul w => Sys2Proof.Machine.execRmul w s
  | .rscl w => Sys2Proof.Machine.execRscl w s
  | .rcmp w => Sys2Proof.Machine.execRcmp w s
  | .rsel w => Sys2Proof.Machine.execRsel w s
  | .rmskAnd w => Sys2Proof.Machine.execRmskAnd w s
  | .rmskOr w => Sys2Proof.Machine.execRmskOr w s
  | .rmskAndn w => Sys2Proof.Machine.execRmskAndn w s
  | .rmskLd w => Sys2Proof.Machine.execRmskLd w s
  | .rskp w => Sys2Proof.Machine.execRskp w s
  | .rsum w => Sys2Proof.Machine.execRsum w s
  | .rloop w => Sys2Proof.Machine.execRloop w s
  | .rend w => Sys2Proof.Machine.execRend w s
  | .ired w => Sys2Proof.Machine.execIred w s
  | .xred w => Sys2Proof.Machine.execXred w s
  | .fill w => Sys2Proof.Machine.execFill w s
  | .powerGood => Sys2Proof.Machine.execPowerGood s
  | .powerOff => Sys2Proof.Machine.execPowerOff s
  | .trestleLinkUp => Sys2Proof.Machine.execTrestleLinkUp s
  | .imageLoad => Sys2Proof.Machine.execImageLoad s
  | .imageComplete => Sys2Proof.Machine.execImageComplete s
  | .diesUp => Sys2Proof.Machine.execDiesUp s
  | .stacksTrained => Sys2Proof.Machine.execStacksTrained s
  | .memoryInitialised => Sys2Proof.Machine.execMemoryInitialised s
  | .mapRestore => Sys2Proof.Machine.execMapRestore s
  | .partDefine => Sys2Proof.Machine.execPartDefine s
  | .attest => Sys2Proof.Machine.execAttest s
  | .deviceId => Sys2Proof.Machine.execDeviceId s
  | .fuseMin => Sys2Proof.Machine.execFuseMin s
  | .configDone => Sys2Proof.Machine.execConfigDone s
  | .mapUpdateReply => Sys2Proof.Machine.execMapUpdateReply s
  | .thermalWarning => Sys2Proof.Machine.execThermalWarning s
  | .thermalTrip => Sys2Proof.Machine.execThermalTrip s
  | .launchMessage => Sys2Proof.Machine.execLaunchMessage s
  | .launchAccept => Sys2Proof.Machine.execLaunchAccept s
  | .workgroupPlace => Sys2Proof.Machine.execWorkgroupPlace s
  | .groupEnd => Sys2Proof.Machine.execGroupEnd s
  | .launchRetire => Sys2Proof.Machine.execLaunchRetire s
  | .clauseFetch => Sys2Proof.Machine.execClauseFetch s
  | .activeSetExchange => Sys2Proof.Machine.execActiveSetExchange s
  | .schedulerRotate => Sys2Proof.Machine.execSchedulerRotate s
  | .branchResolve => Sys2Proof.Machine.execBranchResolve s
  | .sectorReturn => Sys2Proof.Machine.execSectorReturn s
  | .storePerformed => Sys2Proof.Machine.execStorePerformed s
  | .atomicPerformed => Sys2Proof.Machine.execAtomicPerformed s
  | .laneWordComplete => Sys2Proof.Machine.execLaneWordComplete s
  | .faultReply => Sys2Proof.Machine.execFaultReply s
  | .pageFaultTrap => Sys2Proof.Machine.execPageFaultTrap s
  | .shootdown => Sys2Proof.Machine.execShootdown s
  | .retiredListRead => Sys2Proof.Machine.execRetiredListRead s
  | .bankQueueEntry => Sys2Proof.Machine.execBankQueueEntry s
  | .kblockDone => Sys2Proof.Machine.execKblockDone s
  | .copyStart => Sys2Proof.Machine.execCopyStart s
  | .copyDelivery => Sys2Proof.Machine.execCopyDelivery s
  | .copyComplete => Sys2Proof.Machine.execCopyComplete s
  | .tileAttemptEnd => Sys2Proof.Machine.execTileAttemptEnd s
  | .tileReadTimeout => Sys2Proof.Machine.execTileReadTimeout s
  | .rowRepair => Sys2Proof.Machine.execRowRepair s
  | .bankRemap => Sys2Proof.Machine.execBankRemap s
  | .bankRemapPiece => Sys2Proof.Machine.execBankRemapPiece s
  | .tsvSwap => Sys2Proof.Machine.execTsvSwap s
  | .repairWindowEnd => Sys2Proof.Machine.execRepairWindowEnd s
  | .mcallCallAccept => Sys2Proof.Machine.execMcallCallAccept s
  | .callEnd => Sys2Proof.Machine.execCallEnd s
  | .callTimeout => Sys2Proof.Machine.execCallTimeout s
  | .xredSourceTimeout => Sys2Proof.Machine.execXredSourceTimeout s
  | .rodYield => Sys2Proof.Machine.execRodYield s
  | .yieldWindowLimit => Sys2Proof.Machine.execYieldWindowLimit s
  | .barrierCombine => Sys2Proof.Machine.execBarrierCombine s
  | .sleepWake => Sys2Proof.Machine.execSleepWake s
  | .replayExecute => Sys2Proof.Machine.execReplayExecute s
  | .replayQueueAgeLimit => Sys2Proof.Machine.execReplayQueueAgeLimit s
  | .intervalTimeLimit => Sys2Proof.Machine.execIntervalTimeLimit s
  | .preempt => Sys2Proof.Machine.execPreempt s
  | .saveComplete => Sys2Proof.Machine.execSaveComplete s
  | .restore => Sys2Proof.Machine.execRestore s
  | .monitorPeriodEnd => Sys2Proof.Machine.execMonitorPeriodEnd s
  | .thresholdCrossing => Sys2Proof.Machine.execThresholdCrossing s
  | .quiesce => Sys2Proof.Machine.execQuiesce s
  | .transfer => Sys2Proof.Machine.execTransfer s
  | .commit => Sys2Proof.Machine.execCommit s
  | .sourceOutOfService => Sys2Proof.Machine.execSourceOutOfService s
  | .checkpoint => Sys2Proof.Machine.execCheckpoint s
  | .checkpointEnd => Sys2Proof.Machine.execCheckpointEnd s
  | .peerLinkUp => Sys2Proof.Machine.execPeerLinkUp s
  | .peerLoss => Sys2Proof.Machine.execPeerLoss s
  | .peerUp => Sys2Proof.Machine.execPeerUp s
  | .companionWrite => Sys2Proof.Machine.execCompanionWrite s
  | .companionRead => Sys2Proof.Machine.execCompanionRead s
  | .peerAccess => Sys2Proof.Machine.execPeerAccess s
  | .peerLinkDown => Sys2Proof.Machine.execPeerLinkDown s
  | .redAccepted => Sys2Proof.Machine.execRedAccepted s

end Sys2Proof.Machine
end

