-- ==== Sys2Proof/Machine/Issue.lean ====
section
/-! DEFINITION. Issuing: which word a gang issues next, its encoding traps (R63, R64), what may issue under prediction
(R125), and what moves the machine: one stimulus of the agenda. -/
namespace Sys2Proof.Machine

/-! ## The word a gang issues -/

/-- The issue of `n` words at where a quad stands. -/
def issueOf (wg grp : Nat) (x : Stand) (n : Nat) (predict : Bool) : Issue :=
  let fini := decide (x.clause.len ≤ x.idx + n)
  { wg := wg, grp := grp, quads := x.quads, run := x.run, pc := x.clause.hdr + BitVec.ofNat 32 (4 * (1 + x.idx)),
    next := if fini then fallOf x.clause else x.clause.hdr + BitVec.ofNat 32 (4 * (1 + x.idx + n)),
    last := fini, clause := x.clause, predict := predict, replay := x.replay }

/-- ILLEGAL_OP at a word, with the confirmed lanes it would have issued for (log 20). -/
def encodingTrap (s : State) (g : Group) (c : Issue) (sub : Nat) : State :=
  if unsettled g c.quads then stopSide s c
  else if trapWaits g then s
  else takeTrap s c.wg c.grp (Trap.at c .illegalOp sub (c.run &&& g.counted))

/-- The gang has moved from where it stood. -/
def moved (a b : Quad) : Bool := a.pc != b.pc || a.st != b.st || a.clause.isSome != b.clause.isSome

/-- After a word: YLD of the clause it ended (R113), and a group whose every gang is parked leaves the active set (R111). -/
def afterIssue (s0 s : State) (c : Issue) (q : Nat) : State :=
  let s1 := { s with cur := none }
  let s2 := match findGrp s0 c.wg c.grp, findGrp s1 c.wg c.grp with
    | some g0, some g1 => if c.last && c.clause.yld && moved (quadAt g0 q) (quadAt g1 q) then yieldGrp s1 c.wg c.grp else s1
    | _, _ => s1
  leaveParked s2 c.wg c.grp

/-- What follows a meaning in a step. -/
def andThen (o : Host.Outcome State Fault Refusal) (f : State → State) : Host.Outcome State Fault Refusal :=
  match o with
  | .next s => .next (f s)
  | r => r

/-- The word where a quad stands is executed, or takes its encoding trap. -/
def issueWord (s : State) (wg grp q : Nat) (g : Group) (l : Launch) (x : Stand) (predict : Bool) : Host.Outcome State Fault Refusal :=
  match wordDecode x with
  | none => .next (encodingTrap s g (issueOf wg grp x 1 predict) 6)
  | some d =>
    let c := issueOf wg grp x d.len predict
    match wordSub l.vcount l.vw d with
    | some sub => .next (encodingTrap s g c sub)
    | none =>
      if !x.replay && unsettled g x.quads && !mayPredict d.i then .next (modGrp s wg grp (fun g => modQuads g x.quads stopRun))
      else andThen (exec d.i { s with cur := some c }) (fun s1 => afterIssue s s1 c q)

/-- A gang that waited for an interval cut stands at its word again once the cut can fall (R329). -/
def wakeCut (s : State) (wg grp q : Nat) : State :=
  match findWg s wg with
  | none => s
  | some w =>
    match w.groups[grp]? with
    | none => s
    | some g =>
      if (quadAt g q).st == .parked && (quadAt g q).park == .cut && cutReady s w then
        modGrp s wg grp (fun g => modQuads g (gangOf g q) (fun a => { a with st := .running, park := .none }))
      else s

/-- The gang of a quad issues: a due cut falls first, else its next clause is fetched or its next word executed. -/
def issueStim (s0 : State) (wg grp q : Nat) (predict : Bool) : Host.Outcome State Fault Refusal :=
  let s := wakeCut (wakeGrp s0 wg grp) wg grp q
  match findWg s wg with
  | none => .next s
  | some w =>
    if (match w.chk with | some c => c.cutDue | none => false) && cutReady s w then .next (cutNow s wg)
    else
      match w.groups[grp]?, findLaunch s w.launch with
      | some g, some l =>
        if g.active && quadReady s w g q then
          match standOf g q with
          | none => andThen (execClauseFetch { s with arg := { EvArg.none with a := wg, b := grp, c := q } }) (fun s1 => { s1 with arg := EvArg.none })
          | some x => issueWord s wg grp q g l x predict
        else .next s
      | _, _ => .next s

/-! ## Frame calls -/

/-- A queued call starts, or the running call executes the word at its FPC (R272, R277). -/
def frameStim (s : State) (id : Nat) : Host.Outcome State Fault Refusal :=
  match findCall s id with
  | none => .next s
  | some c => andThen (frameGo s c exec) (fun s1 => { s1 with curCall := none })

/-! ## Writes and messages of the companion (R297) -/

/-- A message that arrives on Trestle. -/
def isMessage (i : Instr) : Bool :=
  match i with
  | .imageLoad | .mapRestore | .partDefine | .attest | .deviceId | .fuseMin | .configDone | .mapUpdateReply | .launchMessage | .faultReply
  | .shootdown | .retiredListRead | .checkpoint | .peerUp => true
  | _ => false

/-- A write or a message: what the port performs in arrival order within its class. -/
def inOrder (i : Instr) : Bool := i == .companionWrite || isMessage i

/-- An access from outside that cannot be performed yet; one of a peer whose link is down is none (R199, R283, R297). -/
def accessWaits (s : State) (i : Instr) (x : EvArg) : Bool :=
  match outsideRange i x with
  | some (pa, n) => inMemory s pa n && !reachable { s with arg := x } pa n && (i != .peerAccess || (s.links[x.a]?).any (fun (k : Link) => k.up))
  | none => false

/-- An event that is no word is executed with its arguments. -/
def eventGo (s : State) (i : Instr) (x : EvArg) : Host.Outcome State Fault Refusal :=
  andThen (exec i { s with arg := x }) (fun s1 => { s1 with arg := EvArg.none })

/-- What waits is performed in arrival order as far as it can be; a write or message waits behind one of its class. -/
def inboxGo (blocked : List (BitVec 2)) : List (Instr × EvArg) → State → State
  | [], s => s
  | (i, x) :: r, s =>
    if (inOrder i && blocked.contains x.msg.cls) || accessWaits s i x then
      inboxGo (if inOrder i then x.msg.cls :: blocked else blocked) r { s with inbox := s.inbox ++ [(i, x)] }
    else match eventGo s i x with
      | .next s1 => inboxGo blocked r s1
      | _ => inboxGo blocked r s

/-- What waits of the companion's writes and messages and of accesses from outside goes on. -/
def settleInbox (s : State) : State := if s.inbox.isEmpty then s else inboxGo [] s.inbox { s with inbox := [] }

/-! ## One stimulus -/

/-- A row of the opcode table that is no word. -/
def isEvent (i : Instr) : Bool := (encode i).isEmpty

def stimGo (s : State) (st : Stim) : Host.Outcome State Fault Refusal :=
  match st with
  | .issue wg grp q p => issueStim s wg grp q p
  | .frame id => frameStim s id
  | .event i x =>
    if !isEvent i then .next s
    else if (inOrder i && s.inbox.any (fun e => inOrder e.1 && e.2.msg.cls == x.msg.cls)) || accessWaits s i x then .next { s with inbox := s.inbox ++ [(i, x)] }
    else eventGo s i x
  | .tick n => .next (tickAll s n)
  | .upset u => .next (upset s u)
  | .stream part n => .next (ckptGo part false n s)

/-- A stimulus, and what follows of itself. -/
def runStim (s : State) (st : Stim) : Host.Outcome State Fault Refusal := andThen (stimGo s st) (fun s1 => settleAll (settleInbox s1))

end Sys2Proof.Machine
end

