-- ==== Sys2Proof/Machine/Policy.lean ====
section
/-! DEFINITION. The stimulus that a step takes where the agenda names none: a rotation over what the device's own agents could do
next (log 4). What comes from outside, and what hardware errors bring, comes by the agenda alone. -/
namespace Sys2Proof.Machine

def evAt (s : State) (i : Instr) (a b c d : Nat) : Stim :=
  .event i { EvArg.none with a := a, b := b, c := c, d := d, bytes := (List.range 64).map (fun k => BitVec.ofNat 8 (Config.freeWord (2 ^ 64 * (s.turn + 1) + k)).toNat) }

/-- What may happen to a pending operation. -/
def opStims (s : State) (wg i : Nat) (o : Op) : List Stim :=
  match o.kind with
  | .load => (match o.accs.find? (fun a => a.st == .todo || a.st == .performed) with
    | some a => [evAt s .sectorReturn wg i o.id (sectorOf a)]
    | none => [])
  | .store => [evAt s .storePerformed wg i o.id o.accs.length]
  | .atom => [evAt s .atomicPerformed wg i o.id 0]
  | .red => [evAt s .redAccepted wg i o.id 0, evAt s .atomicPerformed wg i o.id 0]
  | .laneWord | .crd => [evAt s .laneWordComplete wg i o.id 0]
  | .wait => []

def groupStims (s : State) (w : Workgroup) (i : Nat) (g : Group) : List Stim :=
  if g.ended then []
  else
    (quads4.filter (fun q => (quadAt g q).live != 0)).flatMap (fun q =>
      [.issue w.id i q (s.turn % 2 == 0)]
        ++ (if (quadAt g q).pred.isSome then [evAt s .branchResolve w.id i q 0] else [])
        ++ (match (quadAt g q).park with | .sleep _ => [evAt s .sleepWake w.id i q 0] | _ => []))
    ++ g.ops.flatMap (opStims s w.id i)
    ++ (if g.refusals.isEmpty then [] else [evAt s .pageFaultTrap w.id i 0 0])
    ++ (if lanesEnded g then [evAt s .groupEnd w.id i 0 0] else [])

def wgStims (s : State) (w : Workgroup) : List Stim :=
  if w.retired then []
  else if isSaved w then [evAt s .restore w.id (s.turn % 256) 0 0]
  else
    (List.range w.groups.length).flatMap (fun i => match w.groups[i]? with | some g => groupStims s w i g | none => [])
    ++ (List.range w.banks.length).flatMap (fun k => match w.banks[k]? with
      | some b => if b.queue.isEmpty then [] else [evAt s .bankQueueEntry w.id k 0 0, evAt s .kblockDone w.id k 0 0]
      | none => [])
    ++ (if w.chk.isSome then [evAt s .intervalTimeLimit w.id 0 0 0] else [])
    ++ (if w.place == .saving then [evAt s .saveComplete w.id 0 0 0] else [evAt s .preempt w.id 0 0 0])

def copyStims (s : State) (c : Copy) : List Stim :=
  [evAt s .copyStart c.id 0 0 0, evAt s .copyDelivery c.id 64 0 0, evAt s .copyComplete c.id 0 0 0]
    ++ (if isTileCopy c then [evAt s .tileAttemptEnd c.id 0 0 0, evAt s .tileReadTimeout c.id 0 0 0] else [])

def callStims (s : State) (c : Call) : List Stim :=
  [.frame c.id, evAt s .mcallCallAccept c.id 0 0 0, evAt s .callEnd c.id 0 0 0, evAt s .callTimeout c.id 0 0 0,
   evAt s .rodYield c.id 0 0 0, evAt s .yieldWindowLimit c.id 0 0 0]

def launchStims (s : State) (l : Launch) : List Stim :=
  [evAt s .workgroupPlace l.id (s.turn % 256) 0 0, evAt s .launchRetire l.id 0 0 0]

def stackStims (s : State) (i : Nat) (k : StackSt) : List Stim :=
  (match k.due with
    | r :: _ => [match r.kind with
      | 0 => evAt s .rowRepair i r.pch r.bank r.row
      | 1 => evAt s .bankRemap i r.pch r.bank 0
      | _ => evAt s .tsvSwap i r.pch r.row 0]
    | [] => [])
  ++ (if k.window.isSome then [evAt s .repairWindowEnd i 0 0 0] else [])
  ++ (if k.remap.isSome then [evAt s .bankRemapPiece i 0 0 0] else [])

def arrivalStims (s : State) (a : Arrival) : List Stim :=
  match findWg s a.wg with
  | none => []
  | some w =>
    let d := dieOf s w.lcore
    [evAt s .barrierCombine a.launch (match a.team with | some t => t + 1 | none => 0) a.level (if a.level = 0 then d else if a.level = 1 then nearestHub d else 0)]

/-- Everything the device's own agents could do next; device time can always advance. -/
def candidates (s : State) : List Stim :=
  s.wgs.flatMap (wgStims s)
    ++ s.copies.flatMap (copyStims s) ++ s.calls.flatMap (callStims s) ++ s.arrivals.flatMap (arrivalStims s) ++ s.launches.flatMap (launchStims s)
    ++ (s.parts.filter (fun e => !e.2.reqs.isEmpty)).map (fun e => evAt s .launchAccept e.1 0 0 0)
    ++ (s.parts.filter (fun e => e.2.ckpt.isSome)).flatMap (fun e => [.stream e.1 16, evAt s .checkpointEnd e.1 0 0 0])
    ++ s.evacs.flatMap (fun e => [evAt s .quiesce e.src 0 0 0, evAt s .transfer e.src 0 0 0, evAt s .commit e.src 0 0 0, evAt s .sourceOutOfService e.src 0 0 0])
    ++ (List.range s.stks.length).flatMap (fun i => match s.stks[i]? with | some k => stackStims s i k | none => [])
    ++ (List.range s.cores.length).flatMap (fun c =>
      (if 8 ≤ monCount s c then [evAt s .thresholdCrossing c 0 0 0] else [])
      ++ (match s.cores[c]? with | some k => if k.replayQ.isEmpty then [] else [evAt s .replayExecute c 0 0 0, evAt s .replayQueueAgeLimit c 0 0 0] | none => [])
      ++ (if s.wgs.any (fun w => coreOf s w == c && !isSaved w && !w.retired) then
          [evAt s .activeSetExchange c (s.turn % 4) 0 0, evAt s .schedulerRotate c (s.turn % 4) 0 0] else []))
    ++ [.tick 1]

/-- The stimulus whose turn it is. -/
def policy (s : State) : Stim :=
  let cs := candidates s
  cs.getD (s.turn % cs.length) (.tick 1)

end Sys2Proof.Machine
end

