-- ==== Sys2Proof/Machine/Step.lean ====
section
/-! DEFINITION. One step of the machine: the agenda's next stimulus, or the one whose turn it is; and the placing of a single
instruction where the next step runs it (log 1, log 4). -/
namespace Sys2Proof.Machine

/-- One stimulus of the agenda is taken; with none left, the policy's. -/
def step (s : State) : Host.Outcome State Fault Refusal :=
  match s.agenda with
  | st :: r => runStim { s with agenda := r } st
  | [] => runStim { s with turn := s.turn + 1 } (policy s)

/-! ## An instruction placed for the next step -/

/-- A launch of one workgroup of 16 lanes with no handler. -/
def soleLaunch (id : Nat) : Launch :=
  { id := id, part := 0, st := .running, kimg := 0, tag := 1, lflags := 0, gridx := 1, gridy := 1, gridz := 1, threads := 16, team := 1, cvb := 32768,
    cbanks := 1, handler := 0xFFFFFFFF, btab := 0, bcnt := 0, wtab := [], caddr := 0, cval := 0, codeoff := 0, codelen := 64, entry := 0, vcount := 128,
    vw := [0, 0, 0, 0], paloff := 0, pallen := 0, recs := [], deps := [], early := [], next := 1, retired := 0, fail := none, lostRed := none,
    lostPeer := none, refused := [], waitPage := none, waitCore := none, palRefused := [], palettes := [] }

/-- The clause that holds one instruction's words. -/
def soleClause (cls : BitVec 3) (ws : List Word) : Clause :=
  { hdr := 0, len := match decode cls ws with | some d => d.len | none => 1, cls := cls, wait := 0, setA := 15, setB := 15, yld := false, nspec := false,
    words := ws }

/-- The launch's group, active and at the clause's first word. -/
def soleGroup (c : Clause) (g : Group) : Group :=
  { g with active := true, quads := g.quads.map (fun q => { q with pc := 4, clause := some c }) }

def soleWg (s : State) (id : Nat) (l : Launch) (c : Clause) : Workgroup :=
  let w := wg0 s l id 0 0
  { w with groups := w.groups.map (soleGroup c) }

/-- A running frame call whose program is one word. -/
def soleCall (id launch wg : Nat) (w : Word) : Call :=
  { id := id, launch := launch, part := 0, wg := wg, grp := 0, lane := 0, j := 0, die := 0, pc := 0, quads := 0, st := .running, brec := 0, off := 0, after := 0,
    nw := 1, bmask := 0xFFFF, page := 0x200000, aux := 0, dst := 0, auxlen := 0, dstlen := 0, wpage := true, sparse := false, prog := [w], pagePa := 0, stack := 0,
    pch := 0, auxPa := [], fpc := 0, fp := List.replicate 8 0, rods := List.replicate 16 rod0, stream := closedStream, sinceAct := 0, passed := 0, started := 0,
    uncounted := 0, yld := none, status := 0, detail := 0, logged := [], pend := [], waits := [], refused := [], waitPage := none, cstDone := false }

/-- The instruction of bits `w` stands where the next step runs it: in the clause of an active group's gang, or as the program
of a running frame call. -/
def State.withFetchWord (s : State) (nbits w : Nat) : State :=
  match Sys2Proof.tableOf (w % 2 ^ nbits) with
  | none => s
  | some k =>
    let l := soleLaunch s.nextId
    let ws := Sys2Proof.tableWords nbits w
    let g := soleWg s (s.nextId + 1) l (soleClause (BitVec.ofNat 3 k) ws)
    let s1 := { s with launches := s.launches ++ [l], wgs := s.wgs ++ [g], nextId := s.nextId + 3 }
    if k = 8 then { s1 with calls := s.calls ++ [soleCall (s.nextId + 2) l.id g.id (BitVec.ofNat 32 w)], agenda := .frame (s.nextId + 2) :: s.agenda }
    else { s1 with agenda := .issue g.id 0 0 false :: s.agenda }

end Sys2Proof.Machine
end

