-- ==== Sys2Proof/Safety.lean ====
section
/-! DEFINITION. What counts as a safe run, the invariants that claims use, and the terms in which claims say what a word of a clause does. -/
namespace Sys2Proof.Machine

/-- Device memory is in its canonical form: addresses strictly rising, no byte listed that equals what an unlisted one reads (R24). -/
def Memory.wf (m : SMap Byte) : Bool := smWf m 0

/-- A step goes on: it ends in no fault and no refusal. -/
def goesOn (s : State) : Prop := ∃ t, step s = .next t

/-- A state that `n` steps reach from another, none of them stopping. -/
inductive Reaches : State → State → Prop where
  | here (s : State) : Reaches s s
  | step {s t u : State} : step s = .next t → Reaches t u → Reaches s u

/-- A run is safe: no state it reaches stops. -/
def SafeFrom (s : State) : Prop := ∀ t, Reaches s t → goesOn t

/-! ## A gang issues a word -/

/-- The gang that `cur` names issues a word under guard `gd`, and sees `x` (R7). -/
structure Issues (s : State) (gd : BitVec 3) (x : Ctx) : Prop where
  cur : s.cur = some x.c
  wg : findWg s x.c.wg = some x.w
  grp : x.w.groups[x.c.grp]? = some x.g
  launch : findLaunch s x.w.launch = some x.l
  act : x.act = activeOf x.c x.g gd

/-- From `s` to `t` only the issuing group changes, and it becomes `g`. -/
structure GroupStep (s t : State) (x : Ctx) (g : Group) : Prop where
  rest : t = { s with wgs := t.wgs }
  others : ∀ id, id ≠ x.c.wg → findWg t id = findWg s id
  here : findWg t x.c.wg = some { x.w with groups := modifyAt x.w.groups x.c.grp (fun _ => g) }

/-- A quad but for what its prediction or replay noted to undo, and the refused pages of a word it is past. -/
def unnoted (q : Quad) : Quad :=
  { q with pred := q.pred.map (fun p => { p with undo := [] }), replay := q.replay.map (fun r => { r with undo := [] }), refused := [] }

/-- The gang goes on to the word behind the one it issued (R38, R42, R111): the sequencers of `g` are those of the issuing group, but for
what they noted, moved by `advanceGrp`. -/
def GoesOn (x : Ctx) (g : Group) : Prop := ∃ qs, qs.map unnoted = x.g.quads.map unnoted ∧ g = advanceGrp x.c { g with quads := qs }

/-- The gang goes on, and nothing else of the group changes. -/
def OnlyMoves (x : Ctx) (g : Group) : Prop := g = advanceGrp x.c x.g

/-- The group `g` is the issuing group but for its sequencers. -/
def OnlyQuads (x : Ctx) (g : Group) : Prop := g = { x.g with quads := g.quads }

/-- A word can read its sources for lanes `m`: none holds poison (R200), and it reads %actm in no gang that is predicted (R45, R123). -/
structure Reads (x : Ctx) (srcs : List Src) (m : LMask) : Prop where
  clean : poisonLanes x.g srcs m = 0
  known : predicted x = true → srcs.any (fun c => c.code == 0xFB) = false

/-! ## Lane words (R153) -/

/-- A lane word enters the replay queue of its core: its launch is CHECKED, and the word is one that no idle lane can check, or
is always queued (R130, R131). -/
def entersQueue (x : Ctx) (always : Bool) : Bool :=
  isChecked x.l && x.act != 0 && (always || decide (16 - popCount x.act < popCount x.act))

/-- A lane word is free to run: no lane it counts for reads poison (R200), no corrupted clone waits (R344), and its core's replay
queue has room where the word needs it (R131). -/
structure LaneFree (s : State) (x : Ctx) (srcs : List Src) (always : Bool) : Prop where
  clean : Reads x srcs x.act
  clone : isChecked x.l = true → x.act ≠ 0 → x.g.cloneBad = false
  room : entersQueue x always = true → ∃ k, s.cores[coreOf s x.w]? = some k ∧ k.replayQ.length < 64

/-- The cores after a lane word that commits its results: its entry in the replay queue, where it takes one (R131). -/
def coresAfter (s : State) (x : Ctx) (always : Bool) (e : ReplayEntry) : List CoreSt :=
  if entersQueue x always then modifyAt s.cores (coreOf s x.w) (fun k => { k with replayQ := k.replayQ ++ [e] }) else s.cores

/-- From `s` to `t` the issuing group becomes `g`, and its core's replay queue may take the word; nothing else changes. -/
structure LaneStep (s t : State) (x : Ctx) (always : Bool) (e : ReplayEntry) (g : Group) : Prop where
  rest : t = { s with wgs := t.wgs, cores := coresAfter s x always e }
  others : ∀ id, id ≠ x.c.wg → findWg t id = findWg s id
  here : findWg t x.c.wg = some { x.w with groups := modifyAt x.w.groups x.c.grp (fun _ => g) }

/-- The issuing group `g` after a lane word: slot `n` of lane `l` holds `v n l`, and predicate `n` has bit `p n l` for lane `l`,
where these name a value; every other slot and bit, and every other register, flag and special register, is as before, and the gang goes
on to the next word. -/
structure LaneWrites (x : Ctx) (g : Group) (v : Nat → Nat → Option Word) (p : Nat → Nat → Option Bool) : Prop where
  rest : g = { x.g with v := g.v, p := g.p, quads := g.quads }
  on : GoesOn x g
  slots : ∀ n l, l < 16 → getV g n l = ((v n l).map (fun y => ({ val := y, poison := false } : Slot))).getD (getV x.g n l)
  preds : ∀ n l, n < 7 → l < 16 → getP g n l = (p n l).getD (getP x.g n l)

/-- A lane's result: its last write to a vector register, and to a predicate. -/
def lastV (o : LaneOut) (n : Nat) : Option Word := (o.v.reverse.find? (fun e => e.1 == n)).map Prod.snd
def outBit (o : LaneOut) (n : Nat) : Option Bool := (o.p.reverse.find? (fun e => e.1 == n)).map Prod.snd

/-- The result of lane `k` among the results of a word. -/
def outOf (outs : List LaneOut) (k : Nat) : Option LaneOut := outs.find? (fun o => o.lane == k)

/-- The slots and predicates that a list of results writes. -/
def outsSlot (outs : List LaneOut) (n l : Nat) : Option Word := (outOf outs l).bind (fun o => lastV o n)
def outsBit (outs : List LaneOut) (n l : Nat) : Option Bool := (outOf outs l).bind (fun o => outBit o n)

/-- The replay queue's entry for a word that writes `v` and `p` (R131): the gang's word, the time of its issue, and its results, which
its second execution gives again. -/
structure Recorded (s : State) (x : Ctx) (e : ReplayEntry) (v : Nat → Nat → Option Word) (p : Nat → Nat → Option Bool) : Prop where
  wg : e.wg = x.c.wg
  grp : e.grp = x.c.grp
  pc : e.pc = x.c.pc
  time : e.time = now s
  again : e.again = e.result
  slots : ∀ n l, l < 16 → outsSlot e.result n l = v n l
  preds : ∀ n l, l < 16 → outsBit e.result n l = p n l

/-- A lane word runs to its own effect: the meaning answers a next state with exactly these writes. -/
def LaneEffect (s : State) (x : Ctx) (always : Bool) (o : Host.Outcome State Fault Refusal) (v : Nat → Nat → Option Word) (p : Nat → Nat → Option Bool) : Prop :=
  ∃ t g e, o = .next t ∧ Recorded s x e v p ∧ LaneStep s t x always e g ∧ LaneWrites x g v p

/-- No write. -/
def noSlot : Nat → Nat → Option Word := fun _ _ => none
def noBit : Nat → Nat → Option Bool := fun _ _ => none

/-- Lane `l` of ACTIVE writes register `d`. -/
def toReg (x : Ctx) (d : Nat) (f : Nat → Word) (n l : Nat) : Option Word := if hasLane x.act l && n == d then some (f l) else none

/-- Lane `l` of ACTIVE writes the pair `d`, `d` + 1. -/
def toPair (x : Ctx) (d : Nat) (f : Nat → Nat) (n l : Nat) : Option Word :=
  if !hasLane x.act l then none else if n = d then some (wordOf (f l)) else if n = d + 1 then some (wordOf (f l / 2 ^ 32)) else none

/-- Lane `l` of ACTIVE writes a result of an integer type (R144): a pair for the 64-bit types, else a slot, extended. -/
def toInt (x : Ctx) (ty d : Nat) (f : Nat → Nat) : Nat → Nat → Option Word :=
  if tyPair ty then toPair x d f else toReg x d (fun l => slotOfInt ty (f l))

/-- Lane `l` of ACTIVE writes a result of a floating-point type (R144). -/
def toFlt (x : Ctx) (ty d : Nat) (f : Nat → Nat) : Nat → Nat → Option Word :=
  if ty = 11 then toPair x d f else toReg x d (fun l => wordOf (f l))

/-- Lane `l` of ACTIVE writes predicate `d`. -/
def toPred (x : Ctx) (d : Nat) (f : Nat → Bool) (n l : Nat) : Option Bool := if hasLane x.act l && n == d then some (f l) else none

/-- Lane `l` of ACTIVE writes a result of an integer word (R155): to TYPE, reduced or clamped, or exact at twice the width. -/
def toIntW (x : Ctx) (w : FmtAX) (f : Nat → Int) : Nat → Nat → Option Word :=
  if w.wide then toPair x w.d.toNat (fun l => wrapNat 64 (f l)) else toInt x w.ty.toNat w.d.toNat (fun l => intResult w.ty.toNat w.sat (f l))

/-- The source lanes of an exchange word hold no poison in A for the lanes it counts for (R166, R200). -/
def exchClean (x : Ctx) (a : Fld) (src : Nat → Nat) : Prop :=
  maskOf (fun l => hasLane x.act l && hasLane x.g.counted l && (hasQuad x.c.quads (src l / 4) && (getV x.g a.code.toNat (src l)).poison)) = 0

/-! ## Long-latency lane words (R154) -/

/-- The results of a word carry what a trap frame shows of lanes `m`: conditions `c`, and the sources' values as read (R149). -/
def Carries (outs : List LaneOut) (m : LMask) (c : Nat → BitVec 5) (opa opb opc : Nat → Nat) : Prop :=
  ∀ l, l < 16 → hasLane m l = true → ∃ o, outOf outs l = some o ∧ o.conds = c l ∧ o.opa = dwordOf (opa l) ∧ o.opb = dwordOf (opb l) ∧ o.opc = dwordOf (opc l)

/-- A long-latency lane word issues: its flag counts it, its gang goes on (and takes no header action while an enabled condition of it may
still be met, R154), and an operation of the group holds the results that
LANE_WORD_COMPLETE writes, with what its trap frame would show. No register changes yet; the word stands in its core's replay queue
where it takes an entry and no enabled condition of its lanes is to end it (R131). -/
def LaneIssued (s : State) (x : Ctx) (always fs : Bool) (o : Host.Outcome State Fault Refusal) (v : Nat → Nat → Option Word)
    (wtype : Nat) (carry : List LaneOut → Prop) : Prop :=
  ∃ t g k e, o = .next t ∧ Recorded s x e v noBit
    ∧ t = { s with wgs := t.wgs, cores := if condLanes x.g (enablesOf x.l) k.outs = 0 then coresAfter s x always e else s.cores, nextId := s.nextId + 1 }
    ∧ (∀ id, id ≠ x.c.wg → findWg t id = findWg s id)
    ∧ findWg t x.c.wg = some { x.w with groups := modifyAt x.w.groups x.c.grp (fun _ => g) }
    ∧ g = { flagInc x.g (flagSel x.c.clause fs) with ops := x.g.ops ++ [k], quads := g.quads }
    ∧ g = (if enablesOf x.l = 0 then advanceGrp else advanceHold) x.c { g with quads := x.g.quads }
    ∧ k.id = s.nextId ∧ k.kind = .laneWord ∧ k.flag = flagSel x.c.clause fs ∧ k.lanes = x.act ∧ k.pc = x.c.pc ∧ k.quads = x.c.quads
    ∧ k.wtype = BitVec.ofNat 8 wtype ∧ carry k.outs
    ∧ (∀ n l, l < 16 → outsSlot k.outs n l = v n l) ∧ (∀ n l, l < 16 → outsBit k.outs n l = none)

/-- A word with no lane in ACTIVE writes nothing, and a long-latency one completes at once (R153). -/
def Idle (s : State) (x : Ctx) (o : Host.Outcome State Fault Refusal) : Prop :=
  x.act = 0 → ∃ t g, o = .next t ∧ GroupStep s t x g ∧ OnlyMoves x g

/-- A long-latency lane word is free to issue (R39, R154). -/
structure LongFree (s : State) (x : Ctx) (fs : Bool) (srcs : List Src) : Prop where
  free : LaneFree s x srcs false
  flag : flagFull x.g (flagSel x.c.clause fs) = false

/-- No replay issues the word again, or no enabled condition can end it (R124, R126). -/
def FirstIssue (x : Ctx) : Prop := x.c.replay = false ∨ enablesOf x.l = 0

/-- A counted lane of ACTIVE meets an enabled condition of `c` (R148, R149). -/
def Meets (x : Ctx) (c : Nat → BitVec 5) : Prop :=
  ∃ l, l < 16 ∧ hasLane x.act l = true ∧ hasLane x.g.counted l = true ∧ c l &&& enablesOf x.l ≠ 0

/-- A replayed word joins the word `k` of its side that still stands, its trap condition met: its lanes and results are added there,
its flag counts on that word once more, and its quads go on (R126, R154). No register changes. -/
def LaneJoins (s : State) (x : Ctx) (o : Host.Outcome State Fault Refusal) (k : Op) (v : Nat → Nat → Option Word) (carry : List LaneOut → Prop) : Prop :=
  ∃ t g e outs, o = .next t ∧ Recorded s x e v noBit ∧ carry outs
    ∧ (∀ n l, l < 16 → outsSlot outs n l = v n l) ∧ (∀ n l, l < 16 → outsBit outs n l = none)
    ∧ t = { s with wgs := t.wgs, cores := if condLanes x.g (enablesOf x.l) outs = 0 then coresAfter s x false e else s.cores }
    ∧ (∀ id, id ≠ x.c.wg → findWg t id = findWg s id)
    ∧ findWg t x.c.wg = some { x.w with groups := modifyAt x.w.groups x.c.grp (fun _ => g) }
    ∧ g = advanceGrp x.c { flagInc x.g k.flag with
        ops := x.g.ops.map (fun o => if o.id = k.id then { o with lanes := o.lanes ||| x.act, outs := o.outs ++ outs, more := o.more + 1 } else o) }

/-- A long-latency lane word of conditions `c`, free to issue (R154): it issues; a replay's issue of it joins the word of its side that
still stands, or, where a condition is met and none stands, sends its quads back to the start of their side (R124, R126). -/
def LongWord (s : State) (x : Ctx) (fs : Bool) (srcs : List Src) (o : Host.Outcome State Fault Refusal) (v : Nat → Nat → Option Word) (wtype : Nat)
    (c : Nat → BitVec 5) (carry : List LaneOut → Prop) : Prop :=
  LongFree s x fs srcs → Idle s x o ∧ (x.act ≠ 0 →
    (x.c.replay = false ∨ (heldTwin x (enablesOf x.l) = none ∧ ¬Meets x c) → LaneIssued s x false fs o v wtype carry)
    ∧ (∀ k, heldTwin x (enablesOf x.l) = some k → LaneJoins s x o k v carry)
    ∧ (x.c.replay = true → heldTwin x (enablesOf x.l) = none → Meets x c → ∃ t, o = .next t ∧ GroupStep s t x (restartQuads x.c.quads x.g)))

/-! ## Floating-point lane words (R148, R170) -/

/-- No lane of ACTIVE meets a condition that the launch enables (R148, R149). -/
def NoneMet (x : Ctx) (c : Nat → BitVec 5) : Prop := ∀ l, hasLane x.act l = true → c l &&& enablesOf x.l = 0

/-- A word of two sources of TYPE delivers `op` of their values after ABS and NEG; with WIDE the result is f64. -/
def FltTwo (s : State) (x : Ctx) (w : FmtAX) (o : Host.Outcome State Fault Refusal) (op : Nat → Nat → Bool → FVal → FVal → FOut) : Prop :=
  let ty := w.ty.toNat
  let rty := if w.wide then 11 else ty
  let A := fun l => fDecode ty (readFlt x w.a ty l)
  let B := fun l => fDecode ty (readFlt x w.b ty l)
  let r := fun l => op rty w.rnd.toNat w.sat (modVal w 0 (A l)) (modVal w 1 (B l))
  LaneFree s x [srcOf 0 w.a (nTy ty), srcOf 1 w.b (nTy ty)] false → NoneMet x (fun l => condOf rty (r l) [A l, B l]) →
  LaneEffect s x false o (toFlt x rty w.d.toNat (fun l => (r l).bits)) noBit

/-- The same of a long-latency word (R154). -/
def FltTwoLong (s : State) (x : Ctx) (w : FmtAX) (o : Host.Outcome State Fault Refusal) (op : Nat → Nat → Bool → FVal → FVal → FOut) : Prop :=
  let ty := w.ty.toNat
  let rty := if w.wide then 11 else ty
  let A := fun l => readFlt x w.a ty l
  let B := fun l => readFlt x w.b ty l
  let r := fun l => op rty w.rnd.toNat w.sat (modVal w 0 (fDecode ty (A l))) (modVal w 1 (fDecode ty (B l)))
  let c := fun l => condOf rty (r l) [fDecode ty (A l), fDecode ty (B l)]
  LongWord s x w.fs [srcOf 0 w.a (nTy ty), srcOf 1 w.b (nTy ty)] o (toFlt x rty w.d.toNat (fun l => (r l).bits)) (wtypeOf w) c
    (fun outs => Carries outs x.act c A B (fun _ => 0))

/-- A word of one source of TYPE; `op` also sees the bits after ABS and NEG. -/
def FltOne (s : State) (x : Ctx) (w : FmtAX) (o : Host.Outcome State Fault Refusal) (op : Nat → Nat → Bool → FVal → Nat → FOut) : Prop :=
  let ty := w.ty.toNat
  let A := fun l => fDecode ty (readFlt x w.a ty l)
  let r := fun l => op ty w.rnd.toNat w.sat (modVal w 0 (A l)) (modBits w 0 (readFlt x w.a ty l))
  LaneFree s x [srcOf 0 w.a (nTy ty)] false → NoneMet x (fun l => condOf ty (r l) [A l]) →
  LaneEffect s x false o (toFlt x ty w.d.toNat (fun l => (r l).bits)) noBit

/-- The same of a long-latency word (R154). -/
def FltOneLong (s : State) (x : Ctx) (w : FmtAX) (o : Host.Outcome State Fault Refusal) (op : Nat → Nat → Bool → FVal → Nat → FOut) : Prop :=
  let ty := w.ty.toNat
  let A := fun l => readFlt x w.a ty l
  let r := fun l => op ty w.rnd.toNat w.sat (modVal w 0 (fDecode ty (A l))) (modBits w 0 (A l))
  let c := fun l => condOf ty (r l) [fDecode ty (A l)]
  LongWord s x w.fs [srcOf 0 w.a (nTy ty)] o (toFlt x ty w.d.toNat (fun l => (r l).bits)) (wtypeOf w) c
    (fun outs => Carries outs x.act c A (fun _ => 0) (fun _ => 0))

/-- A packed word delivers `op` of the sources' low halves and of their high halves (R175). -/
def FltPacked (s : State) (x : Ctx) (w : FmtAX) (o : Host.Outcome State Fault Refusal) (flds : List Fld) (op : Nat → Nat → Bool → List FVal → FOut) : Prop :=
  let ty := w.ty.toNat
  let half := fun l h => flds.map (fun f => fDecode ty (readPk x f ty l / 2 ^ (16 * h) % 2 ^ 16))
  let r := fun l h => op ty w.rnd.toNat w.sat ((List.range flds.length).map (fun i => modVal w i ((half l h).getD i fOne)))
  LaneFree s x ((List.range flds.length).map (fun i => srcOf i (flds.getD i w.a) 1)) false →
  NoneMet x (fun l => condOf ty (r l 0) (half l 0) ||| condOf ty (r l 1) (half l 1)) →
  LaneEffect s x false o (toReg x w.d.toNat (fun l => wordOf ((r l 0).bits + 2 ^ 16 * (r l 1).bits))) noBit

/-! ## Scalar words (R181) -/

/-- The issuing group `g` after a scalar word: scalar `n` holds `v n` where that names a value; nothing else changes, and the gang
goes on. -/
structure SclWrites (x : Ctx) (g : Group) (v : Nat → Option Word) : Prop where
  rest : g = { x.g with s := g.s, quads := g.quads }
  on : GoesOn x g
  slots : ∀ n, getS g n = ((v n).map (fun y => ({ val := y, poison := false } : Slot))).getD (getS x.g n)

/-- A scalar word: nothing but the gang's advance with ACTIVE empty; else its sources, free of poison, give the group's new scalars. -/
def SclEffect (s : State) (x : Ctx) (srcs : List Src) (o : Host.Outcome State Fault Refusal) (v : Nat → Option Word) : Prop :=
  (x.act = 0 → ∃ t g, o = .next t ∧ GroupStep s t x g ∧ OnlyMoves x g)
  ∧ (x.act ≠ 0 → Reads x srcs x.act → ∃ t g, o = .next t ∧ GroupStep s t x g ∧ SclWrites x g v)

/-- Scalar `d`. -/
def toS (d : Nat) (y : Word) (n : Nat) : Option Word := if n = d then some y else none
/-- The pair `d`, `d` + 1. -/
def toSPair (d y : Nat) (n : Nat) : Option Word := if n = d then some (wordOf y) else if n = d + 1 then some (wordOf (y / 2 ^ 32)) else none
/-- A result of an integer type. -/
def toSTy (ty d y : Nat) : Nat → Option Word := if tyPair ty then toSPair d y else toS d (wordOf y)
/-- A result of an integer word: exact in a pair with WIDE, else reduced or clamped to TYPE (R155). -/
def toSInt (w : FmtAX) (r : Int) : Nat → Option Word :=
  if w.wide then toSPair w.d.toNat (wrapNat 64 r) else toSTy w.ty.toNat w.d.toNat (intResult w.ty.toNat w.sat r)

/-! ## Memory words (R186-R209) -/

/-- The lanes' accesses of a memory word, and the pieces of those that act. -/
def memPlans (s : State) (x : Ctx) (f : MemForm) (w : FmtM) : List LanePlan := (lanesOf (memLanes x f)).map (planOf s x f w)
def memPieces (s : State) (x : Ctx) (f : MemForm) (w : FmtM) : List Acc :=
  ((memPlans s x f w).filter (planActs s x f w)).flatMap (planAccs f)
/-- The group has its sticky bit where a confirmed lane is out of bounds (R190). -/
def memMarked (s : State) (x : Ctx) (f : MemForm) (w : FmtM) : State :=
  if setsSticky x f (memPlans s x f w) then modGrp s x.c.wg x.c.grp (setSticky w.buf.toNat) else s
/-- The pieces with their places; one that does not translate is faulted (R193, R195). -/
def memPlaced (s : State) (x : Ctx) (f : MemForm) (w : FmtM) : List Acc × State :=
  if f.canvas then (memPieces s x f w, memMarked s x f w)
  else placeAccs (dieOf s x.w.lcore) x.l.part (f.kind != .load) (memMarked s x f w) (memPieces s x f w)
/-- The pieces of the word's operation: a helper lane's load of which a piece does not translate, or lies out of reach, has none (R116). -/
def memAccs (s : State) (x : Ctx) (f : MemForm) (w : FmtM) : List Acc := actPieces s x f (memPlaced s x f w).1
/-- The lines of 128 bytes whose pieces faulted: each takes an entry of the die's operand log (R195). -/
def faultedLines (as : List Acc) : List Nat := dedupNat ((as.filter (fun a => a.st == .unlogged)).map (fun a => a.va / 128))

/-- A memory word is free to issue: it acts for a lane, consumes no poison, meets none of the traps of R189 and R370, and nothing it
waits for holds it (R39, R191, R195, R330); under a prediction nothing of it needs a confirmed lane (R123). -/
structure MemFree (s : State) (x : Ctx) (f : MemForm) (w : FmtM) : Prop where
  act : x.act ≠ 0
  clean : Reads x (memSrcs f w) x.act
  flag : flagFull x.g (flagSel x.c.clause w.fs) = false
  legal : memTrap s x f w (memPlans s x f w) = none
  room : memWaits s x (flagSel x.c.clause w.fs) (memPieces s x f w) = false
  buffer : bufferFull x f (memPieces s x f w) = false
  reach : peerTrap s x f ((memAccs s x f w).filter (surePiece x f)) = none
  sure : predicted x = true → setsSticky x f (memPlans s x f w) = false ∧ (memAccs s x f w).any (fun a => a.st == .unlogged) = false

/-- Slot `k` of lane `l` takes no byte from memory, and is zero at issue (R192). -/
def emptySlot (o : Op) (l k : Nat) : Prop := k < slotsOf o.width ∧ slotAccs o l k = []

/-- The pieces `as` of a word, and as they stand once its faulted lines have tried the operand log: with room for all, all are in it. -/
def Logged (room : Bool) (as bs : List Acc) : Prop :=
  bs.length = as.length ∧ ∀ (i : Nat) (a : Acc), as[i]? = some a → ∃ b : Acc, bs[i]? = some b ∧ b = { a with st := b.st }
    ∧ (a.st ≠ .unlogged → b.st = a.st) ∧ (a.st = .unlogged → b.st = .logged ∨ (b.st = .unlogged ∧ room = false))

/-- The interval of a CHECKED workgroup once the word has issued: a buffer with more than 384 entries, or a log with more
than 90 rows, calls for a cut (R330, R331). -/
def intervalAfter (s : State) (x : Ctx) (f : MemForm) (w : FmtM) : Option Checked :=
  x.w.chk.map (fun c => if bufferDue x c f (memAccs s x f w) then { c with cutDue := true } else c)

/-- A memory word issues: from `s` to `t` its operation joins the issuing group, its flag counts it, slots that no byte comes for
are zero, and the sticky bit stands; translation may fill a TLB, and faulted lines enter the operand log, with FAULT messages. No
byte of memory changes. -/
structure MemIssued (s t : State) (x : Ctx) (f : MemForm) (w : FmtM) (g : Group) : Prop where
  rest : t = { s with wgs := t.wgs, nextId := s.nextId + 1, dies := t.dies, faults := t.faults, outbox := t.outbox, devSeq := t.devSeq }
  others : ∀ id, id ≠ x.c.wg → findWg t id = findWg s id
  here : findWg t x.c.wg = some { x.w with groups := modifyAt x.w.groups x.c.grp (fun _ => g), chk := intervalAfter s x f w }
  group : g = { x.g with v := g.v, s := g.s, f := g.f, oob := g.oob, ops := g.ops, split := g.split, quads := g.quads }
  on : GoesOn x g
  idle : memAccs s x f w = [] → g.ops = x.g.ops
  ops : memAccs s x f w ≠ [] → ∃ as, Logged (decide (logUse s (dieOf s x.w.lcore) + (faultedLines (memAccs s x f w)).length ≤ logSize)) (memAccs s x f w) as
    ∧ g.ops = x.g.ops ++ [memOp s x f w as (flagSel x.c.clause w.fs) (opensSplit x f w)]
    ∧ ∀ a ∈ as, a.st = .logged → faultPending t x.l.part (pageOf a.va) = true
  flags : ∀ n, getF g n = getF (if memAccs s x f w = [] then x.g else flagInc x.g (flagSel x.c.clause w.fs)) n
  sticky : g.oob = if setsSticky x f (memPlans s x f w) then x.g.oob ||| BitVec.ofNat 16 (2 ^ w.buf.toNat) else x.g.oob
  slots : ∀ n l, l < 16 →
    ((f.kind = .load ∨ f.ret = true) ∧ f.scalar = false ∧ hasLane x.act l = true ∧ w.d.toNat ≤ n
        ∧ emptySlot (memOp s x f w (memAccs s x f w) none false) l (n - w.d.toNat) →
      getV g n l = { val := 0, poison := false })
    ∧ (¬((f.kind = .load ∨ f.ret = true) ∧ f.scalar = false ∧ hasLane x.act l = true ∧ w.d.toNat ≤ n
        ∧ emptySlot (memOp s x f w (memAccs s x f w) none false) l (n - w.d.toNat)) → getV g n l = getV x.g n l)
  scalars : ∀ n l, lowestLane x.act = some l →
    (f.scalar = true ∧ w.d.toNat ≤ n ∧ emptySlot (memOp s x f w (memAccs s x f w) none false) l (n - w.d.toNat) → getS g n = slot0)
    ∧ (¬(f.scalar = true ∧ w.d.toNat ≤ n ∧ emptySlot (memOp s x f w (memAccs s x f w) none false) l (n - w.d.toNat)) → getS g n = getS x.g n)
  split : g.split = if opensSplit x f w then (openSplit x s.nextId (flagSel x.c.clause w.fs) x.g).split else x.g.split

/-- The operation `o` stands in front of group `b` of workgroup `a`, and no other of the group is over. -/
structure InFront (s : State) (a b : Nat) (g : Group) (o : Op) (later : List Op) : Prop where
  group : findGrp s a b = some g
  ops : g.ops = o :: later
  others : ∀ k ∈ later, k.id ≠ o.id ∧ opOver k = false

/-- The event names operation `o` of the group. -/
def Names (s : State) (o : Op) : Prop := s.arg.c = o.id

/-- The workgroup is not CHECKED: it has no interval. -/
def Unchecked (s : State) (wg : Nat) : Prop := ∃ w, findWg s wg = some w ∧ w.chk = none

/-- A piece still to do, in device memory or a canvas window. -/
def Todo (a : Acc) : Prop := a.st = .todo ∧ isPeer a.loc = false

/-- No window of the rods is open to other accesses (R283). -/
def NoYield (s : State) : Prop := ∀ c ∈ s.calls, c.yld = none

/-- Byte `p` of device memory lies in the `n` bytes at a piece's place; byte `b` of window `v`. -/
def covers (a : Acc) (n p : Nat) : Prop := ∃ pa, a.loc = .global pa ∧ pa ≤ p ∧ p < pa + n
def coversWin (a : Acc) (n v b : Nat) : Prop := ∃ o, a.loc = .canvas v o ∧ o ≤ b ∧ b < o + n

/-- Byte `b` of a workgroup's canvas window. -/
def winByte (s : State) (wg b : Nat) : Byte := match findWg s wg with | some w => smGet w.win b 0 | none => 0

/-- No byte that a piece reads is poisoned (R234, R284). -/
def cleanAt (s : State) (a : Acc) : Prop := anyBad (locRead s a.loc a.len) = false

/-- The sequences of an atomic, one piece after the other: the storage after, and the old bytes of each (R208). -/
def atomRun (aop : Nat) : State → List Acc → State × List (List Byte)
  | s, [] => (s, [])
  | s, a :: r =>
    let old := (locRead s a.loc a.len).map Prod.fst
    let t := atomRun aop (locWrite s a.loc (atomNew aop a.len old a.data)) r
    (t.1, old :: t.2)

/-! ## Control flow (R117, R133-R137) -/

/-- From `s` to `t` the issuing group becomes `g`, and the core's predictor may learn; nothing else changes. -/
structure FlowStep (s t : State) (x : Ctx) (g : Group) : Prop where
  rest : t = { s with wgs := t.wgs, cores := t.cores }
  others : ∀ id, id ≠ x.c.wg → findWg t id = findWg s id
  here : findWg t x.c.wg = some { x.w with groups := modifyAt x.w.groups x.c.grp (fun _ => g) }

/-- No quad of the gang is near its stack's end: two entries fit (R117, R132). -/
def StackRoom (x : Ctx) : Prop := ∀ q, hasQuad x.c.quads q = true → (quadAt x.g q).stack.length ≤ 6

/-- Entries that a division pushes on a quad's stack: a GANG entry where the quads part and a rejoin point is named, and a LANE
entry where the quad's own lanes part (R117). -/
def pushed (x : Ctx) (take : LMask) (tgt fall : Word) (rj : Option Word) (q : Nat) : Nat :=
  (if apart x.c.quads (nextOf x.g take tgt fall) && rj.isSome then 1 else 0)
    + (if quadPart take q &&& (quadAt x.g q).run ≠ 0 ∧ (quadAt x.g q).run &&& ~~~quadPart take q ≠ 0 then 1 else 0)

/-- No quad of the gang takes a ninth entry (R117). -/
def StackFits (x : Ctx) (take : LMask) (tgt fall : Word) (rj : Option Word) : Prop :=
  ∀ q, q < 4 → hasQuad x.c.quads q = true → (quadAt x.g q).stack.length + pushed x take tgt fall rj q ≤ 8

/-- The division of a gang by a branch whose taken lanes are `take` (R117): each quad goes to the target with its taken lanes, and
its other lanes wait in a LANE entry for the fall-through; where the quads part and a rejoin point is named, a GANG entry lies
below; the entries of a predicted branch are marked `spec` (R122); quads that go on together are one gang. -/
structure Divided (x : Ctx) (g : Group) (take : LMask) (tgt fall : Word) (rj : Option Word) (spec : Bool) (d : Group) : Prop where
  rest : d = { g with quads := d.quads }
  outside : ∀ q, q < g.quads.length → hasQuad x.c.quads q = false → quadAt d q = quadAt g q
  inside : ∀ q, q < g.quads.length → hasQuad x.c.quads q = true →
    let a := quadAt g q
    let b := quadAt d q
    let on := quadPart take q &&& a.run
    let off := a.run &&& ~~~quadPart take q
    let st := if apart x.c.quads (nextOf g take tgt fall) && rj.isSome then gangEntry rj x.c.quads spec :: a.stack else a.stack
    b = { a with pc := b.pc, clause := none, gang := b.gang, stack := b.stack, run := b.run }
    ∧ (off = 0 → b.pc = tgt ∧ b.run = a.run ∧ b.stack = st)
    ∧ (off ≠ 0 → on = 0 → b.pc = fall ∧ b.run = a.run ∧ b.stack = st)
    ∧ (off ≠ 0 → on ≠ 0 → b.pc = tgt ∧ b.run = on ∧ b.stack = laneEntry rj fall off a.run spec none :: st)
  gangs : ∀ p q, p < g.quads.length → q < g.quads.length → hasQuad x.c.quads p = true → hasQuad x.c.quads q = true →
    ((quadAt d p).gang = (quadAt d q).gang ↔ (quadAt d p).pc = (quadAt d q).pc)

/-- The lowest lane of a quad in a set. -/
def firstIn (m : LMask) (q : Nat) : Option Nat := (lanesOf m).find? (fun l => l / 4 == q)

/-- Where an indirect branch sends a quad: to the target of its lowest lane in ACTIVE, and without one to the fall-through (R134). -/
def sentNext (x : Ctx) (tg : Nat → Word) (q : Nat) : Word := match firstIn x.act q with | none => fallOf x.c.clause | some l0 => tg l0

/-- Lanes of the quad that go there now: those of ACTIVE that share that target; a quad with no lane in ACTIVE goes as it runs. -/
def sentRun (x : Ctx) (tg : Nat → Word) (q : Nat) : QMask :=
  match firstIn x.act q with
  | none => (quadAt x.g q).run
  | some l0 => quadPart (maskOf (fun l => hasLane x.act l && l / 4 == q && tg l == tg l0)) q

/-- Lanes of the quad that stay pending at the branch. -/
def sentRest (x : Ctx) (tg : Nat → Word) (q : Nat) : QMask := (quadAt x.g q).run &&& ~~~sentRun x tg q

/-- The quads part, a rejoin point is named, and none of them resumed at this branch: each takes a GANG entry (R117, R134). -/
def sentApart (x : Ctx) (tg : Nat → Word) (rj : Option Word) : Bool :=
  apart x.c.quads (sentNext x tg) && rj.isSome && !(quadsOf x.c.quads).any (fun q => reuses (quadAt x.g q))

/-- A quad's stack after an indirect branch (R134): lanes that resumed at it reuse the top entry; else a LANE entry holds the lanes
that stay, above a GANG entry where the quads part. -/
def sentStack (x : Ctx) (tg : Nat → Word) (rj : Option Word) (q : Nat) : List StackEntry :=
  let a := quadAt x.g q
  if reuses a then (a.stack.take 1).map (fun e => { e with pmask := sentRest x tg q, again := false }) ++ a.stack.drop 1
  else (if sentRest x tg q = 0 then [] else [laneEntry rj x.c.pc (sentRest x tg q) a.run false (some x.c.clause)])
    ++ (if sentApart x tg rj then [gangEntry rj x.c.quads false] else []) ++ a.stack

/-- No quad of the gang takes a ninth entry at an indirect branch (R117). -/
def SentFits (x : Ctx) (tg : Nat → Word) (rj : Option Word) : Prop :=
  ∀ q, q < 4 → hasQuad x.c.quads q = true → (sentStack x tg rj q).length ≤ 8

/-- The division of a gang by an indirect branch (R134): each quad goes to the target of its lowest lane in ACTIVE with the lanes
that share it; the rest wait in a LANE entry at the branch itself. A quad with no lane in ACTIVE falls through. Quads that go on
together are one gang. -/
structure Sent (x : Ctx) (g : Group) (tg : Nat → Word) (rj : Option Word) (d : Group) : Prop where
  rest : d = { g with quads := d.quads }
  length : d.quads.length = g.quads.length
  outside : ∀ q, q < g.quads.length → hasQuad x.c.quads q = false → quadAt d q = quadAt g q
  inside : ∀ q, q < g.quads.length → hasQuad x.c.quads q = true →
    quadAt d q = { quadAt g q with pc := sentNext x tg q, clause := none, gang := (quadAt d q).gang, stack := sentStack x tg rj q, run := sentRun x tg q }
  gangs : ∀ p q, p < g.quads.length → q < g.quads.length → hasQuad x.c.quads p = true → hasQuad x.c.quads q = true →
    ((quadAt d p).gang = (quadAt d q).gang ↔ (quadAt d p).pc = (quadAt d q).pc)

/-- A quad once the lanes of ACTIVE have exited (R138): they leave its running mask and its entries' masks, helper lanes with the last
counted lane (R116), and quads that have ended leave every SIB; one with no live lane is done. -/
structure Exited (x : Ctx) (d : Group) : Prop where
  length : d.quads.length = x.g.quads.length
  ended : ∀ q, q < x.g.quads.length → liveAfter x.g x.act q = 0 →
    quadAt d q = { quadAt x.g q with live := 0, run := 0, stack := [], st := .done, clause := none, park := .none, pred := none, replay := none, refused := [] }
  goes : ∀ q, q < x.g.quads.length → liveAfter x.g x.act q ≠ 0 →
    let live := liveAfter x.g x.act q
    let alive := qmaskOf (fun k => liveAfter x.g x.act k != 0)
    let masked := (quadAt x.g q).stack.map (fun e => { e with pmask := e.pmask &&& live, omask := e.omask &&& live, sib := e.sib &&& alive })
    quadAt d q = { quadAt x.g q with live := live, run := (quadAt x.g q).run &&& live, stack := masked }

/-- The outstanding loads of lanes that have exited are discarded, and the flags of what is then over fall (R138). -/
def withoutLoads (x : Ctx) (gone : LMask) : Group :=
  finishGrp { x.g with ops := x.g.ops.map (fun o =>
    if o.kind = .load ∧ o.scalar = false then { o with lanes := o.lanes &&& ~~~gone, accs := o.accs.filter (fun a => !hasLane gone a.lane) } else o) }

/-- Once its gang has gone on, a ready group of the slot waits to take the issuing group's place (R113). -/
def pendingReady (s : State) (x : Ctx) : Bool :=
  let u := advance s x.c
  (slotGroups u (coreOf s x.w) x.g.slot).any (fun e => !e.2.2.active && groupReady u e.1 e.2.1)

/-- The issuing group after a YIELD: it leaves the active set, with age 0, where another is ready (R113, R139). -/
def yielded (s : State) (x : Ctx) : Group :=
  if pendingReady s x then { advanceGrp x.c x.g with active := false, since := now s } else advanceGrp x.c x.g

/-! ## Traps (R314-R316) -/

/-- A trap of the issuing word is taken at once: no side is predicted or replaying, no gang is inside a word to finish, no lane word
that holds its gang is pending, and the launch has a handler that the group is not in. -/
structure TrapReady (x : Ctx) : Prop where
  replay : x.c.replay = false
  sure : speculative x.g = false
  waits : trapWaits x.g = false
  held : heldLaneWords (enablesOf x.l) x.g = []
  handler : hasHandler x.l = true
  outside : x.g.inHandler = false

/-- The group has entered its handler for trap `tr`: the frame and the context are written, refusals that wait stand until it is left,
every quad with a live counted lane starts at HANDLER with all its live lanes, as one gang, and nothing else of the group changes. -/
structure Entered (g0 : Group) (l : Launch) (tr : Trap) (g : Group) : Prop where
  rest : g = { g0 with trap := trapFrame tr, ctx := g0.quads, ctxQuads := tr.quads, ctxHeader := tr.header, inHandler := true, quads := g.quads,
                       refusals := g0.refusals.map (fun r => { r with stands := true }) }
  length : g.quads.length = g0.quads.length
  on : ∀ q, q < g0.quads.length → quadLift (quadAt g0 q).live q &&& g0.counted ≠ 0 →
    let b := quadAt g q
    b.pc = l.handler ∧ b.run = (quadAt g0 q).live ∧ b.live = (quadAt g0 q).live ∧ b.stack = [] ∧ b.st = .running ∧ b.clause = none
  off : ∀ q, q < g0.quads.length → quadLift (quadAt g0 q).live q &&& g0.counted = 0 → (quadAt g q).st = .done

/-- The issuing group has entered its handler. -/
def InHandler (x : Ctx) (tr : Trap) (g : Group) : Prop := Entered x.g x.l tr g

/-- A word that takes trap `tr`. -/
def Traps (s : State) (x : Ctx) (o : Host.Outcome State Fault Refusal) (tr : Trap) : Prop :=
  ∃ t g, o = .next t ∧ GroupStep s t x g ∧ InHandler x tr g

/-- A group's sequencers after a return of the quads `m` of the trap context to `goal` (R343): every other quad stands as at the trap,
with the lanes that still live; a gang that passes an indirect branch by does not reuse its entry there (R134). -/
structure Returned (x : Ctx) (m : QMask) (goal : Word) (d : Group) : Prop where
  rest : d = { x.g with inHandler := false, kept := [], ctxQuads := m, quads := d.quads, refusals := x.g.refusals.map (fun r => { r with stands := false }) }
  length : d.quads.length = x.g.ctx.length
  quads : ∀ q, q < x.g.ctx.length →
    let a := x.g.ctx.getD q quad0
    let live := (quadAt x.g q).live
    let b := { a with live := live, run := a.run &&& live }
    let stack := if goal = getTrap x.g 0x101 then a.stack else a.stack.map (fun e => { e with again := false })
    (live = 0 → quadAt d q = { b with st := .done })
    ∧ (live ≠ 0 → hasQuad m q = true → quadAt d q = { b with pc := goal, st := .running, park := .none, clause := clauseAt goal a, stack := stack })
    ∧ (live ≠ 0 → hasQuad m q = false → quadAt d q = b)

/-! ## Enabled conditions (R148, R149) -/

/-- Lanes of ACTIVE that trap: counted lanes in which an enabled condition of `c` holds. -/
def metLanes (x : Ctx) (c : Nat → BitVec 5) : LMask := maskOf (fun l => hasLane x.act l && hasLane x.g.counted l && (c l &&& enablesOf x.l != 0))

/-- A lane word whose lanes meet conditions `c`, an enabled one among them, takes NONFINITE for the lanes that meet one: nothing is
written, no flag stays raised, no entry is left in the replay queue (R131), and the frame shows the word, its types, the conditions and the sources as read (R149). -/
def TakesNonfinite (s : State) (x : Ctx) (o : Host.Outcome State Fault Refusal) (srcs : List Src) (wtype : Nat) (c : Nat → BitVec 5) (opa opb opc : Nat → Nat) : Prop :=
  LaneFree s x srcs false → TrapReady x → metLanes x c ≠ 0 →
  ∃ t g tr, o = .next t ∧ GroupStep s t x g ∧ InHandler x tr g ∧ tr.kind = .nonfinite ∧ tr.sub = 0 ∧ tr.mask = metLanes x c ∧ tr.pc = x.c.pc
    ∧ tr.resume = x.c.pc ∧ tr.wtype = wtype ∧ tr.quads = x.c.quads ∧ Carries tr.outs x.act c opa opb opc ∧ ∀ l, hasLane x.act l = false → outOf tr.outs l = none

/-- The trap of a word of two sources of TYPE, of one source, and of a packed word. -/
def FltTwoTraps (s : State) (x : Ctx) (w : FmtAX) (o : Host.Outcome State Fault Refusal) (op : Nat → Nat → Bool → FVal → FVal → FOut) : Prop :=
  let ty := w.ty.toNat
  let rty := if w.wide then 11 else ty
  let A := fun l => readFlt x w.a ty l
  let B := fun l => readFlt x w.b ty l
  TakesNonfinite s x o [srcOf 0 w.a (nTy ty), srcOf 1 w.b (nTy ty)] (wtypeOf w)
    (fun l => condOf rty (op rty w.rnd.toNat w.sat (modVal w 0 (fDecode ty (A l))) (modVal w 1 (fDecode ty (B l)))) [fDecode ty (A l), fDecode ty (B l)])
    A B (fun _ => 0)

def FltOneTraps (s : State) (x : Ctx) (w : FmtAX) (o : Host.Outcome State Fault Refusal) (op : Nat → Nat → Bool → FVal → FOut) : Prop :=
  let ty := w.ty.toNat
  let A := fun l => readFlt x w.a ty l
  TakesNonfinite s x o [srcOf 0 w.a (nTy ty)] (wtypeOf w)
    (fun l => condOf ty (op ty w.rnd.toNat w.sat (modVal w 0 (fDecode ty (A l)))) [fDecode ty (A l)]) A (fun _ => 0) (fun _ => 0)

def FltPackedTraps (s : State) (x : Ctx) (w : FmtAX) (o : Host.Outcome State Fault Refusal) (flds : List Fld) (op : Nat → Nat → Bool → List FVal → FOut) : Prop :=
  let ty := w.ty.toNat
  let half := fun l h => flds.map (fun f => fDecode ty (readPk x f ty l / 2 ^ (16 * h) % 2 ^ 16))
  let r := fun l h => op ty w.rnd.toNat w.sat ((List.range flds.length).map (fun i => modVal w i ((half l h).getD i fOne)))
  let src := fun i l => (flds.map (fun f => readPk x f ty l)).getD i 0
  TakesNonfinite s x o ((List.range flds.length).map (fun i => srcOf i (flds.getD i w.a) 1)) (wtypeOf w)
    (fun l => condOf ty (r l 0) (half l 0) ||| condOf ty (r l 1) (half l 1)) (src 0) (src 1) (src 2)

/-! ## Synchronisation (R300-R310) -/

/-- The gang is parked past its word. -/
def Parks (x : Ctx) (p : Park) (g : Group) : Prop :=
  g = { x.g with quads := g.quads } ∧ ∀ q, q < x.g.quads.length → hasQuad x.c.quads q = true → (quadAt x.g q).live ≠ 0 →
    (quadAt g q).st = .parked ∧ (quadAt g q).park = p ∧ (quadAt g q).pc = x.c.next

/-- A group-level word acts in a workgroup with no interval and a group with nothing outstanding (R116, R307, R329). -/
structure GroupActs (x : Ctx) : Prop where
  act : groupAct x ≠ 0
  plain : x.w.chk = none
  idle : x.g.ops = []

/-- The group has nothing outstanding, which a cut sees to in a workgroup with an interval (R329). -/
def Idles (x : Ctx) : Prop := x.w.chk = none → x.g.ops = []

/-- A word that an interval cut precedes starts in `b`, where its gang sees `y`, and ends what it leaves by `fin` (R299, R329): with no
interval it is performed at once; in a CHECKED workgroup whose cut can fall, the buffer commits first, and the next interval opens on
what the word leaves. -/
structure Cuts (s : State) (x : Ctx) (b : State) (y : Ctx) (fin : State → State) : Prop where
  plain : x.w.chk = none → b = s ∧ y = x ∧ fin = id
  cut : x.w.chk ≠ none → cutReady s x.w = true ∧ b = commitBuf s x.c.wg ∧ fin = (openInterval · x.c.wg)
  same : y = { x with w := y.w, g := y.g }
  wg : findWg b x.c.wg = some y.w
  grp : y.w.groups[x.c.grp]? = some y.g

/-- A word whose cut cannot fall yet leaves its gang at the word. -/
def WaitsCut (s : State) (x : Ctx) (o : Host.Outcome State Fault Refusal) : Prop :=
  ∃ t, o = .next t ∧ GroupStep s t x (stayGrp x.c .cut x.g)

/-- A word takes trap `tr` in state `b`, where its gang sees `y`. -/
def TrapsIn (b : State) (y : Ctx) (o : Host.Outcome State Fault Refusal) (tr : Trap) : Prop :=
  ∃ t g, o = .next t ∧ t = { b with wgs := t.wgs } ∧ (∀ id, id ≠ y.c.wg → findWg t id = findWg b id) ∧ InHandler y tr g
    ∧ ∀ w, findWg b y.c.wg = some w → findWg t y.c.wg = some { w with groups := modifyAt w.groups y.c.grp (fun _ => g) }

/-- A phaser word acts: its operands hold no poison. -/
structure PhaserReady (x : Ctx) (w : FmtY) (useK : Bool) : Prop where
  acts : groupAct x ≠ 0
  idle : Idles x
  clean : Reads x (srcOf 0 w.a 1 :: (if useK then [{ which := 3, code := BitVec.ofNat 8 (0x80 + w.k.toNat % 64), n := 1 }] else [])) x.act

/-- A phaser word reaches the object at `boff` of window `wg` in state `b` (R303): its address passes R188, no copy's lock covers it, and
no access to it stalls. -/
structure PhaserAt (b : State) (x : Ctx) (w : FmtY) (useK : Bool) (wg boff : Nat) : Prop where
  ready : PhaserReady x w useK
  place : ∃ t, canvasAt b x.l x.w (readUN b x w.a) 16 = some (t, boff) ∧ t.id = wg ∧ findWg b wg = some t ∧ lockHit b x.l.id (dieOf b t.lcore) (.canvas wg) boff 16 false = none
  free : stalledAt b x.c.wg (.canvas wg boff) = false

/-- From `b` to `u` the object at `boff` of window `wg` becomes `q`, the gangs that wait there run on where `ended` says that its
generation has ended, and the issuing group makes `move`; nothing else changes. -/
structure ObjectPut (b u : State) (x : Ctx) (wg boff : Nat) (q : Phaser) (ended : Bool) (move : Group → Group) : Prop where
  rest : u = { b with wgs := u.wgs }
  object : phRead u wg boff = q
  bytes : ∀ v k, ¬(v = wg ∧ boff ≤ k ∧ k < boff + 16) → winByte u v k = winByte b v k
  wgs : ∀ v w, findWg b v = some w → ∃ w', findWg u v = some w' ∧ w' = { w with groups := w'.groups, win := w'.win, winPoison := w'.winPoison, chk := w'.chk }
  groups : ∀ v k, findGrp u v k = (findGrp b v k).map (fun g =>
    let g1 := if ended then unparkGrp (onPhaser wg boff) g else g
    if v = x.c.wg ∧ k = x.c.grp then move g1 else g1)

/-- From `b` to `u` the object at `boff` of window `wg` becomes `q`, and, where `ended` says so, the gangs whose wait is of `waits`
run on; nothing else changes. -/
structure ObjectSet (b u : State) (wg boff : Nat) (q : Phaser) (ended : Bool) (waits : Park → Bool) : Prop where
  rest : u = { b with wgs := u.wgs }
  object : phRead u wg boff = q
  bytes : ∀ v k, ¬(v = wg ∧ boff ≤ k ∧ k < boff + 16) → winByte u v k = winByte b v k
  wgs : ∀ v w, findWg b v = some w → ∃ w', findWg u v = some w' ∧ w' = { w with groups := w'.groups, win := w'.win, winPoison := w'.winPoison, chk := w'.chk }
  groups : ∀ v k, findGrp u v k = (findGrp b v k).map (fun g => if ended then unparkGrp waits g else g)

/-- The completion test of R302 finds the generation over. -/
def ends (p : Phaser) : Bool := p.pend == 0 && p.inb == 0

/-- The object after the completion test of R302: with PEND and INB zero a generation ends. -/
def tested (p : Phaser) : Phaser := if p.pend = 0 ∧ p.inb = 0 then { p with gen := (p.gen + 1) % 16, pend := p.nsig } else p

/-! ## The canvas (R217-R247, R264-R267) -/

/-- The workgroup is the only one of its number, and its group waits for no record. -/
structure Sole (s : State) (x : Ctx) : Prop where
  one : ∀ v ∈ s.wgs, v.id = x.c.wg → v = x.w
  idle : x.g.ops = []

/-- A canvas word is free to issue: a counted lane acts, its flag has room, it consumes no poison, and a queue slot is free (R237, R323). -/
structure CanvasFree (s : State) (x : Ctx) (srcs : List Src) (fl : Option Nat) : Prop where
  sole : Sole s x
  act : groupAct x ≠ 0
  flag : flagFull x.g fl = false
  clean : Reads x srcs x.act
  room : canvasFull x = false

/-- A canvas word joins the queues of its banks: from `s`, its workgroup has one more word in flight, each named bank one more entry,
and its flag counts it; nothing else changes but the gang's advance (R228, R237). -/
def CanvasQueued (s : State) (x : Ctx) (o : Host.Outcome State Fault Refusal) (fl : Option Nat) (kind : CWordKind) (rows : List CRow)
    (banks blocks : List Nat) : Prop :=
  ∃ t v c g, o = .next t ∧ t = { s with wgs := t.wgs, nextId := s.nextId + 1 } ∧ (∀ id, id ≠ x.c.wg → findWg t id = findWg s id)
    ∧ findWg t x.c.wg = some v
    ∧ v = { x.w with groups := modifyAt x.w.groups x.c.grp (fun _ => g), banks := v.banks, cwords := x.w.cwords ++ [c] }
    ∧ c.id = s.nextId ∧ c.kind = kind ∧ c.rows = rows ∧ c.left = banks ∧ c.flag = fl ∧ c.lanes = x.act
    ∧ v.banks.length = x.w.banks.length
    ∧ (∀ k b, x.w.banks[k]? = some b → v.banks[k]? = some (if banks.contains k then { b with queue := b.queue ++ [.word c.id blocks] } else b))
    ∧ g = { flagInc x.g fl with quads := g.quads } ∧ GoesOn x g

/-- Bank `k` performs the entry at the head of its queue: the workgroup goes on, no residue is corrupted, and it has no interval. -/
structure AtHead (s : State) (w : Workgroup) (b : Bank) (c : CWord) (blocks : List Nat) (rest : List QEntry) : Prop where
  wg : findWg s s.arg.a = some w
  bank : w.banks[s.arg.b]? = some b
  queue : b.queue = .word c.id blocks :: rest
  word : findCWord w c.id = some c
  goes : banksGo s w = true
  residues : b.resBad = []
  plain : w.chk = none
  once : ∀ e ∈ rest, qEntryId e ≠ c.id

/-- From `s` to `t` only the workgroup of the event changes, and of it bank `k` becomes `b'`; words in flight and flags may fall. -/
structure BankStep (s t : State) (w : Workgroup) (k : Nat) (b' : Bank) : Prop where
  rest : t = { s with wgs := t.wgs }
  others : ∀ id, id ≠ s.arg.a → findWg t id = findWg s id
  here : ∃ v, findWg t s.arg.a = some v ∧ v = { w with groups := v.groups, cwords := v.cwords, banks := v.banks }
    ∧ v.banks[k]? = some b' ∧ ∀ j, j ≠ k → v.banks[j]? = w.banks[j]?

/-- Metadata bytes of a stream in a window. -/
def metaOf (t : Workgroup) (boff i : Nat) : Nat := (smGet t.win (boff + i) 0).toNat

/-- A stream word reads `n` metadata bytes at canvas address `a`: they lie in window `t` at `boff`, unpoisoned and under no lock, and
the group has nothing outstanding (R266). -/
structure StreamAt (s : State) (x : Ctx) (a n : Nat) (t : Workgroup) (boff : Nat) : Prop where
  range : canvasRange s x a n = some (t, boff)
  free : stalledAt s x.c.wg (.canvas t.id boff) = false
  idle : x.g.ops = []
  clean : t.winPoison = []
  unlocked : ∀ o k, groupHazard s x t (boff + o) k (a + o) false = none

/-- The issuing group `g` after a stream word: register `n` holds `q`. -/
def StreamWrites (x : Ctx) (g : Group) (n : Nat) (q : Stream) : Prop :=
  g = { x.g with q := g.q, quads := g.quads } ∧ GoesOn x g ∧ ∀ k, getQ g k = if k = n then q else getQ x.g k

/-- A record's 4-byte word at `pa` goes from `v` to `v'`, and no other byte of memory changes. -/
def WordChanges (s t : State) (pa v v' : Nat) : Prop :=
  memNat s pa 4 = v ∧ memNat t pa 4 = v' ∧ ∀ p, ¬(pa ≤ p ∧ p < pa + 4) → memByte t p = memByte s p

/-! ## Copies (R248-R263) -/

/-- What a copy word sees at its elected lane. -/
def copyCtx (x : Ctx) (w : FmtC) (l : Nat) : CopyCtx := { x := x, l := l, fl := flagSel x.c.clause w.fs, ph := w.md.getLsbD 0 }

/-- A copy word with elected lane `l` is free to issue: nothing of its group is outstanding that no cut sees to, no wait of its own
stands, its flag has room and it consumes no poison. -/
structure CopyFree (s : State) (x : Ctx) (w : FmtC) (srcs : List Src) (l : Nat) : Prop where
  one : ∀ v ∈ s.wgs, v.id = x.c.wg → v = x.w
  idle : Idles x
  waits : ∀ o ∈ x.g.ops, isWaitOp x o = false
  elected : lowestLane (x.act &&& x.g.counted) = some l
  flag : flagFull x.g (flagSel x.c.clause w.fs) = false
  clean : Reads x (srcs ++ (if w.md.getLsbD 0 then [srcOf 3 w.e 1] else [])) (laneBit l)

/-- The word reads tensor shape `h` and coordinates `coord`, and goes on in `s1` (R77, R261). -/
structure ShapeRead (s : State) (x : Ctx) (w : FmtC) (l : Nat) (h : Shape) (coord : List Int) (s1 : State) : Prop where
  aligned : readInt s x w.a 64 false l % 64 = 0
  low : readInt s x w.a 64 false l < 2 ^ 57
  record : ∃ b, readRec s x (readInt s x w.a 64 false l) 64 = (.bytes b, s1) ∧ shapeBad b = false ∧ h = shapeOf b
  vectors : isVec w.b.code = true → w.b.code.toNat + h.ndim - 1 < x.l.vcount
  scalars : isVec w.b.code = false → w.b.code.toNat + h.ndim - 1 < 0xC0
  clean : poisonLanes x.g [srcOf 1 w.b h.ndim] (laneBit l) = 0
  coord : coord = (List.range h.ndim).map (fun i => toSigned 32 (regWord x.g w.b.code i l).toNat)

/-- The locks that a copy takes at its issue have room in the tables of their dies (R13, R249). -/
def LocksFit (s : State) (x : Ctx) (w : FmtC) (l : Nat) (h : Shape) (coord : List Int) (write : Bool) (recv : List Workgroup) (boff : Nat) : Prop :=
  lockRoom s (boxLocks s (copyCtx x w l) h coord write recv boff) = true

/-- A lock of the owner over a range rounded outward to 64 bytes stands (R252). -/
def Locked (t : State) (owner : Nat) (write : Bool) (sp : LockSpace) (lo hi : Nat) : Prop :=
  ∃ k ∈ t.locks, k.owner = owner ∧ k.write = write ∧ k.space = sp ∧ k.lo = lo / 64 * 64 ∧ k.hi = hi / 64 * 64 + 63

/-- The next `n` bytes of copy `c` are there to read, and the state once they are read: `ys` are the bytes that peers sent for them. -/
def sourceRun (c : Copy) : Nat → List Byte → Nat → State → Option (List (Byte × Bool) × State)
  | 0, _, _, s => some ([], s)
  | n + 1, ps, o, s => match copySource s c (ps.headD 0) o with
    | (.data y bad, s1) => (sourceRun c n ps.tail (o + 1) s1).map (fun r => ((y, bad) :: r.1, r.2))
    | _ => none

/-- The writes of one byte of a box in device memory, each part at its place: a whole byte, or one half of it (R75, R260); and the
state after them. None where a part's page faults, lies at a peer, or stalls. -/
def partsRun (c : Copy) : List BoxPart → Byte → Bool → State → Option (List (Nat × Byte) × State)
  | [], _, _, s => some ([], s)
  | p :: r, y, bad, s =>
    let rest := BitVec.ofNat 8 (y.toNat / 16)
    match p.va with
    | none => partsRun c r rest bad s
    | some va => if c.refused.contains (pageOf va) then none else match translateFor s c.die c.part va true with
      | (some q, s1) =>
        if q.peer.isSome || copyStalls s1 c q.pa then none
        else
          let old := (memByte s1 q.pa).toNat
          let v := if fmtBits c.shape.fmt = 4 then BitVec.ofNat 8 (if p.high then old % 16 + 16 * (y.toNat % 16) else old / 16 * 16 + y.toNat % 16) else y
          (partsRun c r rest bad (memWriteP s1 q.pa [(v, bad)])).map (fun z => ((q.pa, v) :: z.1, z.2))
      | _ => none

/-- The writes of bytes `ys` of a box, from byte `o` on. -/
def boxRun (c : Copy) : List (Byte × Bool) → Nat → State → Option (List (Nat × Byte) × State)
  | [], _, s => some ([], s)
  | y :: ys, o, s => match partsRun c (boxByte c.shape c.coord o) y.1 y.2 s with
    | some (ws, s1) => (boxRun c ys (o + 1) s1).map (fun z => (ws ++ z.1, z.2))
    | none => none

/-- A copy stands in `t` (R248, R249): it is the last of the copies, has moved nothing, and counts on its flag; no byte of memory and
no register changes. -/
structure CopyStands (s t : State) (x : Ctx) (w : FmtC) (l : Nat) (kind : CopyKind) (c : Copy) : Prop where
  copies : t.copies = s.copies ++ [c]
  mem : t.mem = s.mem
  id : c.id = s.nextId
  kind : c.kind = kind
  place : c.wg = x.c.wg ∧ c.grp = x.c.grp ∧ c.lane = l ∧ c.launch = x.l.id ∧ c.flag = flagSel x.c.clause w.fs
  fresh : c.moved = 0 ∧ c.started = false ∧ c.after = s.nextId ∧ c.waitPage = none
  group : ∃ g, findGrp t x.c.wg x.c.grp = some g ∧ g = { x.g with f := g.f, quads := g.quads }
    ∧ GoesOn x g ∧ ∀ n, getF g n = getF (flagInc x.g (flagSel x.c.clause w.fs)) n

/-- The entries of `n` tiles from `e` on, as many as lie in the set, read one after the other, with the replicas that the header counts;
none where one cannot be read or is malformed (R80, R262). -/
def readEntries (x : Ctx) (o : WSlot) (nrepl : Nat) : Nat → Nat → State → Option (List TileEnt × State)
  | 0, _, s => some ([], s)
  | n + 1, e, s =>
    if o.ktiles * o.ntiles ≤ e then some ([], s)
    else match readRec s x (o.addr.toNat + 64 + 32 * e) 32 with
    | (.bytes b, s1) => if tileEntBad nrepl o.ktiles e b then none
      else (readEntries x o nrepl n (e + 1) s1).map (fun r => (tileEntOf nrepl b :: r.1, r.2))
    | _ => none

/-- The tile copy's checks pass for receivers `recv` and banks `bs` (R262): each bank is idle, in FILL mode and bound to the slot, of
the same weight set at every receiver, and the tiles lie in the set. -/
structure TileReady (s : State) (x : Ctx) (w : FmtC) (l : Nat) (recv : List Workgroup) (bs : List Nat) (slot e0 : Nat) (o : WSlot) : Prop where
  phaser : phOk s (copyCtx x w l) w = true
  banks : ∀ t ∈ recv, wgEnded t = false ∧ (∃ p, slotOfWg t slot = some p ∧ p.addr = o.addr) ∧ (∃ v, findWg s t.id = some v ∧ v.banks = t.banks)
    ∧ ∀ b ∈ bs, ∃ k, t.banks[b]? = some k ∧ k.queue = [] ∧ k.bound = true ∧ k.slot.toNat = slot ∧ k.mode = .fill
  inSet : e0 + bs.length ≤ o.ktiles * o.ntiles
  some : recv ≠ []
  room : copiesFull s (dieOf s x.w.lcore) = false
  lock : (s.locks.filter (fun k => k.die == dieOf s x.w.lcore)).length < 256

/-! ## Frame and rod words (R268-R275) -/

/-- The running call `c` executes a word whose unused fields are zero. -/
structure RodFree (s : State) (c : Call) (i : Instr) : Prop where
  cur : s.curCall.bind (findCall s) = some c
  unused : rodUnused i = false

/-- From `s` to `t` only call `c` changes, and it becomes `c'`. -/
structure CallStep (s t : State) (c c' : Call) : Prop where
  rest : t = { s with calls := t.calls }
  others : ∀ id, id ≠ c.id → findCall t id = findCall s id
  here : findCall t c.id = some c'

/-- Call `c` after a word: it goes on at `fpc`, and counts the words since its last RACT. -/
def stepped (c : Call) (fpc : Nat) (act : Bool) : Call := { c with fpc := fpc, sinceAct := if act then 0 else c.sinceAct + 1, passed := 0, waits := [] }

/-- A word of the rods runs: each rod of BMASK changes as `g` says, no other does, and FPC moves on. -/
def RodsAct (s : State) (c : Call) (act : Bool) (o : Host.Outcome State Fault Refusal) (g : Nat → Rod → Rod → Prop) : Prop :=
  ∃ t c', o = .next t ∧ CallStep s t c c' ∧ c' = { stepped c (c.fpc + 1) act with rods := c'.rods } ∧ c'.rods.length = c.rods.length
    ∧ ∀ b r, c.rods[b]? = some r → ∃ r', c'.rods[b]? = some r' ∧ (if hasLane c.bmask b = true then g b r r' else r' = r)

/-- Lanes `m` of rod vector `d` hold `f`; nothing else of the rod changes. -/
def VecWrites (r r' : Rod) (m : LMask) (d : Nat) (f : Nat → BitVec 16 × Bool) : Prop :=
  r' = { r with rv := r'.rv } ∧ ∀ n l, l < 16 → rvGet r' n l = if n = d ∧ hasLane m l = true then f l else rvGet r n l

/-- Lanes `m` of accumulator `d` hold `f`; nothing else of the rod changes. -/
def AccWrites (r r' : Rod) (m : LMask) (d : Nat) (f : Nat → Slot) : Prop :=
  r' = { r with ra := r'.ra } ∧ ∀ n l, l < 16 → raGet r' n l = if n = d ∧ hasLane m l = true then f l else raGet r n l

/-- Mask register `d` of a rod becomes `v`; nothing else of the rod changes. -/
def MaskWrites (r r' : Rod) (d : Nat) (v : LMask) : Prop :=
  r' = { r with rm := r'.rm } ∧ ∀ n x, r.rm[n]? = some x → r'.rm[n]? = some (if n = d then v else x)

/-- A call ends with a status and detail: CALL_END does the rest (R278). -/
def CallStops (s : State) (c : Call) (o : Host.Outcome State Fault Refusal) (status detail : Nat) : Prop :=
  ∃ t, o = .next t ∧ CallStep s t c { c with st := .ending, status := status, detail := detail % 256, waitPage := none, rods := [], waits := [], yld := none }

/-- The running call `c` writes only memory, at `at'`, and goes on; from `s` to `t` nothing else changes. -/
structure RodStores (s t : State) (c : Call) (covered : Nat → Prop) : Prop where
  rest : t = { s with calls := t.calls, mem := t.mem, memPoison := t.memPoison }
  others : ∀ id, id ≠ c.id → findCall t id = findCall s id
  here : findCall t c.id = some (stepped c (c.fpc + 1) false)
  bytes : ∀ p, ¬covered p → memByte t p = memByte s p

/-- Address and count of the bytes of lane `l` of bank `b` in the open row of the page (R268, R271). -/
def laneAt (c : Call) (w : FmtR) (b l : Nat) : Nat × Nat :=
  (colPa c ((c.rods.getD b rod0).row.getD 0) b (rodCol c w) + (laneBytes w l).1, (laneBytes w l).2)

/-- Entry `i` of a list of 4-byte numbers in AUX. -/
def auxWord (s : State) (c : Call) (i : Nat) : Nat := bytesToNat ((List.range 4).map (fun k => (auxByte s c (4 * i + k)).1))

/-- The call's output is written at DST, and it goes on. -/
def reduced (s : State) (c : Call) (out : List (Byte × Bool)) : State :=
  modCall (dstWrite s c.id c.dst.toNat out) c.id (fun k => stepped k (c.fpc + 1) false)

end Sys2Proof.Machine
end

