-- ==== Sys2Proof/Certificates/Slice0/Obligations.lean ====
section
/-! DEFINITION. The statements put to the provers. Each says, for every state in which a gang issues the word (or the event's
conditions hold), that the meaning answers a next state, and which: the effect the manual gives, and that nothing else changes. -/
open Sys2Proof Sys2Proof.Machine

/-! ## INT words -/

/-- R155: the integer words deliver the exact sum, difference, product, high half, minimum, maximum, magnitude, negation or
product-sum of their operands' values, reduced or clamped to TYPE, or exact at twice the width; every other register, flag and
group, and all of memory, is as before.
R156: IADDC and ISUBB take the carry or borrow of predicate C, deliver the sum or difference reduced to TYPE, and write the
carry or borrow out of the unsigned operands to predicate MOD 2:0, unless that is 7.
Where the manual leaves a point open, the model's choice is that of log entry 118 (a literal in a narrow operand). -/
def Obligations.IntegerArithmetic : Prop :=
  (∀ (s : State) (x : Ctx) (w : FmtAX), Issues s w.g x →
     (let A := tyVal s x w.a w.ty.toNat
      let B := tyVal s x w.b w.ty.toNat
      (LaneFree s x (srcs2 w) false →
         LaneEffect s x false (exec (.iadd w) s) (toIntW x w (fun l => A l + B l)) noBit
       ∧ LaneEffect s x false (exec (.isub w) s) (toIntW x w (fun l => A l - B l)) noBit
       ∧ LaneEffect s x false (exec (.imul w) s) (toIntW x w (fun l => A l * B l)) noBit
       ∧ LaneEffect s x false (exec (.imulh w) s) (toIntW x w (fun l => A l * B l / ((2 ^ tyWidth w.ty.toNat : Nat) : Int))) noBit
       ∧ LaneEffect s x false (exec (.imin w) s) (toIntW x w (fun l => min (A l) (B l))) noBit
       ∧ LaneEffect s x false (exec (.imax w) s) (toIntW x w (fun l => max (A l) (B l))) noBit)
      ∧ (LaneFree s x [srcOf 0 w.a (nTy w.ty.toNat)] false →
         LaneEffect s x false (exec (.iabs w) s) (toIntW x w (fun l => ((A l).natAbs : Int))) noBit
       ∧ LaneEffect s x false (exec (.ineg w) s) (toIntW x w (fun l => -A l)) noBit)
      ∧ (LaneFree s x (srcs2 w ++ [srcOf 2 w.c (nTy (if w.wide then w.ty.toNat + 1 else w.ty.toNat))]) false →
         LaneEffect s x false (exec (.imad w) s)
           (toIntW x w (fun l => A l * B l + tyVal s x w.c (if w.wide then w.ty.toNat + 1 else w.ty.toNat) l)) noBit)))
  ∧ (∀ (s : State) (x : Ctx) (w : FmtAX), Issues s w.g x → LaneFree s x (srcs2 w) false →
     let W := tyWidth w.ty.toNat
     let A := fun l => (readTy s x w.a w.ty.toNat l : Int)
     let B := fun l => (readTy s x w.b w.ty.toNat l : Int)
     let C := fun l => (if readP x w.c l then 1 else 0 : Int)
     let P := w.md.toNat % 8
     let carry := fun (f : Nat → Bool) => if P = 7 then noBit else toPred x P f
     LaneEffect s x false (exec (.iaddc w) s) (toInt x w.ty.toNat w.d.toNat (fun l => wrapNat W (A l + B l + C l)))
         (carry (fun l => decide (((2 ^ W : Nat) : Int) ≤ A l + B l + C l)))
     ∧ LaneEffect s x false (exec (.isubb w) s) (toInt x w.ty.toNat w.d.toNat (fun l => wrapNat W (A l - B l - C l)))
         (carry (fun l => decide (A l - B l - C l < 0))))

/-- R157: IDIV and IREM are long-latency; the quotient is truncated toward zero and the remainder has the dividend's sign; a zero
divisor delivers the largest value, or the least for a negative dividend, and the dividend. The results stand in a pending
operation, with the condition DVZ of the lanes whose divisor is zero and the sources as read. With ACTIVE empty the words do nothing.
Where the manual leaves a point open, the model's choices are those of log entries 24 (a replay that a trap stops) and 118 (a literal
in a narrow operand). -/
def Obligations.IntegerDivision : Prop := ∀ (s : State) (x : Ctx) (w : FmtAX), Issues s w.g x →
  let ty := w.ty.toNat
  let A := tyVal s x w.a ty
  let B := tyVal s x w.b ty
  let c := fun l => condBits false (B l == 0) false false false
  let carry := fun outs => Carries outs x.act c (readTy s x w.a ty) (readTy s x w.b ty) (fun _ => 0)
  LongWord s x w.fs (srcs2 w) (exec (.idiv w) s) (toIntW x w (fun l =>
      if B l = 0 then (if tySigned ty = true ∧ A l < 0 then intMin ty else intMax ty) else Int.tdiv (A l) (B l))) ty c carry
  ∧ LongWord s x w.fs (srcs2 w) (exec (.irem w) s) (toIntW x w (fun l => if B l = 0 then A l else Int.tmod (A l) (B l))) ty c carry

/-- R158-R162: the bit, shift, field and saturation words.
Where the manual leaves a point open, the model's choice is that of log entry 118 (a literal in a narrow operand). -/
def Obligations.BitsShiftsAndFields : Prop :=
  (∀ (s : State) (x : Ctx) (w : FmtA), Issues s w.g x →
    let A := fun l => wordOf (readN s x w.a l)
    let B := fun l => wordOf (readN s x w.b l)
    let out := fun (f : Nat → Word) => toReg x w.d.toNat f
    (LaneFree s x [srcOf 0 w.a 1, srcOf 1 w.b 1] false →
        LaneEffect s x false (exec (.and w) s) (out (fun l => A l &&& B l)) noBit
      ∧ LaneEffect s x false (exec (.or w) s) (out (fun l => A l ||| B l)) noBit
      ∧ LaneEffect s x false (exec (.xor w) s) (out (fun l => A l ^^^ B l)) noBit
      ∧ LaneEffect s x false (exec (.andn w) s) (out (fun l => A l &&& ~~~B l)) noBit
      ∧ LaneEffect s x false (exec (.rol w) s) (out (fun l => (A l).rotateLeft ((B l).toNat % 32))) noBit)
    ∧ (LaneFree s x [srcOf 0 w.a 1] false →
        LaneEffect s x false (exec (.not w) s) (out (fun l => ~~~A l)) noBit
      ∧ LaneEffect s x false (exec (.popc w) s) (out (fun l => wordOf (popBits (A l)))) noBit
      ∧ LaneEffect s x false (exec (.clz w) s) (out (fun l => wordOf (clzBits (A l)))) noBit
      ∧ LaneEffect s x false (exec (.ctz w) s) (out (fun l => wordOf (ctzBits (A l)))) noBit
      ∧ LaneEffect s x false (exec (.brev w) s) (out (fun l => wordOf (revBits 32 (A l).toNat))) noBit))
  ∧ (∀ (s : State) (x : Ctx) (w : FmtAX), Issues s w.g x →
    let ty := w.ty.toNat
    let W := tyWidth ty
    let A := readTy s x w.a ty
    let n := readN s x w.b
    let out := fun (f : Nat → Nat) => toInt x ty w.d.toNat f
    (LaneFree s x [srcOf 0 w.a (nTy ty), srcOf 1 w.b 1] false →
        LaneEffect s x false (exec (.shl w) s) (out (fun l => if n l < W then A l * 2 ^ n l % 2 ^ W else 0)) noBit
      ∧ LaneEffect s x false (exec (.shr w) s) (out (fun l => if n l < W then A l / 2 ^ n l else 0)) noBit
      ∧ LaneEffect s x false (exec (.sar w) s) (out (fun l =>
          if n l < W then wrapNat W (toSigned W (A l) / ((2 ^ n l : Nat) : Int)) else wrapNat W (if toSigned W (A l) < 0 then -1 else 0))) noBit
      ∧ LaneEffect s x false (exec (.bfx w) s) (out (fun l => bfx ty (A l) (n l))) noBit)
    ∧ (LaneFree s x [srcOf 0 w.a (nTy ty), srcOf 1 w.b 1, srcOf 2 w.c (nTy ty)] false →
        LaneEffect s x false (exec (.bfi w) s) (out (fun l => bfi ty (A l) (n l) (readTy s x w.c ty l))) noBit)
    ∧ (LaneFree s x [srcOf 0 w.a 1, srcOf 1 w.b 1, srcOf 2 w.c 1] false →
        LaneEffect s x false (exec (.bmix w) s) (toReg x w.d.toNat (fun l => wordOf (bmix (readN s x w.a l) (n l) (readN s x w.c l)))) noBit)
    ∧ (let src := (if w.md.getLsbD 0 then 2 else 6) + (if w.md.getLsbD 1 then 1 else 0)
       LaneFree s x [srcOf 0 w.a (nTy src)] false →
        LaneEffect s x false (exec (.isat w) s) (out (fun l => intResult ty true (tyVal s x w.a src l))) noBit))

/-- R140, R163, R168: the compare, select and predicate words. PANY, PALL, PCNT and BALLOT look at the lanes of ACTIVE alone.
Where the manual leaves a point open, the model's choice is that of log entry 118 (a literal in a narrow operand). -/
def Obligations.CompareSelectAndPredicates : Prop :=
  (∀ (s : State) (x : Ctx) (w : FmtAX), Issues s w.g x → LaneFree s x (srcs2 w) false →
    let ty := w.ty.toNat
    LaneEffect s x false (exec (.vcmp w) s) noSlot (toPred x w.d.toNat (fun l => iCond w.md.toNat (tyVal s x w.a ty l) (tyVal s x w.b ty l)))
    ∧ LaneEffect s x false (exec (.vsel w) s) (toInt x ty w.d.toNat (fun l => readTy s x (if readP x w.c l then w.a else w.b) ty l)) noBit)
  ∧ (∀ (s : State) (x : Ctx) (w : FmtA), Issues s w.g x →
    let A := readP x w.a
    let B := readP x w.b
    let held := maskOf (fun l => hasLane x.act l && A l)
    (LaneFree s x [] false →
        LaneEffect s x false (exec (.pand w) s) noSlot (toPred x w.d.toNat (fun l => A l && B l))
      ∧ LaneEffect s x false (exec (.por w) s) noSlot (toPred x w.d.toNat (fun l => A l || B l))
      ∧ LaneEffect s x false (exec (.pxor w) s) noSlot (toPred x w.d.toNat (fun l => xor (A l) (B l)))
      ∧ LaneEffect s x false (exec (.pnot w) s) noSlot (toPred x w.d.toNat (fun l => !A l))
      ∧ LaneEffect s x false (exec (.pmov w) s) noSlot (toPred x w.d.toNat A))
    ∧ (LaneFree s x [] true →
        LaneEffect s x true (exec (.pany w) s) noSlot (toPred x w.d.toNat (fun _ => held != 0))
      ∧ LaneEffect s x true (exec (.pall w) s) noSlot (toPred x w.d.toNat (fun _ => held == x.act))
      ∧ LaneEffect s x true (exec (.pcnt w) s) (toReg x w.d.toNat (fun _ => wordOf (popCount held))) noBit
      ∧ LaneEffect s x true (exec (.ballot w) s) (toReg x w.d.toNat (fun _ => wordOf held.toNat)) noBit)
    ∧ (LaneFree s x [srcOf 0 w.a 1] false →
        LaneEffect s x false (exec (.pset w) s) noSlot (toPred x w.d.toNat (fun l => bitOf (readN s x w.a l) l))))

/-- R164-R169: the moves, the exchanges, the reduction and the scan. An exchange delivers the source lane's slot, or zero where the
source lane's quad is in another gang; WRLN delivers the highest sender's. -/
def Obligations.MovesAndExchanges : Prop :=
  (∀ (s : State) (x : Ctx) (w : FmtA), Issues s w.g x →
    let out := fun (f : Nat → Word) => toReg x w.d.toNat f
    let exch := fun (src : Nat → Nat) => out (fun l => if hasQuad x.c.quads (src l / 4) then (getV x.g w.a.code.toNat (src l)).val else 0)
    (LaneFree s x [srcOf 0 w.a 1] false →
        LaneEffect s x false (exec (.mov w) s) (out (fun l => wordOf (readN s x w.a l))) noBit
      ∧ (maskOf (fun l => hasLane x.act l && hasLane x.g.counted l && ((movsRegs s x w l).find? (fun n => (getV x.g n l).poison)).isSome) = 0 →
          LaneEffect s x false (exec (.movs w) s) (out (fun l => wordOf (movsVal s x w l))) noBit))
    ∧ (LaneFree s x [] true → exchClean x w.a (fun l => Nat.xor l (w.b.code.toNat % 4)) →
        LaneEffect s x true (exec (.qswp w) s) (exch (fun l => Nat.xor l (w.b.code.toNat % 4))) noBit)
    ∧ (LaneFree s x [srcOf 1 w.b 1] true →
        (exchClean x w.a (fun l => 4 * (l / 4) + readUN s x w.b % 4) →
          LaneEffect s x true (exec (.qbc w) s) (exch (fun l => 4 * (l / 4) + readUN s x w.b % 4)) noBit)
      ∧ (exchClean x w.a (fun l => (((l : Int) + toSigned 32 (readUN s x w.b)) % 16).toNat) →
          LaneEffect s x true (exec (.gshf w) s) (exch (fun l => (((l : Int) + toSigned 32 (readUN s x w.b)) % 16).toNat)) noBit)
      ∧ (exchClean x w.a (fun _ => readUN s x w.b % 16) →
          LaneEffect s x true (exec (.gbc w) s) (exch (fun _ => readUN s x w.b % 16)) noBit)
      ∧ (exchClean x w.a (fun l => readN s x w.b l % 16) →
          LaneEffect s x true (exec (.rdln w) s) (exch (fun l => readN s x w.b l % 16)) noBit))
    ∧ (LaneFree s x [srcOf 0 w.a 1, srcOf 1 w.b 1] true →
        LaneEffect s x true (exec (.wrln w) s) (fun n t =>
          if hasLane x.act t && n == w.d.toNat then
            (((lanesOf x.act).filter (fun k => readN s x w.b k % 16 == t)).getLast?).map (fun k => (getV x.g w.a.code.toNat k).val)
          else none) noBit))
  ∧ (∀ (s : State) (x : Ctx) (w : FmtI), Issues s w.g x → LaneFree s x [] false →
      LaneEffect s x false (exec (.movi w) s) (toReg x w.d.toNat (fun _ => wordOfInt (toSigned 16 w.imm.toNat))) noBit)
  ∧ (∀ (s : State) (x : Ctx) (w : FmtAX), Issues s w.g x → LaneFree s x [srcOf 0 w.a (nTy w.ty.toNat)] true →
      let ty := w.ty.toNat
      let out := fun (f : Nat → Nat) => if tyInt ty then toInt x ty w.d.toNat f else toFlt x ty w.d.toNat f
      let op := redOp ty w.md.toNat w.rnd.toNat
      let upTo := fun l => ((lanesOf x.act).filter (fun k => decide (k ≤ l))).map (redSrc s x w)
      let fold := fun (vs : List Nat) => match vs with | [] => 0 | v :: r => r.foldl op v
      LaneEffect s x true (exec (.gscn w) s) (out (fun l => fold (upTo l))) noBit
      ∧ LaneEffect s x true (exec (.gred w) s) (out (fun _ => fold (upTo 15))) noBit)

/-! ## FLT words -/

/-- R148, R170, R173: the immediate floating-point words deliver the rounded result of their operands' values after ABS and NEG,
where no lane meets a condition that the launch enables. An A-form word is f32, rounded to nearest even.
Where the manual leaves a point open, the model's choices are those of log entries 38 (the place of an e2m1 or e8m0 value) and 118 (a
literal in a narrow operand). -/
def Obligations.FloatArithmetic : Prop :=
  (∀ (s : State) (x : Ctx) (w : FmtA), Issues s w.g x →
    FltTwo s x (axOf w 10) (exec (.fadd w) s) fAdd
    ∧ FltTwo s x (axOf w 10) (exec (.fmul w) s) fMul
    ∧ FltTwo s x (axOf w 10) (exec (.fmin w) s) (fun ty _ sat => fMinMax ty sat false)
    ∧ FltTwo s x (axOf w 10) (exec (.fmax w) s) (fun ty _ sat => fMinMax ty sat true)
    ∧ FltOne s x (axOf w 10) (exec (.frnd w) s) (fun ty md sat v _ => fRnd ty md sat v))
  ∧ (∀ (s : State) (x : Ctx) (w : FmtAX), Issues s w.g x →
    FltTwo s x w (exec (.faddAx w) s) fAdd
    ∧ FltTwo s x w (exec (.fmulAx w) s) fMul
    ∧ FltTwo s x w (exec (.fminAx w) s) (fun ty _ sat => fMinMax ty sat false)
    ∧ FltTwo s x w (exec (.fmaxAx w) s) (fun ty _ sat => fMinMax ty sat true)
    ∧ FltOne s x w (exec (.frndAx w) s) (fun ty md sat v _ => fRnd ty md sat v)
    ∧ (let ty := w.ty.toNat
       let rty := if w.wide then 11 else ty
       let A := fun l => fDecode ty (readFlt x w.a ty l)
       let B := fun l => fDecode ty (readFlt x w.b ty l)
       let C := fun l => fDecode rty (readFlt x w.c rty l)
       let r := fun l => fFma rty w.rnd.toNat w.sat (modVal w 0 (A l)) (modVal w 1 (B l)) (modVal w 2 (C l))
       LaneFree s x [srcOf 0 w.a (nTy ty), srcOf 1 w.b (nTy ty), srcOf 2 w.c (nTy rty)] false →
       NoneMet x (fun l => condOf rty (r l) [A l, B l, C l]) →
       LaneEffect s x false (exec (.ffma w) s) (toFlt x rty w.d.toNat (fun l => (r l).bits)) noBit))

/-- R154, R171, R172: division, reciprocal, square roots and the transcendentals are long-latency: they issue, and their results
stand in a pending operation of the group. A replay's issue of one joins the word of its side that still stands, or issues as the first
does (R124, R126).
Where the manual leaves a point open, the model's choices are those of log entries 14 (the values of R172), 24 (a replay that a trap
stops), 38 (the place of an e2m1 or e8m0 value) and 118 (a literal in a narrow operand). -/
def Obligations.FloatLongLatency : Prop :=
  (∀ (s : State) (x : Ctx) (w : FmtA), Issues s w.g x →
    FltTwoLong s x (axOf w 10) (exec (.fdiv w) s) fDiv
    ∧ FltOneLong s x (axOf w 10) (exec (.frcp w) s) (fun ty md sat v _ => fDiv ty md sat fOne v)
    ∧ FltOneLong s x (axOf w 10) (exec (.frsq w) s) (fun ty md sat v _ => fRsq ty md sat v)
    ∧ FltOneLong s x (axOf w 10) (exec (.fsqrt w) s) (fun ty md sat v _ => fSqrt ty md sat v)
    ∧ FltOneLong s x (axOf w 10) (exec (.fexp2 w) s) (fun ty _ sat v b => fTransc 0 ty sat v b)
    ∧ FltOneLong s x (axOf w 10) (exec (.flog2 w) s) (fun ty _ sat v b => fTransc 1 ty sat v b)
    ∧ FltOneLong s x (axOf w 10) (exec (.fsin w) s) (fun ty _ sat v b => fTransc 2 ty sat v b)
    ∧ FltOneLong s x (axOf w 10) (exec (.fcos w) s) (fun ty _ sat v b => fTransc 3 ty sat v b)
    ∧ FltOneLong s x (axOf w 10) (exec (.ftanh w) s) (fun ty _ sat v b => fTransc 4 ty sat v b))
  ∧ (∀ (s : State) (x : Ctx) (w : FmtAX), Issues s w.g x →
    FltTwoLong s x w (exec (.fdivAx w) s) fDiv
    ∧ FltOneLong s x w (exec (.frcpAx w) s) (fun ty md sat v _ => fDiv ty md sat fOne v)
    ∧ FltOneLong s x w (exec (.frsqAx w) s) (fun ty md sat v _ => fRsq ty md sat v)
    ∧ FltOneLong s x w (exec (.fsqrtAx w) s) (fun ty md sat v _ => fSqrt ty md sat v)
    ∧ FltOneLong s x w (exec (.fexp2Ax w) s) (fun ty _ sat v b => fTransc 0 ty sat v b)
    ∧ FltOneLong s x w (exec (.flog2Ax w) s) (fun ty _ sat v b => fTransc 1 ty sat v b)
    ∧ FltOneLong s x w (exec (.fsinAx w) s) (fun ty _ sat v b => fTransc 2 ty sat v b)
    ∧ FltOneLong s x w (exec (.fcosAx w) s) (fun ty _ sat v b => fTransc 3 ty sat v b)
    ∧ FltOneLong s x w (exec (.ftanhAx w) s) (fun ty _ sat v b => fTransc 4 ty sat v b))

/-- R173, R174: FSCL multiplies by a power of two, FXTR takes a value's exponent or significand, FCLS and FCMP write a predicate.
Where the manual leaves a point open, the model's choices are those of log entries 38 (the place of an e2m1 or e8m0 value) and 118 (a
literal in a narrow operand). -/
def Obligations.FloatPartsAndTests : Prop :=
  let scl := fun (s : State) (x : Ctx) (w : FmtAX) (o : Host.Outcome State Fault Refusal) =>
    (let ty := w.ty.toNat
     let A := fun l => fDecode ty (readFlt x w.a ty l)
     let r := fun l => fScl ty w.rnd.toNat w.sat (modVal w 0 (A l)) (readI s x w.b l)
     LaneFree s x [srcOf 0 w.a (nTy ty), srcOf 1 w.b 1] false → NoneMet x (fun l => condOf ty (r l) [A l]) →
     LaneEffect s x false o (toFlt x ty w.d.toNat (fun l => (r l).bits)) noBit : Prop)
  let xtr := fun (s : State) (x : Ctx) (w : FmtAX) (o : Host.Outcome State Fault Refusal) =>
    (let ty := w.ty.toNat
     let A := fun l => fDecode ty (readFlt x w.a ty l)
     LaneFree s x [srcOf 0 w.a (nTy ty)] false →
     (w.md = 0 → NoneMet x (fun l => condBits (fIsSnan (A l)) false false false (fNonFinite (A l))) →
       LaneEffect s x false o (toReg x w.d.toNat (fun l => wordOfInt (fXtrExp (modVal w 0 (A l))))) noBit)
     ∧ (w.md ≠ 0 → NoneMet x (fun l => condOf ty (fXtrMan ty (modVal w 0 (A l))) [A l]) →
       LaneEffect s x false o (toFlt x ty w.d.toNat (fun l => (fXtrMan ty (modVal w 0 (A l))).bits)) noBit) : Prop)
  let cls := fun (s : State) (x : Ctx) (w : FmtAX) (o : Host.Outcome State Fault Refusal) =>
    (let ty := w.ty.toNat
     LaneFree s x [srcOf 0 w.a (nTy ty), srcOf 1 w.b 1] false →
     LaneEffect s x false o noSlot
       (toPred x w.d.toNat (fun l => bitOf (readN s x w.b l) (fClass ty (modVal w 0 (fDecode ty (readFlt x w.a ty l)))))) : Prop)
  (∀ (s : State) (x : Ctx) (w : FmtA), Issues s w.g x →
    scl s x (axOf w 10) (exec (.fscl w) s) ∧ xtr s x (axOf w 10) (exec (.fxtr w) s) ∧ cls s x (axOf w 10) (exec (.fcls w) s))
  ∧ (∀ (s : State) (x : Ctx) (w : FmtAX), Issues s w.g x →
    scl s x w (exec (.fsclAx w) s) ∧ xtr s x w (exec (.fxtrAx w) s) ∧ cls s x w (exec (.fclsAx w) s)
    ∧ (let ty := w.ty.toNat
       let A := fun l => fDecode ty (readFlt x w.a ty l)
       let B := fun l => fDecode ty (readFlt x w.b ty l)
       LaneFree s x [srcOf 0 w.a (nTy ty), srcOf 1 w.b (nTy ty)] false →
       NoneMet x (fun l => condBits (fIsSnan (A l) || fIsSnan (B l)) false false false false) →
       LaneEffect s x false (exec (.fcmp w) s) noSlot (toPred x w.d.toNat (fun l => fCond w.md.toNat (modVal w 0 (A l)) (modVal w 1 (B l))))))

/-- R175, R176: the packed words work on both halves; FDOT4 adds four products and C exactly, and rounds once to f32.
Where the manual leaves a point open, the model's choices are those of log entries 38 (the place of an e2m1 or e8m0 value), 118 (a
literal in a narrow operand) and 135 (infinities of both signs beside a NaN). -/
def Obligations.PackedAndDotProducts : Prop :=
  (∀ (s : State) (x : Ctx) (w : FmtA), Issues s w.g x →
    FltPacked s x (axOf w 8) (exec (.padd w) s) [w.a, w.b] pkAdd ∧ FltPacked s x (axOf w 8) (exec (.pmul w) s) [w.a, w.b] pkMul)
  ∧ (∀ (s : State) (x : Ctx) (w : FmtAX), Issues s w.g x →
    FltPacked s x w (exec (.paddAx w) s) [w.a, w.b] pkAdd
    ∧ FltPacked s x w (exec (.pmulAx w) s) [w.a, w.b] pkMul
    ∧ FltPacked s x w (exec (.pfma w) s) [w.a, w.b, w.c] pkFma
    ∧ (let sty := w.sty.toNat
       let n := if sty = 8 ∨ sty = 9 then 2 else 1
       let raw := fun (f : Fld) l => pairVal (regWord x.g f.code 0 l) (if sty = 8 ∨ sty = 9 then regWord x.g f.code 1 l else 0)
       let A := fun l i => dotElem sty (raw w.a l) i
       let B := fun l i => dotElem sty (raw w.b l) i
       let C := fun l => fDecode 10 (readFlt x w.c 10 l)
       let prod := fun l i => exMul (modVal w 0 (A l i)) (modVal w 1 (B l i))
       let srcs := fun l => [A l 0, A l 1, A l 2, A l 3, B l 0, B l 1, B l 2, B l 3, C l]
       let bad := fun l => [prod l 0, prod l 1, prod l 2, prod l 3].any Prod.snd
       let sum := fun l => exactSum w.rnd.toNat [(prod l 0).1, (prod l 1).1, (prod l 2).1, (prod l 3).1, modVal w 2 (C l)]
       let r := fun l => if bad l then deliver 10 w.rnd.toNat w.sat .nan true false
         else deliver 10 w.rnd.toNat w.sat (sum l).1 ((sum l).2 || (srcs l).any fIsSnan) false
       LaneFree s x [srcOf 0 w.a n, srcOf 1 w.b n, srcOf 2 w.c 1] false → NoneMet x (fun l => condOf 10 (r l) (srcs l)) →
       LaneEffect s x false (exec (.fdot4 w) s) (toReg x w.d.toNat (fun l => wordOf (r l).bits)) noBit))

/-- R177-R180: the conversions between formats, to and from integers and to a block of 32, and TMV's matrix of the palette.
Where the manual leaves a point open, the model's choices are those of log entries 38 (the place of an e2m1 or e8m0 value), 111
(palette addresses beyond 2^32) and 118 (a literal in a narrow operand). -/
def Obligations.ConversionsAndPaletteProducts : Prop :=
  let tmv := fun (s : State) (x : Ctx) (w : FmtAX) (m n : Nat) (o : Host.Outcome State Fault Refusal) =>
    (let ty := w.ty.toNat
     let size := tyWidth ty / 8
     let mat := fun l => palRead s x (readN s x w.b l / 4 * 4) (m * n * size)
     let elem := fun l j => if ty = 10 then (regWord x.g w.a.code j l).toNat
       else (regWord x.g w.a.code (j / 2) l).toNat / 2 ^ (16 * (j % 2)) % 2 ^ 16
     let row := fun l i => ((List.range n).foldl (fun a j => fFma 10 0 false (fDecode ty (palElem ty (mat l) (i * n + j)).1) (fDecode ty (elem l j)) (fDecode 10 a.bits))
       ({ bits := 0, inv := false, dvz := false, ovf := false } : FOut)).bits
     LongFree s x w.fs [srcOf 0 w.a (if ty = 10 then n else (n + 1) / 2), srcOf 1 w.b 1] → FirstIssue x →
     (∀ l e, hasLane x.act l = true → e ∈ mat l → e.2 = false) →
     ∃ t, o = .next { t with freeCtr := s.freeCtr + 256 } ∧ Idle s x (.next t) ∧ (x.act ≠ 0 →
       LaneIssued s x false w.fs (.next t) (fun k l =>
         if hasLane x.act l = true ∧ w.d.toNat ≤ k ∧ k < w.d.toNat + m then some (wordOf (row l (k - w.d.toNat))) else none)
         (wtypeOf w) (fun _ => True)) : Prop)
  (∀ (s : State) (x : Ctx) (w : FmtA), Issues s w.g x → tmv s x (axOf w 8) 16 16 (exec (.tmv w) s))
  ∧ (∀ (s : State) (x : Ctx) (w : FmtAX), Issues s w.g x →
    let ty := w.ty.toNat
    let sty := w.sty.toNat
    let k := w.md.toNat % 8
    let A := fun l => fDecode sty (if w.md.toNat / 8 = 2 then readPk x w.a sty l / 2 ^ (elemBits sty * k) % 2 ^ elemBits sty else readFlt x w.a sty l)
    let r := fun l => fCvt ty w.rnd.toNat w.sat (modVal w 0 (A l))
    let old := fun l => (getV x.g w.d.toNat l).val.toNat
    let I := fun l => fToInt ty w.rnd.toNat (modVal w 0 (fDecode sty (readFlt x w.a sty l)))
    let F := fun l => deliver ty w.rnd.toNat w.sat (exOfInt (intVal sty (readTy s x w.a sty l))) false false
    let fmt := mxFmt ty
    let per := if fmt = 2 then 8 else 4
    let vs := fun l => (List.range 32).map (fun i => fDecode sty (cvtmSrc x w l i))
    let q := fun l => mxQuant fmt w.rnd.toNat (vs l)
    let slot := fun l j => (List.range per).foldl (fun r i => r + (q l).2.getD (per * j + i) 0 * 2 ^ ((if fmt = 2 then 4 else 8) * i)) 0
    tmv s x w (tmvM w) (tmvN w) (exec (.tmvAx w) s)
    ∧ (NoneMet x (fun l => condOf ty { r l with inv := (r l).inv || fIsSnan (A l) } [A l]) →
        (w.md.toNat / 8 ≠ 3 → LaneFree s x [srcOf 0 w.a (if w.md.toNat / 8 = 2 then 1 else nTy sty)] false →
          LaneEffect s x false (exec (.cvt w) s) (toFlt x ty w.d.toNat (fun l => (r l).bits)) noBit)
        ∧ (w.md.toNat / 8 = 3 → LaneFree s x [srcOf 0 w.a (nTy sty), { which := 3, code := BitVec.ofNat 8 w.d.toNat, n := 1 }] false →
          LaneEffect s x false (exec (.cvt w) s) (toReg x w.d.toNat (fun l =>
            wordOf (old l - old l / 2 ^ (elemBits ty * k) % 2 ^ elemBits ty * 2 ^ (elemBits ty * k) + (r l).bits * 2 ^ (elemBits ty * k)))) noBit))
    ∧ (LaneFree s x [srcOf 0 w.a (nTy sty)] false →
        (tyInt ty = true → NoneMet x (fun l => condBits ((I l).2 || fIsSnan (fDecode sty (readFlt x w.a sty l))) false false false
            (fNonFinite (fDecode sty (readFlt x w.a sty l)))) →
          LaneEffect s x false (exec (.cvti w) s) (toInt x ty w.d.toNat (fun l => wrapNat (tyWidth ty) (I l).1)) noBit)
        ∧ (tyInt ty = false → NoneMet x (fun l => condOf ty (F l) []) →
          LaneEffect s x false (exec (.cvti w) s) (toFlt x ty w.d.toNat (fun l => (F l).bits)) noBit))
    ∧ (LaneFree s x [srcOf 0 w.a (if sty = 10 then 32 else 16)] false →
        NoneMet x (fun l => condBits ((vs l).any fIsNan) false false false ((vs l).any fNonFinite)) →
        LaneEffect s x false (exec (.cvtm w) s) (fun n l =>
          if hasLane x.act l = false ∨ n < w.d.toNat then none
          else if n < w.d.toNat + 32 / per then some (wordOf (slot l (n - w.d.toNat)))
          else if n = w.d.toNat + 32 / per then some (wordOf (q l).1) else none) noBit))

/-! ## SCL words -/

/-- R181-R183: the scalar words, once for the group: an A-form word is i32.
Where the manual leaves a point open, the model's choice is that of log entry 118 (a literal in a narrow operand). -/
def Obligations.ScalarWords : Prop :=
  let bin := fun (s : State) (x : Ctx) (w : FmtAX) (o : Host.Outcome State Fault Refusal) (op : Int → Int → Int) =>
    SclEffect s x (srcs2 w) o (toSInt w (op (tyVal s x w.a w.ty.toNat 0) (tyVal s x w.b w.ty.toNat 0)))
  let shift := fun (s : State) (x : Ctx) (w : FmtAX) (o : Host.Outcome State Fault Refusal) (op : Nat → Nat → Nat → Nat) =>
    SclEffect s x [srcOf 0 w.a (nTy w.ty.toNat), srcOf 1 w.b 1] o
      (toSTy w.ty.toNat w.d.toNat (op (tyWidth w.ty.toNat) (readTy s x w.a w.ty.toNat 0) (readN s x w.b 0)))
  let bit := fun (s : State) (x : Ctx) (w : FmtA) (o : Host.Outcome State Fault Refusal) (op : Word → Word → Word) =>
    SclEffect s x [srcOf 0 w.a 1, srcOf 1 w.b 1] o (toS w.d.toNat (op (wordOf (readUN s x w.a)) (wordOf (readUN s x w.b))))
  let left := fun (W a n : Nat) => if n < W then a * 2 ^ n % 2 ^ W else 0
  let right := fun (W a n : Nat) => if n < W then a / 2 ^ n else 0
  let arith := fun (W a n : Nat) =>
    if n < W then wrapNat W (toSigned W a / ((2 ^ n : Nat) : Int)) else wrapNat W (if toSigned W a < 0 then -1 else 0)
  (∀ (s : State) (x : Ctx) (w : FmtA), Issues s w.g x →
    bin s x (axOf w 2) (exec (.sadd w) s) (· + ·) ∧ bin s x (axOf w 2) (exec (.ssub w) s) (· - ·)
    ∧ bin s x (axOf w 2) (exec (.smul w) s) (· * ·) ∧ bin s x (axOf w 2) (exec (.smin w) s) min ∧ bin s x (axOf w 2) (exec (.smax w) s) max
    ∧ bit s x w (exec (.sand w) s) (· &&& ·) ∧ bit s x w (exec (.sor w) s) (· ||| ·) ∧ bit s x w (exec (.sxor w) s) (· ^^^ ·)
    ∧ shift s x (axOf w 2) (exec (.sshl w) s) left ∧ shift s x (axOf w 2) (exec (.sshr w) s) right ∧ shift s x (axOf w 2) (exec (.ssar w) s) arith
    ∧ SclEffect s x [srcOf 0 w.a 1] (exec (.smov w) s) (toS w.d.toNat (wordOf (readTy s x w.a 2 0))))
  ∧ (∀ (s : State) (x : Ctx) (w : FmtAX), Issues s w.g x →
    bin s x w (exec (.saddAx w) s) (· + ·) ∧ bin s x w (exec (.ssubAx w) s) (· - ·) ∧ bin s x w (exec (.smulAx w) s) (· * ·)
    ∧ bin s x w (exec (.sminAx w) s) min ∧ bin s x w (exec (.smaxAx w) s) max
    ∧ shift s x w (exec (.sshlAx w) s) left ∧ shift s x w (exec (.sshrAx w) s) right ∧ shift s x w (exec (.ssarAx w) s) arith
    ∧ SclEffect s x (srcs2 w) (exec (.scmp w) s)
        (toS w.d.toNat (if iCond w.md.toNat (tyVal s x w.a w.ty.toNat 0) (tyVal s x w.b w.ty.toNat 0) then 1 else 0))
    ∧ SclEffect s x (srcs2 w ++ [srcOf 2 w.c 1]) (exec (.ssel w) s)
        (toSTy w.ty.toNat w.d.toNat (readTy s x (if readUN s x w.c = 0 then w.b else w.a) w.ty.toNat 0))
    ∧ SclEffect s x [srcOf 0 w.a (nTy w.ty.toNat)] (exec (.smovAx w) s) (toSTy w.ty.toNat w.d.toNat (readTy s x w.a w.ty.toNat 0)))
  ∧ (∀ (s : State) (x : Ctx) (w : FmtI), Issues s w.g x →
    SclEffect s x [] (exec (.smovi w) s) (toS w.d.toNat (wordOfInt (toSigned 16 w.imm.toNat))))

/-- R184, R185: SLDC loads a scalar from the palette, a poisoned byte poisoning it; SRD reads a system register, and SWR writes the
sticky bits of the group. -/
def Obligations.PaletteScalarAndSystemRegisters : Prop :=
  (∀ (s : State) (x : Ctx) (w : FmtA), Issues s w.g x →
    let bs := palRead s x ((readUN s x w.a + readUN s x w.b) % 2 ^ 32 / 4 * 4) 4
    ((∀ e ∈ bs, e.2 = false) → SclEffect s x [srcOf 0 w.a 1, srcOf 1 w.b 1] (exec (.sldc w) s) (toS w.d.toNat (wordOf (bytesToNat (bs.map Prod.fst)))))
    ∧ ((∃ e ∈ bs, e.2 = true) → x.act ≠ 0 → Reads x [srcOf 0 w.a 1, srcOf 1 w.b 1] x.act →
        ∃ t g, exec (.sldc w) s = .next { t with freeCtr := s.freeCtr + 1 } ∧ GroupStep s t x g
          ∧ g = { x.g with s := g.s, quads := g.quads } ∧ GoesOn x g ∧ (getS g w.d.toNat).poison = true ∧ ∀ n, n ≠ w.d.toNat → getS g n = getS x.g n))
  ∧ (∀ (s : State) (x : Ctx) (w : FmtI), Issues s w.g x →
    SclEffect s x [] (exec (.srd w) s) (toS w.d.toNat (sysReg s x w.imm.toNat))
    ∧ (x.act ≠ 0 → Reads x [{ which := 0, code := BitVec.ofNat 8 (0x80 + w.d.toNat), n := 1 }] x.act →
        ∃ t g, exec (.swr w) s = .next t ∧ GroupStep s t x g
          ∧ g = advanceGrp x.c { x.g with oob := BitVec.ofNat 16 (getS x.g w.d.toNat).val.toNat }))

/-! ## MEM words -/

/-- R187-R195, R202-R209: a load, store, atomic or reduction that is free to issue starts its operation, with the pieces its lanes'
addresses lead to; its flag counts it; no byte of memory changes at issue. With ACTIVE empty it completes at once, a word that opens a
split opening it. ATOM and ATOMM of a CHECKED launch, which are performed in a cut, stand in another statement.
R187: an access within one element of a record without swizzle is the bytes at BASE + i × STRIDE, and only those; an access
across elements is theirs in turn; an element at or beyond EXTENT gives none.
Where the manual leaves a point open, the model's choices are those of log entries 9 (the TLB), 20 (lane masks), 41 and 144 (the
operand log), 48 (sticky bits beside a trap), 49 (a word with ACTIVE empty that opens its split) and 117 (a literal as DATA). -/
def Obligations.MemoryWordsIssue : Prop :=
  (∀ (s : State) (x : Ctx) (w : FmtM), Issues s w.g x →
     let issues := fun (f : MemForm) (o : Host.Outcome State Fault Refusal) =>
       ((MemFree s x f w → ∃ t g, o = .next t ∧ MemIssued s t x f w g)
        ∧ (x.act = 0 → flagFull x.g (flagSel x.c.clause w.fs) = false → opensSplit x f w = false →
            ∃ t g, o = .next t ∧ GroupStep s t x g ∧ OnlyMoves x g)
        ∧ (x.act = 0 → flagFull x.g (flagSel x.c.clause w.fs) = false → opensSplit x f w = true →
            ∃ t g, o = .next { t with nextId := s.nextId + 1 } ∧ GroupStep s t x g
              ∧ g = advanceGrp x.c (openSplit x s.nextId (flagSel x.c.clause w.fs) x.g)) : Prop)
     issues { kind := .load, byOff := false, canvas := false, scalar := false, ret := false } (exec (.ld w) s)
     ∧ issues { kind := .load, byOff := true, canvas := false, scalar := false, ret := false } (exec (.ldx w) s)
     ∧ issues { kind := .load, byOff := false, canvas := false, scalar := true, ret := false } (exec (.sld w) s)
     ∧ issues { kind := .store, byOff := false, canvas := false, scalar := false, ret := false } (exec (.st w) s)
     ∧ issues { kind := .store, byOff := true, canvas := false, scalar := false, ret := false } (exec (.stx w) s)
     ∧ issues { kind := .load, byOff := false, canvas := true, scalar := false, ret := false } (exec (.ldm w) s)
     ∧ issues { kind := .store, byOff := false, canvas := true, scalar := false, ret := false } (exec (.stm w) s)
     ∧ issues { kind := .atom, byOff := false, canvas := false, scalar := false, ret := false } (exec (.atomn w) s)
     ∧ issues { kind := .red, byOff := false, canvas := false, scalar := false, ret := false } (exec (.red w) s)
     ∧ (x.w.chk = none →
         issues { kind := .atom, byOff := false, canvas := false, scalar := false, ret := true } (exec (.atom w) s)
         ∧ issues { kind := .atom, byOff := false, canvas := true, scalar := false, ret := true } (exec (.atomm w) s)))
  ∧ (∀ (r : BitVec 128) (i : Int) (w : Nat), recSwz r = 0 →
     (w ≤ recE r → 0 ≤ i → i < (recExtent r : Int) →
       elemBytes r i w = (List.range w).map (fun j => (j, recBase r + i.toNat * recStride r + j)))
     ∧ (w ≤ recE r → ¬(0 ≤ i ∧ i < (recExtent r : Int)) → elemBytes r i w = [])
     ∧ (∀ j k, recE r < w → recE r ∣ w → j < recE r → k < w / recE r → 0 ≤ i + (k : Int) → i + (k : Int) < (recExtent r : Int) →
         (k * recE r + j, recBase r + (i + (k : Int)).toNat * recStride r + j) ∈ elemBytes r i w))

/-- R192, R204: SECTOR_RETURN of a load in front of its group, whose pieces are all in that sector, writes each slot that a byte
comes for, of its lanes' registers, or of the scalars for SLD: the loaded value, extended below 32 bits, or a poisoned slot where a byte
is poisoned. A slot that a refused fault took
from the load stays unwritten. Memory does not change, and the load is over.
Where the manual leaves a point open, the model's choices are those of log entries 8 (the order of pieces), 12 (poisoned slots) and 40
(a load over buffered atomics). -/
def Obligations.LoadsDeliver : Prop := ∀ (s : State) (g : Group) (o : Op) (later : List Op),
  InFront s s.arg.a s.arg.b g o later → Names s o → NoYield s → o.kind = .load → opStalled s s.arg.a g o.id = false → o.accs ≠ [] →
  (∀ a ∈ o.accs, Todo a ∧ sectorOf a = s.arg.d ∧ a.got = []) →
  ∃ t g', exec .sectorReturn s = .next t ∧ t.mem = s.mem ∧ t.memPoison = s.memPoison ∧ findGrp t s.arg.a s.arg.b = some g'
    ∧ g'.ops = later ∧ g'.p = g.p ∧ g'.b = g.b ∧ (∀ n, getF g' n = getF (flagDec g o.flag) n)
    ∧ (o.scalar = true → g'.v = g.v) ∧ (o.scalar = false → g'.s = g.s)
    ∧ (let read := { o with accs := o.accs.map (fun a => { a with got := loadBytes s s.arg.a a.loc a.len }) }
       (o.scalar = true → ∀ l, lowestLane o.lanes = some l →
         (∀ k, k < slotsOf o.width → o.skip.contains (l, k) = false → slotAccs o l k ≠ [] →
           (anyBad (slotBytes read l k) = true → (getS g' (o.dst + k)).poison = true)
           ∧ (anyBad (slotBytes read l k) = false → getS g' (o.dst + k) = { val := slotValue o (slotBytes read l k), poison := false }))
         ∧ ∀ n, ¬(o.dst ≤ n ∧ n < o.dst + slotsOf o.width ∧ o.skip.contains (l, n - o.dst) = false) → getS g' n = getS g n)
       ∧ (o.scalar = false → ∀ l k, l < 16 → hasLane o.lanes l = true → k < slotsOf o.width → o.skip.contains (l, k) = false → slotAccs o l k ≠ [] →
         (anyBad (slotBytes read l k) = true → (getV g' (o.dst + k) l).poison = true)
         ∧ (anyBad (slotBytes read l k) = false → getV g' (o.dst + k) l = { val := slotValue o (slotBytes read l k), poison := false })))
    ∧ (∀ n l, l < 16 → ¬(hasLane o.lanes l = true ∧ o.dst ≤ n ∧ n < o.dst + slotsOf o.width ∧ o.skip.contains (l, n - o.dst) = false) →
        getV g' n l = getV g n l)

/-- R205, R292: STORE_PERFORMED of a store in front of its group, of a workgroup that is not CHECKED, puts its first d pieces into
memory, or into the canvas window they lie in: a byte that no later one of them covers is the piece's, and every byte outside them is
as before. With all pieces done the store is over. No register changes. -/
def Obligations.StoresPerform : Prop := ∀ (s : State) (g : Group) (o : Op) (later : List Op),
  InFront s s.arg.a s.arg.b g o later → Names s o → NoYield s → o.kind = .store → Unchecked s s.arg.a → opStalled s s.arg.a g o.id = false →
  (∀ a ∈ o.accs, Todo a) →
  ∃ t g', exec .storePerformed s = .next t ∧ findGrp t s.arg.a s.arg.b = some g' ∧ g'.v = g.v ∧ g'.s = g.s ∧ g'.p = g.p
    ∧ (∀ p, (∀ a ∈ o.accs.take s.arg.d, ¬covers a a.data.length p) → memByte t p = memByte s p)
    ∧ (∀ i a pa k, o.accs[i]? = some a → i < s.arg.d → a.loc = .global pa → k < a.data.length →
        (∀ j b, i < j → j < s.arg.d → o.accs[j]? = some b → ¬covers b b.data.length (pa + k)) → some (memByte t (pa + k)) = a.data[k]?)
    ∧ (∀ v b, (∀ a ∈ o.accs.take s.arg.d, ¬coversWin a a.data.length v b) → winByte t v b = winByte s v b)
    ∧ (∀ i a v wb k, o.accs[i]? = some a → i < s.arg.d → a.loc = .canvas v wb → (findWg s v).isSome = true → k < a.data.length →
        (∀ j b, i < j → j < s.arg.d → o.accs[j]? = some b → ¬coversWin b b.data.length v (wb + k)) → some (winByte t v (wb + k)) = a.data[k]?)
    ∧ (o.accs.length ≤ s.arg.d → g'.ops = later ∧ ∀ n, getF g' n = getF (flagDec g o.flag) n)

/-- R208, R209: ATOMIC_PERFORMED of an atomic or reduction in front of its group, of a workgroup that is not CHECKED, performs its
lanes' sequences in order on unpoisoned memory, or in canvas windows, and a returning one delivers the old values; every byte outside
its pieces is as before. RED_ACCEPTED lets a reduction's flag fall, and it is over where its pieces are.
Where the manual leaves a point open, the model's choices are those of log entries 8 (the order of lanes) and 46 (a RED of a CHECKED
group). -/
def Obligations.AtomicsPerform : Prop :=
  (∀ (s : State) (g : Group) (o : Op) (later : List Op),
    InFront s s.arg.a s.arg.b g o later → Names s o → NoYield s → o.kind = .atom ∨ o.kind = .red → o.scalar = false → Unchecked s s.arg.a → opStalled s s.arg.a g o.id = false →
    (∀ a ∈ o.accs, Todo a ∧ cleanAt s a ∧ 0 < a.len) →
    ∃ t g', exec .atomicPerformed s = .next t ∧ t.mem = (atomRun o.aop s o.accs).1.mem ∧ (∀ v b, winByte t v b = winByte (atomRun o.aop s o.accs).1 v b) ∧ findGrp t s.arg.a s.arg.b = some g' ∧ g'.s = g.s ∧ g'.p = g.p
      ∧ (∀ p, (∀ a ∈ o.accs, ¬covers a a.len p) → memByte t p = memByte s p)
      ∧ (∀ v b, (∀ a ∈ o.accs, ¬coversWin a a.len v b) → winByte t v b = winByte s v b)
      ∧ (o.ret = false → g'.v = g.v)
      ∧ (o.ret = true → o.kind = .atom → ∀ i a k, o.accs[i]? = some a → a.off = 0 → a.len = o.width → a.got = [] → a.lane < 16 →
          hasLane o.lanes a.lane = true → (∀ k, o.skip.contains (a.lane, k) = false) → (∀ j b, j ≠ i → o.accs[j]? = some b → b.lane ≠ a.lane) → k < slotsOf o.width →
          getV g' (o.dst + k) a.lane
            = { val := slotValue o ((slice ((atomRun o.aop s o.accs).2.getD i []) (4 * k) (min 4 o.width)).map (fun b => (b, false))), poison := false }))
  ∧ (∀ (s : State) (g : Group) (o : Op) (later : List Op),
    InFront s s.arg.a s.arg.b g o later → Names s o → o.kind = .red → o.accepted = false → redBuffered s s.arg.a o = false →
    (∀ a ∈ o.accs, a.st ≠ .unlogged) →
    ∃ t g', exec .redAccepted s = .next t ∧ t.mem = s.mem ∧ findGrp t s.arg.a s.arg.b = some g' ∧ g'.v = g.v ∧ g'.s = g.s ∧ g'.p = g.p
      ∧ (∀ n, getF g' n = getF (flagDec g o.flag) n)
      ∧ g'.ops = (if o.accs.all (fun a => a.st == .done) then [] else [{ o with accepted := true }]) ++ later)

/-- R154: LANE_WORD_COMPLETE of a long-latency lane word with no enabled condition met writes its lanes' results, and its flag falls,
once more for each replayed word that joined it;
the word is over. PROBE completes the same way.
Where the manual leaves a point open, the model's choice is that of log entry 119 (all slots in one step). -/
def Obligations.LaneWordsComplete : Prop := ∀ (s : State) (w : Workgroup) (l : Launch) (g : Group) (o : Op) (later : List Op),
  findWg s s.arg.a = some w → findLaunch s w.launch = some l → InFront s s.arg.a s.arg.b g o later → Names s o →
  o.kind = .laneWord ∨ o.kind = .crd → o.outs ≠ [] → (o.kind = .laneWord → condLanes g (enablesOf l) o.outs = 0) →
  (∀ k ∈ o.outs, k.lane < 16 ∧ k.bad = []) → o.outs.Pairwise (fun a b => a.lane ≠ b.lane) →
  ∃ t g', exec .laneWordComplete s = .next t ∧ t = { s with wgs := t.wgs } ∧ (∀ id, id ≠ s.arg.a → findWg t id = findWg s id)
    ∧ findGrp t s.arg.a s.arg.b = some g' ∧ g' = { g with v := g'.v, p := g'.p, f := g'.f, ops := later, quads := g'.quads }
    ∧ (∀ n, getF g' n = getF (flagDrop g o) n)
    ∧ (∀ n k, k < 16 → getV g' n k = ((outsSlot o.outs n k).map (fun y => ({ val := y, poison := false } : Slot))).getD (getV g n k))
    ∧ (∀ n k, n < 7 → k < 16 → getP g' n k = (outsBit o.outs n k).getD (getP g n k))

/-- R206, R210-R213: LDC reads the palette (here with no poisoned byte), PREF changes nothing, BCHK tests an element's bounds, and
PROBE starts an operation that will write a page's status.
Where the manual leaves a point open, the model's choices are those of log entries 107 (PROBE) and 138 (PREF with a poisoned IDX). -/
def Obligations.PaletteLoadsAndTests : Prop := ∀ (s : State) (x : Ctx) (w : FmtM), Issues s w.g x → Reads x [srcOf 3 w.idx 1] x.act →
  (let n := memW w
   let bytes := fun l k => palRead s x (wrapNat 32 ((readN s x w.idx l : Int) + memOff w) / n * n + 4 * k) (min 4 n)
   let value := fun l k => bytesToNat ((bytes l k).map Prod.fst)
   (∀ l k e, hasLane x.act l = true → e ∈ bytes l k → e.2 = false) →
     ∃ t g, exec (.ldc w) s = .next t ∧ GroupStep s t x g ∧ LaneWrites x g (fun r l =>
       if hasLane x.act l = true ∧ w.d.toNat ≤ r ∧ r < w.d.toNat + slotsOf n then
         some (if n < 4 ∧ w.sx then wordOfInt (toSigned (8 * n) (value l (r - w.d.toNat))) else wordOf (value l (r - w.d.toNat))) else none) noBit)
  ∧ (∃ t g, exec (.pref w) s = .next t ∧ GroupStep s t x g ∧ OnlyMoves x g)
  ∧ (∃ t g, exec (.bchk w) s = .next t ∧ GroupStep s t x g ∧ LaneWrites x g noSlot (toPred x w.d.toNat (fun l =>
      (elemsOf (getB x.g w.buf.toNat) ((readN s x w.idx l : Int) + memOff w) (memW w)).all (elemIn (getB x.g w.buf.toNat)))))
  ∧ (flagFull x.g (flagSel x.c.clause w.fs) = false → x.act ≠ 0 →
      ∃ t g k, exec (.probe w) s = .next t ∧ t = { s with wgs := t.wgs, nextId := s.nextId + 1 }
        ∧ (∀ id, id ≠ x.c.wg → findWg t id = findWg s id)
        ∧ findWg t x.c.wg = some { x.w with groups := modifyAt x.w.groups x.c.grp (fun _ => g) }
        ∧ g = advanceGrp x.c { flagInc x.g (flagSel x.c.clause w.fs) with ops := x.g.ops ++ [k] }
        ∧ k.id = s.nextId ∧ k.kind = .crd ∧ k.flag = flagSel x.c.clause w.fs ∧ k.lanes = x.act
        ∧ (∀ n l, l < 16 → outsSlot k.outs n l = toReg x w.d.toNat (fun l => wordOf (probeBits s x w l)) n l))

/-- R211: BREC of a group with nothing outstanding writes slot D: the well-formed table entry at a + OFF, or the zero record
beyond the table. Memory does not change. A malformed entry is the trap BAD_RECORD, and an entry under a WRITE lock the trap
RANGE_HAZARD; issued for helper lanes alone the word traps for none of these, nor for a page, and reads zero (R116).
Where the manual leaves a point open, the model's choices are those of log entries 12 and 19 (poisoned bytes, and a peer's), 20 (lane
masks), 120 (malformed records) and 144 (the operand log). -/
def Obligations.RecordsBind : Prop := ∀ (s : State) (x : Ctx) (w : FmtM), Issues s w.g x → x.act ≠ 0 → Sole s x →
  flagFull x.g (flagSel x.c.clause w.fs) = false → Reads x [srcOf 3 w.idx 1] x.act →
  let e := (readUN s x w.idx : Int) + memOff w
  let va := x.l.btab.toNat + 16 * e.toNat
  let fresh := ∀ q, hasQuad x.c.quads q = true → (quadAt x.g q).refused = []
  let binds := fun (r : BitVec 128) => ((∃ t g, exec (.brec w) s = .next t ∧ t = { s with wgs := t.wgs, dies := t.dies }
    ∧ findGrp t x.c.wg x.c.grp = some g ∧ g = { x.g with b := g.b, quads := g.quads } ∧ GoesOn x g
    ∧ ∀ n, getB g n = if n = w.d.toNat % 16 then r else getB x.g n) : Prop)
  let sure := x.act &&& x.g.counted
  (e < 0 ∨ (x.l.bcnt : Int) ≤ e →
    ∃ t g, exec (.brec w) s = .next t ∧ GroupStep s t x g ∧ g = { x.g with b := g.b, quads := g.quads } ∧ GoesOn x g
      ∧ ∀ n, getB g n = if n = w.d.toNat % 16 then 0 else getB x.g n)
  ∧ (0 ≤ e → e < (x.l.bcnt : Int) → ∀ a, brecLock s x va = some a →
      (sure = 0 → binds 0)
      ∧ (sure ≠ 0 → fresh → TrapReady x →
        Traps s x (exec (.brec w) s) { Trap.at x.c .rangeHazard 0 sure with addr := a, info := 1 }))
  ∧ (0 ≤ e → e < (x.l.bcnt : Int) → brecLock s x va = none → ∀ s1, translateFor s (dieOf s x.w.lcore) x.l.part va false = (none, s1) →
      sure = 0 → binds 0)
  ∧ (0 ≤ e → e < (x.l.bcnt : Int) → brecLock s x va = none → ∀ p s1, translateFor s (dieOf s x.w.lcore) x.l.part va false = (some p, s1) → p.peer = none →
      stalledAt s1 x.c.wg (.global p.pa) = false → NoYield s → Unchecked s x.c.wg → (∀ i, i < 16 → sectorBad s (p.pa + i) = false) →
      (recBad (BitVec.ofNat 128 (memNat s p.pa 16)) = false → binds (BitVec.ofNat 128 (memNat s p.pa 16)))
      ∧ (recBad (BitVec.ofNat 128 (memNat s p.pa 16)) = true → sure = 0 → binds 0)
      ∧ (recBad (BitVec.ofNat 128 (memNat s p.pa 16)) = true → sure ≠ 0 → fresh → TrapReady x →
        ∃ t g, exec (.brec w) s = .next t ∧ t = { s with wgs := t.wgs, dies := t.dies } ∧ findGrp t x.c.wg x.c.grp = some g
          ∧ InHandler x { Trap.at x.c .badRecord 0 sure with addr := va } g))

/-! ## CTL words -/

/-- R117, R133, R135, R137: the direct branches divide their gang, and the group settles at the headers it comes to. BR of a gang
whose branch is not predicted, which its core's predictor learns from; BRU of counted lanes that agree, all lanes of ACTIVE going where
those go; CALL, which writes the link to the lanes that go; LOOP, which counts its scalar down and branches until zero. A division for
which a quad would take a ninth stack entry is the trap RECONV_OVERFLOW, and BRU of counted lanes that differ the trap UNIFORMITY, with
ACTIVE in its mask (R128), with nothing else done.
R117, R121, R122: BR whose predicates are late, and are not all the constant p7, is predicted where the mask predictor is sure: the gang
divides by the predictor's mask, its stack entries marked, and each quad's lanes are noted as predicted, with where they went, their
true choice and no word issued yet; nothing else changes.
Where the manual leaves a point open, the model's choices are those of log entries 11 (the predictor), 18 (helper lanes at BRU) and 20
(lane masks). -/
def Obligations.BranchesDivide : Prop :=
  (∀ (s : State) (x : Ctx) (w : FmtJ), Issues s w.g x →
     let tgt := hdrOff x.c w.tgt
     let fall := fallOf x.c.clause
     let rj := rjOf x.c w.rj
     let take := x.act &&& condMask x.g w.cp
     let learnt := fun (seen : LMask) => (predUpdate s (coreOf s x.w) (predKey x) x.c.run seen).cores
     let n := w.a.code.toNat - 0x80
     let left := (getS x.g n).val - 1
     let again := if left = 0 then 0 else x.act
     (¬(w.cp = 7 ∧ w.g = 7) → x.c.predict = false ∨ alwaysKnown w = true ∨ (predEntry s x).conf.toNat < 2 ∨ ¬StackRoom x →
       (StackFits x take tgt fall rj → ∃ t d, exec (.br w) s = .next t ∧ t.cores = learnt take ∧ FlowStep s t x (settle d) ∧ Divided x x.g take tgt fall rj false d)
       ∧ (¬StackFits x take tgt fall rj → TrapReady x → ∃ t g, exec (.br w) s = .next t ∧ t.cores = learnt take ∧ FlowStep s t x g ∧ InHandler x (overflowTrap x) g))
     ∧ (w.cp = 7 → w.g = 7 → ∃ t g, exec (.br w) s = .next t ∧ t.cores = learnt x.c.run ∧ FlowStep s t x g
         ∧ g = advanceGrp { x.c with next := tgt, last := true } x.g)
     ∧ (disagree (x.act &&& x.g.counted) take = false →
         (StackFits x (bruTake x take) tgt fall rj → ∃ t d, exec (.bru w) s = .next t ∧ GroupStep s t x (settle d) ∧ Divided x x.g (bruTake x take) tgt fall rj false d)
         ∧ (¬StackFits x (bruTake x take) tgt fall rj → TrapReady x → Traps s x (exec (.bru w) s) (overflowTrap x)))
     ∧ (disagree (x.act &&& x.g.counted) take = true → TrapReady x → Traps s x (exec (.bru w) s) (Trap.at x.c .uniformity 0 x.act))
     ∧ (StackFits x take tgt fall rj → ∃ t g d, exec (.call w) s = .next t ∧ GroupStep s t x (settle d) ∧ Divided x g take tgt fall rj false d ∧ g = { x.g with v := g.v }
         ∧ ∀ n l, l < 16 → getV g n l = if n = w.d.toNat ∧ hasLane take l = true then { val := fall, poison := false } else getV x.g n l)
     ∧ (¬StackFits x take tgt fall rj → TrapReady x → Traps s x (exec (.call w) s) (overflowTrap x))
     ∧ (x.act = 0 → StackFits x 0 tgt fall rj → ∃ t d, exec (.loop w) s = .next t ∧ GroupStep s t x (settle d) ∧ Divided x x.g 0 tgt fall rj false d)
     ∧ (x.act ≠ 0 → Reads x [srcOf 0 w.a 1] x.act →
         (StackFits x again tgt fall rj → ∃ t d, exec (.loop w) s = .next t ∧ GroupStep s t x (settle d) ∧ Divided x (putS x.g n left) again tgt fall rj false d)
         ∧ (¬StackFits x again tgt fall rj → TrapReady x → Traps s x (exec (.loop w) s) (overflowTrap x))))
  ∧ (∀ (s : State) (x : Ctx) (w : FmtJ), Issues s w.g x → StackRoom x → alwaysKnown w = false →
     x.c.predict = true → (2 : Nat) ≤ (predEntry s x).conf.toNat →
     let tgt := hdrOff x.c w.tgt
     let fall := fallOf x.c.clause
     let rj := rjOf x.c w.rj
     let mask := (predEntry s x).mask &&& x.c.run
     let take := x.act &&& condMask x.g w.cp
     ∃ t d0 d, exec (.br w) s = .next t ∧ GroupStep s t x d ∧ Divided x x.g mask tgt fall rj true d0 ∧ d = { d0 with quads := d.quads }
       ∧ (∀ q, q < x.g.quads.length → hasQuad x.c.quads q = false → quadAt d q = quadAt x.g q)
       ∧ (∀ q, q < x.g.quads.length → hasQuad x.c.quads q = true →
           quadAt d q = { quadAt d0 q with pred := some {
               brPc := x.c.pc, gang := x.c.quads, tgt := tgt, fall := fall, rj := rj, onTarget := quadPart mask q &&& (quadAt x.g q).run != 0,
               lanes := (quadAt x.g q).run, truth := quadPart take q &&& (quadAt x.g q).run, issued := 0, mark := s.nextId, undo := [], stopped := false } }))

/-- R134-R136: the indirect branches, where no confirmed lane's register target is odd: BRI, CALLI and RET send each quad to the
target of its lowest lane in ACTIVE, and the other running lanes wait at the branch, in an entry that they reuse when they resume there;
CALLI writes the link to the lanes that go; BRIU, of counted lanes that agree, divides as BR does, and takes the trap UNIFORMITY where
they differ, with ACTIVE in its mask (R128). A division for which a quad would take a ninth stack entry is the trap RECONV_OVERFLOW
(R117), and an odd target of a counted lane the trap ILLEGAL_OP with subcode 11 (R132), with nothing else done.
Where the manual leaves a point open, the model's choice is that of log entries 18 (helper lanes) and 20 (lane masks). -/
def Obligations.IndirectBranches : Prop :=
  (∀ (s : State) (x : Ctx) (w : FmtJ), Issues s w.g x → Reads x [srcOf 0 w.a 1] x.act → oddTargets x (targetOf s x w.a) = 0 →
    let tg := evenTarget (targetOf s x w.a)
    let rj := rjOf x.c w.rj
    (SentFits x tg rj →
      (∃ t d, exec (.bri w) s = .next t ∧ GroupStep s t x (settle d) ∧ Sent x x.g tg rj d)
      ∧ (∃ t g d, exec (.calli w) s = .next t ∧ GroupStep s t x (settle d) ∧ Sent x g tg rj d ∧ g = { x.g with v := g.v }
          ∧ ∀ n l, l < 16 → getV g n l =
              if n = w.d.toNat ∧ hasLane x.act l = true ∧ hasLane x.c.run l = true ∧ (∃ l0, firstIn x.act (l / 4) = some l0 ∧ tg l = tg l0)
              then { val := fallOf x.c.clause, poison := false } else getV x.g n l))
    ∧ (¬SentFits x tg rj → TrapReady x → Traps s x (exec (.bri w) s) (overflowTrap x) ∧ Traps s x (exec (.calli w) s) (overflowTrap x))
    ∧ (∀ l0, lowestLane (if groupAct x = 0 then x.act else x.act &&& x.g.counted) = some l0 →
        ((∀ l, l < 16 → hasLane (x.act &&& x.g.counted) l = true → tg l = tg l0) →
          (StackFits x x.act (tg l0) (fallOf x.c.clause) rj →
            ∃ t d, exec (.briu w) s = .next t ∧ GroupStep s t x (settle d) ∧ Divided x x.g x.act (tg l0) (fallOf x.c.clause) rj false d)
          ∧ (¬StackFits x x.act (tg l0) (fallOf x.c.clause) rj → TrapReady x → Traps s x (exec (.briu w) s) (overflowTrap x)))
        ∧ ((∃ l, l < 16 ∧ hasLane (x.act &&& x.g.counted) l = true ∧ tg l ≠ tg l0) → TrapReady x →
          Traps s x (exec (.briu w) s) (Trap.at x.c .uniformity 0 x.act)))
    ∧ (x.act = 0 → StackFits x 0 0 (fallOf x.c.clause) rj →
        ∃ t d, exec (.briu w) s = .next t ∧ GroupStep s t x (settle d) ∧ Divided x x.g 0 0 (fallOf x.c.clause) rj false d))
  ∧ (∀ (s : State) (x : Ctx) (w : FmtJ), Issues s w.g x → Reads x [srcOf 0 w.a 1] x.act → oddTargets x (targetOf s x w.a) ≠ 0 → TrapReady x →
    let tr := Trap.at x.c .illegalOp 11 (oddTargets x (targetOf s x w.a))
    Traps s x (exec (.bri w) s) tr ∧ Traps s x (exec (.calli w) s) tr ∧ Traps s x (exec (.briu w) s) tr)
  ∧ (∀ (s : State) (x : Ctx) (w : FmtY), Issues s w.g x → Reads x [srcOf 0 w.a 1] x.act →
    let tg := evenTarget (targetOf s x w.a)
    (oddTargets x (targetOf s x w.a) = 0 →
      (SentFits x tg none → ∃ t d, exec (.ret w) s = .next t ∧ GroupStep s t x (settle d) ∧ Sent x x.g tg none d)
      ∧ (¬SentFits x tg none → TrapReady x → Traps s x (exec (.ret w) s) (overflowTrap x)))
    ∧ (oddTargets x (targetOf s x w.a) ≠ 0 → TrapReady x →
      Traps s x (exec (.ret w) s) (Trap.at x.c .illegalOp 11 (oddTargets x (targetOf s x w.a)))))

/-- R116, R138, R139: EXIT ends the lanes of ACTIVE, and with its last counted lane a quad's helper lanes; their outstanding loads are
discarded, so that flags of those fall; an open split may close (R216), and barriers that the ended lanes were awaited at are looked at
again (R307). NOP does nothing; YIELD, and SLEEP with K 0, may leave the active set; SLEEP parks its gang for 256 k device cycles. With
ACTIVE empty none of these has an effect but that the gang goes on. No register and no byte of memory changes. -/
def Obligations.ExitAndYield : Prop := ∀ (s : State) (x : Ctx) (w : FmtY), Issues s w.g x →
  (x.act ≠ 0 → ∃ u g d, exec (.exit w) s = .next (barriers u x.c.wg) ∧ GroupStep s u x g ∧ Exited x d
      ∧ d = { withoutLoads x (liveOf x.g 0xF &&& ~~~liveOf d 0xF) with quads := d.quads } ∧ g = settle (advanceGrp x.c (joinSplit d))
      ∧ ((∀ v ∈ s.wgs, v.id = x.c.wg → v = x.w) → (∀ k ∈ x.w.groups, k.barArr = false ∧ k.bartArr = false ∧ k.bardArr = false) → barriers u x.c.wg = u))
  ∧ (x.act = 0 → ∀ o ∈ [exec (.exit w) s, exec (.yield w) s, exec (.sleep w) s], ∃ t g, o = .next t ∧ GroupStep s t x g ∧ OnlyMoves x g)
  ∧ (∃ t g, exec (.nop w) s = .next t ∧ GroupStep s t x g ∧ OnlyMoves x g)
  ∧ (x.act ≠ 0 → (∃ t, exec (.yield w) s = .next t ∧ GroupStep s t x (yielded s x))
    ∧ (w.k = 0 → ∃ t, exec (.sleep w) s = .next t ∧ GroupStep s t x (yielded s x))
    ∧ (w.k ≠ 0 → ∃ t g, exec (.sleep w) s = .next t ∧ GroupStep s t x g ∧ Parks x (.sleep (now s + 256 * w.k.toNat)) g))

/-! ## Traps and the return from them -/

/-- R314-R316: BKPT and TRAP, with a handler, enter it: the frame holds the cause, the word's address, where to resume, the lanes and
K; all live lanes start at HANDLER. BKPT without a handler does nothing.
R316: the trap-frame registers of a trap, but for the results of a lane word's lanes.
R319: a trap of a group whose launch has no handler, or that is in it already, fails the launch with status TRAPPED and the cause,
whether the group was in its handler, and the address of the word in the detail.
Where the manual leaves a point open, the model's choice is that of log entry 20. -/
def Obligations.TrapsEnterTheHandler : Prop :=
  (∀ (s : State) (x : Ctx) (w : FmtY), Issues s w.g x → groupAct x ≠ 0 →
     (TrapReady x →
       Traps s x (exec (.bkpt w) s) { Trap.at x.c .breakpoint 0 x.act with info := w.k.toNat, resume := x.c.next }
       ∧ Traps s x (exec (.trap w) s) { Trap.at x.c .software 0 x.act with info := w.k.toNat, resume := x.c.next })
     ∧ (hasHandler x.l = false → ∃ t g, exec (.bkpt w) s = .next t ∧ GroupStep s t x g ∧ OnlyMoves x g))
  ∧ (∀ (g : Group) (tr : Trap),
     let f := { g with trap := trapFrame tr }
     getTrap f 0x100 = wordOf (tr.kind.code + 256 * tr.sub) ∧ getTrap f 0x101 = tr.pc ∧ getTrap f 0x102 = tr.resume ∧ getTrap f 0x103 = wordOf tr.mask.toNat
     ∧ getTrap f 0x104 = wordOf tr.addr ∧ getTrap f 0x105 = wordOf (tr.addr / 2 ^ 32) ∧ getTrap f 0x106 = wordOf tr.info ∧ getTrap f 0x107 = wordOf tr.wtype)
  ∧ (∀ (s : State) (x : Ctx) (w : FmtY), Issues s w.g x → groupAct x ≠ 0 → x.c.replay = false →
     trapWaits x.g = false → heldLaneWords (enablesOf x.l) x.g = [] → hasHandler x.l = false ∨ x.g.inHandler = true → x.l.fail = none →
     ∃ t l, exec (.trap w) s = .next t ∧ t.mem = s.mem ∧ findLaunch t x.w.launch = some l ∧ l.st = .failing
       ∧ l.fail = some (17, dwordOf (5 + (if x.g.inHandler then 2 ^ 16 else 0) + 2 ^ 32 * x.c.pc.toNat)))

/-- R343: RFT leaves the handler: .ret goes on at RESUME, .retry at the trapping word or header, and .skip after the trapping word, or past
the clause of the header. Out of a PAGE_FAULT taken at a boundary every gang stands as at the trap: .ret and .skip discard what was kept
of the refused word, and .retry performs it again, under fresh identifiers, its gang waiting. Every register keeps its value. Outside a
handler the three take HANDLER_STATE.
Where the manual leaves a point open, the model's choice is that of log entries 52 and 20 (lane masks). -/
def Obligations.ReturnsFromTheHandler : Prop := ∀ (s : State) (x : Ctx) (w : FmtY), Issues s w.g x → groupAct x ≠ 0 →
  let pc := getTrap x.g 0x101
  let res := getTrap x.g 0x102
  let m := x.g.ctxQuads
  let page := (getTrap x.g 0x100).toNat % 256 = 12
  (x.g.inHandler = true → speculative x.g = false →
    (atBoundary x.g = false →
      (∃ t d, exec (.rftRet w) s = .next t ∧ GroupStep s t x (settle d) ∧ Returned x m res d)
      ∧ (∃ t d, exec (.rftRetry w) s = .next t ∧ GroupStep s t x (settle d) ∧ Returned x m pc d)
      ∧ (x.g.ctxHeader = false ∨ pc ≠ res → ∃ t d, exec (.rftSkip w) s = .next t ∧ GroupStep s t x (settle d)
          ∧ Returned x m (if page then res else wordAfter (x.g.ctx.getD ((quadsOf m).headD 0) quad0) pc) d)
      ∧ (x.g.ctxHeader = true → pc = res →
          (∀ h u, codeWord s x.w x.l pc = (some h, u) → ∃ t d, exec (.rftSkip w) s = .next t ∧ GroupStep u t x (settle d)
            ∧ Returned x m (pc + BitVec.ofNat 32 (4 * (1 + (hdrOf h).len))) d)
          ∧ (∀ u, codeWord s x.w x.l pc = (none, u) → ∃ t d, exec (.rftSkip w) s = .next t ∧ GroupStep u t x (settle d) ∧ Returned x m (pc + 4) d)))
    ∧ (atBoundary x.g = true →
      (∀ o ∈ [exec (.rftRet w) s, exec (.rftSkip w) s], ∃ t d, o = .next t ∧ GroupStep s t x (settle d) ∧ Returned x 0 0 d)
      ∧ (x.g.kept = [] → ∃ t d, exec (.rftRetry w) s = .next t ∧ GroupStep s t x (settle d) ∧ Returned x 0 0 d)
      ∧ (x.g.kept ≠ [] → ∃ u d g, exec (.rftRetry w) s = .next (replayGrp u x.c.wg x.c.grp)
          ∧ GroupStep { s with nextId := s.nextId + x.g.kept.length } u x g ∧ Returned x 0 0 d ∧ g = { settle d with ops := g.ops, quads := g.quads }
          ∧ g.ops.length = x.g.ops.length + x.g.kept.length ∧ (∀ k, k < x.g.ops.length → g.ops[k]? = x.g.ops[k]?)
          ∧ (∀ k o, x.g.kept[k]? = some o → g.ops[x.g.ops.length + k]? =
              some { o with id := s.nextId + k, retried := true, accs := o.accs.map (fun a => { a with st := .resolved }) })
          ∧ ∀ q, q < d.quads.length → let a := quadAt (settle d) q
              quadAt g q = if hasQuad m q = true ∧ a.st = .running then { a with st := .parked, park := .retryOps } else a)))
  ∧ (TrapReady x →
    Traps s x (exec (.rftRet w) s) (Trap.at x.c .handlerState 0 (sureLanes x)) ∧ Traps s x (exec (.rftRetry w) s) (Trap.at x.c .handlerState 0 (sureLanes x))
    ∧ Traps s x (exec (.rftSkip w) s) (Trap.at x.c .handlerState 0 (sureLanes x)))

/-- R149: a lane word in which an enabled condition is met takes NONFINITE for the lanes that meet it, and writes nothing: the
floating-point words at once, a long-latency word, IDIV and IREM among them, when it completes, with its gang back at the word and
its flag fallen. The frame shows the conditions of the trapping lanes, and every lane's sources as read.
Where the manual leaves a point open, the model's choices are those of log entries 38 (the place of an e2m1 or e8m0 value), 118 (a
literal in a narrow operand) and 136 (OPA to OPC of lanes outside LMASK). -/
def Obligations.NonfiniteTraps : Prop :=
  let scl := fun (s : State) (x : Ctx) (w : FmtAX) (o : Host.Outcome State Fault Refusal) =>
    (let ty := w.ty.toNat
     let A := fun l => readFlt x w.a ty l
     TakesNonfinite s x o [srcOf 0 w.a (nTy ty), srcOf 1 w.b 1] (wtypeOf w)
       (fun l => condOf ty (fScl ty w.rnd.toNat w.sat (modVal w 0 (fDecode ty (A l))) (readI s x w.b l)) [fDecode ty (A l)]) A (readN s x w.b) (fun _ => 0) : Prop)
  let xtr := fun (s : State) (x : Ctx) (w : FmtAX) (o : Host.Outcome State Fault Refusal) =>
    (let ty := w.ty.toNat
     let A := fun l => readFlt x w.a ty l
     TakesNonfinite s x o [srcOf 0 w.a (nTy ty)] (wtypeOf w)
       (fun l => if w.md = 0 then condBits (fIsSnan (fDecode ty (A l))) false false false (fNonFinite (fDecode ty (A l)))
         else condOf ty (fXtrMan ty (modVal w 0 (fDecode ty (A l)))) [fDecode ty (A l)]) A (fun _ => 0) (fun _ => 0) : Prop)
  (∀ (s : State) (x : Ctx) (w : FmtA), Issues s w.g x →
    FltTwoTraps s x (axOf w 10) (exec (.fadd w) s) fAdd
    ∧ FltTwoTraps s x (axOf w 10) (exec (.fmul w) s) fMul
    ∧ FltTwoTraps s x (axOf w 10) (exec (.fmin w) s) (fun ty _ sat => fMinMax ty sat false)
    ∧ FltTwoTraps s x (axOf w 10) (exec (.fmax w) s) (fun ty _ sat => fMinMax ty sat true)
    ∧ FltOneTraps s x (axOf w 10) (exec (.frnd w) s) fRnd
    ∧ FltPackedTraps s x (axOf w 8) (exec (.padd w) s) [w.a, w.b] pkAdd ∧ FltPackedTraps s x (axOf w 8) (exec (.pmul w) s) [w.a, w.b] pkMul
    ∧ scl s x (axOf w 10) (exec (.fscl w) s) ∧ xtr s x (axOf w 10) (exec (.fxtr w) s))
  ∧ (∀ (s : State) (x : Ctx) (w : FmtAX), Issues s w.g x →
    let ty := w.ty.toNat
    let sty := w.sty.toNat
    let rty := if w.wide then 11 else ty
    let A := fun l => readFlt x w.a ty l
    let B := fun l => readFlt x w.b ty l
    FltTwoTraps s x w (exec (.faddAx w) s) fAdd
    ∧ FltTwoTraps s x w (exec (.fmulAx w) s) fMul
    ∧ FltTwoTraps s x w (exec (.fminAx w) s) (fun ty _ sat => fMinMax ty sat false)
    ∧ FltTwoTraps s x w (exec (.fmaxAx w) s) (fun ty _ sat => fMinMax ty sat true)
    ∧ FltOneTraps s x w (exec (.frndAx w) s) fRnd
    ∧ FltPackedTraps s x w (exec (.paddAx w) s) [w.a, w.b] pkAdd
    ∧ FltPackedTraps s x w (exec (.pmulAx w) s) [w.a, w.b] pkMul
    ∧ FltPackedTraps s x w (exec (.pfma w) s) [w.a, w.b, w.c] pkFma
    ∧ scl s x w (exec (.fsclAx w) s) ∧ xtr s x w (exec (.fxtrAx w) s)
    ∧ TakesNonfinite s x (exec (.fcmp w) s) [srcOf 0 w.a (nTy ty), srcOf 1 w.b (nTy ty)] (wtypeOf w)
        (fun l => condBits (fIsSnan (fDecode ty (A l)) || fIsSnan (fDecode ty (B l))) false false false false) A B (fun _ => 0)
    ∧ (let C := fun l => readFlt x w.c rty l
       let r := fun l => fFma rty w.rnd.toNat w.sat (modVal w 0 (fDecode ty (A l))) (modVal w 1 (fDecode ty (B l))) (modVal w 2 (fDecode rty (C l)))
       TakesNonfinite s x (exec (.ffma w) s) [srcOf 0 w.a (nTy ty), srcOf 1 w.b (nTy ty), srcOf 2 w.c (nTy rty)] (wtypeOf w)
         (fun l => condOf rty (r l) [fDecode ty (A l), fDecode ty (B l), fDecode rty (C l)]) A B C)
    ∧ (let n := if sty = 8 ∨ sty = 9 then 2 else 1
       let raw := fun (f : Fld) l => pairVal (regWord x.g f.code 0 l) (if sty = 8 ∨ sty = 9 then regWord x.g f.code 1 l else 0)
       let E := fun l i => dotElem sty (raw w.a l) i
       let F := fun l i => dotElem sty (raw w.b l) i
       let C := fun l => fDecode 10 (readFlt x w.c 10 l)
       let prod := fun l i => exMul (modVal w 0 (E l i)) (modVal w 1 (F l i))
       let srcs := fun l => [E l 0, E l 1, E l 2, E l 3, F l 0, F l 1, F l 2, F l 3, C l]
       let bad := fun l => [prod l 0, prod l 1, prod l 2, prod l 3].any Prod.snd
       let sum := fun l => exactSum w.rnd.toNat [(prod l 0).1, (prod l 1).1, (prod l 2).1, (prod l 3).1, modVal w 2 (C l)]
       let r := fun l => if bad l then deliver 10 w.rnd.toNat w.sat .nan true false
         else deliver 10 w.rnd.toNat w.sat (sum l).1 ((sum l).2 || (srcs l).any fIsSnan) false
       TakesNonfinite s x (exec (.fdot4 w) s) [srcOf 0 w.a n, srcOf 1 w.b n, srcOf 2 w.c 1] (wtypeOf w) (fun l => condOf 10 (r l) (srcs l))
         (raw w.a) (raw w.b) (readFlt x w.c 10))
    ∧ (let k := w.md.toNat % 8
       let from' := w.md.toNat / 8 = 2
       let into := w.md.toNat / 8 = 3
       let a := fun l => if from' then readPk x w.a sty l / 2 ^ (elemBits sty * k) % 2 ^ elemBits sty else readFlt x w.a sty l
       let v := fun l => fDecode sty (a l)
       let r := fun l => fCvt ty w.rnd.toNat w.sat (modVal w 0 (v l))
       TakesNonfinite s x (exec (.cvt w) s)
         (srcOf 0 w.a (if from' then 1 else nTy sty) :: (if into then [{ which := 3, code := BitVec.ofNat 8 w.d.toNat, n := 1 }] else [])) (wtypeOf w)
         (fun l => condOf ty { r l with inv := (r l).inv || fIsSnan (v l) } [v l]) a (fun _ => 0) (fun _ => 0))
    ∧ (let v := fun l => fDecode sty (readFlt x w.a sty l)
       TakesNonfinite s x (exec (.cvti w) s) [srcOf 0 w.a (nTy sty)] (wtypeOf w)
         (fun l => if tyInt ty then condBits ((fToInt ty w.rnd.toNat (modVal w 0 (v l))).2 || fIsSnan (v l)) false false false (fNonFinite (v l))
           else condOf ty (deliver ty w.rnd.toNat w.sat (exOfInt (intVal sty (readTy s x w.a sty l))) false false) [])
         (fun l => if tyInt ty then readFlt x w.a sty l else readTy s x w.a sty l) (fun _ => 0) (fun _ => 0))
    ∧ (let v := fun l i => fDecode sty (cvtmSrc x w l i)
       let cond := fun l i => condBits (fIsNan (v l i)) false false false (fNonFinite (v l i))
       let first := fun l => ((List.range 32).find? (fun i => cond l i &&& enablesOf x.l != 0)).getD 0
       TakesNonfinite s x (exec (.cvtm w) s) [srcOf 0 w.a (if sty = 10 then 32 else 16)] (wtypeOf w)
         (fun l => (List.range 32).foldl (fun c i => c ||| cond l i) 0) (fun l => cvtmSrc x w l (first l)) first (fun _ => 0)))
  ∧ (∀ (s : State) (w : Workgroup) (l : Launch) (g : Group) (o : Op) (later : List Op),
    let m := condLanes g (enablesOf l) o.outs
    findWg s s.arg.a = some w → findLaunch s w.launch = some l → InFront s s.arg.a s.arg.b g o later → Names s o → o.kind = .laneWord →
    o.outs ≠ [] → m ≠ 0 → (∀ k ∈ later, k.kind ≠ .laneWord) → (dueRefusals g).any (fun r => decide (r.op < o.id)) = false → trapWaits g = false → hasHandler l = true → g.inHandler = false →
    ∃ t g1 g', exec .laneWordComplete s = .next t ∧ t = { s with wgs := t.wgs } ∧ (∀ id, id ≠ s.arg.a → findWg t id = findWg s id)
      ∧ findGrp t s.arg.a s.arg.b = some g' ∧ g1 = { flagDrop g o with ops := later, quads := g1.quads } ∧ g1.quads.length = g.quads.length
      ∧ (∀ q, q < g.quads.length → quadAt g1 q
          = if hasQuad o.quads q = true ∧ (quadAt g q).live ≠ 0 then { quadAt g q with pc := o.pc } else quadAt g q)
      ∧ Entered g1 l (opTrap o m) g')
  ∧ (∀ (g : Group) (tr : Trap) (m : LMask) (c : Nat → BitVec 5) (opa opb opc : Nat → Nat), Carries tr.outs m c opa opb opc →
    (∀ l, hasLane m l = false → outOf tr.outs l = none) →
    let f := { g with trap := trapFrame tr }
    let shown := fun (base l : Nat) (v : Nat) => (getTrap f (base + 2 * l)).toNat + 2 ^ 32 * (getTrap f (base + 2 * l + 1)).toNat = v % 2 ^ 64
    ∀ l, l < 16 → (getTrap f (0x108 + l / 4)).toNat / 2 ^ (8 * (l % 4)) % 2 ^ 8 = (if hasLane m l = true ∧ hasLane tr.mask l = true then (c l).toNat else 0)
      ∧ shown 0x110 l (if hasLane m l then opa l else 0) ∧ shown 0x130 l (if hasLane m l then opb l else 0) ∧ shown 0x150 l (if hasLane m l then opc l else 0))

/-! ## SYNC words -/

/-- R301-R304: the phaser words at an object, of a group with nothing outstanding, and in a CHECKED workgroup at a cut: each reads or
changes the 16 bytes of its object alone, with the completion test of R302 after an arrival, a dropped arrival or an expectation,
which lets the gangs that wait there run on; no register and no flag changes but the scalar that PHQRY writes. PHAW parks its gang
until the generation it arrived in has ended, PHWT until the generation it names has, and PHWT.out until OUTB is zero. An object or
an operand in a wrong state is the trap PHASER_STATE with its reason; an address that R188 does not allow the trap CANVAS_BOUNDS, and
one under a copy's lock the trap RANGE_HAZARD. With no counted lane in ACTIVE a phaser word does nothing.
Where the manual leaves a point open, the model's choices are those of log entries 20 (lane masks) and 23 (a window of a saved member). -/
def Obligations.PhaserWords : Prop :=
  (∀ (s : State) (x : Ctx) (w : FmtY) (wg boff : Nat) (b : State) (y : Ctx) (fin : State → State), Issues s w.g x → Cuts s x b y fin →
    let p := phRead b wg boff
    let k := kScalar x w
    let put := fun (o : Host.Outcome State Fault Refusal) (test : Bool) (q : Phaser) =>
      ((∃ u, o = .next (fin u) ∧ ObjectPut b u x wg boff (if test then tested q else q) (test && ends q) (advanceGrp x.c)) : Prop)
    let step := fun (o : Host.Outcome State Fault Refusal) (f : Group → Prop) => ((∃ u g, o = .next (fin u) ∧ GroupStep b u y g ∧ f g) : Prop)
    let bad := fun (o : Host.Outcome State Fault Refusal) (reason : Nat) =>
      (TrapReady y → TrapsIn (fin b) y o { Trap.at x.c .phaserState reason (x.act &&& x.g.counted) with addr := readUN b x w.a } : Prop)
    let sig := phSig w
    let wt := phWt w
    let up := fun (c : Bool) (n : Nat) => if c then n + 1 else n
    let down := fun (c : Bool) (n : Nat) => if c then n - 1 else n
    let dropped := { p with nsig := down sig p.nsig, nwait := down wt p.nwait }
    let arrived := { p with pend := p.pend - 1 }
    (PhaserAt b x w true wg boff →
      (bitsOf k 15 10 = 0 → bitsOf k 31 26 = 0 → put (exec (.phini w) s) false
        { gen := 0, nsig := bitsOf k 9 0, nwait := bitsOf k 25 16, pend := bitsOf k 9 0, zhi := 0, outb := 0, zlo := 0, inb := 0 })
      ∧ (¬(bitsOf k 15 10 = 0 ∧ bitsOf k 31 26 = 0) → bad (exec (.phini w) s) 5)
      ∧ (¬(p.zhi = 0 ∧ p.zlo = 0) → bad (exec (.phexp w) s) 4 ∧ bad (exec (.phwt w) s) 4)
      ∧ (p.zhi = 0 → p.zlo = 0 →
        (k < 2 ^ 31 → toSigned 32 p.inb + (k : Int) < 2 ^ 31 → put (exec (.phexp w) s) true { p with inb := (p.inb + k) % 2 ^ 32 })
        ∧ (¬(k < 2 ^ 31 ∧ toSigned 32 p.inb + (k : Int) < 2 ^ 31) → bad (exec (.phexp w) s) 3)
        ∧ (p.gen ≠ k % 16 → step (exec (.phwt w) s) (OnlyMoves y))
        ∧ (p.gen = k % 16 → step (exec (.phwt w) s) (Parks y (.phwt wg boff p.gen)))))
    ∧ (PhaserAt b x w false wg boff →
      (¬(p.zhi = 0 ∧ p.zlo = 0) → bad (exec (.phreg w) s) 4 ∧ bad (exec (.phdrp w) s) 4 ∧ bad (exec (.pharr w) s) 4 ∧ bad (exec (.phaw w) s) 4
        ∧ bad (exec (.phqry w) s) 4 ∧ bad (exec (.phwtOut w) s) 4)
      ∧ (p.zhi = 0 → p.zlo = 0 →
        ((sig = true → p.nsig < 1023) → (wt = true → p.nwait < 1023) →
          ((sig = true → w.k.getLsbD 2 = true → p.pend < 1023) →
            put (exec (.phreg w) s) false { p with nsig := up sig p.nsig, nwait := up wt p.nwait, pend := up (sig && w.k.getLsbD 2) p.pend }))
        ∧ (¬((sig = true → p.nsig < 1023) ∧ (wt = true → p.nwait < 1023)) → bad (exec (.phreg w) s) 2)
        ∧ (w.k.getLsbD 2 = true → p.pend = 0 → bad (exec (.phdrp w) s) 1)
        ∧ ((w.k.getLsbD 2 = true → p.pend ≠ 0) →
          (¬((sig = true → p.nsig ≠ 0) ∧ (wt = true → p.nwait ≠ 0)) → bad (exec (.phdrp w) s) 2)
          ∧ ((sig = true → p.nsig ≠ 0) → (wt = true → p.nwait ≠ 0) →
            (w.k.getLsbD 2 = false → put (exec (.phdrp w) s) false dropped)
            ∧ (w.k.getLsbD 2 = true → put (exec (.phdrp w) s) true { dropped with pend := p.pend - 1 })))
        ∧ (p.pend = 0 → bad (exec (.pharr w) s) 1 ∧ bad (exec (.phaw w) s) 1)
        ∧ (p.pend ≠ 0 → put (exec (.pharr w) s) true arrived)
        ∧ (p.pend ≠ 0 → ∃ u, exec (.phaw w) s = .next (fin u) ∧ ObjectPut b u x wg boff (tested arrived) (ends arrived)
            (if ends arrived then advanceGrp x.c else parkGrp x.c (.phaw wg boff p.gen)))
        ∧ step (exec (.phqry w) s) (fun g => SclWrites y g (toS w.d.toNat (wordOf (match w.k.toNat with
            | 0 => p.gen | 1 => p.pend | 2 => p.inb | 3 => p.outb | 4 => p.nsig | _ => p.nwait))))
        ∧ (p.outb = 0 → step (exec (.phwtOut w) s) (OnlyMoves y))
        ∧ (p.outb ≠ 0 → step (exec (.phwtOut w) s) (Parks y (.phwtOut wg boff)))))
    ∧ (let addr := readUN b x w.a
       let tr := fun (k : TrapKind) (a info : Nat) => { Trap.at x.c k 0 (x.act &&& x.g.counted) with addr := a, info := info }
       let all := fun (t : Trap) =>
         ((PhaserReady x w true → ∀ o ∈ [exec (.phini w) s, exec (.phexp w) s, exec (.phwt w) s], TrapsIn (fin b) y o t)
         ∧ (PhaserReady x w false → ∀ o ∈ [exec (.phreg w) s, exec (.phdrp w) s, exec (.pharr w) s, exec (.phaw w) s, exec (.phqry w) s, exec (.phwtOut w) s],
             TrapsIn (fin b) y o t) : Prop)
       TrapReady y → (canvasAt b x.l x.w addr 16 = none → all (tr .canvasBounds addr 0))
         ∧ ∀ t k, canvasAt b x.l x.w addr 16 = some (t, boff) → lockHit b x.l.id (dieOf b t.lcore) (.canvas t.id) boff 16 false = some k →
           all (tr .rangeHazard (addr + (max boff k.lo - boff)) 3)))
  ∧ (∀ (s : State) (x : Ctx) (w : FmtY), Issues s w.g x → groupAct x = 0 →
    ∀ o ∈ [exec (.phini w) s, exec (.phreg w) s, exec (.phdrp w) s, exec (.pharr w) s, exec (.phaw w) s, exec (.phwt w) s, exec (.phwtOut w) s,
        exec (.phexp w) s, exec (.phqry w) s], ∃ t g, o = .next t ∧ GroupStep s t x g ∧ OnlyMoves x g)

/-- R306-R308: BAR, BART and BARD of a COOP launch, of a group with nothing outstanding, and in a CHECKED workgroup at a cut: the gang
arrives and parks while a group has neither arrived, with all that it accessed before performed, nor ended; the last group of the workgroup releases BAR for every group, and sends
the workgroup's arrival at BART and BARD up the tree.
R308: a level of the barrier tree. BARRIER_COMBINE of a team whose members' arrivals meet, at the die they all stood on at the instance's first arrival or at the hub
nearest the lowest die of those, releases the team: its arrivals are gone. Where the members of a unit have all passed a level of a barrier
that goes on, their arrivals go one level up; a grid is released at the package, once all of it has been placed. A barrier with a
member in the save reserve waits. BARD outside a COOP launch is the trap BAD_BARRIER.
Where the manual leaves a point open, the model's choices are those of log entries 20 (lane masks), 23 (a saved member) and 59 and 141
(what a release waits for). -/
def Obligations.BarrierWords : Prop :=
  (∀ (s : State) (x : Ctx) (w : FmtY) (b : State) (y : Ctx) (fin : State → State), Issues s w.g x → groupAct x ≠ 0 → Idles x → Cuts s x b y fin →
     (∀ q, hasQuad x.c.quads q = true → inSplit x.g q = false) →
     let others := fun (f : Group → Bool) => ∀ k g, k ≠ x.c.grp → y.w.groups[k]? = some g →
       (f g = true ∧ arrivalStands g = true) ∨ exitStands y.w k g = true
     let waits := fun (f : Group → Bool) => ∃ k g, k ≠ x.c.grp ∧ y.w.groups[k]? = some g
       ∧ ¬(f g = true ∧ arrivalStands g = true) ∧ exitStands y.w k g = false
     let parked := fun (g : Group) (k : Park) => ((∀ q, q < x.g.quads.length → hasQuad x.c.quads q = true → (quadAt x.g q).live ≠ 0 →
       (quadAt g q).st = .parked ∧ (quadAt g q).park = k) : Prop)
     let sent := fun (t : State) (team : Option Nat) => ∃ a ∈ t.arrivals, a.launch = x.w.launch ∧ a.team = team ∧ a.wg = x.c.wg
     (waits Group.barArr → ∃ t g, exec (.bar w) s = .next (fin t) ∧ findGrp t x.c.wg x.c.grp = some g ∧ g.barArr = true ∧ parked g .bar
         ∧ g.v = x.g.v ∧ g.s = x.g.s ∧ t.mem = b.mem)
     ∧ (others Group.barArr → ∃ t, exec (.bar w) s = .next (fin t) ∧ t.mem = b.mem ∧ ∀ k g, findGrp t x.c.wg k = some g →
         g.barArr = false ∧ (∃ g0, findGrp b x.c.wg k = some g0 ∧ g.barN = g0.barN + 1 ∧ g.v = g0.v) ∧ ∀ q ∈ g.quads, ¬(q.st = .parked ∧ q.park = .bar))
     ∧ (∃ t g, exec (.bart w) s = .next (fin t) ∧ findGrp t x.c.wg x.c.grp = some g ∧ g.bartArr = true ∧ parked g .bart ∧ g.v = x.g.v
         ∧ (others Group.bartArr → sent t (some (teamNo x.w))))
     ∧ (isCoop x.l = true → ∃ t g, exec (.bard w) s = .next (fin t) ∧ findGrp t x.c.wg x.c.grp = some g ∧ g.bardArr = true ∧ parked g .bard ∧ g.v = x.g.v
         ∧ (others Group.bardArr → sent t none)))
  ∧ (∀ (s : State) (x : Ctx) (w : FmtY), Issues s w.g x →
     (groupAct x = 0 → ∀ o ∈ [exec (.bart w) s, exec (.bard w) s], ∃ t g, o = .next t ∧ GroupStep s t x g ∧ OnlyMoves x g)
     ∧ (groupAct x ≠ 0 → isCoop x.l = false → TrapReady x → Traps s x (exec (.bard w) s) (Trap.at x.c .badBarrier 0 (x.act &&& x.g.counted))))
  ∧ (∀ (s : State),
     let team := if s.arg.b = 0 then none else some (s.arg.b - 1)
     let ms := barMembers s s.arg.a team
     let dies := barDies s s.arg.a team
     let die := fun (w : Workgroup) => (assoc? dies w.id).getD (dieOf s w.lcore)
     let low := dies.foldl (fun d e => min d e.2) 31
     let passed := fun (w : Workgroup) => s.arg.c < arrivalLevel s s.arg.a team w.id
     let released := fun (k : Park) => ((∃ t, exec .barrierCombine s = .next t ∧ t.mem = s.mem ∧ (∀ a ∈ t.arrivals, ¬(a.launch = s.arg.a ∧ a.team = team))
       ∧ ∀ w ∈ ms, findWg s w.id = some w → findWg t w.id = some (releaseWg k w)) : Prop)
     let up := fun (mine : Workgroup → Bool) => ((∃ t, exec .barrierCombine s = .next t ∧ t = { s with arrivals := t.arrivals }
       ∧ t.arrivals = s.arrivals.map (fun a =>
           if a.launch = s.arg.a ∧ a.team = team ∧ a.level = s.arg.c ∧ ms.any (fun w => w.id == a.wg && mine w) then { a with level := s.arg.c + 1 } else a)) : Prop)
     ((∃ w ∈ ms, isSaved w = true) → exec .barrierCombine s = .next s)
     ∧ ((∀ w ∈ ms, isSaved w = false) →
       (s.arg.b ≠ 0 → ms ≠ [] → (∀ w ∈ ms, passed w) → 
           (s.arg.c = 0 ∧ (∀ e ∈ dies, e.2 = s.arg.d) ∧ ∃ w ∈ ms, die w = s.arg.d) ∨ (s.arg.c = 1 ∧ nearestHub low = s.arg.d) → released .bart)
       ∧ (s.arg.c = 0 → (∃ w ∈ ms, die w = s.arg.d) → s.arg.b = 0 ∨ (∃ e ∈ dies, e.2 ≠ s.arg.d) →
           (∀ w ∈ ms, die w = s.arg.d → passed w) → up (fun w => die w == s.arg.d))
       ∧ (s.arg.b = 0 → s.arg.c = 1 → (∃ w ∈ ms, nearestHub (die w) = s.arg.d) → (∀ w ∈ ms, nearestHub (die w) = s.arg.d → passed w) →
           up (fun w => nearestHub (die w) == s.arg.d))
       ∧ (s.arg.b = 0 → s.arg.c = 2 → s.arg.d = 0 → ms ≠ [] → (∀ w ∈ ms, passed w) →
           (allPlaced s s.arg.a team = true → released .bard) ∧ (allPlaced s s.arg.a team = false → exec .barrierCombine s = .next s))
       ∧ ((∃ w ∈ ms, ¬passed w ∧ (match s.arg.c with
           | 0 => die w = s.arg.d
           | 1 => if s.arg.b = 0 then nearestHub (die w) = s.arg.d else nearestHub low = s.arg.d
           | _ => s.arg.d = 0)) → exec .barrierCombine s = .next s)))

/-- R280, R281, R300, R310: WAITF parks its gang until the flags it names are clear; WAITJ until a rejoin mask covers its operand; JMSK
sets, widens, clears or reads a rejoin mask; FENCE parks while an operation of its scopes is open, after a cut in a CHECKED workgroup
where its scope reaches beyond the workgroup. With no counted lane in ACTIVE they do nothing.
Where the manual leaves a point open, the model's choices are those of log entries 45 and 140 (what a cut waits for) and 59 (a fence
beside logged accesses). -/
def Obligations.FlagMaskAndFenceWords : Prop :=
  (∀ (s : State) (x : Ctx) (w : FmtYX), Issues s w.g x →
    let m : BitVec 12 := BitVec.ofNat 12 w.imm.toNat
    (groupAct x = 0 ∨ flagsClear x.g x.c.quads m = true → ∃ t g, exec (.waitf w) s = .next t ∧ GroupStep s t x g ∧ OnlyMoves x g)
    ∧ (groupAct x ≠ 0 → m ≠ 0 → flagsClear x.g x.c.quads m = false → ∃ t g, exec (.waitf w) s = .next t ∧ GroupStep s t x g ∧ Parks x (.waitf m) g))
  ∧ (∀ (s : State) (x : Ctx) (w : FmtY), Issues s w.g x → groupAct x ≠ 0 →
    let n := w.d.toNat % 8
    let a : LMask := BitVec.ofNat 16 (readUN s x w.a)
    let set := fun (o : Host.Outcome State Fault Refusal) (m : LMask) =>
      ((∃ t g, o = .next t ∧ GroupStep s t x g ∧ g = advanceGrp x.c { x.g with j := g.j } ∧ ∀ k, getJ g k = if k = n then m else getJ x.g k) : Prop)
    (Reads x [srcOf 0 w.a 1] x.act →
      (getJ x.g n &&& a = a → ∃ t g, exec (.waitj w) s = .next t ∧ GroupStep s t x g ∧ OnlyMoves x g)
      ∧ (getJ x.g n &&& a ≠ a → ∃ t g, exec (.waitj w) s = .next t ∧ GroupStep s t x g ∧ Parks x (.waitj n a) g)
      ∧ set (exec (.jmskSet w) s) a ∧ set (exec (.jmskOr w) s) (getJ x.g n ||| a) ∧ set (exec (.jmskClr w) s) (getJ x.g n &&& ~~~a))
    ∧ (∃ t g, exec (.jmskRd w) s = .next t ∧ GroupStep s t x g ∧ SclWrites x g (toS (w.a.code.toNat % 64) (wordOf (getJ x.g n).toNat)))
    ∧ (let ag := bitsOf w.k.toNat 7 5
       let st := bitsOf w.k.toNat 4 3
       (ag < 2 ∨ x.w.chk = none →
         (fenceOpen s x.c.wg x.c.grp ag st s.nextId = false → ∃ t g, exec (.fence w) s = .next t ∧ GroupStep s t x g ∧ OnlyMoves x g)
         ∧ (fenceOpen s x.c.wg x.c.grp ag st s.nextId = true → ∃ t g, exec (.fence w) s = .next t ∧ GroupStep s t x g ∧ Parks x (.fence ag st s.nextId) g))
       ∧ (2 ≤ ag → ∀ b y fin, Cuts s x b y fin →
         (fenceOpen b x.c.wg x.c.grp ag st b.nextId = false → ∃ u g, exec (.fence w) s = .next (fin u) ∧ GroupStep b u y g ∧ OnlyMoves y g)
         ∧ (fenceOpen b x.c.wg x.c.grp ag st b.nextId = true → ∃ u g, exec (.fence w) s = .next (fin u) ∧ GroupStep b u y g ∧ Parks y (.fence ag st b.nextId) g))))
  ∧ (∀ (s : State) (x : Ctx) (w : FmtY), Issues s w.g x → groupAct x = 0 →
    ∀ o ∈ [exec (.waitj w) s, exec (.jmskSet w) s, exec (.jmskOr w) s, exec (.jmskClr w) s, exec (.jmskRd w) s, exec (.fence w) s],
      ∃ t g, o = .next t ∧ GroupStep s t x g ∧ OnlyMoves x g)

/-- R299, R329: a cut. While it cannot fall, the gang of a word that it precedes stays parked at the word; when it can, the interval's
buffer enters memory in one run, in its order, the buffered operations are over, the word is performed, and the next interval opens on
a snapshot of the workgroup. The words are CUT, a FENCE beyond the workgroup, ATOM and ATOMM, LAUNCH, the phaser and barrier words,
the copies and, as the first word of the new interval, MCALL; the phaser, barrier, FENCE and copy words' own effects at a cut stand
in their statements. In a workgroup with no interval CUT does nothing.
Where the manual leaves a point open, the model's choices are those of log entries 20 (lane masks), 45 (what a cut waits for), 46
(flags of buffered stores) and 140 (refusals that stand in a handler). -/
def Obligations.IntervalCuts : Prop :=
  (∀ (s : State) (x : Ctx) (w : FmtY), Issues s w.g x → groupAct x ≠ 0 →
    (x.w.chk = none → ∃ t g, exec (.cut w) s = .next t ∧ GroupStep s t x g ∧ OnlyMoves x g)
    ∧ (x.w.chk ≠ none → cutReady s x.w = false →
      WaitsCut s x (exec (.cut w) s)
      ∧ (2 ≤ bitsOf w.k.toNat 7 5 → WaitsCut s x (exec (.fence w) s))
      ∧ WaitsCut s x (exec (.bart w) s) ∧ (isCoop x.l = true → WaitsCut s x (exec (.bard w) s))
      ∧ ((∀ q, hasQuad x.c.quads q = true → inSplit x.g q = false) → WaitsCut s x (exec (.bar w) s))
      ∧ (Reads x [srcOf 0 w.a 2] x.act → WaitsCut s x (exec (.launch w) s))
      ∧ (PhaserReady x w true → ∀ o ∈ [exec (.phini w) s, exec (.phexp w) s, exec (.phwt w) s], WaitsCut s x o)
      ∧ (PhaserReady x w false → ∀ o ∈ [exec (.phreg w) s, exec (.phdrp w) s, exec (.pharr w) s, exec (.phaw w) s, exec (.phqry w) s, exec (.phwtOut w) s],
          WaitsCut s x o))
    ∧ (∀ b y fin, Cuts s x b y fin → x.w.chk ≠ none →
      (∃ t u g v c, exec (.cut w) s = .next t ∧ t = fin u ∧ GroupStep b u y g ∧ OnlyMoves y g ∧ t.mem = (commitBuf s x.c.wg).mem
        ∧ findWg t x.c.wg = some v ∧ v.chk = some c ∧ c.snap = v.groups ∧ c.buf = [] ∧ c.opened = now s ∧ c.rerun = false)))
  ∧ (∀ (s : State) (x : Ctx) (w : FmtM), Issues s w.g x → x.act ≠ 0 → x.w.chk ≠ none → flagFull x.g (flagSel x.c.clause w.fs) = false →
    let buf : MemForm := { kind := .atom, byOff := false, canvas := false, scalar := false, ret := true }
    let cv : MemForm := { buf with canvas := true }
    let done := fun (f : MemForm) (o : Host.Outcome State Fault Refusal) =>
      (Reads x (memSrcs f w) x.act →
        (cutReady s x.w = false → WaitsCut s x o)
        ∧ ∀ b y fin, Cuts s x b y fin → MemFree b x f w →
          let as := memAccs b x f w
          let r := atomRun w.aop.toNat b as
          as ≠ [] → (∀ k ∈ y.g.ops, k.id < b.nextId) → (∀ a ∈ as, a.st = .todo ∧ isPeer a.loc = false ∧ cleanAt b a ∧ 0 < a.len ∧ stalledAt b x.c.wg a.loc = false) →
          ∃ u g, o = .next (fin u) ∧ findGrp u x.c.wg x.c.grp = some g ∧ g.ops = y.g.ops ∧ g.s = y.g.s ∧ g.p = y.g.p
            ∧ u.mem = r.1.mem ∧ (∀ v k, winByte u v k = winByte r.1 v k)
            ∧ ∀ (i : Nat) (a : Acc) (k : Nat), as[i]? = some a → a.off = 0 → a.len = memW w → a.lane < 16 →
                (∀ (j : Nat) (c : Acc), j ≠ i → as[j]? = some c → c.lane ≠ a.lane) → k < slotsOf (memW w) →
                getV g (w.d.toNat + k) a.lane
                  = (⟨slotValue (memOp b x f w [] none false) ((slice (r.2.getD i []) (4 * k) (min 4 (memW w))).map (fun b => (b, false))), false⟩ : Slot) : Prop)
    done buf (exec (.atom w) s) ∧ done cv (exec (.atomm w) s))
  ∧ (∀ (s : State) (x : Ctx) (w : FmtY) (b : State) (y : Ctx) (fin : State → State), Issues s w.g x → groupAct x ≠ 0 → Idles x → Cuts s x b y fin →
    Reads x [srcOf 0 w.a 2] x.act →
    ∃ u g, exec (.launch w) s = .next (fin u) ∧ u = { b with wgs := u.wgs, parts := u.parts } ∧ (∀ id, id ≠ x.c.wg → findWg u id = findWg b id)
      ∧ findGrp u x.c.wg x.c.grp = some g ∧ Parks y .launchAnswer g
      ∧ ∀ part, findPart b x.l.part = some part → findPart u x.l.part
          = some { part with reqs := part.reqs ++ [Request.mk (.word x.c.wg x.c.grp x.c.quads w.d.toNat) (dwordOf (readInt b x w.a 64 false 0)) [] none []] })
  ∧ (∀ (s : State) (wg : Nat) (w : Workgroup) (c : Checked), findWg s wg = some w → w.chk = some c →
    (∃ v, findWg (commitBuf s wg) wg = some v ∧ v.chk = some { c with buf := [] } ∧ v.groups = w.groups.map commitGrp ∧ v.banks = w.banks
      ∧ ∀ g ∈ w.groups, ∀ o ∈ (commitGrp g).ops, ∃ k ∈ g.ops, o.id = k.id ∧ (k.kind = .load ∨ k.ret = true ∨ o.accepted = true))
    ∧ (∀ p, (∀ e ∈ c.buf, ∀ pa, e.loc = .global pa → ¬(pa ≤ p ∧ p < pa + e.bytes.length)) → memByte (commitBuf s wg) p = memByte s p)
    ∧ (∀ (i : Nat) (e : BufEntry) (pa k : Nat), c.buf[i]? = some e → e.loc = .global pa → k < e.bytes.length → e.aop = none →
        (∀ (j : Nat) (a : BufEntry) (pb : Nat), i < j → c.buf[j]? = some a → a.loc = .global pb → ¬(pb ≤ pa + k ∧ pa + k < pb + a.bytes.length)) →
        some (memByte (commitBuf s wg) (pa + k)) = e.bytes[k]?)
    ∧ (∀ e pa op k, c.buf = [e] → e.loc = .global pa → e.aop = some op →
        let n := if op = 9 then e.bytes.length / 2 else e.bytes.length
        anyBad (memRead s pa n) = false → k < n →
        some (memByte (commitBuf s wg) (pa + k)) = (atomNew op n (smGetList s.mem pa n 0) e.bytes)[k]?)
    ∧ (∃ v, findWg (openInterval s wg) wg = some v ∧ v = { w with chk := some (freshInterval (now s) s.nextId w.groups) })
    ∧ ∀ id, id ≠ wg → findWg (openInterval s wg) id = findWg s id)

/-! ## CNV words -/

/-- R237, R242-R246: the canvas words that work in a bank's queue: each joins the queues of the banks it names, with the operands it
captures. A word that names no bank does nothing.
R224, R238, R243, R267: CMMA captures its lanes' activations and scales and joins the queues of its banks with the k-blocks of the
tile; CMMAS with those that its stream lists from kbase, past which the stream moves.
Where the manual leaves a point open, the model's choices are those of log entries 20 (lane masks) and 51 (CRD reads the rows of helper
lanes too; CACC and CMMA do not). -/
def Obligations.CanvasWordsQueue : Prop :=
  (∀ (s : State) (x : Ctx) (w : FmtC), Issues s w.g x →
     let bs := bankSet s x w.a
     let fl := flagSel x.c.clause w.fs
     (CanvasFree s x [srcOf 0 w.a 2] none →
       (bs ≠ [] → CanvasQueued s x (exec (.cmode w) s) none (.cmode (if w.md = 1 then .compute else .fill)) [] bs [])
       ∧ (bs = [] → ∃ t g, exec (.cmode w) s = .next t ∧ GroupStep s t x g ∧ OnlyMoves x g))
     ∧ (CanvasFree s x [srcOf 0 w.a 2] fl →
       (bs ≠ [] → CanvasQueued s x (exec (.czero w) s) fl .czero [] bs [])
       ∧ (bs = [] → ∃ t g, exec (.czero w) s = .next t ∧ GroupStep s t x g ∧ OnlyMoves x g))
     ∧ (∀ i j bi bj, CanvasFree s x [srcOf 1 w.b 1, srcOf 2 w.c 1] none → readUN s x w.b = i → readUN s x w.c = j → i ≠ j →
         x.w.banks[i]? = some bi → x.w.banks[j]? = some bj → anyCopy x [i, j] = false → bi.mode = .compute → bj.mode = .fill → bj.ts = .valid →
         CanvasQueued s x (exec (.cswp w) s) none (.cswp i j (w.md.getLsbD 0)) [] [i, j] [])
     ∧ (CanvasFree s x [srcOf 1 w.b 1, srcOf 2 w.c 1, srcOf 3 w.e 1] fl →
         let ty := accTy w.md.toNat
         let bank := readUN s x w.b
         let col0 := readUN s x w.c
         let ncol := readUN s x w.e
         bank < x.l.cbanks → 0 < ncol → ncol ≤ 32 → col0 + ncol ≤ 128 →
         (w.a.code.toNat + accRegs ty ncol ≤ x.l.vcount → Reads x [srcOf 0 w.a (accRegs ty ncol)] x.act → enablesOf x.l &&& 16 = 0 →
           CanvasQueued s x (exec (.cacc w) s) fl (.cacc col0 ncol)
             ((lanesOf (sureLanes x)).map (fun l => CRow.mk l [] [] ((List.range ncol).map (fun j => wordOf (cvtRne 10 ty (caccVal x w ty l j)))))) [bank] [])
         ∧ (w.d.toNat + accRegs ty ncol ≤ x.l.vcount →
           ∃ t v c o g, exec (.crd w) s = .next t ∧ t = { s with wgs := t.wgs, nextId := s.nextId + 1 } ∧ findWg t x.c.wg = some v
             ∧ v.cwords = x.w.cwords ++ [c] ∧ c.id = s.nextId ∧ c.kind = .crd ty col0 ncol (w.md.getLsbD 2) w.d.toNat ∧ c.rows.map CRow.lane = lanesOf x.act
             ∧ c.left = [bank] ∧ (∀ b, x.w.banks[bank]? = some b → v.banks[bank]? = some { b with queue := b.queue ++ [.word c.id []] })
             ∧ v.groups = modifyAt x.w.groups x.c.grp (fun _ => g)
             ∧ g = (if enablesOf x.l &&& crdEnables ty = 0 then advanceGrp else advanceHold) x.c { flagInc x.g fl with ops := [o] }
             ∧ o.id = s.nextId ∧ o.outs = [] ∧ o.flag = fl ∧ o.kind = (if enablesOf x.l &&& crdEnables ty = 0 then .crd else .laneWord))))
  ∧ (∀ (s : State) (x : Ctx) (w : FmtC), Issues s w.g x → Sole s x → groupAct x ≠ 0 →
     let bs := bankSet s x w.a
     let fl := flagSel x.c.clause w.fs
     let rows := (lanesOf (sureLanes x)).map (cmmaRow x w)
     let kind := CWordKind.cmma (cmmaAfmt w) (cmmaK256 w)
     bs ≠ [] → Reads x [srcOf 0 w.a 2] x.act → flagFull x.g fl = false → anyCopy x bs = false → canvasFull x = false → cmmaCheck s x w bs = none → enablesOf x.l &&& 16 = 0 →
     (Reads x (cmmaSrcs x w false) x.act → CanvasQueued s x (exec (.cmma w) s) fl kind rows bs (List.range (cmmaKB w)))
     ∧ (Reads x (cmmaSrcs x w true) x.act →
         let q := getQ x.g w.q.toNat
         let kbase := readUN s x w.c
         let top := kbase + cmmaKB w
         (¬(q.st = .opened ∧ q.pos.toNat < top) → CanvasQueued s x (exec (.cmmas w) s) fl kind rows bs [])
         ∧ (q.st = .opened → q.pos.toNat < top → q.len ≠ 0 → ∀ t boff, StreamAt s x q.addr.toNat q.len.toNat t boff →
             let r := streamAdvance (metaOf t boff) top (q.len.toNat + 1) q
             ∃ u v c, exec (.cmmas w) s = .next u ∧ findWg u x.c.wg = some v ∧ v.cwords = x.w.cwords ++ [c] ∧ c.kind = kind ∧ c.rows = rows ∧ c.left = bs
               ∧ (∀ k b, k ∈ bs → x.w.banks[k]? = some b → v.banks[k]? = some { b with queue := b.queue ++
                   [.word c.id ((r.1.filter (fun p => decide (kbase ≤ p))).map (fun p => p - kbase))] })
               ∧ ∃ g, v.groups[x.c.grp]? = some g ∧ getQ g w.q.toNat = r.2 ∧ g = { flagInc x.g fl with q := g.q, quads := g.quads } ∧ GoesOn x g
                 ∧ ∀ k, k ≠ w.q.toNat → getQ g k = getQ x.g k)))

/-- R228, R240, R242, R244-R246: BANK_QUEUE_ENTRY performs the entry at the head of a bank's queue: CMODE sets the mode, CBIND binds
the bank to its slot, or to none once that was unbound, CZERO clears the accumulators, CACC adds its values to theirs with one rounding, CRD captures them for its lanes and clears them where it says, and
CSWP, at the head of both queues, exchanges the modes and, with ACC, hands the accumulators on.
R225, R228: KBLOCK_DONE adds the block product of every row and column of the tile to its accumulator with one rounding to f32,
for the next k-block of the CMMA at the head of the queue; with the last block the bank is done with the word.
R234, R327: a poisoned byte of the tile poisons the accumulators of the column that it feeds.
Where the manual leaves a point open, the model's choices are those of log entries 51 (CRD clears the rows of counted lanes) and 129 (a
CBIND whose slot CUNP unbound binds none). -/
def Obligations.BankEntriesPerform : Prop :=
  (∀ (s : State) (w : Workgroup) (b : Bank) (c : CWord) (rest : List QEntry), AtHead s w b c [] rest →
     (∀ m, c.kind = .cmode m → ∃ t b', exec .bankQueueEntry s = .next t ∧ BankStep s t w s.arg.b b' ∧ b' = { b with mode := m, queue := rest })
     ∧ (∀ slot, c.kind = .cbind slot → ∃ t b', exec .bankQueueEntry s = .next t ∧ BankStep s t w s.arg.b b'
         ∧ b' = { b with bound := slot.isSome, slot := BitVec.ofNat 4 (slot.getD 0), queue := rest })
     ∧ (c.kind = .czero → ∃ t b', exec .bankQueueEntry s = .next t ∧ BankStep s t w s.arg.b b' ∧ b' = { b with acc := [], accPoison := [], queue := rest })
     ∧ (∀ col0 ncol, c.kind = .cacc col0 ncol → c.rows.Pairwise (fun p q => p.lane ≠ q.lane) → col0 + ncol ≤ 128 → (∀ r ∈ c.rows, r.vals.length = ncol) →
         ∃ t b', exec .bankQueueEntry s = .next t ∧ BankStep s t w s.arg.b b' ∧ b' = { b with acc := b'.acc, queue := rest }
           ∧ (∀ r j, r ∈ c.rows → j < ncol → getAcc b' r.lane (col0 + j) = wordOf (addRne 10 (getAcc b r.lane (col0 + j)).toNat (r.vals.getD j 0).toNat))
           ∧ (∀ l n, n < 128 → ¬(∃ r ∈ c.rows, r.lane = l ∧ col0 ≤ n ∧ n < col0 + ncol) → getAcc b' l n = getAcc b l n))
     ∧ (∀ col0 ncol clr d g l, c.kind = .crd 10 col0 ncol clr d → w.groups[c.grp]? = some g → findLaunch s w.launch = some l → b.accPoison = [] →
         enablesOf l = 0 → c.rows.Pairwise (fun p q => p.lane ≠ q.lane) → col0 + ncol ≤ 128 →
         ∃ t v b' g', exec .bankQueueEntry s = .next t ∧ findWg t s.arg.a = some v ∧ v.banks[s.arg.b]? = some b' ∧ b'.queue = rest ∧ v.groups[c.grp]? = some g'
           ∧ (∀ o ∈ g'.ops, o.id = c.id → ∀ r j, r ∈ c.rows → j < ncol → outsSlot o.outs (d + j) r.lane = some (getAcc b r.lane (col0 + j)))
           ∧ (∀ r j, r ∈ c.rows → j < ncol → getAcc b' r.lane (col0 + j)
               = if clr = true ∧ hasLane g.counted r.lane = true then 0 else getAcc b r.lane (col0 + j)))
     ∧ (∀ i j acc bi bj, c.kind = .cswp i j acc → i ≠ j → w.banks[i]? = some bi → w.banks[j]? = some bj → bi.resBad = [] →
         bi.queue.head? = some (.word c.id []) → bj.queue.head? = some (.word c.id []) →
         ∃ t v bi' bj', exec .bankQueueEntry s = .next t ∧ findWg t s.arg.a = some v ∧ v.banks[i]? = some bi' ∧ v.banks[j]? = some bj'
           ∧ bi'.mode = .fill ∧ bj'.mode = .compute ∧ bi'.tile = bi.tile ∧ bj'.tile = bj.tile
           ∧ (acc = true → bi'.acc = [] ∧ bj'.acc = bi.acc) ∧ (acc = false → bi'.acc = bi.acc ∧ bj'.acc = bj.acc)
           ∧ ∀ e ∈ bi'.queue ++ bj'.queue, qEntryId e ≠ c.id))
  ∧ (∀ (s : State) (w : Workgroup) (b : Bank) (c : CWord) (kb : Nat) (more : List Nat) (rest : List QEntry) (afmt : Nat) (k256 : Bool),
     AtHead s w b c (kb :: more) rest → c.kind = .cmma afmt k256 → c.rows.Pairwise (fun p q => p.lane ≠ q.lane) →
     ∃ t b', exec .kblockDone s = .next t ∧ BankStep s t w s.arg.b b'
       ∧ b' = { b with acc := b'.acc, accPoison := b'.accPoison, queue := (if more = [] then [] else [.word c.id more]) ++ rest }
       ∧ (∀ k, smGet b'.accPoison k false = true ↔
           smGet b.accPoison k false = true ∨ ∃ o ∈ b.tileBad, tileBlk b o = kb ∧ ∃ r ∈ c.rows, accKey r.lane (tileCol b o) = k)
       ∧ (∀ r n, r ∈ c.rows → n < 128 → getAcc b' r.lane n = wordOf (addRne 10 (getAcc b r.lane n).toNat (blockProduct afmt r b kb n)))
       ∧ (∀ l n, n < 128 → (∀ r ∈ c.rows, r.lane ≠ l) → getAcc b' l n = getAcc b l n))

/-- R231, R240, R241, R247: CBIND binds a slot to the weight set whose header it reads, and joins the queues of the banks it names,
which it binds when its place there comes; CPIN counts a pin in the record's PINW unless bit 31 refuses it; CUNP counts it back and
unbinds, the words that still wait in a queue among it; CSTAT reads a bank's or slot's status.
Where the manual leaves a point open, the model's choices are those of log entries 12 and 19 (bytes of which no value is known), 20
(lane masks), 23 (a place that stalls), 30 (fields of an EMPTY bank), 120 (malformed headers) and 129 (a queued CBIND of the slot that
CUNP unbinds). -/
def Obligations.WeightSlots : Prop := ∀ (s : State) (x : Ctx) (w : FmtC), Issues s w.g x → Sole s x → groupAct x ≠ 0 →
  (let bs := bankSet s x w.a
   let k := readUN s x w.b
   let raddr := readU s x w.c 64 false
   ∀ e b1 b2 s1 s2, Reads x [srcOf 0 w.a 2, srcOf 1 w.b 1, srcOf 2 w.c 2] x.act → anyCopy x bs = false → (bs ≠ [] → canvasFull x = false) →
     x.l.wtab[k]? = some e →
     let r := if raddr = 0 then e.toNat else raddr
     r % 64 = 0 → r < 2 ^ 57 → e.toNat % 64 = 0 → e.toNat < 2 ^ 57 →
     readRec s x r 64 = (.bytes b1, s1) → readRec s1 x e.toNat 64 = (.bytes b2, s2) → whdrBad b1 = false → whdrBad b2 = false →
     (whdrOf b1).setid = (whdrOf b2).setid → slotOfWg x.w k = none →
     ∃ t v o, exec (.cbind w) s = .next t ∧ t.mem = s.mem ∧ findWg t x.c.wg = some v ∧ slotOfWg v k = some o ∧ o.addr = dwordOf r
       ∧ o.setid = (whdrOf b1).setid ∧ o.gen = (whdrOf b1).gen ∧ o.ktiles = (whdrOf b1).kt ∧ o.ntiles = (whdrOf b1).nt ∧ o.pin = .none
       ∧ (bs = [] → v.cwords = x.w.cwords ∧ v.banks = x.w.banks)
       ∧ (bs ≠ [] → ∃ c, v.cwords = x.w.cwords ++ [c] ∧ c.kind = .cbind (some k) ∧ c.left = bs ∧ v.banks.length = x.w.banks.length
         ∧ ∀ j b, x.w.banks[j]? = some b → v.banks[j]? = some (if bs.contains j then { b with queue := b.queue ++ [.word c.id []] } else b)))
  ∧ (let k := readUN s x w.a
     ∀ o p s1, Reads x [srcOf 0 w.a 1] x.act → k < x.l.wtab.length → slotOfWg x.w k = some o →
       translateFor s (dieOf s x.w.lcore) x.l.part (o.addr.toNat + 8) true = (some p, s1) → p.peer = none → stalledAt s1 x.c.wg (.global p.pa) = false →
       (∀ i, i < 4 → sectorBad s (p.pa + i) = false) →
       let v0 := memNat s p.pa 4
       (o.pin = .none → ∃ t v o', exec (.cpin w) s = .next t ∧ findWg t x.c.wg = some v ∧ slotOfWg v k = some o'
         ∧ o' = { o with pin := if bitOf v0 31 then .refused else .pinned } ∧ WordChanges s t p.pa v0 (if bitOf v0 31 then v0 else v0 + 1))
       ∧ (o.pin = .pinned → ∃ t v, exec (.cunp w) s = .next t ∧ findWg t x.c.wg = some v ∧ slotOfWg v k = none
         ∧ (∀ b ∈ v.banks, ¬(b.bound = true ∧ b.slot.toNat = k)) ∧ (∀ c ∈ v.cwords, c.kind ≠ .cbind (some k)) ∧ WordChanges s t p.pa v0 ((v0 + 2 ^ 32 - 1) % 2 ^ 32)))
  ∧ (Reads x [srcOf 1 w.b 1] x.act →
      ∃ t g, exec (.cstat w) s = .next t ∧ GroupStep s t x g ∧ SclWrites x g (toS w.d.toNat (cstatValue x w.md.toNat (readUN s x w.b))))

/-- R264-R267: the stream words: SOPN opens a stream on its first listed position, SADV moves past the positions below its operand,
STND tests whether a stream is open, SCLS closes one and SGET reads its place or state.
Where the manual leaves a point open, the model's choice is that of log entry 12. -/
def Obligations.StreamWords : Prop := ∀ (s : State) (x : Ctx) (w : FmtC), Issues s w.g x → groupAct x ≠ 0 →
  (let a := readUN s x w.a
   let len := readUN s x w.c
   let opened := fun (b : Nat → Nat) => streamOpen b (dwordOf a) (wordOf (readUN s x w.b)) (wordOf len)
   Reads x [srcOf 0 w.a 1, srcOf 1 w.b 1, srcOf 2 w.c 1] x.act →
   (len = 0 → ∃ u g, exec (.sopn w) s = .next u ∧ GroupStep s u x g ∧ StreamWrites x g (w.d.toNat % 8) (opened (fun _ => 0)))
   ∧ (len ≠ 0 → ∀ t boff, StreamAt s x a len t boff →
       ∃ u g, exec (.sopn w) s = .next u ∧ GroupStep s u x g ∧ StreamWrites x g (w.d.toNat % 8) (opened (metaOf t boff))))
  ∧ (let n := w.d.toNat % 8
     let q := getQ x.g n
     let goal := readUN s x w.a
     Reads x [srcOf 0 w.a 1] x.act →
     (¬(q.st = .opened ∧ q.pos.toNat < goal) → ∃ u g, exec (.sadv w) s = .next u ∧ GroupStep s u x g ∧ OnlyMoves x g)
     ∧ (q.st = .opened → q.pos.toNat < goal → q.len ≠ 0 → ∀ t boff, StreamAt s x q.addr.toNat q.len.toNat t boff →
         ∃ u g, exec (.sadv w) s = .next u ∧ GroupStep s u x g ∧ StreamWrites x g n (streamAdvance (metaOf t boff) goal (q.len.toNat + 1) q).2))
  ∧ (∃ u g, exec (.stnd w) s = .next u ∧ GroupStep s u x g
      ∧ LaneWrites x g noSlot (toPred x w.d.toNat (fun _ => !decide ((getQ x.g w.q.toNat).st = .opened))))
  ∧ (∃ u g, exec (.scls w) s = .next u ∧ GroupStep s u x g ∧ StreamWrites x g (w.d.toNat % 8) { getQ x.g (w.d.toNat % 8) with st := .closed })
  ∧ (let q := getQ x.g w.q.toNat
     ∃ u g, exec (.sget w) s = .next u ∧ GroupStep s u x g ∧ SclWrites x g (toS w.d.toNat (match w.md.toNat with
       | 0 => if q.st = .opened then q.pos else 0xFFFFFFFF
       | 1 => q.cur
       | _ => wordOf (streamCode q))))

/-! ## CPY words -/

/-- R248-R262: the copies between memory and a canvas, and between canvases, once their shape and checks pass: a copy stands with its
box, its place and its receivers, and with locks over the bytes it reads and writes, for which the tables of their dies have room;
a CPYC that names a phaser counts in its OUTB.
R219, R257, R262: the tile copies: CPYW into banks of its own workgroup and CPYM.tile into those of team members. Each bank named
is LOADING, behind the copy, which holds a tile's addresses and checksum for each, and a lock on the first of them.
R299, R329: in a CHECKED workgroup each of these words waits for its cut, and is performed as it falls.
Where the manual leaves a point open, the model's choices are those of log entries 19 (records of a peer), 20 (lane masks), 55 to 57,
60 (locks) and 120 (malformed records). -/
def Obligations.CopiesStand : Prop :=
  (∀ (s : State) (x : Ctx) (w : FmtC) (l : Nat), Issues s w.g x → ∀ b y fin, Cuts s x b y fin →
     (CopyFree s x w [srcOf 0 w.a 2, srcOf 2 w.c 1] l → ∀ h coord s1, ShapeRead b x w l h coord s1 →
       let c := readN s1 x w.c l
       copiesFull s1 (dieOf s1 x.w.lcore) = false →
       (∀ t boff, copyRange s1 (copyCtx x w l) c (shapeExtent h) = some (t, boff) → phOk s1 (copyCtx x w l) w = true →
         (LocksFit s1 x w l h coord false [t] boff →
           ∃ u k, exec (.cpy w) s = .next (fin u) ∧ CopyStands b u y w l .cpy k ∧ k.shape = h ∧ k.coord = coord ∧ k.boff = boff ∧ k.recv = [t.id]
           ∧ k.total = shapeBytes h ∧ Locked u k.id true (.canvas t.id) boff (boff + shapeExtent h - 1)
           ∧ (∀ lo hi, boxSpan h coord = some (lo, hi) → Locked u k.id false (.global x.l.part) lo hi))
         ∧ (LocksFit s1 x w l h coord true [t] boff → (w.md.getLsbD 0 = true → (phRead b x.c.wg (readN b x w.e l)).outb ≠ 65535) →
           ∃ u k, exec (.cpyc w) s = .next (fin u) ∧ CopyStands b u y w l .cpyc k ∧ k.shape = h ∧ k.coord = coord ∧ k.src = (t.id, boff)
             ∧ k.total = shapeBytes h ∧ Locked u k.id false (.canvas t.id) boff (boff + shapeExtent h - 1)
             ∧ (∀ lo hi, boxSpan h coord = some (lo, hi) → Locked u k.id true (.global x.l.part) lo hi)
             ∧ (w.md.getLsbD 0 = true → wgEnded y.w = false → let p := phRead b x.c.wg (readN b x w.e l)
                 phRead u x.c.wg (readN b x w.e l) = { p with outb := p.outb + 1 })
             ∧ ∀ v o, ¬(w.md.getLsbD 0 = true ∧ v = x.c.wg ∧ readN b x w.e l ≤ o ∧ o < readN b x w.e l + 16) → winByte u v o = winByte b v o))
       ∧ (let recv := cpymRecv s1 (copyCtx x w l) c
          let boff := bitsOf c 23 0
          boffOk (copyCtx x w l) boff (shapeExtent h) = true → recv.any wgEnded = false → phOk s1 (copyCtx x w l) w = true → recv ≠ [] →
           LocksFit s1 x w l h coord false recv boff →
           ∃ u k, exec (.cpymBox w) s = .next (fin u) ∧ CopyStands b u y w l .cpymBox k ∧ k.shape = h ∧ k.coord = coord ∧ k.boff = boff
             ∧ k.recv = recv.map (fun t => t.id) ∧ k.total = shapeBytes h
             ∧ (∀ t ∈ recv, Locked u k.id true (.canvas t.id) boff (boff + shapeExtent h - 1))
             ∧ (∀ lo hi, boxSpan h coord = some (lo, hi) → Locked u k.id false (.global x.l.part) lo hi)))
     ∧ (CopyFree s x w [srcOf 0 w.a 1, srcOf 1 w.b 1, srcOf 2 w.c 2] l →
       let len := readN b x w.b l
       let c := readInt b x w.c 64 true l
       let boff := bitsOf c 31 0
       let lin := (x.w.lin : Int) + toSigned 32 (bitsOf c 63 32)
       ∀ t sb v, copyRange b (copyCtx x w l) (readN b x w.a l) len = some (t, sb) → boffOk (copyCtx x w l) boff len = true →
         phOk b (copyCtx x w l) w = true → 0 ≤ lin → lin < (gridSize x.l : Int) → len ≠ 0 → len % 16 = 0 →
         b.wgs.find? (fun v => v.launch == x.l.id && v.lin == lin.toNat) = some v → wgEnded v = false → copiesFull b (dieOf b x.w.lcore) = false →
         lockRoom b [mkLock b (dieOf b t.lcore) false (.canvas t.id) sb (sb + len - 1) x.l.id b.nextId,
           mkLock b (dieOf b v.lcore) true (.canvas v.id) boff (boff + len - 1) x.l.id b.nextId] = true →
         ∃ u k, exec (.cpys w) s = .next (fin u) ∧ CopyStands b u y w l .cpys k ∧ k.src = (t.id, sb) ∧ k.boff = boff ∧ k.recv = [v.id] ∧ k.total = len
           ∧ Locked u k.id false (.canvas t.id) sb (sb + len - 1) ∧ Locked u k.id true (.canvas v.id) boff (boff + len - 1)))
  ∧ (∀ (s : State) (x : Ctx) (w : FmtC) (l : Nat), Issues s w.g x → ∀ b y fin, Cuts s x b y fin →
     CopyFree s x w [srcOf 0 w.a 2, srcOf 1 w.b 1, srcOf 2 w.c 1] l →
     let bs := (List.range x.l.cbanks).filter (fun k => bitOf (readInt b x w.a 64 false l) k)
     let slot := readN b x w.b l
     let c := readN b x w.c l
     let stands := fun (o : Host.Outcome State Fault Refusal) (kind : CopyKind) (recv : List Workgroup) (a : WSlot) (es : List TileEnt) =>
       ((∃ u k, o = .next (fin u) ∧ CopyStands b u y w l kind k ∧ k.recv = recv.map (fun t => t.id) ∧ k.wfmt = a.wfmt.toNat ∧ k.slotSet = a.setid
         ∧ k.tiles = (List.zip bs es).map (fun e => (e.1, e.2.addrs, e.2.crc, e.2.kt, e.2.nt))
         ∧ (∀ p, tileAddr k = some p → Locked u k.id false (.global x.l.part) p (p + tileBytes k.wfmt - 1))
         ∧ ∀ t ∈ recv, ∀ j ∈ bs, ∃ v b, findWg u t.id = some v ∧ v.banks[j]? = some b ∧ b.ts = .loading ∧ b.queue = [.copy k.id]) : Prop)
     bs ≠ [] → slot < x.l.wtab.length → ∀ a hd s1 es s2, slotOfWg x.w slot = some a → a.addr.toNat % 64 = 0 → a.addr.toNat < 2 ^ 57 →
       readRec b x a.addr.toNat 64 = (.bytes hd, s1) → whdrBad hd = false →
       (readEntries x a (whdrOf hd).nrepl bs.length c s1 = some (es, s2) → TileReady s2 x w l [x.w] bs slot c a → stands (exec (.cpyw w) s) .cpyw [x.w] a es)
       ∧ (readEntries x a (whdrOf hd).nrepl bs.length (c % 2 ^ 24) s1 = some (es, s2) → TileReady s2 x w l (cpymRecv s2 (copyCtx x w l) c) bs slot (c % 2 ^ 24) a →
           ((cpymRecv s2 (copyCtx x w l) c).map (fun t => t.id)).Nodup →
           stands (exec (.cpymTile w) s) .cpymTile (cpymRecv s2 (copyCtx x w l) c) a es))
  ∧ (∀ (s : State) (x : Ctx) (w : FmtC) (l : Nat), Issues s w.g x → x.w.chk ≠ none → cutReady s x.w = false →
     (CopyFree s x w [srcOf 0 w.a 2, srcOf 2 w.c 1] l → WaitsCut s x (exec (.cpy w) s) ∧ WaitsCut s x (exec (.cpyc w) s) ∧ WaitsCut s x (exec (.cpymBox w) s))
     ∧ (CopyFree s x w [srcOf 0 w.a 1, srcOf 1 w.b 1, srcOf 2 w.c 2] l → WaitsCut s x (exec (.cpys w) s))
     ∧ (CopyFree s x w [srcOf 0 w.a 2, srcOf 1 w.b 1, srcOf 2 w.c 1] l → WaitsCut s x (exec (.cpyw w) s) ∧ WaitsCut s x (exec (.cpymTile w) s)))

/-- R249, R251-R255, R260, R295: COPY_START lets a copy whose locks, earlier accesses and channel allow it begin; COPY_DELIVERY brings
the next piece of the source whole to its place in every receiver's canvas, or, of a CPYC, in memory, and no other byte changes; with
the last piece the copy's locks fall; a piece whose page faults leaves the copy waiting on the page, with a FAULT raised;
COPY_COMPLETE takes a copy with everything in place away, with its locks, and its flag falls.
R219, R257: a tile read: TILE_ATTEMPT_END of a whole tile with its checksum right makes the bank of every receiver VALID with
those bytes; with the wrong checksum, or after TILE_READ_TIMEOUT, it tries the next address, and with none left makes the bank
INVALID, as corrupt or missing. Bytes that come more than 100 µs after the attempt began are not taken.
R250, R302, R305: a phaser that the copy names counts each piece down in its INB at every receiver, and each whole tile at every
receiver, with the completion test of R302, which lets the gangs that wait there run on; of a CPYC, COPY_COMPLETE counts its OUTB
down. R188: a receiver that has ended takes no byte and no update.
Where the manual leaves a point open, the model's choices are those of log entries 54 and 125 (a piece is moved whole, up to a 16-byte
boundary of its destination). -/
def Obligations.CopiesMove : Prop :=
  (∀ (s : State) (c : Copy), findCopy s s.arg.a = some c → (∀ k ∈ s.copies, k.id = c.id → k = c) →
     (c.started = false → channelsFull s c.die = false → lockWaits s c.id = false → (∀ g, findGrp s c.wg c.grp = some g → ∀ o ∈ g.ops, c.after ≤ o.id) → (isTileCopy c = true → c.tiles ≠ []) →
       ∃ t c', exec .copyStart s = .next t ∧ findCopy t c.id = some c' ∧ c'.started = true ∧ c'.attempt = now s ∧ t.mem = s.mem ∧ t.wgs = s.wgs
         ∧ (copyOverlaps c = false → c'.snap = []))
     ∧ (c.started = true → isTileCopy c = false → c.moved < c.total → c.waitPage = none → s.arg.b = 1 → NoYield s →
       let n := pieceLen c
       let told := fun (u : State) => (match c.ph with
         | some b => c.recv.foldl (fun u r => phDeliver u r b n) u
         | none => u : State)
       let takes := fun (r : Nat) => ((∃ v, findWg s r = some v ∧ wgEnded v = false) : Prop)
       let ends := fun (t : State) (c' : Copy) => (c' = { c with moved := c.moved + n }
         ∧ t.locks = (if c.total ≤ c.moved + n then s.locks.filter (fun k => k.owner != c.id) else s.locks) : Prop)
       (∀ ys s1, (copyOverlaps c = true → c.snap.length = c.total) → sourceRun c n s.arg.bytes c.moved s = some (ys, s1) → c.kind ≠ .cpyc →
         let at' := fun o => c.boff + (if c.kind = .cpys then o else swz o c.shape.swz)
         ∃ t c', exec .copyDelivery s = .next (told t) ∧ findCopy t c.id = some c' ∧ ends t c' ∧ t.mem = s.mem
           ∧ (∀ r ∈ c.recv, takes r → ∀ (i : Nat) (y : Byte × Bool), ys[i]? = some y → winByte t r (at' (c.moved + i)) = y.1)
           ∧ (∀ v b, ¬(v ∈ c.recv ∧ takes v ∧ ∃ i, i < n ∧ b = at' (c.moved + i)) → winByte t v b = winByte s v b))
       ∧ (∀ ys s1 ws s2, sourceRun c n s.arg.bytes c.moved s = some (ys, s1) → c.kind = .cpyc → boxRun c ys c.moved s1 = some (ws, s2) →
         ∃ t c', exec .copyDelivery s = .next t ∧ findCopy t c.id = some c' ∧ ends t c' ∧ t.wgs = s.wgs
           ∧ (∀ (i : Nat) (e : Nat × Byte), ws[i]? = some e → (∀ (j : Nat) (f : Nat × Byte), i < j → ws[j]? = some f → f.1 ≠ e.1) → memByte t e.1 = e.2)
           ∧ ∀ q, (∀ e ∈ ws, e.1 ≠ q) → memByte t q = memByte s q)
       ∧ (∀ va s1, copySource s c (s.arg.bytes.headD 0) c.moved = (.fault va, s1) →
         ∃ t c', exec .copyDelivery s = .next t ∧ findCopy t c.id = some c' ∧ c'.moved = c.moved ∧ c'.waitPage = some (pageOf va)
           ∧ faultPending t c.part (pageOf va) = true ∧ t.mem = s.mem ∧ t.wgs = s.wgs))
     ∧ (∀ a, c.started = true → isTileCopy c = true → tileAddr c = some a → c.moved < tileBytes c.wfmt → c.waitPage = none → s.arg.b = 1 → NoYield s →
       (attemptOver s c = true → exec .copyDelivery s = .next s)
       ∧ ∀ y bad s1, attemptOver s c = false → copyRead s c (s.arg.bytes.headD 0) (a + c.moved) = (.data y bad, s1) →
       ∃ t, exec .copyDelivery s = .next t ∧ findCopy t c.id = some { c with moved := c.moved + 1, snap := c.snap ++ [(y, bad)] } ∧ t.mem = s.mem ∧ t.wgs = s.wgs)
     ∧ (copyOver c = true →
       ∃ t, exec .copyComplete s = .next (match c.kind, c.ph with | .cpyc, some b => phOutb t c.wg b false | _, _ => t)
         ∧ findCopy t c.id = none ∧ (∀ k ∈ t.locks, k.owner ≠ c.id) ∧ t.mem = s.mem
         ∧ ∀ g, findGrp s c.wg c.grp = some g → ∃ g', findGrp t c.wg c.grp = some g' ∧ g' = { g with f := g'.f } ∧ ∀ n, getF g' n = getF (flagDec g c.flag) n))
  ∧ (∀ (u : State) (r b : Nat) (v : Workgroup), findWg u r = some v →
     let p := phRead u r b
     (wgEnded v = true → (∀ n, phDeliver u r b n = u) ∧ ∀ up, phOutb u r b up = u)
     ∧ (wgEnded v = false →
       (∀ n, let q := { p with inb := (p.inb + 2 ^ 32 - n % 2 ^ 32) % 2 ^ 32 }
          ObjectSet u (phDeliver u r b n) r b (tested q) (ends q) (onPhaser r b))
       ∧ (p.outb < 65535 → ObjectSet u (phOutb u r b true) r b { p with outb := p.outb + 1 } false (· == .phwtOut r b))
       ∧ ObjectSet u (phOutb u r b false) r b { p with outb := p.outb - 1 } (p.outb - 1 == 0) (· == .phwtOut r b)))
  ∧ (∀ (s : State) (c : Copy) (bank kt nt : Nat) (addr : Nat) (more : List Nat) (crc : Word) (later : List (Nat × List Nat × Word × Nat × Nat)),
     findCopy s s.arg.a = some c → (∀ k ∈ s.copies, k.id = c.id → k = c) → isTileCopy c = true → c.started = true →
     c.tiles = (bank, addr :: more, crc, kt, nt) :: later → c.recv.Nodup →
     let good := anyBad c.snap = false ∧ crc32c (c.snap.map Prod.fst) = crc.toNat
     let lands := fun (t : State) (ts : TState) (fail : TFail) => ∀ r ∈ c.recv, ∀ v b, findWg s r = some v → v.banks[bank]? = some b →
       ∃ v' b', findWg t r = some v' ∧ v'.banks[bank]? = some b' ∧ b'.acc = b.acc ∧ b'.mode = b.mode ∧ (∀ e ∈ b'.queue, qEntryId e ≠ c.id)
         ∧ (wgEnded v = true → b' = { b with queue := b'.queue } ∧ v'.win = v.win)
         ∧ (wgEnded v = false → b'.ts = ts ∧ b'.fail = fail ∧ b'.tset = c.slotSet
           ∧ (ts = .valid → ∀ o y, (c.snap.map Prod.fst)[o]? = some y → smGet b'.tile o 0 = y)
           ∧ (c.ph = none → v'.win = v.win)
           ∧ ∀ pb, c.ph = some pb →
             let p := phRead s r pb
             let q := { p with inb := (p.inb + 2 ^ 32 - tileBytes c.wfmt % 2 ^ 32) % 2 ^ 32 }
             phRead t r pb = tested q ∧ (∀ k, ¬(pb ≤ k ∧ k < pb + 16) → winByte t r k = winByte s r k)
             ∧ (ends q = true → ∀ w k g, findGrp t w k = some g → ∀ a ∈ g.quads, ¬(a.st = .parked ∧ onPhaser r pb a.park = true)))
     let again := fun (t : State) => ∃ c', findCopy t c.id = some c' ∧ c'.tiles = (bank, more, crc, kt, nt) :: later ∧ c'.started = false ∧ c'.moved = 0
       ∧ t.wgs = s.wgs
     (tileBytes c.wfmt ≤ c.moved → good → ∃ t c', exec .tileAttemptEnd s = .next t ∧ lands t .valid .none ∧ findCopy t c.id = some c' ∧ c'.tiles = later ∧ t.mem = s.mem)
     ∧ (tileBytes c.wfmt ≤ c.moved → ¬good → (more ≠ [] → ∃ t, exec .tileAttemptEnd s = .next t ∧ again t)
         ∧ (more = [] → ∃ t, exec .tileAttemptEnd s = .next t ∧ lands t .invalid .corrupt))
     ∧ (c.moved < tileBytes c.wfmt → 175000 < now s - c.attempt → ∀ o ∈ [exec .tileReadTimeout s, exec .tileAttemptEnd s],
         (more ≠ [] → ∃ t, o = .next t ∧ again t) ∧ (more = [] → ∃ t, o = .next t ∧ lands t .invalid .missing)))

/-! ## SYS and launch words -/

/-- R105-R109: LAUNCH of a group with nothing outstanding and no interval hands its record's address to the launch unit and parks;
LWAIT parks until the launch of a TAG has left; QLOC and QLEP read where a team member stands, or all ones where there is none.
R279: MCALL makes one call for each counted lane of ACTIVE whose block lies in its record, in lane order; the bits of these lanes in
the rejoin mask fall, those of the other lanes of ACTIVE rise; the gang parks while a call is being accepted. R329: in a CHECKED
workgroup it waits for its cut, and is the first word of the interval that then opens. R290: QSPR reads the item. R216: RJN holds a gang of an open split until it closes, and else does nothing.
Where the manual leaves a point open, the model's choices are those of log entries 20 (lane masks), 45 (what a cut waits for), 72 (a
refused call) and 134 (QLOC.free with several EARLY launches). -/
def Obligations.LaunchAndCallWords : Prop :=
  (∀ (s : State) (x : Ctx) (w : FmtY), Issues s w.g x → groupAct x ≠ 0 →
     (GroupActs x → Reads x [srcOf 0 w.a 2] x.act → ∀ p, findPart s x.l.part = some p →
       ∃ t g p', exec (.launch w) s = .next t ∧ GroupStep s { t with parts := s.parts } x g ∧ Parks x .launchAnswer g ∧ findPart t x.l.part = some p'
         ∧ p'.reqs = p.reqs ++ [Request.mk (.word x.c.wg x.c.grp x.c.quads w.d.toNat) (dwordOf (readInt s x w.a 64 false 0)) [] none []])
     ∧ (Reads x [srcOf 0 w.a 1] x.act →
       (tagHolder s x.l.part (readUN s x w.a) = none → ∃ t g, exec (.lwait w) s = .next t ∧ GroupStep s t x g ∧ OnlyMoves x g)
       ∧ (∀ k, tagHolder s x.l.part (readUN s x w.a) = some k → k.id ≠ x.l.id →
           ∃ t g, exec (.lwait w) s = .next t ∧ GroupStep s t x g ∧ Parks x (.lwait k.id x.c.pc) g)
       ∧ (∃ t g, exec (.qloc w) s = .next t ∧ GroupStep s t x g
           ∧ SclWrites x g (toS w.d.toNat (match queried s x w with | some m => wordOf (qlocValue s x m w.k.toNat) | none => 0xFFFFFFFF)))
       ∧ (∃ t g, exec (.qlep w) s = .next t ∧ GroupStep s t x g
           ∧ SclWrites x g (toS w.d.toNat (match queried s x w with | some m => wordOf (epochOf s m) | none => 0xFFFFFFFF)))))
  ∧ ((∀ (s : State) (x : Ctx) (w : FmtYX), Issues s w.g x → groupAct x ≠ 0 → Reads x [srcOf 0 w.a 1] x.act →
       (x.w.chk ≠ none → cutReady s x.w = false → WaitsCut s x (exec (.mcall w) s))
       ∧ ∀ (b : State) (v : Workgroup) (y : Group), (x.w.chk = none → b = s) →
         (x.w.chk ≠ none → cutReady s x.w = true ∧ b = openInterval (commitBuf s x.c.wg) x.c.wg) →
         findWg b x.c.wg = some v → v.groups[x.c.grp]? = some y → mcallTrap b x w = none → heldByFault x.g = false →
       let r := getB x.g (w.k.toNat % 16)
       let off := fun (l : Nat) => (readN b x w.a l : Int) + toSigned 32 w.imm.toNat
       let calls := (lanesOf x.act).filter (fun l => hasLane x.g.counted l && mcallIn r (off l))
       let j := w.d.toNat % 8
       ∃ t g, exec (.mcall w) s = .next t ∧ GroupStep b { t with calls := b.calls, nextId := b.nextId } { x with w := v, g := y } g
         ∧ t.nextId = b.nextId + calls.length
         ∧ g = { y with j := g.j, oob := g.oob, quads := g.quads }
         ∧ g.oob = (if (lanesOf (sureLanes x)).all (fun l => mcallIn r (off l)) then y.oob else y.oob ||| BitVec.ofNat 16 (2 ^ (w.k.toNat % 16)))
         ∧ (∀ n, n ≠ j → getJ g n = getJ y n)
         ∧ (∀ l, l < 16 → hasLane (getJ g j) l = if calls.contains l then false else hasLane (getJ y j) l || hasLane x.act l)
         ∧ t.calls.length = b.calls.length + calls.length ∧ (∀ i, i < b.calls.length → t.calls[i]? = b.calls[i]?)
         ∧ (∀ i l, calls[i]? = some l → ∃ c, t.calls[b.calls.length + i]? = some c ∧ c.id = b.nextId + i ∧ c.st = .accepting ∧ c.launch = x.l.id
             ∧ c.wg = x.c.wg ∧ c.grp = x.c.grp ∧ c.lane = l ∧ c.j = j ∧ c.brec = r ∧ (c.off : Int) = off l ∧ c.pc = x.c.pc ∧ c.status = 0)
         ∧ (calls ≠ [] → ∀ q, q < y.quads.length → hasQuad x.c.quads q = true → (quadAt y q).live ≠ 0 →
             (quadAt g q).st = .parked ∧ (quadAt g q).park = .mcall b.nextId t.nextId ∧ (quadAt g q).pc = x.c.next)
         ∧ (calls = [] → g.quads = (advanceGrp x.c y).quads))
     ∧ (∀ (s : State) (x : Ctx) (w : FmtY), Issues s w.g x →
       (groupAct x ≠ 0 → (w.k ≠ 4 → Reads x [srcOf 0 w.a 1] x.act) →
         ∃ t g, exec (.qspr w) s = .next t ∧ GroupStep s t x g ∧ SclWrites x g (toS w.d.toNat (wordOf (qsprValue s x.l.part w.k.toNat (readUN s x w.a)))))
       ∧ ((∀ q, hasQuad x.c.quads q = true → inSplit x.g q = false) → ∃ t g, exec (.rjn w) s = .next t ∧ GroupStep s t x g ∧ OnlyMoves x g)
       ∧ ((∃ q, q < 4 ∧ hasQuad x.c.quads q = true ∧ inSplit x.g q = true) →
         ∃ t g, exec (.rjn w) s = .next t ∧ GroupStep s t x g ∧ g = { x.g with quads := g.quads, split := g.split }
           ∧ (g.split ≠ none → ∀ q, q < x.g.quads.length → hasQuad x.c.quads q = true → (quadAt g q).st = .holdRjn ∧ (quadAt g q).pc = x.c.pc))))

/-- R343, R344: ICINV drops the code words of the launch that its core, or every core of the launch, holds. Where the companion allows
it, ERRI counts an error at the core, poisons a register slot or the ECC word of a canvas byte, corrupts a residue, or marks the
idle-lane clones of a CHECKED group; where it does not, it does nothing.
Where the manual leaves a point open, the model's choices are those of log entries 10, 79. -/
def Obligations.CacheAndErrorWords : Prop := ∀ (s : State) (x : Ctx) (w : FmtY), Issues s w.g x → groupAct x ≠ 0 →
  let dropped := fun (t : State) (c : Nat) => ∀ k, s.cores[c]? = some k → ∃ k', t.cores[c]? = some k' ∧ k' = { k with icache := k'.icache }
    ∧ ∀ e, e ∈ k'.icache ↔ e ∈ k.icache ∧ e.1 ≠ x.l.id
  (x.g.ops = [] →
    (∃ t g, exec (.icinvCore w) s = .next t ∧ GroupStep s { t with cores := s.cores } x g ∧ OnlyMoves x g ∧ dropped t (coreOf s x.w))
    ∧ (∃ t g, exec (.icinvLaunch w) s = .next t ∧ GroupStep s { t with cores := s.cores } x g ∧ OnlyMoves x g
        ∧ ∀ v ∈ s.wgs, v.launch = x.l.id → v.retired = false → isSaved v = false → dropped t (coreOf s v)))
  ∧ (injects s x.l = false → ∀ o ∈ [exec (.erriRegc w) s, exec (.erriRegu w) s, exec (.erriCvc w) s, exec (.erriCvu w) s, exec (.erriRes w) s, exec (.erriClone w) s],
      ∃ t g, o = .next t ∧ GroupStep s t x g ∧ OnlyMoves x g)
  ∧ (injects s x.l = true →
    (∃ t g, exec (.erriRegc w) s = .next t ∧ GroupStep (hitCore s x.w) t x g ∧ OnlyMoves x g)
    ∧ (let l := (lowestLane x.act).getD 0
       ∃ t g, exec (.erriRegu w) s = .next t ∧ GroupStep (hitCore s x.w) { t with freeCtr := s.freeCtr } x g ∧ g = { x.g with v := g.v, quads := g.quads } ∧ GoesOn x g
         ∧ (getV g w.a.code.toNat l).poison = true ∧ (∀ n k, k < 16 → ¬(n = w.a.code.toNat ∧ k = l) → getV g n k = getV x.g n k))
    ∧ (∃ t g, exec (.erriClone w) s = .next t ∧ GroupStep s t x g ∧ g = advanceGrp x.c { x.g with cloneBad := x.g.cloneBad || isChecked x.l })
    ∧ (Reads x [srcOf 0 w.a 1] x.act →
        (∀ v boff, canvasAt s x.l x.w (readUN s x w.a) 4 = some (v, boff) →
          (∃ t g, exec (.erriCvc w) s = .next t ∧ GroupStep (hitCore s v) t x g ∧ OnlyMoves x g)
          ∧ (findWg s v.id = some v → ∃ t u, exec (.erriCvu w) s = .next t ∧ t = { hitCore s v with wgs := t.wgs } ∧ findWg t v.id = some u ∧ u.win = v.win
              ∧ (∃ g, findGrp t x.c.wg x.c.grp = some g ∧ OnlyMoves x g)
              ∧ ∀ o, winBad u o = true ↔ (winBad v o = true ∨ eccWord v.ns o = eccWord v.ns boff)))
        ∧ (readUN s x w.a < x.l.cbanks → ∀ b, x.w.banks[readUN s x w.a]? = some b →
            ∃ t v, exec (.erriRes w) s = .next t ∧ t.mem = s.mem ∧ findWg t x.c.wg = some v ∧ (∃ g, v.groups[x.c.grp]? = some g ∧ OnlyMoves x g)
              ∧ v.banks[readUN s x w.a]? = some { b with resBad := smPut b.resBad 0 true false })))

/-! ## Launches and workgroups -/

/-- R85-R88: a launch message is answered with NOT_READY before READY, BAD_PARTITION or BAD_LAUNCH, or its record waits to be
accepted. LAUNCH_ACCEPT answers the first request of a partition: a record address out of range or not aligned is RECORD_FAULT;
one that passes every check joins the launches, queued, and is answered ACCEPTED.
R85, R89: acceptance checks in the order of R85's table: the image, the launch record, the buffer records, what an empty core
holds, and the queue's length; a record that passes them all is queued with the fields it names. What acceptance has read of a
record it does not read again: it goes on with its own copy.
Where the manual leaves a point open, the model's choices are those of log entries 32, 73, 74 and 120 (malformed records). -/
def Obligations.LaunchesAreAccepted : Prop :=
  (∀ (s : State),
     (let b := s.arg.msg.bytes
      let part := fieldAt b 1 1
      let reply := fun (c : Nat) => launchReply part (BitVec.ofNat 16 (fieldAt b 2 2)) s.arg.msg.cls c 0
      b.length = 32 → fieldAt b 0 1 = 0x21 → s.boot ≠ .off →
      (s.boot ≠ .ready → exec .launchMessage s = .next { s with outbox := s.outbox ++ [reply 7] })
      ∧ (s.boot = .ready → findPart s part = none → exec .launchMessage s = .next { s with outbox := s.outbox ++ [reply 8] })
      ∧ (s.boot = .ready → ∀ p, findPart s part = some p →
         (fieldAt b 4 4 ≠ 0 ∨ fieldAt b 0x10 16 ≠ 0 → exec .launchMessage s = .next { s with outbox := s.outbox ++ [reply 3] })
         ∧ (fieldAt b 4 4 = 0 → fieldAt b 0x10 16 = 0 → ∃ t p', exec .launchMessage s = .next t ∧ t = { s with parts := t.parts } ∧ findPart t part = some p'
             ∧ p'.reqs = p.reqs ++ [Request.mk (.message (BitVec.ofNat 16 (fieldAt b 2 2)) s.arg.msg.cls) (dwordOf (fieldAt b 8 8)) [] none []])))
     ∧ (∀ p q more seq cls, findPart s s.arg.a = some p → p.reqs = q :: more → q.waitPage = none → q.via = .message seq cls →
       (2 ^ 57 ≤ q.addr.toNat ∨ q.addr.toNat % 64 ≠ 0 →
         ∃ t p', exec .launchAccept s = .next t ∧ t = { s with parts := t.parts, outbox := s.outbox ++ [launchReply s.arg.a seq cls 1 0] }
           ∧ findPart t s.arg.a = some p' ∧ p' = { p with reqs := more })
       ∧ (∀ s1 tag l, luGo s s.arg.a q = .answer s1 0 tag (some l) →
         ∃ t l', exec .launchAccept s = .next t ∧ t.launches = s1.launches ++ [l'] ∧ l' = { l with id := s1.nextId } ∧ t.mem = s1.mem ∧ t.wgs = s1.wgs
           ∧ t.outbox = s1.outbox ++ [launchReply s.arg.a seq cls 0 tag])))
  ∧ (∀ (s : State) (part : Nat) (q : Request) (o tag va n : Nat) (f : State → Request → List Byte → LuRes), o + n ≤ q.got.length →
      luRead s part q o tag va n f = f s q (slice q.got o n))
  ∧ (∀ (s : State) (part : Nat) (r ib bt wt : List Byte),
     let tag := fieldAt r 8 4
     let h := imgOf ib
     let l := launchOf s part r h bt wt
     let full := 64 ≤ (s.launches.filter (fun k => k.part == part && classOf k == classOf l && k.st != .done)).length
     (imageBad (fieldAt r 0 8 % 2 ^ 57) ib = true → luCheck s part r ib bt wt = .answer s 2 tag none)
     ∧ (imageBad (fieldAt r 0 8 % 2 ^ 57) ib = false →
       (launchBad s part r h = true → luCheck s part r ib bt wt = .answer s 3 tag none)
       ∧ (launchBad s part r h = false →
         (l.recs.any recBad = true → luCheck s part r ib bt wt = .answer s 4 tag none)
         ∧ (l.recs.any recBad = false →
           (coreFit l = 0 → luCheck s part r ib bt wt = .answer s 5 tag none)
           ∧ (coreFit l ≠ 0 → depTags r = [] → isEarly l = false → (isCoop l = true → coopFits s l = true) →
             (full → luCheck s part r ib bt wt = .answer s 6 tag none) ∧ (¬full → luCheck s part r ib bt wt = .answer s 0 tag (some l)))))))

/-- R73, R92-R102, R110, R114: WORKGROUP_PLACE starts the workgroups of the plan on their cores, in order of their numbers: every
register, flag and window of theirs is zero, the slots hold the launch's records, and each quad with a counted lane stands at ENTRY.
R72: the first workgroup of a launch on a core starts once that core has read the launch's palette, byte by byte, whatever pages or
peers it could not read being zero; while a page of it faults, nothing starts.
Where the manual leaves a point open, the model's choices are those of log entries 16 (the choice of cores), 74 (a peer out of reach),
75 (a COOP grid in one step), 76 (when a palette is copied) and 77 (a launch that waits for it). -/
def Obligations.WorkgroupsStart : Prop := ∀ (s : State) (l : Launch) (plan : List Nat), findLaunch s s.arg.a = some l → (∀ k ∈ s.launches, k.id = l.id → k = l) →
  (∀ w ∈ s.wgs, w.id < s.nextId) → eligible s l = true → l.waitPage = none → outWgs s l.id = [] → l.next < gridSize l →
  planStep s l s.arg.b (stepSizes l) = some plan → mayTake s l plan = true →
  let started := fun (t : State) => ((∃ ws, t.wgs = s.wgs ++ ws ∧ t.mem = s.mem ∧ ws.length = plan.length
    ∧ ∀ i c, plan[i]? = some c → ∃ w, ws[i]? = some w ∧ w.launch = l.id ∧ w.lin = l.next + i ∧ w.lcore = c ∧ w.place = .live ∧ w.win = [] ∧ w.wslots = []
        ∧ w.groups.length = groupsPer l ∧ (w.chk.isSome = isChecked l)
        ∧ ∀ k g, w.groups[k]? = some g → g.v = [] ∧ g.s = [] ∧ g.p = [] ∧ g.f = [] ∧ g.j = [] ∧ g.b = smPutList [] 0 l.recs 0 ∧ g.oob = 0
            ∧ g.counted = countedOf l.threads k ∧ g.inHandler = false
            ∧ ∀ q, q < 4 → (quadAt g q).live = quadPart (quadMates (countedOf l.threads k)) q ∧ (quadAt g q).run = (quadAt g q).live
                ∧ ((quadAt g q).live ≠ 0 → (quadAt g q).pc = l.entry ∧ (quadAt g q).st = .running)) : Prop)
  ((∀ c ∈ plan, (assoc? l.palettes (physCore s c)).isSome = true) → ∃ t, exec .workgroupPlace s = .next t ∧ started t)
  ∧ (∀ pc, plan ≠ [] → (∀ c ∈ plan, physCore s c = pc) → assoc? l.palettes pc = none →
      let read := unitRead s l.part (pc / 9) (classOf l) (palGone l pc) true (l.kimg.toNat + l.paloff) l.pallen
      (∀ bs s1, read = (.bytes bs, s1) → ∃ t l' m, exec .workgroupPlace s = .next t ∧ started t ∧ findLaunch t l.id = some l' ∧ assoc? l'.palettes pc = some m
        ∧ ∀ (i : Nat) (y : Byte × Bool), bs[i]? = some y → smGet m i (0, false) = y)
      ∧ (∀ va s1, read = (.fault va, s1) → ∃ t l', exec .workgroupPlace s = .next t ∧ t.wgs = s.wgs ∧ t.mem = s.mem ∧ findLaunch t l.id = some l'
        ∧ l'.waitPage = some (pageOf va) ∧ faultPending t l.part (pageOf va) = true))

/-- R138, R359, R361-R364: GROUP_END of a group that may end ends it, and with the last one the workgroup retires (here with no pin
to release); LAUNCH_RETIRE of a launch whose workgroups have all retired, with nothing of it outstanding, writes its completion
block, status and detail before CVAL, and the launch leaves its queue. A group of a failing launch does not end while an evacuation
has paused its core (R358).
Where the manual leaves a point open, the model's choices are those of log entries 32 (the TLB used), 33 (a CHECKED group's end), 71
and 122 (yield windows), 80 and 81. -/
def Obligations.GroupsAndLaunchesEnd : Prop := ∀ (s : State),
  (∀ w g l, findWg s s.arg.a = some w → w.groups[s.arg.b]? = some g → findLaunch s w.launch = some l → mayEnd w s.arg.b g = true →
    (l.fail.isSome = true → evacPaused s w.lcore = true → exec .groupEnd s = .next s)
    ∧ ((l.fail.isSome = true → evacPaused s w.lcore = false) → ((∃ k h, k ≠ s.arg.b ∧ w.groups[k]? = some h ∧ h.ended = false) →
      ∃ t g', exec .groupEnd s = .next t ∧ t = { s with wgs := t.wgs } ∧ findGrp t s.arg.a s.arg.b = some g' ∧ g' = { g with ended := true, active := false })
    ∧ ((∀ k h, k ≠ s.arg.b → w.groups[k]? = some h → h.ended = true) → l.waitPage = none → w.cwords = [] → w.wslots = [] →
      ∃ t v l', exec .groupEnd s = .next t ∧ t.mem = s.mem ∧ findWg t s.arg.a = some v ∧ v.retired = true ∧ v.chk = none ∧ wgEnded v = true
        ∧ findLaunch t w.launch = some l' ∧ l'.retired = l.retired + 1)))
  ∧ (∀ l p s1, findLaunch s s.arg.a = some l → allRetired s l = true → detached s l = false → l.waitPage = none → l.refused = [] →
    (∀ w ∈ s.wgs, w.launch = l.id → w.wslots = []) →
    translateFor s (unitDie s l.part) l.part l.caddr.toNat true = (some p, s1) → p.peer = none → stalledFor s1 (classOf l) p.pa = false → yieldRoom s1 (classOf l) [p.pa] = true →
    ∃ t, exec .launchRetire s = .next t ∧ findLaunch t l.id = none ∧ (∀ w ∈ t.wgs, w.launch ≠ l.id)
      ∧ memNat t p.pa 8 = l.cval.toNat ∧ memNat t (p.pa + 8) 4 = (statusOf l).1 % 2 ^ 32 ∧ memNat t (p.pa + 12) 4 = 0
      ∧ memNat t (p.pa + 16) 8 = (statusOf l).2 % 2 ^ 64 ∧ memNat t (p.pa + 24) 8 = 0
      ∧ ∀ a, ¬(p.pa ≤ a ∧ a < p.pa + 32) → memByte t a = memByte s a)

/-! ## The scheduler -/

/-- R37, R38, R111-R113, R139: CLAUSE_FETCH of a ready gang at a header reads the clause's words; ACTIVE_SET_EXCHANGE fills a free place of
a slot, or that of the group not ready which has stayed longest, with the group chosen by R112: of the ready pending groups the oldest
of age 256 clk or more, and without one the oldest of the lowest class number. SCHEDULER_ROTATE gives an aged group the place of the oldest active one; SLEEP_WAKE lets a
gang run at its wake time.
Where the manual leaves a point open, the model's choices are those of log entries 10, 19. -/
def Obligations.SchedulerEvents : Prop := ∀ (s : State),
  (∀ w g l pc h s1 ws s2, findWg s s.arg.a = some w → w.groups[s.arg.b]? = some g → findLaunch s w.launch = some l → g.active = true →
    quadReady s w g s.arg.c = true → fetchPc g s.arg.c = some pc → codeWord s w l pc = (some h, s1) → codeWords s1 w l (pc + 4) (hdrOf h).len = ((ws, none), s2) →
    hdrSub h ws = none → (∀ q, q < g.quads.length → (quadAt g q).replay = none) →
    ∃ t g', exec .clauseFetch s = .next t ∧ t.mem = s.mem ∧ findGrp t s.arg.a s.arg.b = some g' ∧ g' = { g with quads := g'.quads }
      ∧ ∀ q, q < g.quads.length → hasQuad (gangOf g s.arg.c) q = true → (quadAt g' q).clause = some (clauseOf pc h ws) ∧ (quadAt g' q).pc = (quadAt g q).pc)
  ∧ (let pend := (slotGroups s s.arg.a s.arg.b).filter (fun e => !e.2.2.active && groupReady s e.1 e.2.1)
     let age := fun (e : Workgroup × Nat × Group) => now s - e.2.2.since
     let first := fun (e : Workgroup × Nat × Group) => (e ∈ pend
       ∧ ((∃ p ∈ pend, 256 ≤ age p) → 256 ≤ age e ∧ ∀ p ∈ pend, 256 ≤ age p → e.2.2.since ≤ p.2.2.since)
       ∧ ((∀ p ∈ pend, age p < 256) → ∀ p ∈ pend, grpClass s e.1 ≤ grpClass s p.1 ∧ (grpClass s p.1 = grpClass s e.1 → e.2.2.since ≤ p.2.2.since)) : Prop)
     (pend = [] → exec .activeSetExchange s = .next s)
     ∧ (pend ≠ [] → ∃ e, chooseGroup s s.arg.a s.arg.b = some e ∧ first e))
  ∧ (∀ e o : Workgroup × Nat × Group, chooseGroup s s.arg.a s.arg.b = some e →
    let act := (slotGroups s s.arg.a s.arg.b).filter (fun e => e.2.2.active)
    8 ≤ act.length → oldest (act.filter (fun e => !groupReady s e.1 e.2.1)) = some o → (e.1.id, e.2.1) ≠ (o.1.id, o.2.1) →
    ∃ t, exec .activeSetExchange s = .next t ∧ t = { s with wgs := t.wgs }
      ∧ findGrp t e.1.id e.2.1 = (findGrp s e.1.id e.2.1).map (fun g => { g with active := true, since := now s })
      ∧ findGrp t o.1.id o.2.1 = (findGrp s o.1.id o.2.1).map (fun g => { g with active := false, since := now s }))
  ∧ (∀ e : Workgroup × Nat × Group, chooseGroup s s.arg.a s.arg.b = some e → ((slotGroups s s.arg.a s.arg.b).filter (fun e => e.2.2.active)).length < 8 →
    ∃ t, exec .activeSetExchange s = .next t ∧ t = { s with wgs := t.wgs } ∧ findGrp t e.1.id e.2.1
      = (findGrp s e.1.id e.2.1).map (fun g => { g with active := true, since := now s }))
  ∧ (let all := slotGroups s s.arg.a s.arg.b
     let act := all.filter (fun e => e.2.2.active)
     ∀ e o : Workgroup × Nat × Group, oldest (all.filter (fun e => !e.2.2.active && groupReady s e.1 e.2.1 && decide (256 ≤ now s - e.2.2.since))) = some e →
       oldest act = some o → act.length = 8 → act.any (fun e => !groupReady s e.1 e.2.1) = false → (e.1.id, e.2.1) ≠ (o.1.id, o.2.1) →
       ∃ t, exec .schedulerRotate s = .next t ∧ t = { s with wgs := t.wgs }
         ∧ findGrp t e.1.id e.2.1 = (findGrp s e.1.id e.2.1).map (fun g => { g with active := true, since := now s })
         ∧ findGrp t o.1.id o.2.1 = (findGrp s o.1.id o.2.1).map (fun g => { g with active := false, since := now s }))
  ∧ (∀ g wake, findGrp s s.arg.a s.arg.b = some g → (quadAt g s.arg.c).st = .parked → (quadAt g s.arg.c).park = .sleep wake → wake ≤ now s →
    ∃ t d, exec .sleepWake s = .next t ∧ t = { s with wgs := t.wgs } ∧ findGrp t s.arg.a s.arg.b = some (settle d) ∧ d = { g with quads := d.quads }
      ∧ ∀ q, q < g.quads.length → hasQuad (gangOf g s.arg.c) q = true → (quadAt d q).st = .running ∧ (quadAt d q).pc = (quadAt g q).pc)

/-! ## Frame calls -/

/-- R268, R271-R274: the frame and rod words of a running call: lane arithmetic, masks, sums and rows of the rods of BMASK; loads and
stores of the page's columns; the flow words; IRED, XRED and FILL. A word with a nonzero unused field, a T, condition, register or
target that it may not have, no row open, or no WPAGE for a write, ends the call with BAD_CODE; one whose row, length, offset or
sources lie outside R271's and R274's bounds ends it OUT_OF_RANGE.
A word whose own accesses stall waits at its place.
Where the manual leaves a point open, the model's choices are those of log entries 19 (a peer's AUX), 64 (DST written in the word's own
step), 65 and 126 (which sources of XRED are out of range), 66 to 70, 99 (what the call waits for), 109, 110 and 124 (AUX at a lost
peer). -/
def Obligations.RodWords : Prop := ∀ (s : State) (c : Call) (w : FmtR),
  let A := fun (r : Rod) (l : Nat) => rvGet r w.a.toNat l
  let B := fun (r : Rod) (l : Nat) => rvGet r w.b.toNat l
  let M := fun (r : Rod) => rmGet r w.m.toNat
  let d := w.d.toNat
  let vec := fun (o : Host.Outcome State Fault Refusal) (f : Rod → Nat → BitVec 16 × Bool) => RodsAct s c false o (fun _ r r' => VecWrites r r' (M r) d (f r))
  let mask := fun (o : Host.Outcome State Fault Refusal) (f : Rod → LMask) => RodsAct s c false o (fun _ r r' => MaskWrites r r' (d % 4) (f r))
  (w.t ≠ 3 →
    (RodFree s c (.radd w) → vec (exec (.radd w) s) (fun r l => (rodAdd w.t (A r l).1 (B r l).1, (A r l).2 || (B r l).2)))
    ∧ (RodFree s c (.rmul w) → vec (exec (.rmul w) s) (fun r l => (rodMul w.t (A r l).1 (B r l).1, (A r l).2 || (B r l).2)))
    ∧ (RodFree s c (.rscl w) → vec (exec (.rscl w) s) (fun r l => (rodScl w.t (A r l).1 (fpReg c w.b.toNat), (A r l).2)))
    ∧ (RodFree s c (.rmac w) → RodsAct s c false (exec (.rmac w) s) (fun _ r r' => AccWrites r r' (M r) (d % 2) (fun l =>
        { val := rodMac w.t (A r l).1 (B r l).1 (raGet r (d % 2) l).val, poison := (A r l).2 || (B r l).2 || (raGet r (d % 2) l).poison })))
    ∧ (RodFree s c (.rcmp w) → w.imm.toNat % 8 ≤ 5 → d % 4 ≠ 0 → RodsAct s c false (exec (.rcmp w) s) (fun _ r r' =>
        ∃ v, MaskWrites r r' (d % 4) v ∧ ∀ l, l < 16 →
          hasLane v l = if hasLane (M r) l then rodCond w.t (w.imm.toNat % 8) (A r l).1 (B r l).1 else hasLane (rmGet r (d % 4)) l))
    ∧ (RodFree s c (.rsum w) → RodsAct s c false (exec (.rsum w) s) (fun _ r r' =>
        let k := w.a.toNat % 2
        let out := fun (x : Slot) => (rodRound w.t (fDecode 10 x.val.toNat), x.poison)
        r' = { r with rv := r'.rv, ra := r'.ra }
        ∧ (w.imm.getLsbD 0 = false → ∀ n l, l < 16 → rvGet r' n l = if n = d ∧ hasLane (M r) l = true then out (raGet r k l) else rvGet r n l)
        ∧ (w.imm.getLsbD 0 = true → ∀ n l, l < 16 → rvGet r' n l = if n = d ∧ M r ≠ 0 ∧ l = 0 then out (rodSum r k (M r))
            else if n = d ∧ hasLane (M r) l = true then (0, false) else rvGet r n l)
        ∧ ∀ n l, l < 16 → raGet r' n l = if w.imm.getLsbD 1 = true ∧ n = k ∧ hasLane (M r) l = true then slot0 else raGet r n l)))
  ∧ (RodFree s c (.rsel w) → vec (exec (.rsel w) s) (fun r l =>
      (if hasLane (rmGet r (w.imm.toNat % 4)) l then (A r l).1 else (B r l).1, (A r l).2 || (B r l).2)))
  ∧ (d % 4 ≠ 0 →
    (RodFree s c (.rmskAnd w) → mask (exec (.rmskAnd w) s) (fun r => rmGet r (w.a.toNat % 4) &&& rmGet r (w.b.toNat % 4)))
    ∧ (RodFree s c (.rmskOr w) → mask (exec (.rmskOr w) s) (fun r => rmGet r (w.a.toNat % 4) ||| rmGet r (w.b.toNat % 4)))
    ∧ (RodFree s c (.rmskAndn w) → mask (exec (.rmskAndn w) s) (fun r => rmGet r (w.a.toNat % 4) &&& ~~~(rmGet r (w.b.toNat % 4))))
    ∧ (RodFree s c (.rmskLd w) → mask (exec (.rmskLd w) s) (fun _ => BitVec.ofNat 16 (fpReg c w.a.toNat).toNat)))
  ∧ (RodFree s c (.ract w) →
      let row := wrapNat 32 (((fpReg c w.a.toNat).toNat : Int) + toSigned 14 w.imm.toNat)
      (row < 128 → ractStalled s c row = true → exec (.ract w) s = .next (callWaits s c.id []))
      ∧ (row < 128 → (∀ b, b < 16 → hasLane c.bmask b = true → windowPa s (colPa c row b 0) = false) →
        RodsAct s c true (exec (.ract w) s) (fun _ r r' => r' = { r with row := some row }))
      ∧ (128 ≤ row → CallStops s c (exec (.ract w) s) 6 c.fpc))
  ∧ (w.t ≠ 3 → strayH w = false → noRow c = false → rowStalled s c (rodCol c w) = false →
    (RodFree s c (.rldv w) → RodsAct { s with freeCtr := s.freeCtr + 256 } c false (exec (.rldv w) s) (fun b r r' =>
        r' = { r with rv := r'.rv } ∧ ∀ n l, l < 16 →
          (n = d ∧ hasLane (M r) l = true →
            let bs := memRead s (laneAt c w b l).1 (laneAt c w b l).2
            (rvGet r' n l).2 = anyBad bs
            ∧ (anyBad bs = false → let v := memNat s (laneAt c w b l).1 (laneAt c w b l).2
                (rvGet r' n l).1 = if isI8 w.t then BitVec.ofInt 16 (toSigned 8 v) else BitVec.ofNat 16 v))
          ∧ (¬(n = d ∧ hasLane (M r) l = true) → rvGet r' n l = rvGet r n l)))
    ∧ (RodFree s c (.rwr w) → c.wpage = true →
        let puts := fun (b l : Nat) => b < 16 ∧ l < 16 ∧ hasLane c.bmask b = true ∧ hasLane (M (c.rods.getD b rod0)) l = true
        ∃ t, exec (.rwr w) s = .next t
          ∧ RodStores s t c (fun p => ∃ b l, puts b l ∧ (laneAt c w b l).1 ≤ p ∧ p < (laneAt c w b l).1 + (laneAt c w b l).2)
          ∧ ∀ b l, puts b l → memNat t (laneAt c w b l).1 (laneAt c w b l).2
              = (rvGet (c.rods.getD b rod0) d l).1.toNat % 2 ^ (8 * (laneAt c w b l).2)))
  ∧ (w.t ≠ 3 → strayH w = false → noRow c = false → rowStalled s c (rodCol c w) = true →
    (RodFree s c (.rldv w) → exec (.rldv w) s = .next (callWaits s c.id []))
    ∧ (RodFree s c (.rwr w) → c.wpage = true → exec (.rwr w) s = .next (callWaits s c.id [])))
  ∧ (badTarget c w = false →
    (RodFree s c (.rskp w) →
      (¬(c.sparse = true ∧ c.stream.st = .opened) → ∃ t, exec (.rskp w) s = .next t ∧ CallStep s t c (stepped c (w.imm.toNat % 256) false))
      ∧ (∀ st d, c.sparse = true → c.stream.st = .opened → auxStalled c (callStalls s c) = false → streamStep s c false = .error (st, d) →
          CallStops s c (exec (.rskp w) s) st d)
      ∧ (∀ q, c.sparse = true → c.stream.st = .opened → auxStalled c (callStalls s c) = false → streamStep s c false = .ok q →
          ∃ t c', exec (.rskp w) s = .next t ∧ CallStep s t c c' ∧ c' = { stepped c (c.fpc + 1) false with stream := q, fp := c'.fp }
            ∧ ∀ n v, c.fp[n]? = some v → c'.fp[n]? = some (if n = d then c.stream.pos else v)))
    ∧ (RodFree s c (.rloop w) →
        let fp1 := modifyAt c.fp w.a.toNat (fun v => v - 1)
        let fp2 := if w.imm.getLsbD 8 then modifyAt fp1 d (fun v => v + 1) else fp1
        ∃ t, exec (.rloop w) s = .next t
          ∧ CallStep s t c { stepped c (if fp2.getD w.a.toNat 0 ≠ 0 then w.imm.toNat % 256 else c.fpc + 1) false with fp := fp2 }))
  ∧ (RodFree s c (.rend w) → CallStops s c (exec (.rend w) s) 0 0)
  ∧ (RodFree s c (.ired w) → w.t ≠ 3 →
      let len := 32 * (fpReg c w.a.toNat).toNat
      let step := (fpReg c w.b.toNat).toNat
      let n := c.auxlen / 4
      let out := sumVectors w.t (w.imm.getLsbD 0) (elemsIn w.t len) ((List.range n).map (fun i => memRead s (c.pagePa + auxWord s c i * step) len))
      0 < len → len ≤ 1024 → (∀ i k, i < n → k < 4 → (auxByte s c (4 * i + k)).2 = false) →
      auxGone s c = false → auxStalled c (callStalls s c) = false →
      (∀ i, i < n → auxWord s c i * step + len ≤ 2 ^ 21 ∧ pageStalled s (c.pagePa + auxWord s c i * step) len = false) →
      dstStalled s c (callStalls s c) c.dstlen = false →
      (out.length ≤ c.dstlen → exec (.ired w) s = .next (reduced { s with freeCtr := s.freeCtr + n } c out))
      ∧ (c.dstlen < out.length → CallStops { s with freeCtr := s.freeCtr + n } c (exec (.ired w) s) 6 c.fpc))
  ∧ (RodFree s c (.xred w) → w.t ≠ 3 → xredOnly c.prog = true → auxGone s c = false →
      let n := (fpReg c w.a.toNat).toNat
      (xredSources s c n = none → CallStops s c (exec (.xred w) s) 6 c.fpc)
      ∧ ∀ srcs, xredSources s c n = some srcs → auxStalled c (callStalls s c) = false → dstStalled s c (callStalls s c) c.dstlen = false →
        (∀ e ∈ srcs, ∀ p ∈ e.2, rangeStalled (callStalls s c) p.1 p.2 = false) →
        let vs := srcs.map (fun e => (e.1, (xredRead s e.2).take n))
        let out := sumVectors w.t (w.imm.getLsbD 0) (elemsIn w.t n) (vs.map Prod.snd)
        (c.dstlen < out.length → CallStops s c (exec (.xred w) s) 6 c.fpc)
        ∧ (out.length ≤ c.dstlen → (∀ e ∈ vs, anyBad e.2 = false) → exec (.xred w) s = .next (reduced s c out))
        ∧ (out.length ≤ c.dstlen → ∀ e, vs.find? (fun e => anyBad e.2) = some e →
            exec (.xred w) s = .next (endCall (dstWrite s c.id c.dst.toNat out) c.id 2 e.1)))
  ∧ (RodFree s c (.fill w) → c.wpage = true →
      let n := (fpReg c w.b.toNat).toNat
      let o := (fpReg c d).toNat
      (n % 32 ≠ 0 ∨ o % 32 ≠ 0 ∨ 2 ^ 21 < o + n → CallStops s c (exec (.fill w) s) 6 c.fpc)
      ∧ (n % 32 = 0 → o % 32 = 0 → o + n ≤ 2 ^ 21 → pageStalled s (c.pagePa + o) n = true → exec (.fill w) s = .next (callWaits s c.id []))
      ∧ (n % 32 = 0 → o % 32 = 0 → o + n ≤ 2 ^ 21 → pageStalled s (c.pagePa + o) n = false →
        ∃ t, exec (.fill w) s = .next t ∧ RodStores s t c (fun p => c.pagePa + o ≤ p ∧ p < c.pagePa + o + n)
          ∧ ∀ k, k < n / 4 → memNat t (c.pagePa + o + 4 * k) 4 = (fpReg c w.a.toNat).toNat))
  ∧ (let stops := fun (i : Instr) (status : Nat) => RodFree s c i → CallStops s c (exec i s) status c.fpc
     (w.t = 3 → ∀ i ∈ [Instr.radd w, .rmul w, .rscl w, .rmac w, .rcmp w, .rsum w, .rldv w, .rwr w, .ired w, .xred w], stops i 5)
     ∧ (5 < w.imm.toNat % 8 ∨ d % 4 = 0 → stops (.rcmp w) 5)
     ∧ (d % 4 = 0 → ∀ i ∈ [Instr.rmskAnd w, .rmskOr w, .rmskAndn w, .rmskLd w], stops i 5)
     ∧ (strayH w = true ∨ noRow c = true → stops (.rldv w) 5 ∧ stops (.rwr w) 5)
     ∧ (c.wpage = false → stops (.rwr w) 5 ∧ stops (.fill w) 5)
     ∧ (badTarget c w = true → stops (.rskp w) 5 ∧ stops (.rloop w) 5)
     ∧ (xredOnly c.prog = false → stops (.xred w) 5)
     ∧ (w.t ≠ 3 → (fpReg c w.a.toNat).toNat = 0 ∨ 32 < (fpReg c w.a.toNat).toNat → stops (.ired w) 6))
  ∧ (∀ i ∈ [Instr.radd w, .rmul w, .rscl w, .rmac w, .rcmp w, .rsel w, .rmskAnd w, .rmskOr w, .rmskAndn w, .rmskLd w, .rsum w, .ract w, .rldv w, .rwr w,
        .rskp w, .rloop w, .rend w, .ired w, .xred w, .fill w],
      rodUnused i = true → s.curCall.bind (findCall s) = some c → CallStops s c (exec i s) 5 c.fpc)

/-- R276-R278, R272, R274, R282, R283: a call that is being accepted reads its block and, once its locks have room, joins the queue of
its page's frame when that has room, or ends with the status of the check that fails; its AUX lies where its pages translate to then,
and a call of XRED alone needs no page. CALL_END, with no write of the call waiting in the frame, writes the status, raises the lane's
bit and drops the call's locks; a call that runs too long, or whose XRED source stays silent, ends with a time-out, the latter with
its DST poisoned; rods stop at a yield point, and go on when their window is over.
Where the manual leaves a point open, the model's choices are those of log entries 19, 60 to 63, 64 (when DST is written), 65 and 126
(sources of XRED), 69 (CST over a poisoned sector), 71 and 99 (the end of a window, and what waits for it), 120 (malformed blocks), 122
and 144 (the operand log). -/
def Obligations.CallEvents : Prop := ∀ (s : State) (c : Call), findCall s s.arg.a = some c →
  let queue := fun (s : State) (k : Call) => (s.calls.filter (fun n => n.st == .queued && n.stack == k.stack && n.pch == k.pch)).length
  (c.st = .accepting → c.waitPage = none → prevBlocked s false c.wg c.grp c.after = false →
    ∀ b s1, readBlock c (performPrev s false c.wg c.grp c.after) 0 64 = (.bytes b none, s1) →
    let k := blockFields c b
    let fits := k.dst.toNat % 32 = 0 ∧ k.dstlen % 32 = 0 ∧ offIn c.brec c.off (64 + 4 * k.nw) = true
    (2 ^ 2 ≤ fieldAt b 0x28 4 ∨ k.nw = 0 ∨ 256 < k.nw → ∃ t, exec .mcallCallAccept s = .next t ∧ t = endCall s1 c.id 5 0)
    ∧ (fieldAt b 0x28 4 < 2 ^ 2 → 0 < k.nw → k.nw ≤ 256 → ¬fits → ∃ t, exec .mcallCallAccept s = .next t ∧ t = endCall s1 c.id 6 0)
    ∧ (fieldAt b 0x28 4 < 2 ^ 2 → 0 < k.nw → k.nw ≤ 256 → fits →
        c.refused.contains (pageOf k.page.toNat) = false ∨ k.page = 0 → (∀ v ∈ auxList k, c.refused.contains v = false) →
        ∀ p s2, readBlock k s1 64 (4 * k.nw) = (.bytes p none, s2) →
        let y := { k with prog := wordsOf p }
        let joins := fun (u : State) (z : Call) => ((
          (lockRoom u (callLocks u z) = false → exec .mcallCallAccept s = .next u)
          ∧ (lockRoom u (callLocks u z) = true → findCall u c.id = some c →
            ∃ t, exec .mcallCallAccept s = .next t ∧ t.mem = u.mem
              ∧ findCall t c.id = some { z with st := if queue u z < 32 then .queued else .locked, waits := if queue u z < 32 then [] else c.waits }
              ∧ (k.page ≠ 0 → Locked t c.id k.wpage (.global c.part) k.page.toNat (k.page.toNat + 2 ^ 21 - 1))
              ∧ (k.auxlen ≠ 0 → Locked t c.id false (.global c.part) k.aux.toNat (k.aux.toNat + k.auxlen - 1))
              ∧ (k.dstlen ≠ 0 → Locked t c.id true (.global c.part) k.dst.toNat (k.dst.toNat + k.dstlen - 1)))) : Prop)
        let fails := fun (u : State) => ((findCall u c.id = some c →
          ∃ t c', exec .mcallCallAccept s = .next t ∧ t.mem = u.mem ∧ findCall t c.id = some c' ∧ c'.st = .ending ∧ c'.status = 4) : Prop)
        (k.page ≠ 0 → ∀ q s3 l s4, translateFor s2 c.die c.part k.page.toNat k.wpage = (some q, s3) → auxPages y s3 (auxList k) = (.pages l, s4) →
          let near := k.page.toNat % 2 ^ 21 = 0 ∧ q.peer = none ∧ q.big = true ∧ isNb s4 (unitOf q.pa) = true
          (near → joins s4 { y with pagePa := q.pa, stack := (placeOf s4 q.pa).stack, pch := (placeOf s4 q.pa).pch, auxPa := l })
          ∧ (¬near → fails s4))
        ∧ (k.page = 0 → ∀ l s4, auxPages y s2 (auxList k) = (.pages l, s4) →
          (xredOnly y.prog = true → joins s4 { y with auxPa := l }) ∧ (xredOnly y.prog = false → fails s4))))
  ∧ (c.st = .locked → (queue s c < 32 → ∃ t, exec .mcallCallAccept s = .next t ∧ t = { s with calls := t.calls }
        ∧ findCall t c.id = some { c with st := .queued, waits := [] })
      ∧ (32 ≤ queue s c → exec .mcallCallAccept s = .next s))
  ∧ (c.st = .ending → c.pend ≠ [] → exec .callEnd s = .next s)
  ∧ (c.st = .ending → c.waitPage = none → c.pend = [] → (∀ k ∈ s.calls, k.id = c.id → k = c) →
    let gone := fun (t : State) => (∀ k ∈ t.locks, k.owner ≠ c.id) ∧ (c.logged = [] → findCall t c.id = none)
      ∧ ∀ g, findGrp s c.wg c.grp = some g → ∃ h, findGrp t c.wg c.grp = some h ∧ hasLane (getJ h c.j) c.lane = true
        ∧ (∀ n, n ≠ c.j → getJ h n = getJ g n) ∧ h = { g with j := h.j }
    (c.cstDone = true → c.lane < 16 → ∃ t, exec .callEnd s = .next t ∧ t.mem = s.mem ∧ gone t)
    ∧ (c.cstDone = false → c.lane < 16 →
        let status := if c.status = 0 ∧ c.logged ≠ [] then 1 else c.status
        (c.refused.contains (pageOf (blockVa c 0)) = false →
          (∀ p k, (translateFor s c.die c.part (blockVa c 0) true).1 = some p → p.peer = some k → peerGone s c.part k = false) →
          (cstStalls s c ≠ [] → exec .callEnd s = .next (callWaits s c.id (cstStalls s c)))
          ∧ ∀ s1, cstStalls s c = [] → writeCst s c status = some s1 → ∃ t, exec .callEnd s = .next t ∧ t.mem = s1.mem ∧ gone t)
        ∧ (∀ pa, (∀ j, j < 4 → ∃ p, tlbFind s c.die c.part (blockVa c j) = some p ∧ p.peer = none ∧ p.wr = true ∧ p.pa = pa + j) →
          (∀ j, j < 4 → callStalls s c (pa + j) = false ∧ yieldRoom s (launchClass s c.launch) [pa + j] = true) →
          ∃ t, exec .callEnd s = .next t ∧ memNat t pa 4 = (status + 256 * c.detail) % 2 ^ 32 ∧ gone t
            ∧ ∀ a, ¬(pa ≤ a ∧ a < pa + 4) → memByte t a = memByte s a)))
  ∧ (c.st = .running → 175000000 < now s - c.started - c.uncounted → CallStops s c (exec .callTimeout s) 3 c.stack)
  ∧ (∀ v w, c.st = .running → xredOnly c.prog = true → c.fpc = 0 → 175000 < now s - c.started - c.uncounted → c.prog[0]? = some v → decodeRod v = some (.xred w) →
    (∃ l, xredSources s c (fpReg c w.a.toNat).toNat = some l ∧ ∃ e ∈ l, e.1 = s.arg.b) →
    ∃ bs, bs.length = c.dstlen ∧ (∀ e ∈ bs, e.2 = true)
      ∧ exec .xredSourceTimeout s = .next (endCall (dstWrite { s with freeCtr := s.freeCtr + c.dstlen } c.id c.dst.toNat bs) c.id 3 s.arg.b))
  ∧ (c.st = .running → atYield c = true → c.yld = none → ∃ t, exec .rodYield s = .next t ∧ CallStep s t c { c with yld := some (0, now s) })
  ∧ (∀ y, c.yld = some y → yieldWaiters s c = false ∨ (yieldLimit s y = true ∧ rodWaiters s c (· == 0) = false) →
    ∃ t, exec .yieldWindowLimit s = .next t ∧ CallStep s t c { c with yld := none, passed := if wordPoint c = true ∧ c.passed = 0 then 1 else 2 })

/-! ## Prediction, faults and replays -/

/-- R123, R124: when the predicates of a predicted BR are available, each quad of its gang keeps the lanes that were right: with none right
it goes to the other side with all its lanes; where they all run, it goes on; lanes that belong on the side and were not run replay it.
The lanes of the other side wait in a LANE entry for it, and quads that truly part where the prediction kept them together push the
GANG entry of R117 under it (log 128); what the squashed lanes wrote to vector registers and predicates holds its old
value again. R45, R123: what %actm is stands only once every branch has resolved, so a word of a gang that holds predicted lanes, or
lanes that others are to join, and that reads it stops its side, and nothing is written; of these words MOV is stated.
Where the manual leaves a point open, the model's choices are those of log entries 121 (where replaying lanes join) and 128 (the GANG
entry). -/
def Obligations.PredictionsResolve : Prop :=
  (∀ (s : State) (x : Ctx) (w : FmtA), Issues s w.g x → predicted x = true → w.a.code = 0xFB →
    ∃ t d, exec (.mov w) s = .next t ∧ GroupStep s t x d ∧ d = { x.g with quads := d.quads } ∧ d.quads.length = x.g.quads.length
      ∧ ∀ q, q < x.g.quads.length → quadAt d q = if hasQuad x.c.quads q = true
          then { stopRun (quadAt x.g q) with pred := (quadAt x.g q).pred.map (fun p => { p with stopped := true }) } else quadAt x.g q)
  ∧ ∀ (s : State) (w : Workgroup) (g : Group) (p : Pred), findWg s s.arg.a = some w →
  w.groups[s.arg.b]? = some g → (quadAt g s.arg.c).pred = some p →
  ∃ t d, exec .branchResolve s = .next t ∧ t = { s with wgs := t.wgs, cores := t.cores } ∧ findGrp t s.arg.a s.arg.b = some (settle d)
    ∧ d.quads.length = g.quads.length
    ∧ (∀ q, q < g.quads.length → (∀ k, (quadAt g q).pred = some k → ¬(hasQuad p.gang q = true ∧ q < 4 ∧ k.brPc = p.brPc ∧ k.gang = p.gang)) →
        quadAt d q = quadAt g q)
    ∧ ∀ q k, q < g.quads.length → (quadAt g q).pred = some k → hasQuad p.gang q = true → q < 4 → k.brPc = p.brPc → k.gang = p.gang →
        let a := quadAt g q
        let z := quadAt d q
        let r := k.lanes &&& a.live
        let good := r &&& (if k.onTarget then k.truth else ~~~k.truth)
        let pend := r &&& ~~~good
        let other := if k.onTarget then k.fall else k.tgt
        let ownLane : Bool := match a.stack with | e :: _ => e.spec && e.kind == .lane | [] => false
        let clear := lateGang p g ++ (if ownLane then a.stack.tail else a.stack).map (fun e => { e with spec := false })
        let top := match a.stack with
          | e :: _ => if ownLane then { e with spec := false, pmask := pend, ppc := other } else laneEntry k.rj other pend k.lanes false none
          | [] => laneEntry k.rj other pend k.lanes false none
        let lost := fun (l : Nat) => hasLane (quadLift (a.run &&& ~~~good) q) l = true
        z.pred = none ∧ z.live = a.live ∧ z.stack = (if good = 0 ∨ pend = 0 then clear else top :: clear)
        ∧ (∀ (i n l : Nat) (old : Slot), k.undo[i]? = some (.v n l old) → lost l → (∀ (j : Nat) (e : Slot), i < j → k.undo[j]? ≠ some (.v n l e)) → getV d n l = old)
        ∧ (∀ (i n l : Nat) (old : Bool), k.undo[i]? = some (.p n l old) → lost l → l < 16 → n < 7 → (∀ (j : Nat) (e : Bool), i < j → k.undo[j]? ≠ some (.p n l e)) → getP d n l = old)
        ∧ (∀ n l, l < 16 → l / 4 = q → (∀ e, lost l → UndoKey.v n l e ∉ k.undo) → getV d n l = getV g n l)
        ∧ (good = 0 → z.run = r ∧ z.pc = (if k.onTarget then k.fall else k.tgt) ∧ z.clause = none)
        ∧ (good ≠ 0 → a.run &&& good = 0 → z.run = good ∧ z.pc = (if k.onTarget then k.tgt else k.fall) ∧ z.clause = none)
        ∧ (good ≠ 0 → a.run = good → z.run = good ∧ z.pc = a.pc ∧ z.clause = a.clause ∧ z.replay = a.replay)
        ∧ (a.run &&& good ≠ 0 → k.issued = 0 → z.run = good ∧ z.pc = a.pc ∧ z.clause = a.clause ∧ z.replay = a.replay)
        ∧ (a.run &&& good ≠ 0 → good &&& ~~~a.run ≠ 0 → k.issued ≠ 0 → z.run = a.run &&& good ∧ ∃ y, z.replay = some y ∧ y.lanes = good &&& ~~~a.run
            ∧ y.pc = (if k.onTarget then k.tgt else k.fall) ∧ y.left = k.issued)

/-- R131, R194, R196, R318, R329: a FAULT reply answers everything of its partition that waits for the page; a refused fault is taken as
PAGE_FAULT at the group's word boundary, or, where a pending lane word issued before it traps, stands behind that trap (R314); a shootdown drops the entries of its range on every die and is answered once nothing uses
them; the replay queue's oldest entry is compared, and a mismatch rolls its interval back; an interval of 8,192 clk is cut.
Where the manual leaves a point open, the model's choices are those of log entries 9 (the TLB), 20 (lane masks), 50 (one trap for the
refusals of a word), 97 (the shootdown's reply) and 140 (what else traps stands). -/
def Obligations.FaultAndCheckEvents : Prop := ∀ (s : State),
  (let b := s.arg.msg.bytes
   let part := fieldAt b 1 1
   let formed := b.length = 16 ∧ fieldAt b 0 1 = 0x52 ∧ s.arg.msg.cls = 0 ∧ fieldAt b 4 1 ≤ 1 ∧ fieldAt b 5 11 = 0
   (¬formed → exec .faultReply s = .next s)
   ∧ (formed → (∀ f ∈ s.faults, ¬(f.part = part ∧ f.seq.toNat = fieldAt b 2 2)) → exec .faultReply s = .next s)
   ∧ (formed → ∀ f, s.faults.find? (fun f => f.part == part && f.seq.toNat == fieldAt b 2 2) = some f →
      ∃ t, exec .faultReply s = .next t ∧ (∀ c ∈ t.copies, c.part = part → c.waitPage ≠ some f.page) ∧ (∀ c ∈ t.calls, c.part = part → c.waitPage ≠ some f.page)
        ∧ (∀ l ∈ t.launches, l.part = part → l.waitPage ≠ some f.page) ∧ (∀ e ∈ t.parts, e.1 = part → ∀ r ∈ e.2.reqs, r.waitPage ≠ some f.page)))
  ∧ (∀ w g l r (x : Ctx), findWg s s.arg.a = some w → w.groups[s.arg.b]? = some g → findLaunch s w.launch = some l → refusalOf g = some r → x.l = l →
      (∀ q ∈ g.quads, q.replay = none) → trapWaits g = false → wgHalted s w = false → w.place = .live → (∀ q, q < 4 → midWord g q = false) →
      hasHandler l = true → g.inHandler = false →
      let en := enablesOf l
      let ended := fun (g : Group) => (heldLaneWords en g).foldl (fun g o => endLaneWord en o g) g
      let g1 := keepRefused r.op { g with refusals := g.refusals.filter (fun k => !(k.op == r.op && k.copy == r.copy)) }
      let piece := (g.ops.find? (fun o => o.id == r.op)).bind (fun o => o.accs.find? (fun k => k.st == .refused && some k.lane == lowestLane r.lanes))
      let takes := fun (f : Trap → Prop) => ((∃ t h tr, exec .pageFaultTrap s = .next t ∧ t = { s with wgs := t.wgs } ∧ findGrp t s.arg.a s.arg.b = some h
        ∧ InHandler x tr h ∧ f tr) : Prop)
      (trapsFirst en g r.op = none → trapsFirst en g1 r.op = none → x.g = ended g1 → takes (fun tr =>
        tr.kind = .pageFault ∧ tr.sub = 0 ∧ tr.mask = r.lanes ∧ tr.pc = r.pc ∧ tr.info = (if r.write then 1 else 0) + (if r.copy then 2 else 0) ∧ tr.outs = []
        ∧ tr.addr = (match piece with | some k => k.va | none => r.va)))
      ∧ ∀ o, trapsFirst en g r.op = some o → x.g = ended g → takes (fun tr => tr = opTrap o (condLanes g en o.outs)))
  ∧ (let part := req s 1 1
     let lo := req s 8 8
     let n := req s 0x10 8
     linkUp s = true → s.arg.msg.bytes.length = 32 → req s 0 1 = 0x31 →
     (findPart s part = none → exec .shootdown s = .next (answer s 8 0))
     ∧ (∀ p, findPart s part = some p →
        (req s 4 4 ≠ 0 ∨ req s 0x18 8 ≠ 0 ∨ lo % 65536 ≠ 0 ∨ n % 65536 ≠ 0 ∨ n = 0 ∨ s.arg.msg.cls ≠ 0 → exec .shootdown s = .next (answer s 3 0))
        ∧ (req s 4 4 = 0 → req s 0x18 8 = 0 → lo % 65536 = 0 → n % 65536 = 0 → n ≠ 0 → s.arg.msg.cls = 0 →
          ∃ t, exec .shootdown s = .next t ∧ t = { s with dies := t.dies, shoots := t.shoots, outbox := t.outbox } ∧ t.dies.length = s.dies.length
            ∧ (∀ (i : Nat) (d : Die), s.dies[i]? = some d → ∃ d' : Die, t.dies[i]? = some d' ∧ ∀ e, e ∈ d'.tlb ↔ e ∈ d.tlb ∧ ¬(e.part = part ∧ e.va < lo + n ∧ lo < e.va + entrySpan e))
            ∧ (s.shoots = [] → shootHeld s { mark := s.nextId, part := part, seq := BitVec.ofNat 16 (req s 2 2), cls := 0, lo := lo, hi := lo + n } = false →
                t.shoots = [] ∧ t.outbox = s.outbox ++ [replyMsg 0 0x31 part (req s 2 2) 0 0]))))
  ∧ (∀ k e, s.cores[s.arg.a]? = some k → k.replayQ.head? = some e →
      let done := fun (t : State) => ∃ k', t = { s with cores := t.cores } ∧ t.cores[s.arg.a]? = some k' ∧ k' = { k with replayQ := k.replayQ.tail }
      let fails := fun (t : State) => ∃ v c, findWg t e.wg = some v ∧ v.chk = some c ∧ c.rerun = true ∧ c.buf = [] ∧ c.opened = now s
      (e.again = e.result → ∃ t, exec .replayExecute s = .next t ∧ done t)
      ∧ (e.again = e.result → 1500 ≤ now s - e.time → ∃ t, exec .replayQueueAgeLimit s = .next t ∧ done t)
      ∧ (e.again ≠ e.result → ∀ w c, findWg s e.wg = some w → w.chk = some c → c.rerun = false → c.snapPoison = false → c.logPoison = false →
          (∃ t, exec .replayExecute s = .next t ∧ fails t) ∧ (1500 ≤ now s - e.time → ∃ t, exec .replayQueueAgeLimit s = .next t ∧ fails t)))
  ∧ (∀ w c, findWg s s.arg.a = some w → w.chk = some c → 8192 ≤ now s - c.opened →
      ∃ t, exec .intervalTimeLimit s = .next t ∧ t = { s with wgs := t.wgs } ∧ (∀ id, id ≠ s.arg.a → findWg t id = findWg s id)
        ∧ findWg t s.arg.a = some { w with chk := some { c with cutDue := true } })

/-! ## Repair -/

/-- R31, R286-R289: a due repair takes a spare, enters the map, opens a window and leaves a MAP_UPDATE on its way; one that finds no
spare sets EXHAUSTED, and a row's bank is then due for remapping. A bank remap goes on piece by piece; a window's end frees its
stack. The answer to a MAP_UPDATE lets the reports it covers go, and RETIRED_LIST_READ returns four entries.
Where the manual leaves a point open, the model's choices are those of log entries 7 (the map), 22, 89, 91 and 127 (images in a retired
frame). -/
def Obligations.RepairEvents : Prop := ∀ (s : State),
  (∀ k r, dueNow s s.arg.a = some (k, r) →
    let u := repairUnit r
    let made := fun (t : State) (k' : StackSt) => t.mem = s.mem ∧ t.stks[s.arg.a]? = some k' ∧ k'.window = some r ∧ t.mapWait ≠ none
      ∧ ∀ i, i ≠ s.arg.a → t.stks[i]? = s.stks[i]?
    let spent := fun (t : State) (k' : StackSt) => t.mem = s.mem ∧ t.stks[s.arg.a]? = some k' ∧ k'.window = none ∧ k'.exhausted.getLsbD r.kind = true ∧ t.mapWait ≠ none
    (∀ w ∈ s.wgs, isSaved w = false) →
    (r = { kind := 0, pch := s.arg.b, bank := s.arg.c, row := s.arg.d } →
      (freeSpares k 0 u ≠ 0 → ∃ t k', exec .rowRepair s = .next t ∧ made t k' ∧ k'.rowMap = k.rowMap ++ [(u, r.row)]
        ∧ smGet k'.usedRows u 0 = smGet k.usedRows u 0 + 1)
      ∧ (freeSpares k 0 u = 0 → ∃ t k', exec .rowRepair s = .next t ∧ spent t k' ∧ { kind := 1, pch := r.pch, bank := r.bank, row := 0 } ∈ k'.due))
    ∧ (r = { kind := 1, pch := s.arg.b, bank := s.arg.c, row := 0 } →
      (freeSpares k 1 u ≠ 0 → ∃ t k', exec .bankRemap s = .next t ∧ made t k' ∧ k'.bankMap = k.bankMap ++ [r.pch * 16 + r.bank] ∧ k'.remap = some (r, 1, 0))
      ∧ (freeSpares k 1 u = 0 → ∃ t k', exec .bankRemap s = .next t ∧ spent t k' ∧ k'.due = k.due.tail))
    ∧ (r = { kind := 2, pch := s.arg.b, bank := 0, row := s.arg.c } →
      (freeSpares k 2 u ≠ 0 → ∃ t k', exec .tsvSwap s = .next t ∧ made t k' ∧ k'.tsvMap = k.tsvMap ++ [(r.pch, r.row)])
      ∧ (freeSpares k 2 u = 0 → ∃ t k', exec .tsvSwap s = .next t ∧ spent t k' ∧ k'.due = k.due.tail)))
  ∧ (∀ k, s.stks[s.arg.a]? = some k →
    (∀ r n t0, k.window = none → k.remap = some (r, n, t0) → n < 16384 → t0 + 10500 ≤ now s → repairHeld s s.arg.a r = false →
      ∃ t, exec .bankRemapPiece s = .next t ∧ t = { s with stks := t.stks, calls := t.calls }
        ∧ t.stks[s.arg.a]? = some { k with window := some { r with row := n }, remap := some (r, n + 1, t0) })
    ∧ (k.window ≠ none → ∃ t, exec .repairWindowEnd s = .next t ∧ t = { s with stks := t.stks } ∧ (∀ i, i ≠ s.arg.a → t.stks[i]? = s.stks[i]?)
      ∧ (k.remap = none → t.stks[s.arg.a]? = some { k with window := none })
      ∧ (∀ r n t0, k.remap = some (r, n, t0) → t.stks[s.arg.a]? = some { k with window := none, remap := if n < 16384 then some (r, n, now s) else none })))
  ∧ (∀ q, s.mapWait = some q → s.mapDirty = false →
      let b := s.arg.msg.bytes
      b.length = 16 → fieldAt b 0 1 = 8 → fieldAt b 1 1 = 0 → fieldAt b 2 2 = q.toNat → fieldAt b 4 4 = 0 → fieldAt b 8 8 = 0 →
      ∃ t, exec .mapUpdateReply s = .next t
        ∧ t = { s with mapWait := none, heldReports := s.heldReports.drop s.mapCovers, mapCovers := 0, outbox := s.outbox ++ s.heldReports.take s.mapCovers })
  ∧ (let b := s.arg.msg.bytes
     let part := fieldAt b 1 1
     let reply := fun (code : Nat) (rest : List Byte) => ∃ t, exec .retiredListRead s = .next t
       ∧ t = { s with outbox := s.outbox ++ [Msg.mk s.arg.msg.cls (natToBytes 1 0x42 ++ natToBytes 1 part ++ natToBytes 2 (fieldAt b 2 2) ++ natToBytes 4 code ++ rest)] }
     bootServes s = true → b.length = 32 → fieldAt b 0 1 = 0x41 →
     (findPart s part = none → reply 8 (natToBytes 88 0))
     ∧ (∀ p, findPart s part = some p →
        (fieldAt b 4 4 ≠ 0 ∨ fieldAt b 12 20 ≠ 0 ∨ s.arg.msg.cls ≠ 0 → reply 3 (natToBytes 88 0))
        ∧ (fieldAt b 4 4 = 0 → fieldAt b 12 20 = 0 → s.arg.msg.cls = 0 →
          reply 0 (natToBytes 4 (retCount s part) ++ natToBytes 20 0 ++ (List.range 4).flatMap (fun i => retBytes s part (fieldAt b 8 4 + i))))))

/-! ## Saves, restores and evacuation -/

/-- R95, R98, R320-R327: PREEMPT sets a launch's workgroup, and all that is saved with it, to be saved; SAVE_COMPLETE writes the image of one
that has come to rest into its partition's reserve; RESTORE brings a saved team back onto cores, its groups out of the active set.
Where the manual leaves a point open, the model's choices are those of log entries 16 (the choice of cores), 35 (parks that R325 gives
no kind), 83 (a gang parked at an LWAIT stands at its word again, to bind its launch anew), 84 (how RELOC counts), 86 (the reserve as
memory), 131 (locks that move) and 142 (images of failing launches). -/
def Obligations.SavesAndRestores : Prop := ∀ (s : State) (w : Workgroup) (l : Launch), findWg s s.arg.a = some w → findLaunch s w.launch = some l →
  (∀ v ∈ s.wgs, ∀ k ∈ s.wgs, v.id = k.id → v = k) →
  (l.st = .running → w.retired = false → (∀ v ∈ together s w l, v.place = .live ∧ ∀ e ∈ s.evacs, e.lcore = v.lcore → e.phase = .committed) →
    roomToSave s (together s w l) l = true → s.launches.any (fun h => victimFor s h w l) = true →
    ∃ t, exec .preempt s = .next t ∧ t = { s with wgs := t.wgs } ∧ ∀ v, v ∈ s.wgs →
      (v ∈ together s w l → findWg t v.id = some { v with place := .saving, chk := v.chk.map (fun c => { c with cutDue := true }) }) ∧ (v ∉ together s w l → findWg t v.id = some v))
  ∧ (w.place = .saving → w.retired = false → l.st = .running → saveReady w = true → w.chk = none → w.saveBad = [] →
    ∀ p a, findPart s l.part = some p → carve p (reserveTaken s l.part) (imageLen l) = some a → windowRun s a (imageLen l) = false →
    ∃ t v, exec .saveComplete s = .next t ∧ t = { s with wgs := t.wgs, mem := t.mem, memPoison := t.memPoison } ∧ findWg t w.id = some v
      ∧ v = { w with place := .saved a (imageLen l), savedPcore := coreOf s w, groups := w.groups.map (fun g => { g with active := false }) }
      ∧ (w.groups.length = groupsPer l → w.banks.length = l.cbanks → ∀ x, ¬(a ≤ x ∧ x < a + imageLen l) → memByte t x = memByte s x))
  ∧ (∀ a n c, w.place = .saved a n → w.retired = false → eligible s l = true → together s w l = [w] → lowestOut s w = true → windowRun s a n = false → runPoisoned s a n = false → w.chk = none →
    planStep s l s.arg.b [1] = some [c] → mayTake s l [c] = true →
    ∃ t v, exec .restore s = .next t ∧ t.mem = s.mem ∧ findWg t w.id = some v ∧ v.place = .live ∧ v.lcore = c ∧ v.win = w.win ∧ v.banks = w.banks
      ∧ v.reloc = (if c ≠ w.lcore ∨ physCore s c ≠ w.savedPcore then nextReloc w.reloc else w.reloc) ∧ v.groups.length = w.groups.length
      ∧ ∀ (k : Nat) (g : Group), w.groups[k]? = some g → ∃ h : Group, v.groups[k]? = some h
          ∧ h = { g with slot := h.slot, active := false, since := now s, quads := g.quads.map backToLwait, ctx := g.ctx.map backToLwait })

/-- R345-R354: MONITOR_PERIOD_END brings device time to the period's end; an event counts at the core in use that it strikes, and where the
count reaches the threshold the core is at once evacuated to the nearest free spare, or reported DEGRADED; the evacuation pauses the core, waits for what is under way, and moves the logical core, whose groups go on
on the spare unchanged, but that a gang parked at an LWAIT stands at that word again (log 83's choice: R350 and R351 keep it parked);
then the source leaves service.
Where the manual leaves a point open, the model's choices are those of log entries 45 (a CRD on its way), 78 (the crossing), 83 (the
LWAIT), 84 (how RELOC counts on), 130 (that the end of a period moves the clock to it) and 131 (locks that move). -/
def Obligations.CoresAreEvacuated : Prop := ∀ (s : State),
  (s.clk.toNat + 2 ^ 20 < 2 ^ 64 → ∃ t, exec .monitorPeriodEnd s = .next t ∧ t.clk.toNat = s.clk.toNat / 2 ^ 20 * 2 ^ 20 + 2 ^ 20 ∧ t.mem = s.mem ∧ t.launches = s.launches
    ∧ ∀ (i : Nat) (k : CoreSt), s.cores[i]? = some k → t.cores[i]? = some { k with mon := (0 :: k.mon).take 16 })
  ∧ (∀ c k, s.boot = .ready → coreInUse s c = true → s.cores[c]? = some k →
      let counted := { s with cores := modifyAt s.cores c (fun k => { k with mon := (k.mon.headD 0 + 1) :: k.mon.tail }) }
      ∀ lc p part, lcoreOf s c = some lc → corePart s lc = some (p, part) →
        (monCount s c + 1 < part.errthr → monEvent s c = counted) ∧ (s.arg.a = c → exec .thresholdCrossing counted = .next (monEvent s c)))
  ∧ (∀ lc p part, s.boot = .ready → lcoreOf s s.arg.a = some lc → corePart s lc = some (p, part) → part.errthr ≤ monCount s s.arg.a →
      s.evacs.any (fun e => e.lcore == lc && e.phase != .committed) = false → ∀ k, s.cores[s.arg.a]? = some k →
      ∃ t, exec .thresholdCrossing s = .next t ∧ t.cores[s.arg.a]? = some { k with mon := zeroMonitor } ∧ t.mem = s.mem ∧ t.wgs = s.wgs
        ∧ (∀ sp, chooseSpare s (s.arg.a / 9) = some sp → t.evacs = s.evacs ++ [{ lcore := lc, src := s.arg.a, dst := sp, phase := .prepare }] ∧ t.outbox = s.outbox)
        ∧ (chooseSpare s (s.arg.a / 9) = none → t.evacs = s.evacs ∧ t.outbox = s.outbox ++ [eventMsg p s.devSeq 5 0 lc 0 0]
            ∧ ∀ r, s.remap[lc]? = some r → t.remap[lc]? = some { r with degraded := true }))
  ∧ (∀ e, evacFrom s s.arg.a .prepare = some e →
      (∀ w ∈ wgsOn s e.lcore, w.place ≠ .saving ∧ (∀ g ∈ w.groups, grpInside g = false) ∧ w.chk = none) →
      ∃ t, exec .quiesce s = .next t ∧ t = { s with evacs := t.evacs } ∧ t.evacs = s.evacs.map (fun k => if k.src = e.src ∧ k.lcore = e.lcore then { k with phase := .paused } else k))
  ∧ (∀ e, evacFrom s s.arg.a .paused = some e →
      (∀ w ∈ wgsOn s e.lcore, (∀ g ∈ w.groups, speculative g = false ∧ grpInside g = false ∧ ∀ o ∈ g.ops, opBusy o = false) ∧ ∀ c ∈ w.cwords, isCrd c.kind = false) →
      ∃ t, exec .transfer s = .next t ∧ t = { s with evacs := t.evacs } ∧ t.evacs = s.evacs.map (fun k => if k.src = e.src ∧ k.lcore = e.lcore then { k with phase := .transferred } else k))
  ∧ (∀ e r, evacFrom s s.arg.a .transferred = some e → s.remap[e.lcore]? = some r → (∀ v ∈ s.wgs, ∀ k ∈ s.wgs, v.id = k.id → v = k) →
      (∀ w ∈ wgsOn s e.lcore, w.moveBad = false) →
      ∃ t, exec .commit s = .next t ∧ t.mem = s.mem
        ∧ t.remap[e.lcore]? = some { r with die := BitVec.ofNat 5 (e.dst / 9), pcore := BitVec.ofNat 4 (e.dst % 9), epoch := r.epoch + 1 }
        ∧ (∀ i, i ≠ e.lcore → t.remap[i]? = s.remap[i]?) ∧ t.outbox.length = s.outbox.length + 1
        ∧ (∀ w, w ∈ wgsOn s e.lcore → ∃ v, findWg t w.id = some v ∧ v.win = w.win ∧ v.banks = w.banks ∧ v.reloc = nextReloc w.reloc ∧ v.lcore = w.lcore
            ∧ v.groups.length = w.groups.length ∧ ∀ (k : Nat) (g : Group), w.groups[k]? = some g → ∃ h : Group, v.groups[k]? = some h
              ∧ h = { g with slot := h.slot, active := false, since := now s, quads := g.quads.map backToLwait, ctx := g.ctx.map backToLwait })
        ∧ ∀ w ∈ s.wgs, w ∉ wgsOn s e.lcore → findWg t w.id = some w)
  ∧ (∀ e k, evacFrom s s.arg.a .committed = some e → s.cores[e.src]? = some k →
      ∃ t, exec .sourceOutOfService s = .next t ∧ t = { s with evacs := s.evacs.filter (fun x => x != e), cores := t.cores }
        ∧ t.cores[e.src]? = some { k with oos := true, mon := zeroMonitor })

/-! ## Boot and management -/

/-- R18, R20-R24: POWER_GOOD starts the boot ROM; the steps to step 8 follow one another, each with its STATUS; a firmware image of a
length outside R22's range is turned away, and one that fails a check sends the device back to wait for an image; losing power loses
everything but the fuses.
Where the manual leaves a point open, the model's choices are those of log entries 3 (companion memory), 6, 7, 92, 93 and 95. -/
def Obligations.BootSteps : Prop := ∀ (s : State),
  (s.boot = .off → ∃ t, exec .powerGood s = .next t ∧ t = { s with boot := .rom, incarnation := t.incarnation, freeCtr := s.freeCtr + 1 } ∧ t.incarnation ≠ s.incarnation)
  ∧ (∀ o ∈ [exec .powerOff s, exec .thermalTrip s], ∃ t, o = .next t ∧ t.boot = .off ∧ t.mem = [] ∧ t.launches = [] ∧ t.wgs = [] ∧ t.copies = [] ∧ t.calls = []
      ∧ t.parts = State.reset.parts ∧ t.fuseMin = s.fuseMin ∧ t.compMem = s.compMem)
  ∧ (s.boot = .rom → exec .trestleLinkUp s = .next { s with boot := .waitImage, devSeq := s.devSeq + 1, outbox := s.outbox ++ [statusMsg s.devSeq 1 0 0 0] })
  ∧ (linkUp s = true → 105 ≤ s.arg.b →
      exec .thermalWarning s = .next { s with devSeq := s.devSeq + 1, outbox := s.outbox ++ [statusMsg s.devSeq 8 0 s.arg.a s.arg.b] })
  ∧ (s.boot = .waitImage → s.arg.msg.bytes.length = 32 → req s 0 1 = 1 → req s 1 1 = 0 → req s 4 4 = 0 → req s 8 8 % 64 = 0 → req s 0x18 8 = 0 → s.arg.msg.cls = 0 →
      let a := req s 8 8
      let n := req s 0x10 8
      (n < 17104 ∨ 16777216 < n → exec .imageLoad s = .next (answer s 3 0))
      ∧ (17104 ≤ n → n ≤ 16777216 → bytesToNat (compRead s (a + 8) 4) = n - 17104 →
          exec .imageLoad s = .next { s with boot := .imageRead, imgReq := some (BitVec.ofNat 16 (req s 2 2), a, n), sram := compRead s a n }))
  ∧ (∀ q a n, s.boot = .imageRead → s.imgReq = some (q, a, n) →
      let reply := fun (code value : Nat) => replyMsg 0 1 0 q.toNat code value
      let failed := fun (c : Nat) => ∃ t, exec .imageComplete s = .next t
        ∧ t = { s with boot := .waitImage, imgReq := none, sram := [], devSeq := s.devSeq + 2, outbox := s.outbox ++ [reply 12 c, statusMsg s.devSeq 2 c 0 0, statusMsg (s.devSeq + 1) 1 0 0 0] }
      (s.arg.ok = false → failed 0)
      ∧ (s.arg.ok = true → ∀ c, imageCheck s.fuseMin s.sram = some c → failed c)
      ∧ (s.arg.ok = true → imageCheck s.fuseMin s.sram = none →
          ∃ t, exec .imageComplete s = .next t ∧ t = { s with boot := .dies, imgReq := none, fwImage := s.sram, fwVersion := t.fwVersion, spares := t.spares, remap := t.remap, outbox := s.outbox ++ [reply 0 0] }
            ∧ t.fwVersion = wordOf (fieldAt s.sram 4 4) ∧ t.remap.length = 256 ∧ t.spares.length = 32
            ∧ ∀ k, k < 256 → ∃ r, t.remap[k]? = some r ∧ r.die.toNat = k / 8 ∧ r.pcore.toNat < 9 ∧ r.epoch = 0 ∧ r.degraded = false
              ∧ ∀ d, t.spares[k / 8]? = some d → r.pcore ≠ d))
  ∧ (s.boot = .dies → exec .diesUp s = .next { s with boot := .stks })
  ∧ (s.boot = .stks → (s.arg.opt = none → exec .stacksTrained s = .next { s with boot := .memory })
      ∧ (∀ k, s.arg.opt = some k → exec .stacksTrained s
          = .next { s with boot := .stackFailed, devSeq := s.devSeq + 1, outbox := s.outbox ++ [statusMsg s.devSeq 3 0 k 0] }))
  ∧ (s.boot = .memory → exec .memoryInitialised s
      = .next { s with boot := .waitMap, mem := [], memPoison := [], devSeq := s.devSeq + 1, outbox := s.outbox ++ [statusMsg s.devSeq 4 0 0 0] })

/-- R25-R28, R32-R34: the management requests of step 8: the map is restored or the device starts from factory repairs; a partition is
defined, or deleted, by its block, unless it is busy or the block is bad; the attestation report is written to companion memory; the
device names itself; the fuse rises only between its value and the running version; CONFIG_DONE makes the device READY. A request
outside its step is BAD_STATE.
Where the manual leaves a point open, the model's choices are those of log entries 3 (companion memory), 6 (identity keys), 7, 90
(SPARE_LOW), 92, 94, 113 (an IMAGE_LOAD while an image is read), 116 (BUSY before BAD_CONFIG, and the requests a redefined partition
keeps) and 132 (the cases that hold for a deletion block). -/
def Obligations.ManagementRequests : Prop := ∀ (s : State), linkUp s = true → s.arg.msg.bytes.length = 32 →
  (∀ e ∈ [(exec .imageLoad s, 1, s.boot == .waitImage), (exec .mapRestore s, 5, s.boot == .waitMap), (exec .attest s, 0xB, step8 s), (exec .deviceId s, 0xD, step8 s),
      (exec .fuseMin s, 0xF, step8 s), (exec .configDone s, 0x11, s.boot == .config), (exec .partDefine s, 9, step8 s)],
    req s 0 1 = e.2.1 → e.2.2 = false → e.1 = .next (answer s 11 0))
  ∧ (req s 4 4 = 0 → s.arg.msg.cls = 0 →
    (req s 1 1 = 0 →
      (req s 0 1 = 5 → s.boot = .waitMap → req s 8 8 % 64 = 0 → req s 0x18 8 % 64 = 0 → req s 0x10 8 ≤ 4194304 →
        let start := fun (u : State) (c : Nat) => sendStatus (sendStatus (answer { u with boot := .config, mapBuf := req s 0x18 8 } 13 c) 5 c 0 0) 6 0 0 0
        (req s 0x10 8 = 0 → exec .mapRestore s = .next (start s 1))
        ∧ (req s 0x10 8 ≠ 0 →
          (applyMap { s with boot := .config, mapBuf := req s 0x18 8 } (compRead s (req s 8 8) (req s 0x10 8)) = none → exec .mapRestore s = .next (start s 2))
          ∧ (∀ u, applyMap { s with boot := .config, mapBuf := req s 0x18 8 } (compRead s (req s 8 8) (req s 0x10 8)) = some u →
              exec .mapRestore s = .next (sendStatus (answer u 0 0) 6 0 0 0))))
      ∧ (req s 0 1 = 0xB → step8 s = true → req s 8 8 % 64 = 0 → req s 0x10 8 % 64 = 0 → req s 0x18 8 = 0 →
        ∃ t, exec .attest s = .next t ∧ t = { s with compMem := t.compMem, compPoison := t.compPoison, freeCtr := t.freeCtr, outbox := t.outbox }
          ∧ t.outbox = s.outbox ++ [replyMsg 0 0xB 0 (req s 2 2) 0 17144]
          ∧ compRead t (req s 0x10 8) 536 = reportBody s (compRead s (req s 8 8) 32)
          ∧ ∀ x, ¬(req s 0x10 8 ≤ x ∧ x < req s 0x10 8 + 17144) → smGet t.compMem x 0 = smGet s.compMem x 0)
      ∧ (req s 0 1 = 0xD → step8 s = true → req s 8 8 % 64 = 0 → req s 0x10 16 = 0 →
        ∃ t, exec .deviceId s = .next t ∧ t = { s with compMem := t.compMem, compPoison := t.compPoison, outbox := t.outbox }
          ∧ t.outbox = s.outbox ++ [replyMsg 0 0xD 0 (req s 2 2) 0 0]
          ∧ compRead t (req s 8 8) 512 = slice Config.deviceSerial 0 16 ++ identityRsaModulus ++ identitySlhKey ++ natToBytes 64 0)
      ∧ (req s 0 1 = 0xF → step8 s = true → req s 0xC 4 = 0 → req s 0x10 16 = 0 →
        (req s 8 4 < s.fuseMin.toNat ∨ s.fwVersion.toNat < req s 8 4 → exec .fuseMin s = .next (answer s 14 0))
        ∧ (s.fuseMin.toNat ≤ req s 8 4 → req s 8 4 ≤ s.fwVersion.toNat → exec .fuseMin s = .next (answer { s with fuseMin := wordOf (req s 8 4) } 0 0)))
      ∧ (req s 0 1 = 0x11 → s.boot = .config → req s 8 8 = 0 → req s 0x10 16 = 0 →
        (s.parts = [] → exec .configDone s = .next (answer s 14 0))
        ∧ (s.parts ≠ [] → s.mapWait = none → (∀ k ∈ s.stks, ∀ i, i < 3 → ∀ u ∈ lowUnits k i, (i, u) ∈ k.lowTold) →
            ∃ t, exec .configDone s = .next t ∧ t = sendStatus (answer { s with boot := .ready, cores := t.cores, dies := t.dies, remap := t.remap } 0 0) 7 0 0 0
              ∧ t.cores = s.cores.map (fun k => { CoreSt.fresh with oos := k.oos }) ∧ (∀ d ∈ t.dies, d.tlb = [])
              ∧ t.remap = s.remap.map (fun r => { r with epoch := 0 }))
        ∧ (s.parts ≠ [] → s.mapWait ≠ none →
            ∃ t, exec .configDone s = .next t ∧ t.boot = .ready ∧ t.outbox = (sendStatus (answer s 0 0) 7 0 0 0).outbox)))
    ∧ (req s 0 1 = 9 → step8 s = true → req s 1 1 < 8 → req s 8 8 % 64 = 0 → req s 0x10 16 = 0 →
      let p := req s 1 1
      let b := compRead s (req s 8 8) 512
      let x := partOf s b
      (partBusy s p = true → exec .partDefine s = .next (answer s 15 0))
      ∧ (partBusy s p = false → blockBad s p b = true → exec .partDefine s = .next (answer s 14 0))
      ∧ (partBusy s p = false → blockBad s p b = false →
        (∀ o q, findPart s p = some o → q ∈ o.reqs → ∃ seq cls, q.via = .message seq cls) →
        ∃ t, exec .partDefine s = .next t ∧ (∀ q, q ≠ p → findPart t q = findPart s q) ∧ t.boot = s.boot ∧ t.launches = s.launches ∧ t.wgs = s.wgs
          ∧ (x.dies = 0 → findPart t p = none ∧ t.mem = s.mem)
          ∧ (x.dies ≠ 0 → (∃ y, findPart t p = some y ∧ y = { x with ckpt := y.ckpt, reqs := y.reqs } ∧ ∀ o, findPart s p = some o → y.reqs = o.reqs ∧ y.ckpt = o.ckpt)
              ∧ (∀ a, (reserveUnits x).contains (a / 2 ^ 30) = true → memByte t a = 0)
              ∧ (Memory.wf s.mem = true → ∀ a, (reserveUnits x).contains (a / 2 ^ 30) = false → memByte t a = memByte s a)
              ∧ ∀ i r, s.remap[i]? = some r → t.remap[i]? = some (if x.dies.getLsbD (i / 8) then { r with part := BitVec.ofNat 3 p } else r)))))

/-! ## From outside -/

/-- R297, R298, R365-R368: the companion and peers read and write device memory where it answers; an atomic of a peer returns the old
bytes; a checkpoint stream copies its range into companion memory, sector by sector, and ends with its reply.
R365, R366: CHECKPOINT begins a stream of a partition that has none; CHECKPOINT_END moves what is left and answers: OK with the count of
poisoned sectors, or PAGE_FAULT with the address that does not translate.
Where the manual leaves a point open, the model's choices are those of log entries 3 (companion memory), 32 (the TLB used), 71 and 122
(yield windows), 96, 98 and 133 (device memory answers from step 7 on). -/
def Obligations.OutsideAccesses : Prop :=
  (∀ (s : State),
     let wrote := fun (t : State) (a : Nat) (bs : List Byte) => t = { yieldServe s (rangePas a bs.length) with mem := t.mem, memPoison := t.memPoison }
       ∧ (∀ i y, bs[i]? = some y → memByte t (a + i) = y) ∧ ∀ x, ¬(a ≤ x ∧ x < a + bs.length) → memByte t x = memByte s x
     let gave := fun (t : State) (who a n : Nat) => ∃ l, t = { yieldServe s (rangePas a n) with answers := s.answers ++ [(who, l)], freeCtr := s.freeCtr + n } ∧ l.length = n
       ∧ ((∀ w ∈ s.wgs, isSaved w = false) → ∀ i, i < n → l[i]? = some (memByte s (a + i), sectorBad s (a + i)))
     (reachable s s.arg.a s.arg.bytes.length = true → ∃ t, exec .companionWrite s = .next t ∧ wrote t s.arg.a s.arg.bytes)
     ∧ (reachable s s.arg.a s.arg.b = true → ∃ t, exec .companionRead s = .next t ∧ gave t 0 s.arg.a s.arg.b)
     ∧ (∀ k, s.links[s.arg.a]? = some k → k.up = true →
       (∀ pa n, s.arg.req = .read pa n → reachable s pa n = true → ∃ t, exec .peerAccess s = .next t ∧ gave t (s.arg.a + 1) pa n)
       ∧ (∀ pa bs, s.arg.req = .write pa bs → reachable s pa bs.length = true → ∃ t, exec .peerAccess s = .next t ∧ wrote t pa bs)
       ∧ (∀ aop w pa d c, s.arg.req = .atomic aop w pa d c → reachable s pa w = true →
           ∃ t, exec .peerAccess s = .next t ∧ t = { yieldServe s (rangePas pa w) with mem := t.mem, memPoison := t.memPoison, answers := s.answers ++ [(s.arg.a + 1, memRead s pa w)] }
             ∧ (anyBad (memRead s pa w) = true → t.mem = s.mem ∧ t.memPoison = s.memPoison)
             ∧ (anyBad (memRead s pa w) = false → memNat t pa w = atomOp aop.toNat w (memNat s pa w) (d.toNat % 2 ^ (8 * w)) (c.toNat % 2 ^ (8 * w)) % 2 ^ (8 * w))
             ∧ ∀ x, ¬(pa ≤ x ∧ x < pa + w) → memByte t x = memByte s x)))
  ∧ (∀ (s : State),
     (let part := req s 1 1
      linkUp s = true → s.arg.msg.bytes.length = 32 → req s 0 1 = 0x61 →
      (findPart s part = none → exec .checkpoint s = .next (answer s 8 0))
      ∧ (∀ p, findPart s part = some p → req s 4 4 = 0 → req s 8 8 % 65536 = 0 → req s 0x10 8 % 65536 = 0 → req s 0x10 8 ≠ 0 → req s 0x18 8 % 64 = 0 → s.arg.msg.cls = 3 →
         (p.ckpt ≠ none → exec .checkpoint s = .next (answer s 6 0))
         ∧ (p.ckpt = none → ∃ t, exec .checkpoint s = .next t ∧ t = { s with parts := t.parts } ∧ findPart t part
             = some { p with ckpt := some { seq := BitVec.ofNat 16 (req s 2 2), va := req s 8 8, len := req s 0x10 8, dst := req s 0x18 8, moved := 0, poisoned := 0 } })))
     ∧ (∀ p k, findPart s s.arg.a = some p → p.ckpt = some k →
         let fini := fun (t : State) (code value : Nat) => findPart t s.arg.a = some { p with ckpt := none } ∧ t.mem = s.mem
           ∧ t.outbox = s.outbox ++ [replyMsg 3 0x61 s.arg.a k.seq.toNat code value]
         (k.len ≤ k.moved → ∃ t, exec .checkpointEnd s = .next t ∧ fini t 0 k.poisoned)
         ∧ (k.moved < k.len → (translate s (unitDie s s.arg.a) s.arg.a (k.va + k.moved)).1 = none → ∃ t, exec .checkpointEnd s = .next t ∧ fini t 10 (k.va + k.moved))
         ∧ (∀ q s1, k.moved + 64 = k.len → translate s (unitDie s s.arg.a) s.arg.a (k.va + k.moved) = (some q, s1) → q.peer = none → stalledFor s1 3 q.pa = false →
             ∃ t, exec .checkpointEnd s = .next t ∧ fini t 0 (k.poisoned + (if sectorBad s q.pa then 1 else 0))
               ∧ ∀ x, smGet t.compMem x 0 = if k.dst + k.moved ≤ x ∧ x < k.dst + k.moved + 64 then (if sectorBad s q.pa then 0 else memByte s (q.pa + (x - (k.dst + k.moved))))
                   else smGet s.compMem x 0)))

/-- R369-R371: links come up with the incarnation that their peer advertises; a peer with no link left becomes LOST; PEER_UP clears LOST
once a trained link of the peer shows the incarnation that it names, and is answered BAD_LAUNCH otherwise.
Where the manual leaves a point open, the model's choice is that of log entry 21. -/
def Obligations.PeersComeAndGo : Prop := ∀ (s : State),
  (∀ x, s.boot ≠ .off → s.links[s.arg.a]? = some x → x.up = false → ∃ t, exec .peerLinkUp s = .next t ∧ t = { s with links := t.links }
    ∧ t.links[s.arg.a]? = some { up := true, inc := s.arg.b % 2 ^ 32 } ∧ ∀ i, i ≠ s.arg.a → t.links[i]? = s.links[i]?)
  ∧ (let lost := fun (t : State) (gone : Nat → Prop) => ∀ p y k b, findPart s p = some y → k < 8 → y.peers[k]? = some b → b.valid = true →
        (∀ i x, i < 8 → b.links.getLsbD i = true → s.links[i]? = some x → x.up = true → gone i) → ∃ z, findPart t p = some z ∧ z.lost.getLsbD k = true
     let down := fun (t : State) (gone : Nat → Prop) => ∀ i x, s.links[i]? = some x → (gone i → t.links[i]? = some { x with up := false }) ∧ (¬gone i → t.links[i]? = some x)
     (s.arg.a < 8 → ∃ t, exec .peerLinkDown s = .next t ∧ t.mem = s.mem ∧ lost t (fun i => i = s.arg.a) ∧ down t (fun i => i = s.arg.a))
     ∧ (∀ p b, findPart s s.arg.a = some p → p.peers[s.arg.b]? = some b → b.valid = true →
          ∃ t, exec .peerLoss s = .next t ∧ t.mem = s.mem ∧ lost t (fun i => b.links.getLsbD i = true) ∧ down t (fun i => b.links.getLsbD i = true)))
  ∧ (linkUp s = true → s.arg.msg.bytes.length = 32 → req s 0 1 = 0x71 →
      let k := req s 8 1
      (∀ p b, findPart s (req s 1 1) = some p → p.peers[k]? = some b →
        let named := ∃ i x, i < 8 ∧ b.links.getLsbD i = true ∧ s.links[i]? = some x ∧ x.up = true ∧ x.inc = req s 0xC 4
        (req s 4 4 = 0 → req s 9 3 = 0 → req s 0x10 16 = 0 → s.arg.msg.cls = 0 → b.valid = true → named →
          ∃ t z, exec .peerUp s = .next t ∧ t = { s with parts := t.parts, outbox := s.outbox ++ [replyMsg 0 0x71 (req s 1 1) (req s 2 2) 0 0] }
            ∧ findPart t (req s 1 1) = some z ∧ z = { p with lost := z.lost } ∧ ∀ i, i < 8 → z.lost.getLsbD i = if i = k then false else p.lost.getLsbD i)
        ∧ (¬named → exec .peerUp s = .next (answer s 3 0)))
      ∧ (findPart s (req s 1 1) = none → exec .peerUp s = .next (answer s 3 0)))

/-! ## Rules stated whole -/

/-- R168: BALLOT is OP 0x34 of format A, B zero; every lane of ACTIVE receives the sum of 2^m over the lanes m of ACTIVE for which
predicate A holds, and bits 31:16 are zero. -/
def Obligations.BallotSumsItsLanes : Prop := ∀ (w : FmtA),
  (∃ r, encode (.ballot w) = (0x34#6 ++ w.g ++ w.d ++ w.a.code ++ w.b.code) :: r)
  ∧ (∀ vc vw, (Instr.ballot w).wellFormed vc vw = true → w.b.code = 0 ∧ w.a.code.toNat < 16)
  ∧ (∀ (s : State) (x : Ctx), Issues s w.g x → LaneFree s x [] true →
      let sum := (List.range 16).foldl (fun n m => if hasLane x.act m && readP x w.a m then n + 2 ^ m else n) 0
      LaneEffect s x true (exec (.ballot w) s) (toReg x w.d.toNat (fun _ => wordOf sum)) noBit ∧ sum < 2 ^ 16)

/-- R136: RET names a vector register in A, and behaves as BRI with targets A(l) and with RJ 0; no CALL is looked for. -/
def Obligations.ReturnIsAnIndirectBranch : Prop := ∀ (w : FmtY),
  (∀ vc vw, (Instr.ret w).wellFormed vc vw = true → isVec w.a.code = true)
  ∧ ∀ (s : State) (j : FmtJ), j.g = w.g → j.a = w.a → j.rj = 0 → exec (.ret w) s = exec (.bri j) s

/-! ## The machine as a whole -/

/-- The machine after reset: power is off, nothing is loaded, launched or outstanding, every register a launch would have is absent, memory
lists nothing, no core is out of service and no TLB holds an entry. (The values that the spec does not give are not stated.)
That memory reads zero before step 6 is the model's choice (log entry 13). -/
def Obligations.ResetValues : Prop :=
  State.reset.boot = .off ∧ State.reset.launches = [] ∧ State.reset.wgs = [] ∧ State.reset.copies = [] ∧ State.reset.calls = [] ∧ State.reset.parts = []
  ∧ State.reset.locks = [] ∧ State.reset.faults = [] ∧ State.reset.outbox = [] ∧ (∀ a, memByte State.reset a = 0) ∧ State.reset.memPoison = []
  ∧ State.reset.dies.length = 32 ∧ (∀ d ∈ State.reset.dies, d.tlb = []) ∧ State.reset.stks.length = 12 ∧ State.reset.cores.length = 288
  ∧ (∀ k ∈ State.reset.cores, k.oos = false ∧ k.replayQ = [] ∧ k.icache = []) ∧ ∀ k ∈ State.reset.links, k.up = false

/-- Device memory after reset is in its canonical form. -/
def Obligations.ResetMemoryCanonical : Prop := Memory.wf State.reset.mem = true

/-- Every step keeps device memory in its canonical form: equal contents are equal data. -/
def Obligations.StepsKeepMemoryCanonical : Prop := ∀ (s t : State), Memory.wf s.mem = true → step s = .next t → Memory.wf t.mem = true

/-- A step runs the decoded instruction. Issue: where the gang of a quad may issue, stands at a word that decodes to an instruction legal
in its kernel, and is neither predicted nor joining lanes that ran ahead, or may issue so (R125), the step is the instruction's meaning at the group, then what
follows of itself. Frame: the same of the word at a running call's FPC. Event: the meaning of the event that stands first; a write or
message of the companion waits while one of its class waits before it (R297), and an access from outside while its bytes stand in a
repair window or under an open row (R199, R283).
Where the manual leaves a point open, the model's choices are those of log entries 98 (what waits in the inbox) and 114 (a message of
another length). -/
def Obligations.StepsRunTheDecodedInstruction : Prop := ∀ (s : State) (r : List Stim),
  let s0 := { s with agenda := r }
  (∀ wg grp q p w g l x d, s.agenda = .issue wg grp q p :: r →
    let s1 := wakeCut (wakeGrp s0 wg grp) wg grp q
    let c := issueOf wg grp x d.len p
    findWg s1 wg = some w → w.groups[grp]? = some g → findLaunch s1 w.launch = some l → (∀ k, w.chk = some k → k.cutDue = true → cutReady s1 w = false) →
    g.active = true → quadReady s1 w g q = true → standOf g q = some x → decode x.clause.cls (x.clause.words.drop x.idx) = some d →
    wordSub l.vcount l.vw d = none → x.replay = true ∨ unsettled g x.quads = false ∨ mayPredict d.i = true →
    step s = andThen (exec d.i { s1 with cur := some c }) (fun t => settleAll (settleInbox (afterIssue s1 t c q))))
  ∧ (∀ id c v i, s.agenda = .frame id :: r → findCall s id = some c → c.st = .running → c.yld = none → (atYield c = false ∨ yieldWaiters s0 c = false) →
    c.fpc < c.nw → c.prog[c.fpc]? = some v → decodeRod v = some i →
    step s = andThen (exec i { s0 with curCall := some c.id }) (fun t => settleAll (settleInbox { t with curCall := none })))
  ∧ (∀ i x, s.agenda = .event i x :: r → encode i = [] →
    let held := (inOrder i = true ∧ ∃ e ∈ s.inbox, inOrder e.1 = true ∧ e.2.msg.cls = x.msg.cls) ∨ accessWaits s0 i x = true
    (¬held → step s = andThen (exec i { s0 with arg := x }) (fun t => settleAll (settleInbox { t with arg := EvArg.none })))
    ∧ (held → step s = .next (settleAll (settleInbox { s0 with inbox := s.inbox ++ [(i, x)] }))))

/-- R36, R48-R54, R62, R270: the worked words of the manual decode to the instructions that it gives them. -/
def Obligations.WorkedWordsDecode : Prop :=
  let f := fun (c : BitVec 8) => Fld.mk c 0
  (decode 0 [0x358601CF]).map Dec.i = some (.and { g := 3, d := 6, a := f 0x01, b := f 0xCF })
  ∧ (decode 0 [0x038706DD, 0x00200000]).map Dec.i
      = some (.iadd { g := 7, d := 7, a := f 0x06, b := f 0xDD, c := f 0, ty := 2, sty := 0, rnd := 0, neg := 0, abs := 0, sat := false, fs := false, wide := false, md := 0 })
  ∧ (decode 0 [0x3F8807FF, 0x12345678]).map Dec.i = some (.xor { g := 7, d := 8, a := f 0x07, b := Fld.mk 0xFF 0x12345678 })
  ∧ (decode 3 [0x03862405, 0x00010000]).map Dec.i
      = some (.ld { g := 7, d := 6, buf := 2, sz := 2, fs := false, idx := f 0x05, off := 1, aop := 0, nt := false, spl := false, sx := false, data := f 0 })
  ∧ (decode 1 [0x03870406]).map Dec.i = some (.fadd { g := 7, d := 7, a := f 0x04, b := f 0x06 })
  ∧ (decode 5 [0x03801000, 0x00050010]).map Dec.i = some (.br { g := 7, d := 0, cp := 1, a := f 0, tgt := 5, rj := 16 })
  ∧ (decode 6 [0x33800068]).map Dec.i = some (.fence { g := 7, d := 0, a := f 0, k := 0x68 })
  ∧ hdrOf 0x50009FE0 = { len := 5, cls := 0, wait := 4, setA := 15, setB := 15, yld := false, nspec := false, rsv := 0 }
  ∧ hdrOf 0x460001E0 = { len := 4, cls := 3, wait := 0, setA := 0, setB := 15, yld := false, nspec := false, rsv := 0 }
  ∧ decodeRod 0x68000000 = some (.rend { d := 0, a := 0, b := 0, m := 0, t := 0, imm := 0 })
  ∧ decode 0 [0xFC000000] = none ∧ decodeRod 0x88000000 = none

/-- R36-R62, R270, R271: a legal word decodes to itself. Every clause word of a kernel, in front of whatever follows it, is read back with
every field and literal, at its length and with no reserved bit; so is every frame and rod word, and every clause header. -/
def Obligations.DecodingInvertsEncoding : Prop :=
  (∀ (i : Instr) (cls : BitVec 3) (vc : Nat) (vw rest : List Word), clsOf i = some cls → i.wellFormed vc vw = true →
    decode cls (encode i ++ rest) = some { i := i, len := (encode i).length, rsv := false })
  ∧ (∀ (i : Instr) (v : Word) (vc : Nat) (vw : List Word), clsOf i = none → encode i = [v] → i.wellFormed vc vw = true → decodeRod v = some i)
  ∧ ∀ h : Hdr, h.len < 16 → hdrOf (encodeHdr h) = h
end

