-- ==== Sys2Proof/Laws/Maps.lean ====
section
/-! SUPPORT. Laws of the sparse maps: a read after a write, and the canonical form that every write keeps. -/
namespace Sys2Proof.Machine

variable {α : Type} [DecidableEq α]

omit [DecidableEq α] in
@[simp] theorem smGet_nil (k : Nat) (d : α) : smGet ([] : SMap α) k d = d := rfl

omit [DecidableEq α] in
theorem smGet_dropWhile_le (m : SMap α) (k j : Nat) (d : α) (h : k < j) :
    smGet (m.dropWhile (fun e => decide (e.1 ≤ k))) j d = smGet m j d := by
  induction m with
  | nil => rfl
  | cons e r ih =>
    obtain ⟨a, v⟩ := e
    by_cases ha : a ≤ k
    · have h1 : a ≠ j := by omega
      have h2 : ¬ j < a := by omega
      simp [ha, smGet, h1, h2, ih]
    · simp [ha]

omit [DecidableEq α] in
theorem smGet_dropWhile_gt (m : SMap α) (k j : Nat) (d : α) (h : j ≤ k) :
    smGet (m.dropWhile (fun e => decide (e.1 ≤ k))) j d = d := by
  induction m with
  | nil => rfl
  | cons e r ih =>
    obtain ⟨a, v⟩ := e
    by_cases ha : a ≤ k
    · simp [ha, ih]
    · have h1 : a ≠ j := by omega
      have h2 : j < a := by omega
      simp [ha, smGet, h1, h2]

/-- A read after a write of the same key gives the value written. -/
@[simp] theorem smGet_smPut_same (m : SMap α) (k : Nat) (v d : α) : smGet (smPut m k v d) k d = v := by
  induction m with
  | nil => by_cases hv : v = d <;> simp [smPut, smGet, hv]
  | cons e r ih =>
    obtain ⟨a, w⟩ := e
    by_cases h1 : k < a
    · have h2 : a ≠ k := by omega
      by_cases hv : v = d <;> simp [smPut, smGet, h1, h2, hv]
    · by_cases h2 : k = a
      · subst h2
        by_cases hv : v = d
        · simp [smPut, hv, smGet_dropWhile_gt]
        · simp [smPut, smGet, hv]
      · have h3 : a ≠ k := fun h => h2 h.symm
        simp [smPut, smGet, h1, h2, h3, ih]

/-- A write leaves every other key alone. -/
theorem smGet_smPut_other (m : SMap α) (k j : Nat) (v d : α) (h : j ≠ k) : smGet (smPut m k v d) j d = smGet m j d := by
  induction m with
  | nil =>
    have h' : k ≠ j := fun e => h e.symm
    by_cases hv : v = d <;> by_cases hl : j < k <;> simp [smPut, smGet, hv, h', hl]
  | cons e r ih =>
    obtain ⟨a, w⟩ := e
    have h' : k ≠ j := fun e => h e.symm
    by_cases h1 : k < a
    · by_cases hv : v = d
      · simp [smPut, h1, hv]
      · by_cases h3 : j < k
        · have h4 : a ≠ j := by omega
          have h5 : j < a := by omega
          simp [smPut, smGet, h1, hv, h', h3, h4, h5]
        · simp [smPut, smGet, h1, hv, h', h3]
    · by_cases h2 : k = a
      · subst h2
        by_cases hv : v = d
        · by_cases h3 : j < k
          · simp [smPut, smGet, hv, h', h3, smGet_dropWhile_gt _ _ _ _ (Nat.le_of_lt h3)]
          · have h4 : k < j := by omega
            simp [smPut, smGet, hv, h', h3, smGet_dropWhile_le _ _ _ _ h4]
        · simp [smPut, smGet, hv, h']
      · simp [smPut, smGet, h1, h2, ih]

theorem smGet_smPut (m : SMap α) (k j : Nat) (v d : α) : smGet (smPut m k v d) j d = if j = k then v else smGet m j d := by
  by_cases h : j = k
  · subst h; simp
  · simp [h, smGet_smPut_other]

/-- A read of a key that a run of writes covers, and of one that it does not. -/
theorem smGet_smPutList (vs : List α) (m : SMap α) (k j : Nat) (d : α) :
    smGet (smPutList m k vs d) j d = if k ≤ j ∧ j < k + vs.length then vs.getD (j - k) d else smGet m j d := by
  induction vs generalizing m k with
  | nil => simp [smPutList]
  | cons v r ih =>
    rw [smPutList, ih]
    by_cases h : j = k
    · subst h
      simp
    · rw [smGet_smPut_other _ _ _ _ _ h]
      by_cases h1 : k + 1 ≤ j ∧ j < k + 1 + r.length
      · have h2 : k ≤ j ∧ j < k + (v :: r).length := by simp; omega
        have h3 : j - k = (j - (k + 1)) + 1 := by omega
        rw [if_pos h1, if_pos h2, h3]; simp
      · have h2 : ¬ (k ≤ j ∧ j < k + (v :: r).length) := by simp; omega
        rw [if_neg h1, if_neg h2]

/-! ## The canonical form -/

theorem smWfFrom_mono {lo lo' : Nat} {d : α} {m : SMap α} (h : lo' ≤ lo) (hm : smWfFrom lo d m = true) : smWfFrom lo' d m = true := by
  cases m with
  | nil => rfl
  | cons e r =>
    obtain ⟨a, v⟩ := e
    simp only [smWfFrom, Bool.and_eq_true, decide_eq_true_eq] at hm ⊢
    exact ⟨⟨le_trans h hm.1.1, hm.1.2⟩, hm.2⟩

theorem smWfFrom_dropWhile {k lo : Nat} {d : α} {m : SMap α} (hm : smWfFrom lo d m = true) :
    smWfFrom lo d (m.dropWhile (fun e => decide (e.1 ≤ k))) = true := by
  induction m generalizing lo with
  | nil => rfl
  | cons e r ih =>
    obtain ⟨a, v⟩ := e
    by_cases ha : a ≤ k
    · simp only [List.dropWhile_cons, ha, decide_true, if_true]
      simp only [smWfFrom, Bool.and_eq_true, decide_eq_true_eq] at hm
      exact ih (smWfFrom_mono (by omega) hm.2)
    · simpa [ha] using hm

theorem smWfFrom_smPut {m : SMap α} {lo k : Nat} {v d : α} (h : lo ≤ k) (hm : smWfFrom lo d m = true) :
    smWfFrom lo d (smPut m k v d) = true := by
  induction m generalizing lo with
  | nil => by_cases hv : v = d <;> simp [smPut, smWfFrom, hv, h]
  | cons e r ih =>
    obtain ⟨a, w⟩ := e
    simp only [smWfFrom, Bool.and_eq_true, decide_eq_true_eq] at hm
    obtain ⟨⟨h1, h2⟩, h3⟩ := hm
    by_cases hk : k < a
    · by_cases hv : v = d
      · simp [smPut, hk, hv, smWfFrom, h1, h2, h3]
      · have h4 : k + 1 ≤ a := hk
        simp [smPut, hk, hv, smWfFrom, h, h2, h3, h4]
    · by_cases ha : k = a
      · subst ha
        by_cases hv : v = d
        · simp only [smPut, lt_irrefl, if_false, if_true, hv]
          exact smWfFrom_mono (by omega) (smWfFrom_dropWhile h3)
        · simp [smPut, hv, smWfFrom, h, h3]
      · simp only [smPut, hk, ha, if_false, smWfFrom, Bool.and_eq_true, decide_eq_true_eq]
        exact ⟨⟨h1, h2⟩, ih (by omega) h3⟩

/-- A write keeps the canonical form. -/
theorem smWf_smPut {m : SMap α} {k : Nat} {v d : α} (hm : smWf m d = true) : smWf (smPut m k v d) d = true :=
  smWfFrom_smPut (Nat.zero_le _) hm

theorem smWf_smPutList {m : SMap α} {k : Nat} {vs : List α} {d : α} (hm : smWf m d = true) : smWf (smPutList m k vs d) d = true := by
  induction vs generalizing m k with
  | nil => exact hm
  | cons v r ih => exact ih (smWf_smPut hm)

end Sys2Proof.Machine
end

