-- ==== Sys2Proof/Laws/Groups.lean ====
section
/-! SUPPORT. Laws of a group's registers, and what the sequencer operations leave alone. -/
namespace Sys2Proof.Machine

/-! ## Registers: a read after a write -/

theorem getV_putVSlot (g : Group) (n l m k : Nat) (x : Slot) (hl : l < 16) (hk : k < 16) :
    getV (putVSlot g n l x) m k = if m = n ∧ k = l then x else getV g m k := by
  unfold getV putVSlot
  simp only [smGet_smPut]
  by_cases h : m = n ∧ k = l
  · simp [h]
  · have h' : ¬ 16 * m + k = 16 * n + l := by omega
    simp [h, h']

@[simp] theorem getS_putSSlot (g : Group) (n m : Nat) (x : Slot) : getS (putSSlot g n x) m = if m = n then x else getS g m := by
  simp [getS, putSSlot, smGet_smPut]

@[simp] theorem getJ_putJ (g : Group) (n m : Nat) (x : LMask) : getJ (putJ g n x) m = if m = n then x else getJ g m := by
  simp [getJ, putJ, smGet_smPut]

@[simp] theorem getB_putB (g : Group) (n m : Nat) (x : BitVec 128) : getB (putB g n x) m = if m = n then x else getB g m := by
  simp [getB, putB, smGet_smPut]

@[simp] theorem getQ_putQ (g : Group) (n m : Nat) (x : Stream) : getQ (putQ g n x) m = if m = n then x else getQ g m := by
  simp [getQ, putQ, smGet_smPut]

theorem getPMask_putPMask (g : Group) (n m : Nat) (k x : LMask) :
    getPMask (putPMask g n k x) m = if m = n ∧ m ≠ 7 then (getPMask g m &&& ~~~k) ||| (x &&& k) else getPMask g m := by
  by_cases h7 : m = 7
  · simp [getPMask, h7]
  · by_cases h : m = n
    · subst h; simp [getPMask, putPMask, h7]
    · simp [getPMask, putPMask, h7, h, smGet_smPut_other]

theorem hasLane_laneBit (l k : Nat) (hl : l < 16) (hk : k < 16) : hasLane (laneBit l) k = decide (k = l) := by
  have h : ∀ l ∈ List.range 16, ∀ k ∈ List.range 16, hasLane (laneBit l) k = decide (k = l) := by decide
  exact h l (by simpa using hl) k (by simpa using hk)

theorem getP_putP (g : Group) (n l m k : Nat) (b : Bool) (hl : l < 16) (hk : k < 16) (hm : m < 7) :
    getP (putP g n l b) m k = if m = n ∧ k = l then b else getP g m k := by
  have h7 : m ≠ 7 := by omega
  have hb := hasLane_laneBit l k hl hk
  unfold hasLane at hb
  unfold getP putP
  rw [getPMask_putPMask]
  by_cases h : m = n
  · simp only [h, ne_eq, true_and]
    unfold hasLane
    by_cases hkl : k = l
    · subst hkl
      cases b <;> simp_all
    · have hb' : (laneBit l).getLsbD k = false := by simp [hb, hkl]
      cases b <;> simp_all
  · simp [h]

/-! ## Sequencer operations change sequencers alone -/

theorem gangRelease_frame {g h : Group} (e : gangRelease g = some h) : h = { g with quads := h.quads } := by
  unfold gangRelease at e
  simp only at e
  split at e
  · cases e
  · split at e
    · cases e
    · cases e; rfl

theorem settleGo_frame (n : Nat) (g : Group) : settleGo n g = { g with quads := (settleGo n g).quads } := by
  induction n generalizing g with
  | zero => rfl
  | succ n ih =>
    unfold settleGo
    simp only
    split
    · rfl
    · rename_i h e
      have h1 := gangRelease_frame e
      rw [ih h, h1]

theorem mergeGangs_frame (n : Nat) (g : Group) : mergeGangs n g = { g with quads := (mergeGangs n g).quads } := by
  induction n generalizing g with
  | zero => rfl
  | succ n ih =>
    unfold mergeGangs
    split
    · rfl
    · simp only
      rw [ih]; rfl

/-- Header actions, releases and merging change the sequencers of a group and nothing else. -/
theorem settle_frame (g : Group) : settle g = { g with quads := (settle g).quads } := by
  unfold settle
  rw [mergeGangs_frame, show partGangs (settleGo 16 g) = { settleGo 16 g with quads := (partGangs (settleGo 16 g)).quads } from rfl, settleGo_frame 16 g]

/-- The end of an issue changes the sequencers of a group and nothing else. -/
theorem advanceGrp_frame (c : Issue) (g : Group) : advanceGrp c g = { g with quads := (advanceGrp c g).quads } := by
  unfold advanceGrp
  split
  · rw [settle_frame]; rfl
  · simp only
    split
    · rw [settle_frame]; rfl
    · rfl

theorem advanceHold_frame (c : Issue) (g : Group) : advanceHold c g = { g with quads := (advanceHold c g).quads } := by
  unfold advanceHold
  split
  · rw [settle_frame]; rfl
  · rfl

/-- The end of an issue again, from what it left and where the quads stood. -/
theorem advanceGrp_again (c : Issue) (g : Group) : advanceGrp c g = advanceGrp c { advanceGrp c g with quads := g.quads } := by
  congr 1; rw [advanceGrp_frame]

theorem advanceHold_again (c : Issue) (g : Group) : advanceHold c g = advanceHold c { advanceHold c g with quads := g.quads } := by
  congr 1; rw [advanceHold_frame]

theorem parkGrp_frame (c : Issue) (p : Park) (g : Group) : parkGrp c p g = { g with quads := (parkGrp c p g).quads } := rfl

theorem stayGrp_frame (c : Issue) (p : Park) (g : Group) : stayGrp c p g = { g with quads := (stayGrp c p g).quads } := rfl

theorem getV_advanceGrp (c : Issue) (g : Group) (n l : Nat) : getV (advanceGrp c g) n l = getV g n l := by
  rw [advanceGrp_frame]; rfl

theorem getP_advanceGrp (c : Issue) (g : Group) (n l : Nat) : getP (advanceGrp c g) n l = getP g n l := by
  rw [advanceGrp_frame]; rfl

/-! ## The results of lane words -/

theorem writeV_frame (g : Group) (id n l : Nat) (x : Slot) : writeV g id n l x = { g with v := (writeV g id n l x).v, quads := (writeV g id n l x).quads } := rfl

theorem writeP_frame (g : Group) (id n l : Nat) (b : Bool) : writeP g id n l b = { g with p := (writeP g id n l b).p, quads := (writeP g id n l b).quads } := rfl

theorem getV_writeV (g : Group) (id n l m k : Nat) (x : Slot) (hl : l < 16) (hk : k < 16) :
    getV (writeV g id n l x) m k = if m = n ∧ k = l then x else getV g m k := by
  unfold writeV
  rw [getV_putVSlot _ _ _ _ _ _ hl hk]; rfl

theorem getV_writeP (g : Group) (id n l m k : Nat) (b : Bool) : getV (writeP g id n l b) m k = getV g m k := rfl

theorem getP_writeV (g : Group) (id n l m k : Nat) (x : Slot) : getP (writeV g id n l x) m k = getP g m k := rfl

theorem getP_writeP (g : Group) (id n l m k : Nat) (b : Bool) (hl : l < 16) (hk : k < 16) (hm : m < 7) :
    getP (writeP g id n l b) m k = if m = n ∧ k = l then b else getP g m k := by
  unfold writeP
  rw [getP_putP _ _ _ _ _ _ hl hk hm]; rfl

/-- What a lane's result writes to a vector register; a later entry stands over an earlier one. -/
def outSlot (o : LaneOut) (n : Nat) : Option Slot :=
  (o.v.reverse.find? (fun e => e.1 == n)).map (fun e => { val := e.2, poison := o.bad.contains e.1 })


/-! ## What a write notes moves no quad -/

theorem modQuads_unnoted (g : Group) (m : QMask) (f : Quad → Quad) (h : ∀ q, unnoted (f q) = unnoted q) :
    (modQuads g m f).quads.map unnoted = g.quads.map unnoted := by
  apply List.ext_getElem
  · simp [modQuads]
  · intro i h1 h2
    have hi : i < g.quads.length := by simpa using h2
    simp only [modQuads, List.getElem_map, List.getElem_range]
    have : quadAt g i = g.quads[i] := by simp [quadAt, hi]
    by_cases hm : hasQuad m i = true <;> simp [hm, h, this]

theorem noteQuad_unnoted (k : UndoKey) (same : UndoKey → Bool) (upd : UndoKey → UndoKey) (id : Nat) (q : Quad) :
    unnoted (noteQuad k same upd id q) = unnoted q := by
  unfold noteQuad unnoted
  cases hp : q.pred <;> cases hr : q.replay <;> simp [hp, hr]

theorem writeV_unnoted (g : Group) (id n l : Nat) (x : Slot) : (writeV g id n l x).quads.map unnoted = g.quads.map unnoted :=
  modQuads_unnoted _ _ _ (noteQuad_unnoted _ _ _ _)

theorem writeP_unnoted (g : Group) (id n l : Nat) (b : Bool) : (writeP g id n l b).quads.map unnoted = g.quads.map unnoted :=
  modQuads_unnoted _ _ _ (noteQuad_unnoted _ _ _ _)

theorem foldl_unnoted {α : Type} (f : Group → α → Group) (h : ∀ g a, (f g a).quads.map unnoted = g.quads.map unnoted) (as : List α) (g : Group) :
    (as.foldl f g).quads.map unnoted = g.quads.map unnoted := by
  induction as generalizing g with
  | nil => rfl
  | cons a r ih => rw [List.foldl_cons, ih, h]

/-- The results of a word leave the quads where they stand. -/
theorem foldOut_unnoted (id : Nat) (outs : List LaneOut) (g : Group) : (outs.foldl (writeOut id) g).quads.map unnoted = g.quads.map unnoted := by
  refine foldl_unnoted _ (fun g o => ?_) outs g
  have hp := foldl_unnoted (fun (g : Group) (e : Nat × Bool) => writeP g id e.1 o.lane e.2) (fun g e => writeP_unnoted g id e.1 o.lane e.2) o.p
  have hv := foldl_unnoted (fun (g : Group) (e : Nat × Word) => writeV g id e.1 o.lane { val := e.2, poison := o.bad.contains e.1 })
    (fun g e => writeV_unnoted g id e.1 o.lane _) o.v g
  exact (hp _).trans hv

theorem foldV_frame (bad : List Nat) (id l : Nat) (vs : List (Nat × Word)) (g : Group) :
    ∃ v q, vs.foldl (fun g e => writeV g id e.1 l { val := e.2, poison := bad.contains e.1 }) g = { g with v := v, quads := q } := by
  induction vs generalizing g with
  | nil => exact ⟨g.v, g.quads, rfl⟩
  | cons e r ih =>
    obtain ⟨v, q, h⟩ := ih (writeV g id e.1 l { val := e.2, poison := bad.contains e.1 })
    exact ⟨v, q, by rw [List.foldl_cons, h]; rfl⟩

theorem foldP_frame (id l : Nat) (ps : List (Nat × Bool)) (g : Group) :
    ∃ p q, ps.foldl (fun g e => writeP g id e.1 l e.2) g = { g with p := p, quads := q } := by
  induction ps generalizing g with
  | nil => exact ⟨g.p, g.quads, rfl⟩
  | cons e r ih =>
    obtain ⟨p, q, h⟩ := ih (writeP g id e.1 l e.2)
    exact ⟨p, q, by rw [List.foldl_cons, h]; rfl⟩

/-- One lane's results change vector slots, predicates and the undo of predictions alone. -/
theorem writeOut_frame (id : Nat) (g : Group) (o : LaneOut) : ∃ v p q, writeOut id g o = { g with v := v, p := p, quads := q } := by
  unfold writeOut
  simp only
  obtain ⟨v, q, h⟩ := foldV_frame o.bad id o.lane o.v g
  rw [h]
  obtain ⟨p, q', h'⟩ := foldP_frame id o.lane o.p { g with v := v, quads := q }
  exact ⟨v, p, q', by rw [h']⟩

theorem foldV_getV (bad : List Nat) (id l : Nat) (hl : l < 16) (vs : List (Nat × Word)) (g : Group) (n k : Nat) (hk : k < 16) :
    getV (vs.foldl (fun g e => writeV g id e.1 l { val := e.2, poison := bad.contains e.1 }) g) n k
      = if k = l then ((vs.reverse.find? (fun e => e.1 == n)).map (fun e => ({ val := e.2, poison := bad.contains e.1 } : Slot))).getD (getV g n k)
        else getV g n k := by
  induction vs generalizing g with
  | nil => by_cases h : k = l <;> simp [h]
  | cons e r ih =>
    rw [List.foldl_cons, ih, List.reverse_cons, List.find?_append]
    rw [getV_writeV _ _ _ _ _ _ _ hl hk]
    by_cases h : k = l
    · simp only [h, and_true, if_true]
      cases hf : r.reverse.find? (fun e => e.1 == n) with
      | some a => simp
      | none =>
        by_cases hn : e.1 = n
        · simp [List.find?, hn]
        · have hn' : n ≠ e.1 := fun h => hn h.symm
          have hb : (e.1 == n) = false := by simp [hn]
          simp [List.find?, hb, hn']
    · simp [h]

theorem foldP_getV (id l : Nat) (ps : List (Nat × Bool)) (g : Group) (n k : Nat) :
    getV (ps.foldl (fun g e => writeP g id e.1 l e.2) g) n k = getV g n k := by
  induction ps generalizing g with
  | nil => rfl
  | cons e r ih => rw [List.foldl_cons, ih, getV_writeP]

theorem foldV_getP (bad : List Nat) (id l : Nat) (vs : List (Nat × Word)) (g : Group) (n k : Nat) :
    getP (vs.foldl (fun g e => writeV g id e.1 l { val := e.2, poison := bad.contains e.1 }) g) n k = getP g n k := by
  induction vs generalizing g with
  | nil => rfl
  | cons e r ih => rw [List.foldl_cons, ih, getP_writeV]

theorem foldP_getP (id l : Nat) (hl : l < 16) (ps : List (Nat × Bool)) (g : Group) (n k : Nat) (hk : k < 16) (hn : n < 7) :
    getP (ps.foldl (fun g e => writeP g id e.1 l e.2) g) n k
      = if k = l then ((ps.reverse.find? (fun e => e.1 == n)).map Prod.snd).getD (getP g n k) else getP g n k := by
  induction ps generalizing g with
  | nil => by_cases h : k = l <;> simp [h]
  | cons e r ih =>
    rw [List.foldl_cons, ih, List.reverse_cons, List.find?_append]
    rw [getP_writeP _ _ _ _ _ _ _ hl hk hn]
    by_cases h : k = l
    · simp only [h, and_true, if_true]
      cases hf : r.reverse.find? (fun e => e.1 == n) with
      | some a => simp
      | none =>
        by_cases hm : e.1 = n
        · simp [List.find?, hm]
        · have hm' : n ≠ e.1 := fun h => hm h.symm
          have hb : (e.1 == n) = false := by simp [hm]
          simp [List.find?, hb, hm']
    · simp [h]

theorem getV_writeOut (id : Nat) (g : Group) (o : LaneOut) (n k : Nat) (ho : o.lane < 16) (hk : k < 16) :
    getV (writeOut id g o) n k = if k = o.lane then (outSlot o n).getD (getV g n k) else getV g n k := by
  unfold writeOut outSlot
  simp only
  rw [foldP_getV, foldV_getV _ _ _ ho _ _ _ _ hk]

theorem getP_writeOut (id : Nat) (g : Group) (o : LaneOut) (n k : Nat) (ho : o.lane < 16) (hk : k < 16) (hn : n < 7) :
    getP (writeOut id g o) n k = if k = o.lane then (outBit o n).getD (getP g n k) else getP g n k := by
  unfold writeOut outBit
  simp only
  rw [foldP_getP _ _ ho _ _ _ _ hk hn, foldV_getP]


/-- The results of a whole word, one for a lane at most, change vector slots, predicates and undo alone. -/
theorem foldOut_frame (id : Nat) (outs : List LaneOut) (g : Group) :
    ∃ v p q, outs.foldl (writeOut id) g = { g with v := v, p := p, quads := q } := by
  induction outs generalizing g with
  | nil => exact ⟨g.v, g.p, g.quads, rfl⟩
  | cons o r ih =>
    obtain ⟨v, p, q, h⟩ := writeOut_frame id g o
    obtain ⟨v', p', q', h'⟩ := ih (writeOut id g o)
    exact ⟨v', p', q', by rw [List.foldl_cons, h', h]⟩

theorem getV_foldOut (id : Nat) (outs : List LaneOut) (g : Group) (n k : Nat) (hk : k < 16)
    (hl : ∀ o ∈ outs, o.lane < 16) (hd : outs.Pairwise (fun a b => a.lane ≠ b.lane)) :
    getV (outs.foldl (writeOut id) g) n k = ((outOf outs k).bind (fun o => outSlot o n)).getD (getV g n k) := by
  induction outs generalizing g with
  | nil => rfl
  | cons o r ih =>
    rw [List.pairwise_cons] at hd
    have ho := hl o (by simp)
    rw [List.foldl_cons, ih _ (fun a ha => hl a (by simp [ha])) hd.2, getV_writeOut _ _ _ _ _ ho hk]
    by_cases h : o.lane = k
    · have hn : outOf r k = none := by
        unfold outOf
        rw [List.find?_eq_none]
        intro a ha
        have := hd.1 a ha
        simp; omega
      have hs : outOf (o :: r) k = some o := by simp [outOf, List.find?, h]
      rw [hn, hs]
      simp [h]
    · have hb : (o.lane == k) = false := by simp [h]
      have hs : outOf (o :: r) k = outOf r k := by simp [outOf, List.find?, hb]
      have h' : k ≠ o.lane := fun e => h e.symm
      rw [hs, if_neg h']

theorem getP_foldOut (id : Nat) (outs : List LaneOut) (g : Group) (n k : Nat) (hk : k < 16) (hn : n < 7)
    (hl : ∀ o ∈ outs, o.lane < 16) (hd : outs.Pairwise (fun a b => a.lane ≠ b.lane)) :
    getP (outs.foldl (writeOut id) g) n k = ((outOf outs k).bind (fun o => outBit o n)).getD (getP g n k) := by
  induction outs generalizing g with
  | nil => rfl
  | cons o r ih =>
    rw [List.pairwise_cons] at hd
    have ho := hl o (by simp)
    rw [List.foldl_cons, ih _ (fun a ha => hl a (by simp [ha])) hd.2, getP_writeOut _ _ _ _ _ ho hk hn]
    by_cases h : o.lane = k
    · have hz : outOf r k = none := by
        unfold outOf
        rw [List.find?_eq_none]
        intro a ha
        have := hd.1 a ha
        simp; omega
      have hs : outOf (o :: r) k = some o := by simp [outOf, List.find?, h]
      rw [hz, hs]
      simp [h]
    · have hb : (o.lane == k) = false := by simp [h]
      have hs : outOf (o :: r) k = outOf r k := by simp [outOf, List.find?, hb]
      have h' : k ≠ o.lane := fun e => h e.symm
      rw [hs, if_neg h']

end Sys2Proof.Machine
end

