-- ==== Sys2Proof/Laws/Lane.lean ====
section
/-! SUPPORT. What a word of a clause does to the state, said once for its shell: a gang that issues answers a next state; the
issuing group alone changes; the writes of a lane word. -/
namespace Sys2Proof.Machine

/-! ## The shell of every word -/

/-- A gang that issues a word answers a next state: the one its meaning gives. -/
theorem withCtx_next {s : State} {gd : BitVec 3} {x : Ctx} (h : Issues s gd x) (f : Ctx → State) : withCtx s gd f = .next (f x) := by
  obtain ⟨h1, h2, h3, h4, h5⟩ := h
  unfold withCtx
  simp only [h1, h2, h3, h4, ← h5]

theorem find_map_same {α : Type} (l : List α) (f : α → α) (key : α → Nat) (id : Nat) (hk : ∀ a, key (f a) = key a) :
    (l.map (fun a => if key a = id then f a else a)).find? (fun a => key a == id) = (l.find? (fun a => key a == id)).map f := by
  induction l with
  | nil => rfl
  | cons a r ih =>
    rw [List.map_cons, List.find?_cons, List.find?_cons, ih]
    by_cases h : key a = id
    · simp [h, hk]
    · have h1 : (key a == id) = false := by simp [h]
      rw [if_neg h, h1]

theorem find_map_other {α : Type} (l : List α) (f : α → α) (key : α → Nat) (id j : Nat) (hk : ∀ a, key (f a) = key a) (hj : j ≠ id) :
    (l.map (fun a => if key a = id then f a else a)).find? (fun a => key a == j) = l.find? (fun a => key a == j) := by
  induction l with
  | nil => rfl
  | cons a r ih =>
    rw [List.map_cons, List.find?_cons, List.find?_cons, ih]
    by_cases h : key a = id
    · have h1 : (id == j) = false := by simp; omega
      simp [h, hk, h1]
    · rw [if_neg h]

theorem findWg_modWg_same (s : State) (id : Nat) (f : Workgroup → Workgroup) (hf : ∀ w, (f w).id = w.id) :
    findWg (modWg s id f) id = (findWg s id).map f := find_map_same s.wgs f Workgroup.id id hf

theorem findWg_modWg_other (s : State) (id j : Nat) (f : Workgroup → Workgroup) (hf : ∀ w, (f w).id = w.id) (hj : j ≠ id) :
    findWg (modWg s id f) j = findWg s j := find_map_other s.wgs f Workgroup.id id j hf hj

theorem modifyAt_of_get {α : Type} (l : List α) (i : Nat) (a : α) (f : α → α) (h : l[i]? = some a) :
    modifyAt l i f = modifyAt l i (fun _ => f a) := by
  induction l generalizing i with
  | nil => rfl
  | cons b r ih =>
    cases i with
    | zero => simp at h; simp [modifyAt, h]
    | succ n => simp at h; simp [modifyAt, ih n h]

/-- A change of the issuing group is a step of that group alone. -/
theorem modGrp_step {s : State} {gd : BitVec 3} {x : Ctx} (h : Issues s gd x) (f : Group → Group) :
    GroupStep s (modGrp s x.c.wg x.c.grp f) x (f x.g) where
  rest := rfl
  others := fun id hid => findWg_modWg_other s _ _ _ (fun _ => rfl) hid
  here := by
    rw [modGrp, findWg_modWg_same s x.c.wg (fun w => { w with groups := modifyAt w.groups x.c.grp f }) (fun _ => rfl), h.wg]
    simp only [Option.map_some]
    rw [modifyAt_of_get _ _ _ _ h.grp]

/-- The word after: only sequencers move. -/
theorem advance_step {s : State} {gd : BitVec 3} {x : Ctx} (h : Issues s gd x) :
    GroupStep s (advance s x.c) x (advanceGrp x.c x.g) ∧ OnlyMoves x (advanceGrp x.c x.g) :=
  ⟨modGrp_step h _, rfl⟩

/-- A word that can read its sources runs. -/
theorem withSources_reads {s : State} {x : Ctx} {srcs : List Src} (f : State → State) (h : Reads x srcs x.act) :
    withSources s x srcs f = f s := by
  unfold withSources
  by_cases hp : predicted x = true
  · simp only [hp, h.known hp, h.clean, Bool.and_false, Bool.false_eq_true, if_false, if_true]
  · simp [h.clean, hp]

/-! ## Lane words -/

/-- The state in which a lane word that commits finishes: its entry in the replay queue stands. -/
def afterCheck (s : State) (x : Ctx) (always : Bool) (e : ReplayEntry) : State := { s with cores := coresAfter s x always e }

/-- The state in which a lane word finishes: one that an enabled condition ends has left no entry (R131). -/
def checkedAt (s : State) (x : Ctx) (always : Bool) (e : ReplayEntry) : State :=
  if condLanes x.g (enablesOf x.l) e.result = 0 then afterCheck s x always e else s

theorem checkedWord_free {s : State} {x : Ctx} {srcs : List Src} {always : Bool} (h : LaneFree s x srcs always) (e : ReplayEntry) (f : State → State) :
    checkedWord s x always e f = f (checkedAt s x always e) := by
  unfold checkedWord checkedAt afterCheck coresAfter
  by_cases h1 : isChecked x.l = true
  · by_cases h2 : x.act = 0
    · have hq : entersQueue x always = false := by simp [entersQueue, h2]
      simp [h2, hq]
    · have hc := h.clone h1 h2
      have h2' : (x.act != 0) = true := by simpa using h2
      cases h3 : (always || decide (16 - popCount x.act < popCount x.act)) with
      | true =>
        have hq : entersQueue x always = true := by simp only [entersQueue, h1, h2', h3]; rfl
        obtain ⟨k, hk, hr⟩ := h.room hq
        have hr' : ¬ 64 ≤ k.replayQ.length := by omega
        by_cases hm : condLanes x.g (enablesOf x.l) e.result = 0
        · have hm' : (condLanes x.g (enablesOf x.l) e.result != 0) = false := by simp [hm]
          simp only [h1, h2, hc, hk, hr', hq, hm, decide_false, Bool.not_true, Bool.or_self, Bool.false_eq_true, if_false, if_true, bne_self_eq_false]
          rfl
        · have hm' : (condLanes x.g (enablesOf x.l) e.result != 0) = true := bne_iff_ne.2 hm
          simp only [h1, h2, hc, hk, hr', hm, hm', decide_false, Bool.not_true, Bool.or_self, Bool.false_eq_true, if_false, if_true]
      | false =>
        have hq : entersQueue x always = false := by simp only [entersQueue, h1, h2', h3]; rfl
        simp [h1, hc, hq]
  · have hq : entersQueue x always = false := by simp [entersQueue, h1]
    simp [h1, hq]

/-- The results of a word do not depend on the replay queues. -/
def Blind {α : Type} (s : State) (f : State → α) : Prop := ∀ k, f { s with cores := k } = f s

/-- A lane word free to run, with no enabled condition met, writes its results and its gang goes on (R153, R149). -/
theorem laneWord_next {s : State} {sp : LaneSpec} {x : Ctx} (f : State → Ctx → List LaneOut) (hi : Issues s sp.g x) (hl : sp.ll = none)
    (hb : Blind s (f · x)) (hf : LaneFree s x sp.srcs sp.queue) (hc : condLanes x.g (enablesOf x.l) (f s x) = 0) :
    laneWord s sp f = .next (modGrp (afterCheck s x sp.queue (replayEntry s x sp.srcs (f s x))) x.c.wg x.c.grp
      (fun g => advanceGrp x.c ((f s x).foldl (writeOut s.nextId) g))) := by
  unfold laneWord
  rw [withCtx_next hi]
  have e : ∀ k, f (afterCheck s x sp.queue k) x = f s x := fun k => hb _
  have hq : checkedAt s x sp.queue (replayEntry s x sp.srcs (f s x)) = afterCheck s x sp.queue (replayEntry s x sp.srcs (f s x)) := by
    unfold checkedAt; rw [if_pos]; exact hc
  simp only [hl, withSources_reads _ hf.clean, checkedWord_free hf, hq, laneFinish, e, hc]
  rfl

theorem lanesOf_lt {m : LMask} {l : Nat} (h : l ∈ lanesOf m) : l < 16 := by
  unfold lanesOf lanes16 at h
  simpa using (List.mem_filter.1 h).1

theorem lanesOf_nodup (m : LMask) : (lanesOf m).Nodup := List.Nodup.filter _ List.nodup_range

theorem mem_lanesOf {m : LMask} {l : Nat} : l ∈ lanesOf m ↔ l < 16 ∧ hasLane m l = true := by
  unfold lanesOf lanes16
  simp [List.mem_filter]

/-- The results of a word whose lanes are lanes of ACTIVE, one each. -/
structure GoodOuts (x : Ctx) (outs : List LaneOut) : Prop where
  lt : ∀ o ∈ outs, o.lane < 16
  one : outs.Pairwise (fun a b => a.lane ≠ b.lane)
  clean : ∀ o ∈ outs, o.bad = []

theorem laneWrites_fold {x : Ctx} {outs : List LaneOut} (id : Nat) (h : GoodOuts x outs) :
    LaneWrites x (advanceGrp x.c (outs.foldl (writeOut id) x.g)) (outsSlot outs) (outsBit outs) where
  rest := by
    obtain ⟨v, p, q, e⟩ := foldOut_frame id outs x.g
    rw [advanceGrp_frame, e]
  on := ⟨(outs.foldl (writeOut id) x.g).quads, foldOut_unnoted _ _ _, advanceGrp_again _ _⟩
  slots := by
    intro n l hl
    rw [getV_advanceGrp, getV_foldOut _ _ _ _ _ hl h.lt h.one]
    unfold outsSlot
    cases ho : outOf outs l with
    | none => rfl
    | some o =>
      have hb : o.bad = [] := h.clean o (List.mem_of_find?_eq_some ho)
      simp only [Option.bind_some, outSlot, lastV, Option.map_map, hb]
      rfl
  preds := by
    intro n l hn hl
    rw [getP_advanceGrp, getP_foldOut _ _ _ _ _ hl hn h.lt h.one]
    rfl

/-- The entry that a word leaves in the replay queue records its results. -/
theorem replayEntry_recorded (s : State) (x : Ctx) (srcs : List Src) (outs : List LaneOut) :
    Recorded s x (replayEntry s x srcs outs) (outsSlot outs) (outsBit outs) :=
  ⟨rfl, rfl, rfl, rfl, rfl, fun _ _ _ => rfl, fun _ _ _ => rfl⟩

/-- What a lane word free to run does, whatever its results. -/
theorem laneWord_effect {s : State} {sp : LaneSpec} {x : Ctx} (f : State → Ctx → List LaneOut) (hi : Issues s sp.g x) (hl : sp.ll = none)
    (hb : Blind s (f · x)) (hf : LaneFree s x sp.srcs sp.queue) (hc : condLanes x.g (enablesOf x.l) (f s x) = 0) (hg : GoodOuts x (f s x)) :
    LaneEffect s x sp.queue (laneWord s sp f) (outsSlot (f s x)) (outsBit (f s x)) := by
  have hi' : Issues (afterCheck s x sp.queue (replayEntry s x sp.srcs (f s x))) sp.g x := ⟨hi.cur, hi.wg, hi.grp, hi.launch, hi.act⟩
  refine ⟨_, _, _, laneWord_next f hi hl hb hf hc, replayEntry_recorded s x sp.srcs (f s x), ?_, laneWrites_fold s.nextId hg⟩
  have h := modGrp_step hi' (fun g => advanceGrp x.c ((f s x).foldl (writeOut s.nextId) g))
  exact ⟨rfl, h.others, h.here⟩

/-! ## Results lane by lane -/

theorem outOf_perLane (f : Nat → LaneOut) (hf : ∀ l, (f l).lane = l) (m : LMask) (k : Nat) (hk : k < 16) :
    outOf ((lanesOf m).map f) k = if hasLane m k then some (f k) else none := by
  unfold outOf
  rw [List.find?_map]
  have hc : (fun o : LaneOut => o.lane == k) ∘ f = fun l => l == k := by funext l; simp [hf]
  rw [hc]
  by_cases h : hasLane m k = true
  · have hmem : k ∈ lanesOf m := mem_lanesOf.2 ⟨hk, h⟩
    have : (lanesOf m).find? (fun l => l == k) = some k := by
      rw [List.find?_eq_some_iff_append]
      obtain ⟨as, bs, hab⟩ := List.append_of_mem hmem
      refine ⟨by simp, as, bs, hab, ?_⟩
      intro a ha
      have hn := lanesOf_nodup m
      rw [hab, List.nodup_append] at hn
      have := hn.2.2 a ha k (by simp)
      simpa using this
    simp [this, h]
  · have : (lanesOf m).find? (fun l => l == k) = none := by
      rw [List.find?_eq_none]
      intro a ha
      have := (mem_lanesOf.1 ha).2
      intro e
      simp at e
      subst e
      exact h this
    simp [this, h]

theorem goodOuts_perLane (x : Ctx) (f : Nat → LaneOut) (hf : ∀ l, (f l).lane = l) (hb : ∀ l, (f l).bad = []) : GoodOuts x ((lanesOf x.act).map f) where
  lt := by
    intro o ho
    obtain ⟨l, hl, rfl⟩ := List.mem_map.1 ho
    rw [hf]; exact lanesOf_lt hl
  one := by
    rw [List.pairwise_map]
    refine (lanesOf_nodup x.act).imp ?_
    intro a b h
    rw [hf, hf]; exact h
  clean := by
    intro o ho
    obtain ⟨l, _, rfl⟩ := List.mem_map.1 ho
    exact hb l

theorem condLanes_none (g : Group) (en : BitVec 5) (outs : List LaneOut) (h : ∀ o ∈ outs, o.conds = 0) : condLanes g en outs = 0 := by
  unfold condLanes
  have : ∀ m : LMask, outs.foldl (fun m o => if o.conds &&& en != 0 && hasLane g.counted o.lane then m ||| laneBit o.lane else m) m = m := by
    induction outs with
    | nil => intro m; rfl
    | cons o r ih =>
      intro m
      have ho : o.conds = 0 := h o (by simp)
      rw [List.foldl_cons, ih (fun a ha => h a (by simp [ha]))]
      simp [ho]
  exact this 0

theorem Recorded.congr {s : State} {x : Ctx} {e : ReplayEntry} {v v' : Nat → Nat → Option Word} {p p' : Nat → Nat → Option Bool} (h : Recorded s x e v p)
    (hv : ∀ n l, l < 16 → v n l = v' n l) (hp : ∀ n l, l < 16 → p n l = p' n l) : Recorded s x e v' p' :=
  ⟨h.wg, h.grp, h.pc, h.time, h.again, fun n l hl => by rw [h.slots n l hl, hv n l hl], fun n l hl => by rw [h.preds n l hl, hp n l hl]⟩

/-- Effects that agree on the sixteen lanes are one effect. -/
theorem LaneEffect.congr {s : State} {x : Ctx} {q : Bool} {o : Host.Outcome State Fault Refusal} {v v' : Nat → Nat → Option Word} {p p' : Nat → Nat → Option Bool}
    (h : LaneEffect s x q o v p) (hv : ∀ n l, l < 16 → v n l = v' n l) (hp : ∀ n l, l < 16 → p n l = p' n l) : LaneEffect s x q o v' p' := by
  obtain ⟨t, g, e, h1, hr, h2, h3⟩ := h
  exact ⟨t, g, e, h1, hr.congr hv hp, h2, h3.rest, h3.on, fun n l hl => by rw [h3.slots n l hl, hv n l hl], fun n l hn hl => by rw [h3.preds n l hn hl, hp n l hl]⟩

/-- A word whose lanes each have a result of their own, with no condition met. -/
theorem laneWord_lanes {s : State} {sp : LaneSpec} {x : Ctx} (f : State → Ctx → Nat → LaneOut) (hi : Issues s sp.g x) (hl : sp.ll = none)
    (hb : Blind s (f · x)) (hf : LaneFree s x sp.srcs sp.queue) (hlane : ∀ l, (f s x l).lane = l) (hbad : ∀ l, (f s x l).bad = [])
    (hc : condLanes x.g (enablesOf x.l) (perLane f s x) = 0) :
    LaneEffect s x sp.queue (laneWord s sp (perLane f))
      (fun n l => if hasLane x.act l then lastV (f s x l) n else none)
      (fun n l => if hasLane x.act l then outBit (f s x l) n else none) := by
  have hb' : Blind s (perLane f · x) := fun k => by simp only [perLane, hb k]
  refine (laneWord_effect (perLane f) hi hl hb' hf hc (goodOuts_perLane x _ hlane hbad)).congr ?_ ?_ <;> intro n l hlt
  · unfold outsSlot perLane
    rw [outOf_perLane _ hlane _ _ hlt]
    by_cases h : hasLane x.act l = true <;> simp [h, lastV]
  · unfold outsBit perLane
    rw [outOf_perLane _ hlane _ _ hlt]
    by_cases h : hasLane x.act l = true <;> simp [h]

/-! ## Results of one register, a pair, a predicate -/

@[simp] theorem lastV_outV (l d n : Nat) (y : Word) : lastV (outV l d y) n = if n = d then some y else none := by
  by_cases h : n = d
  · simp [lastV, outV, h]
  · have h' : (d == n) = false := by simp; omega
    simp [lastV, outV, List.find?, h, h']

@[simp] theorem lastV_outPair (l d n y : Nat) :
    lastV (outPair l d y) n = if n = d then some (wordOf y) else if n = d + 1 then some (wordOf (y / 2 ^ 32)) else none := by
  by_cases h : n = d
  · subst h
    have h' : (n + 1 == n) = false := by simp
    simp [lastV, outPair, List.find?, h']
  · have h0 : (d == n) = false := by simp; omega
    by_cases h1 : n = d + 1
    · subst h1; simp [lastV, outPair]
    · have h2 : (d + 1 == n) = false := by simp; omega
      simp [lastV, outPair, List.find?, h, h0, h1, h2]

@[simp] theorem lastV_outP (l d n : Nat) (b : Bool) : lastV (outP l d b) n = none := rfl
@[simp] theorem outBit_outP (l d n : Nat) (b : Bool) : outBit (outP l d b) n = if n = d then some b else none := by
  by_cases h : n = d
  · simp [outBit, outP, h]
  · have h' : (d == n) = false := by simp; omega
    simp [outBit, outP, List.find?, h, h']

@[simp] theorem outBit_outV (l d n : Nat) (y : Word) : outBit (outV l d y) n = none := rfl
@[simp] theorem outBit_outPair (l d n y : Nat) : outBit (outPair l d y) n = none := rfl
@[simp] theorem outBit_outInt (ty l d n y : Nat) : outBit (outInt ty l d y) n = none := by unfold outInt; split <;> rfl
@[simp] theorem outBit_outFlt (ty l d n y : Nat) : outBit (outFlt ty l d y) n = none := by unfold outFlt; split <;> rfl

@[simp] theorem outV_lane (l d : Nat) (y : Word) : (outV l d y).lane = l := rfl
@[simp] theorem outP_lane (l d : Nat) (b : Bool) : (outP l d b).lane = l := rfl
@[simp] theorem outPair_lane (l d y : Nat) : (outPair l d y).lane = l := rfl
@[simp] theorem outInt_lane (ty l d y : Nat) : (outInt ty l d y).lane = l := by unfold outInt; split <;> rfl
@[simp] theorem outFlt_lane (ty l d y : Nat) : (outFlt ty l d y).lane = l := by unfold outFlt; split <;> rfl
@[simp] theorem outV_bad (l d : Nat) (y : Word) : (outV l d y).bad = [] := rfl
@[simp] theorem outP_bad (l d : Nat) (b : Bool) : (outP l d b).bad = [] := rfl
@[simp] theorem outPair_bad (l d y : Nat) : (outPair l d y).bad = [] := rfl
@[simp] theorem outInt_bad (ty l d y : Nat) : (outInt ty l d y).bad = [] := by unfold outInt; split <;> rfl
@[simp] theorem outFlt_bad (ty l d y : Nat) : (outFlt ty l d y).bad = [] := by unfold outFlt; split <;> rfl
@[simp] theorem outV_conds (l d : Nat) (y : Word) : (outV l d y).conds = 0 := rfl
@[simp] theorem outP_conds (l d : Nat) (b : Bool) : (outP l d b).conds = 0 := rfl
@[simp] theorem outPair_conds (l d y : Nat) : (outPair l d y).conds = 0 := rfl
@[simp] theorem outInt_conds (ty l d y : Nat) : (outInt ty l d y).conds = 0 := by unfold outInt; split <;> rfl
@[simp] theorem outFlt_conds (ty l d y : Nat) : (outFlt ty l d y).conds = 0 := by unfold outFlt; split <;> rfl

@[simp] theorem lastV_withOps (o : LaneOut) (c : BitVec 5) (a b k n : Nat) : lastV (withOps o c a b k) n = lastV o n := rfl
@[simp] theorem outBit_withOps (o : LaneOut) (c : BitVec 5) (a b k n : Nat) : outBit (withOps o c a b k) n = outBit o n := rfl
@[simp] theorem withOps_lane (o : LaneOut) (c : BitVec 5) (a b k : Nat) : (withOps o c a b k).lane = o.lane := rfl
@[simp] theorem withOps_bad (o : LaneOut) (c : BitVec 5) (a b k : Nat) : (withOps o c a b k).bad = o.bad := rfl
@[simp] theorem withOps_conds (o : LaneOut) (c : BitVec 5) (a b k : Nat) : (withOps o c a b k).conds = c := rfl

theorem lastV_outInt (x : Ctx) (ty d n l : Nat) (f : Nat → Nat) :
    (if hasLane x.act l then lastV (outInt ty l d (f l)) n else none) = toInt x ty d f n l := by
  unfold outInt toInt
  by_cases h : hasLane x.act l = true <;> by_cases hp : tyPair ty = true <;> simp [h, hp, toPair, toReg]

theorem lastV_outFlt (x : Ctx) (ty d n l : Nat) (f : Nat → Nat) :
    (if hasLane x.act l then lastV (outFlt ty l d (f l)) n else none) = toFlt x ty d f n l := by
  unfold outFlt toFlt
  by_cases h : hasLane x.act l = true <;> by_cases hp : ty = 11 <;> simp [h, hp, toPair, toReg]

/-- Results that meet no condition at all trap nowhere. -/
theorem condLanes_perLane (g : Group) (en : BitVec 5) (f : State → Ctx → Nat → LaneOut) (s : State) (x : Ctx) (h : ∀ l, (f s x l).conds = 0) :
    condLanes g en (perLane f s x) = 0 := by
  apply condLanes_none
  intro o ho
  obtain ⟨l, _, rfl⟩ := List.mem_map.1 ho
  exact h l

/-- A word with no condition and no long-latency form: what it writes, lane by lane. -/
theorem laneWord_plain {s : State} {g : BitVec 3} {srcs : List Src} {x : Ctx} (f : State → Ctx → Nat → LaneOut) (v : Nat → Nat → Option Word)
    (p : Nat → Nat → Option Bool) (q : Bool) (hi : Issues s g x) (hf : LaneFree s x srcs q) (hb : Blind s (f · x)) (hlane : ∀ l, (f s x l).lane = l)
    (hbad : ∀ l, (f s x l).bad = []) (hc : ∀ l, (f s x l).conds = 0)
    (hv : ∀ n l, (if hasLane x.act l then lastV (f s x l) n else none) = v n l)
    (hp : ∀ n l, (if hasLane x.act l then outBit (f s x l) n else none) = p n l) :
    LaneEffect s x q (laneWord s { plainSpec g srcs with queue := q } (perLane f)) v p :=
  (laneWord_lanes (sp := { plainSpec g srcs with queue := q }) f hi rfl hb hf hlane hbad (condLanes_perLane _ _ _ _ _ hc)).congr
    (fun n l _ => hv n l) (fun n l _ => hp n l)

/-- A word that no replay issues again joins no other word. -/
theorem heldTwin_first {x : Ctx} (en : BitVec 5) (h : x.c.replay = false) : heldTwin x en = none := by simp [heldTwin, h]

/-- A long-latency word with no lane in ACTIVE completes at once (R153). -/
theorem laneWord_idle {s : State} {sp : LaneSpec} {x : Ctx} {fs : Bool} (f : State → Ctx → Nat → LaneOut) (hi : Issues s sp.g x) (hl : sp.ll = some fs)
    (hf : LaneFree s x sp.srcs sp.queue) (hfull : flagFull x.g (flagSel x.c.clause fs) = false) : Idle s x (laneWord s sp (perLane f)) := by
  intro h0
  refine ⟨_, _, ?_, advance_step hi⟩
  unfold laneWord
  rw [withCtx_next hi]
  have he : ∀ t, (perLane f t x).isEmpty = true := fun t => by
    have : lanesOf x.act = [] := by rw [h0]; decide
    simp [perLane, this]
  simp only [hl, hfull, withSources_reads _ hf.clean, checkedWord, h0, laneFinish, he, if_true, Bool.false_eq_true, if_false, decide_true, Bool.or_true]

/-- The results of a word lane by lane carry the lane's own. -/
theorem perLane_carries {x : Ctx} {s : State} {f : State → Ctx → Nat → LaneOut} {c : Nat → BitVec 5} {a b k : Nat → Nat} (hlane : ∀ l, (f s x l).lane = l)
    (hc : ∀ l, (f s x l).conds = c l) (ha : ∀ l, (f s x l).opa = dwordOf (a l)) (hb : ∀ l, (f s x l).opb = dwordOf (b l)) (hk : ∀ l, (f s x l).opc = dwordOf (k l)) :
    Carries (perLane f s x) x.act c a b k := fun l hl hm =>
  ⟨f s x l, by rw [perLane, outOf_perLane _ hlane _ _ hl, if_pos hm], hc l, ha l, hb l, hk l⟩

@[simp] theorem flagInc_quads (g : Group) (f : Option Nat) : (flagInc g f).quads = g.quads := by cases f <;> rfl

/-- The end of the issue of a long-latency word moves quads alone, and is what moves them. -/
theorem issuedGrp_frame (c : Issue) (en : BitVec 5) (g : Group) :
    (if en = 0 then advanceGrp c g else advanceHold c g) = { g with quads := (if en = 0 then advanceGrp c g else advanceHold c g).quads } := by
  split
  · rw [advanceGrp_frame]
  · rw [advanceHold_frame]

theorem issuedGrp_again (c : Issue) (en : BitVec 5) (g : Group) :
    (if en = 0 then advanceGrp c g else advanceHold c g)
      = (if en = 0 then advanceGrp else advanceHold) c { (if en = 0 then advanceGrp c g else advanceHold c g) with quads := g.quads } := by
  split
  · exact advanceGrp_again _ _
  · exact advanceHold_again _ _

/-- Whether some lane traps, by the conditions of each (R149). -/
theorem condLanes_meets {x : Ctx} {f : Nat → LaneOut} (c : Nat → BitVec 5) (hc : ∀ l, (f l).conds = c l) (hlane : ∀ l, (f l).lane = l) :
    condLanes x.g (enablesOf x.l) ((lanesOf x.act).map f) = 0 ↔ ¬Meets x c := by
  have hbit : ∀ l, l < 16 → laneBit l ≠ 0 := by
    intro l hl
    have : ∀ l ∈ List.range 16, laneBit l ≠ 0 := by decide
    exact this l (by simpa using hl)
  have key : ∀ (ls : List Nat) (m : LMask), (∀ l ∈ ls, l < 16) →
      ((ls.map f).foldl (fun m o => if o.conds &&& enablesOf x.l != 0 && hasLane x.g.counted o.lane then m ||| laneBit o.lane else m) m = 0
        ↔ m = 0 ∧ ∀ l ∈ ls, ¬(hasLane x.g.counted l = true ∧ c l &&& enablesOf x.l ≠ 0)) := by
    intro ls
    induction ls with
    | nil => intro m _; simp
    | cons a r ih =>
      intro m hr
      rw [List.map_cons, List.foldl_cons, ih _ (fun l hl => hr l (by simp [hl])), hc, hlane]
      have ha := hbit a (hr a (by simp))
      by_cases hm : hasLane x.g.counted a = true ∧ c a &&& enablesOf x.l ≠ 0
      · have hb : (c a &&& enablesOf x.l != 0 && hasLane x.g.counted a) = true := by rw [hm.1, bne_iff_ne.2 hm.2]; rfl
        rw [if_pos hb]
        constructor
        · intro h
          have h0 : m = 0 ∧ laneBit a = 0 := by simpa [BitVec.or_eq_zero_iff] using h.1
          exact absurd h0.2 ha
        · intro h; exact absurd hm (h.2 a (by simp))
      · have hb : ¬(c a &&& enablesOf x.l != 0 && hasLane x.g.counted a) = true := by
          intro h; rw [Bool.and_eq_true] at h; exact hm ⟨h.2, bne_iff_ne.1 h.1⟩
        rw [if_neg hb]
        constructor
        · intro h
          refine ⟨h.1, fun l hl => ?_⟩
          rcases List.mem_cons.1 hl with rfl | h1
          · exact hm
          · exact h.2 l h1
        · intro h; exact ⟨h.1, fun l hl => h.2 l (by simp [hl])⟩
  unfold condLanes
  rw [key _ _ (fun l hl => lanesOf_lt hl)]
  constructor
  · rintro ⟨-, h⟩ ⟨l, h1, h2, h3, h4⟩
    exact h l (mem_lanesOf.2 ⟨h1, h2⟩) ⟨h3, h4⟩
  · intro h
    refine ⟨rfl, fun l hl hm => h ⟨l, (mem_lanesOf.1 hl).1, (mem_lanesOf.1 hl).2, hm.1, hm.2⟩⟩

/-- The state a lane word finishes in, with the cores it leaves. -/
theorem checkedAt_cores (s : State) (x : Ctx) (always : Bool) (e : ReplayEntry) :
    checkedAt s x always e = { s with cores := if condLanes x.g (enablesOf x.l) e.result = 0 then coresAfter s x always e else s.cores } := by
  unfold checkedAt afterCheck
  split <;> rfl

/-- A long-latency word free to run: it issues its pending operation, joins the word that stands, or goes back (R124, R126, R154). -/
theorem laneWord_long {s : State} {sp : LaneSpec} {x : Ctx} {fs : Bool} (f : State → Ctx → Nat → LaneOut) (c : Nat → BitVec 5) (hi : Issues s sp.g x)
    (hl : sp.ll = some fs) (hs : sp.queue = false) (hb : Blind s (f · x)) (hlane : ∀ l, (f s x l).lane = l) (hc : ∀ l, (f s x l).conds = c l)
    (hp : ∀ l n, outBit (f s x l) n = none) {carry : List LaneOut → Prop} (hcar : carry (perLane f s x)) :
    LongWord s x fs sp.srcs (laneWord s sp (perLane f)) (fun n l => if hasLane x.act l then lastV (f s x l) n else none) sp.wtype c carry := by
  intro hlong
  have hf : LaneFree s x sp.srcs sp.queue := hs ▸ hlong.free
  have hfull := hlong.flag
  refine ⟨laneWord_idle f hi hl hf hfull, fun hact => ?_⟩
  have hb' : Blind s (perLane f · x) := fun k => by simp only [perLane, hb k]
  have hne : lanesOf x.act ≠ [] := by
    intro h
    apply hact
    have : ∀ l, l < 16 → hasLane x.act l = false := by
      intro l hlt
      by_contra hc
      have : l ∈ lanesOf x.act := mem_lanesOf.2 ⟨hlt, by simpa using hc⟩
      rw [h] at this; cases this
    apply BitVec.eq_of_getLsbD_eq
    intro i hi2
    simpa [hasLane] using this i hi2
  have he : (perLane f s x).isEmpty = false := by simp [perLane, hne]
  have hv : ∀ n l, l < 16 → outsSlot (perLane f s x) n l = if hasLane x.act l then lastV (f s x l) n else none := by
    intro n l hlt
    unfold outsSlot perLane
    rw [outOf_perLane _ hlane _ _ hlt]
    by_cases h : hasLane x.act l = true <;> simp [h]
  have hq : ∀ n l, l < 16 → outsBit (perLane f s x) n l = none := by
    intro n l hlt
    unfold outsBit perLane
    rw [outOf_perLane _ hlane _ _ hlt]
    by_cases h : hasLane x.act l = true <;> simp [h, hp]
  have hmeet : condLanes x.g (enablesOf x.l) (perLane f s x) = 0 ↔ ¬Meets x c := condLanes_meets c hc hlane
  let e := replayEntry s x sp.srcs (perLane f s x)
  have hrec := (replayEntry_recorded s x sp.srcs (perLane f s x)).congr hv hq
  have hgo : laneWord s sp (perLane f) = .next (laneFinish (checkedAt s x false e) x sp (perLane f s x)) := by
    unfold laneWord
    rw [withCtx_next hi]
    have e' : perLane f (checkedAt s x false e) x = perLane f s x := by rw [checkedAt_cores]; exact hb' _
    rw [hs] at hf
    simp only [hl, hs, hfull, Bool.false_eq_true, if_false, withSources_reads _ hf.clean, checkedWord_free hf]
    rw [show checkedAt s x false (replayEntry s x sp.srcs (perLane f s x)) = checkedAt s x false e from rfl, e']
  rw [hgo, checkedAt_cores]
  generalize hk : (if condLanes x.g (enablesOf x.l) e.result = 0 then coresAfter s x false e else s.cores) = cs
  have hi' : Issues { s with cores := cs } sp.g x := ⟨hi.cur, hi.wg, hi.grp, hi.launch, hi.act⟩
  have hi2 : Issues { s with cores := cs, nextId := s.nextId + 1 } sp.g x := ⟨hi.cur, hi.wg, hi.grp, hi.launch, hi.act⟩
  refine ⟨fun hfirst => ?_, fun k hk2 => ?_, fun hr ht hm => ?_⟩
  · have ht : heldTwin x (enablesOf x.l) = none := by
      rcases hfirst with h | h
      · exact heldTwin_first _ h
      · exact h.1
    have hn : (x.c.replay && condLanes x.g (enablesOf x.l) (perLane f s x) != 0) = false := by
      rcases hfirst with h | h
      · simp [h]
      · simp [hmeet.2 h.2]
    unfold laneFinish
    simp only [hl, he, ht, hn, Bool.false_eq_true, if_false]
    let o := laneOp { s with cores := cs } x sp.wtype (flagSel x.c.clause fs) (perLane f s x)
    have hst := modGrp_step hi2 (fun g =>
      let g1 := { flagInc g (flagSel x.c.clause fs) with ops := g.ops ++ [o] }
      if enablesOf x.l = 0 then advanceGrp x.c g1 else advanceHold x.c g1)
    refine ⟨_, _, o, e, rfl, hrec, ?_, hst.others, hst.here, ?_, ?_, rfl, rfl, rfl, rfl, rfl, rfl, rfl, hcar, hv, hq⟩
    · rw [← hk]; rfl
    · exact issuedGrp_frame _ _ _
    · have hq2 : (flagInc x.g (flagSel x.c.clause fs)).quads = x.g.quads := flagInc_quads _ _
      have ha := issuedGrp_again x.c (enablesOf x.l) { flagInc x.g (flagSel x.c.clause fs) with ops := x.g.ops ++ [o] }
      rw [show ({ flagInc x.g (flagSel x.c.clause fs) with ops := x.g.ops ++ [o] } : Group).quads = x.g.quads from hq2] at ha
      exact ha
  · unfold laneFinish
    simp only [hl, he, hk2, Bool.false_eq_true, if_false]
    have hst := modGrp_step hi' (fun g => advanceGrp x.c { flagInc g k.flag with
        ops := g.ops.map (fun o => if o.id = k.id then { o with lanes := o.lanes ||| x.act, outs := o.outs ++ perLane f s x, more := o.more + 1 } else o) })
    refine ⟨_, _, e, perLane f s x, rfl, hrec, hcar, hv, hq, ?_, hst.others, hst.here, rfl⟩
    rw [← hk]; rfl
  · have hn : (x.c.replay && condLanes x.g (enablesOf x.l) (perLane f s x) != 0) = true := by
      have : condLanes x.g (enablesOf x.l) (perLane f s x) ≠ 0 := fun h => hmeet.1 h hm
      rw [hr, bne_iff_ne.2 this]; rfl
    have h0 : condLanes x.g (enablesOf x.l) e.result ≠ 0 := fun h => hmeet.1 h hm
    rw [if_neg h0] at hk
    unfold laneFinish
    simp only [hl, he, ht, hn, Bool.false_eq_true, if_false, if_true]
    unfold raise
    rw [if_pos hr]
    subst hk
    exact ⟨_, rfl, modGrp_step hi _⟩

end Sys2Proof.Machine
end

