-- ==== Sys2Proof/Laws/State.lean ====
section
/-! SUPPORT. What each update of the state leaves alone, field by field. -/
namespace Sys2Proof.Machine

/-! ## modWg -/

@[simp] theorem modWg_agenda (s : State) (id : Nat) (f : Workgroup → Workgroup) : (modWg s id f).agenda = s.agenda := rfl
@[simp] theorem modWg_turn (s : State) (id : Nat) (f : Workgroup → Workgroup) : (modWg s id f).turn = s.turn := rfl
@[simp] theorem modWg_freeCtr (s : State) (id : Nat) (f : Workgroup → Workgroup) : (modWg s id f).freeCtr = s.freeCtr := rfl
@[simp] theorem modWg_nextId (s : State) (id : Nat) (f : Workgroup → Workgroup) : (modWg s id f).nextId = s.nextId := rfl
@[simp] theorem modWg_cur (s : State) (id : Nat) (f : Workgroup → Workgroup) : (modWg s id f).cur = s.cur := rfl
@[simp] theorem modWg_curCall (s : State) (id : Nat) (f : Workgroup → Workgroup) : (modWg s id f).curCall = s.curCall := rfl
@[simp] theorem modWg_arg (s : State) (id : Nat) (f : Workgroup → Workgroup) : (modWg s id f).arg = s.arg := rfl
@[simp] theorem modWg_clk (s : State) (id : Nat) (f : Workgroup → Workgroup) : (modWg s id f).clk = s.clk := rfl
@[simp] theorem modWg_compMem (s : State) (id : Nat) (f : Workgroup → Workgroup) : (modWg s id f).compMem = s.compMem := rfl
@[simp] theorem modWg_compPoison (s : State) (id : Nat) (f : Workgroup → Workgroup) : (modWg s id f).compPoison = s.compPoison := rfl
@[simp] theorem modWg_outbox (s : State) (id : Nat) (f : Workgroup → Workgroup) : (modWg s id f).outbox = s.outbox := rfl
@[simp] theorem modWg_inbox (s : State) (id : Nat) (f : Workgroup → Workgroup) : (modWg s id f).inbox = s.inbox := rfl
@[simp] theorem modWg_answers (s : State) (id : Nat) (f : Workgroup → Workgroup) : (modWg s id f).answers = s.answers := rfl
@[simp] theorem modWg_boot (s : State) (id : Nat) (f : Workgroup → Workgroup) : (modWg s id f).boot = s.boot := rfl
@[simp] theorem modWg_imgReq (s : State) (id : Nat) (f : Workgroup → Workgroup) : (modWg s id f).imgReq = s.imgReq := rfl
@[simp] theorem modWg_sram (s : State) (id : Nat) (f : Workgroup → Workgroup) : (modWg s id f).sram = s.sram := rfl
@[simp] theorem modWg_fwImage (s : State) (id : Nat) (f : Workgroup → Workgroup) : (modWg s id f).fwImage = s.fwImage := rfl
@[simp] theorem modWg_fwVersion (s : State) (id : Nat) (f : Workgroup → Workgroup) : (modWg s id f).fwVersion = s.fwVersion := rfl
@[simp] theorem modWg_fuseMin (s : State) (id : Nat) (f : Workgroup → Workgroup) : (modWg s id f).fuseMin = s.fuseMin := rfl
@[simp] theorem modWg_devSeq (s : State) (id : Nat) (f : Workgroup → Workgroup) : (modWg s id f).devSeq = s.devSeq := rfl
@[simp] theorem modWg_incarnation (s : State) (id : Nat) (f : Workgroup → Workgroup) : (modWg s id f).incarnation = s.incarnation := rfl
@[simp] theorem modWg_mapBuf (s : State) (id : Nat) (f : Workgroup → Workgroup) : (modWg s id f).mapBuf = s.mapBuf := rfl
@[simp] theorem modWg_mapGen (s : State) (id : Nat) (f : Workgroup → Workgroup) : (modWg s id f).mapGen = s.mapGen := rfl
@[simp] theorem modWg_mapWait (s : State) (id : Nat) (f : Workgroup → Workgroup) : (modWg s id f).mapWait = s.mapWait := rfl
@[simp] theorem modWg_mapDirty (s : State) (id : Nat) (f : Workgroup → Workgroup) : (modWg s id f).mapDirty = s.mapDirty := rfl
@[simp] theorem modWg_mapHash (s : State) (id : Nat) (f : Workgroup → Workgroup) : (modWg s id f).mapHash = s.mapHash := rfl
@[simp] theorem modWg_heldReports (s : State) (id : Nat) (f : Workgroup → Workgroup) : (modWg s id f).heldReports = s.heldReports := rfl
@[simp] theorem modWg_mapCovers (s : State) (id : Nat) (f : Workgroup → Workgroup) : (modWg s id f).mapCovers = s.mapCovers := rfl
@[simp] theorem modWg_retLists (s : State) (id : Nat) (f : Workgroup → Workgroup) : (modWg s id f).retLists = s.retLists := rfl
@[simp] theorem modWg_parts (s : State) (id : Nat) (f : Workgroup → Workgroup) : (modWg s id f).parts = s.parts := rfl
@[simp] theorem modWg_remap (s : State) (id : Nat) (f : Workgroup → Workgroup) : (modWg s id f).remap = s.remap := rfl
@[simp] theorem modWg_spares (s : State) (id : Nat) (f : Workgroup → Workgroup) : (modWg s id f).spares = s.spares := rfl
@[simp] theorem modWg_links (s : State) (id : Nat) (f : Workgroup → Workgroup) : (modWg s id f).links = s.links := rfl
@[simp] theorem modWg_mem (s : State) (id : Nat) (f : Workgroup → Workgroup) : (modWg s id f).mem = s.mem := rfl
@[simp] theorem modWg_memPoison (s : State) (id : Nat) (f : Workgroup → Workgroup) : (modWg s id f).memPoison = s.memPoison := rfl
@[simp] theorem modWg_stks (s : State) (id : Nat) (f : Workgroup → Workgroup) : (modWg s id f).stks = s.stks := rfl
@[simp] theorem modWg_dies (s : State) (id : Nat) (f : Workgroup → Workgroup) : (modWg s id f).dies = s.dies := rfl
@[simp] theorem modWg_locks (s : State) (id : Nat) (f : Workgroup → Workgroup) : (modWg s id f).locks = s.locks := rfl
@[simp] theorem modWg_faults (s : State) (id : Nat) (f : Workgroup → Workgroup) : (modWg s id f).faults = s.faults := rfl
@[simp] theorem modWg_shoots (s : State) (id : Nat) (f : Workgroup → Workgroup) : (modWg s id f).shoots = s.shoots := rfl
@[simp] theorem modWg_cores (s : State) (id : Nat) (f : Workgroup → Workgroup) : (modWg s id f).cores = s.cores := rfl
@[simp] theorem modWg_evacs (s : State) (id : Nat) (f : Workgroup → Workgroup) : (modWg s id f).evacs = s.evacs := rfl
@[simp] theorem modWg_launches (s : State) (id : Nat) (f : Workgroup → Workgroup) : (modWg s id f).launches = s.launches := rfl
@[simp] theorem modWg_arrivals (s : State) (id : Nat) (f : Workgroup → Workgroup) : (modWg s id f).arrivals = s.arrivals := rfl
@[simp] theorem modWg_copies (s : State) (id : Nat) (f : Workgroup → Workgroup) : (modWg s id f).copies = s.copies := rfl
@[simp] theorem modWg_calls (s : State) (id : Nat) (f : Workgroup → Workgroup) : (modWg s id f).calls = s.calls := rfl

/-! ## modGrp -/

@[simp] theorem modGrp_agenda (s : State) (id k : Nat) (f : Group → Group) : (modGrp s id k f).agenda = s.agenda := rfl
@[simp] theorem modGrp_turn (s : State) (id k : Nat) (f : Group → Group) : (modGrp s id k f).turn = s.turn := rfl
@[simp] theorem modGrp_freeCtr (s : State) (id k : Nat) (f : Group → Group) : (modGrp s id k f).freeCtr = s.freeCtr := rfl
@[simp] theorem modGrp_nextId (s : State) (id k : Nat) (f : Group → Group) : (modGrp s id k f).nextId = s.nextId := rfl
@[simp] theorem modGrp_cur (s : State) (id k : Nat) (f : Group → Group) : (modGrp s id k f).cur = s.cur := rfl
@[simp] theorem modGrp_curCall (s : State) (id k : Nat) (f : Group → Group) : (modGrp s id k f).curCall = s.curCall := rfl
@[simp] theorem modGrp_arg (s : State) (id k : Nat) (f : Group → Group) : (modGrp s id k f).arg = s.arg := rfl
@[simp] theorem modGrp_clk (s : State) (id k : Nat) (f : Group → Group) : (modGrp s id k f).clk = s.clk := rfl
@[simp] theorem modGrp_compMem (s : State) (id k : Nat) (f : Group → Group) : (modGrp s id k f).compMem = s.compMem := rfl
@[simp] theorem modGrp_compPoison (s : State) (id k : Nat) (f : Group → Group) : (modGrp s id k f).compPoison = s.compPoison := rfl
@[simp] theorem modGrp_outbox (s : State) (id k : Nat) (f : Group → Group) : (modGrp s id k f).outbox = s.outbox := rfl
@[simp] theorem modGrp_inbox (s : State) (id k : Nat) (f : Group → Group) : (modGrp s id k f).inbox = s.inbox := rfl
@[simp] theorem modGrp_answers (s : State) (id k : Nat) (f : Group → Group) : (modGrp s id k f).answers = s.answers := rfl
@[simp] theorem modGrp_boot (s : State) (id k : Nat) (f : Group → Group) : (modGrp s id k f).boot = s.boot := rfl
@[simp] theorem modGrp_imgReq (s : State) (id k : Nat) (f : Group → Group) : (modGrp s id k f).imgReq = s.imgReq := rfl
@[simp] theorem modGrp_sram (s : State) (id k : Nat) (f : Group → Group) : (modGrp s id k f).sram = s.sram := rfl
@[simp] theorem modGrp_fwImage (s : State) (id k : Nat) (f : Group → Group) : (modGrp s id k f).fwImage = s.fwImage := rfl
@[simp] theorem modGrp_fwVersion (s : State) (id k : Nat) (f : Group → Group) : (modGrp s id k f).fwVersion = s.fwVersion := rfl
@[simp] theorem modGrp_fuseMin (s : State) (id k : Nat) (f : Group → Group) : (modGrp s id k f).fuseMin = s.fuseMin := rfl
@[simp] theorem modGrp_devSeq (s : State) (id k : Nat) (f : Group → Group) : (modGrp s id k f).devSeq = s.devSeq := rfl
@[simp] theorem modGrp_incarnation (s : State) (id k : Nat) (f : Group → Group) : (modGrp s id k f).incarnation = s.incarnation := rfl
@[simp] theorem modGrp_mapBuf (s : State) (id k : Nat) (f : Group → Group) : (modGrp s id k f).mapBuf = s.mapBuf := rfl
@[simp] theorem modGrp_mapGen (s : State) (id k : Nat) (f : Group → Group) : (modGrp s id k f).mapGen = s.mapGen := rfl
@[simp] theorem modGrp_mapWait (s : State) (id k : Nat) (f : Group → Group) : (modGrp s id k f).mapWait = s.mapWait := rfl
@[simp] theorem modGrp_mapDirty (s : State) (id k : Nat) (f : Group → Group) : (modGrp s id k f).mapDirty = s.mapDirty := rfl
@[simp] theorem modGrp_mapHash (s : State) (id k : Nat) (f : Group → Group) : (modGrp s id k f).mapHash = s.mapHash := rfl
@[simp] theorem modGrp_heldReports (s : State) (id k : Nat) (f : Group → Group) : (modGrp s id k f).heldReports = s.heldReports := rfl
@[simp] theorem modGrp_mapCovers (s : State) (id k : Nat) (f : Group → Group) : (modGrp s id k f).mapCovers = s.mapCovers := rfl
@[simp] theorem modGrp_retLists (s : State) (id k : Nat) (f : Group → Group) : (modGrp s id k f).retLists = s.retLists := rfl
@[simp] theorem modGrp_parts (s : State) (id k : Nat) (f : Group → Group) : (modGrp s id k f).parts = s.parts := rfl
@[simp] theorem modGrp_remap (s : State) (id k : Nat) (f : Group → Group) : (modGrp s id k f).remap = s.remap := rfl
@[simp] theorem modGrp_spares (s : State) (id k : Nat) (f : Group → Group) : (modGrp s id k f).spares = s.spares := rfl
@[simp] theorem modGrp_links (s : State) (id k : Nat) (f : Group → Group) : (modGrp s id k f).links = s.links := rfl
@[simp] theorem modGrp_mem (s : State) (id k : Nat) (f : Group → Group) : (modGrp s id k f).mem = s.mem := rfl
@[simp] theorem modGrp_memPoison (s : State) (id k : Nat) (f : Group → Group) : (modGrp s id k f).memPoison = s.memPoison := rfl
@[simp] theorem modGrp_stks (s : State) (id k : Nat) (f : Group → Group) : (modGrp s id k f).stks = s.stks := rfl
@[simp] theorem modGrp_dies (s : State) (id k : Nat) (f : Group → Group) : (modGrp s id k f).dies = s.dies := rfl
@[simp] theorem modGrp_locks (s : State) (id k : Nat) (f : Group → Group) : (modGrp s id k f).locks = s.locks := rfl
@[simp] theorem modGrp_faults (s : State) (id k : Nat) (f : Group → Group) : (modGrp s id k f).faults = s.faults := rfl
@[simp] theorem modGrp_shoots (s : State) (id k : Nat) (f : Group → Group) : (modGrp s id k f).shoots = s.shoots := rfl
@[simp] theorem modGrp_cores (s : State) (id k : Nat) (f : Group → Group) : (modGrp s id k f).cores = s.cores := rfl
@[simp] theorem modGrp_evacs (s : State) (id k : Nat) (f : Group → Group) : (modGrp s id k f).evacs = s.evacs := rfl
@[simp] theorem modGrp_launches (s : State) (id k : Nat) (f : Group → Group) : (modGrp s id k f).launches = s.launches := rfl
@[simp] theorem modGrp_arrivals (s : State) (id k : Nat) (f : Group → Group) : (modGrp s id k f).arrivals = s.arrivals := rfl
@[simp] theorem modGrp_copies (s : State) (id k : Nat) (f : Group → Group) : (modGrp s id k f).copies = s.copies := rfl
@[simp] theorem modGrp_calls (s : State) (id k : Nat) (f : Group → Group) : (modGrp s id k f).calls = s.calls := rfl

/-! ## modLaunch -/

@[simp] theorem modLaunch_agenda (s : State) (id : Nat) (f : Launch → Launch) : (modLaunch s id f).agenda = s.agenda := rfl
@[simp] theorem modLaunch_turn (s : State) (id : Nat) (f : Launch → Launch) : (modLaunch s id f).turn = s.turn := rfl
@[simp] theorem modLaunch_freeCtr (s : State) (id : Nat) (f : Launch → Launch) : (modLaunch s id f).freeCtr = s.freeCtr := rfl
@[simp] theorem modLaunch_nextId (s : State) (id : Nat) (f : Launch → Launch) : (modLaunch s id f).nextId = s.nextId := rfl
@[simp] theorem modLaunch_cur (s : State) (id : Nat) (f : Launch → Launch) : (modLaunch s id f).cur = s.cur := rfl
@[simp] theorem modLaunch_curCall (s : State) (id : Nat) (f : Launch → Launch) : (modLaunch s id f).curCall = s.curCall := rfl
@[simp] theorem modLaunch_arg (s : State) (id : Nat) (f : Launch → Launch) : (modLaunch s id f).arg = s.arg := rfl
@[simp] theorem modLaunch_clk (s : State) (id : Nat) (f : Launch → Launch) : (modLaunch s id f).clk = s.clk := rfl
@[simp] theorem modLaunch_compMem (s : State) (id : Nat) (f : Launch → Launch) : (modLaunch s id f).compMem = s.compMem := rfl
@[simp] theorem modLaunch_compPoison (s : State) (id : Nat) (f : Launch → Launch) : (modLaunch s id f).compPoison = s.compPoison := rfl
@[simp] theorem modLaunch_outbox (s : State) (id : Nat) (f : Launch → Launch) : (modLaunch s id f).outbox = s.outbox := rfl
@[simp] theorem modLaunch_inbox (s : State) (id : Nat) (f : Launch → Launch) : (modLaunch s id f).inbox = s.inbox := rfl
@[simp] theorem modLaunch_answers (s : State) (id : Nat) (f : Launch → Launch) : (modLaunch s id f).answers = s.answers := rfl
@[simp] theorem modLaunch_boot (s : State) (id : Nat) (f : Launch → Launch) : (modLaunch s id f).boot = s.boot := rfl
@[simp] theorem modLaunch_imgReq (s : State) (id : Nat) (f : Launch → Launch) : (modLaunch s id f).imgReq = s.imgReq := rfl
@[simp] theorem modLaunch_sram (s : State) (id : Nat) (f : Launch → Launch) : (modLaunch s id f).sram = s.sram := rfl
@[simp] theorem modLaunch_fwImage (s : State) (id : Nat) (f : Launch → Launch) : (modLaunch s id f).fwImage = s.fwImage := rfl
@[simp] theorem modLaunch_fwVersion (s : State) (id : Nat) (f : Launch → Launch) : (modLaunch s id f).fwVersion = s.fwVersion := rfl
@[simp] theorem modLaunch_fuseMin (s : State) (id : Nat) (f : Launch → Launch) : (modLaunch s id f).fuseMin = s.fuseMin := rfl
@[simp] theorem modLaunch_devSeq (s : State) (id : Nat) (f : Launch → Launch) : (modLaunch s id f).devSeq = s.devSeq := rfl
@[simp] theorem modLaunch_incarnation (s : State) (id : Nat) (f : Launch → Launch) : (modLaunch s id f).incarnation = s.incarnation := rfl
@[simp] theorem modLaunch_mapBuf (s : State) (id : Nat) (f : Launch → Launch) : (modLaunch s id f).mapBuf = s.mapBuf := rfl
@[simp] theorem modLaunch_mapGen (s : State) (id : Nat) (f : Launch → Launch) : (modLaunch s id f).mapGen = s.mapGen := rfl
@[simp] theorem modLaunch_mapWait (s : State) (id : Nat) (f : Launch → Launch) : (modLaunch s id f).mapWait = s.mapWait := rfl
@[simp] theorem modLaunch_mapDirty (s : State) (id : Nat) (f : Launch → Launch) : (modLaunch s id f).mapDirty = s.mapDirty := rfl
@[simp] theorem modLaunch_mapHash (s : State) (id : Nat) (f : Launch → Launch) : (modLaunch s id f).mapHash = s.mapHash := rfl
@[simp] theorem modLaunch_heldReports (s : State) (id : Nat) (f : Launch → Launch) : (modLaunch s id f).heldReports = s.heldReports := rfl
@[simp] theorem modLaunch_mapCovers (s : State) (id : Nat) (f : Launch → Launch) : (modLaunch s id f).mapCovers = s.mapCovers := rfl
@[simp] theorem modLaunch_retLists (s : State) (id : Nat) (f : Launch → Launch) : (modLaunch s id f).retLists = s.retLists := rfl
@[simp] theorem modLaunch_parts (s : State) (id : Nat) (f : Launch → Launch) : (modLaunch s id f).parts = s.parts := rfl
@[simp] theorem modLaunch_remap (s : State) (id : Nat) (f : Launch → Launch) : (modLaunch s id f).remap = s.remap := rfl
@[simp] theorem modLaunch_spares (s : State) (id : Nat) (f : Launch → Launch) : (modLaunch s id f).spares = s.spares := rfl
@[simp] theorem modLaunch_links (s : State) (id : Nat) (f : Launch → Launch) : (modLaunch s id f).links = s.links := rfl
@[simp] theorem modLaunch_mem (s : State) (id : Nat) (f : Launch → Launch) : (modLaunch s id f).mem = s.mem := rfl
@[simp] theorem modLaunch_memPoison (s : State) (id : Nat) (f : Launch → Launch) : (modLaunch s id f).memPoison = s.memPoison := rfl
@[simp] theorem modLaunch_stks (s : State) (id : Nat) (f : Launch → Launch) : (modLaunch s id f).stks = s.stks := rfl
@[simp] theorem modLaunch_dies (s : State) (id : Nat) (f : Launch → Launch) : (modLaunch s id f).dies = s.dies := rfl
@[simp] theorem modLaunch_locks (s : State) (id : Nat) (f : Launch → Launch) : (modLaunch s id f).locks = s.locks := rfl
@[simp] theorem modLaunch_faults (s : State) (id : Nat) (f : Launch → Launch) : (modLaunch s id f).faults = s.faults := rfl
@[simp] theorem modLaunch_shoots (s : State) (id : Nat) (f : Launch → Launch) : (modLaunch s id f).shoots = s.shoots := rfl
@[simp] theorem modLaunch_cores (s : State) (id : Nat) (f : Launch → Launch) : (modLaunch s id f).cores = s.cores := rfl
@[simp] theorem modLaunch_evacs (s : State) (id : Nat) (f : Launch → Launch) : (modLaunch s id f).evacs = s.evacs := rfl
@[simp] theorem modLaunch_wgs (s : State) (id : Nat) (f : Launch → Launch) : (modLaunch s id f).wgs = s.wgs := rfl
@[simp] theorem modLaunch_arrivals (s : State) (id : Nat) (f : Launch → Launch) : (modLaunch s id f).arrivals = s.arrivals := rfl
@[simp] theorem modLaunch_copies (s : State) (id : Nat) (f : Launch → Launch) : (modLaunch s id f).copies = s.copies := rfl
@[simp] theorem modLaunch_calls (s : State) (id : Nat) (f : Launch → Launch) : (modLaunch s id f).calls = s.calls := rfl

/-! ## modCopy -/

@[simp] theorem modCopy_agenda (s : State) (id : Nat) (f : Copy → Copy) : (modCopy s id f).agenda = s.agenda := rfl
@[simp] theorem modCopy_turn (s : State) (id : Nat) (f : Copy → Copy) : (modCopy s id f).turn = s.turn := rfl
@[simp] theorem modCopy_freeCtr (s : State) (id : Nat) (f : Copy → Copy) : (modCopy s id f).freeCtr = s.freeCtr := rfl
@[simp] theorem modCopy_nextId (s : State) (id : Nat) (f : Copy → Copy) : (modCopy s id f).nextId = s.nextId := rfl
@[simp] theorem modCopy_cur (s : State) (id : Nat) (f : Copy → Copy) : (modCopy s id f).cur = s.cur := rfl
@[simp] theorem modCopy_curCall (s : State) (id : Nat) (f : Copy → Copy) : (modCopy s id f).curCall = s.curCall := rfl
@[simp] theorem modCopy_arg (s : State) (id : Nat) (f : Copy → Copy) : (modCopy s id f).arg = s.arg := rfl
@[simp] theorem modCopy_clk (s : State) (id : Nat) (f : Copy → Copy) : (modCopy s id f).clk = s.clk := rfl
@[simp] theorem modCopy_compMem (s : State) (id : Nat) (f : Copy → Copy) : (modCopy s id f).compMem = s.compMem := rfl
@[simp] theorem modCopy_compPoison (s : State) (id : Nat) (f : Copy → Copy) : (modCopy s id f).compPoison = s.compPoison := rfl
@[simp] theorem modCopy_outbox (s : State) (id : Nat) (f : Copy → Copy) : (modCopy s id f).outbox = s.outbox := rfl
@[simp] theorem modCopy_inbox (s : State) (id : Nat) (f : Copy → Copy) : (modCopy s id f).inbox = s.inbox := rfl
@[simp] theorem modCopy_answers (s : State) (id : Nat) (f : Copy → Copy) : (modCopy s id f).answers = s.answers := rfl
@[simp] theorem modCopy_boot (s : State) (id : Nat) (f : Copy → Copy) : (modCopy s id f).boot = s.boot := rfl
@[simp] theorem modCopy_imgReq (s : State) (id : Nat) (f : Copy → Copy) : (modCopy s id f).imgReq = s.imgReq := rfl
@[simp] theorem modCopy_sram (s : State) (id : Nat) (f : Copy → Copy) : (modCopy s id f).sram = s.sram := rfl
@[simp] theorem modCopy_fwImage (s : State) (id : Nat) (f : Copy → Copy) : (modCopy s id f).fwImage = s.fwImage := rfl
@[simp] theorem modCopy_fwVersion (s : State) (id : Nat) (f : Copy → Copy) : (modCopy s id f).fwVersion = s.fwVersion := rfl
@[simp] theorem modCopy_fuseMin (s : State) (id : Nat) (f : Copy → Copy) : (modCopy s id f).fuseMin = s.fuseMin := rfl
@[simp] theorem modCopy_devSeq (s : State) (id : Nat) (f : Copy → Copy) : (modCopy s id f).devSeq = s.devSeq := rfl
@[simp] theorem modCopy_incarnation (s : State) (id : Nat) (f : Copy → Copy) : (modCopy s id f).incarnation = s.incarnation := rfl
@[simp] theorem modCopy_mapBuf (s : State) (id : Nat) (f : Copy → Copy) : (modCopy s id f).mapBuf = s.mapBuf := rfl
@[simp] theorem modCopy_mapGen (s : State) (id : Nat) (f : Copy → Copy) : (modCopy s id f).mapGen = s.mapGen := rfl
@[simp] theorem modCopy_mapWait (s : State) (id : Nat) (f : Copy → Copy) : (modCopy s id f).mapWait = s.mapWait := rfl
@[simp] theorem modCopy_mapDirty (s : State) (id : Nat) (f : Copy → Copy) : (modCopy s id f).mapDirty = s.mapDirty := rfl
@[simp] theorem modCopy_mapHash (s : State) (id : Nat) (f : Copy → Copy) : (modCopy s id f).mapHash = s.mapHash := rfl
@[simp] theorem modCopy_heldReports (s : State) (id : Nat) (f : Copy → Copy) : (modCopy s id f).heldReports = s.heldReports := rfl
@[simp] theorem modCopy_mapCovers (s : State) (id : Nat) (f : Copy → Copy) : (modCopy s id f).mapCovers = s.mapCovers := rfl
@[simp] theorem modCopy_retLists (s : State) (id : Nat) (f : Copy → Copy) : (modCopy s id f).retLists = s.retLists := rfl
@[simp] theorem modCopy_parts (s : State) (id : Nat) (f : Copy → Copy) : (modCopy s id f).parts = s.parts := rfl
@[simp] theorem modCopy_remap (s : State) (id : Nat) (f : Copy → Copy) : (modCopy s id f).remap = s.remap := rfl
@[simp] theorem modCopy_spares (s : State) (id : Nat) (f : Copy → Copy) : (modCopy s id f).spares = s.spares := rfl
@[simp] theorem modCopy_links (s : State) (id : Nat) (f : Copy → Copy) : (modCopy s id f).links = s.links := rfl
@[simp] theorem modCopy_mem (s : State) (id : Nat) (f : Copy → Copy) : (modCopy s id f).mem = s.mem := rfl
@[simp] theorem modCopy_memPoison (s : State) (id : Nat) (f : Copy → Copy) : (modCopy s id f).memPoison = s.memPoison := rfl
@[simp] theorem modCopy_stks (s : State) (id : Nat) (f : Copy → Copy) : (modCopy s id f).stks = s.stks := rfl
@[simp] theorem modCopy_dies (s : State) (id : Nat) (f : Copy → Copy) : (modCopy s id f).dies = s.dies := rfl
@[simp] theorem modCopy_locks (s : State) (id : Nat) (f : Copy → Copy) : (modCopy s id f).locks = s.locks := rfl
@[simp] theorem modCopy_faults (s : State) (id : Nat) (f : Copy → Copy) : (modCopy s id f).faults = s.faults := rfl
@[simp] theorem modCopy_shoots (s : State) (id : Nat) (f : Copy → Copy) : (modCopy s id f).shoots = s.shoots := rfl
@[simp] theorem modCopy_cores (s : State) (id : Nat) (f : Copy → Copy) : (modCopy s id f).cores = s.cores := rfl
@[simp] theorem modCopy_evacs (s : State) (id : Nat) (f : Copy → Copy) : (modCopy s id f).evacs = s.evacs := rfl
@[simp] theorem modCopy_launches (s : State) (id : Nat) (f : Copy → Copy) : (modCopy s id f).launches = s.launches := rfl
@[simp] theorem modCopy_wgs (s : State) (id : Nat) (f : Copy → Copy) : (modCopy s id f).wgs = s.wgs := rfl
@[simp] theorem modCopy_arrivals (s : State) (id : Nat) (f : Copy → Copy) : (modCopy s id f).arrivals = s.arrivals := rfl
@[simp] theorem modCopy_calls (s : State) (id : Nat) (f : Copy → Copy) : (modCopy s id f).calls = s.calls := rfl

/-! ## modCall -/

@[simp] theorem modCall_agenda (s : State) (id : Nat) (f : Call → Call) : (modCall s id f).agenda = s.agenda := rfl
@[simp] theorem modCall_turn (s : State) (id : Nat) (f : Call → Call) : (modCall s id f).turn = s.turn := rfl
@[simp] theorem modCall_freeCtr (s : State) (id : Nat) (f : Call → Call) : (modCall s id f).freeCtr = s.freeCtr := rfl
@[simp] theorem modCall_nextId (s : State) (id : Nat) (f : Call → Call) : (modCall s id f).nextId = s.nextId := rfl
@[simp] theorem modCall_cur (s : State) (id : Nat) (f : Call → Call) : (modCall s id f).cur = s.cur := rfl
@[simp] theorem modCall_curCall (s : State) (id : Nat) (f : Call → Call) : (modCall s id f).curCall = s.curCall := rfl
@[simp] theorem modCall_arg (s : State) (id : Nat) (f : Call → Call) : (modCall s id f).arg = s.arg := rfl
@[simp] theorem modCall_clk (s : State) (id : Nat) (f : Call → Call) : (modCall s id f).clk = s.clk := rfl
@[simp] theorem modCall_compMem (s : State) (id : Nat) (f : Call → Call) : (modCall s id f).compMem = s.compMem := rfl
@[simp] theorem modCall_compPoison (s : State) (id : Nat) (f : Call → Call) : (modCall s id f).compPoison = s.compPoison := rfl
@[simp] theorem modCall_outbox (s : State) (id : Nat) (f : Call → Call) : (modCall s id f).outbox = s.outbox := rfl
@[simp] theorem modCall_inbox (s : State) (id : Nat) (f : Call → Call) : (modCall s id f).inbox = s.inbox := rfl
@[simp] theorem modCall_answers (s : State) (id : Nat) (f : Call → Call) : (modCall s id f).answers = s.answers := rfl
@[simp] theorem modCall_boot (s : State) (id : Nat) (f : Call → Call) : (modCall s id f).boot = s.boot := rfl
@[simp] theorem modCall_imgReq (s : State) (id : Nat) (f : Call → Call) : (modCall s id f).imgReq = s.imgReq := rfl
@[simp] theorem modCall_sram (s : State) (id : Nat) (f : Call → Call) : (modCall s id f).sram = s.sram := rfl
@[simp] theorem modCall_fwImage (s : State) (id : Nat) (f : Call → Call) : (modCall s id f).fwImage = s.fwImage := rfl
@[simp] theorem modCall_fwVersion (s : State) (id : Nat) (f : Call → Call) : (modCall s id f).fwVersion = s.fwVersion := rfl
@[simp] theorem modCall_fuseMin (s : State) (id : Nat) (f : Call → Call) : (modCall s id f).fuseMin = s.fuseMin := rfl
@[simp] theorem modCall_devSeq (s : State) (id : Nat) (f : Call → Call) : (modCall s id f).devSeq = s.devSeq := rfl
@[simp] theorem modCall_incarnation (s : State) (id : Nat) (f : Call → Call) : (modCall s id f).incarnation = s.incarnation := rfl
@[simp] theorem modCall_mapBuf (s : State) (id : Nat) (f : Call → Call) : (modCall s id f).mapBuf = s.mapBuf := rfl
@[simp] theorem modCall_mapGen (s : State) (id : Nat) (f : Call → Call) : (modCall s id f).mapGen = s.mapGen := rfl
@[simp] theorem modCall_mapWait (s : State) (id : Nat) (f : Call → Call) : (modCall s id f).mapWait = s.mapWait := rfl
@[simp] theorem modCall_mapDirty (s : State) (id : Nat) (f : Call → Call) : (modCall s id f).mapDirty = s.mapDirty := rfl
@[simp] theorem modCall_mapHash (s : State) (id : Nat) (f : Call → Call) : (modCall s id f).mapHash = s.mapHash := rfl
@[simp] theorem modCall_heldReports (s : State) (id : Nat) (f : Call → Call) : (modCall s id f).heldReports = s.heldReports := rfl
@[simp] theorem modCall_mapCovers (s : State) (id : Nat) (f : Call → Call) : (modCall s id f).mapCovers = s.mapCovers := rfl
@[simp] theorem modCall_retLists (s : State) (id : Nat) (f : Call → Call) : (modCall s id f).retLists = s.retLists := rfl
@[simp] theorem modCall_parts (s : State) (id : Nat) (f : Call → Call) : (modCall s id f).parts = s.parts := rfl
@[simp] theorem modCall_remap (s : State) (id : Nat) (f : Call → Call) : (modCall s id f).remap = s.remap := rfl
@[simp] theorem modCall_spares (s : State) (id : Nat) (f : Call → Call) : (modCall s id f).spares = s.spares := rfl
@[simp] theorem modCall_links (s : State) (id : Nat) (f : Call → Call) : (modCall s id f).links = s.links := rfl
@[simp] theorem modCall_mem (s : State) (id : Nat) (f : Call → Call) : (modCall s id f).mem = s.mem := rfl
@[simp] theorem modCall_memPoison (s : State) (id : Nat) (f : Call → Call) : (modCall s id f).memPoison = s.memPoison := rfl
@[simp] theorem modCall_stks (s : State) (id : Nat) (f : Call → Call) : (modCall s id f).stks = s.stks := rfl
@[simp] theorem modCall_dies (s : State) (id : Nat) (f : Call → Call) : (modCall s id f).dies = s.dies := rfl
@[simp] theorem modCall_locks (s : State) (id : Nat) (f : Call → Call) : (modCall s id f).locks = s.locks := rfl
@[simp] theorem modCall_faults (s : State) (id : Nat) (f : Call → Call) : (modCall s id f).faults = s.faults := rfl
@[simp] theorem modCall_shoots (s : State) (id : Nat) (f : Call → Call) : (modCall s id f).shoots = s.shoots := rfl
@[simp] theorem modCall_cores (s : State) (id : Nat) (f : Call → Call) : (modCall s id f).cores = s.cores := rfl
@[simp] theorem modCall_evacs (s : State) (id : Nat) (f : Call → Call) : (modCall s id f).evacs = s.evacs := rfl
@[simp] theorem modCall_launches (s : State) (id : Nat) (f : Call → Call) : (modCall s id f).launches = s.launches := rfl
@[simp] theorem modCall_wgs (s : State) (id : Nat) (f : Call → Call) : (modCall s id f).wgs = s.wgs := rfl
@[simp] theorem modCall_arrivals (s : State) (id : Nat) (f : Call → Call) : (modCall s id f).arrivals = s.arrivals := rfl
@[simp] theorem modCall_copies (s : State) (id : Nat) (f : Call → Call) : (modCall s id f).copies = s.copies := rfl

/-! ## modPart -/

@[simp] theorem modPart_agenda (s : State) (p : Nat) (f : Partition → Partition) : (modPart s p f).agenda = s.agenda := rfl
@[simp] theorem modPart_turn (s : State) (p : Nat) (f : Partition → Partition) : (modPart s p f).turn = s.turn := rfl
@[simp] theorem modPart_freeCtr (s : State) (p : Nat) (f : Partition → Partition) : (modPart s p f).freeCtr = s.freeCtr := rfl
@[simp] theorem modPart_nextId (s : State) (p : Nat) (f : Partition → Partition) : (modPart s p f).nextId = s.nextId := rfl
@[simp] theorem modPart_cur (s : State) (p : Nat) (f : Partition → Partition) : (modPart s p f).cur = s.cur := rfl
@[simp] theorem modPart_curCall (s : State) (p : Nat) (f : Partition → Partition) : (modPart s p f).curCall = s.curCall := rfl
@[simp] theorem modPart_arg (s : State) (p : Nat) (f : Partition → Partition) : (modPart s p f).arg = s.arg := rfl
@[simp] theorem modPart_clk (s : State) (p : Nat) (f : Partition → Partition) : (modPart s p f).clk = s.clk := rfl
@[simp] theorem modPart_compMem (s : State) (p : Nat) (f : Partition → Partition) : (modPart s p f).compMem = s.compMem := rfl
@[simp] theorem modPart_compPoison (s : State) (p : Nat) (f : Partition → Partition) : (modPart s p f).compPoison = s.compPoison := rfl
@[simp] theorem modPart_outbox (s : State) (p : Nat) (f : Partition → Partition) : (modPart s p f).outbox = s.outbox := rfl
@[simp] theorem modPart_inbox (s : State) (p : Nat) (f : Partition → Partition) : (modPart s p f).inbox = s.inbox := rfl
@[simp] theorem modPart_answers (s : State) (p : Nat) (f : Partition → Partition) : (modPart s p f).answers = s.answers := rfl
@[simp] theorem modPart_boot (s : State) (p : Nat) (f : Partition → Partition) : (modPart s p f).boot = s.boot := rfl
@[simp] theorem modPart_imgReq (s : State) (p : Nat) (f : Partition → Partition) : (modPart s p f).imgReq = s.imgReq := rfl
@[simp] theorem modPart_sram (s : State) (p : Nat) (f : Partition → Partition) : (modPart s p f).sram = s.sram := rfl
@[simp] theorem modPart_fwImage (s : State) (p : Nat) (f : Partition → Partition) : (modPart s p f).fwImage = s.fwImage := rfl
@[simp] theorem modPart_fwVersion (s : State) (p : Nat) (f : Partition → Partition) : (modPart s p f).fwVersion = s.fwVersion := rfl
@[simp] theorem modPart_fuseMin (s : State) (p : Nat) (f : Partition → Partition) : (modPart s p f).fuseMin = s.fuseMin := rfl
@[simp] theorem modPart_devSeq (s : State) (p : Nat) (f : Partition → Partition) : (modPart s p f).devSeq = s.devSeq := rfl
@[simp] theorem modPart_incarnation (s : State) (p : Nat) (f : Partition → Partition) : (modPart s p f).incarnation = s.incarnation := rfl
@[simp] theorem modPart_mapBuf (s : State) (p : Nat) (f : Partition → Partition) : (modPart s p f).mapBuf = s.mapBuf := rfl
@[simp] theorem modPart_mapGen (s : State) (p : Nat) (f : Partition → Partition) : (modPart s p f).mapGen = s.mapGen := rfl
@[simp] theorem modPart_mapWait (s : State) (p : Nat) (f : Partition → Partition) : (modPart s p f).mapWait = s.mapWait := rfl
@[simp] theorem modPart_mapDirty (s : State) (p : Nat) (f : Partition → Partition) : (modPart s p f).mapDirty = s.mapDirty := rfl
@[simp] theorem modPart_mapHash (s : State) (p : Nat) (f : Partition → Partition) : (modPart s p f).mapHash = s.mapHash := rfl
@[simp] theorem modPart_heldReports (s : State) (p : Nat) (f : Partition → Partition) : (modPart s p f).heldReports = s.heldReports := rfl
@[simp] theorem modPart_mapCovers (s : State) (p : Nat) (f : Partition → Partition) : (modPart s p f).mapCovers = s.mapCovers := rfl
@[simp] theorem modPart_retLists (s : State) (p : Nat) (f : Partition → Partition) : (modPart s p f).retLists = s.retLists := rfl
@[simp] theorem modPart_remap (s : State) (p : Nat) (f : Partition → Partition) : (modPart s p f).remap = s.remap := rfl
@[simp] theorem modPart_spares (s : State) (p : Nat) (f : Partition → Partition) : (modPart s p f).spares = s.spares := rfl
@[simp] theorem modPart_links (s : State) (p : Nat) (f : Partition → Partition) : (modPart s p f).links = s.links := rfl
@[simp] theorem modPart_mem (s : State) (p : Nat) (f : Partition → Partition) : (modPart s p f).mem = s.mem := rfl
@[simp] theorem modPart_memPoison (s : State) (p : Nat) (f : Partition → Partition) : (modPart s p f).memPoison = s.memPoison := rfl
@[simp] theorem modPart_stks (s : State) (p : Nat) (f : Partition → Partition) : (modPart s p f).stks = s.stks := rfl
@[simp] theorem modPart_dies (s : State) (p : Nat) (f : Partition → Partition) : (modPart s p f).dies = s.dies := rfl
@[simp] theorem modPart_locks (s : State) (p : Nat) (f : Partition → Partition) : (modPart s p f).locks = s.locks := rfl
@[simp] theorem modPart_faults (s : State) (p : Nat) (f : Partition → Partition) : (modPart s p f).faults = s.faults := rfl
@[simp] theorem modPart_shoots (s : State) (p : Nat) (f : Partition → Partition) : (modPart s p f).shoots = s.shoots := rfl
@[simp] theorem modPart_cores (s : State) (p : Nat) (f : Partition → Partition) : (modPart s p f).cores = s.cores := rfl
@[simp] theorem modPart_evacs (s : State) (p : Nat) (f : Partition → Partition) : (modPart s p f).evacs = s.evacs := rfl
@[simp] theorem modPart_launches (s : State) (p : Nat) (f : Partition → Partition) : (modPart s p f).launches = s.launches := rfl
@[simp] theorem modPart_wgs (s : State) (p : Nat) (f : Partition → Partition) : (modPart s p f).wgs = s.wgs := rfl
@[simp] theorem modPart_arrivals (s : State) (p : Nat) (f : Partition → Partition) : (modPart s p f).arrivals = s.arrivals := rfl
@[simp] theorem modPart_copies (s : State) (p : Nat) (f : Partition → Partition) : (modPart s p f).copies = s.copies := rfl
@[simp] theorem modPart_calls (s : State) (p : Nat) (f : Partition → Partition) : (modPart s p f).calls = s.calls := rfl

/-! ## modCore -/

@[simp] theorem modCore_agenda (s : State) (c : Nat) (f : CoreSt → CoreSt) : (modCore s c f).agenda = s.agenda := rfl
@[simp] theorem modCore_turn (s : State) (c : Nat) (f : CoreSt → CoreSt) : (modCore s c f).turn = s.turn := rfl
@[simp] theorem modCore_freeCtr (s : State) (c : Nat) (f : CoreSt → CoreSt) : (modCore s c f).freeCtr = s.freeCtr := rfl
@[simp] theorem modCore_nextId (s : State) (c : Nat) (f : CoreSt → CoreSt) : (modCore s c f).nextId = s.nextId := rfl
@[simp] theorem modCore_cur (s : State) (c : Nat) (f : CoreSt → CoreSt) : (modCore s c f).cur = s.cur := rfl
@[simp] theorem modCore_curCall (s : State) (c : Nat) (f : CoreSt → CoreSt) : (modCore s c f).curCall = s.curCall := rfl
@[simp] theorem modCore_arg (s : State) (c : Nat) (f : CoreSt → CoreSt) : (modCore s c f).arg = s.arg := rfl
@[simp] theorem modCore_clk (s : State) (c : Nat) (f : CoreSt → CoreSt) : (modCore s c f).clk = s.clk := rfl
@[simp] theorem modCore_compMem (s : State) (c : Nat) (f : CoreSt → CoreSt) : (modCore s c f).compMem = s.compMem := rfl
@[simp] theorem modCore_compPoison (s : State) (c : Nat) (f : CoreSt → CoreSt) : (modCore s c f).compPoison = s.compPoison := rfl
@[simp] theorem modCore_outbox (s : State) (c : Nat) (f : CoreSt → CoreSt) : (modCore s c f).outbox = s.outbox := rfl
@[simp] theorem modCore_inbox (s : State) (c : Nat) (f : CoreSt → CoreSt) : (modCore s c f).inbox = s.inbox := rfl
@[simp] theorem modCore_answers (s : State) (c : Nat) (f : CoreSt → CoreSt) : (modCore s c f).answers = s.answers := rfl
@[simp] theorem modCore_boot (s : State) (c : Nat) (f : CoreSt → CoreSt) : (modCore s c f).boot = s.boot := rfl
@[simp] theorem modCore_imgReq (s : State) (c : Nat) (f : CoreSt → CoreSt) : (modCore s c f).imgReq = s.imgReq := rfl
@[simp] theorem modCore_sram (s : State) (c : Nat) (f : CoreSt → CoreSt) : (modCore s c f).sram = s.sram := rfl
@[simp] theorem modCore_fwImage (s : State) (c : Nat) (f : CoreSt → CoreSt) : (modCore s c f).fwImage = s.fwImage := rfl
@[simp] theorem modCore_fwVersion (s : State) (c : Nat) (f : CoreSt → CoreSt) : (modCore s c f).fwVersion = s.fwVersion := rfl
@[simp] theorem modCore_fuseMin (s : State) (c : Nat) (f : CoreSt → CoreSt) : (modCore s c f).fuseMin = s.fuseMin := rfl
@[simp] theorem modCore_devSeq (s : State) (c : Nat) (f : CoreSt → CoreSt) : (modCore s c f).devSeq = s.devSeq := rfl
@[simp] theorem modCore_incarnation (s : State) (c : Nat) (f : CoreSt → CoreSt) : (modCore s c f).incarnation = s.incarnation := rfl
@[simp] theorem modCore_mapBuf (s : State) (c : Nat) (f : CoreSt → CoreSt) : (modCore s c f).mapBuf = s.mapBuf := rfl
@[simp] theorem modCore_mapGen (s : State) (c : Nat) (f : CoreSt → CoreSt) : (modCore s c f).mapGen = s.mapGen := rfl
@[simp] theorem modCore_mapWait (s : State) (c : Nat) (f : CoreSt → CoreSt) : (modCore s c f).mapWait = s.mapWait := rfl
@[simp] theorem modCore_mapDirty (s : State) (c : Nat) (f : CoreSt → CoreSt) : (modCore s c f).mapDirty = s.mapDirty := rfl
@[simp] theorem modCore_mapHash (s : State) (c : Nat) (f : CoreSt → CoreSt) : (modCore s c f).mapHash = s.mapHash := rfl
@[simp] theorem modCore_heldReports (s : State) (c : Nat) (f : CoreSt → CoreSt) : (modCore s c f).heldReports = s.heldReports := rfl
@[simp] theorem modCore_mapCovers (s : State) (c : Nat) (f : CoreSt → CoreSt) : (modCore s c f).mapCovers = s.mapCovers := rfl
@[simp] theorem modCore_retLists (s : State) (c : Nat) (f : CoreSt → CoreSt) : (modCore s c f).retLists = s.retLists := rfl
@[simp] theorem modCore_parts (s : State) (c : Nat) (f : CoreSt → CoreSt) : (modCore s c f).parts = s.parts := rfl
@[simp] theorem modCore_remap (s : State) (c : Nat) (f : CoreSt → CoreSt) : (modCore s c f).remap = s.remap := rfl
@[simp] theorem modCore_spares (s : State) (c : Nat) (f : CoreSt → CoreSt) : (modCore s c f).spares = s.spares := rfl
@[simp] theorem modCore_links (s : State) (c : Nat) (f : CoreSt → CoreSt) : (modCore s c f).links = s.links := rfl
@[simp] theorem modCore_mem (s : State) (c : Nat) (f : CoreSt → CoreSt) : (modCore s c f).mem = s.mem := rfl
@[simp] theorem modCore_memPoison (s : State) (c : Nat) (f : CoreSt → CoreSt) : (modCore s c f).memPoison = s.memPoison := rfl
@[simp] theorem modCore_stks (s : State) (c : Nat) (f : CoreSt → CoreSt) : (modCore s c f).stks = s.stks := rfl
@[simp] theorem modCore_dies (s : State) (c : Nat) (f : CoreSt → CoreSt) : (modCore s c f).dies = s.dies := rfl
@[simp] theorem modCore_locks (s : State) (c : Nat) (f : CoreSt → CoreSt) : (modCore s c f).locks = s.locks := rfl
@[simp] theorem modCore_faults (s : State) (c : Nat) (f : CoreSt → CoreSt) : (modCore s c f).faults = s.faults := rfl
@[simp] theorem modCore_shoots (s : State) (c : Nat) (f : CoreSt → CoreSt) : (modCore s c f).shoots = s.shoots := rfl
@[simp] theorem modCore_evacs (s : State) (c : Nat) (f : CoreSt → CoreSt) : (modCore s c f).evacs = s.evacs := rfl
@[simp] theorem modCore_launches (s : State) (c : Nat) (f : CoreSt → CoreSt) : (modCore s c f).launches = s.launches := rfl
@[simp] theorem modCore_wgs (s : State) (c : Nat) (f : CoreSt → CoreSt) : (modCore s c f).wgs = s.wgs := rfl
@[simp] theorem modCore_arrivals (s : State) (c : Nat) (f : CoreSt → CoreSt) : (modCore s c f).arrivals = s.arrivals := rfl
@[simp] theorem modCore_copies (s : State) (c : Nat) (f : CoreSt → CoreSt) : (modCore s c f).copies = s.copies := rfl
@[simp] theorem modCore_calls (s : State) (c : Nat) (f : CoreSt → CoreSt) : (modCore s c f).calls = s.calls := rfl

/-! ## modStack -/

@[simp] theorem modStack_agenda (s : State) (i : Nat) (f : StackSt → StackSt) : (modStack s i f).agenda = s.agenda := rfl
@[simp] theorem modStack_turn (s : State) (i : Nat) (f : StackSt → StackSt) : (modStack s i f).turn = s.turn := rfl
@[simp] theorem modStack_freeCtr (s : State) (i : Nat) (f : StackSt → StackSt) : (modStack s i f).freeCtr = s.freeCtr := rfl
@[simp] theorem modStack_nextId (s : State) (i : Nat) (f : StackSt → StackSt) : (modStack s i f).nextId = s.nextId := rfl
@[simp] theorem modStack_cur (s : State) (i : Nat) (f : StackSt → StackSt) : (modStack s i f).cur = s.cur := rfl
@[simp] theorem modStack_curCall (s : State) (i : Nat) (f : StackSt → StackSt) : (modStack s i f).curCall = s.curCall := rfl
@[simp] theorem modStack_arg (s : State) (i : Nat) (f : StackSt → StackSt) : (modStack s i f).arg = s.arg := rfl
@[simp] theorem modStack_clk (s : State) (i : Nat) (f : StackSt → StackSt) : (modStack s i f).clk = s.clk := rfl
@[simp] theorem modStack_compMem (s : State) (i : Nat) (f : StackSt → StackSt) : (modStack s i f).compMem = s.compMem := rfl
@[simp] theorem modStack_compPoison (s : State) (i : Nat) (f : StackSt → StackSt) : (modStack s i f).compPoison = s.compPoison := rfl
@[simp] theorem modStack_outbox (s : State) (i : Nat) (f : StackSt → StackSt) : (modStack s i f).outbox = s.outbox := rfl
@[simp] theorem modStack_inbox (s : State) (i : Nat) (f : StackSt → StackSt) : (modStack s i f).inbox = s.inbox := rfl
@[simp] theorem modStack_answers (s : State) (i : Nat) (f : StackSt → StackSt) : (modStack s i f).answers = s.answers := rfl
@[simp] theorem modStack_boot (s : State) (i : Nat) (f : StackSt → StackSt) : (modStack s i f).boot = s.boot := rfl
@[simp] theorem modStack_imgReq (s : State) (i : Nat) (f : StackSt → StackSt) : (modStack s i f).imgReq = s.imgReq := rfl
@[simp] theorem modStack_sram (s : State) (i : Nat) (f : StackSt → StackSt) : (modStack s i f).sram = s.sram := rfl
@[simp] theorem modStack_fwImage (s : State) (i : Nat) (f : StackSt → StackSt) : (modStack s i f).fwImage = s.fwImage := rfl
@[simp] theorem modStack_fwVersion (s : State) (i : Nat) (f : StackSt → StackSt) : (modStack s i f).fwVersion = s.fwVersion := rfl
@[simp] theorem modStack_fuseMin (s : State) (i : Nat) (f : StackSt → StackSt) : (modStack s i f).fuseMin = s.fuseMin := rfl
@[simp] theorem modStack_devSeq (s : State) (i : Nat) (f : StackSt → StackSt) : (modStack s i f).devSeq = s.devSeq := rfl
@[simp] theorem modStack_incarnation (s : State) (i : Nat) (f : StackSt → StackSt) : (modStack s i f).incarnation = s.incarnation := rfl
@[simp] theorem modStack_mapBuf (s : State) (i : Nat) (f : StackSt → StackSt) : (modStack s i f).mapBuf = s.mapBuf := rfl
@[simp] theorem modStack_mapGen (s : State) (i : Nat) (f : StackSt → StackSt) : (modStack s i f).mapGen = s.mapGen := rfl
@[simp] theorem modStack_mapWait (s : State) (i : Nat) (f : StackSt → StackSt) : (modStack s i f).mapWait = s.mapWait := rfl
@[simp] theorem modStack_mapDirty (s : State) (i : Nat) (f : StackSt → StackSt) : (modStack s i f).mapDirty = s.mapDirty := rfl
@[simp] theorem modStack_mapHash (s : State) (i : Nat) (f : StackSt → StackSt) : (modStack s i f).mapHash = s.mapHash := rfl
@[simp] theorem modStack_heldReports (s : State) (i : Nat) (f : StackSt → StackSt) : (modStack s i f).heldReports = s.heldReports := rfl
@[simp] theorem modStack_mapCovers (s : State) (i : Nat) (f : StackSt → StackSt) : (modStack s i f).mapCovers = s.mapCovers := rfl
@[simp] theorem modStack_retLists (s : State) (i : Nat) (f : StackSt → StackSt) : (modStack s i f).retLists = s.retLists := rfl
@[simp] theorem modStack_parts (s : State) (i : Nat) (f : StackSt → StackSt) : (modStack s i f).parts = s.parts := rfl
@[simp] theorem modStack_remap (s : State) (i : Nat) (f : StackSt → StackSt) : (modStack s i f).remap = s.remap := rfl
@[simp] theorem modStack_spares (s : State) (i : Nat) (f : StackSt → StackSt) : (modStack s i f).spares = s.spares := rfl
@[simp] theorem modStack_links (s : State) (i : Nat) (f : StackSt → StackSt) : (modStack s i f).links = s.links := rfl
@[simp] theorem modStack_mem (s : State) (i : Nat) (f : StackSt → StackSt) : (modStack s i f).mem = s.mem := rfl
@[simp] theorem modStack_memPoison (s : State) (i : Nat) (f : StackSt → StackSt) : (modStack s i f).memPoison = s.memPoison := rfl
@[simp] theorem modStack_dies (s : State) (i : Nat) (f : StackSt → StackSt) : (modStack s i f).dies = s.dies := rfl
@[simp] theorem modStack_locks (s : State) (i : Nat) (f : StackSt → StackSt) : (modStack s i f).locks = s.locks := rfl
@[simp] theorem modStack_faults (s : State) (i : Nat) (f : StackSt → StackSt) : (modStack s i f).faults = s.faults := rfl
@[simp] theorem modStack_shoots (s : State) (i : Nat) (f : StackSt → StackSt) : (modStack s i f).shoots = s.shoots := rfl
@[simp] theorem modStack_cores (s : State) (i : Nat) (f : StackSt → StackSt) : (modStack s i f).cores = s.cores := rfl
@[simp] theorem modStack_evacs (s : State) (i : Nat) (f : StackSt → StackSt) : (modStack s i f).evacs = s.evacs := rfl
@[simp] theorem modStack_launches (s : State) (i : Nat) (f : StackSt → StackSt) : (modStack s i f).launches = s.launches := rfl
@[simp] theorem modStack_wgs (s : State) (i : Nat) (f : StackSt → StackSt) : (modStack s i f).wgs = s.wgs := rfl
@[simp] theorem modStack_arrivals (s : State) (i : Nat) (f : StackSt → StackSt) : (modStack s i f).arrivals = s.arrivals := rfl
@[simp] theorem modStack_copies (s : State) (i : Nat) (f : StackSt → StackSt) : (modStack s i f).copies = s.copies := rfl
@[simp] theorem modStack_calls (s : State) (i : Nat) (f : StackSt → StackSt) : (modStack s i f).calls = s.calls := rfl

/-! ## modBank -/

@[simp] theorem modBank_agenda (s : State) (id k : Nat) (f : Bank → Bank) : (modBank s id k f).agenda = s.agenda := rfl
@[simp] theorem modBank_turn (s : State) (id k : Nat) (f : Bank → Bank) : (modBank s id k f).turn = s.turn := rfl
@[simp] theorem modBank_freeCtr (s : State) (id k : Nat) (f : Bank → Bank) : (modBank s id k f).freeCtr = s.freeCtr := rfl
@[simp] theorem modBank_nextId (s : State) (id k : Nat) (f : Bank → Bank) : (modBank s id k f).nextId = s.nextId := rfl
@[simp] theorem modBank_cur (s : State) (id k : Nat) (f : Bank → Bank) : (modBank s id k f).cur = s.cur := rfl
@[simp] theorem modBank_curCall (s : State) (id k : Nat) (f : Bank → Bank) : (modBank s id k f).curCall = s.curCall := rfl
@[simp] theorem modBank_arg (s : State) (id k : Nat) (f : Bank → Bank) : (modBank s id k f).arg = s.arg := rfl
@[simp] theorem modBank_clk (s : State) (id k : Nat) (f : Bank → Bank) : (modBank s id k f).clk = s.clk := rfl
@[simp] theorem modBank_compMem (s : State) (id k : Nat) (f : Bank → Bank) : (modBank s id k f).compMem = s.compMem := rfl
@[simp] theorem modBank_compPoison (s : State) (id k : Nat) (f : Bank → Bank) : (modBank s id k f).compPoison = s.compPoison := rfl
@[simp] theorem modBank_outbox (s : State) (id k : Nat) (f : Bank → Bank) : (modBank s id k f).outbox = s.outbox := rfl
@[simp] theorem modBank_inbox (s : State) (id k : Nat) (f : Bank → Bank) : (modBank s id k f).inbox = s.inbox := rfl
@[simp] theorem modBank_answers (s : State) (id k : Nat) (f : Bank → Bank) : (modBank s id k f).answers = s.answers := rfl
@[simp] theorem modBank_boot (s : State) (id k : Nat) (f : Bank → Bank) : (modBank s id k f).boot = s.boot := rfl
@[simp] theorem modBank_imgReq (s : State) (id k : Nat) (f : Bank → Bank) : (modBank s id k f).imgReq = s.imgReq := rfl
@[simp] theorem modBank_sram (s : State) (id k : Nat) (f : Bank → Bank) : (modBank s id k f).sram = s.sram := rfl
@[simp] theorem modBank_fwImage (s : State) (id k : Nat) (f : Bank → Bank) : (modBank s id k f).fwImage = s.fwImage := rfl
@[simp] theorem modBank_fwVersion (s : State) (id k : Nat) (f : Bank → Bank) : (modBank s id k f).fwVersion = s.fwVersion := rfl
@[simp] theorem modBank_fuseMin (s : State) (id k : Nat) (f : Bank → Bank) : (modBank s id k f).fuseMin = s.fuseMin := rfl
@[simp] theorem modBank_devSeq (s : State) (id k : Nat) (f : Bank → Bank) : (modBank s id k f).devSeq = s.devSeq := rfl
@[simp] theorem modBank_incarnation (s : State) (id k : Nat) (f : Bank → Bank) : (modBank s id k f).incarnation = s.incarnation := rfl
@[simp] theorem modBank_mapBuf (s : State) (id k : Nat) (f : Bank → Bank) : (modBank s id k f).mapBuf = s.mapBuf := rfl
@[simp] theorem modBank_mapGen (s : State) (id k : Nat) (f : Bank → Bank) : (modBank s id k f).mapGen = s.mapGen := rfl
@[simp] theorem modBank_mapWait (s : State) (id k : Nat) (f : Bank → Bank) : (modBank s id k f).mapWait = s.mapWait := rfl
@[simp] theorem modBank_mapDirty (s : State) (id k : Nat) (f : Bank → Bank) : (modBank s id k f).mapDirty = s.mapDirty := rfl
@[simp] theorem modBank_mapHash (s : State) (id k : Nat) (f : Bank → Bank) : (modBank s id k f).mapHash = s.mapHash := rfl
@[simp] theorem modBank_heldReports (s : State) (id k : Nat) (f : Bank → Bank) : (modBank s id k f).heldReports = s.heldReports := rfl
@[simp] theorem modBank_mapCovers (s : State) (id k : Nat) (f : Bank → Bank) : (modBank s id k f).mapCovers = s.mapCovers := rfl
@[simp] theorem modBank_retLists (s : State) (id k : Nat) (f : Bank → Bank) : (modBank s id k f).retLists = s.retLists := rfl
@[simp] theorem modBank_parts (s : State) (id k : Nat) (f : Bank → Bank) : (modBank s id k f).parts = s.parts := rfl
@[simp] theorem modBank_remap (s : State) (id k : Nat) (f : Bank → Bank) : (modBank s id k f).remap = s.remap := rfl
@[simp] theorem modBank_spares (s : State) (id k : Nat) (f : Bank → Bank) : (modBank s id k f).spares = s.spares := rfl
@[simp] theorem modBank_links (s : State) (id k : Nat) (f : Bank → Bank) : (modBank s id k f).links = s.links := rfl
@[simp] theorem modBank_mem (s : State) (id k : Nat) (f : Bank → Bank) : (modBank s id k f).mem = s.mem := rfl
@[simp] theorem modBank_memPoison (s : State) (id k : Nat) (f : Bank → Bank) : (modBank s id k f).memPoison = s.memPoison := rfl
@[simp] theorem modBank_stks (s : State) (id k : Nat) (f : Bank → Bank) : (modBank s id k f).stks = s.stks := rfl
@[simp] theorem modBank_dies (s : State) (id k : Nat) (f : Bank → Bank) : (modBank s id k f).dies = s.dies := rfl
@[simp] theorem modBank_locks (s : State) (id k : Nat) (f : Bank → Bank) : (modBank s id k f).locks = s.locks := rfl
@[simp] theorem modBank_faults (s : State) (id k : Nat) (f : Bank → Bank) : (modBank s id k f).faults = s.faults := rfl
@[simp] theorem modBank_shoots (s : State) (id k : Nat) (f : Bank → Bank) : (modBank s id k f).shoots = s.shoots := rfl
@[simp] theorem modBank_cores (s : State) (id k : Nat) (f : Bank → Bank) : (modBank s id k f).cores = s.cores := rfl
@[simp] theorem modBank_evacs (s : State) (id k : Nat) (f : Bank → Bank) : (modBank s id k f).evacs = s.evacs := rfl
@[simp] theorem modBank_launches (s : State) (id k : Nat) (f : Bank → Bank) : (modBank s id k f).launches = s.launches := rfl
@[simp] theorem modBank_arrivals (s : State) (id k : Nat) (f : Bank → Bank) : (modBank s id k f).arrivals = s.arrivals := rfl
@[simp] theorem modBank_copies (s : State) (id k : Nat) (f : Bank → Bank) : (modBank s id k f).copies = s.copies := rfl
@[simp] theorem modBank_calls (s : State) (id k : Nat) (f : Bank → Bank) : (modBank s id k f).calls = s.calls := rfl

/-! ## send -/

@[simp] theorem send_agenda (s : State) (m : Msg) : (send s m).agenda = s.agenda := rfl
@[simp] theorem send_turn (s : State) (m : Msg) : (send s m).turn = s.turn := rfl
@[simp] theorem send_freeCtr (s : State) (m : Msg) : (send s m).freeCtr = s.freeCtr := rfl
@[simp] theorem send_nextId (s : State) (m : Msg) : (send s m).nextId = s.nextId := rfl
@[simp] theorem send_cur (s : State) (m : Msg) : (send s m).cur = s.cur := rfl
@[simp] theorem send_curCall (s : State) (m : Msg) : (send s m).curCall = s.curCall := rfl
@[simp] theorem send_arg (s : State) (m : Msg) : (send s m).arg = s.arg := rfl
@[simp] theorem send_clk (s : State) (m : Msg) : (send s m).clk = s.clk := rfl
@[simp] theorem send_compMem (s : State) (m : Msg) : (send s m).compMem = s.compMem := rfl
@[simp] theorem send_compPoison (s : State) (m : Msg) : (send s m).compPoison = s.compPoison := rfl
@[simp] theorem send_inbox (s : State) (m : Msg) : (send s m).inbox = s.inbox := rfl
@[simp] theorem send_answers (s : State) (m : Msg) : (send s m).answers = s.answers := rfl
@[simp] theorem send_boot (s : State) (m : Msg) : (send s m).boot = s.boot := rfl
@[simp] theorem send_imgReq (s : State) (m : Msg) : (send s m).imgReq = s.imgReq := rfl
@[simp] theorem send_sram (s : State) (m : Msg) : (send s m).sram = s.sram := rfl
@[simp] theorem send_fwImage (s : State) (m : Msg) : (send s m).fwImage = s.fwImage := rfl
@[simp] theorem send_fwVersion (s : State) (m : Msg) : (send s m).fwVersion = s.fwVersion := rfl
@[simp] theorem send_fuseMin (s : State) (m : Msg) : (send s m).fuseMin = s.fuseMin := rfl
@[simp] theorem send_devSeq (s : State) (m : Msg) : (send s m).devSeq = s.devSeq := rfl
@[simp] theorem send_incarnation (s : State) (m : Msg) : (send s m).incarnation = s.incarnation := rfl
@[simp] theorem send_mapBuf (s : State) (m : Msg) : (send s m).mapBuf = s.mapBuf := rfl
@[simp] theorem send_mapGen (s : State) (m : Msg) : (send s m).mapGen = s.mapGen := rfl
@[simp] theorem send_mapWait (s : State) (m : Msg) : (send s m).mapWait = s.mapWait := rfl
@[simp] theorem send_mapDirty (s : State) (m : Msg) : (send s m).mapDirty = s.mapDirty := rfl
@[simp] theorem send_mapHash (s : State) (m : Msg) : (send s m).mapHash = s.mapHash := rfl
@[simp] theorem send_heldReports (s : State) (m : Msg) : (send s m).heldReports = s.heldReports := rfl
@[simp] theorem send_mapCovers (s : State) (m : Msg) : (send s m).mapCovers = s.mapCovers := rfl
@[simp] theorem send_retLists (s : State) (m : Msg) : (send s m).retLists = s.retLists := rfl
@[simp] theorem send_parts (s : State) (m : Msg) : (send s m).parts = s.parts := rfl
@[simp] theorem send_remap (s : State) (m : Msg) : (send s m).remap = s.remap := rfl
@[simp] theorem send_spares (s : State) (m : Msg) : (send s m).spares = s.spares := rfl
@[simp] theorem send_links (s : State) (m : Msg) : (send s m).links = s.links := rfl
@[simp] theorem send_mem (s : State) (m : Msg) : (send s m).mem = s.mem := rfl
@[simp] theorem send_memPoison (s : State) (m : Msg) : (send s m).memPoison = s.memPoison := rfl
@[simp] theorem send_stks (s : State) (m : Msg) : (send s m).stks = s.stks := rfl
@[simp] theorem send_dies (s : State) (m : Msg) : (send s m).dies = s.dies := rfl
@[simp] theorem send_locks (s : State) (m : Msg) : (send s m).locks = s.locks := rfl
@[simp] theorem send_faults (s : State) (m : Msg) : (send s m).faults = s.faults := rfl
@[simp] theorem send_shoots (s : State) (m : Msg) : (send s m).shoots = s.shoots := rfl
@[simp] theorem send_cores (s : State) (m : Msg) : (send s m).cores = s.cores := rfl
@[simp] theorem send_evacs (s : State) (m : Msg) : (send s m).evacs = s.evacs := rfl
@[simp] theorem send_launches (s : State) (m : Msg) : (send s m).launches = s.launches := rfl
@[simp] theorem send_wgs (s : State) (m : Msg) : (send s m).wgs = s.wgs := rfl
@[simp] theorem send_arrivals (s : State) (m : Msg) : (send s m).arrivals = s.arrivals := rfl
@[simp] theorem send_copies (s : State) (m : Msg) : (send s m).copies = s.copies := rfl
@[simp] theorem send_calls (s : State) (m : Msg) : (send s m).calls = s.calls := rfl

/-! ## addLock -/

@[simp] theorem addLock_agenda (s : State) (k : Lock) : (addLock s k).agenda = s.agenda := rfl
@[simp] theorem addLock_turn (s : State) (k : Lock) : (addLock s k).turn = s.turn := rfl
@[simp] theorem addLock_freeCtr (s : State) (k : Lock) : (addLock s k).freeCtr = s.freeCtr := rfl
@[simp] theorem addLock_cur (s : State) (k : Lock) : (addLock s k).cur = s.cur := rfl
@[simp] theorem addLock_curCall (s : State) (k : Lock) : (addLock s k).curCall = s.curCall := rfl
@[simp] theorem addLock_arg (s : State) (k : Lock) : (addLock s k).arg = s.arg := rfl
@[simp] theorem addLock_clk (s : State) (k : Lock) : (addLock s k).clk = s.clk := rfl
@[simp] theorem addLock_compMem (s : State) (k : Lock) : (addLock s k).compMem = s.compMem := rfl
@[simp] theorem addLock_compPoison (s : State) (k : Lock) : (addLock s k).compPoison = s.compPoison := rfl
@[simp] theorem addLock_outbox (s : State) (k : Lock) : (addLock s k).outbox = s.outbox := rfl
@[simp] theorem addLock_inbox (s : State) (k : Lock) : (addLock s k).inbox = s.inbox := rfl
@[simp] theorem addLock_answers (s : State) (k : Lock) : (addLock s k).answers = s.answers := rfl
@[simp] theorem addLock_boot (s : State) (k : Lock) : (addLock s k).boot = s.boot := rfl
@[simp] theorem addLock_imgReq (s : State) (k : Lock) : (addLock s k).imgReq = s.imgReq := rfl
@[simp] theorem addLock_sram (s : State) (k : Lock) : (addLock s k).sram = s.sram := rfl
@[simp] theorem addLock_fwImage (s : State) (k : Lock) : (addLock s k).fwImage = s.fwImage := rfl
@[simp] theorem addLock_fwVersion (s : State) (k : Lock) : (addLock s k).fwVersion = s.fwVersion := rfl
@[simp] theorem addLock_fuseMin (s : State) (k : Lock) : (addLock s k).fuseMin = s.fuseMin := rfl
@[simp] theorem addLock_devSeq (s : State) (k : Lock) : (addLock s k).devSeq = s.devSeq := rfl
@[simp] theorem addLock_incarnation (s : State) (k : Lock) : (addLock s k).incarnation = s.incarnation := rfl
@[simp] theorem addLock_mapBuf (s : State) (k : Lock) : (addLock s k).mapBuf = s.mapBuf := rfl
@[simp] theorem addLock_mapGen (s : State) (k : Lock) : (addLock s k).mapGen = s.mapGen := rfl
@[simp] theorem addLock_mapWait (s : State) (k : Lock) : (addLock s k).mapWait = s.mapWait := rfl
@[simp] theorem addLock_mapDirty (s : State) (k : Lock) : (addLock s k).mapDirty = s.mapDirty := rfl
@[simp] theorem addLock_mapHash (s : State) (k : Lock) : (addLock s k).mapHash = s.mapHash := rfl
@[simp] theorem addLock_heldReports (s : State) (k : Lock) : (addLock s k).heldReports = s.heldReports := rfl
@[simp] theorem addLock_mapCovers (s : State) (k : Lock) : (addLock s k).mapCovers = s.mapCovers := rfl
@[simp] theorem addLock_retLists (s : State) (k : Lock) : (addLock s k).retLists = s.retLists := rfl
@[simp] theorem addLock_parts (s : State) (k : Lock) : (addLock s k).parts = s.parts := rfl
@[simp] theorem addLock_remap (s : State) (k : Lock) : (addLock s k).remap = s.remap := rfl
@[simp] theorem addLock_spares (s : State) (k : Lock) : (addLock s k).spares = s.spares := rfl
@[simp] theorem addLock_links (s : State) (k : Lock) : (addLock s k).links = s.links := rfl
@[simp] theorem addLock_mem (s : State) (k : Lock) : (addLock s k).mem = s.mem := rfl
@[simp] theorem addLock_memPoison (s : State) (k : Lock) : (addLock s k).memPoison = s.memPoison := rfl
@[simp] theorem addLock_stks (s : State) (k : Lock) : (addLock s k).stks = s.stks := rfl
@[simp] theorem addLock_dies (s : State) (k : Lock) : (addLock s k).dies = s.dies := rfl
@[simp] theorem addLock_faults (s : State) (k : Lock) : (addLock s k).faults = s.faults := rfl
@[simp] theorem addLock_shoots (s : State) (k : Lock) : (addLock s k).shoots = s.shoots := rfl
@[simp] theorem addLock_cores (s : State) (k : Lock) : (addLock s k).cores = s.cores := rfl
@[simp] theorem addLock_evacs (s : State) (k : Lock) : (addLock s k).evacs = s.evacs := rfl
@[simp] theorem addLock_launches (s : State) (k : Lock) : (addLock s k).launches = s.launches := rfl
@[simp] theorem addLock_wgs (s : State) (k : Lock) : (addLock s k).wgs = s.wgs := rfl
@[simp] theorem addLock_arrivals (s : State) (k : Lock) : (addLock s k).arrivals = s.arrivals := rfl
@[simp] theorem addLock_copies (s : State) (k : Lock) : (addLock s k).copies = s.copies := rfl
@[simp] theorem addLock_calls (s : State) (k : Lock) : (addLock s k).calls = s.calls := rfl

/-! ## dropLocks -/

@[simp] theorem dropLocks_agenda (s : State) (o : Nat) : (dropLocks s o).agenda = s.agenda := rfl
@[simp] theorem dropLocks_turn (s : State) (o : Nat) : (dropLocks s o).turn = s.turn := rfl
@[simp] theorem dropLocks_freeCtr (s : State) (o : Nat) : (dropLocks s o).freeCtr = s.freeCtr := rfl
@[simp] theorem dropLocks_nextId (s : State) (o : Nat) : (dropLocks s o).nextId = s.nextId := rfl
@[simp] theorem dropLocks_cur (s : State) (o : Nat) : (dropLocks s o).cur = s.cur := rfl
@[simp] theorem dropLocks_curCall (s : State) (o : Nat) : (dropLocks s o).curCall = s.curCall := rfl
@[simp] theorem dropLocks_arg (s : State) (o : Nat) : (dropLocks s o).arg = s.arg := rfl
@[simp] theorem dropLocks_clk (s : State) (o : Nat) : (dropLocks s o).clk = s.clk := rfl
@[simp] theorem dropLocks_compMem (s : State) (o : Nat) : (dropLocks s o).compMem = s.compMem := rfl
@[simp] theorem dropLocks_compPoison (s : State) (o : Nat) : (dropLocks s o).compPoison = s.compPoison := rfl
@[simp] theorem dropLocks_outbox (s : State) (o : Nat) : (dropLocks s o).outbox = s.outbox := rfl
@[simp] theorem dropLocks_inbox (s : State) (o : Nat) : (dropLocks s o).inbox = s.inbox := rfl
@[simp] theorem dropLocks_answers (s : State) (o : Nat) : (dropLocks s o).answers = s.answers := rfl
@[simp] theorem dropLocks_boot (s : State) (o : Nat) : (dropLocks s o).boot = s.boot := rfl
@[simp] theorem dropLocks_imgReq (s : State) (o : Nat) : (dropLocks s o).imgReq = s.imgReq := rfl
@[simp] theorem dropLocks_sram (s : State) (o : Nat) : (dropLocks s o).sram = s.sram := rfl
@[simp] theorem dropLocks_fwImage (s : State) (o : Nat) : (dropLocks s o).fwImage = s.fwImage := rfl
@[simp] theorem dropLocks_fwVersion (s : State) (o : Nat) : (dropLocks s o).fwVersion = s.fwVersion := rfl
@[simp] theorem dropLocks_fuseMin (s : State) (o : Nat) : (dropLocks s o).fuseMin = s.fuseMin := rfl
@[simp] theorem dropLocks_devSeq (s : State) (o : Nat) : (dropLocks s o).devSeq = s.devSeq := rfl
@[simp] theorem dropLocks_incarnation (s : State) (o : Nat) : (dropLocks s o).incarnation = s.incarnation := rfl
@[simp] theorem dropLocks_mapBuf (s : State) (o : Nat) : (dropLocks s o).mapBuf = s.mapBuf := rfl
@[simp] theorem dropLocks_mapGen (s : State) (o : Nat) : (dropLocks s o).mapGen = s.mapGen := rfl
@[simp] theorem dropLocks_mapWait (s : State) (o : Nat) : (dropLocks s o).mapWait = s.mapWait := rfl
@[simp] theorem dropLocks_mapDirty (s : State) (o : Nat) : (dropLocks s o).mapDirty = s.mapDirty := rfl
@[simp] theorem dropLocks_mapHash (s : State) (o : Nat) : (dropLocks s o).mapHash = s.mapHash := rfl
@[simp] theorem dropLocks_heldReports (s : State) (o : Nat) : (dropLocks s o).heldReports = s.heldReports := rfl
@[simp] theorem dropLocks_mapCovers (s : State) (o : Nat) : (dropLocks s o).mapCovers = s.mapCovers := rfl
@[simp] theorem dropLocks_retLists (s : State) (o : Nat) : (dropLocks s o).retLists = s.retLists := rfl
@[simp] theorem dropLocks_parts (s : State) (o : Nat) : (dropLocks s o).parts = s.parts := rfl
@[simp] theorem dropLocks_remap (s : State) (o : Nat) : (dropLocks s o).remap = s.remap := rfl
@[simp] theorem dropLocks_spares (s : State) (o : Nat) : (dropLocks s o).spares = s.spares := rfl
@[simp] theorem dropLocks_links (s : State) (o : Nat) : (dropLocks s o).links = s.links := rfl
@[simp] theorem dropLocks_mem (s : State) (o : Nat) : (dropLocks s o).mem = s.mem := rfl
@[simp] theorem dropLocks_memPoison (s : State) (o : Nat) : (dropLocks s o).memPoison = s.memPoison := rfl
@[simp] theorem dropLocks_stks (s : State) (o : Nat) : (dropLocks s o).stks = s.stks := rfl
@[simp] theorem dropLocks_dies (s : State) (o : Nat) : (dropLocks s o).dies = s.dies := rfl
@[simp] theorem dropLocks_faults (s : State) (o : Nat) : (dropLocks s o).faults = s.faults := rfl
@[simp] theorem dropLocks_shoots (s : State) (o : Nat) : (dropLocks s o).shoots = s.shoots := rfl
@[simp] theorem dropLocks_cores (s : State) (o : Nat) : (dropLocks s o).cores = s.cores := rfl
@[simp] theorem dropLocks_evacs (s : State) (o : Nat) : (dropLocks s o).evacs = s.evacs := rfl
@[simp] theorem dropLocks_launches (s : State) (o : Nat) : (dropLocks s o).launches = s.launches := rfl
@[simp] theorem dropLocks_wgs (s : State) (o : Nat) : (dropLocks s o).wgs = s.wgs := rfl
@[simp] theorem dropLocks_arrivals (s : State) (o : Nat) : (dropLocks s o).arrivals = s.arrivals := rfl
@[simp] theorem dropLocks_copies (s : State) (o : Nat) : (dropLocks s o).copies = s.copies := rfl
@[simp] theorem dropLocks_calls (s : State) (o : Nat) : (dropLocks s o).calls = s.calls := rfl

/-! ## endCall -/

@[simp] theorem endCall_agenda (s : State) (id st d : Nat) : (endCall s id st d).agenda = s.agenda := rfl
@[simp] theorem endCall_turn (s : State) (id st d : Nat) : (endCall s id st d).turn = s.turn := rfl
@[simp] theorem endCall_freeCtr (s : State) (id st d : Nat) : (endCall s id st d).freeCtr = s.freeCtr := rfl
@[simp] theorem endCall_nextId (s : State) (id st d : Nat) : (endCall s id st d).nextId = s.nextId := rfl
@[simp] theorem endCall_cur (s : State) (id st d : Nat) : (endCall s id st d).cur = s.cur := rfl
@[simp] theorem endCall_curCall (s : State) (id st d : Nat) : (endCall s id st d).curCall = s.curCall := rfl
@[simp] theorem endCall_arg (s : State) (id st d : Nat) : (endCall s id st d).arg = s.arg := rfl
@[simp] theorem endCall_clk (s : State) (id st d : Nat) : (endCall s id st d).clk = s.clk := rfl
@[simp] theorem endCall_compMem (s : State) (id st d : Nat) : (endCall s id st d).compMem = s.compMem := rfl
@[simp] theorem endCall_compPoison (s : State) (id st d : Nat) : (endCall s id st d).compPoison = s.compPoison := rfl
@[simp] theorem endCall_outbox (s : State) (id st d : Nat) : (endCall s id st d).outbox = s.outbox := rfl
@[simp] theorem endCall_inbox (s : State) (id st d : Nat) : (endCall s id st d).inbox = s.inbox := rfl
@[simp] theorem endCall_answers (s : State) (id st d : Nat) : (endCall s id st d).answers = s.answers := rfl
@[simp] theorem endCall_boot (s : State) (id st d : Nat) : (endCall s id st d).boot = s.boot := rfl
@[simp] theorem endCall_imgReq (s : State) (id st d : Nat) : (endCall s id st d).imgReq = s.imgReq := rfl
@[simp] theorem endCall_sram (s : State) (id st d : Nat) : (endCall s id st d).sram = s.sram := rfl
@[simp] theorem endCall_fwImage (s : State) (id st d : Nat) : (endCall s id st d).fwImage = s.fwImage := rfl
@[simp] theorem endCall_fwVersion (s : State) (id st d : Nat) : (endCall s id st d).fwVersion = s.fwVersion := rfl
@[simp] theorem endCall_fuseMin (s : State) (id st d : Nat) : (endCall s id st d).fuseMin = s.fuseMin := rfl
@[simp] theorem endCall_devSeq (s : State) (id st d : Nat) : (endCall s id st d).devSeq = s.devSeq := rfl
@[simp] theorem endCall_incarnation (s : State) (id st d : Nat) : (endCall s id st d).incarnation = s.incarnation := rfl
@[simp] theorem endCall_mapBuf (s : State) (id st d : Nat) : (endCall s id st d).mapBuf = s.mapBuf := rfl
@[simp] theorem endCall_mapGen (s : State) (id st d : Nat) : (endCall s id st d).mapGen = s.mapGen := rfl
@[simp] theorem endCall_mapWait (s : State) (id st d : Nat) : (endCall s id st d).mapWait = s.mapWait := rfl
@[simp] theorem endCall_mapDirty (s : State) (id st d : Nat) : (endCall s id st d).mapDirty = s.mapDirty := rfl
@[simp] theorem endCall_mapHash (s : State) (id st d : Nat) : (endCall s id st d).mapHash = s.mapHash := rfl
@[simp] theorem endCall_heldReports (s : State) (id st d : Nat) : (endCall s id st d).heldReports = s.heldReports := rfl
@[simp] theorem endCall_mapCovers (s : State) (id st d : Nat) : (endCall s id st d).mapCovers = s.mapCovers := rfl
@[simp] theorem endCall_retLists (s : State) (id st d : Nat) : (endCall s id st d).retLists = s.retLists := rfl
@[simp] theorem endCall_parts (s : State) (id st d : Nat) : (endCall s id st d).parts = s.parts := rfl
@[simp] theorem endCall_remap (s : State) (id st d : Nat) : (endCall s id st d).remap = s.remap := rfl
@[simp] theorem endCall_spares (s : State) (id st d : Nat) : (endCall s id st d).spares = s.spares := rfl
@[simp] theorem endCall_links (s : State) (id st d : Nat) : (endCall s id st d).links = s.links := rfl
@[simp] theorem endCall_mem (s : State) (id st d : Nat) : (endCall s id st d).mem = s.mem := rfl
@[simp] theorem endCall_memPoison (s : State) (id st d : Nat) : (endCall s id st d).memPoison = s.memPoison := rfl
@[simp] theorem endCall_stks (s : State) (id st d : Nat) : (endCall s id st d).stks = s.stks := rfl
@[simp] theorem endCall_dies (s : State) (id st d : Nat) : (endCall s id st d).dies = s.dies := rfl
@[simp] theorem endCall_locks (s : State) (id st d : Nat) : (endCall s id st d).locks = s.locks := rfl
@[simp] theorem endCall_faults (s : State) (id st d : Nat) : (endCall s id st d).faults = s.faults := rfl
@[simp] theorem endCall_shoots (s : State) (id st d : Nat) : (endCall s id st d).shoots = s.shoots := rfl
@[simp] theorem endCall_cores (s : State) (id st d : Nat) : (endCall s id st d).cores = s.cores := rfl
@[simp] theorem endCall_evacs (s : State) (id st d : Nat) : (endCall s id st d).evacs = s.evacs := rfl
@[simp] theorem endCall_launches (s : State) (id st d : Nat) : (endCall s id st d).launches = s.launches := rfl
@[simp] theorem endCall_wgs (s : State) (id st d : Nat) : (endCall s id st d).wgs = s.wgs := rfl
@[simp] theorem endCall_arrivals (s : State) (id st d : Nat) : (endCall s id st d).arrivals = s.arrivals := rfl
@[simp] theorem endCall_copies (s : State) (id st d : Nat) : (endCall s id st d).copies = s.copies := rfl

/-! ## freshId -/

@[simp] theorem freshId_agenda (s : State) : (freshId s).2.agenda = s.agenda := rfl
@[simp] theorem freshId_turn (s : State) : (freshId s).2.turn = s.turn := rfl
@[simp] theorem freshId_freeCtr (s : State) : (freshId s).2.freeCtr = s.freeCtr := rfl
@[simp] theorem freshId_cur (s : State) : (freshId s).2.cur = s.cur := rfl
@[simp] theorem freshId_curCall (s : State) : (freshId s).2.curCall = s.curCall := rfl
@[simp] theorem freshId_arg (s : State) : (freshId s).2.arg = s.arg := rfl
@[simp] theorem freshId_clk (s : State) : (freshId s).2.clk = s.clk := rfl
@[simp] theorem freshId_compMem (s : State) : (freshId s).2.compMem = s.compMem := rfl
@[simp] theorem freshId_compPoison (s : State) : (freshId s).2.compPoison = s.compPoison := rfl
@[simp] theorem freshId_outbox (s : State) : (freshId s).2.outbox = s.outbox := rfl
@[simp] theorem freshId_inbox (s : State) : (freshId s).2.inbox = s.inbox := rfl
@[simp] theorem freshId_answers (s : State) : (freshId s).2.answers = s.answers := rfl
@[simp] theorem freshId_boot (s : State) : (freshId s).2.boot = s.boot := rfl
@[simp] theorem freshId_imgReq (s : State) : (freshId s).2.imgReq = s.imgReq := rfl
@[simp] theorem freshId_sram (s : State) : (freshId s).2.sram = s.sram := rfl
@[simp] theorem freshId_fwImage (s : State) : (freshId s).2.fwImage = s.fwImage := rfl
@[simp] theorem freshId_fwVersion (s : State) : (freshId s).2.fwVersion = s.fwVersion := rfl
@[simp] theorem freshId_fuseMin (s : State) : (freshId s).2.fuseMin = s.fuseMin := rfl
@[simp] theorem freshId_devSeq (s : State) : (freshId s).2.devSeq = s.devSeq := rfl
@[simp] theorem freshId_incarnation (s : State) : (freshId s).2.incarnation = s.incarnation := rfl
@[simp] theorem freshId_mapBuf (s : State) : (freshId s).2.mapBuf = s.mapBuf := rfl
@[simp] theorem freshId_mapGen (s : State) : (freshId s).2.mapGen = s.mapGen := rfl
@[simp] theorem freshId_mapWait (s : State) : (freshId s).2.mapWait = s.mapWait := rfl
@[simp] theorem freshId_mapDirty (s : State) : (freshId s).2.mapDirty = s.mapDirty := rfl
@[simp] theorem freshId_mapHash (s : State) : (freshId s).2.mapHash = s.mapHash := rfl
@[simp] theorem freshId_heldReports (s : State) : (freshId s).2.heldReports = s.heldReports := rfl
@[simp] theorem freshId_mapCovers (s : State) : (freshId s).2.mapCovers = s.mapCovers := rfl
@[simp] theorem freshId_retLists (s : State) : (freshId s).2.retLists = s.retLists := rfl
@[simp] theorem freshId_parts (s : State) : (freshId s).2.parts = s.parts := rfl
@[simp] theorem freshId_remap (s : State) : (freshId s).2.remap = s.remap := rfl
@[simp] theorem freshId_spares (s : State) : (freshId s).2.spares = s.spares := rfl
@[simp] theorem freshId_links (s : State) : (freshId s).2.links = s.links := rfl
@[simp] theorem freshId_mem (s : State) : (freshId s).2.mem = s.mem := rfl
@[simp] theorem freshId_memPoison (s : State) : (freshId s).2.memPoison = s.memPoison := rfl
@[simp] theorem freshId_stks (s : State) : (freshId s).2.stks = s.stks := rfl
@[simp] theorem freshId_dies (s : State) : (freshId s).2.dies = s.dies := rfl
@[simp] theorem freshId_locks (s : State) : (freshId s).2.locks = s.locks := rfl
@[simp] theorem freshId_faults (s : State) : (freshId s).2.faults = s.faults := rfl
@[simp] theorem freshId_shoots (s : State) : (freshId s).2.shoots = s.shoots := rfl
@[simp] theorem freshId_cores (s : State) : (freshId s).2.cores = s.cores := rfl
@[simp] theorem freshId_evacs (s : State) : (freshId s).2.evacs = s.evacs := rfl
@[simp] theorem freshId_launches (s : State) : (freshId s).2.launches = s.launches := rfl
@[simp] theorem freshId_wgs (s : State) : (freshId s).2.wgs = s.wgs := rfl
@[simp] theorem freshId_arrivals (s : State) : (freshId s).2.arrivals = s.arrivals := rfl
@[simp] theorem freshId_copies (s : State) : (freshId s).2.copies = s.copies := rfl
@[simp] theorem freshId_calls (s : State) : (freshId s).2.calls = s.calls := rfl

/-! ## freshWord -/

@[simp] theorem freshWord_agenda (s : State) : (freshWord s).2.agenda = s.agenda := rfl
@[simp] theorem freshWord_turn (s : State) : (freshWord s).2.turn = s.turn := rfl
@[simp] theorem freshWord_nextId (s : State) : (freshWord s).2.nextId = s.nextId := rfl
@[simp] theorem freshWord_cur (s : State) : (freshWord s).2.cur = s.cur := rfl
@[simp] theorem freshWord_curCall (s : State) : (freshWord s).2.curCall = s.curCall := rfl
@[simp] theorem freshWord_arg (s : State) : (freshWord s).2.arg = s.arg := rfl
@[simp] theorem freshWord_clk (s : State) : (freshWord s).2.clk = s.clk := rfl
@[simp] theorem freshWord_compMem (s : State) : (freshWord s).2.compMem = s.compMem := rfl
@[simp] theorem freshWord_compPoison (s : State) : (freshWord s).2.compPoison = s.compPoison := rfl
@[simp] theorem freshWord_outbox (s : State) : (freshWord s).2.outbox = s.outbox := rfl
@[simp] theorem freshWord_inbox (s : State) : (freshWord s).2.inbox = s.inbox := rfl
@[simp] theorem freshWord_answers (s : State) : (freshWord s).2.answers = s.answers := rfl
@[simp] theorem freshWord_boot (s : State) : (freshWord s).2.boot = s.boot := rfl
@[simp] theorem freshWord_imgReq (s : State) : (freshWord s).2.imgReq = s.imgReq := rfl
@[simp] theorem freshWord_sram (s : State) : (freshWord s).2.sram = s.sram := rfl
@[simp] theorem freshWord_fwImage (s : State) : (freshWord s).2.fwImage = s.fwImage := rfl
@[simp] theorem freshWord_fwVersion (s : State) : (freshWord s).2.fwVersion = s.fwVersion := rfl
@[simp] theorem freshWord_fuseMin (s : State) : (freshWord s).2.fuseMin = s.fuseMin := rfl
@[simp] theorem freshWord_devSeq (s : State) : (freshWord s).2.devSeq = s.devSeq := rfl
@[simp] theorem freshWord_incarnation (s : State) : (freshWord s).2.incarnation = s.incarnation := rfl
@[simp] theorem freshWord_mapBuf (s : State) : (freshWord s).2.mapBuf = s.mapBuf := rfl
@[simp] theorem freshWord_mapGen (s : State) : (freshWord s).2.mapGen = s.mapGen := rfl
@[simp] theorem freshWord_mapWait (s : State) : (freshWord s).2.mapWait = s.mapWait := rfl
@[simp] theorem freshWord_mapDirty (s : State) : (freshWord s).2.mapDirty = s.mapDirty := rfl
@[simp] theorem freshWord_mapHash (s : State) : (freshWord s).2.mapHash = s.mapHash := rfl
@[simp] theorem freshWord_heldReports (s : State) : (freshWord s).2.heldReports = s.heldReports := rfl
@[simp] theorem freshWord_mapCovers (s : State) : (freshWord s).2.mapCovers = s.mapCovers := rfl
@[simp] theorem freshWord_retLists (s : State) : (freshWord s).2.retLists = s.retLists := rfl
@[simp] theorem freshWord_parts (s : State) : (freshWord s).2.parts = s.parts := rfl
@[simp] theorem freshWord_remap (s : State) : (freshWord s).2.remap = s.remap := rfl
@[simp] theorem freshWord_spares (s : State) : (freshWord s).2.spares = s.spares := rfl
@[simp] theorem freshWord_links (s : State) : (freshWord s).2.links = s.links := rfl
@[simp] theorem freshWord_mem (s : State) : (freshWord s).2.mem = s.mem := rfl
@[simp] theorem freshWord_memPoison (s : State) : (freshWord s).2.memPoison = s.memPoison := rfl
@[simp] theorem freshWord_stks (s : State) : (freshWord s).2.stks = s.stks := rfl
@[simp] theorem freshWord_dies (s : State) : (freshWord s).2.dies = s.dies := rfl
@[simp] theorem freshWord_locks (s : State) : (freshWord s).2.locks = s.locks := rfl
@[simp] theorem freshWord_faults (s : State) : (freshWord s).2.faults = s.faults := rfl
@[simp] theorem freshWord_shoots (s : State) : (freshWord s).2.shoots = s.shoots := rfl
@[simp] theorem freshWord_cores (s : State) : (freshWord s).2.cores = s.cores := rfl
@[simp] theorem freshWord_evacs (s : State) : (freshWord s).2.evacs = s.evacs := rfl
@[simp] theorem freshWord_launches (s : State) : (freshWord s).2.launches = s.launches := rfl
@[simp] theorem freshWord_wgs (s : State) : (freshWord s).2.wgs = s.wgs := rfl
@[simp] theorem freshWord_arrivals (s : State) : (freshWord s).2.arrivals = s.arrivals := rfl
@[simp] theorem freshWord_copies (s : State) : (freshWord s).2.copies = s.copies := rfl
@[simp] theorem freshWord_calls (s : State) : (freshWord s).2.calls = s.calls := rfl

/-! ## nextSeq -/

@[simp] theorem nextSeq_agenda (s : State) : (nextSeq s).2.agenda = s.agenda := rfl
@[simp] theorem nextSeq_turn (s : State) : (nextSeq s).2.turn = s.turn := rfl
@[simp] theorem nextSeq_freeCtr (s : State) : (nextSeq s).2.freeCtr = s.freeCtr := rfl
@[simp] theorem nextSeq_nextId (s : State) : (nextSeq s).2.nextId = s.nextId := rfl
@[simp] theorem nextSeq_cur (s : State) : (nextSeq s).2.cur = s.cur := rfl
@[simp] theorem nextSeq_curCall (s : State) : (nextSeq s).2.curCall = s.curCall := rfl
@[simp] theorem nextSeq_arg (s : State) : (nextSeq s).2.arg = s.arg := rfl
@[simp] theorem nextSeq_clk (s : State) : (nextSeq s).2.clk = s.clk := rfl
@[simp] theorem nextSeq_compMem (s : State) : (nextSeq s).2.compMem = s.compMem := rfl
@[simp] theorem nextSeq_compPoison (s : State) : (nextSeq s).2.compPoison = s.compPoison := rfl
@[simp] theorem nextSeq_outbox (s : State) : (nextSeq s).2.outbox = s.outbox := rfl
@[simp] theorem nextSeq_inbox (s : State) : (nextSeq s).2.inbox = s.inbox := rfl
@[simp] theorem nextSeq_answers (s : State) : (nextSeq s).2.answers = s.answers := rfl
@[simp] theorem nextSeq_boot (s : State) : (nextSeq s).2.boot = s.boot := rfl
@[simp] theorem nextSeq_imgReq (s : State) : (nextSeq s).2.imgReq = s.imgReq := rfl
@[simp] theorem nextSeq_sram (s : State) : (nextSeq s).2.sram = s.sram := rfl
@[simp] theorem nextSeq_fwImage (s : State) : (nextSeq s).2.fwImage = s.fwImage := rfl
@[simp] theorem nextSeq_fwVersion (s : State) : (nextSeq s).2.fwVersion = s.fwVersion := rfl
@[simp] theorem nextSeq_fuseMin (s : State) : (nextSeq s).2.fuseMin = s.fuseMin := rfl
@[simp] theorem nextSeq_incarnation (s : State) : (nextSeq s).2.incarnation = s.incarnation := rfl
@[simp] theorem nextSeq_mapBuf (s : State) : (nextSeq s).2.mapBuf = s.mapBuf := rfl
@[simp] theorem nextSeq_mapGen (s : State) : (nextSeq s).2.mapGen = s.mapGen := rfl
@[simp] theorem nextSeq_mapWait (s : State) : (nextSeq s).2.mapWait = s.mapWait := rfl
@[simp] theorem nextSeq_mapDirty (s : State) : (nextSeq s).2.mapDirty = s.mapDirty := rfl
@[simp] theorem nextSeq_mapHash (s : State) : (nextSeq s).2.mapHash = s.mapHash := rfl
@[simp] theorem nextSeq_heldReports (s : State) : (nextSeq s).2.heldReports = s.heldReports := rfl
@[simp] theorem nextSeq_mapCovers (s : State) : (nextSeq s).2.mapCovers = s.mapCovers := rfl
@[simp] theorem nextSeq_retLists (s : State) : (nextSeq s).2.retLists = s.retLists := rfl
@[simp] theorem nextSeq_parts (s : State) : (nextSeq s).2.parts = s.parts := rfl
@[simp] theorem nextSeq_remap (s : State) : (nextSeq s).2.remap = s.remap := rfl
@[simp] theorem nextSeq_spares (s : State) : (nextSeq s).2.spares = s.spares := rfl
@[simp] theorem nextSeq_links (s : State) : (nextSeq s).2.links = s.links := rfl
@[simp] theorem nextSeq_mem (s : State) : (nextSeq s).2.mem = s.mem := rfl
@[simp] theorem nextSeq_memPoison (s : State) : (nextSeq s).2.memPoison = s.memPoison := rfl
@[simp] theorem nextSeq_stks (s : State) : (nextSeq s).2.stks = s.stks := rfl
@[simp] theorem nextSeq_dies (s : State) : (nextSeq s).2.dies = s.dies := rfl
@[simp] theorem nextSeq_locks (s : State) : (nextSeq s).2.locks = s.locks := rfl
@[simp] theorem nextSeq_faults (s : State) : (nextSeq s).2.faults = s.faults := rfl
@[simp] theorem nextSeq_shoots (s : State) : (nextSeq s).2.shoots = s.shoots := rfl
@[simp] theorem nextSeq_cores (s : State) : (nextSeq s).2.cores = s.cores := rfl
@[simp] theorem nextSeq_evacs (s : State) : (nextSeq s).2.evacs = s.evacs := rfl
@[simp] theorem nextSeq_launches (s : State) : (nextSeq s).2.launches = s.launches := rfl
@[simp] theorem nextSeq_wgs (s : State) : (nextSeq s).2.wgs = s.wgs := rfl
@[simp] theorem nextSeq_arrivals (s : State) : (nextSeq s).2.arrivals = s.arrivals := rfl
@[simp] theorem nextSeq_copies (s : State) : (nextSeq s).2.copies = s.copies := rfl
@[simp] theorem nextSeq_calls (s : State) : (nextSeq s).2.calls = s.calls := rfl

/-! ## memWrite -/

@[simp] theorem memWrite_agenda (s : State) (pa : Nat) (bs : List Byte) : (memWrite s pa bs).agenda = s.agenda := by unfold memWrite; split <;> rfl
@[simp] theorem memWrite_turn (s : State) (pa : Nat) (bs : List Byte) : (memWrite s pa bs).turn = s.turn := by unfold memWrite; split <;> rfl
@[simp] theorem memWrite_freeCtr (s : State) (pa : Nat) (bs : List Byte) : (memWrite s pa bs).freeCtr = s.freeCtr := by unfold memWrite; split <;> rfl
@[simp] theorem memWrite_nextId (s : State) (pa : Nat) (bs : List Byte) : (memWrite s pa bs).nextId = s.nextId := by unfold memWrite; split <;> rfl
@[simp] theorem memWrite_cur (s : State) (pa : Nat) (bs : List Byte) : (memWrite s pa bs).cur = s.cur := by unfold memWrite; split <;> rfl
@[simp] theorem memWrite_curCall (s : State) (pa : Nat) (bs : List Byte) : (memWrite s pa bs).curCall = s.curCall := by unfold memWrite; split <;> rfl
@[simp] theorem memWrite_arg (s : State) (pa : Nat) (bs : List Byte) : (memWrite s pa bs).arg = s.arg := by unfold memWrite; split <;> rfl
@[simp] theorem memWrite_clk (s : State) (pa : Nat) (bs : List Byte) : (memWrite s pa bs).clk = s.clk := by unfold memWrite; split <;> rfl
@[simp] theorem memWrite_compMem (s : State) (pa : Nat) (bs : List Byte) : (memWrite s pa bs).compMem = s.compMem := by unfold memWrite; split <;> rfl
@[simp] theorem memWrite_compPoison (s : State) (pa : Nat) (bs : List Byte) : (memWrite s pa bs).compPoison = s.compPoison := by unfold memWrite; split <;> rfl
@[simp] theorem memWrite_outbox (s : State) (pa : Nat) (bs : List Byte) : (memWrite s pa bs).outbox = s.outbox := by unfold memWrite; split <;> rfl
@[simp] theorem memWrite_inbox (s : State) (pa : Nat) (bs : List Byte) : (memWrite s pa bs).inbox = s.inbox := by unfold memWrite; split <;> rfl
@[simp] theorem memWrite_answers (s : State) (pa : Nat) (bs : List Byte) : (memWrite s pa bs).answers = s.answers := by unfold memWrite; split <;> rfl
@[simp] theorem memWrite_boot (s : State) (pa : Nat) (bs : List Byte) : (memWrite s pa bs).boot = s.boot := by unfold memWrite; split <;> rfl
@[simp] theorem memWrite_imgReq (s : State) (pa : Nat) (bs : List Byte) : (memWrite s pa bs).imgReq = s.imgReq := by unfold memWrite; split <;> rfl
@[simp] theorem memWrite_sram (s : State) (pa : Nat) (bs : List Byte) : (memWrite s pa bs).sram = s.sram := by unfold memWrite; split <;> rfl
@[simp] theorem memWrite_fwImage (s : State) (pa : Nat) (bs : List Byte) : (memWrite s pa bs).fwImage = s.fwImage := by unfold memWrite; split <;> rfl
@[simp] theorem memWrite_fwVersion (s : State) (pa : Nat) (bs : List Byte) : (memWrite s pa bs).fwVersion = s.fwVersion := by unfold memWrite; split <;> rfl
@[simp] theorem memWrite_fuseMin (s : State) (pa : Nat) (bs : List Byte) : (memWrite s pa bs).fuseMin = s.fuseMin := by unfold memWrite; split <;> rfl
@[simp] theorem memWrite_devSeq (s : State) (pa : Nat) (bs : List Byte) : (memWrite s pa bs).devSeq = s.devSeq := by unfold memWrite; split <;> rfl
@[simp] theorem memWrite_incarnation (s : State) (pa : Nat) (bs : List Byte) : (memWrite s pa bs).incarnation = s.incarnation := by unfold memWrite; split <;> rfl
@[simp] theorem memWrite_mapBuf (s : State) (pa : Nat) (bs : List Byte) : (memWrite s pa bs).mapBuf = s.mapBuf := by unfold memWrite; split <;> rfl
@[simp] theorem memWrite_mapGen (s : State) (pa : Nat) (bs : List Byte) : (memWrite s pa bs).mapGen = s.mapGen := by unfold memWrite; split <;> rfl
@[simp] theorem memWrite_mapWait (s : State) (pa : Nat) (bs : List Byte) : (memWrite s pa bs).mapWait = s.mapWait := by unfold memWrite; split <;> rfl
@[simp] theorem memWrite_mapDirty (s : State) (pa : Nat) (bs : List Byte) : (memWrite s pa bs).mapDirty = s.mapDirty := by unfold memWrite; split <;> rfl
@[simp] theorem memWrite_mapHash (s : State) (pa : Nat) (bs : List Byte) : (memWrite s pa bs).mapHash = s.mapHash := by unfold memWrite; split <;> rfl
@[simp] theorem memWrite_heldReports (s : State) (pa : Nat) (bs : List Byte) : (memWrite s pa bs).heldReports = s.heldReports := by unfold memWrite; split <;> rfl
@[simp] theorem memWrite_mapCovers (s : State) (pa : Nat) (bs : List Byte) : (memWrite s pa bs).mapCovers = s.mapCovers := by unfold memWrite; split <;> rfl
@[simp] theorem memWrite_retLists (s : State) (pa : Nat) (bs : List Byte) : (memWrite s pa bs).retLists = s.retLists := by unfold memWrite; split <;> rfl
@[simp] theorem memWrite_parts (s : State) (pa : Nat) (bs : List Byte) : (memWrite s pa bs).parts = s.parts := by unfold memWrite; split <;> rfl
@[simp] theorem memWrite_remap (s : State) (pa : Nat) (bs : List Byte) : (memWrite s pa bs).remap = s.remap := by unfold memWrite; split <;> rfl
@[simp] theorem memWrite_spares (s : State) (pa : Nat) (bs : List Byte) : (memWrite s pa bs).spares = s.spares := by unfold memWrite; split <;> rfl
@[simp] theorem memWrite_links (s : State) (pa : Nat) (bs : List Byte) : (memWrite s pa bs).links = s.links := by unfold memWrite; split <;> rfl
@[simp] theorem memWrite_stks (s : State) (pa : Nat) (bs : List Byte) : (memWrite s pa bs).stks = s.stks := by unfold memWrite; split <;> rfl
@[simp] theorem memWrite_dies (s : State) (pa : Nat) (bs : List Byte) : (memWrite s pa bs).dies = s.dies := by unfold memWrite; split <;> rfl
@[simp] theorem memWrite_locks (s : State) (pa : Nat) (bs : List Byte) : (memWrite s pa bs).locks = s.locks := by unfold memWrite; split <;> rfl
@[simp] theorem memWrite_faults (s : State) (pa : Nat) (bs : List Byte) : (memWrite s pa bs).faults = s.faults := by unfold memWrite; split <;> rfl
@[simp] theorem memWrite_shoots (s : State) (pa : Nat) (bs : List Byte) : (memWrite s pa bs).shoots = s.shoots := by unfold memWrite; split <;> rfl
@[simp] theorem memWrite_cores (s : State) (pa : Nat) (bs : List Byte) : (memWrite s pa bs).cores = s.cores := by unfold memWrite; split <;> rfl
@[simp] theorem memWrite_evacs (s : State) (pa : Nat) (bs : List Byte) : (memWrite s pa bs).evacs = s.evacs := by unfold memWrite; split <;> rfl
@[simp] theorem memWrite_launches (s : State) (pa : Nat) (bs : List Byte) : (memWrite s pa bs).launches = s.launches := by unfold memWrite; split <;> rfl
@[simp] theorem memWrite_wgs (s : State) (pa : Nat) (bs : List Byte) : (memWrite s pa bs).wgs = s.wgs := by unfold memWrite; split <;> rfl
@[simp] theorem memWrite_arrivals (s : State) (pa : Nat) (bs : List Byte) : (memWrite s pa bs).arrivals = s.arrivals := by unfold memWrite; split <;> rfl
@[simp] theorem memWrite_copies (s : State) (pa : Nat) (bs : List Byte) : (memWrite s pa bs).copies = s.copies := by unfold memWrite; split <;> rfl
@[simp] theorem memWrite_calls (s : State) (pa : Nat) (bs : List Byte) : (memWrite s pa bs).calls = s.calls := by unfold memWrite; split <;> rfl
@[simp] theorem memWriteP_agenda (s : State) (pa : Nat) (bs : List (Byte × Bool)) : (memWriteP s pa bs).agenda = s.agenda := memWrite_agenda s pa _
@[simp] theorem memWriteP_turn (s : State) (pa : Nat) (bs : List (Byte × Bool)) : (memWriteP s pa bs).turn = s.turn := memWrite_turn s pa _
@[simp] theorem memWriteP_freeCtr (s : State) (pa : Nat) (bs : List (Byte × Bool)) : (memWriteP s pa bs).freeCtr = s.freeCtr := memWrite_freeCtr s pa _
@[simp] theorem memWriteP_nextId (s : State) (pa : Nat) (bs : List (Byte × Bool)) : (memWriteP s pa bs).nextId = s.nextId := memWrite_nextId s pa _
@[simp] theorem memWriteP_cur (s : State) (pa : Nat) (bs : List (Byte × Bool)) : (memWriteP s pa bs).cur = s.cur := memWrite_cur s pa _
@[simp] theorem memWriteP_curCall (s : State) (pa : Nat) (bs : List (Byte × Bool)) : (memWriteP s pa bs).curCall = s.curCall := memWrite_curCall s pa _
@[simp] theorem memWriteP_arg (s : State) (pa : Nat) (bs : List (Byte × Bool)) : (memWriteP s pa bs).arg = s.arg := memWrite_arg s pa _
@[simp] theorem memWriteP_clk (s : State) (pa : Nat) (bs : List (Byte × Bool)) : (memWriteP s pa bs).clk = s.clk := memWrite_clk s pa _
@[simp] theorem memWriteP_compMem (s : State) (pa : Nat) (bs : List (Byte × Bool)) : (memWriteP s pa bs).compMem = s.compMem := memWrite_compMem s pa _
@[simp] theorem memWriteP_compPoison (s : State) (pa : Nat) (bs : List (Byte × Bool)) : (memWriteP s pa bs).compPoison = s.compPoison := memWrite_compPoison s pa _
@[simp] theorem memWriteP_outbox (s : State) (pa : Nat) (bs : List (Byte × Bool)) : (memWriteP s pa bs).outbox = s.outbox := memWrite_outbox s pa _
@[simp] theorem memWriteP_inbox (s : State) (pa : Nat) (bs : List (Byte × Bool)) : (memWriteP s pa bs).inbox = s.inbox := memWrite_inbox s pa _
@[simp] theorem memWriteP_answers (s : State) (pa : Nat) (bs : List (Byte × Bool)) : (memWriteP s pa bs).answers = s.answers := memWrite_answers s pa _
@[simp] theorem memWriteP_boot (s : State) (pa : Nat) (bs : List (Byte × Bool)) : (memWriteP s pa bs).boot = s.boot := memWrite_boot s pa _
@[simp] theorem memWriteP_imgReq (s : State) (pa : Nat) (bs : List (Byte × Bool)) : (memWriteP s pa bs).imgReq = s.imgReq := memWrite_imgReq s pa _
@[simp] theorem memWriteP_sram (s : State) (pa : Nat) (bs : List (Byte × Bool)) : (memWriteP s pa bs).sram = s.sram := memWrite_sram s pa _
@[simp] theorem memWriteP_fwImage (s : State) (pa : Nat) (bs : List (Byte × Bool)) : (memWriteP s pa bs).fwImage = s.fwImage := memWrite_fwImage s pa _
@[simp] theorem memWriteP_fwVersion (s : State) (pa : Nat) (bs : List (Byte × Bool)) : (memWriteP s pa bs).fwVersion = s.fwVersion := memWrite_fwVersion s pa _
@[simp] theorem memWriteP_fuseMin (s : State) (pa : Nat) (bs : List (Byte × Bool)) : (memWriteP s pa bs).fuseMin = s.fuseMin := memWrite_fuseMin s pa _
@[simp] theorem memWriteP_devSeq (s : State) (pa : Nat) (bs : List (Byte × Bool)) : (memWriteP s pa bs).devSeq = s.devSeq := memWrite_devSeq s pa _
@[simp] theorem memWriteP_incarnation (s : State) (pa : Nat) (bs : List (Byte × Bool)) : (memWriteP s pa bs).incarnation = s.incarnation := memWrite_incarnation s pa _
@[simp] theorem memWriteP_mapBuf (s : State) (pa : Nat) (bs : List (Byte × Bool)) : (memWriteP s pa bs).mapBuf = s.mapBuf := memWrite_mapBuf s pa _
@[simp] theorem memWriteP_mapGen (s : State) (pa : Nat) (bs : List (Byte × Bool)) : (memWriteP s pa bs).mapGen = s.mapGen := memWrite_mapGen s pa _
@[simp] theorem memWriteP_mapWait (s : State) (pa : Nat) (bs : List (Byte × Bool)) : (memWriteP s pa bs).mapWait = s.mapWait := memWrite_mapWait s pa _
@[simp] theorem memWriteP_mapDirty (s : State) (pa : Nat) (bs : List (Byte × Bool)) : (memWriteP s pa bs).mapDirty = s.mapDirty := memWrite_mapDirty s pa _
@[simp] theorem memWriteP_mapHash (s : State) (pa : Nat) (bs : List (Byte × Bool)) : (memWriteP s pa bs).mapHash = s.mapHash := memWrite_mapHash s pa _
@[simp] theorem memWriteP_heldReports (s : State) (pa : Nat) (bs : List (Byte × Bool)) : (memWriteP s pa bs).heldReports = s.heldReports := memWrite_heldReports s pa _
@[simp] theorem memWriteP_mapCovers (s : State) (pa : Nat) (bs : List (Byte × Bool)) : (memWriteP s pa bs).mapCovers = s.mapCovers := memWrite_mapCovers s pa _
@[simp] theorem memWriteP_retLists (s : State) (pa : Nat) (bs : List (Byte × Bool)) : (memWriteP s pa bs).retLists = s.retLists := memWrite_retLists s pa _
@[simp] theorem memWriteP_parts (s : State) (pa : Nat) (bs : List (Byte × Bool)) : (memWriteP s pa bs).parts = s.parts := memWrite_parts s pa _
@[simp] theorem memWriteP_remap (s : State) (pa : Nat) (bs : List (Byte × Bool)) : (memWriteP s pa bs).remap = s.remap := memWrite_remap s pa _
@[simp] theorem memWriteP_spares (s : State) (pa : Nat) (bs : List (Byte × Bool)) : (memWriteP s pa bs).spares = s.spares := memWrite_spares s pa _
@[simp] theorem memWriteP_links (s : State) (pa : Nat) (bs : List (Byte × Bool)) : (memWriteP s pa bs).links = s.links := memWrite_links s pa _
@[simp] theorem memWriteP_stks (s : State) (pa : Nat) (bs : List (Byte × Bool)) : (memWriteP s pa bs).stks = s.stks := memWrite_stks s pa _
@[simp] theorem memWriteP_dies (s : State) (pa : Nat) (bs : List (Byte × Bool)) : (memWriteP s pa bs).dies = s.dies := memWrite_dies s pa _
@[simp] theorem memWriteP_locks (s : State) (pa : Nat) (bs : List (Byte × Bool)) : (memWriteP s pa bs).locks = s.locks := memWrite_locks s pa _
@[simp] theorem memWriteP_faults (s : State) (pa : Nat) (bs : List (Byte × Bool)) : (memWriteP s pa bs).faults = s.faults := memWrite_faults s pa _
@[simp] theorem memWriteP_shoots (s : State) (pa : Nat) (bs : List (Byte × Bool)) : (memWriteP s pa bs).shoots = s.shoots := memWrite_shoots s pa _
@[simp] theorem memWriteP_cores (s : State) (pa : Nat) (bs : List (Byte × Bool)) : (memWriteP s pa bs).cores = s.cores := memWrite_cores s pa _
@[simp] theorem memWriteP_evacs (s : State) (pa : Nat) (bs : List (Byte × Bool)) : (memWriteP s pa bs).evacs = s.evacs := memWrite_evacs s pa _
@[simp] theorem memWriteP_launches (s : State) (pa : Nat) (bs : List (Byte × Bool)) : (memWriteP s pa bs).launches = s.launches := memWrite_launches s pa _
@[simp] theorem memWriteP_wgs (s : State) (pa : Nat) (bs : List (Byte × Bool)) : (memWriteP s pa bs).wgs = s.wgs := memWrite_wgs s pa _
@[simp] theorem memWriteP_arrivals (s : State) (pa : Nat) (bs : List (Byte × Bool)) : (memWriteP s pa bs).arrivals = s.arrivals := memWrite_arrivals s pa _
@[simp] theorem memWriteP_copies (s : State) (pa : Nat) (bs : List (Byte × Bool)) : (memWriteP s pa bs).copies = s.copies := memWrite_copies s pa _
@[simp] theorem memWriteP_calls (s : State) (pa : Nat) (bs : List (Byte × Bool)) : (memWriteP s pa bs).calls = s.calls := memWrite_calls s pa _

end Sys2Proof.Machine
end

