-- ==== Sys2Proof/Laws/Memory.lean ====
section
/-! SUPPORT. Laws of device memory: a read after a write, the bytes a write leaves alone, and that every operation that writes memory
keeps its canonical form (R24). -/
namespace Sys2Proof.Machine

/-! ## Filtered maps -/

theorem smWfFrom_filter {α : Type} [DecidableEq α] {m : SMap α} {lo : Nat} {d : α} (p : Nat × α → Bool) (h : smWfFrom lo d m = true) :
    smWfFrom lo d (m.filter p) = true := by
  induction m generalizing lo with
  | nil => rfl
  | cons e r ih =>
    obtain ⟨a, v⟩ := e
    simp only [smWfFrom, Bool.and_eq_true, decide_eq_true_eq] at h
    by_cases hp : p (a, v) = true
    · simp only [List.filter_cons, hp, if_true, smWfFrom, Bool.and_eq_true, decide_eq_true_eq]
      exact ⟨h.1, ih h.2⟩
    · simp only [List.filter_cons, hp]
      exact smWfFrom_mono (Nat.le_trans h.1.1 (Nat.le_succ a)) (ih h.2)

theorem smWf_filter {α : Type} [DecidableEq α] {m : SMap α} {d : α} (p : Nat × α → Bool) (h : smWf m d = true) : smWf (m.filter p) d = true :=
  smWfFrom_filter p h

/-! ## memWrite -/

theorem memWrite_mem (s : State) (pa : Nat) (bs : List Byte) : (memWrite s pa bs).mem = smPutList s.mem pa bs 0 := by
  unfold memWrite
  split
  · next h => subst h; rfl
  · rfl

@[simp] theorem memWriteP_mem (s : State) (pa : Nat) (bs : List (Byte × Bool)) :
    (memWriteP s pa bs).mem = smPutList s.mem pa (bs.map Prod.fst) 0 := memWrite_mem s pa _

/-- A byte after a write: the written byte inside its range, the old one outside. -/
theorem memByte_memWrite (s : State) (pa p : Nat) (bs : List Byte) :
    memByte (memWrite s pa bs) p = if pa ≤ p ∧ p < pa + bs.length then bs.getD (p - pa) 0 else memByte s p := by
  simp only [memByte, memWrite_mem, smGet_smPutList]

theorem memByte_memWriteP (s : State) (pa p : Nat) (bs : List (Byte × Bool)) :
    memByte (memWriteP s pa bs) p = if pa ≤ p ∧ p < pa + bs.length then (bs.map Prod.fst).getD (p - pa) 0 else memByte s p := by
  simp only [memByte, memWriteP_mem, smGet_smPutList, List.length_map]

theorem memByte_memWrite_in (s : State) (pa i : Nat) (bs : List Byte) (y : Byte) (h : bs[i]? = some y) : memByte (memWrite s pa bs) (pa + i) = y := by
  have hi : i < bs.length := by
    by_contra hc
    rw [List.getElem?_eq_none (by omega)] at h
    exact absurd h (by simp)
  rw [memByte_memWrite, if_pos ⟨by omega, by omega⟩, Nat.add_sub_cancel_left, List.getD_eq_getElem?_getD, h]
  rfl

theorem memByte_memWrite_out (s : State) (pa p : Nat) (bs : List Byte) (h : ¬(pa ≤ p ∧ p < pa + bs.length)) :
    memByte (memWrite s pa bs) p = memByte s p := by rw [memByte_memWrite, if_neg h]

/-- Bytes written and read back whole. -/
theorem memBytes_memWrite_same (s : State) (pa : Nat) (bs : List Byte) : memBytes (memWrite s pa bs) pa bs.length = bs := by
  apply List.ext_getElem?
  intro i
  by_cases hi : i < bs.length
  · simp only [memBytes, smGetList, List.getElem?_map, List.getElem?_range hi, Option.map_some, List.getElem?_eq_getElem hi]
    exact congrArg some (memByte_memWrite_in s pa i bs _ (List.getElem?_eq_getElem hi))
  · rw [List.getElem?_eq_none (by simp [memBytes, smGetList]; omega), List.getElem?_eq_none (by omega)]

theorem memNat_memWrite_same (s : State) (pa : Nat) (bs : List Byte) : memNat (memWrite s pa bs) pa bs.length = bytesToNat bs := by
  rw [memNat, memBytes_memWrite_same]

/-! ## The canonical form -/

theorem memWrite_wf (s : State) (pa : Nat) (bs : List Byte) (h : Memory.wf s.mem = true) : Memory.wf (memWrite s pa bs).mem = true := by
  rw [memWrite_mem]; exact smWf_smPutList h

theorem memWriteP_wf (s : State) (pa : Nat) (bs : List (Byte × Bool)) (h : Memory.wf s.mem = true) : Memory.wf (memWriteP s pa bs).mem = true := by
  rw [memWriteP_mem]; exact smWf_smPutList h

theorem clearReserve_wf (s : State) (x : Partition) (h : Memory.wf s.mem = true) : Memory.wf (clearReserve s x).mem = true :=
  smWf_filter _ h

theorem imageRuns_wf (runs : List (Nat × List Byte)) (a : Nat) (m : SMap Byte) (h : Memory.wf m = true) :
    Memory.wf (runs.foldl (fun m (e : Nat × List Byte) => smPutList m (a + e.1) e.2 0) m) = true := by
  induction runs generalizing m with
  | nil => exact h
  | cons e r ih => exact ih _ (smWf_smPutList h)

theorem putImage_wf (s : State) (w : Workgroup) (h : Memory.wf s.mem = true) : Memory.wf (putImage s w).mem = true := by
  unfold putImage
  split
  · exact imageRuns_wf _ _ _ h
  · exact h

/-! ## Calls -/

theorem findCall_modCall_same (s : State) (id : Nat) (f : Call → Call) (hf : ∀ c, (f c).id = c.id) :
    findCall (modCall s id f) id = (findCall s id).map f := by
  simp only [findCall, modCall]
  induction s.calls with
  | nil => rfl
  | cons c r ih =>
    by_cases h : c.id = id
    · subst h; simp [hf]
    · simp [h, ih]

theorem findCall_modCall_other (s : State) (id j : Nat) (f : Call → Call) (hf : ∀ c, (f c).id = c.id) (hj : j ≠ id) :
    findCall (modCall s id f) j = findCall s j := by
  simp only [findCall, modCall]
  induction s.calls with
  | nil => rfl
  | cons c r ih =>
    by_cases h : c.id = id
    · subst h
      have h' : ¬ c.id = j := fun e => hj e.symm
      simp [hf, h', ih]
    · by_cases h2 : c.id = j
      · subst h2; simp [hj]
      · simp [h, h2, ih]

end Sys2Proof.Machine
end

