-- ==== Sys2Proof/Laws/Ops.lean ====
section
/-! SUPPORT. What the shared operations of the meanings do: words that read sources, words that act for the group, traps (R314), frame
and rod words (R272), parking. -/
namespace Sys2Proof.Machine

/-! ## Sources and group-level words -/

/-- A SYS word with ACTIVE not empty runs. -/
theorem sysWord_next {s : State} {gd : BitVec 3} {x : Ctx} (hi : Issues s gd x) (ha : groupAct x ≠ 0) (f : Ctx → State) :
    sysWord s gd f = .next (f x) := by rw [sysWord, withCtx_next hi, if_neg ha]

/-- Parking changes only the issuing group's sequencers. -/
theorem park_step {s : State} {gd : BitVec 3} {x : Ctx} (hi : Issues s gd x) (p : Park) :
    GroupStep s (modGrp s x.c.wg x.c.grp (parkGrp x.c p)) x (parkGrp x.c p x.g) ∧ OnlyQuads x (parkGrp x.c p x.g) :=
  ⟨modGrp_step hi _, parkGrp_frame _ _ _⟩

theorem quadAt_modQuads (g : Group) (m : QMask) (f : Quad → Quad) (q : Nat) (h : q < g.quads.length) :
    quadAt (modQuads g m f) q = if hasQuad m q then f (quadAt g q) else quadAt g q := by
  simp [quadAt, modQuads, List.getD_eq_getElem?_getD, h]

/-- A parked gang: its quads with live lanes stand parked past the word. -/
theorem parkGrp_parks (x : Ctx) (p : Park) : Parks x p (parkGrp x.c p x.g) :=
  ⟨parkGrp_frame _ _ _, fun q hq hm hl => by
    rw [parkGrp, quadAt_modQuads _ _ _ _ hq, if_pos hm]
    dsimp only
    rw [if_neg hl]
    exact ⟨rfl, rfl, rfl⟩⟩

/-! ## Traps (R314, R316) -/

/-- A group none of whose lane words holds a gang: no other trap comes first. -/
theorem trapsFirst_none {en : BitVec 5} {g : Group} (id : Nat) (h : heldLaneWords en g = []) : trapsFirst en g id = none := by
  simp [trapsFirst, h]

/-- A trap that nothing delays enters the handler: the frame, the context and the sequencers are as R314 says. -/
theorem takeTrap_enters {s : State} {gd : BitVec 3} {x : Ctx} (hi : Issues s gd x) (hr : TrapReady x) (tr : Trap) :
    ∃ g, GroupStep s (takeTrap s x.c.wg x.c.grp tr) x g ∧ InHandler x tr g := by
  have hl := hi.launch
  simp only [takeTrap, takeTrapOf, hi.wg, hi.grp, hl, trapsFirst_none _ hr.held, hr.held, List.foldl_nil, hr.handler, hr.outside, Bool.not_true, Bool.or_false]
  refine ⟨_, modGrp_step hi _, ?_⟩
  constructor
  · rfl
  · simp
  · intro q hq hlive
    have hr : (List.range x.g.quads.length)[q]? = some q := List.getElem?_range hq
    simp only [quadAt, List.getD_eq_getElem?_getD, List.getElem?_map, hr, Option.map_some, Option.getD_some] at hlive ⊢
    simp only [if_neg hlive]
    simp
  · intro q hq hdead
    have hr : (List.range x.g.quads.length)[q]? = some q := List.getElem?_range hq
    simp only [quadAt, List.getD_eq_getElem?_getD, List.getElem?_map, hr, Option.map_some, Option.getD_some] at hdead ⊢
    simp only [if_pos hdead]
    simp

/-- A trap of the issuing word, taken at once. -/
theorem raise_enters {s : State} {gd : BitVec 3} {x : Ctx} (hi : Issues s gd x) (hr : TrapReady x) (tr : Trap) :
    ∃ g, GroupStep s (raise s x tr) x g ∧ InHandler x tr g := by
  simpa [raise, hr.replay, hr.waits] using takeTrap_enters hi hr tr

/-! ## Frame and rod words (R272) -/

theorem withCall_next {s : State} {c : Call} (h : s.curCall.bind (findCall s) = some c) (f : Call → State) : withCall s f = .next (f c) := by
  simp [withCall, h]

/-- A word that the rules of R272 let through, and that goes on at the next word. -/
theorem rodWord_next {s : State} {c : Call} {i : Instr} {act : Bool} (h : RodFree s c i) (f : Call → RodRes) {s1 : State} (hf : f c = .next s1) :
    rodWord s i false act f = .next (rodNext s1 c.id (c.fpc + 1) act) := by
  simp [rodWord, withCall_next h.cur, h.unused, hf]

theorem rodWord_stop {s : State} {c : Call} {i : Instr} {act : Bool} (h : RodFree s c i) (f : Call → RodRes) {s1 : State} {st : Nat} {d : Option Nat}
    (hf : f c = .stop s1 st d) : rodWord s i false act f = .next (endCall s1 c.id st (d.getD c.fpc)) := by
  simp [rodWord, withCall_next h.cur, h.unused, hf]

/-- The call that `curCall` names has that identifier. -/
theorem findCall_id {s : State} {id : Nat} {c : Call} (h : findCall s id = some c) : c.id = id := by
  simpa using List.find?_some h

/-- A change of one call that keeps its identifier is a step of that call alone. -/
theorem modCall_step {s : State} {c : Call} (h : findCall s c.id = some c) (f : Call → Call) (hf : ∀ k, (f k).id = k.id) :
    CallStep s (modCall s c.id f) c (f c) where
  rest := rfl
  others := fun id hid => findCall_modCall_other s c.id id f hf hid
  here := by rw [findCall_modCall_same s c.id f hf, h]; rfl

/-- The end of a call. -/
theorem endCall_stops {s : State} {c : Call} (h : findCall s c.id = some c) (st d : Nat) :
    CallStops s c (.next (endCall s c.id st d)) st d :=
  ⟨_, rfl, modCall_step h _ (fun _ => rfl)⟩

end Sys2Proof.Machine
end

