-- ==== Sys2Proof/Laws/Shapes.lean ====
section
/-! SUPPORT. What the shared shapes of the integer and floating-point lane words do: their results are the writes of a lane word,
delivered at once or by LANE_WORD_COMPLETE. -/
namespace Sys2Proof.Machine

/-! ## Integer results (R155) -/

theorem lastV_intOut (x : Ctx) (w : FmtAX) (n l : Nat) (f : Nat → Int) :
    (if hasLane x.act l then lastV (intOut w l (f l)) n else none) = toIntW x w f n l := by
  unfold intOut toIntW
  by_cases h : w.wide = true
  · simp only [h, if_true, lastV_outPair]
    by_cases ha : hasLane x.act l = true <;> simp [toPair, ha]
  · simp only [h]
    have := lastV_outInt x w.ty.toNat w.d.toNat n l (fun l => intResult w.ty.toNat w.sat (f l))
    simpa using this

theorem intOut_lane (w : FmtAX) (l : Nat) (r : Int) : (intOut w l r).lane = l := by unfold intOut; split <;> simp

theorem intOut_bad (w : FmtAX) (l : Nat) (r : Int) : (intOut w l r).bad = [] := by unfold intOut; split <;> simp

theorem intOut_conds (w : FmtAX) (l : Nat) (r : Int) : (intOut w l r).conds = 0 := by unfold intOut; split <;> simp

theorem outBit_intOut (w : FmtAX) (l n : Nat) (r : Int) : outBit (intOut w l r) n = none := by unfold intOut; split <;> simp

theorem intOut_effect {s : State} {g : BitVec 3} {srcs : List Src} {x : Ctx} (w : FmtAX) (f : State → Ctx → Nat → Int) (r : Nat → Int) (hi : Issues s g x)
    (hf : LaneFree s x srcs false) (hb : Blind s (f · x)) (hr : ∀ l, f s x l = r l) :
    LaneEffect s x false (laneWord s (plainSpec g srcs) (perLane fun s x l => intOut w l (f s x l))) (toIntW x w r) noBit := by
  refine laneWord_plain _ _ _ false hi hf (fun k => by funext l; simp only [show f { s with cores := k } x = f s x from hb k]) (fun l => intOut_lane _ _ _) (fun l => intOut_bad _ _ _) (fun l => intOut_conds _ _ _) ?_ ?_
  · intro n l; rw [hr]; exact lastV_intOut x w n l r
  · intro n l; simp [outBit_intOut, noBit]

/-! ## Floating-point results (R148, R170) -/

theorem condLanes_met {x : Ctx} {f : State → Ctx → Nat → LaneOut} {s : State} (c : Nat → BitVec 5) (hn : NoneMet x c)
    (h : ∀ l, (f s x l).conds = c l) : condLanes x.g (enablesOf x.l) (perLane f s x) = 0 := by
  unfold condLanes perLane
  have : ∀ (ls : List Nat) (m : LMask), (∀ l ∈ ls, hasLane x.act l = true) → (ls.map (f s x)).foldl (fun m o => if o.conds &&& enablesOf x.l != 0 && hasLane x.g.counted o.lane then m ||| laneBit o.lane else m) m = m := by
    intro ls
    induction ls with
    | nil => intro m _; rfl
    | cons a r ih =>
      intro m ha
      rw [List.map_cons, List.foldl_cons]
      have h0 : (f s x a).conds &&& enablesOf x.l = 0 := by rw [h]; exact hn a (ha a (by simp))
      rw [h0]
      exact ih m (fun l hl => ha l (by simp [hl]))
  exact this _ 0 (fun l hl => (mem_lanesOf.1 hl).2)

theorem laneWord_flt {s : State} {x : Ctx} {sp : LaneSpec} (f : State → Ctx → Nat → LaneOut) (c : Nat → BitVec 5) {v : Nat → Nat → Option Word} {p : Nat → Nat → Option Bool}
    (hi : Issues s sp.g x) (hl : sp.ll = none) (hq : sp.queue = false) (hf : LaneFree s x sp.srcs false) (hn : NoneMet x c)
    (hb : Blind s (f · x)) (hc : ∀ l, (f s x l).conds = c l) (hlane : ∀ l, (f s x l).lane = l) (hbad : ∀ l, (f s x l).bad = [])
    (hv : ∀ n l, (if hasLane x.act l then lastV (f s x l) n else none) = v n l)
    (hp : ∀ n l, (if hasLane x.act l then outBit (f s x l) n else none) = p n l) :
    LaneEffect s x false (laneWord s sp (perLane f)) v p := by
  have := laneWord_lanes (sp := sp) f hi hl hb (by rw [hq]; exact hf) hlane hbad (condLanes_met c hn hc)
  rw [hq] at this
  exact this.congr (fun n l _ => hv n l) (fun n l _ => hp n l)

theorem fltBin_effect {s : State} {x : Ctx} {w : FmtAX} (op) (hi : Issues s w.g x) : FltTwo s x w (fltBin s w false op) op := by
  unfold FltTwo
  intro ty rty A B r hf hn
  refine laneWord_flt _ _ (sp := fltSpec w [srcOf 0 w.a (nTy ty), srcOf 1 w.b (nTy ty)] false) hi rfl rfl hf hn (fun _ => rfl) ?_ ?_ ?_ ?_ ?_
  · intro l; rfl
  · intro l; simp
  · intro l; simp
  · intro n l; exact lastV_outFlt x rty w.d.toNat n l (fun l => (r l).bits)
  · intro n l; simp [noBit]

theorem fltUn_effect {s : State} {x : Ctx} {w : FmtAX} (op) (hi : Issues s w.g x) : FltOne s x w (fltUn s w false op) op := by
  unfold FltOne
  intro ty A r hf hn
  refine laneWord_flt _ _ (sp := fltSpec w [srcOf 0 w.a (nTy ty)] false) hi rfl rfl hf hn (fun _ => rfl) ?_ ?_ ?_ ?_ ?_
  · intro l; rfl
  · intro l; simp
  · intro l; simp
  · intro n l; exact lastV_outFlt x ty w.d.toNat n l (fun l => (r l).bits)
  · intro n l; simp [noBit]

theorem fltBin_issued {s : State} {x : Ctx} {w : FmtAX} (op) (hi : Issues s w.g x) : FltTwoLong s x w (fltBin s w true op) op := by
  unfold FltTwoLong
  intro ty rty A B r c
  have := laneWord_long (sp := fltSpec w [srcOf 0 w.a (nTy ty), srcOf 1 w.b (nTy ty)] true) (fun _ x l =>
    let a := readFlt x w.a ty l
    let b := readFlt x w.b ty l
    let va := fDecode ty a
    let vb := fDecode ty b
    let rty := if w.wide then 11 else ty
    let o := op rty w.rnd.toNat w.sat (modVal w 0 va) (modVal w 1 vb)
    withOps (outFlt rty l w.d.toNat o.bits) (condOf rty o [va, vb]) a b 0) c hi rfl rfl (fun _ => rfl) (fun l => by simp) (fun l => rfl) (fun l n => by simp)
    (carry := fun outs => Carries outs x.act c A B (fun _ => 0))
    (perLane_carries (fun l => by simp) (fun l => rfl) (fun l => rfl) (fun l => rfl) (fun l => rfl))
  have e : (fun n l => if hasLane x.act l then lastV (outFlt rty l w.d.toNat (r l).bits) n else none) = _ :=
    funext fun n => funext fun l => lastV_outFlt x rty w.d.toNat n l (fun l => (r l).bits)
  exact e ▸ this

theorem fltUn_issued {s : State} {x : Ctx} {w : FmtAX} (op) (hi : Issues s w.g x) : FltOneLong s x w (fltUn s w true op) op := by
  unfold FltOneLong
  intro ty A r c
  have := laneWord_long (sp := fltSpec w [srcOf 0 w.a (nTy ty)] true) (fun _ x l =>
    let a := readFlt x w.a ty l
    let va := fDecode ty a
    let o := op ty w.rnd.toNat w.sat (modVal w 0 va) (modBits w 0 a)
    withOps (outFlt ty l w.d.toNat o.bits) (condOf ty o [va]) a 0 0) c hi rfl rfl (fun _ => rfl) (fun l => by simp) (fun l => rfl) (fun l n => by simp)
    (carry := fun outs => Carries outs x.act c A (fun _ => 0) (fun _ => 0))
    (perLane_carries (fun l => by simp) (fun l => rfl) (fun l => rfl) (fun l => rfl) (fun l => rfl))
  have e : (fun n l => if hasLane x.act l then lastV (outFlt ty l w.d.toNat (r l).bits) n else none) = _ :=
    funext fun n => funext fun l => lastV_outFlt x ty w.d.toNat n l (fun l => (r l).bits)
  exact e ▸ this

theorem outP_toPred (x : Ctx) (d n l : Nat) (f : Nat → Bool) : (if hasLane x.act l then outBit (outP l d (f l)) n else none) = toPred x d f n l := by
  simp [toPred]; by_cases h : hasLane x.act l = true <;> simp [h]

theorem outV_toReg (x : Ctx) (d n l : Nat) (f : Nat → Word) : (if hasLane x.act l then lastV (outV l d (f l)) n else none) = toReg x d f n l := by
  simp [toReg]; by_cases h : hasLane x.act l = true <;> simp [h]

theorem sclWord_effect {s : State} {x : Ctx} {w : FmtAX} (hi : Issues s w.g x) :
    let ty := w.ty.toNat
     let A := fun l => fDecode ty (readFlt x w.a ty l)
     let r := fun l => fScl ty w.rnd.toNat w.sat (modVal w 0 (A l)) (readI s x w.b l)
     LaneFree s x [srcOf 0 w.a (nTy ty), srcOf 1 w.b 1] false → NoneMet x (fun l => condOf ty (r l) [A l]) →
     LaneEffect s x false (sclWord s w) (toFlt x ty w.d.toNat (fun l => (r l).bits)) noBit := by
  intro ty A r hf hn
  refine laneWord_flt _ _ (sp := fltSpec w [srcOf 0 w.a (nTy ty), srcOf 1 w.b 1] false) hi rfl rfl hf hn (fun _ => rfl) ?_ ?_ ?_ ?_ ?_
  · intro l; rfl
  · intro l; simp
  · intro l; simp
  · intro n l; exact lastV_outFlt x ty w.d.toNat n l (fun l => (r l).bits)
  · intro n l; simp [noBit]

theorem xtrWord_effect {s : State} {x : Ctx} {w : FmtAX} (hi : Issues s w.g x) :
    let ty := w.ty.toNat
     let A := fun l => fDecode ty (readFlt x w.a ty l)
     LaneFree s x [srcOf 0 w.a (nTy ty)] false →
     (w.md = 0 → NoneMet x (fun l => condBits (fIsSnan (A l)) false false false (fNonFinite (A l))) →
       LaneEffect s x false (xtrWord s w) (toReg x w.d.toNat (fun l => wordOfInt (fXtrExp (modVal w 0 (A l))))) noBit)
     ∧ (w.md ≠ 0 → NoneMet x (fun l => condOf ty (fXtrMan ty (modVal w 0 (A l))) [A l]) →
       LaneEffect s x false (xtrWord s w) (toFlt x ty w.d.toNat (fun l => (fXtrMan ty (modVal w 0 (A l))).bits)) noBit) := by
  intro ty A hf
  refine ⟨fun hm hn => ?_, fun hm hn => ?_⟩
  all_goals
    unfold xtrWord
    refine laneWord_flt _ _ (sp := fltSpec w [srcOf 0 w.a (nTy ty)] false) hi rfl rfl hf hn (fun _ => rfl) ?_ ?_ ?_ ?_ ?_
    all_goals simp only [hm, if_true, if_false]
  · intro l; rfl
  · intro l; simp
  · intro l; simp
  · intro n l; simp [toReg]; split <;> simp_all <;> rfl
  · intro n l; simp [noBit]
  · intro l; rfl
  · intro l; simp
  · intro l; simp
  · intro n l; exact lastV_outFlt x ty w.d.toNat n l (fun l => (fXtrMan ty (modVal w 0 (A l))).bits)
  · intro n l; simp [noBit]

theorem clsWord_effect {s : State} {x : Ctx} {w : FmtAX} (hi : Issues s w.g x)  (hf : LaneFree s x [srcOf 0 w.a (nTy w.ty.toNat), srcOf 1 w.b 1] false) :
     LaneEffect s x false (clsWord s w) noSlot
       (toPred x w.d.toNat (fun l => bitOf (readN s x w.b l) (fClass w.ty.toNat (modVal w 0 (fDecode w.ty.toNat (readFlt x w.a w.ty.toNat l)))))) := by
  refine laneWord_flt _ (fun _ => 0) (sp := fltSpec w [srcOf 0 w.a (nTy w.ty.toNat), srcOf 1 w.b 1] false) hi rfl rfl hf (by intro l _; simp) (fun _ => rfl) ?_ ?_ ?_ ?_ ?_
  · intro l; rfl
  · intro l; rfl
  · intro l; rfl
  · intro n l; simp [noSlot]
  · intro n l; exact outP_toPred x _ n l (fun l => bitOf (readN s x w.b l) (fClass w.ty.toNat (modVal w 0 (fDecode w.ty.toNat (readFlt x w.a w.ty.toNat l)))))

end Sys2Proof.Machine
end

