-- ==== Sys2Proof/Tests/Slice0.lean ====
section
/-! SUPPORT. Tests: ill-formed terms that the checks refuse, words written out from the encodings, and, for every statement, states
that meet the hypotheses of its clauses, with what some instruction does there. -/
namespace Sys2Proof.Tests
open Sys2Proof Sys2Proof.Machine
set_option Elab.async false

/-! ## Small states -/

/-- A clause of one word at address 0; it selects no flag. -/
def tC : Clause := { soleClause 0 [0] with len := 1 }
/-- The same, whose words count on flag 3. -/
def tCf : Clause := { tC with setA := 3 }
def tL : Launch := { soleLaunch 1 with codelen := 4096 }
def tW : Workgroup := soleWg State.reset 2 tL tC
def tG : Group := tW.groups.headD (soleGroup tC default)
/-- The issue of the clause's word by all sixteen lanes. -/
def tI : Issue := { wg := 2, grp := 0, quads := 0xF, run := 0xFFFF, pc := 4, next := 8, last := true, clause := tC, predict := false, replay := false }

/-- The device with one launch, its one workgroup and that workgroup's one group, whose gang issues. -/
def tSt (l : Launch) (w : Workgroup) (g : Group) (c : Issue) : State :=
  { State.reset with launches := [l], wgs := [{ w with groups := [g] }], cur := some c, nextId := 10, boot := .ready }
def tX (l : Launch) (w : Workgroup) (g : Group) (c : Issue) (gd : BitVec 3) : Ctx :=
  { c := c, w := { w with groups := [g] }, g := g, l := l, act := activeOf c g gd }
def s0 : State := tSt tL tW tG tI
def x0 : Ctx := tX tL tW tG tI 7

/-- A gang issues in such a state, however else the device differs. -/
theorem issues_of (s : State) (l : Launch) (w : Workgroup) (g : Group) (c : Issue) (gd : BitVec 3) (h1 : s.cur = some c)
    (h2 : s.wgs = [{ w with groups := [g] }]) (h3 : s.launches = [l]) (hw : w.id = c.wg) (hg : c.grp = 0) (hl : l.id = w.launch) :
    Issues s gd (tX l w g c gd) := by
  constructor
  · exact h1
  · simp [findWg, h2, tX, hw]
  · simp [tX, hg]
  · simp [findLaunch, h3, tX, hl]
  · rfl

theorem issues0 : Issues s0 7 x0 := issues_of s0 tL tW tG tI 7 rfl rfl rfl rfl rfl rfl

/-- Registers that hold nothing hold no poison. -/
theorem clean_of (g : Group) (h1 : g.v = []) (h2 : g.s = []) (srcs : List Src) (m : LMask) : poisonLanes g srcs m = 0 := by
  have hw : ∀ c k l, (wordAt g c k l).poison = false := by
    intro c k l
    unfold wordAt getV getS
    rw [h1, h2]
    split
    · rfl
    · split <;> rfl
  have hl : ∀ l, lanePoison g srcs l = none := by
    intro l
    induction srcs with
    | nil => rfl
    | cons a r ih =>
      have : srcPoison g l a = none := by
        unfold srcPoison
        split
        · simp [hw]
        · rfl
      simp [lanePoison, this, ih]
  have : maskOf (fun _ => false) = 0 := by decide +kernel
  simp [poisonLanes, hl, this]

/-- A gang with nothing predicted and no register written can read what it likes. -/
theorem reads_of (x : Ctx) (h1 : x.g.v = []) (h2 : x.g.s = []) (h3 : predicted x = false) (srcs : List Src) (m : LMask) : Reads x srcs m :=
  ⟨clean_of x.g h1 h2 srcs m, fun h => absurd h (by simp [h3])⟩

theorem reads0 (srcs : List Src) (m : LMask) : Reads x0 srcs m := reads_of x0 (by decide) (by decide) (by decide) srcs m

theorem laneFree0 (srcs : List Src) (always : Bool) : LaneFree s0 x0 srcs always :=
  ⟨reads0 srcs _, fun h => absurd h (by decide), fun h => by
    have : entersQueue x0 always = false := by cases always <;> decide
    simp [this] at h⟩

theorem longFree0 (fs : Bool) (srcs : List Src) : LongFree s0 x0 fs srcs := ⟨laneFree0 srcs false, by cases fs <;> decide⟩

theorem noneMet0 (c : Nat → BitVec 5) : NoneMet x0 c := by
  intro l _
  have : enablesOf x0.l = 0 := by decide +kernel
  simp [this]

theorem exchClean0 (a : Fld) (src : Nat → Nat) : exchClean x0 a src := by
  have : ∀ n l, (getV x0.g n l).poison = false := by intro n l; rfl
  have h : maskOf (fun _ => false) = 0 := by decide +kernel
  simp [exchClean, this, h]

/-- What a meaning answers, looked into. -/
def nextDo (o : Host.Outcome State Fault Refusal) (f : State → Bool) : Bool := match o with | .next t => f t | _ => false
def grp0 (t : State) (f : Group → Bool) : Bool := match findGrp t 2 0 with | some g => f g | none => false

def lit (x : Nat) : Fld := Fld.mk 0xFF (BitVec.ofNat 32 x)
def cst (n : Int) : Fld := Fld.mk (if n < 0 then BitVec.ofNat 8 (0xE0 - (-n).toNat) else BitVec.ofNat 8 (0xC0 + n.toNat)) 0
def vr (n : Nat) : Fld := Fld.mk (BitVec.ofNat 8 n) 0
def sr (n : Nat) : Fld := Fld.mk (BitVec.ofNat 8 (0x80 + n)) 0
def fA (a b : Fld) : FmtA := { g := 7, d := 5, a := a, b := b }
def fX (ty : Nat) (a b c : Fld) : FmtAX :=
  { g := 7, d := 6, a := a, b := b, c := c, ty := BitVec.ofNat 4 ty, sty := 0, rnd := 0, neg := 0, abs := 0, sat := false, fs := false, wide := false, md := 0 }

/-- Register `n` of lane `l`, bit `l` of predicate `n`, and scalar `n` after an instruction. -/
def after (s : State) (i : Instr) (f : Group → Nat) : Nat := match exec i s with | .next t => (match findGrp t 2 0 with | some g => f g | none => 2 ^ 64) | _ => 2 ^ 65
def vOf (i : Instr) (n l : Nat) : Nat := after s0 i (fun g => (getV g n l).val.toNat)
def pOf (i : Instr) (n : Nat) : Nat := after s0 i (fun g => (getPMask g n).toNat)
def sOf (i : Instr) (n : Nat) : Nat := after s0 i (fun g => (getS g n).val.toNat)

/-! ## INT words -/

theorem test_meets_IntegerArithmetic : Issues s0 7 x0 ∧ (∀ w : FmtAX, LaneFree s0 x0 (srcs2 w) false ∧ LaneFree s0 x0 [srcOf 0 w.a (nTy w.ty.toNat)] false
    ∧ LaneFree s0 x0 (srcs2 w ++ [srcOf 2 w.c (nTy (if w.wide then w.ty.toNat + 1 else w.ty.toNat))]) false) :=
  ⟨issues0, fun _ => ⟨laneFree0 _ _, laneFree0 _ _, laneFree0 _ _⟩⟩

theorem test_meets_IntegerDivision : Issues s0 7 x0 ∧ (∀ w : FmtAX, LongFree s0 x0 w.fs (srcs2 w)) ∧ x0.act ≠ 0 :=
  ⟨issues0, fun _ => longFree0 _ _, by decide⟩

theorem test_meets_BitsShiftsAndFields : Issues s0 7 x0 ∧ (∀ srcs, LaneFree s0 x0 srcs false) := ⟨issues0, fun _ => laneFree0 _ _⟩

theorem test_meets_CompareSelectAndPredicates : Issues s0 7 x0 ∧ (∀ srcs b, LaneFree s0 x0 srcs b) := ⟨issues0, fun _ _ => laneFree0 _ _⟩

theorem test_meets_MovesAndExchanges : Issues s0 7 x0 ∧ (∀ srcs b, LaneFree s0 x0 srcs b) ∧ (∀ a src, exchClean x0 a src)
    ∧ (∀ w : FmtA, maskOf (fun l => hasLane x0.act l && hasLane x0.g.counted l && ((movsRegs s0 x0 w l).find? (fun n => (getV x0.g n l).poison)).isSome) = 0) := by
  refine ⟨issues0, fun _ _ => laneFree0 _ _, exchClean0, fun w => ?_⟩
  have h : ∀ n l, (getV x0.g n l).poison = false := fun _ _ => rfl
  have h2 : maskOf (fun _ => false) = 0 := by decide
  have h3 : ∀ l : List Nat, (l.find? (fun _ => false)) = none := by intro l; induction l <;> simp_all
  simp only [h, h3, Option.isSome_none, Bool.and_false, h2]

/-- i32 wraps, clamps with SAT, and is exact in a pair with WIDE; u8 keeps its high product. By hand. -/
theorem test_integer_sums :
    vOf (.iadd (fX 2 (lit 0x7FFFFFFF) (cst 1) (cst 0))) 6 0 = 0x80000000
    ∧ vOf (.iadd { fX 2 (lit 0x7FFFFFFF) (cst 1) (cst 0) with sat := true }) 6 0 = 0x7FFFFFFF
    ∧ vOf (.isub { fX 2 (lit 0x80000000) (cst 1) (cst 0) with wide := true }) 7 0 = 0xFFFFFFFF
    ∧ vOf (.imul (fX 2 (cst (-3)) (cst 5) (cst 0))) 6 9 = 0xFFFFFFF1
    ∧ vOf (.imulh (fX 6 (lit 0xFFFFFFFF) (lit 0xFFFFFFFF) (cst 0))) 6 0 = 0xFFFFFFFE
    ∧ vOf (.imad (fX 2 (cst 6) (cst 7) (cst (-2)))) 6 15 = 40 := by decide +kernel

theorem test_integer_order : vOf (.imin (fX 2 (cst (-1)) (cst 1) (cst 0))) 6 3 = 0xFFFFFFFF
    ∧ vOf (.imax (fX 6 (lit 0xFFFFFFFF) (cst 1) (cst 0))) 6 3 = 0xFFFFFFFF
    ∧ vOf (.iabs (fX 2 (lit 0x80000000) (cst 0) (cst 0))) 6 0 = 0x80000000
    ∧ vOf (.iabs { fX 2 (lit 0x80000000) (cst 0) (cst 0) with sat := true }) 6 0 = 0x7FFFFFFF
    ∧ vOf (.ineg (fX 2 (cst 7) (cst 0) (cst 0))) 6 1 = 0xFFFFFFF9 := by decide +kernel

/-- The carry of 2^32 - 1 + 1 in u32 goes to predicate 2; the borrow of 0 - 1 too. C is !pT, no carry. -/
theorem test_carry_and_borrow :
    vOf (.iaddc { fX 6 (lit 0xFFFFFFFF) (cst 1) (Fld.mk 0x0F 0) with md := 2 }) 6 4 = 0 ∧ pOf (.iaddc { fX 6 (lit 0xFFFFFFFF) (cst 1) (Fld.mk 0x0F 0) with md := 2 }) 2 = 0xFFFF
    ∧ vOf (.isubb { fX 6 (cst 0) (cst 1) (Fld.mk 0x0F 0) with md := 2 }) 6 4 = 0xFFFFFFFF
    ∧ pOf (.isubb { fX 6 (cst 0) (cst 1) (Fld.mk 0x0F 0) with md := 2 }) 2 = 0xFFFF := by decide +kernel

theorem test_logic_and_counts : vOf (.and (fA (lit 0xF0F0) (lit 0xFF00))) 5 0 = 0xF000 ∧ vOf (.or (fA (lit 0xF0F0) (lit 0xFF00))) 5 0 = 0xFFF0
    ∧ vOf (.xor (fA (lit 0xF0F0) (lit 0xFF00))) 5 0 = 0x0FF0 ∧ vOf (.andn (fA (lit 0xF0F0) (lit 0xFF00))) 5 0 = 0x00F0
    ∧ vOf (.not (fA (cst 0) (Fld.mk 0 0))) 5 0 = 0xFFFFFFFF ∧ vOf (.rol (fA (lit 0x80000001) (cst 4))) 5 0 = 0x18
    ∧ vOf (.popc (fA (lit 0xFF0F) (Fld.mk 0 0))) 5 0 = 12 ∧ vOf (.clz (fA (cst 0) (Fld.mk 0 0))) 5 0 = 32
    ∧ vOf (.ctz (fA (lit 0x100) (Fld.mk 0 0))) 5 0 = 8 ∧ vOf (.brev (fA (cst 1) (Fld.mk 0 0))) 5 0 = 0x80000000 := by decide +kernel

/-- A shift of the width or more gives zero, or copies of the sign. -/
theorem test_shifts : vOf (.shl (fX 2 (cst 1) (lit 32) (cst 0))) 6 0 = 0 ∧ vOf (.shr (fX 2 (cst (-1)) (cst 4) (cst 0))) 6 0 = 0x0FFFFFFF
    ∧ vOf (.sar (fX 2 (cst (-16)) (cst 2) (cst 0))) 6 0 = 0xFFFFFFFC ∧ vOf (.sar (fX 2 (cst (-16)) (lit 99) (cst 0))) 6 0 = 0xFFFFFFFF := by decide +kernel

theorem test_compare_and_select : pOf (.vcmp { fX 2 (cst (-1)) (cst 1) (cst 0) with md := 2, d := 1 }) 1 = 0xFFFF
    ∧ pOf (.vcmp { fX 6 (cst (-1)) (cst 1) (cst 0) with md := 2, d := 1 }) 1 = 0
    ∧ vOf (.vsel (fX 2 (cst 3) (cst 4) (Fld.mk 7 0))) 6 0 = 3 ∧ vOf (.vsel (fX 2 (cst 3) (cst 4) (Fld.mk 0x0F 0))) 6 0 = 4 := by decide +kernel

/-- With ACTIVE all sixteen lanes and predicate A true in each. -/
theorem test_predicate_words : pOf (.pand { fA (Fld.mk 7 0) (Fld.mk 0x0F 0) with d := 1 }) 1 = 0 ∧ pOf (.por { fA (Fld.mk 7 0) (Fld.mk 0x0F 0) with d := 1 }) 1 = 0xFFFF
    ∧ pOf (.pxor { fA (Fld.mk 7 0) (Fld.mk 0x0F 0) with d := 1 }) 1 = 0xFFFF ∧ pOf (.pnot { fA (Fld.mk 0 0) (Fld.mk 0 0) with d := 1 }) 1 = 0xFFFF
    ∧ pOf (.pmov { fA (Fld.mk 7 0) (Fld.mk 0 0) with d := 1 }) 1 = 0xFFFF ∧ pOf (.pany { fA (Fld.mk 7 0) (Fld.mk 0 0) with d := 1 }) 1 = 0xFFFF
    ∧ pOf (.pall { fA (Fld.mk 0 0) (Fld.mk 0 0) with d := 1 }) 1 = 0 ∧ vOf (.pcnt (fA (Fld.mk 7 0) (Fld.mk 0 0))) 5 7 = 16
    ∧ vOf (.ballot (fA (Fld.mk 7 0) (Fld.mk 0 0))) 5 7 = 0xFFFF ∧ pOf (.pset { fA (lit 0x8001) (Fld.mk 0 0) with d := 1 }) 1 = 0x8001 := by decide +kernel

/-- Lane l holds l in v1. -/
def gLane : Group := (List.range 16).foldl (fun g l => putV g 1 l (wordOf l)) tG
def sLane : State := tSt tL tW gLane tI
def vLane (i : Instr) (n l : Nat) : Nat := after sLane i (fun g => (getV g n l).val.toNat)

theorem test_moves_and_exchanges : vLane (.mov (fA (vr 1) (Fld.mk 0 0))) 5 9 = 9 ∧ vLane (.qswp (fA (vr 1) (Fld.mk 1 0))) 5 6 = 7
    ∧ vLane (.qbc (fA (vr 1) (cst 2))) 5 13 = 14 ∧ vLane (.gshf (fA (vr 1) (cst (-1)))) 5 0 = 15 ∧ vLane (.gbc (fA (vr 1) (cst 3))) 5 11 = 3
    ∧ vLane (.rdln (fA (vr 1) (cst 5))) 5 0 = 5 ∧ vLane (.wrln (fA (vr 1) (cst 2))) 5 2 = 15 ∧ vLane (.movi { g := 7, d := 5, imm := 0xFFFE }) 5 0 = 0xFFFFFFFE := by decide +kernel

/-- 0 + 1 + … + 5 = 15 and 0 + … + 15 = 120. -/
theorem test_scan_and_reduce : vLane (.gscn (fX 2 (vr 1) (cst 0) (cst 0))) 6 5 = 15 ∧ vLane (.gred (fX 2 (vr 1) (cst 0) (cst 0))) 6 5 = 120 := by decide +kernel

/-! ## FLT words -/

theorem test_meets_FloatArithmetic : Issues s0 7 x0 ∧ (∀ srcs, LaneFree s0 x0 srcs false) ∧ (∀ c, NoneMet x0 c) :=
  ⟨issues0, fun _ => laneFree0 _ _, noneMet0⟩

theorem test_meets_FloatLongLatency : Issues s0 7 x0 ∧ (∀ fs srcs, LongFree s0 x0 fs srcs) ∧ x0.act ≠ 0 := ⟨issues0, longFree0, by decide⟩

theorem test_meets_FloatPartsAndTests : Issues s0 7 x0 ∧ (∀ srcs, LaneFree s0 x0 srcs false) ∧ (∀ c, NoneMet x0 c)
    ∧ (fX 10 (cst 1) (cst 0) (cst 0)).md = 0 ∧ { fX 10 (cst 1) (cst 0) (cst 0) with md := 1 }.md ≠ 0 :=
  ⟨issues0, fun _ => laneFree0 _ _, noneMet0, by decide, by decide⟩

theorem test_meets_PackedAndDotProducts : Issues s0 7 x0 ∧ (∀ srcs, LaneFree s0 x0 srcs false) ∧ (∀ c, NoneMet x0 c) :=
  ⟨issues0, fun _ => laneFree0 _ _, noneMet0⟩

/-- A launch that has copied no palette reads zeros there, with no poison. -/
theorem palClean0 (o n : Nat) : ∀ e ∈ palRead s0 x0 o n, e.2 = false := by
  intro e h
  simp only [palRead, List.mem_map] at h
  obtain ⟨i, -, rfl⟩ := h
  split <;> rfl

theorem test_meets_ConversionsAndPaletteProducts : Issues s0 7 x0 ∧ (∀ srcs, LaneFree s0 x0 srcs false) ∧ (∀ c, NoneMet x0 c)
    ∧ (∀ fs srcs, LongFree s0 x0 fs srcs) ∧ x0.act ≠ 0 ∧ (∀ o n, ∀ e ∈ palRead s0 x0 o n, e.2 = false)
    ∧ { fX 10 (cst 1) (cst 0) (cst 0) with md := 0 }.md.toNat / 8 ≠ 3 ∧ { fX 12 (cst 1) (cst 0) (cst 0) with md := 24 }.md.toNat / 8 = 3
    ∧ tyInt (fX 2 (cst 1) (cst 0) (cst 0)).ty.toNat = true ∧ tyInt (fX 10 (cst 1) (cst 0) (cst 0)).ty.toNat = false :=
  ⟨issues0, fun _ => laneFree0 _ _, noneMet0, longFree0, by decide, palClean0, by decide, by decide, by decide, by decide⟩

/-- 1 + 2 = 3, 3 × 0.5 = 1.5, 1.5 × 2 + 1 = 4, the f32 sum 2^24 + 1 rounds to even, min(-0, +0) is -0. By hand. -/
theorem test_float_arithmetic : vOf (.fadd (fA (lit 0x3F800000) (lit 0x40000000))) 5 0 = 0x40400000
    ∧ vOf (.fmul (fA (lit 0x40400000) (lit 0x3F000000))) 5 0 = 0x3FC00000
    ∧ vOf (.ffma (fX 10 (lit 0x3FC00000) (lit 0x40000000) (lit 0x3F800000))) 6 0 = 0x40800000
    ∧ vOf (.faddAx (fX 10 (lit 0x4B800000) (lit 0x3F800000) (cst 0))) 6 0 = 0x4B800000
    ∧ vOf (.faddAx { fX 10 (lit 0x4B800000) (lit 0x3F800000) (cst 0) with rnd := 2 }) 6 0 = 0x4B800001
    ∧ vOf (.fmin (fA (lit 0x80000000) (lit 0))) 5 0 = 0x80000000 ∧ vOf (.fmax (fA (lit 0x80000000) (lit 0))) 5 0 = 0
    ∧ vOf (.frnd (fA (lit 0x40200000) (Fld.mk 0 0))) 5 0 = 0x40000000 := by decide +kernel

/-- The result that a long-latency word's operation holds for lane 0. -/
def late (i : Instr) : Nat := after s0 i (fun g => match g.ops with | [o] => ((outsSlot o.outs 5 0).getD 0).toNat | _ => 2 ^ 66)

/-- 1 ÷ 3 rounded to nearest, 1 ÷ 4, 1 ÷ √4, √2 rounded; 2^-infinity is 0. By hand. -/
theorem test_float_long : late (.fdiv (fA (lit 0x3F800000) (lit 0x40400000))) = 0x3EAAAAAB ∧ late (.frcp (fA (lit 0x40800000) (Fld.mk 0 0))) = 0x3E800000
    ∧ late (.frsq (fA (lit 0x40800000) (Fld.mk 0 0))) = 0x3F000000 ∧ late (.fsqrt (fA (lit 0x40000000) (Fld.mk 0 0))) = 0x3FB504F3
    ∧ late (.fexp2 (fA (lit 0xFF800000) (Fld.mk 0 0))) = 0 := by decide +kernel

/-- 1.5 × 2^3 = 12; the exponent of 12 is 3 and its significand 1.5; 1 < 2; f32 to f16 of 1.5; 2.75 to i32 by nearest even; 7 to f32. -/
theorem test_float_parts : vOf (.fscl (fA (lit 0x3FC00000) (cst 3))) 5 0 = 0x41400000 ∧ vOf (.fxtr (fA (lit 0x41400000) (Fld.mk 0 0))) 5 0 = 3
    ∧ vOf (.fxtrAx { fX 10 (lit 0x41400000) (cst 0) (cst 0) with md := 1 }) 6 0 = 0x3FC00000
    ∧ pOf (.fcmp { fX 10 (lit 0x3F800000) (lit 0x40000000) (cst 0) with md := 2, d := 1 }) 1 = 0xFFFF
    ∧ vOf (.cvt { fX 8 (lit 0x3FC00000) (cst 0) (cst 0) with sty := 10 }) 6 0 = 0x3E00
    ∧ vOf (.cvti { fX 2 (lit 0x40300000) (cst 0) (cst 0) with sty := 10 }) 6 0 = 3
    ∧ vOf (.cvti { fX 10 (cst 7) (cst 0) (cst 0) with sty := 2 }) 6 0 = 0x40E00000 := by decide +kernel

/-- f16 halves: (1, 2) + (2, 1) = (3, 3) and (2, 2) × (3, 0.5) = (6, 1). -/
theorem test_packed : vOf (.padd (fA (lit 0x3C004000) (lit 0x40003C00))) 5 0 = 0x42004200
    ∧ vOf (.pmul (fA (lit 0x40004000) (lit 0x42003800))) 5 0 = 0x46003C00 := by decide +kernel

/-! ## SCL words -/

/-- The same gang with no lane in ACTIVE: predicate 0 is clear. -/
def x00 : Ctx := tX tL tW tG tI 0
theorem issues00 : Issues s0 0 x00 := issues_of s0 tL tW tG tI 0 rfl rfl rfl rfl rfl rfl
theorem cleanG (srcs : List Src) (m : LMask) : poisonLanes tG srcs m = 0 := clean_of tG (by decide) (by decide) srcs m
theorem readsG (l : Launch) (w : Workgroup) (gd : BitVec 3) (srcs : List Src) (m : LMask) : Reads (tX l w tG tI gd) srcs m :=
  have h : unsettled tG tI.quads = false := by decide
  reads_of (tX l w tG tI gd) (show tG.v = [] by decide) (show tG.s = [] by decide) h srcs m

theorem test_meets_ScalarWords : (Issues s0 0 x00 ∧ x00.act = 0) ∧ Issues s0 7 x0 ∧ x0.act ≠ 0 ∧ ∀ srcs, Reads x0 srcs x0.act :=
  ⟨⟨issues00, by decide⟩, issues0, by decide, fun _ => reads0 _ _⟩

/-- The core's copy of the palette has a poisoned byte at offset 5. -/
def lPal : Launch := { tL with pallen := 64, palettes := [(0, [(4, (7, false)), (5, (0, true))])] }
def sPal : State := tSt lPal tW tG tI
def xPal : Ctx := tX lPal tW tG tI 7

theorem test_meets_PaletteScalarAndSystemRegisters : (Issues s0 7 x0 ∧ (∀ o, ∀ e ∈ palRead s0 x0 o 4, e.2 = false) ∧ x0.act ≠ 0
      ∧ ∀ srcs, Reads x0 srcs x0.act)
    ∧ (Issues sPal 7 xPal ∧ (∃ e ∈ palRead sPal xPal ((readUN sPal xPal (cst 4) + readUN sPal xPal (cst 1)) % 2 ^ 32 / 4 * 4) 4, e.2 = true)
      ∧ xPal.act ≠ 0 ∧ ∀ srcs, Reads xPal srcs xPal.act) :=
  ⟨⟨issues0, fun o => palClean0 o 4, by decide, fun _ => reads0 _ _⟩,
    issues_of sPal lPal tW tG tI 7 rfl rfl rfl rfl rfl rfl, by decide, by decide, fun _ => readsG lPal tW 7 _ _⟩

theorem test_scalars : sOf (.sadd { fA (lit 0x7FFFFFFF) (cst 1) with d := 3 }) 3 = 0x80000000 ∧ sOf (.ssub { fA (cst 1) (cst 2) with d := 3 }) 3 = 0xFFFFFFFF
    ∧ sOf (.smul { fA (cst (-3)) (cst 4) with d := 3 }) 3 = 0xFFFFFFF4 ∧ sOf (.sand { fA (lit 0xFF0) (lit 0x0FF) with d := 3 }) 3 = 0x0F0
    ∧ sOf (.sor { fA (lit 0xF00) (lit 0x00F) with d := 3 }) 3 = 0xF0F ∧ sOf (.sxor { fA (lit 0xFF0) (lit 0x0FF) with d := 3 }) 3 = 0xF0F
    ∧ sOf (.sshl { fA (cst 1) (lit 31) with d := 3 }) 3 = 0x80000000 ∧ sOf (.sshr { fA (cst (-1)) (lit 31) with d := 3 }) 3 = 1
    ∧ sOf (.ssar { fA (cst (-2)) (lit 40) with d := 3 }) 3 = 0xFFFFFFFF ∧ sOf (.smin { fA (cst (-2)) (cst 1) with d := 3 }) 3 = 0xFFFFFFFE
    ∧ sOf (.smax { fA (cst (-2)) (cst 1) with d := 3 }) 3 = 1 ∧ sOf (.smov { fA (lit 9) (Fld.mk 0 0) with d := 3 }) 3 = 9
    ∧ sOf (.smovi { g := 7, d := 3, imm := 0x8000 }) 3 = 0xFFFF8000 ∧ sOf (.scmp { fX 2 (cst (-1)) (cst 0) (cst 0) with md := 2, d := 3 }) 3 = 1
    ∧ sOf (.ssel { fX 2 (cst 5) (cst 6) (cst 0) with d := 3 }) 3 = 6 := by decide +kernel

/-! ## MEM words -/

/-- Record 2: 1,024 elements of 4 bytes at 0x30000. Die 0 translates the page to frame 0x50000. -/
def rec4 : BitVec 128 := BitVec.ofNat 128 (0x30000 + 2 * 2 ^ 57 + 1024 * 2 ^ 64)
def gB : Group := putB tG 2 rec4
def lCv : Launch := tL
def tlbE : TlbEntry := { part := 0, kind := .pages, va := 0, leaves := [{ idx := 3, frame := 0x50000, wr := true, span := false, peer := none }] }
def sM : State := { tSt tL tW gB tI with dies := modifyAt State.reset.dies 0 (fun _ => { tlb := [tlbE] }) }
def xM : Ctx := tX tL tW gB tI 7
def fM (idx data : Fld) : FmtM := { g := 7, d := 8, buf := 2, sz := 2, fs := false, idx := idx, off := 0, aop := 0, nt := false, spl := false, sx := false, data := data }

theorem issuesM : Issues sM 7 xM := issues_of sM tL tW gB tI 7 rfl rfl rfl rfl rfl rfl

theorem readsB (l : Launch) (w : Workgroup) (gd : BitVec 3) (srcs : List Src) (m : LMask) : Reads (tX l w gB tI gd) srcs m :=
  have h : unsettled gB tI.quads = false := by decide
  reads_of (tX l w gB tI gd) (show gB.v = [] by decide) (show gB.s = [] by decide) h srcs m

def forms : List MemForm :=
  [{ kind := .load, byOff := false, canvas := false, scalar := false, ret := false }, { kind := .load, byOff := true, canvas := false, scalar := false, ret := false },
   { kind := .load, byOff := false, canvas := false, scalar := true, ret := false }, { kind := .store, byOff := false, canvas := false, scalar := false, ret := false },
   { kind := .store, byOff := true, canvas := false, scalar := false, ret := false }, { kind := .load, byOff := false, canvas := true, scalar := false, ret := false },
   { kind := .store, byOff := false, canvas := true, scalar := false, ret := false }, { kind := .atom, byOff := false, canvas := false, scalar := false, ret := false },
   { kind := .red, byOff := false, canvas := false, scalar := false, ret := false }, { kind := .atom, byOff := false, canvas := false, scalar := false, ret := true },
   { kind := .atom, byOff := false, canvas := true, scalar := false, ret := true }]

/-- What `MemFree` asks of a form, looked into. -/
def memFreeB (s : State) (x : Ctx) (w : FmtM) (f : MemForm) : Bool :=
  (memTrap s x f w (memPlans s x f w)).isNone && !memWaits s x (flagSel x.c.clause w.fs) (memPieces s x f w) && !bufferFull x f (memPieces s x f w)
    && (peerTrap s x f ((memAccs s x f w).filter (surePiece x f))).isNone && !(memAccs s x f w).isEmpty

theorem memFree_forms : forms.all (memFreeB sM xM (fM (cst 4) (cst 1))) = true := by decide +kernel

theorem memFreeM (f : MemForm) (h : memFreeB sM xM (fM (cst 4) (cst 1)) f = true) : MemFree sM xM f (fM (cst 4) (cst 1)) := by
  simp only [memFreeB, Bool.and_eq_true, Bool.not_eq_true', Option.isNone_iff_eq_none] at h
  exact ⟨by decide, readsB tL tW 7 _ _, by decide, h.1.1.1.1, h.1.1.1.2, h.1.1.2, h.1.2,
    fun hp => absurd hp (by decide)⟩

/-- Every form of memory word is free to issue on record 2, and, with no lane in ACTIVE, meets the other clause. -/
theorem test_meets_MemoryWordsIssue : Issues sM 7 xM ∧ xM.w.chk = none ∧ (∀ f ∈ forms, MemFree sM xM f (fM (cst 4) (cst 1)))
    ∧ (Issues s0 0 x00 ∧ x00.act = 0 ∧ (∀ fs, flagFull x00.g (flagSel x00.c.clause fs) = false) ∧ (∀ f ∈ forms, opensSplit x00 f (fM (cst 4) (cst 1)) = false)
      ∧ ∃ f ∈ forms, opensSplit x00 f { fM (cst 4) (cst 1) with spl := true } = true) :=
  ⟨issuesM, rfl, fun f hf => memFreeM f (List.all_eq_true.mp memFree_forms f hf), issues00, by decide, by decide, by decide, by decide⟩

/-- The first, the last, the one before and the one after the elements of record 2. -/
theorem test_meets_MemoryWordsIssue_elements : recSwz rec4 = 0 ∧ (4 : Nat) ≤ recE rec4 ∧ (0 : Int) ≤ 0 ∧ (1023 : Int) < (recExtent rec4 : Int)
    ∧ ¬((0 : Int) ≤ -1 ∧ (-1 : Int) < (recExtent rec4 : Int)) ∧ ¬((0 : Int) ≤ 1024 ∧ (1024 : Int) < (recExtent rec4 : Int))
    ∧ recE rec4 < 16 ∧ recE rec4 ∣ 16 ∧ (3 : Nat) < recE rec4 ∧ (3 : Nat) < 16 / recE rec4 ∧ (0 : Int) ≤ 1020 + ((3 : Nat) : Int)
    ∧ (1020 : Int) + ((3 : Nat) : Int) < (recExtent rec4 : Int) := by decide

/-- Element 4 lies at 0x30010; across the end, an access of 16 bytes at element 1,022 reaches two elements. -/
theorem test_elements : elemBytes rec4 4 4 = [(0, 0x30010), (1, 0x30011), (2, 0x30012), (3, 0x30013)] ∧ (elemBytes rec4 1022 16).length = 8 := by decide

/-- A load of element 4 starts one operation that lanes share no part of; no byte of memory changes. -/
theorem test_load_issues : nextDo (exec (.ld (fM (cst 4) (vr 0))) sM) (fun t => t.mem.isEmpty && grp0 t (fun g => g.ops.map (fun o => o.accs.map (fun a => a.loc)) ==
    [List.replicate 16 (.global 0x50010)])) = true := by decide +kernel

/-! ## Events of memory words -/

def tOp (k : OpKind) (accs : List Acc) : Op :=
  { id := 20, kind := k, flag := some 3, quads := 0xF, lanes := 0x3, pc := 4, hdr := 0, next := 8, accs := accs, dst := 8, scalar := false, width := 4, sx := false,
    aop := 0, ret := k == .atom, accepted := false, outs := [], wtype := 0, split := false, retried := false, die := 0, more := 0, skip := [] }
def tAcc (lane pa : Nat) (data : List Byte) : Acc := { lane := lane, off := 0, len := 4, va := pa, loc := .global pa, data := data, got := [], st := .todo }
/-- The event's group has one operation. -/
def sOp (o : Op) (d : Nat) : State :=
  { tSt tL tW { tG with ops := [o], f := [(3, 1)] } tI with cur := none, mem := [(0x5000, 1), (0x5001, 2)], arg := { EvArg.none with a := 2, b := 0, c := 20, d := d } }

theorem noYieldOp (o : Op) (d : Nat) : NoYield (sOp o d) := fun c h => absurd (show c ∈ ([] : List Call) from h) (by simp)
theorem inFrontOp (o : Op) (d : Nat) (h : o.id = 20) : InFront (sOp o d) 2 0 { tG with ops := [o], f := [(3, 1)] } o [] ∧ Names (sOp o d) o :=
  ⟨⟨rfl, rfl, fun k hk => absurd hk (by simp)⟩, h.symm⟩

def oLoad : Op := tOp .load [tAcc 0 0x5000 [], tAcc 1 0x5004 []]
theorem test_meets_LoadsDeliver : InFront (sOp oLoad 0x140) (sOp oLoad 0x140).arg.a (sOp oLoad 0x140).arg.b { tG with ops := [oLoad], f := [(3, 1)] } oLoad []
    ∧ Names (sOp oLoad 0x140) oLoad ∧ NoYield (sOp oLoad 0x140) ∧ oLoad.kind = .load ∧ oLoad.scalar = false
    ∧ opStalled (sOp oLoad 0x140) 2 { tG with ops := [oLoad], f := [(3, 1)] } oLoad.id = false ∧ oLoad.accs ≠ []
    ∧ (∀ a ∈ oLoad.accs, Todo a ∧ sectorOf a = (sOp oLoad 0x140).arg.d ∧ a.got = []) :=
  ⟨(inFrontOp _ _ rfl).1, (inFrontOp _ _ rfl).2, noYieldOp _ _, rfl, rfl, by decide, by decide, by
    intro a ha
    simp only [oLoad, tOp, List.mem_cons, List.not_mem_nil, or_false] at ha
    rcases ha with rfl | rfl
    · exact ⟨⟨rfl, rfl⟩, by decide, rfl⟩
    · exact ⟨⟨rfl, rfl⟩, by decide, rfl⟩⟩

/-- SLD of a scalar, the second of its bytes clean or poisoned. -/
def oSld : Op := { tOp .load [tAcc 0 0x5000 []] with scalar := true }
def sSld (p : List (Nat × Bool)) : State := { sOp oSld 0x140 with memPoison := p }
theorem test_meets_LoadsDeliver_scalar : lowestLane oSld.lanes = some 0 ∧ oSld.skip.contains (0, 0) = false ∧ slotAccs oSld 0 0 ≠ []
    ∧ (∀ p ∈ [[], [(0x5001, true)]], (opStalled (sSld p) 2 { tG with ops := [oSld], f := [(3, 1)] } oSld.id = false ∧ ∀ a ∈ oSld.accs, sectorOf a = (sSld p).arg.d ∧ a.got = [])
      ∧ anyBad (slotBytes { oSld with accs := oSld.accs.map (fun a => { a with got := loadBytes (sSld p) 2 a.loc a.len }) } 0 0) = !p.isEmpty) := by decide +kernel
theorem test_sld_returns : nextDo (exec .sectorReturn (sSld [])) (fun t => grp0 t (fun g => g.ops.isEmpty && getS g 8 == { val := 0x201, poison := false })) = true := by decide +kernel

theorem test_load_returns : nextDo (exec .sectorReturn (sOp oLoad 0x140)) (fun t => grp0 t (fun g => g.ops.isEmpty && (getV g 8 0).val == 0x201 && (getV g 8 1).val == 0 && getF g 3 == 0)) = true := by
  decide +kernel

def oStore : Op := tOp .store [tAcc 0 0x5000 [9, 9, 9, 9], tAcc 1 0x5000 [7, 0, 0, 8]]
theorem test_meets_StoresPerform : InFront (sOp oStore 2) 2 0 { tG with ops := [oStore], f := [(3, 1)] } oStore [] ∧ Names (sOp oStore 2) oStore ∧ NoYield (sOp oStore 2) ∧ oStore.kind = .store
    ∧ Unchecked (sOp oStore 2) (sOp oStore 2).arg.a ∧ opStalled (sOp oStore 2) 2 { tG with ops := [oStore], f := [(3, 1)] } oStore.id = false
    ∧ (∀ a ∈ oStore.accs, Todo a) ∧ oStore.accs.length ≤ (sOp oStore 2).arg.d :=
  ⟨(inFrontOp _ _ rfl).1, (inFrontOp _ _ rfl).2, noYieldOp _ _, rfl, ⟨_, rfl, rfl⟩, by decide, by
    intro a ha
    simp only [oStore, tOp, List.mem_cons, List.not_mem_nil, or_false] at ha
    rcases ha with rfl | rfl <;> exact ⟨rfl, rfl⟩, by decide⟩

/-- The higher lane's store to the same bytes comes last. -/
theorem test_store_order : nextDo (exec .storePerformed (sOp oStore 2)) (fun t => memBytes t 0x5000 5 == [7, 0, 0, 8, 0]) = true := by decide

def oAtom : Op := tOp .atom [tAcc 0 0x5000 [5, 0, 0, 0], tAcc 1 0x5000 [6, 0, 0, 0]]
def oRed : Op := tOp .red [tAcc 0 0x5000 [5, 0, 0, 0]]
theorem test_meets_AtomicsPerform : (InFront (sOp oAtom 0) 2 0 { tG with ops := [oAtom], f := [(3, 1)] } oAtom [] ∧ Names (sOp oAtom 0) oAtom ∧ NoYield (sOp oAtom 0) ∧ oAtom.kind = .atom
      ∧ oAtom.ret = true ∧ oAtom.scalar = false ∧ Unchecked (sOp oAtom 0) (sOp oAtom 0).arg.a
      ∧ opStalled (sOp oAtom 0) 2 { tG with ops := [oAtom], f := [(3, 1)] } oAtom.id = false ∧ (∀ a ∈ oAtom.accs, Todo a ∧ cleanAt (sOp oAtom 0) a ∧ 0 < a.len))
    ∧ (InFront (sOp oRed 0) 2 0 { tG with ops := [oRed], f := [(3, 1)] } oRed [] ∧ Names (sOp oRed 0) oRed ∧ oRed.kind = .red ∧ oRed.ret = false ∧ oRed.accepted = false
      ∧ redBuffered (sOp oRed 0) 2 oRed = false ∧ ∀ a ∈ oRed.accs, a.st ≠ .unlogged) :=
  ⟨⟨(inFrontOp _ _ rfl).1, (inFrontOp _ _ rfl).2, noYieldOp _ _, rfl, rfl, rfl, ⟨_, rfl, rfl⟩, by decide, by
    intro a ha
    simp only [oAtom, tOp, List.mem_cons, List.not_mem_nil, or_false] at ha
    rcases ha with rfl | rfl <;> exact ⟨⟨rfl, rfl⟩, show anyBad _ = false by decide +kernel, by decide⟩⟩,
   (inFrontOp _ _ rfl).1, (inFrontOp _ _ rfl).2, rfl, rfl, rfl, by decide, by decide⟩

/-- 0x201 + 5 + 6, each lane given the value before its own sum. -/
theorem test_atomic_add : nextDo (exec .atomicPerformed (sOp oAtom 0)) (fun t => memNat t 0x5000 4 == 0x20C && grp0 t (fun g => (getV g 8 0).val == 0x201 && (getV g 8 1).val == 0x206)) = true := by
  decide +kernel

def oLate : Op := { tOp .laneWord [] with outs := [{ lane := 2, v := [(5, 77)], bad := [], p := [], conds := 0, opa := 0, opb := 0, opc := 0 }] }
theorem test_meets_LaneWordsComplete : findWg (sOp oLate 0) 2 = some { tW with groups := [{ tG with ops := [oLate], f := [(3, 1)] }] } ∧ findLaunch (sOp oLate 0) tW.launch = some tL
    ∧ InFront (sOp oLate 0) 2 0 { tG with ops := [oLate], f := [(3, 1)] } oLate [] ∧ Names (sOp oLate 0) oLate ∧ oLate.kind = .laneWord ∧ oLate.outs ≠ []
    ∧ condLanes { tG with ops := [oLate], f := [(3, 1)] } (enablesOf tL) oLate.outs = 0 ∧ (∀ k ∈ oLate.outs, k.lane < 16 ∧ k.bad = [])
    ∧ oLate.outs.Pairwise (fun a b => a.lane ≠ b.lane) :=
  ⟨rfl, rfl, (inFrontOp _ _ rfl).1, (inFrontOp _ _ rfl).2, rfl, by decide, by decide, by decide, by decide⟩

theorem test_lane_word_completes : nextDo (exec .laneWordComplete (sOp oLate 0)) (fun t => grp0 t (fun g => g.ops.isEmpty && (getV g 5 2).val == 77 && getF g 3 == 0)) = true := by decide

theorem test_meets_PaletteLoadsAndTests : Issues sM 7 xM ∧ (∀ srcs, Reads xM srcs xM.act) ∧ (∀ o n, ∀ e ∈ palRead sM xM o n, e.2 = false)
    ∧ (∀ fs, flagFull xM.g (flagSel xM.c.clause fs) = false) ∧ xM.act ≠ 0 :=
  ⟨issuesM, fun _ => readsB tL tW 7 _ _, fun o n e h => by
    simp only [palRead, List.mem_map] at h
    obtain ⟨i, -, rfl⟩ := h
    split <;> rfl, by decide, by decide⟩

/-- Element 1,023 is in bounds and 1,024 is not; the probed page is present and writable. -/
theorem test_bounds_and_probe : after sM (.bchk { fM (lit 1023) (vr 0) with d := 1 }) (fun g => (getPMask g 1).toNat) = 0xFFFF
    ∧ after sM (.bchk { fM (lit 1024) (vr 0) with d := 1 }) (fun g => (getPMask g 1).toNat) = 0
    ∧ after sM (.probe (fM (cst 4) (vr 0))) (fun g => match g.ops with | [o] => ((outsSlot o.outs 8 0).getD 0).toNat | _ => 0) = 7
    ∧ after sPal (.ldc { fM (cst 4) (vr 0) with sz := 0 }) (fun g => (getV g 8 0).val.toNat) = 7 := by decide +kernel

/-- The launch's table of one record stands at 0x30000; the record at frame 0x50000 is `rec4`. -/
def lTab : Launch := { tL with btab := 0x30000, bcnt := 1 }
def sTab : State := { tSt lTab tW gB tI with dies := modifyAt State.reset.dies 0 (fun _ => { tlb := [tlbE] }), mem := smPutList [] 0x50000 (natToBytes 16 rec4.toNat) 0 }
def xTab : Ctx := tX lTab tW gB tI 7

theorem test_meets_RecordsBind : Issues sTab 7 xTab ∧ xTab.act ≠ 0 ∧ Sole sTab xTab ∧ (∀ fs, flagFull xTab.g (flagSel xTab.c.clause fs) = false)
    ∧ (∀ srcs, Reads xTab srcs xTab.act) ∧ NoYield sTab
    ∧ ((xTab.l.bcnt : Int) ≤ (readUN sTab xTab (cst 1) : Int) + memOff (fM (cst 1) (vr 0)))
    ∧ ((readUN sTab xTab (cst 0) : Int) + memOff (fM (cst 0) (vr 0)) = 0 ∧ ∃ p s1, translateFor sTab (dieOf sTab xTab.w.lcore) xTab.l.part (xTab.l.btab.toNat + 16 * 0) false = (some p, s1)
        ∧ p.peer = none ∧ stalledAt s1 2 (.global p.pa) = false ∧ Unchecked sTab xTab.c.wg ∧ (∀ i, i < 16 → sectorBad sTab (p.pa + i) = false)
        ∧ recBad (BitVec.ofNat 128 (memNat sTab p.pa 16)) = false) :=
  ⟨issues_of sTab lTab tW gB tI 7 rfl rfl rfl rfl rfl rfl, by decide, ⟨fun v hv _ => by simp [sTab, tSt] at hv; exact hv, rfl⟩, by decide,
    fun _ => readsB lTab tW 7 _ _, fun c h => absurd (show c ∈ ([] : List Call) from h) (by simp), by decide, by decide, _, _, rfl, by decide, by decide,
    ⟨_, rfl, rfl⟩, fun _ _ => rfl, by decide⟩

theorem test_record_binds : after sTab (.brec { fM (cst 0) (vr 0) with d := 9 }) (fun g => (getB g 9).toNat) = rec4.toNat
    ∧ after sTab (.brec { fM (cst 1) (vr 0) with d := 2 }) (fun g => (getB g 2).toNat) = 0 := by decide +kernel

/-! ## CTL words -/

theorem noStack (g : Group) (h : (∀ q ∈ g.quads, q.stack = [])) (q : Nat) : (quadAt g q).stack = [] := by
  unfold quadAt
  rw [List.getD_eq_getElem?_getD]
  cases hq : g.quads[q]? with
  | none => rfl
  | some a => exact h a (List.mem_of_getElem? hq)

/-- With no entry on its stacks a gang takes any division. -/
theorem fitsG (l : Launch) (w : Workgroup) (c : Issue) (gd : BitVec 3) (take : LMask) (tgt fall : Word) (rj : Option Word) :
    StackFits (tX l w tG c gd) take tgt fall rj := by
  intro q _ _
  have h : (quadAt (tX l w tG c gd).g q).stack = [] := noStack tG (by decide) q
  simp only [h, pushed, List.length_nil]
  split <;> split <;> omega

theorem sentFitsG (l : Launch) (w : Workgroup) (c : Issue) (gd : BitVec 3) (tg : Nat → Word) (rj : Option Word) : SentFits (tX l w tG c gd) tg rj := by
  intro q _ _
  have h : (quadAt (tX l w tG c gd).g q).stack = [] := noStack tG (by decide) q
  have k : reuses (quadAt (tX l w tG c gd).g q) = false := by simp [reuses, h]
  simp only [sentStack, k, h, Bool.false_eq_true, if_false, List.length_append, List.length_nil]
  split <;> split <;> simp

theorem roomG (l : Launch) (w : Workgroup) (c : Issue) (gd : BitVec 3) : StackRoom (tX l w tG c gd) := by
  intro q _
  have : (quadAt (tX l w tG c gd).g q).stack = [] := noStack tG (by decide) q
  simp [this]

def fJ (cp : BitVec 4) (a : Fld) : FmtJ := { g := 7, d := 5, cp := cp, a := a, tgt := 5, rj := 16 }
def fY (a : Fld) (k : BitVec 8) : FmtY := { g := 7, d := 5, a := a, k := k }

/-- The predictor of core 0 is sure of this branch. -/
def xP : Ctx := tX tL tW tG { tI with predict := true } 7
def sP : State := { tSt tL tW tG { tI with predict := true } with
  cores := modifyAt State.reset.cores 0 (fun k => { k with predictor := [(predKey xP, { mask := 0xFF, conf := 2 })] }) }

theorem predP : predEntry sP xP = { mask := 0xFF, conf := 2 } := by
  have h : sP.cores[coreOf sP xP.w]? = some { CoreSt.fresh with predictor := [(predKey xP, { mask := 0xFF, conf := 2 })] } := by rfl
  simp [predEntry, h, smGet]

/-- BR on a predicate and on pT under pT, BRU of lanes that agree, CALL, LOOP with lanes and with none; a predicted BR. -/
theorem test_meets_BranchesDivide : Issues s0 7 x0 ∧ StackRoom x0 ∧ ¬((fJ 0 (vr 0)).cp = 7 ∧ (fJ 0 (vr 0)).g = 7) ∧ x0.c.predict = false
    ∧ ((fJ 7 (vr 0)).cp = 7 ∧ (fJ 7 (vr 0)).g = 7) ∧ disagree x0.act (x0.act &&& condMask x0.g (fJ 7 (vr 0)).cp) = false
    ∧ x0.act ≠ 0 ∧ Reads x0 [srcOf 0 (fJ 7 (sr 2)).a 1] x0.act ∧ (Issues s0 0 x00 ∧ StackRoom x00 ∧ x00.act = 0)
    ∧ (∀ take tgt fall rj, StackFits x0 take tgt fall rj) ∧ (∀ tgt fall rj, StackFits x00 0 tgt fall rj)
    ∧ (Issues sP 7 xP ∧ StackRoom xP ∧ alwaysKnown (fJ 0 (vr 0)) = false ∧ xP.c.predict = true ∧ (2 : Nat) ≤ (predEntry sP xP).conf.toNat) :=
  ⟨issues0, roomG _ _ _ _, by decide, by decide, by decide, by decide, by decide, reads0 _ _, ⟨issues00, roomG _ _ _ _, by decide⟩,
    fun _ _ _ _ => fitsG _ _ _ _ _ _ _ _, fun _ _ _ => fitsG _ _ _ _ _ _ _ _,
    issues_of sP tL tW tG { tI with predict := true } 7 rfl rfl rfl rfl rfl rfl, roomG _ _ _ _, by decide, rfl, by rw [predP]; decide⟩

theorem test_meets_IndirectBranches : Issues s0 7 x0 ∧ (∀ tg rj, SentFits x0 tg rj) ∧ Reads x0 [srcOf 0 (vr 1) 1] x0.act ∧ oddTargets x0 (targetOf s0 x0 (vr 1)) = 0
    ∧ lowestLane x0.act = some 0 ∧ (∀ l, l < 16 → hasLane x0.act l = true → evenTarget (targetOf s0 x0 (vr 1)) l = evenTarget (targetOf s0 x0 (vr 1)) 0)
    ∧ (∀ take tgt fall rj, StackFits x0 take tgt fall rj) ∧ (∀ t fall rj, StackFits x00 0 t fall rj)
    ∧ (Issues s0 0 x00 ∧ x00.act = 0 ∧ oddTargets x00 (targetOf s0 x00 (vr 1)) = 0 ∧ ∀ srcs, Reads x00 srcs x00.act) :=
  ⟨issues0, fun _ _ => sentFitsG _ _ _ _ _ _, reads0 _ _, by decide, by decide, by decide, fun _ _ _ _ => fitsG _ _ _ _ _ _ _ _,
    fun _ _ _ => fitsG _ _ _ _ _ _ _ _, issues00, by decide, by decide, fun _ => readsG tL tW 0 _ _⟩

/-- The lanes where predicate 0 holds. -/
def gP0 : Group := putPMask tG 0 0xFFFF 0x00F1
def sP0 : State := tSt tL tW gP0 tI
/-- Quad 0 divides within itself: lane 0 is taken. Quad 1 goes, quads 2 and 3 fall through. -/
theorem test_branch_divides : nextDo (exec (.br (fJ 0 (vr 0))) sP0) (fun t => grp0 t (fun g =>
    g.quads.map (fun q => q.pc.toNat) == [20, 20, 8, 8] && g.quads.map (fun q => q.run.toNat) == [1, 15, 15, 15] && g.quads.map (fun q => q.gang) == [0, 0, 2, 2]
      && (quadAt g 0).stack.map (fun e => e.pmask.toNat) == [14, 0])) = true := by decide +kernel

/-- LOOP counts s2 down from 2, and goes back; CALL leaves the fall-through's address in v5. -/
theorem test_loop_and_call : nextDo (exec (.loop (fJ 7 (sr 2))) (tSt tL tW (putS tG 2 2) tI)) (fun t => grp0 t (fun g => (getS g 2).val == 1 && g.quads.all (fun q => q.pc == 20))) = true
    ∧ nextDo (exec (.call (fJ 7 (vr 0))) s0) (fun t => grp0 t (fun g => (getV g 5 3).val == 8 && g.quads.all (fun q => q.pc == 20))) = true
    ∧ nextDo (exec (.loop (fJ 7 (sr 2))) (tSt tL tW (putS tG 2 1) tI)) (fun t => grp0 t (fun g => (getS g 2).val == 0 && g.quads.all (fun q => q.pc == 8))) = true := by decide +kernel

/-- Lanes 0 to 3 hold target 16, the others 32: two gangs. A third, 2, is odd. -/
theorem test_indirect : nextDo (exec (.bri (fJ 7 (vr 1))) (tSt tL tW ((List.range 16).foldl (fun g l => putV g 1 l (if l < 4 then 16 else 32)) tG) tI))
      (fun t => grp0 t (fun g => g.quads.map (fun q => q.pc.toNat) == [16, 32, 32, 32])) = true
    ∧ nextDo (exec (.ret (fY (vr 1) 0)) (tSt { tL with handler := 64 } tW (putV tG 1 0 2) tI)) (fun t => grp0 t (fun g => g.inHandler && getTrap g 0x100 == 0xB01)) = true := by
  decide +kernel

theorem test_meets_ExitAndYield : Issues s0 7 x0 ∧ x0.act ≠ 0 ∧ (Issues s0 0 x00 ∧ x00.act = 0) ∧ (fY (vr 0) 0).k = 0 ∧ (fY (vr 0) 255).k ≠ 0 :=
  ⟨issues0, by decide, ⟨issues00, by decide⟩, by decide, by decide⟩

theorem test_exit_and_sleep : nextDo (exec (.exit (fY (vr 0) 0)) s0) (fun t => grp0 t (fun g => g.quads.all (fun q => q.live == 0 && q.st == .done))) = true
    ∧ nextDo (exec (.sleep (fY (vr 0) 2)) s0) (fun t => grp0 t (fun g => g.quads.all (fun q => q.st == .parked && q.park == .sleep 512))) = true
    ∧ nextDo (exec (.nop (fY (vr 0) 0)) s0) (fun t => grp0 t (fun g => g.quads.all (fun q => q.pc == 8 && q.clause.isNone))) = true := by decide +kernel

/-! ## Traps -/

/-- A launch with a handler at 64. -/
def lH : Launch := { tL with handler := 64 }
def sH : State := tSt lH tW tG tI
def xH : Ctx := tX lH tW tG tI 7
theorem issuesH : Issues sH 7 xH := issues_of sH lH tW tG tI 7 rfl rfl rfl rfl rfl rfl
theorem readyH : TrapReady xH := ⟨by decide, by decide, by decide, by decide, by decide, by decide⟩

/-- In its handler, after a software trap. -/
def gIn : Group := { tG with inHandler := true, ctx := tG.quads, ctxQuads := 0xF, ctxHeader := false, trap := [(0x100, 5), (0x101, 4), (0x102, 8)] }
def sIn : State := tSt lH tW gIn tI
def xIn : Ctx := tX lH tW gIn tI 7
theorem issuesIn : Issues sIn 7 xIn := issues_of sIn lH tW gIn tI 7 rfl rfl rfl rfl rfl rfl

theorem test_meets_TrapsEnterTheHandler : (Issues sH 7 xH ∧ groupAct xH ≠ 0 ∧ TrapReady xH) ∧ (Issues s0 7 x0 ∧ groupAct x0 ≠ 0 ∧ hasHandler x0.l = false)
    ∧ (x0.c.replay = false ∧ trapWaits x0.g = false ∧ heldLaneWords (enablesOf x0.l) x0.g = [] ∧ x0.l.fail = none)
    ∧ (Issues sIn 7 xIn ∧ groupAct xIn ≠ 0 ∧ xIn.c.replay = false ∧ trapWaits xIn.g = false ∧ heldLaneWords (enablesOf xIn.l) xIn.g = [] ∧ xIn.g.inHandler = true
      ∧ xIn.l.fail = none) :=
  ⟨⟨issuesH, by decide, readyH⟩, ⟨issues0, by decide, by decide⟩, by decide, issuesIn, by decide, by decide, by decide, by decide, by decide, by decide⟩

/-- TRAP 9: cause 5, address 4, resume 8, all lanes, info 9; every quad at the handler. With none, the launch is TRAPPED. -/
theorem test_trap : nextDo (exec (.trap (fY (vr 0) 9)) sH) (fun t => grp0 t (fun g => g.inHandler && (List.range 7).map (fun i => (getTrap g (0x100 + i)).toNat) == [5, 4, 8, 0xFFFF, 0, 0, 9]
      && g.quads.all (fun q => q.pc == 64 && q.run == 15))) = true
    ∧ nextDo (exec (.trap (fY (vr 0) 9)) s0) (fun t => t.launches.map (fun l => l.fail) == [some (17, 0x400000005)]) = true := by decide +kernel

theorem test_meets_ReturnsFromTheHandler : (Issues sIn 7 xIn ∧ groupAct xIn ≠ 0 ∧ xIn.g.inHandler = true ∧ speculative xIn.g = false
      ∧ (getTrap xIn.g 0x100).toNat % 256 ≠ 12 ∧ xIn.g.ctxHeader = false ∧ atBoundary xIn.g = false) ∧ (Issues sH 7 xH ∧ groupAct xH ≠ 0 ∧ TrapReady xH) :=
  ⟨⟨issuesIn, by decide⟩, issuesH, by decide, readyH⟩

/-- In the handler of a trap of the header at address 0, which can be read; and of a PAGE_FAULT taken at the word that the gang stands
at, of which a store of lane 0 is kept, or nothing. -/
def gHd : Group := { gIn with ctxHeader := true, trap := [(0x100, 10), (0x101, 0), (0x102, 0)] }
def sHd : State := { tSt lH tW gHd tI with dies := modifyAt State.reset.dies 0 (fun _ => { tlb := [{ part := 0, kind := .pages, va := 0, leaves := [{ idx := 0, frame := 0x50000, wr := true, span := false, peer := none }] }] }) }
def gPf (kept : List Op) : Group := { gIn with kept := kept, trap := [(0x100, 12), (0x101, 0), (0x102, 4)] }

theorem test_meets_ReturnsFromTheHandler_frames :
    (atBoundary gHd = false ∧ gHd.ctxHeader = true ∧ getTrap gHd 0x101 = getTrap gHd 0x102 ∧ ∃ h u, codeWord sHd tW lH 0 = (some h, u))
    ∧ (∃ u, codeWord { sHd with dies := [] } tW lH 0 = (none, u))
    ∧ (∀ kept ∈ [[], [oStore]], Issues (tSt lH tW (gPf kept) tI) 7 (tX lH tW (gPf kept) tI 7) ∧ groupAct (tX lH tW (gPf kept) tI 7) ≠ 0 ∧ atBoundary (gPf kept) = true
      ∧ (gPf kept).inHandler = true ∧ speculative (gPf kept) = false) :=
  ⟨⟨by decide, by decide, by decide, _, _, rfl⟩, ⟨_, rfl⟩, fun k hk => by
    refine ⟨issues_of (tSt lH tW (gPf k) tI) lH tW (gPf k) tI 7 rfl rfl rfl rfl rfl rfl, ?_⟩
    simp only [List.mem_cons, List.not_mem_nil, or_false] at hk
    rcases hk with rfl | rfl <;> decide⟩

/-- RFT.retry with a kept store parks the gang for it; the store is in the group again under a fresh identifier. -/
theorem test_returns_to_a_retry : nextDo (exec (.rftRetry (fY (vr 0) 0)) (tSt lH tW (gPf [oStore]) tI)) (fun t =>
    grp0 t (fun g => !g.inHandler && g.ops.map (fun o => o.id) == [10] && g.quads.all (fun q => q.st == .parked && q.park == .retryOps))) = true := by decide +kernel

theorem test_returns : nextDo (exec (.rftRet (fY (vr 0) 0)) sIn) (fun t => grp0 t (fun g => !g.inHandler && g.quads.all (fun q => q.pc == 8))) = true
    ∧ nextDo (exec (.rftRetry (fY (vr 0) 0)) sIn) (fun t => grp0 t (fun g => !g.inHandler && g.quads.all (fun q => q.pc == 4))) = true
    ∧ nextDo (exec (.rftRet (fY (vr 0) 0)) sH) (fun t => grp0 t (fun g => g.inHandler && getTrap g 0x100 == 20)) = true := by decide +kernel

/-- The launch enables INV; plus and minus infinity meet it. -/
def lNf : Launch := { lH with lflags := 16 }
def sNf : State := tSt lNf tW tG tI
def xNf : Ctx := tX lNf tW tG tI 7
def wNf : FmtAX := fX 10 (lit 0x7F800000) (lit 0xFF800000) (cst 0)
theorem readyNf : TrapReady xNf := ⟨by decide, by decide, by decide, by decide, by decide, by decide⟩
theorem laneFreeNf (srcs : List Src) : LaneFree sNf xNf srcs false := ⟨readsG lNf tW 7 _ _, fun h => absurd h (by decide), fun h => absurd h (by decide)⟩
theorem issuesNf : Issues sNf 7 xNf := issues_of sNf lNf tW tG tI 7 rfl rfl rfl rfl rfl rfl
/-- A signalling NaN meets INV in every word that takes one, infinities of opposite signs in a sum, and a division by zero DVZ. -/
def snan : FVal := fDecode 10 0x7FA00000

/-- A pending word whose lane 2 met INV, in the group of an event whose launch has a handler. -/
def oBad : Op := { tOp .laneWord [] with outs := [{ lane := 2, v := [(5, 77)], bad := [], p := [], conds := 1, opa := 3, opb := 0, opc := 0 }] }
def gBad : Group := { tG with ops := [oBad], f := [(3, 1)] }
def sBad : State := { tSt lNf tW gBad tI with cur := none, arg := { EvArg.none with a := 2, b := 0, c := 20 } }

theorem test_meets_NonfiniteTraps : Issues sNf 7 xNf ∧ TrapReady xNf ∧ (∀ srcs, LaneFree sNf xNf srcs false)
    ∧ metLanes xNf (fun l => condOf 10 (fAdd 10 0 false (fDecode 10 (readFlt xNf wNf.a 10 l)) (fDecode 10 (readFlt xNf wNf.b 10 l)))
        [fDecode 10 (readFlt xNf wNf.a 10 l), fDecode 10 (readFlt xNf wNf.b 10 l)]) ≠ 0
    ∧ (∀ c : BitVec 5, c ∈ [condOf 10 (fMul 10 0 false snan fOne) [snan, fOne], condOf 10 (fMinMax 10 false false snan fOne) [snan, fOne], condOf 10 (fRnd 10 0 false snan) [snan],
          condOf 8 (pkAdd 8 0 false [snan, fOne]) [snan, fOne], condOf 8 (pkMul 8 0 false [snan, fOne]) [snan, fOne], condOf 8 (pkFma 8 0 false [snan, fOne, fOne]) [snan, fOne, fOne],
          condOf 10 (fScl 10 0 false snan 1) [snan], condBits (fIsSnan snan) false false false (fNonFinite snan), condOf 10 (fXtrMan 10 snan) [snan],
          condOf 10 (fFma 10 0 false snan fOne fOne) [snan, fOne, fOne], condOf 10 (deliver 10 0 false .nan true false) [snan],
          condOf 8 { fCvt 8 0 false snan with inv := (fCvt 8 0 false snan).inv || fIsSnan snan } [snan], condBits ((fToInt 2 0 snan).2 || fIsSnan snan) false false false (fNonFinite snan),
          condBits (fIsNan snan) false false false (fNonFinite snan)] → metLanes xNf (fun _ => c) ≠ 0)
    ∧ (let g := gBad
       findWg sBad 2 = some { tW with groups := [g] } ∧ findLaunch sBad tW.launch = some lNf ∧ InFront sBad 2 0 g oBad [] ∧ Names sBad oBad ∧ oBad.kind = .laneWord ∧ oBad.outs ≠ []
       ∧ condLanes g (enablesOf lNf) oBad.outs ≠ 0 ∧ (dueRefusals g).any (fun r => decide (r.op < oBad.id)) = false ∧ trapWaits g = false ∧ hasHandler lNf = true ∧ g.inHandler = false)
    ∧ Carries oBad.outs 4 (fun _ => 1) (fun _ => 3) (fun _ => 0) (fun _ => 0) ∧ ∀ l, hasLane 4 l = false → outOf oBad.outs l = none := by
  refine ⟨issuesNf, readyNf, laneFreeNf, by decide +kernel, ?_, ⟨rfl, rfl, ⟨rfl, rfl, fun k hk => absurd hk (by simp)⟩, rfl, rfl, by decide, by decide, by decide, by decide, by decide, rfl⟩, ?_, ?_⟩
  · intro c hc
    have h : ∀ c : BitVec 5, c &&& 1 ≠ 0 → metLanes xNf (fun _ => c) ≠ 0 := by decide +kernel
    have k : ∀ c ∈ [condOf 10 (fMul 10 0 false snan fOne) [snan, fOne], condOf 10 (fMinMax 10 false false snan fOne) [snan, fOne], condOf 10 (fRnd 10 0 false snan) [snan],
          condOf 8 (pkAdd 8 0 false [snan, fOne]) [snan, fOne], condOf 8 (pkMul 8 0 false [snan, fOne]) [snan, fOne], condOf 8 (pkFma 8 0 false [snan, fOne, fOne]) [snan, fOne, fOne],
          condOf 10 (fScl 10 0 false snan 1) [snan], condBits (fIsSnan snan) false false false (fNonFinite snan), condOf 10 (fXtrMan 10 snan) [snan],
          condOf 10 (fFma 10 0 false snan fOne fOne) [snan, fOne, fOne], condOf 10 (deliver 10 0 false .nan true false) [snan],
          condOf 8 { fCvt 8 0 false snan with inv := (fCvt 8 0 false snan).inv || fIsSnan snan } [snan], condBits ((fToInt 2 0 snan).2 || fIsSnan snan) false false false (fNonFinite snan),
          condBits (fIsNan snan) false false false (fNonFinite snan)], c &&& 1 ≠ 0 := by decide +kernel
    exact h c (k c hc)
  · intro l hl h
    have : l = 2 := by
      rcases Nat.lt_or_ge l 2 with h1 | h1
      · interval_cases l <;> revert h <;> decide
      · rcases Nat.lt_or_ge 2 l with h2 | h2
        · interval_cases l <;> revert h <;> decide
        · omega
    subst this
    exact ⟨_, rfl, rfl, rfl, rfl, rfl⟩
  · intro l h
    have : l ≠ 2 := by rintro rfl; revert h; decide
    simp [outOf, oBad]
    omega

theorem test_nonfinite : nextDo (exec (.faddAx wNf) sNf) (fun t => grp0 t (fun g => g.inHandler && getTrap g 0x100 == 6 && getTrap g 0x103 == 0xFFFF && getTrap g 0x110 == 0x7F800000)) = true := by
  decide +kernel

/-- A gang whose stacks hold eight entries each, where predicate 0 holds of some lanes of quad 0 and v1 holds two targets, the second
of them odd or even. -/
def gFull (t : Word) : Group :=
  let g := putPMask ((List.range 16).foldl (fun g l => putV g 1 l (if l < 4 then 16 else t)) tG) 0 0xFFFF 0x00F1
  { g with quads := g.quads.map (fun q => { q with stack := List.replicate 8 (laneEntry none 0 0 0 false none) }) }
def xFull (t : Word) : Ctx := tX lH tW (gFull t) tI 7
theorem issuesFull (t : Word) : Issues (tSt lH tW (gFull t) tI) 7 (xFull t) := issues_of (tSt lH tW (gFull t) tI) lH tW (gFull t) tI 7 rfl rfl rfl rfl rfl rfl
theorem readyFull (t : Word) (h : t = 32 ∨ t = 33) : TrapReady (xFull t) := by
  rcases h with rfl | rfl <;> exact ⟨rfl, by decide +kernel, by decide +kernel, by decide +kernel, by decide +kernel, by decide +kernel⟩
/-- The same stacks, with two even targets in quad 0. -/
def gSplit : Group := putV (gFull 32) 1 3 48
def gTwo : Group := { gFull 32 with quads := tG.quads }
/-- The predictor is not sure of a branch that it has not seen. -/
theorem test_meets_BranchesDivide_traps : Issues (tSt lH tW (gFull 32) tI) 7 (xFull 32) ∧ TrapReady (xFull 32)
    ∧ ¬StackFits (xFull 32) ((xFull 32).act &&& condMask (xFull 32).g 0) 20 8 none ∧ disagree ((xFull 32).act &&& (xFull 32).g.counted) ((xFull 32).act &&& condMask (xFull 32).g 0) = true
    ∧ disagree ((xFull 32).act &&& (xFull 32).g.counted) ((xFull 32).act &&& condMask (xFull 32).g 7) = false ∧ (predEntry s0 xP).conf.toNat < 2
    ∧ (let x := tX lH tW { gFull 32 with counted := 1 } tI 7
       let take := x.act &&& condMask x.g 0
       TrapReady x ∧ disagree (x.act &&& x.g.counted) take = false ∧ bruTake x take = x.act ∧ take ≠ x.act)
    ∧ (let x := tX lH tW (putPMask (gFull 32) 1 0xFFFF 0x0001) tI 1
       let again := if (getS x.g 2).val - 1 = 0 then 0 else x.act
       TrapReady x ∧ x.act ≠ 0 ∧ ¬StackFits x (x.act &&& condMask x.g 7) 20 8 none ∧ ¬StackFits x again 20 8 none ∧ ¬StackFits x (bruTake x (x.act &&& condMask x.g 7)) 20 8 none) :=
  ⟨issuesFull _, readyFull _ (by simp), fun h => absurd (h 0 (by decide) (by decide)) (by decide +kernel), by decide +kernel, by decide +kernel, by decide +kernel,
    ⟨⟨by decide, by decide +kernel, by decide +kernel, by decide, by decide, by decide⟩, by decide +kernel⟩,
    ⟨⟨by decide, by decide +kernel, by decide +kernel, by decide, by decide, by decide⟩, by decide +kernel, fun h => absurd (h 0 (by decide) (by decide)) (by decide +kernel),
      fun h => absurd (h 0 (by decide) (by decide)) (by decide +kernel), fun h => absurd (h 0 (by decide) (by decide)) (by decide +kernel)⟩⟩
theorem test_meets_IndirectBranches_traps : (∀ t, t = 32 ∨ t = 33 → Issues (tSt lH tW (gFull t) tI) 7 (xFull t) ∧ TrapReady (xFull t)) ∧ oddTargets (xFull 33) (targetOf (tSt lH tW (gFull 33) tI) (xFull 33) (vr 1)) ≠ 0
    ∧ (∀ t, t = 32 ∨ t = 33 → Reads (xFull t) [srcOf 0 (vr 1) 1] (xFull t).act)
    ∧ (let x := tX lH tW gSplit tI 7
       let tg := evenTarget (targetOf (tSt lH tW gSplit tI) x (vr 1))
       TrapReady x ∧ Reads x [srcOf 0 (vr 1) 1] x.act ∧ oddTargets x (targetOf (tSt lH tW gSplit tI) x (vr 1)) = 0 ∧ ¬SentFits x tg none)
    ∧ (let s := tSt lH tW gTwo tI
       let x := tX lH tW gTwo tI 7
       Issues s 7 x ∧ StackRoom x ∧ TrapReady x ∧ oddTargets x (targetOf s x (vr 1)) = 0 ∧ lowestLane (x.act &&& x.g.counted) = some 0 ∧ groupAct x ≠ 0
       ∧ hasLane (x.act &&& x.g.counted) 4 = true ∧ evenTarget (targetOf s x (vr 1)) 4 ≠ evenTarget (targetOf s x (vr 1)) 0) :=
  ⟨fun t h => ⟨issuesFull t, readyFull t h⟩, by decide +kernel, fun t h => by rcases h with rfl | rfl <;> exact ⟨by decide +kernel, by decide +kernel⟩,
    ⟨⟨by decide, by decide +kernel, by decide +kernel, by decide, by decide, by decide⟩, ⟨by decide +kernel, by decide +kernel⟩, by decide +kernel,
      fun h => absurd (h 0 (by decide) (by decide)) (by decide +kernel)⟩,
    issues_of (tSt lH tW gTwo tI) lH tW gTwo tI 7 rfl rfl rfl rfl rfl rfl,
    fun q _ => by show (quadAt gTwo q).stack.length ≤ 6; rw [noStack gTwo (by decide) q]; decide, ⟨rfl, by decide +kernel, by decide +kernel, by decide +kernel, by decide +kernel, by decide +kernel⟩, by decide +kernel, by decide +kernel, by decide +kernel,
    by decide +kernel, by decide +kernel⟩

/-- A record under a WRITE lock; and a record whose reserved bits are set. -/
def lTabH : Launch := { lTab with handler := 64 }
def xTabH : Ctx := tX lTabH tW gB tI 7
def sTabL : State := { tSt lTabH tW gB tI with dies := sTab.dies, mem := sTab.mem, locks := [{ id := 9, die := 0, write := true, space := .global 0, lo := 0x30000, hi := 0x3003F, launch := 1, owner := 50 }] }
def sTabB : State := { tSt lTabH tW gB tI with dies := sTab.dies, mem := smPutList [] 0x50000 (natToBytes 16 (2 ^ 127)) 0 }
theorem test_meets_RecordsBind_traps : Issues sTabL 7 xTabH ∧ Issues sTabB 7 xTabH ∧ TrapReady xTabH ∧ (∀ q, hasQuad xTabH.c.quads q = true → (quadAt xTabH.g q).refused = [])
    ∧ brecLock sTabL xTabH 0x30000 = some 0x30000 ∧ brecLock sTabB xTabH 0x30000 = none ∧ xTabH.act &&& xTabH.g.counted ≠ 0
    ∧ (let g := { gB with counted := 0 }
       let x := tX lTabH tW g tI 7
       let s := { tSt lTabH tW g tI with dies := sTab.dies, mem := sTabB.mem }
       Issues s 7 x ∧ x.act ≠ 0 ∧ x.act &&& x.g.counted = 0 ∧ brecLock { s with locks := sTabL.locks } x 0x30000 = some 0x30000 ∧ brecLock s x 0x30000 = none
       ∧ (∃ s1, translateFor { s with dies := [] } 0 0 0x30000 false = (none, s1)) ∧ recBad (BitVec.ofNat 128 (memNat s 0x50000 16)) = true)
    ∧ ∃ p s1, translateFor sTabB (dieOf sTabB xTabH.w.lcore) xTabH.l.part 0x30000 false = (some p, s1) ∧ p.peer = none ∧ stalledAt s1 2 (.global p.pa) = false
      ∧ (∀ i, i < 16 → sectorBad sTabB (p.pa + i) = false) ∧ recBad (BitVec.ofNat 128 (memNat sTabB p.pa 16)) = true :=
  ⟨issues_of sTabL lTabH tW gB tI 7 rfl rfl rfl rfl rfl rfl, issues_of sTabB lTabH tW gB tI 7 rfl rfl rfl rfl rfl rfl, ⟨rfl, by decide, by decide, by decide, by decide, by decide⟩,
    fun q _ => by
      have h : ∀ a ∈ gB.quads, a.refused = [] := by decide
      show (quadAt gB q).refused = []
      unfold quadAt
      rw [List.getD_eq_getElem?_getD]
      cases hq : gB.quads[q]? with
      | none => rfl
      | some a => exact h a (List.mem_of_getElem? hq),
    by decide +kernel, by decide +kernel, by decide,
    ⟨issues_of _ lTabH tW _ tI 7 rfl rfl rfl rfl rfl rfl, by decide, by decide, by decide +kernel, by decide +kernel, ⟨_, rfl⟩, by decide +kernel⟩,
    _, _, by rfl, by decide, by decide, fun _ _ => rfl, by decide +kernel⟩

/-! ## SYNC words -/

/-- A gang with no interval needs no cut before its word. -/
theorem cutsPlain {s : State} {gd : BitVec 3} {x : Ctx} (h : Issues s gd x) (hc : x.w.chk = none) : Cuts s x s x id :=
  ⟨fun _ => ⟨rfl, rfl, rfl⟩, fun k => absurd hc k, rfl, h.wg, h.grp⟩

/-- An object at canvas byte 16 with generation 3, two signallers, one waiter, one pending. s1 holds 3, s2 holds 4, s3 one signaller,
s4 a word with a reserved bit set, s5 the largest byte count and 1. The launch has a handler. -/
def gPh : Group := putS (putS (putS (putS (putS tG 1 3) 2 4) 3 1) 4 0x400) 5 0x80000000
def phObj : Phaser := { gen := 3, nsig := 2, nwait := 1, pend := 1, zhi := 0, outb := 0, zlo := 0, inb := 0 }
def wPh (p : Phaser) : Workgroup := { tW with win := smPutList [] 16 (natToBytes 16 (phaserNat p)) 0 }
def sPh (p : Phaser) : State := tSt lH (wPh p) gPh tI
def xPh (p : Phaser) : Ctx := tX lH (wPh p) gPh tI 7
theorem issuesPh (p : Phaser) : Issues (sPh p) 7 (xPh p) := issues_of (sPh p) lH (wPh p) gPh tI 7 rfl rfl rfl rfl rfl rfl

/-- The objects of the clauses: as above; reserved bits set; 1,023 signallers; nothing pending; no signaller; two pending; bytes going
out; and as many bytes to come as the field holds. -/
def phZ : Phaser := { phObj with zhi := 1 }
def phMax : Phaser := { phObj with nsig := 1023 }
def phNone : Phaser := { phObj with pend := 0 }
def phNoSig : Phaser := { phObj with nsig := 0 }
def phTwo : Phaser := { phObj with pend := 2 }
def phOut : Phaser := { phObj with outb := 5 }
def phFull : Phaser := { phObj with inb := 2 ^ 31 - 1 }
def phAll : List Phaser := [phObj, phZ, phMax, phNone, phNoSig, phTwo, phOut, phFull]
def phKs : List (BitVec 8) := [0, 1, 2, 3, 4, 5, 6, 7]
theorem phReads : ∀ p ∈ phAll, phRead (sPh p) 2 16 = p := by decide +kernel
theorem readyPh : ∀ p ∈ phAll, TrapReady (xPh p) := by
  have h : ∀ p ∈ phAll, (xPh p).c.replay = false ∧ speculative (xPh p).g = false ∧ trapWaits (xPh p).g = false ∧ heldLaneWords (enablesOf (xPh p).l) (xPh p).g = []
      ∧ hasHandler (xPh p).l = true ∧ (xPh p).g.inHandler = false := by decide +kernel
  exact fun p hp => let ⟨a, b, c, d, e, f⟩ := h p hp; ⟨a, b, c, d, e, f⟩
theorem phAt : ∀ p ∈ phAll, ∀ k ∈ phKs, ∀ useK, PhaserAt (sPh p) (xPh p) (fY (lit 16) k) useK 2 16 := by
  have h : ∀ p ∈ phAll, (groupAct (xPh p) ≠ 0 ∧ predicted (xPh p) = false) ∧ stalledAt (sPh p) 2 (.canvas 2 16) = false
      ∧ (∀ k ∈ phKs, canvasAt (sPh p) (xPh p).l (xPh p).w (readUN (sPh p) (xPh p) (fY (lit 16) k).a) 16 = some ({ wPh p with groups := [gPh] }, 16))
      ∧ ∀ k ∈ phKs, ∀ useK : Bool, poisonLanes (xPh p).g (srcOf 0 (fY (lit 16) k).a 1 ::
          (if useK then [{ which := 3, code := BitVec.ofNat 8 (0x80 + (fY (lit 16) k).k.toNat % 64), n := 1 }] else [])) (xPh p).act = 0 := by decide +kernel
  exact fun p hp k hk u => let ⟨a, b, c, d⟩ := h p hp; ⟨⟨a.1, fun _ => rfl, d k hk u, fun h => absurd h (by simp [a.2])⟩, ⟨_, c k hk, rfl, rfl, rfl⟩, b⟩

/-- The window's object lies under the lock of a copy of the same launch. -/
def sPhL : State := { sPh phObj with locks := [{ id := 4, die := 0, write := true, space := .canvas 2, lo := 0, hi := 63, launch := 1, owner := 3 }] }

theorem test_meets_PhaserWords : (∀ p ∈ phAll, Issues (sPh p) 7 (xPh p) ∧ Cuts (sPh p) (xPh p) (sPh p) (xPh p) id ∧ TrapReady (xPh p)
      ∧ phRead (sPh p) 2 16 = p ∧ ∀ k ∈ phKs, ∀ useK, PhaserAt (sPh p) (xPh p) (fY (lit 16) k) useK 2 16)
    ∧ ((bitsOf (kScalar (xPh phObj) (fY (lit 16) 3)) 15 10 = 0 ∧ bitsOf (kScalar (xPh phObj) (fY (lit 16) 3)) 31 26 = 0) ∧ ¬(bitsOf (kScalar (xPh phObj) (fY (lit 16) 4)) 15 10 = 0)
    ∧ phZ.zhi ≠ 0 ∧ phObj.zhi = 0 ∧ phObj.zlo = 0
    ∧ (kScalar (xPh phObj) (fY (lit 16) 1) < 2 ^ 31 ∧ toSigned 32 phObj.inb + (kScalar (xPh phObj) (fY (lit 16) 1) : Int) < 2 ^ 31)
    ∧ ¬(kScalar (xPh phObj) (fY (lit 16) 5) < 2 ^ 31) ∧ ¬(toSigned 32 phFull.inb + (kScalar (xPh phFull) (fY (lit 16) 1) : Int) < 2 ^ 31)
    ∧ phObj.gen = kScalar (xPh phObj) (fY (lit 16) 1) % 16 ∧ phObj.gen ≠ kScalar (xPh phObj) (fY (lit 16) 2) % 16
    ∧ (phSig (fY (lit 16) 1) = true ∨ phWt (fY (lit 16) 1) = true ∨ phSig (fY (lit 16) 0) = true ∨ phWt (fY (lit 16) 0) = true)
    ∧ phObj.nsig < 1023 ∧ phObj.nwait < 1023 ∧ phObj.pend < 1023 ∧ ¬(phMax.nsig < 1023) ∧ phNone.pend = 0 ∧ (fY (lit 16) 4).k.getLsbD 2 = true ∧ (fY (lit 16) 2).k.getLsbD 2 = false
    ∧ phObj.pend ≠ 0 ∧ phObj.nsig ≠ 0 ∧ phObj.nwait ≠ 0 ∧ phNoSig.nsig = 0 ∧ ends { phObj with pend := phObj.pend - 1 } = true ∧ ends { phTwo with pend := phTwo.pend - 1 } = false
    ∧ phObj.outb = 0 ∧ phOut.outb ≠ 0)
    ∧ canvasAt (sPh phObj) (xPh phObj).l (xPh phObj).w (readUN (sPh phObj) (xPh phObj) (lit 0x10000000)) 16 = none ∧ PhaserReady (xPh phObj) (fY (lit 0x10000000) 3) true
    ∧ PhaserReady (xPh phObj) (fY (lit 0x10000000) 0) false
    ∧ (Issues sPhL 7 (xPh phObj) ∧ Cuts sPhL (xPh phObj) sPhL (xPh phObj) id
      ∧ ∃ t k, canvasAt sPhL (xPh phObj).l (xPh phObj).w (readUN sPhL (xPh phObj) (lit 16)) 16 = some (t, 16) ∧ lockHit sPhL (xPh phObj).l.id (dieOf sPhL t.lcore) (.canvas t.id) 16 16 false = some k)
    ∧ (Issues s0 0 x00 ∧ groupAct x00 = 0) :=
  have hL : Issues sPhL 7 (xPh phObj) := issues_of sPhL lH (wPh phObj) gPh tI 7 rfl rfl rfl rfl rfl rfl
  ⟨fun p hp => ⟨issuesPh p, cutsPlain (issuesPh p) rfl, readyPh p hp, phReads p hp, phAt p hp⟩, by decide +kernel, by rfl, ⟨by decide, fun _ => rfl, ⟨rfl, fun h => absurd h (by decide)⟩⟩,
    ⟨by decide, fun _ => rfl, ⟨rfl, fun h => absurd h (by decide)⟩⟩,
    ⟨hL, cutsPlain hL rfl, _, _, by rfl, by rfl⟩, issues00, by decide⟩

/-- PHARR with one pending ends generation 3; the next has two pending. PHQRY of the generation gives 3. -/
theorem test_phaser : nextDo (exec (.pharr (fY (lit 16) 0)) (sPh phObj)) (fun t => phRead t 2 16 == { phObj with gen := 4, pend := 2 }) = true
    ∧ nextDo (exec (.phqry (fY (lit 16) 0)) (sPh phObj)) (fun t => grp0 t (fun g => (getS g 5).val == 3)) = true
    ∧ nextDo (exec (.phwt (fY (lit 16) 1)) (sPh phObj)) (fun t => grp0 t (fun g => g.quads.all (fun q => q.park == .phwt 2 16 3))) = true
    ∧ nextDo (exec (.phini (fY (lit 16) 3)) (sPh phObj)) (fun t => phRead t 2 16 == { phObj with gen := 0, nsig := 1, nwait := 0, pend := 1 }) = true := by decide +kernel

/-- Two groups, of which the second has arrived nowhere; a COOP launch. -/
def lCo : Launch := { tL with lflags := 2 }
def wTwo : Workgroup := { tW with groups := [tG, tG] }
def sTwo : State := { tSt lCo tW tG tI with wgs := [wTwo] }
def xTwo : Ctx := { tX lCo tW tG tI 7 with w := wTwo }
def xCo : Ctx := tX lCo tW tG tI 7
/-- Two workgroups of one team, on dies 0 and `d3` when their arrivals of level `lv` were sent; what the event names is in `x`. -/
def sBar (team : Option Nat) (lv d3 next : Nat) (x : Nat × Nat × Nat) : State :=
  { tSt { lCo with next := next } tW tG tI with
    cur := none, wgs := [{ tW with groups := [tG] }, { tW with id := 3, lin := 1, trank := 1, groups := [tG] }],
    arrivals := [{ launch := 1, team := team, wg := 2, level := lv, dies := [(2, 0), (3, d3)] }, { launch := 1, team := team, wg := 3, level := lv, dies := [(2, 0), (3, d3)] }],
    arg := { EvArg.none with a := 1, b := x.1, c := x.2.1, d := x.2.2 } }
/-- The second has sent none; and the second lies in the save reserve. -/
def sLate : State := { sBar (some 0) 0 0 2 (1, 0, 0) with arrivals := [{ launch := 1, team := some 0, wg := 2, level := 0, dies := [(2, 0), (3, 0)] }] }
def sAway : State := { sBar (some 0) 0 0 2 (1, 0, 0) with wgs := [{ tW with groups := [tG] }, { tW with id := 3, lin := 1, trank := 1, groups := [tG], place := .saved 0 0 }] }
/-- The members of the barrier that the event names, with their dies; and those that have passed its level. -/
def msOf (s : State) : List Workgroup := barMembers s s.arg.a (if s.arg.b = 0 then none else some (s.arg.b - 1))
def diesOf (s : State) : List (Nat × Nat) := barDies s s.arg.a (if s.arg.b = 0 then none else some (s.arg.b - 1))
def dieIn (s : State) (w : Workgroup) : Nat := (assoc? (diesOf s) w.id).getD (dieOf s w.lcore)
/-- A team on one die; one whose arrivals meet at a hub; and one on two dies. -/
def sTeam : State := sBar (some 0) 0 0 2 (1, 0, 0)
def sHub : State := sBar (some 0) 1 1 2 (1, 1, 0)
def sSplit : State := sBar (some 0) 0 1 2 (1, 0, 0)
def passedIn (s : State) (w : Workgroup) : Bool := decide (s.arg.c < arrivalLevel s s.arg.a (if s.arg.b = 0 then none else some (s.arg.b - 1)) w.id)

theorem test_meets_BarrierWords : (Issues sTwo 7 xTwo ∧ groupAct xTwo ≠ 0 ∧ Idles xTwo ∧ Cuts sTwo xTwo sTwo xTwo id ∧ (∀ q, hasQuad xTwo.c.quads q = true → inSplit xTwo.g q = false)
      ∧ ∃ k g, k ≠ xTwo.c.grp ∧ xTwo.w.groups[k]? = some g ∧ ¬(g.barArr = true ∧ arrivalStands g = true) ∧ exitStands xTwo.w k g = false)
    ∧ (let s := tSt lCo tW tG tI
       Issues s 7 xCo ∧ groupAct xCo ≠ 0 ∧ Idles xCo ∧ Cuts s xCo s xCo id ∧ (∀ q, hasQuad xCo.c.quads q = true → inSplit xCo.g q = false)
       ∧ (∀ f : Group → Bool, ∀ k g, k ≠ xCo.c.grp → xCo.w.groups[k]? = some g → (f g = true ∧ arrivalStands g = true) ∨ exitStands xCo.w k g = true) ∧ isCoop xCo.l = true)
    ∧ (Issues s0 0 x00 ∧ groupAct x00 = 0) ∧ (Issues sH 7 xH ∧ groupAct xH ≠ 0 ∧ isCoop xH.l = false ∧ TrapReady xH)
    ∧ ((∃ w ∈ msOf sAway, isSaved w = true)
      ∧ (∀ s ∈ [sTeam, sHub, sSplit, sBar none 0 0 2 (0, 0, 0), sBar none 1 1 2 (0, 1, 0), sBar none 2 1 2 (0, 2, 0), sBar none 2 1 0 (0, 2, 0)],
          msOf s ≠ [] ∧ (∀ w ∈ msOf s, isSaved w = false) ∧ ∀ w ∈ msOf s, passedIn s w = true)
      ∧ ((∀ e ∈ diesOf sTeam, e.2 = 0) ∧ ∃ w ∈ msOf sTeam, dieIn sTeam w = 0)
      ∧ nearestHub ((diesOf sHub).foldl (fun d e => min d e.2) 31) = 0
      ∧ (∃ w ∈ msOf sSplit, dieIn sSplit w = 0) ∧ (∃ e ∈ diesOf sSplit, e.2 ≠ 0)
      ∧ (∃ w ∈ msOf (sBar none 1 1 2 (0, 1, 0)), nearestHub (dieIn (sBar none 1 1 2 (0, 1, 0)) w) = 0)
      ∧ allPlaced (sBar none 2 1 2 (0, 2, 0)) 1 none = true ∧ allPlaced (sBar none 2 1 0 (0, 2, 0)) 1 none = false
      ∧ (∀ w ∈ msOf sLate, isSaved w = false) ∧ (∃ w ∈ msOf sLate, passedIn sLate w = false ∧ dieIn sLate w = 0)) :=
  have hT : Issues sTwo 7 xTwo := ⟨rfl, rfl, rfl, rfl, rfl⟩
  have hC : Issues (tSt lCo tW tG tI) 7 xCo := issues_of (tSt lCo tW tG tI) lCo tW tG tI 7 rfl rfl rfl rfl rfl rfl
  ⟨⟨hT, by decide, fun _ => rfl, cutsPlain hT rfl, fun _ _ => rfl, 1, tG, by decide, rfl, by decide, by decide⟩,
   ⟨hC, by decide, fun _ => rfl, cutsPlain hC rfl, fun _ _ => rfl, fun f k g hk hg => by
      exfalso
      cases k with
      | zero => exact hk rfl
      | succ k => simp [xCo, tX] at hg, by decide⟩,
   ⟨issues00, by decide⟩, ⟨issuesH, by decide, by decide, readyH⟩, by decide +kernel⟩

/-- The only group releases BAR itself; a team on one die is released, and on two dies the arrival goes a level up. -/
theorem test_barrier : nextDo (exec (.bar (fY (vr 0) 0)) s0) (fun t => grp0 t (fun g => !g.barArr && g.barN == 1 && g.quads.all (fun q => q.st == .running))) = true
    ∧ nextDo (exec (.bar (fY (vr 0) 0)) sTwo) (fun t => grp0 t (fun g => g.barArr && g.quads.all (fun q => q.park == .bar))) = true
    ∧ nextDo (exec .barrierCombine (sBar (some 0) 0 0 2 (1, 0, 0))) (fun t => t.arrivals.isEmpty) = true
    ∧ nextDo (exec .barrierCombine (sBar (some 0) 0 1 2 (1, 0, 0))) (fun t => t.arrivals.map (fun a => a.level) == [1, 0]) = true := by decide +kernel

/-- Flag 3 counts one reduction, whose pieces are still on their way. -/
def oOpen : Op := { tOp .red [tAcc 0 0x5000 [5, 0, 0, 0]] with id := 5 }
def gOpen : Group := { tG with ops := [oOpen], f := [(3, 1)] }
def sOpen : State := tSt tL tW gOpen tI
def xOpen : Ctx := tX tL tW gOpen tI 7
theorem issuesOpen : Issues sOpen 7 xOpen := issues_of sOpen tL tW gOpen tI 7 rfl rfl rfl rfl rfl rfl

theorem test_waits : nextDo (exec (.waitf { g := 7, d := 0, a := vr 0, k := 0, imm := 8 }) sOpen) (fun t => grp0 t (fun g => g.quads.all (fun q => q.park == .waitf 8))) = true
    ∧ nextDo (exec (.waitf { g := 7, d := 0, a := vr 0, k := 0, imm := 8 }) s0) (fun t => grp0 t (fun g => g.quads.all (fun q => q.st == .running))) = true
    ∧ nextDo (exec (.jmskSet (fY (lit 0xF0) 0)) s0) (fun t => grp0 t (fun g => getJ g 5 == 0xF0)) = true
    ∧ nextDo (exec (.fence (fY (vr 0) 0x68)) sOpen) (fun t => grp0 t (fun g => g.quads.all (fun q => q.st == .parked))) = true := by decide +kernel

/-- A CHECKED workgroup, its interval open since identifier 1, with one store in its buffer. Its launch has a handler, and records. -/
def tK : Checked :=
  { opened := 0, mark := 1, snap := [tG], snapPoison := false, logPoison := false, stLog := [], accLog := [], buf := [{ id := 3, grp := 0, va := 0x5000, loc := .global 0x5000, bytes := [9, 8], aop := none }],
    rerun := false, cutDue := false }
def lCk : Launch := { lH with lflags := 1 }
def wCk : Workgroup := { tW with chk := some tK }
def dieM : List Die := modifyAt State.reset.dies 0 (fun _ => { tlb := [tlbE] })
def sCk (g : Group) : State := { tSt lCk wCk g tI with dies := dieM }
def xCk (g : Group) : Ctx := tX lCk wCk g tI 7
theorem issuesCk (g : Group) : Issues (sCk g) 7 (xCk g) := issues_of (sCk g) lCk wCk g tI 7 rfl rfl rfl rfl rfl rfl

/-- What the gang sees once its workgroup's buffer has committed. -/
def yCk (g : Group) : Ctx :=
  let w := (findWg (commitBuf (sCk g) 2) 2).getD default
  { xCk g with w := w, g := w.groups.headD g }
theorem cutsCk (g : Group) (h : cutReady (sCk g) (xCk g).w = true) : Cuts (sCk g) (xCk g) (commitBuf (sCk g) 2) (yCk g) (openInterval · 2) :=
  ⟨fun k => absurd k (by simp [xCk, tX, wCk]), fun _ => ⟨h, rfl, rfl⟩, rfl, by rfl, by rfl⟩
theorem readyCk : cutReady (sCk tG) (xCk tG).w = true ∧ cutReady (sCk gB) (xCk gB).w = true := by decide
/-- The gang with the record of four-byte elements, whose word's cut cannot fall: a reduction is on its way. -/
theorem readsCkB (srcs : List Src) (m : LMask) : Reads (xCk gB) srcs m := readsB lCk wCk 7 srcs m
theorem readsCk (srcs : List Src) (m : LMask) : Reads (xCk tG) srcs m := readsG lCk wCk 7 srcs m
theorem readsCkOpen (srcs : List Src) (m : LMask) : Reads (xCk gOpen) srcs m :=
  have h : unsettled gOpen tI.quads = false := by decide
  reads_of (xCk gOpen) (show gOpen.v = [] by decide) (show gOpen.s = [] by decide) h srcs m

def fAt : MemForm := { kind := .atom, byOff := false, canvas := false, scalar := false, ret := true }
theorem memFree_atomic : ∀ f ∈ [fAt, { fAt with canvas := true }], memFreeB (commitBuf (sCk gB) 2) (xCk gB) (fM (cst 4) (cst 1)) f = true
      ∧ (memAccs (commitBuf (sCk gB) 2) (xCk gB) f (fM (cst 4) (cst 1))).all (fun a => a.st == .todo && !isPeer a.loc && !anyBad (locRead (commitBuf (sCk gB) 2) a.loc a.len) && decide (0 < a.len)
          && !stalledAt (commitBuf (sCk gB) 2) 2 a.loc) = true := by decide +kernel

theorem test_meets_IntervalCuts : (Issues s0 7 x0 ∧ groupAct x0 ≠ 0 ∧ x0.w.chk = none)
    ∧ (Issues (sCk tG) 7 (xCk tG) ∧ groupAct (xCk tG) ≠ 0 ∧ (xCk tG).w.chk ≠ none ∧ Idles (xCk tG) ∧ Cuts (sCk tG) (xCk tG) (commitBuf (sCk tG) 2) (yCk tG) (openInterval · 2)
      ∧ (∀ srcs, Reads (xCk tG) srcs (xCk tG).act))
    ∧ (Issues (sCk gOpen) 7 (xCk gOpen) ∧ groupAct (xCk gOpen) ≠ 0 ∧ (xCk gOpen).act ≠ 0 ∧ (xCk gOpen).w.chk ≠ none ∧ cutReady (sCk gOpen) (xCk gOpen).w = false ∧ (2 : Nat) ≤ bitsOf (fY (vr 0) 0x68).k.toNat 7 5
      ∧ (∀ q, hasQuad (xCk gOpen).c.quads q = true → inSplit (xCk gOpen).g q = false) ∧ isCoop { lCk with lflags := 3 } = true ∧ (∀ srcs, Reads (xCk gOpen) srcs (xCk gOpen).act)
      ∧ (∀ fs, flagFull (xCk gOpen).g (flagSel (xCk gOpen).c.clause fs) = false)
      ∧ ∀ b, PhaserReady (xCk gOpen) (fY (lit 16) 3) b)
    ∧ (Issues (sCk gB) 7 (xCk gB) ∧ (xCk gB).act ≠ 0 ∧ (∀ fs, flagFull (xCk gB).g (flagSel (xCk gB).c.clause fs) = false) ∧ (∀ srcs, Reads (xCk gB) srcs (xCk gB).act)
      ∧ Cuts (sCk gB) (xCk gB) (commitBuf (sCk gB) 2) (yCk gB) (openInterval · 2)
      ∧ ∀ f ∈ [fAt, { fAt with canvas := true }], MemFree (commitBuf (sCk gB) 2) (xCk gB) f (fM (cst 4) (cst 1)) ∧ memAccs (commitBuf (sCk gB) 2) (xCk gB) f (fM (cst 4) (cst 1)) ≠ []
        ∧ ∀ a ∈ memAccs (commitBuf (sCk gB) 2) (xCk gB) f (fM (cst 4) (cst 1)), a.st = .todo ∧ isPeer a.loc = false ∧ cleanAt (commitBuf (sCk gB) 2) a ∧ 0 < a.len
          ∧ stalledAt (commitBuf (sCk gB) 2) 2 a.loc = false)
    ∧ (findWg (sCk tG) 2 = some { wCk with groups := [tG] } ∧ wCk.chk = some tK ∧ ∀ e ∈ tK.buf, e.loc = .global 0x5000 ∧ e.bytes = [9, 8] ∧ e.aop = none ∧ anyBad (memRead (sCk tG) 0x5000 2) = false) := by
  refine ⟨⟨issues0, by decide, rfl⟩, ⟨issuesCk _, by decide, by decide, fun h => absurd h (by decide), cutsCk _ readyCk.1, fun _ => readsCk _ _⟩,
    ⟨issuesCk _, by decide, by decide, by decide, by decide, by decide, fun _ _ => rfl, by decide, fun _ => readsCkOpen _ _, by decide,
      fun b => ⟨by decide, fun h => absurd h (by decide), readsCkOpen _ _⟩⟩,
    ⟨issuesCk _, by decide, by decide, fun _ => readsCkB _ _, cutsCk _ readyCk.2, fun f hf => ?_⟩, rfl, rfl, by decide +kernel⟩
  obtain ⟨h, k⟩ := memFree_atomic f hf
  simp only [memFreeB, Bool.and_eq_true, Bool.not_eq_true', Option.isNone_iff_eq_none] at h
  refine ⟨⟨by decide, readsCkB _ _, by decide, h.1.1.1.1, h.1.1.1.2, h.1.1.2, h.1.2, fun hp => absurd hp (by decide)⟩, fun hn => by simp [hn] at h, fun a ha => ?_⟩
  have := List.all_eq_true.mp k a ha
  simp only [Bool.and_eq_true, Bool.not_eq_true', beq_iff_eq, decide_eq_true_eq] at this
  exact ⟨this.1.1.1.1, this.1.1.1.2, this.1.1.2, this.1.2, this.2⟩

/-- At a cut the group's operations are older than the word. -/
theorem test_meets_IntervalCuts_older : (∀ k ∈ (yCk gB).g.ops, k.id < (commitBuf (sCk gB) 2).nextId)
    ∧ (findWg (sCk tG) 2).any (fun w => w.groups.all (fun g => (commitGrp g).ops.all (fun o => g.ops.any (fun k => o.id == k.id)))) = true := by decide +kernel

theorem test_meets_FlagMaskAndFenceWords : Issues s0 7 x0 ∧ groupAct x0 ≠ 0 ∧ flagsClear x0.g x0.c.quads (BitVec.ofNat 12 (8 : Word).toNat) = true
    ∧ (Issues sOpen 7 xOpen ∧ groupAct xOpen ≠ 0 ∧ BitVec.ofNat 12 (8 : Word).toNat ≠ 0 ∧ flagsClear xOpen.g xOpen.c.quads (BitVec.ofNat 12 (8 : Word).toNat) = false)
    ∧ Reads x0 [srcOf 0 (cst 1) 1] x0.act
    ∧ getJ x0.g 5 &&& BitVec.ofNat 16 (readUN s0 x0 (cst 0)) = BitVec.ofNat 16 (readUN s0 x0 (cst 0))
    ∧ getJ x0.g 5 &&& BitVec.ofNat 16 (readUN s0 x0 (cst 1)) ≠ BitVec.ofNat 16 (readUN s0 x0 (cst 1))
    ∧ bitsOf (fY (vr 0) 0x38).k.toNat 7 5 < 2 ∧ x0.w.chk = none ∧ fenceOpen s0 x0.c.wg x0.c.grp (bitsOf 0x68 7 5) (bitsOf 0x68 4 3) s0.nextId = false
    ∧ fenceOpen sOpen xOpen.c.wg xOpen.c.grp (bitsOf 0x68 7 5) (bitsOf 0x68 4 3) sOpen.nextId = true
    ∧ (2 : Nat) ≤ bitsOf (fY (vr 0) 0x68).k.toNat 7 5 ∧ Cuts s0 x0 s0 x0 id ∧ Cuts sOpen xOpen sOpen xOpen id
    ∧ (Issues (sCk tG) 7 (xCk tG) ∧ groupAct (xCk tG) ≠ 0 ∧ Cuts (sCk tG) (xCk tG) (commitBuf (sCk tG) 2) (yCk tG) (openInterval · 2)
      ∧ fenceOpen (commitBuf (sCk tG) 2) 2 0 (bitsOf 0x68 7 5) (bitsOf 0x68 4 3) (commitBuf (sCk tG) 2).nextId = false)
    ∧ (Issues s0 0 x00 ∧ groupAct x00 = 0) :=
  ⟨issues0, by decide, by decide, ⟨issuesOpen, by decide, by decide, by decide⟩, reads0 _ _, by decide, by decide, by decide, rfl, by decide, by decide, by decide,
    cutsPlain issues0 rfl, cutsPlain issuesOpen rfl, ⟨issuesCk _, by decide, cutsCk _ readyCk.1, by decide +kernel⟩, issues00, by decide⟩

/-- In a CHECKED launch a word of three lanes enters the replay queue; one of sixteen too. -/
theorem test_meets_checked_lane : LaneFree (sCk tG) (xCk tG) [] false ∧ entersQueue (xCk tG) false = true :=
  ⟨⟨readsCk _ _, fun _ _ => by decide, fun _ => ⟨_, rfl, by decide⟩⟩, by decide⟩

theorem test_cut : nextDo (exec (.cut (fY (vr 0) 0)) (sCk tG)) (fun t => memBytes t 0x5000 2 == [9, 8] && (match findWg t 2 with | some w => (w.chk.map (fun c => c.buf.length)) == some 0 | none => false)) = true
    ∧ nextDo (exec (.cut (fY (vr 0) 0)) (sCk gOpen)) (fun t => t.mem.isEmpty && grp0 t (fun g => g.quads.all (fun q => q.park == .cut && q.pc == 4))) = true := by decide +kernel

/-! ## The canvas -/

def fC (a b c e : Fld) : FmtC := { g := 7, d := 8, a := a, b := b, c := c, e := e, vw := 0, q := 0, qen := false, fs := false, md := 0 }
/-- Four banks: 0 computes with a VALID tile, 1 is in FILL mode with a VALID tile. -/
def lCb : Launch := { tL with cbanks := 4 }
def bVal : Bank := { bank0 with ts := .valid, tset := 7, tgen := 1, bound := true }
def wCb : Workgroup := { tW with banks := [{ bVal with mode := .compute }, bVal, bank0, bank0] }
def sCb : State := tSt lCb wCb tG tI
def xCb : Ctx := tX lCb wCb tG tI 7
theorem issuesCb : Issues sCb 7 xCb := issues_of sCb lCb wCb tG tI 7 rfl rfl rfl rfl rfl rfl
theorem soleOf (s : State) (x : Ctx) (h : s.wgs = [x.w]) (h2 : x.g.ops = []) : Sole s x := ⟨fun v hv _ => by rw [h] at hv; simpa using hv, h2⟩
theorem canvasFreeCb (srcs : List Src) (fl : Option Nat) (h : fl = none ∨ fl = some 3) : CanvasFree sCb xCb srcs fl := by
  rcases h with rfl | rfl <;> exact ⟨soleOf _ _ rfl rfl, by decide, by decide, readsG lCb wCb 7 _ _, by decide⟩

/-- Stream 0 is open on position 0, with four bytes of metadata. -/
def strm : Stream := { st := .opened, addr := 0, len := 4, limit := 64, cur := 1, pos := 0 }
def gQ : Group := putQ tG 0 strm
def sQ : State := tSt lCb wCb gQ tI
def xQ : Ctx := tX lCb wCb gQ tI 7
theorem issuesQ : Issues sQ 7 xQ := issues_of sQ lCb wCb gQ tI 7 rfl rfl rfl rfl rfl rfl
theorem readsQ (srcs : List Src) (m : LMask) : Reads xQ srcs m :=
  have h : unsettled gQ tI.quads = false := by decide
  reads_of xQ (show gQ.v = [] by decide) (show gQ.s = [] by decide) h srcs m
theorem noHazard (s : State) (x : Ctx) (h : s.locks = []) (t : Workgroup) (o k a : Nat) (wr : Bool) : groupHazard s x t o k a wr = none := by
  simp [groupHazard, lockHit, h]
theorem streamAtQ : ∃ t, StreamAt sQ xQ 0 4 t 0 := ⟨_, by rfl, by decide, rfl, rfl, fun _ _ => noHazard _ _ rfl _ _ _ _ _⟩

theorem test_meets_CanvasWordsQueue : Issues sCb 7 xCb ∧ (∀ srcs fl, fl = none ∨ fl = some 3 → CanvasFree sCb xCb srcs fl) ∧ bankSet sCb xCb (cst 5) = [0, 2] ∧ bankSet sCb xCb (cst 0) = []
    ∧ (readUN sCb xCb (cst 0) = 0 ∧ readUN sCb xCb (cst 1) = 1 ∧ (0 : Nat) ≠ 1 ∧ xCb.w.banks[0]? = some { bVal with mode := .compute } ∧ xCb.w.banks[1]? = some bVal
      ∧ anyCopy xCb [0, 1] = false ∧ bVal.mode = .fill ∧ bVal.ts = .valid)
    ∧ (readUN sCb xCb (cst 3) < xCb.l.cbanks ∧ readUN sCb xCb (lit 96) + readUN sCb xCb (lit 32) ≤ 128 ∧ 0 < readUN sCb xCb (lit 32) ∧ readUN sCb xCb (lit 32) ≤ 32
      ∧ (fC (vr 96) (cst 3) (lit 96) (lit 32)).a.code.toNat + accRegs 10 32 ≤ xCb.l.vcount ∧ (fC (vr 0) (cst 3) (lit 96) (lit 32)).d.toNat + accRegs 10 32 ≤ xCb.l.vcount
      ∧ Reads xCb [srcOf 0 (vr 96) 32] xCb.act ∧ enablesOf xCb.l &&& 16 = 0)
    ∧ (Sole sCb xCb ∧ groupAct xCb ≠ 0 ∧ bankSet sCb xCb (cst 1) ≠ [] ∧ (∀ fs, flagFull xCb.g (flagSel xCb.c.clause fs) = false) ∧ anyCopy xCb (bankSet sCb xCb (cst 1)) = false
      ∧ canvasFull xCb = false ∧ cmmaCheck sCb xCb (fC (cst 1) (vr 0) (cst 0) (vr 0)) (bankSet sCb xCb (cst 1)) = none ∧ (∀ srcs, Reads xCb srcs xCb.act)
      ∧ ¬((getQ xCb.g 0).st = .opened ∧ (getQ xCb.g 0).pos.toNat < readUN sCb xCb (cst 0) + 4))
    ∧ (Issues sQ 7 xQ ∧ Sole sQ xQ ∧ groupAct xQ ≠ 0 ∧ (getQ xQ.g 0).st = .opened ∧ (getQ xQ.g 0).pos.toNat < readUN sQ xQ (cst 0) + 4 ∧ (getQ xQ.g 0).len ≠ 0
      ∧ cmmaCheck sQ xQ (fC (cst 1) (vr 0) (cst 0) (vr 0)) (bankSet sQ xQ (cst 1)) = none ∧ ∃ t, StreamAt sQ xQ (getQ xQ.g 0).addr.toNat (getQ xQ.g 0).len.toNat t 0) :=
  ⟨issuesCb, canvasFreeCb, by decide, by decide, ⟨by decide, by decide, by decide, rfl, rfl, by decide, rfl, rfl⟩,
    ⟨by decide, by decide, by decide, by decide, by decide, by decide, readsG lCb wCb 7 _ _, by decide⟩,
    ⟨soleOf _ _ rfl rfl, by decide, by decide, by decide, by decide, by decide, by rfl, fun _ => readsG lCb wCb 7 _ _, by decide⟩,
    ⟨issuesQ, soleOf _ _ rfl rfl, by decide, by decide, by decide, by decide, by rfl, streamAtQ⟩⟩

/-- The stream lists 0, then gaps 1 and 255: positions 0 and 2 lie below 4, and the next is 2 + 1 + 0x201 = 516, beyond the limit. -/
def wQ : Workgroup := { wCb with win := smPutList [] 0 [0, 1, 255, 1, 2, 0] 0 }
def gQ6 : Group := putQ tG 0 { strm with len := 6 }
theorem test_sparse_words : nextDo (exec (.cmmas (fC (cst 1) (vr 0) (cst 0) (vr 0))) (tSt lCb wQ gQ6 tI)) (fun t => (match findWg t 2 with
      | some w => (w.banks.map (fun b => b.queue)).head? == some [.word 10 [0, 2]] | none => false) && grp0 t (fun g => (getQ g 0).st == .ended && (getQ g 0).cur == 6)) = true
    ∧ nextDo (exec (.cmma (fC (cst 1) (vr 0) (cst 0) (vr 0))) sCb) (fun t => match findWg t 2 with | some w => (w.banks.map (fun b => b.queue)).head? == some [.word 10 [0, 1, 2, 3]] | none => false) = true
    ∧ nextDo (exec (.sopn (fC (cst 0) (lit 64) (cst 6) (vr 0))) (tSt lCb wQ tG tI)) (fun t => grp0 t (fun g => (getQ g 0).st == .opened && (getQ g 0).pos == 0 && (getQ g 0).cur == 1)) = true
    ∧ nextDo (exec (.sadv { fC (cst 1) (vr 0) (vr 0) (vr 0) with d := 0 }) (tSt lCb wQ gQ6 tI)) (fun t => grp0 t (fun g => (getQ g 0).st == .opened && (getQ g 0).pos == 2)) = true
    ∧ nextDo (exec (.sget { fC (vr 0) (vr 0) (vr 0) (vr 0) with md := 2, d := 4 }) sQ) (fun t => grp0 t (fun g => (getS g 4).val == 1)) = true := by decide +kernel

/-- A bank's event: word 20 at the head of bank `k`'s queue, and of bank 1's for CSWP. -/
def tWord (k : CWordKind) (left : List Nat) : CWord :=
  { id := 20, grp := 0, flag := none, kind := k, rows := [{ lane := 3, bytes := List.replicate 128 0x40, scales := [127, 127, 127, 127], vals := [0x3F800000, 0x40000000] }],
    left := left, pc := 4, hdr := 0, next := 8, quads := 0xF, lanes := 0xFFFF }
def bAt (b : Bank) (bl : List Nat) : Bank := { b with queue := [.word 20 bl] }
def wBk (k : CWordKind) (bl : List Nat) : Workgroup := { wCb with banks := [bAt { bVal with mode := .compute } bl, bAt bVal bl], cwords := [tWord k [0, 1]] }
def sBk (k : CWordKind) (bl : List Nat) : State := { tSt lCb (wBk k bl) tG tI with cur := none, arg := { EvArg.none with a := 2, b := 0 } }
theorem atHead (k : CWordKind) (bl : List Nat) : AtHead (sBk k bl) { wBk k bl with groups := [tG] } (bAt { bVal with mode := .compute } bl) (tWord k [0, 1]) bl [] :=
  ⟨rfl, rfl, rfl, rfl, rfl, rfl, rfl, fun e he => absurd he (by simp)⟩

theorem test_meets_BankEntriesPerform : (∀ k, AtHead (sBk k []) { wBk k [] with groups := [tG] } (bAt { bVal with mode := .compute } []) (tWord k [0, 1]) [] [])
    ∧ (∀ k, (tWord k [0, 1]).rows.Pairwise (fun p q => p.lane ≠ q.lane)) ∧ (126 : Nat) + 2 ≤ 128 ∧ (∀ k, ∀ r ∈ (tWord k [0, 1]).rows, r.vals.length = 2)
    ∧ (∀ k, { wBk k [] with groups := [tG] }.groups[(tWord k [0, 1]).grp]? = some tG ∧ findLaunch (sBk k []) (wBk k []).launch = some lCb) ∧ (bAt { bVal with mode := .compute } []).accPoison = []
    ∧ enablesOf lCb = 0
    ∧ (∀ k, (wBk k []).banks[0]? = some (bAt { bVal with mode := .compute } []) ∧ (wBk k []).banks[1]? = some (bAt bVal []))
    ∧ (bAt { bVal with mode := .compute } []).queue.head? = some (.word 20 []) ∧ (bAt bVal []).queue.head? = some (.word 20 [])
    ∧ AtHead (sBk (.cmma 0 false) [3]) { wBk (.cmma 0 false) [3] with groups := [tG] } (bAt { bVal with mode := .compute } [3]) (tWord (.cmma 0 false) [0, 1]) [3] [] :=
  ⟨fun _ => atHead _ _, fun _ => by simp [tWord], by decide, fun _ => by simp [tWord], fun _ => ⟨rfl, rfl⟩, rfl, by decide, fun _ => ⟨rfl, rfl⟩, rfl, rfl, atHead _ _⟩

def bank (t : State) (k : Nat) (f : Bank → Bool) : Bool := match (findWg t 2).bind (fun w => w.banks[k]?) with | some b => f b | none => false
/-- CACC adds 1 and 2 at columns 126 and 127; CSWP exchanges the modes; the tile is zero, so a block adds +0. -/
theorem test_bank_entries : nextDo (exec .bankQueueEntry (sBk (.cacc 126 2) [])) (fun t => bank t 0 (fun b => getAcc b 3 126 == 0x3F800000 && getAcc b 3 127 == 0x40000000 && b.queue.isEmpty)) = true
    ∧ nextDo (exec .bankQueueEntry (sBk (.cswp 0 1 false) [])) (fun t => bank t 0 (fun b => b.mode == .fill) && bank t 1 (fun b => b.mode == .compute && b.queue.isEmpty)) = true
    ∧ nextDo (exec .bankQueueEntry (sBk (.cmode .fill) [])) (fun t => bank t 0 (fun b => b.mode == .fill)) = true := by decide +kernel

/-- A row of 1.0 (MXINT8 0x40) times a column 5 of ones with scales 2^0 gives 32. -/
def bOne : Bank := { bVal with mode := .compute, tile := smPutList (smPutList [] (5 * 128) (List.replicate 32 0x40) 0) (0x4000 + 20) [127] 0 }
theorem test_block_product : blockProduct 0 { lane := 3, bytes := List.replicate 128 0x40, scales := [127, 127, 127, 127], vals := [] } bOne 0 5 = 0x42000000 := by decide +kernel

/-- The header of a weight set of two tiles stands at 0x30000, in frame 0x50000, with its pin word. -/
def hdrBytes (pin : Nat) : List Byte :=
  natToBytes 4 7 ++ natToBytes 4 1 ++ natToBytes 4 pin ++ natToBytes 4 0 ++ natToBytes 2 2 ++ natToBytes 2 1 ++ natToBytes 44 0
def lWt : Launch := { lCb with wtab := [0x30000] }
def wslot (p : Pin) : WSlot := { addr := 0x30000, setid := 7, gen := 1, wfmt := 0, ktiles := 2, ntiles := 1, adapt := false, rank := 0, afmt := 0, pin := p }
def wWt (sl : List (Nat × WSlot)) : Workgroup := { wCb with wslots := sl, banks := [{ bank0 with bound := true }, bVal, bank0, bank0] }
def sWt (sl : List (Nat × WSlot)) (pin : Nat) : State :=
  { tSt lWt (wWt sl) tG tI with
    dies := modifyAt State.reset.dies 0 (fun _ => { tlb := [tlbE] }), mem := smPutList [] 0x50000 (hdrBytes pin ++ natToBytes 8 0x40000 ++ natToBytes 24 0 ++ natToBytes 8 0x48000 ++ natToBytes 4 0 ++ natToBytes 2 1 ++ natToBytes 18 0) 0 }
def xWt (sl : List (Nat × WSlot)) : Ctx := tX lWt (wWt sl) tG tI 7
theorem issuesWt (sl : List (Nat × WSlot)) (p : Nat) : Issues (sWt sl p) 7 (xWt sl) := issues_of (sWt sl p) lWt (wWt sl) tG tI 7 rfl rfl rfl rfl rfl rfl

theorem readHdr (sl : List (Nat × WSlot)) (h : sl = [] ∨ sl = [(0, wslot .none)] ∨ sl = [(0, wslot .pinned)]) : readRec (sWt sl 0) (xWt sl) 0x30000 64 = (.bytes (hdrBytes 0), sWt sl 0) := by
  rcases h with rfl | rfl | rfl <;> rfl

theorem test_meets_WeightSlots : (Issues (sWt [] 0) 7 (xWt []) ∧ Sole (sWt [] 0) (xWt []) ∧ groupAct (xWt []) ≠ 0 ∧ (∀ srcs, Reads (xWt []) srcs (xWt []).act)
      ∧ anyCopy (xWt []) (bankSet (sWt [] 0) (xWt []) (cst 1)) = false ∧ (xWt []).l.wtab[readUN (sWt [] 0) (xWt []) (cst 0)]? = some 0x30000
      ∧ readU (sWt [] 0) (xWt []) (cst 0) 64 false = 0 ∧ (0x30000 : DWord).toNat % 64 = 0 ∧ (0x30000 : DWord).toNat < 2 ^ 57 ∧ (xWt []).w.chk = none
      ∧ readRec (sWt [] 0) (xWt []) 0x30000 64 = (.bytes (hdrBytes 0), sWt [] 0) ∧ whdrBad (hdrBytes 0) = false ∧ slotOfWg (xWt []).w 0 = none
      ∧ canvasFull (xWt []) = false ∧ bankSet (sWt [] 0) (xWt []) (cst 1) ≠ [] ∧ bankSet (sWt [] 0) (xWt []) (cst 0) = [])
    ∧ (∀ p pin, (p = .none ∧ pin = 0) ∨ (p = .none ∧ pin = 0x80000000) ∨ (p = .pinned ∧ pin = 1) →
      Issues (sWt [(0, wslot p)] pin) 7 (xWt [(0, wslot p)]) ∧ Sole (sWt [(0, wslot p)] pin) (xWt [(0, wslot p)]) ∧ groupAct (xWt [(0, wslot p)]) ≠ 0
      ∧ 0 < (xWt [(0, wslot p)]).l.wtab.length ∧ slotOfWg (xWt [(0, wslot p)]).w 0 = some (wslot p)
      ∧ ∃ q s1, translateFor (sWt [(0, wslot p)] pin) (dieOf (sWt [(0, wslot p)] pin) (xWt [(0, wslot p)]).w.lcore) 0 ((wslot p).addr.toNat + 8) true = (some q, s1) ∧ q.peer = none
        ∧ stalledAt s1 2 (.global q.pa) = false ∧ (∀ i, i < 4 → sectorBad (sWt [(0, wslot p)] pin) (q.pa + i) = false) ∧ memNat (sWt [(0, wslot p)] pin) q.pa 4 = pin) :=
  ⟨⟨issuesWt _ _, soleOf _ _ rfl rfl, by decide, fun _ => readsG lWt (wWt []) 7 _ _, by decide, by rfl, by decide, by decide, by decide, rfl, readHdr [] (by simp), by decide, by decide, by decide, by decide, by decide⟩, by
    intro p pin h
    rcases h with ⟨rfl, rfl⟩ | ⟨rfl, rfl⟩ | ⟨rfl, rfl⟩ <;>
      exact ⟨issuesWt _ _, soleOf _ _ rfl rfl, by decide, by decide, by rfl, _, _, by rfl, by rfl, by rfl, fun _ _ => rfl, by decide +kernel⟩⟩

theorem test_weight_slots : nextDo (exec (.cbind (fC (cst 2) (cst 0) (cst 0) (vr 0))) (sWt [] 0)) (fun t => bank t 1 (fun b => b.bound && b.slot == 0)
      && (match findWg t 2 with | some w => slotOfWg w 0 == some (wslot .none) | none => false)) = true
    ∧ nextDo (exec (.cpin (fC (cst 0) (vr 0) (vr 0) (vr 0))) (sWt [(0, wslot .none)] 4)) (fun t => memNat t 0x50008 4 == 5) = true
    ∧ nextDo (exec (.cunp (fC (cst 0) (vr 0) (vr 0) (vr 0))) (sWt [(0, wslot .pinned)] 1)) (fun t => memNat t 0x50008 4 == 0 && bank t 0 (fun b => !b.bound)) = true
    ∧ nextDo (exec (.cstat { fC (vr 0) (cst 0) (vr 0) (vr 0) with d := 4 }) (sWt [] 0)) (fun t => grp0 t (fun g => (getS g 4).val == 0x41000000)) = true := by decide +kernel

theorem test_meets_StreamWords : Issues sCb 7 xCb ∧ groupAct xCb ≠ 0 ∧ (∀ srcs, Reads xCb srcs xCb.act) ∧ readUN sCb xCb (cst 0) = 0
    ∧ ¬((getQ xCb.g 0).st = .opened ∧ (getQ xCb.g 0).pos.toNat < readUN sCb xCb (cst 4))
    ∧ (Issues sQ 7 xQ ∧ groupAct xQ ≠ 0 ∧ (∀ srcs, Reads xQ srcs xQ.act) ∧ readUN sQ xQ (cst 4) = 4 ∧ (∃ t, StreamAt sQ xQ (readUN sQ xQ (cst 0)) (readUN sQ xQ (cst 4)) t 0)
      ∧ (getQ xQ.g 0).st = .opened ∧ (getQ xQ.g 0).pos.toNat < readUN sQ xQ (cst 4) ∧ (getQ xQ.g 0).len ≠ 0 ∧ ∃ t, StreamAt sQ xQ (getQ xQ.g 0).addr.toNat (getQ xQ.g 0).len.toNat t 0) :=
  ⟨issuesCb, by decide, fun _ => readsG lCb wCb 7 _ _, by decide, by decide, issuesQ, by decide, fun _ => readsQ _ _, by decide, streamAtQ, by decide, by decide,
    by decide, streamAtQ⟩

/-! ## Copies -/

/-- A shape of 128 bytes of a row of 4,096, at 0x40000; its record stands at 0x30000. -/
def shapeBytes0 : List Byte :=
  natToBytes 8 (0x40000 + 2 ^ 57) ++ natToBytes 8 (127 + 4 * 2 ^ 40) ++ natToBytes 4 4096 ++ natToBytes 44 0
def sCy : State := { sCb with dies := modifyAt State.reset.dies 0 (fun _ => { tlb := [tlbE] }), mem := smPutList [] 0x50000 shapeBytes0 0 }
theorem issuesCy : Issues sCy 7 xCb := issues_of sCy lCb wCb tG tI 7 rfl rfl rfl rfl rfl rfl
theorem copyFreeCy (w : FmtC) (h : w.fs = false) (srcs : List Src) : CopyFree sCy xCb w srcs 0 :=
  ⟨(soleOf sCy xCb rfl rfl).one, fun _ => rfl, fun o ho => absurd (show o ∈ ([] : List Op) from ho) (by simp), by decide, by rw [h]; decide, readsG lCb wCb 7 _ _⟩
theorem shapeRead0 (c : Fld) (h : c = cst 0 ∨ c = lit 0x01007F80) : ShapeRead sCy xCb (fC (lit 0x30000) (vr 4) c (vr 0)) 0 (shapeOf shapeBytes0) [0] sCy := by
  rcases h with rfl | rfl <;> exact ⟨by decide, by decide, ⟨shapeBytes0, by rfl, by decide, rfl⟩, fun _ => by decide, fun h => absurd h (by decide), cleanG _ _, by decide⟩

theorem readEnts : ∃ es, readEntries (xWt [(0, wslot .none)]) (wslot .none) (whdrOf (hdrBytes 0)).nrepl 1 1 (sWt [(0, wslot .none)] 0) = some (es, sWt [(0, wslot .none)] 0) := ⟨_, by rfl⟩
theorem tileReady0 : TileReady (sWt [(0, wslot .none)] 0) (xWt [(0, wslot .none)]) (fC (cst 1) (cst 0) (cst 1) (vr 0)) 0 [(xWt [(0, wslot .none)]).w] [0] 0 1 (wslot .none) :=
  ⟨by decide, fun t ht => by
      have ht' : t = (xWt [(0, wslot .none)]).w := by simpa using ht
      subst ht'
      exact ⟨by decide, ⟨wslot .none, by rfl, rfl⟩, ⟨_, by rfl, by rfl⟩, fun b hb => by
        have : b = 0 := by simpa using hb
        subst this
        exact ⟨{ bank0 with bound := true }, rfl, rfl, rfl, rfl, rfl⟩⟩,
    by decide, by decide, by decide, by decide⟩
/-- A copy's word in a CHECKED workgroup whose cut cannot fall: a reduction is on its way. -/
theorem copyFreeCk (srcs : List Src) : CopyFree (sCk gOpen) (xCk gOpen) (fC (lit 0x30000) (vr 4) (cst 0) (vr 0)) srcs 0 :=
  ⟨fun v hv _ => List.mem_singleton.mp hv, fun h => absurd h (by decide), by decide, by decide, by decide, readsCkOpen _ _⟩

theorem test_meets_CopiesStand : (Issues sCy 7 xCb ∧ (∀ srcs, CopyFree sCy xCb (fC (lit 0x30000) (vr 4) (cst 0) (vr 0)) srcs 0)
      ∧ ShapeRead sCy xCb (fC (lit 0x30000) (vr 4) (cst 0) (vr 0)) 0 (shapeOf shapeBytes0) [0] sCy ∧ copiesFull sCy 0 = false
      ∧ (∃ t, copyRange sCy (copyCtx xCb (fC (lit 0x30000) (vr 4) (cst 0) (vr 0)) 0) 0 (shapeExtent (shapeOf shapeBytes0)) = some (t, 0))
      ∧ phOk sCy (copyCtx xCb (fC (lit 0x30000) (vr 4) (cst 0) (vr 0)) 0) (fC (lit 0x30000) (vr 4) (cst 0) (vr 0)) = true
      ∧ Cuts sCy xCb sCy xCb id ∧ ∀ wr, LocksFit sCy xCb (fC (lit 0x30000) (vr 4) (cst 0) (vr 0)) 0 (shapeOf shapeBytes0) [0] wr [xCb.w] 0)
    ∧ (Issues (sCk gOpen) 7 (xCk gOpen) ∧ (xCk gOpen).w.chk ≠ none ∧ cutReady (sCk gOpen) (xCk gOpen).w = false
      ∧ ∀ srcs, CopyFree (sCk gOpen) (xCk gOpen) (fC (lit 0x30000) (vr 4) (cst 0) (vr 0)) srcs 0)
    ∧ (ShapeRead sCy xCb (fC (lit 0x30000) (vr 4) (lit 0x01007F80) (vr 0)) 0 (shapeOf shapeBytes0) [0] sCy
      ∧ boffOk (copyCtx xCb (fC (lit 0x30000) (vr 4) (lit 0x01007F80) (vr 0)) 0) 0x7F80 128 = true ∧ shapeExtent (shapeOf shapeBytes0) = 128
      ∧ (cpymRecv sCy (copyCtx xCb (fC (lit 0x30000) (vr 4) (lit 0x01007F80) (vr 0)) 0) 0x01007F80).map (fun t => (t.id, wgEnded t)) = [(2, false)])
    ∧ (readN sCy xCb (lit 16) 0 = 16 ∧ (∃ t, copyRange sCy (copyCtx xCb (fC (cst 0) (lit 16) (lit 256) (vr 0)) 0) (readN sCy xCb (cst 0) 0) 16 = some (t, 0))
      ∧ boffOk (copyCtx xCb (fC (cst 0) (lit 16) (lit 256) (vr 0)) 0) 256 16 = true ∧ (0 : Int) < (gridSize xCb.l : Int)
      ∧ sCy.wgs.find? (fun v => v.launch == xCb.l.id && v.lin == 0) = some { wCb with groups := [tG] }
      ∧ lockRoom sCy [mkLock sCy 0 false (.canvas 2) 0 15 1 10, mkLock sCy 0 true (.canvas 2) 256 271 1 10] = true)
    ∧ (Issues (sWt [(0, wslot .none)] 0) 7 (xWt [(0, wslot .none)]) ∧ CopyFree (sWt [(0, wslot .none)] 0) (xWt [(0, wslot .none)]) (fC (cst 1) (cst 0) (cst 1) (vr 0)) [] 0
      ∧ (List.range lWt.cbanks).filter (fun b => bitOf (readInt (sWt [(0, wslot .none)] 0) (xWt [(0, wslot .none)]) (cst 1) 64 false 0) b) = [0]
      ∧ slotOfWg (xWt [(0, wslot .none)]).w 0 = some (wslot .none) ∧ readRec (sWt [(0, wslot .none)] 0) (xWt [(0, wslot .none)]) 0x30000 64 = (.bytes (hdrBytes 0), sWt [(0, wslot .none)] 0)
      ∧ (∃ es, readEntries (xWt [(0, wslot .none)]) (wslot .none) (whdrOf (hdrBytes 0)).nrepl 1 1 (sWt [(0, wslot .none)] 0) = some (es, sWt [(0, wslot .none)] 0))
      ∧ TileReady (sWt [(0, wslot .none)] 0) (xWt [(0, wslot .none)]) (fC (cst 1) (cst 0) (cst 1) (vr 0)) 0 [(xWt [(0, wslot .none)]).w] [0] 0 1 (wslot .none)
      ∧ cpymRecv (sWt [(0, wslot .none)] 0) (copyCtx (xWt [(0, wslot .none)]) (fC (cst 1) (cst 0) (lit 0x01000001) (vr 0)) 0) 0x01000001 = [(xWt [(0, wslot .none)]).w]
      ∧ (0x01000001 : Nat) % 2 ^ 24 = 1) :=
  ⟨⟨issuesCy, fun _ => copyFreeCy _ rfl _, shapeRead0 _ (by simp), by decide, ⟨_, by rfl⟩, by decide, cutsPlain issuesCy rfl, fun wr => by cases wr <;> (unfold LocksFit; decide)⟩,
    ⟨issuesCk _, by decide, by decide, copyFreeCk⟩, ⟨shapeRead0 _ (by simp), by decide, by decide, by decide⟩,
    ⟨by decide, ⟨_, by rfl⟩, by decide, by decide, by rfl, by decide⟩,
    ⟨issuesWt _ _, ⟨(soleOf _ _ rfl rfl).one, fun _ => rfl, fun o ho => absurd (show o ∈ ([] : List Op) from ho) (by simp), by decide, by decide, readsG lWt (wWt [(0, wslot .none)]) 7 _ _⟩, by decide, by rfl, readHdr _ (by simp), readEnts, tileReady0, by rfl, by decide⟩⟩

/-- CPYC with a phaser at byte 64, whose OUTB has room. -/
def wPhC : FmtC := { fC (lit 0x30000) (vr 4) (cst 0) (lit 64) with md := 1 }
theorem test_meets_CopiesStand_phaser : wPhC.md.getLsbD 0 = true ∧ phOk sCy (copyCtx xCb wPhC 0) wPhC = true ∧ (phRead sCy xCb.c.wg (readN sCy xCb wPhC.e 0)).outb ≠ 65535
    ∧ readN sCy xCb wPhC.e 0 = 64 ∧ wgEnded xCb.w = false ∧ LocksFit sCy xCb wPhC 0 (shapeOf shapeBytes0) [0] true [xCb.w] 0
    ∧ CopyFree sCy xCb wPhC [srcOf 0 wPhC.a 2, srcOf 2 wPhC.c 1] 0 :=
  ⟨by decide, by decide, by decide, by decide, by decide, by unfold LocksFit; decide, copyFreeCy _ rfl _⟩
theorem test_cpyc_counts : nextDo (exec (.cpyc wPhC) sCy) (fun t => (phRead t 2 64).outb == 1 && t.copies.map (fun c => c.ph) == [some 64]) = true := by decide +kernel

theorem test_copies_issue : nextDo (exec (.cpy (fC (lit 0x30000) (vr 4) (cst 0) (vr 0))) sCy) (fun t => t.copies.map (fun c => (c.total, c.boff)) == [(128, 0)] && t.locks.length == 2) = true
    ∧ nextDo (exec (.cpyw (fC (cst 1) (cst 0) (cst 1) (vr 0))) (sWt [(0, wslot .none)] 0)) (fun t => t.copies.map (fun c => c.tiles) == [[(0, [0x48000], 0, 1, 0)]] && bank t 0 (fun b => b.ts == .loading)) = true := by
  decide +kernel

/-- A copy of 16 bytes from memory at 0x30100 into the canvas at 64, begun or not. -/
def tCp (kind : CopyKind) (started : Bool) (moved : Nat) : Copy :=
  { id := 20, kind := kind, launch := 1, part := 0, wg := 2, grp := 0, flag := some 3, ph := none, pc := 4, next := 8, quads := 0xF, lane := 0, die := 0,
    shape := { base := 0x30100, ndim := 1, swz := 0, box := [15], fmt := 4, fillNan := false, size := [64], stride := [0] }, coord := [0], src := (2, 64), boff := 64,
    recv := if kind = .cpyc then [] else [2], total := 16, moved := moved, started := started, snap := [], tiles := [], slotSet := 7, slotGen := 1, wfmt := 0, attempt := 0, refused := [],
    waitPage := none, after := 10, told := [] }
def sCp (c : Copy) (tlb : List TlbEntry) : State :=
  { tSt lCb wCb { tG with f := [(3, 1)] } tI with
    cur := none, clk := 200000, copies := [c], dies := modifyAt State.reset.dies 0 (fun _ => { tlb := tlb }), mem := [(0x50100, 0xAA)], arg := { EvArg.none with a := 20, b := 1 } }
/-- A tile being read for bank 1: its first address, and one more where `more`. -/
def tTl (more : List Nat) (n : Nat) (crc : Word) : Copy :=
  { tCp .cpyw true n with tiles := [(1, 0x30000 :: more, crc, 0, 0)], snap := [0x31, 0x32, 0x33, 0x34, 0x35, 0x36, 0x37, 0x38, 0x39].map (fun b => (b, false)) }

theorem onlyCopy (c : Copy) (tlb : List TlbEntry) : ∀ k ∈ (sCp c tlb).copies, k.id = c.id → k = c := fun _ hk _ => List.mem_singleton.mp hk

/-- A tile of 16,896 bytes from frame 0x50000 on. -/
def cTl : Copy := tTl [] 9 0
theorem noYieldCp (c : Copy) (tlb : List TlbEntry) : NoYield (sCp c tlb) := fun k hk => absurd (show k ∈ ([] : List Call) from hk) (by simp)

theorem test_meets_CopiesMove : (∀ c tlb, c.id = 20 → findCopy (sCp c tlb) (sCp c tlb).arg.a = some c ∧ ∀ k ∈ (sCp c tlb).copies, k.id = c.id → k = c)
    ∧ ((tCp .cpy false 0).started = false ∧ lockWaits (sCp (tCp .cpy false 0) []) 20 = false ∧ copyOverlaps (tCp .cpy false 0) = false ∧ channelsFull (sCp (tCp .cpy false 0) []) 0 = false
      ∧ ∀ g, findGrp (sCp (tCp .cpy false 0) []) 2 0 = some g → ∀ o ∈ g.ops, (10 : Nat) ≤ o.id)
    ∧ (∀ c tlb, NoYield (sCp c tlb))
    ∧ (pieceLen (tCp .cpy true 0) = 16 ∧ copyOverlaps (tCp .cpy true 0) = false ∧ (sCp (tCp .cpy true 0) [tlbE]).arg.b = 1 ∧ (findWg (sCp (tCp .cpy true 0) [tlbE]) 2).isSome = true
      ∧ ∃ ys s1, sourceRun (tCp .cpy true 0) 16 [] 0 (sCp (tCp .cpy true 0) [tlbE]) = some (ys, s1) ∧ ys[0]? = some (0xAA, false))
    ∧ (∃ y b s1, copyRead (sCp cTl [tlbE]) cTl 0 (0x30000 + 9) = (.data y b, s1) ∧ tileAddr cTl = some 0x30000 ∧ cTl.moved < tileBytes 0)
    ∧ (∃ s1, copySource (sCp (tCp .cpy true 0) []) (tCp .cpy true 0) 0 0 = (.fault 0x30100, s1))
    ∧ (∃ ys s1 ws s2, sourceRun (tCp .cpyc true 0) (pieceLen (tCp .cpyc true 0)) [] 0 (sCp (tCp .cpyc true 0) [tlbE]) = some (ys, s1) ∧ boxRun (tCp .cpyc true 0) ys 0 s1 = some (ws, s2)
      ∧ ws.map Prod.fst = (List.range 16).map (0x50100 + ·))
    ∧ (copyOver (tCp .cpy true 16) = true ∧ ¬((tCp .cpy true 16).kind = .cpyc ∧ (tCp .cpy true 16).ph ≠ none)) :=
  ⟨fun c tlb h => ⟨by simp [findCopy, sCp, h], onlyCopy c tlb⟩, ⟨rfl, by decide, by decide, by decide, fun g hg o ho => by
      have e : findGrp (sCp (tCp .cpy false 0) []) 2 0 = some { tG with f := [(3, 1)] } := rfl
      rw [e] at hg
      injection hg with hg
      subst hg
      have e2 : { tG with f := [(3, 1)] }.ops = [] := rfl
      rw [e2] at ho
      exact absurd ho (by simp)⟩,
    noYieldCp, ⟨by decide, by decide, rfl, by rfl, _, _, by rfl, by rfl⟩, ⟨_, _, _, by rfl, by rfl, by decide⟩, ⟨_, by rfl⟩,
    ⟨_, _, _, _, by rfl, by rfl, by decide⟩, by decide, by decide⟩

theorem test_meets_CopiesMove_tiles : (∀ more n crc, isTileCopy (tTl more n crc) = true ∧ (tTl more n crc).started = true ∧ (tTl more n crc).ph = none ∧ (tTl more n crc).recv.Nodup
      ∧ (tTl more n crc).tiles = [(1, 0x30000 :: more, crc, 0, 0)])
    ∧ (tileBytes 0 ≤ (tTl [] 16896 0xE3069283).moved ∧ anyBad (tTl [] 16896 0xE3069283).snap = false ∧ crc32c ((tTl [] 16896 0xE3069283).snap.map Prod.fst) = (0xE3069283 : Word).toNat)
    ∧ (tileBytes 0 ≤ (tTl [] 16896 0).moved ∧ ¬crc32c ((tTl [] 16896 0).snap.map Prod.fst) = (0 : Word).toNat)
    ∧ (tTl [0x48000] 16895 0).moved < tileBytes 0 ∧ 175000 < now (sCp (tTl [0x48000] 16895 0) []) - (tTl [0x48000] 16895 0).attempt :=
  ⟨fun _ _ _ => ⟨rfl, rfl, rfl, by simp [tTl, tCp], rfl⟩, by decide +kernel, by decide +kernel, by decide, by decide⟩

/-- The CRC-32C of "123456789" is 0xE3069283, as the polynomial's definition gives. -/
theorem test_crc : crc32c [0x31, 0x32, 0x33, 0x34, 0x35, 0x36, 0x37, 0x38, 0x39] = 0xE3069283 := by decide +kernel

/-- A copy that counts its bytes at the phaser at byte 32, whose 16 bytes are the generation's last, with a gang that waits there;
the receiver stands or has ended. -/
def cPh (kind : CopyKind) (moved : Nat) : Copy := { tCp kind true moved with ph := some 32 }
def pIn : Phaser := { gen := 4, nsig := 1, nwait := 0, pend := 0, zhi := 0, outb := 1, zlo := 0, inb := 16 }
def gWt : Group := { tG with f := [(3, 1)], quads := tG.quads.map (fun q => { q with st := .parked, park := .phwt 2 32 4 }) }
def sPhC (c : Copy) (ended : Bool) : State :=
  { sCp c [tlbE] with wgs := [{ wCb with win := smPutList [] 32 (natToBytes 16 (phaserNat pIn)) 0, groups := [{ gWt with ended := ended }] }] }
theorem test_meets_CopiesMove_phaser : (∀ r ∈ (cPh .cpy 0).recv, (findWg (sPhC (cPh .cpy 0) false) r).map wgEnded = some false ∧ (findWg (sPhC (cPh .cpy 0) true) r).map wgEnded = some true)
    ∧ (phRead (sPhC (cPh .cpy 0) false) 2 32 = pIn ∧ pIn.outb < 65535)
    ∧ (∃ ys s1, sourceRun (cPh .cpy 0) 16 [] 0 (sPhC (cPh .cpy 0) false) = some (ys, s1))
    ∧ copyOver (cPh .cpyc 16) = true
    ∧ (tCp .cpyw false 0).started = false ∧ isTileCopy { tTl [] 0 0 with started := false } = true ∧ { tTl [] 0 0 with started := false }.tiles ≠ []
    ∧ ({ tTl [] 16896 0xE3069283 with ph := some 32 } : Copy).recv.Nodup
    ∧ attemptOver (sCp { cTl with attempt := 100000 } [tlbE]) { cTl with attempt := 100000 } = false ∧ attemptOver (sCp cTl [tlbE]) cTl = true
    ∧ (∃ y b s1, copyRead (sCp { cTl with attempt := 100000 } [tlbE]) { cTl with attempt := 100000 } 0 (0x30000 + 9) = (.data y b, s1)) :=
  ⟨by decide, by decide +kernel, ⟨_, _, by rfl⟩, by decide, rfl, rfl, by decide, by decide, by decide, by decide, _, _, _, by rfl⟩
/-- The last piece, or a whole tile, ends the generation and the gang runs on; an ended receiver takes nothing. -/
theorem test_copy_counts : nextDo (exec .copyDelivery (sPhC (cPh .cpy 0) false)) (fun t => winByte t 2 64 == 0xAA && (phRead t 2 32).gen != 4
      && grp0 t (fun g => g.quads.all (fun q => q.st == .running))) = true
    ∧ nextDo (exec .copyDelivery (sPhC (cPh .cpy 0) true)) (fun t => winByte t 2 64 == 0 && phRead t 2 32 == pIn) = true
    ∧ nextDo (exec .copyComplete (sPhC (cPh .cpyc 16) false)) (fun t => t.copies.isEmpty && (phRead t 2 32).outb == 0) = true := by decide +kernel

theorem test_copy_moves : nextDo (exec .copyDelivery (sCp (tCp .cpy true 0) [tlbE])) (fun t => winByte t 2 64 == 0xAA && t.copies.map (fun c => c.moved) == [16]) = true
    ∧ nextDo (exec .copyDelivery (sCp (tCp .cpy true 0) [])) (fun t => t.copies.map (fun c => c.waitPage) == [some 3] && t.faults.map (fun f => f.page) == [3]) = true
    ∧ nextDo (exec .copyComplete (sCp (tCp .cpy true 16) [])) (fun t => t.copies.isEmpty && grp0 t (fun g => getF g 3 == 0)) = true
    ∧ nextDo (exec .tileReadTimeout (sCp (tTl [] 0 0) [])) (fun t => bank t 1 (fun b => b.ts == .invalid && b.fail == .missing)) = true := by decide +kernel

/-! ## Launch, call, cache and error words -/

def part1 : Partition :=
  { block := [], errinj := true, errthr := 3, dies := 1, troot := 0, rsvu := 1, units := 3, nbmap := 1, peers := [{ links := 1, valid := true, part := 0 }], lost := 0, reqs := [], ckpt := none }
def sLa : State := { s0 with parts := [(0, part1)] }
theorem issuesLa : Issues sLa 7 x0 := issues_of sLa tL tW tG tI 7 rfl rfl rfl rfl rfl rfl
/-- Beside the group's launch another one, of TAG 9, stands in the partition. -/
def sTag : State := { sLa with launches := [tL, { tL with id := 5, tag := 9 }] }
theorem issuesTag : Issues sTag 7 x0 := ⟨rfl, by rfl, by rfl, by rfl, rfl⟩
def fYX (a : Fld) (off : Word) : FmtYX := { g := 7, d := 2, a := a, k := 2, imm := off }
def sCall : State := { sM with parts := [(0, part1)] }
theorem issuesCall : Issues sCall 7 xM := issues_of sCall tL tW gB tI 7 rfl rfl rfl rfl rfl rfl
def gSp : Group := { tG with split := some { quads := 0xF, pc := 4, op := 3, flag := none } }
def sSp : State := tSt tL tW gSp tI
def xSp : Ctx := tX tL tW gSp tI 7

theorem test_meets_LaunchAndCallWords : (Issues sLa 7 x0 ∧ groupAct x0 ≠ 0 ∧ GroupActs x0 ∧ Reads x0 [srcOf 0 (lit 64) 2] x0.act ∧ findPart sLa x0.l.part = some part1)
    ∧ (Reads x0 [srcOf 0 (cst 9) 1] x0.act ∧ tagHolder sLa x0.l.part (readUN sLa x0 (cst 9)) = none ∧ Issues sTag 7 x0
      ∧ (tagHolder sTag x0.l.part (readUN sTag x0 (cst 9))).map (fun k => k.id) = some 5 ∧ (5 : Nat) ≠ x0.l.id)
    ∧ (Issues sCall 7 xM ∧ groupAct xM ≠ 0 ∧ Reads xM [srcOf 0 (cst 0) 1] xM.act ∧ xM.w.chk = none
      ∧ mcallTrap sCall xM (fYX (cst 0) 64) = none ∧ mcallTrap sCall xM (fYX (cst 0) 0xFFFFFFFF) = none ∧ heldByFault xM.g = false
      ∧ findWg sCall xM.c.wg = some xM.w ∧ xM.w.groups[xM.c.grp]? = some xM.g)
    ∧ (Issues (sCk gOpen) 7 (xCk gOpen) ∧ groupAct (xCk gOpen) ≠ 0 ∧ Reads (xCk gOpen) [srcOf 0 (cst 0) 1] (xCk gOpen).act ∧ (xCk gOpen).w.chk ≠ none
      ∧ cutReady (sCk gOpen) (xCk gOpen).w = false)
    ∧ (Issues (sCk gB) 7 (xCk gB) ∧ groupAct (xCk gB) ≠ 0 ∧ Reads (xCk gB) [srcOf 0 (cst 0) 1] (xCk gB).act ∧ (xCk gB).w.chk ≠ none ∧ cutReady (sCk gB) (xCk gB).w = true
      ∧ heldByFault (xCk gB).g = false ∧ mcallTrap (openInterval (commitBuf (sCk gB) 2) 2) (xCk gB) (fYX (cst 0) 64) = none
      ∧ ∃ v y, findWg (openInterval (commitBuf (sCk gB) 2) 2) 2 = some v ∧ v.groups[0]? = some y)
    ∧ (∀ q, hasQuad x0.c.quads q = true → inSplit x0.g q = false) ∧ (Issues sSp 7 xSp ∧ ∃ q, q < 4 ∧ hasQuad xSp.c.quads q = true ∧ inSplit xSp.g q = true) :=
  ⟨⟨issuesLa, by decide, ⟨by decide, rfl, rfl⟩, reads0 _ _, rfl⟩, ⟨reads0 _ _, by decide +kernel, issuesTag, by decide +kernel, by decide⟩,
    ⟨issuesCall, by decide, readsB tL tW 7 _ _, rfl, by decide +kernel, by decide +kernel, by decide, rfl, rfl⟩,
    ⟨issuesCk _, by decide, readsCkOpen _ _, by decide, by decide⟩,
    ⟨issuesCk _, by decide, readsCkB _ _, by decide, readyCk.2, by decide, by decide +kernel, _, _, by rfl, by rfl⟩, fun _ _ => rfl,
    issues_of sSp tL tW gSp tI 7 rfl rfl rfl rfl rfl rfl, 1, by decide, by decide, by decide⟩

theorem test_launch_and_call : nextDo (exec (.launch (fY (lit 64) 0)) sLa) (fun t => (findPart t 0).map (fun p => p.reqs.map (fun r => r.addr)) == some [64]
      && grp0 t (fun g => g.quads.all (fun q => q.park == .launchAnswer))) = true
    ∧ nextDo (exec (.lwait (fY (cst 9) 0)) sTag) (fun t => grp0 t (fun g => g.quads.all (fun q => q.st == .parked && q.park == .lwait 5 4))) = true
    ∧ after sLa (.qloc (fY (cst 0) 3)) (fun g => (getS g 5).val.toNat) = 0 ∧ after sLa (.qloc (fY (cst 1) 0)) (fun g => (getS g 5).val.toNat) = 0xFFFFFFFF
    ∧ after sLa (.qlep (fY (cst 0) 0)) (fun g => (getS g 5).val.toNat) = 0
    ∧ nextDo (exec (.mcall (fYX (cst 0) 64)) sCall) (fun t => t.calls.length == 16 && t.calls.all (fun c => c.off == 64 && c.j == 2 && c.st == .accepting)) = true
    ∧ after sCall (.mcall (fYX (cst 0) 32)) (fun g => (getJ g 2).toNat) = 0xFFFF
    ∧ after sLa (.qspr (fY (cst 12) 0)) (fun g => (getS g 5).val.toNat) = 0xFFFFFFFF
    ∧ nextDo (exec (.rjn (fY (vr 0) 0)) sSp) (fun t => grp0 t (fun g => !g.split.isSome || g.quads.all (fun q => q.st == .holdRjn))) = true := by decide +kernel

theorem test_meets_CacheAndErrorWords : (Issues s0 7 x0 ∧ groupAct x0 ≠ 0 ∧ x0.g.ops = [] ∧ injects s0 x0.l = false) ∧ (Issues sLa 7 x0 ∧ injects sLa x0.l = true)
    ∧ (Reads x0 [srcOf 0 (lit 64) 1] x0.act ∧ (∃ v, canvasAt sLa x0.l x0.w (readUN sLa x0 (lit 64)) 4 = some (v, 64) ∧ findWg sLa v.id = some v)
      ∧ readUN sLa x0 (cst 0) < x0.l.cbanks ∧ ∃ b, x0.w.banks[readUN sLa x0 (cst 0)]? = some b) :=
  ⟨⟨issues0, by decide, rfl, by decide +kernel⟩, ⟨issuesLa, by decide +kernel⟩, reads0 _ _, ⟨_, by rfl, by rfl⟩, by decide +kernel, _, by rfl⟩

def sIc : State := { sLa with cores := modifyAt sLa.cores 0 (fun k => { k with icache := [(1, 0, 7), (8, 0, 9)] }) }
theorem test_cache_and_errors : nextDo (exec (.icinvCore (fY (vr 0) 0)) sIc) (fun t => (t.cores.map (fun k => k.icache)).headD [] == [(8, 0, 9)]) = true
    ∧ nextDo (exec (.icinvLaunch (fY (vr 0) 0)) sIc) (fun t => (t.cores.map (fun k => k.icache)).headD [] == [(8, 0, 9)]) = true
    ∧ nextDo (exec (.erriRegc (fY (vr 0) 0)) sLa) (fun t => monCount t 0 == 1) = true ∧ nextDo (exec (.erriRegc (fY (vr 0) 0)) s0) (fun t => monCount t 0 == 0) = true
    ∧ nextDo (exec (.erriRegu (fY (vr 3) 1)) sLa) (fun t => monCount t 0 == 1) = true
    ∧ nextDo (exec (.erriCvu (fY (lit 64) 3)) sLa) (fun t => (findWg t 2).map (fun w => (winBad w 63, winBad w 64, winBad w 71, winBad w 72)) == some (false, true, true, false)) = true
    ∧ nextDo (exec (.erriCvc (fY (lit 65) 2)) sH) (fun t => monCount t 0 == 0) = true
    ∧ nextDo (exec (.erriRes (fY (cst 0) 4)) sLa) (fun t => bank t 0 (fun b => smGet b.resBad 0 false)) = true
    ∧ after sLa (.erriClone (fY (vr 0) 5)) (fun g => g.cloneBad.toNat) = 0 := by decide +kernel

/-! ## Launches and workgroups -/

def sMsg (boot : Boot) (parts : List (Nat × Partition)) (b : List Byte) : State :=
  { State.reset with boot := boot, parts := parts, arg := { EvArg.none with msg := { cls := 1, bytes := b } } }
def lmsg (part f : Nat) : List Byte := [0x21] ++ natToBytes 1 part ++ natToBytes 2 77 ++ natToBytes 4 f ++ natToBytes 8 0x30000 ++ natToBytes 16 0
/-- A launch record at 0x30000 of the image at 0x30100: TAG 9, two workgroups of 16 threads. -/
def recL (cvb : Nat) (cb bc : Nat) : List Byte :=
  natToBytes 8 0x30100 ++ natToBytes 4 9 ++ natToBytes 4 0 ++ natToBytes 4 2 ++ natToBytes 2 1 ++ natToBytes 2 1 ++ natToBytes 2 16 ++ natToBytes 2 1 ++ natToBytes 4 cvb
    ++ natToBytes 4 cb ++ natToBytes 4 0xFFFFFFFF ++ natToBytes 8 0 ++ natToBytes 8 bc ++ natToBytes 64 0 ++ natToBytes 8 0
def img0 (magic : Nat) : List Byte :=
  natToBytes 4 magic ++ natToBytes 4 1 ++ natToBytes 4 0x100 ++ natToBytes 4 8 ++ natToBytes 4 0 ++ natToBytes 4 16 ++ natToBytes 40 0
def req0 (addr : DWord) : Request := { via := .message 77 1, addr := addr, refused := [], waitPage := none, got := [] }
def sAcc (addr : DWord) : State :=
  { sMsg .ready [(0, { part1 with reqs := [req0 addr] })] [] with
    dies := modifyAt State.reset.dies 0 (fun _ => { tlb := [tlbE] }), mem := smPutList (smPutList [] 0x50000 (recL 64 0 0) 0) 0x50100 (img0 0x4B564E4F) 0 }

/-- Acceptance takes a launch. -/
def took (r : LuRes) : Bool := match r with | .answer _ 0 _ (some _) => true | _ => false
theorem of_took (r : LuRes) (h : took r = true) : ∃ s1 tag l, r = .answer s1 0 tag (some l) := by
  unfold took at h
  split at h
  · exact ⟨_, _, _, rfl⟩
  · cases h

theorem test_meets_LaunchesAreAccepted : ((lmsg 0 0).length = 32 ∧ fieldAt (lmsg 0 0) 0 1 = 0x21 ∧ findPart (sMsg .ready [] (lmsg 0 0)) 0 = none
      ∧ findPart (sMsg .ready [(0, part1)] (lmsg 0 0)) (fieldAt (lmsg 0 0) 1 1) = some part1 ∧ fieldAt (lmsg 0 1) 4 4 ≠ 0 ∧ fieldAt (lmsg 0 0) 4 4 = 0 ∧ fieldAt (lmsg 0 0) 0x10 16 = 0)
    ∧ (findPart (sAcc 0x30000) (sAcc 0x30000).arg.a = some { part1 with reqs := [req0 0x30000] } ∧ (0x30020 : DWord).toNat % 64 ≠ 0
      ∧ ∃ s1 tag l, luGo (sAcc 0x30000) (sAcc 0x30000).arg.a (req0 0x30000) = .answer s1 0 tag (some l))
    ∧ (imageBad 0x30100 (img0 1) = true ∧ imageBad 0x30100 (img0 0x4B564E4F) = false ∧ launchBad State.reset 0 (recL 65 0 0) (imgOf (img0 0x4B564E4F)) = true
      ∧ launchBad State.reset 0 (recL 64 0 0) (imgOf (img0 0x4B564E4F)) = false ∧ launchBad State.reset 0 (recL 64 0 1) (imgOf (img0 0x4B564E4F)) = false
      ∧ (launchOf State.reset 0 (recL 64 0 1) (imgOf (img0 0x4B564E4F)) (natToBytes 16 (2 ^ 127)) []).recs.any recBad = true
      ∧ launchBad State.reset 0 (recL 2097152 1 0) (imgOf (img0 0x4B564E4F)) = false ∧ coreFit (launchOf State.reset 0 (recL 2097152 1 0) (imgOf (img0 0x4B564E4F)) [] []) = 0)
    ∧ (let l := launchOf State.reset 0 (recL 64 0 0) (imgOf (img0 0x4B564E4F)) [] []
       l.recs.any recBad = false ∧ coreFit l ≠ 0 ∧ depTags (recL 64 0 0) = [] ∧ isEarly l = false ∧ isCoop l = false
       ∧ 64 ≤ (((List.range 64).map (fun i => { l with tag := BitVec.ofNat 32 (100 + i) })).filter (fun k => k.part == 0 && classOf k == classOf l && k.st != .done)).length) :=
  ⟨by decide +kernel, ⟨by rfl, by decide, of_took _ (by decide +kernel)⟩, by decide +kernel, by decide +kernel⟩

theorem test_launch_accept : nextDo (exec .launchMessage (sMsg .ready [(0, part1)] (lmsg 0 0))) (fun t => (findPart t 0).map (fun p => p.reqs.map (fun r => r.addr)) == some [0x30000]) = true
    ∧ nextDo (exec .launchMessage (sMsg .config [] (lmsg 0 0))) (fun t => t.outbox.map (fun m => (m.cls.toNat, m.bytes)) == [(1, [0x22, 0, 77, 0, 7, 0, 0, 0, 0, 0, 0, 0, 0, 0, 0, 0])]) = true
    ∧ nextDo (exec .launchAccept (sAcc 0x30000)) (fun t => t.launches.map (fun l => (l.tag.toNat, l.gridx, l.vcount)) == [(9, 2, 16)]
      && t.outbox.map (fun m => m.bytes) == [[0x22, 0, 77, 0, 0, 0, 0, 0, 9, 0, 0, 0, 0, 0, 0, 0]]) = true
    ∧ nextDo (exec .launchAccept (sAcc 0x30020)) (fun t => t.launches.isEmpty && (t.outbox.map (fun m => m.bytes.getD 4 0)) == [1]) = true := by decide +kernel

def lNew : Launch := { tL with st := .queued, next := 0, gridx := 2, threads := 20, palettes := [(0, [])], retired := 0 }
def sNew : State := { State.reset with launches := [lNew], parts := [(0, part1)], nextId := 10, boot := .ready, arg := { EvArg.none with a := 1, b := 0 } }

theorem test_meets_WorkgroupsStart : findLaunch sNew sNew.arg.a = some lNew ∧ (∀ k ∈ sNew.launches, k.id = lNew.id → k = lNew) ∧ (∀ w ∈ sNew.wgs, w.id < sNew.nextId)
    ∧ eligible sNew lNew = true ∧ lNew.waitPage = none ∧ outWgs sNew lNew.id = [] ∧ lNew.next < gridSize lNew ∧ planStep sNew lNew sNew.arg.b (stepSizes lNew) = some [0]
    ∧ mayTake sNew lNew [0] = true ∧ (∀ c ∈ [0], (assoc? lNew.palettes (physCore sNew c)).isSome = true) := by decide +kernel

/-- A core without the launch's palette copy reads it first, at 0x30000; the page is there, or not. -/
def lPf : Launch := { lNew with palettes := [], kimg := 0x30000, paloff := 0, pallen := 4 }
def sPf (tlb : List TlbEntry) : State := { sNew with launches := [lPf], dies := modifyAt State.reset.dies 0 (fun _ => { tlb := tlb }), mem := [(0x50000, 0xAA)] }
theorem test_meets_WorkgroupsStart_palette : (∀ tlb, findLaunch (sPf tlb) (sPf tlb).arg.a = some lPf ∧ ∀ k ∈ (sPf tlb).launches, k.id = lPf.id → k = lPf)
    ∧ (∀ tlb ∈ [[], [tlbE]], eligible (sPf tlb) lPf = true ∧ planStep (sPf tlb) lPf (sPf tlb).arg.b (stepSizes lPf) = some [0] ∧ mayTake (sPf tlb) lPf [0] = true)
    ∧ (∀ tlb, ∀ c ∈ [0], physCore (sPf tlb) c = 0) ∧ assoc? lPf.palettes 0 = none
    ∧ (∃ bs s1, unitRead (sPf [tlbE]) lPf.part (0 / 9) (classOf lPf) (palGone lPf 0) true (lPf.kimg.toNat + lPf.paloff) lPf.pallen = (.bytes bs, s1) ∧ bs[0]? = some (0xAA, false))
    ∧ (∃ va s1, unitRead (sPf []) lPf.part (0 / 9) (classOf lPf) (palGone lPf 0) true (lPf.kimg.toNat + lPf.paloff) lPf.pallen = (.fault va, s1)) :=
  ⟨fun _ => ⟨rfl, fun k hk _ => List.mem_singleton.mp hk⟩, by decide +kernel, fun _ c hc => by rw [List.mem_singleton.mp hc]; rfl, rfl, ⟨_, _, by rfl, by decide⟩, _, _, by rfl⟩
theorem test_palette_copied : nextDo (exec .workgroupPlace (sPf [tlbE])) (fun t => t.wgs.length == 1 && t.launches.map (fun l => l.palettes.map (fun e => (e.1, smGet e.2 0 (0, false)))) == [[(0, (0xAA, false))]]) = true
    ∧ nextDo (exec .workgroupPlace (sPf [])) (fun t => t.wgs.isEmpty && t.launches.map (fun l => l.waitPage) == [some 3] && t.faults.length == 1) = true := by decide +kernel

/-- Twenty threads make two groups; the second counts lanes 0 to 3, and only its quad 0 starts. -/
theorem test_workgroup_starts : nextDo (exec .workgroupPlace sNew) (fun t => t.wgs.map (fun w => (w.launch, w.lin, w.groups.map (fun g => (g.counted.toNat, g.quads.map (fun q => q.live.toNat)))))
      == [(1, 0, [(0xFFFF, [15, 15, 15, 15]), (0xF, [15, 0, 0, 0])])] && t.launches.map (fun l => l.next) == [1]) = true := by decide +kernel

/-- A group whose lanes have all ended. -/
def gOut : Group := { tG with quads := tG.quads.map (fun q => { q with run := 0, live := 0, st := .done }) }
def sOut (more : List Group) : State := { tSt tL tW gOut tI with cur := none, wgs := [{ tW with groups := gOut :: more }], arg := { EvArg.none with a := 2, b := 0 } }
def lDone : Launch := { tL with retired := 1, caddr := 0x30000, cval := 0x1122334455667788 }
def sDone : State :=
  { State.reset with launches := [lDone], parts := [(0, part1)], boot := .ready, dies := modifyAt State.reset.dies 0 (fun _ => { tlb := [tlbE] }), arg := { EvArg.none with a := 1 } }

theorem test_meets_GroupsAndLaunchesEnd : (∀ m, m = [tG] ∨ m = [] → findWg (sOut m) (sOut m).arg.a = some { tW with groups := gOut :: m }
      ∧ findLaunch (sOut m) tW.launch = some tL ∧ mayEnd { tW with groups := gOut :: m } (sOut m).arg.b gOut = true)
    ∧ tL.waitPage = none ∧ tW.cwords = [] ∧ tW.wslots = [] ∧ tG.ended = false
    ∧ findLaunch sDone sDone.arg.a = some lDone ∧ allRetired sDone lDone = true ∧ detached sDone lDone = false ∧ lDone.refused = []
    ∧ ∃ p s1, translateFor sDone (unitDie sDone lDone.part) lDone.part lDone.caddr.toNat true = (some p, s1) ∧ p.peer = none ∧ stalledFor s1 (classOf lDone) p.pa = false :=
  ⟨fun m h => by rcases h with rfl | rfl <;> exact ⟨rfl, by rfl, by decide⟩, rfl, rfl, rfl, rfl, by rfl, by decide, by decide, rfl, _, _, by rfl, by rfl, by rfl⟩

/-- The launch has failed while its workgroup stands paused for an evacuation, or not. -/
def sPau (ph : EvacPhase) : State :=
  { sOut [] with launches := [{ tL with fail := some (5, 0) }], evacs := [{ lcore := 0, src := 0, dst := 8, phase := ph }] }
theorem test_meets_GroupsAndLaunchesEnd_paused : (∀ ph, (findLaunch (sPau ph) tW.launch).map (fun l => l.fail.isSome) = some true)
    ∧ evacPaused (sPau .paused) tW.lcore = true ∧ evacPaused (sPau .prepare) tW.lcore = false
    ∧ (∀ w ∈ sDone.wgs, w.launch = lDone.id → w.wslots = []) ∧ yieldRoom sDone (classOf lDone) [0x50000] = true :=
  ⟨fun _ => rfl, by decide, by decide, fun w hw => absurd (show w ∈ ([] : List Workgroup) from hw) (by simp), by decide⟩
theorem test_pause_holds_ends : nextDo (exec .groupEnd (sPau .paused)) (fun t => decide (t = sPau .paused)) = true
    ∧ nextDo (exec .groupEnd (sPau .prepare)) (fun t => t.wgs.map (fun w => w.retired) == [true]) = true := by decide +kernel

theorem test_ends : nextDo (exec .groupEnd (sOut [tG])) (fun t => t.wgs.map (fun w => (w.retired, w.groups.map (fun g => g.ended))) == [(false, [true, false])]) = true
    ∧ nextDo (exec .groupEnd (sOut [])) (fun t => t.wgs.map (fun w => w.retired) == [true] && t.launches.map (fun l => l.retired) == [1]) = true
    ∧ nextDo (exec .launchRetire sDone) (fun t => t.launches.isEmpty && memNat t 0x50000 8 == 0x1122334455667788 && memNat t 0x50008 4 == 0) = true := by decide +kernel

/-! ## The scheduler -/

/-- A clause of one AND word at 0x100 of the code, and the group stands at its header. -/
def hdrAnd : Word := encodeHdr { len := 1, cls := 0, wait := 0, setA := 15, setB := 15, yld := false, nspec := false, rsv := 0 }
def lSc : Launch := { tL with kimg := 0x30000 }
def gSc : Group := { tG with quads := tG.quads.map (fun q => { q with pc := 0x100, clause := none }) }
def sSc : State :=
  { tSt lSc tW gSc tI with
    cur := none, dies := modifyAt State.reset.dies 0 (fun _ => { tlb := [tlbE] }), arg := { EvArg.none with a := 2, b := 0, c := 0 },
    mem := smPutList [] 0x50100 (natToBytes 4 hdrAnd.toNat ++ natToBytes 4 0x358601CF) 0 }
def wNine : Workgroup := { tW with groups := (List.range 9).map (fun i => { tG with active := decide (i < 8), since := i, slot := 0 }) }
def sNine (w : Workgroup) : State := { tSt tL tW tG tI with cur := none, wgs := [w], clk := 1000, arg := { EvArg.none with a := 0, b := 0 } }
def wOne : Workgroup := { tW with groups := [{ tG with active := false, slot := 0 }] }
def sSlp : State := { tSt tL tW { tG with quads := tG.quads.map (fun q => { q with st := .parked, park := .sleep 0 }) } tI with cur := none, arg := { EvArg.none with a := 2, b := 0, c := 1 } }

theorem test_meets_SchedulerEvents : (findWg sSc sSc.arg.a = some { tW with groups := [gSc] } ∧ findLaunch sSc tW.launch = some lSc ∧ gSc.active = true
      ∧ quadReady sSc { tW with groups := [gSc] } gSc 0 = true ∧ fetchPc gSc 0 = some 0x100
      ∧ (∃ s1 ws s2, codeWord sSc { tW with groups := [gSc] } lSc 0x100 = (some hdrAnd, s1) ∧ codeWords s1 { tW with groups := [gSc] } lSc 0x104 (hdrOf hdrAnd).len = ((ws, none), s2)
        ∧ ws = [0x358601CF]) ∧ hdrSub hdrAnd [0x358601CF] = none ∧ ∀ q ∈ gSc.quads, q.replay = none)
    ∧ ((chooseGroup (sNine wOne) 0 0).isSome = true ∧ ((slotGroups (sNine wOne) 0 0).filter (fun e => e.2.2.active)).length < 8)
    ∧ (let all := slotGroups (sNine wNine) 0 0
       let act := all.filter (fun e => e.2.2.active)
       (oldest (all.filter (fun e => !e.2.2.active && groupReady (sNine wNine) e.1 e.2.1 && decide (256 ≤ now (sNine wNine) - e.2.2.since)))).map (fun e => (e.1.id, e.2.1)) = some (2, 8)
       ∧ (oldest act).map (fun e => (e.1.id, e.2.1)) = some (2, 0) ∧ act.length = 8 ∧ act.any (fun e => !groupReady (sNine wNine) e.1 e.2.1) = false)
    ∧ (∃ g, findGrp sSlp sSlp.arg.a sSlp.arg.b = some g ∧ (quadAt g sSlp.arg.c).st = .parked ∧ (quadAt g sSlp.arg.c).park = .sleep 0 ∧ 0 ≤ now sSlp) :=
  ⟨⟨by rfl, by rfl, by rfl, by decide +kernel, by decide, ⟨_, _, _, by rfl, by rfl, by decide +kernel⟩, by decide +kernel, by decide⟩, by decide +kernel, by decide +kernel,
    _, rfl, by rfl, by rfl, Nat.zero_le _⟩

/-- Eight active groups, group 3 of them at a FENCE's hold, and a ready ninth; one with nobody waiting. -/
def wFull : Workgroup := { wNine with groups := (List.range 9).map (fun i =>
  if i == 3 then { tG with active := true, since := i, slot := 0, quads := tG.quads.map (fun q => { q with st := .parked, park := .bar }) }
  else { tG with active := decide (i < 8), since := if i == 8 then 900 else i, slot := 0 }) }
theorem test_meets_SchedulerEvents_exchange : (let s := sNine wFull
      let act := (slotGroups s 0 0).filter (fun e => e.2.2.active)
      (chooseGroup s 0 0).map (fun e => (e.1.id, e.2.1)) = some (2, 8) ∧ 8 ≤ act.length
      ∧ (oldest (act.filter (fun e => !groupReady s e.1 e.2.1))).map (fun e => (e.1.id, e.2.1)) = some (2, 3))
    ∧ (slotGroups (sNine tW) 0 0).filter (fun e => !e.2.2.active && groupReady (sNine tW) e.1 e.2.1) = []
    ∧ ((slotGroups (sNine wFull) 0 0).filter (fun e => !e.2.2.active && groupReady (sNine wFull) e.1 e.2.1)).map (fun e => now (sNine wFull) - e.2.2.since) = [100]
    ∧ ((slotGroups (sNine wNine) 0 0).filter (fun e => !e.2.2.active && groupReady (sNine wNine) e.1 e.2.1)).map (fun e => now (sNine wNine) - e.2.2.since) = [992] := by decide +kernel
theorem test_exchange : nextDo (exec .activeSetExchange (sNine wFull)) (fun t => t.wgs.map (fun w => w.groups.map (fun g => g.active)) == [[true, true, true, false, true, true, true, true, true]]) = true := by
  decide +kernel

theorem test_scheduler : nextDo (exec .clauseFetch sSc) (fun t => grp0 t (fun g => g.quads.all (fun q => q.pc == 0x100 && q.clause.map (fun c => (c.len, c.words)) == some (1, [0x358601CF])))) = true
    ∧ nextDo (exec .activeSetExchange (sNine wOne)) (fun t => grp0 t (fun g => g.active && g.since == 1000)) = true
    ∧ nextDo (exec .schedulerRotate (sNine wNine)) (fun t => t.wgs.map (fun w => w.groups.map (fun g => g.active)) == [[false, true, true, true, true, true, true, true, true]]) = true
    ∧ nextDo (exec .sleepWake sSlp) (fun t => grp0 t (fun g => g.quads.map (fun q => q.st == .running) == [true, true, true, true])) = true := by decide +kernel

/-! ## Frame and rod words -/

def cR : Call := { soleCall 3 1 2 0 with aux := 0x30010, auxlen := 4, auxPa := [(3, .global 0x50000)], dst := 0x30100, dstlen := 32, fp := [1, 32, 0, 0, 0, 0, 0, 0] }
/-- The same, with row 0 of its page open. -/
def cRow : Call := { cR with rods := List.replicate 16 { rod0 with row := some 0 } }
def cSt : Call := { cR with sparse := true, stream := { strm with addr := 0x30000 } }
def cX : Call := { cR with prog := [0x78000000, 0x68000000], nw := 2, aux := 0x30000, auxlen := 16, fp := [32, 0, 0, 0, 0, 0, 0, 0] }
def tlb2 : TlbEntry := { tlbE with leaves := tlbE.leaves ++ [{ idx := 4, frame := 60 * 2 ^ 30, wr := true, span := false, peer := none }] }
/-- Call 3 runs; unit 0 of stack 0 and unit 60 of stack 1 are near-bank. -/
def sR (c : Call) : State :=
  { State.reset with
    calls := [c], curCall := some 3, boot := .ready, parts := [(0, { part1 with nbmap := 1 + 2 ^ 60 })], clk := 1000,
    dies := modifyAt State.reset.dies 0 (fun _ => { tlb := [tlb2] }), arg := { EvArg.none with a := 3, b := 1 },
    mem := smPutList [] 0x50000 (natToBytes 8 0x30000 ++ natToBytes 8 0x40000) 0 }
def fR (d a b m t imm : Nat) : FmtR := { d := BitVec.ofNat 3 d, a := BitVec.ofNat 3 a, b := BitVec.ofNat 3 b, m := BitVec.ofNat 2 m, t := BitVec.ofNat 2 t, imm := BitVec.ofNat 14 imm }

theorem rodFree (c : Call) (hc : c.id = 3) (i : Instr) (h : rodUnused i = false) : RodFree (sR c) c i := ⟨by simp [sR, findCall, hc], h⟩

theorem test_meets_RodWords : (∀ i ∈ [Instr.radd (fR 1 2 3 0 0 0), .rmul (fR 1 2 3 0 1 0), .rscl (fR 1 2 3 0 2 0), .rmac (fR 1 2 3 0 0 0), .rcmp (fR 1 2 3 0 2 5), .rsum (fR 1 1 0 0 0 3),
        .rsum (fR 1 1 0 0 2 0), .rsel (fR 1 2 3 0 0 3), .rmskAnd (fR 1 2 3 0 0 0), .rmskOr (fR 1 2 3 0 0 0), .rmskAndn (fR 1 2 3 0 0 0), .rmskLd (fR 1 2 0 0 0 0), .ract (fR 0 2 0 0 0 127),
        .ract (fR 0 2 0 0 0 128), .rskp (fR 1 0 0 0 0 0), .rloop (fR 1 2 0 0 0 256), .rend (fR 0 0 0 0 0 0)], RodFree (sR cR) cR i)
    ∧ (wrapNat 32 (((fpReg cR 2).toNat : Int) + toSigned 14 (127 : BitVec 14).toNat) < 128 ∧ 128 ≤ wrapNat 32 (((fpReg cR 2).toNat : Int) + toSigned 14 (128 : BitVec 14).toNat)
      ∧ (∀ b, b < 16 → windowPa (sR cR) (colPa cR 127 b 0) = false))
    ∧ (RodFree (sR cRow) cRow (.rldv (fR 1 2 0 0 2 32)) ∧ ractStalled (sR cRow) cRow 0 = false ∧ strayH (fR 1 2 0 0 2 32) = false ∧ noRow cRow = false ∧ rowStalled (sR cRow) cRow (rodCol cRow (fR 1 2 0 0 2 32)) = false
      ∧ RodFree (sR cRow) cRow (.rwr (fR 1 2 0 0 0 31)) ∧ strayH (fR 1 2 0 0 0 31) = false ∧ rowStalled (sR cRow) cRow (rodCol cRow (fR 1 2 0 0 0 31)) = false ∧ cRow.wpage = true)
    ∧ (badTarget cR (fR 1 0 0 0 0 0) = false ∧ cR.sparse = false ∧ RodFree (sR cSt) cSt (.rskp (fR 1 0 0 0 0 0)) ∧ badTarget cSt (fR 1 0 0 0 0 0) = false
      ∧ cSt.sparse = true ∧ cSt.stream.st = .opened ∧ auxStalled cSt (callStalls (sR cSt) cSt) = false ∧ ∃ q, streamStep (sR cSt) cSt false = .ok q)
    ∧ (RodFree (sR cR) cR (.ired (fR 0 0 1 0 2 1)) ∧ (fpReg cR 0).toNat = 1 ∧ (∀ i, i < 1 → ∀ k, k < 4 → (auxByte (sR cR) cR (4 * i + k)).2 = false)
      ∧ auxWord (sR cR) cR 0 * (fpReg cR 1).toNat + 32 ≤ 2 ^ 21 ∧ auxGone (sR cR) cR = false ∧ auxStalled cR (callStalls (sR cR) cR) = false
      ∧ pageStalled (sR cR) (cR.pagePa + auxWord (sR cR) cR 0 * (fpReg cR 1).toNat) 32 = false ∧ dstStalled (sR cR) cR (callStalls (sR cR) cR) cR.dstlen = false)
    ∧ (RodFree (sR cX) cX (.xred (fR 0 0 0 0 0 0)) ∧ xredOnly cX.prog = true ∧ xredSources (sR cX) cX 32 = some [(0, [(0x50000, 32)]), (1, [(60 * 2 ^ 30, 32)])] ∧ auxGone (sR cX) cX = false ∧ auxStalled cX (callStalls (sR cX) cX) = false ∧ (fpReg cX 0).toNat = 32
      ∧ (∀ p ∈ [((0x50000 : Nat), 32), (60 * 2 ^ 30, 32)], rangeStalled (callStalls (sR cX) cX) p.1 p.2 = false ∧ anyBad (xredRead (sR cX) [p]) = false)
      ∧ dstStalled (sR cX) cX (callStalls (sR cX) cX) cX.dstlen = false)
    ∧ (RodFree (sR cR) cR (.fill (fR 2 0 1 0 0 0)) ∧ cR.wpage = true ∧ (fpReg cR 1).toNat = 32 ∧ (fpReg cR 2).toNat = 0 ∧ pageStalled (sR cR) (cR.pagePa + 0) 32 = false)
    ∧ (let w := fR 7 7 7 3 3 0x3FFF
       ∀ i ∈ [Instr.radd w, .rmul w, .rscl w, .rmac w, .rcmp w, .rsel w, .rmskAnd w, .rmskOr w, .rmskAndn w, .rmskLd w, .rsum w, .ract w, .rldv w, .rwr w,
        .rskp w, .rloop w, .rend w, .ired w, .xred w, .fill w], rodUnused i = true) := by
  refine ⟨fun i hi => rodFree cR rfl i ?_, by decide +kernel, ⟨rodFree _ rfl _ (by decide), by decide, by decide, by decide, by decide, rodFree _ rfl _ (by decide), by decide, by decide, rfl⟩,
    ⟨by decide, rfl, rodFree _ rfl _ (by decide), by decide, rfl, rfl, by decide +kernel, _, by rfl⟩,
    ⟨rodFree _ rfl _ (by decide), by decide, by decide +kernel, by decide +kernel, by decide +kernel, by decide +kernel, by decide +kernel, by decide +kernel⟩,
    ⟨rodFree _ rfl _ (by decide), by decide, by decide +kernel, by decide +kernel, by decide +kernel, by decide, by decide +kernel, by decide +kernel⟩, ⟨rodFree _ rfl _ (by decide), rfl, by decide, by decide, by decide⟩, by decide⟩
  revert i
  decide

/-- A rod register, mask or accumulator of the call after a word. -/
def rodOf (i : Instr) (c : Call) (f : Call → Rod → Nat) : Nat :=
  match exec i (sR c) with | .next t => (match findCall t 3 with | some c => (match c.rods[2]? with | some r => f c r | none => 2 ^ 63) | none => 2 ^ 64) | _ => 2 ^ 65
def cV (a b : Nat) : Call :=
  { cR with fp := [5, 0x40000000, 1, 0, 0, 0, 0, 0], rods := List.replicate 16 { rod0 with rv := smPutList [] 32 (List.replicate 16 (BitVec.ofNat 16 a, false) ++ List.replicate 16 (BitVec.ofNat 16 b, false)) (0, false) } }
def rvOf (n l : Nat) (_ : Call) (r : Rod) : Nat := (rvGet r n l).1.toNat

/-- f16 1.5 + 2, 1.5 × 2, 1.5 × f32 2; i8 100 + 100 clamps; bf16 1 × 1 into an f32 accumulator. By hand. -/
theorem test_rod_arithmetic : rodOf (.radd (fR 1 2 3 0 0 0)) (cV 0x3E00 0x4000) (rvOf 1 9) = 0x4300 ∧ rodOf (.rmul (fR 1 2 3 0 0 0)) (cV 0x3E00 0x4000) (rvOf 1 9) = 0x4200
    ∧ rodOf (.rscl (fR 1 2 1 0 0 0)) (cV 0x3E00 0x4000) (rvOf 1 9) = 0x4200 ∧ rodOf (.radd (fR 1 2 3 0 2 0)) (cV 100 100) (rvOf 1 0) = 127
    ∧ rodOf (.rmac (fR 1 2 3 0 1 0)) (cV 0x3F80 0x3F80) (fun _ r => (raGet r 1 4).val.toNat) = 0x3F800000
    ∧ rodOf (.rsel (fR 1 2 3 0 0 1)) (cV 7 8) (rvOf 1 9) = 8 ∧ rodOf (.rcmp (fR 1 2 3 0 2 2)) (cV 0xFF 1) (fun _ r => (rmGet r 1).toNat) = 0xFFFF := by decide +kernel

theorem test_rod_masks_and_flow : rodOf (.rmskLd (fR 2 0 0 0 0 0)) cR (fun _ r => (rmGet r 2).toNat) = 1 ∧ rodOf (.rmskAndn (fR 2 0 0 0 0 0)) cR (fun _ r => (rmGet r 2).toNat) = 0
    ∧ rodOf (.rmskOr (fR 2 0 1 0 0 0)) cR (fun _ r => (rmGet r 2).toNat) = 0xFFFF ∧ rodOf (.rmskAnd (fR 2 0 1 0 0 0)) cR (fun _ r => (rmGet r 2).toNat) = 0
    ∧ rodOf (.ract (fR 0 0 0 0 0 5)) cR (fun c r => c.fpc + 10 * r.row.getD 99) = 61 ∧ rodOf (.rsum (fR 1 0 0 0 0 2)) cR (rvOf 1 3) = 0
    ∧ rodOf (.rloop (fR 4 1 0 0 0 256)) cR (fun c _ => c.fpc + (fpReg c 1).toNat * 10 + (fpReg c 4).toNat * 1000) = 1310
    ∧ rodOf (.rloop (fR 4 0 0 0 0 0)) cR (fun c _ => c.fpc) = 1 ∧ rodOf (.rskp (fR 0 0 0 0 0 0)) cR (fun c _ => c.fpc) = 0
    ∧ nextDo (exec (.rend (fR 0 0 0 0 0 0)) (sR cR)) (fun t => t.calls.map (fun c => (c.st == .ending, c.status)) == [(true, 0)]) = true
    ∧ nextDo (exec (.rend (fR 1 0 0 0 0 0)) (sR cR)) (fun t => t.calls.map (fun c => (c.st == .ending, c.status)) == [(true, 5)]) = true := by decide +kernel

/-- Column 31 of row 0 of bank 2 is at byte 1,024 × 2 + 31 × 32 of the page. -/
theorem test_rod_memory : nextDo (exec (.fill (fR 2 0 1 0 0 0)) (sR cR)) (fun t => memBytes t 0 5 == [1, 0, 0, 0, 1] && memByte t 32 == 0) = true
    ∧ nextDo (exec (.rwr (fR 1 2 0 0 0 31)) (sR { cRow with rods := List.replicate 16 { rod0 with rv := smPutList [] 16 [(0x1234, false)] (0, false), row := some 0 } }))
        (fun t => memNat t (2048 + 992) 2 == 0x1234) = true
    ∧ nextDo (exec (.ired (fR 0 0 1 0 1 1)) (sR cR)) (fun t => memNat t 0x50100 4 == 0) = true
    ∧ nextDo (exec (.rldv (fR 1 2 0 0 2 32)) (sR { cRow with pagePa := 0x50000 - 2048 - 16 })) (fun t => t.calls.map (fun c => c.rods.map (fun r => (rvGet r 1 2).1.toNat)) |>.any (fun l => l.getD 2 0 == 3)) = true
    ∧ nextDo (exec (.xred (fR 0 0 0 0 2 0)) (sR cX)) (fun t => memBytes t 0x50100 4 == [0, 0, 3, 0]) = true := by decide +kernel

/-! ## Calls -/

/-- A call block at 0x30000: its page at 0x200000 for writing, or at an address that is no page's start; and AUX. -/
def blkA (nw page aux auxlen : Nat) : List Byte :=
  natToBytes 4 0 ++ natToBytes 2 nw ++ natToBytes 2 0xFFFF ++ natToBytes 8 page ++ natToBytes 8 aux ++ natToBytes 8 0 ++ natToBytes 4 auxlen ++ natToBytes 4 0 ++ natToBytes 4 1 ++ natToBytes 20 0
def blk (nw page : Nat) : List Byte := blkA nw page 0 0
def cAcc : Call := { soleCall 3 1 2 0 with st := .accepting, brec := rec4, stack := 12, prog := [], wpage := false, rods := [] }
def tlbBig : TlbEntry := { part := 0, kind := .big, va := 0x200000, leaves := [{ idx := 0, frame := 0x600000, wr := true, span := false, peer := none }] }
def sAc (nw page : Nat) : State :=
  { sR cAcc with
    dies := modifyAt State.reset.dies 0 (fun _ => { tlb := [tlbE, tlbBig] }), mem := smPutList [] 0x50000 (blk nw page ++ natToBytes 4 0x68000000) 0 }
/-- A read gives these bytes and leaves the state as it is. -/
def readsTo (r : CallRead × State) (b : List Byte) (s : State) : Bool := match r with | (.bytes x none, t) => decide (x = b ∧ t = s) | _ => false
theorem of_readsTo (r : CallRead × State) (b : List Byte) (s : State) (h : readsTo r b s = true) : r = (.bytes b none, s) := by
  unfold readsTo at h
  split at h
  · have := of_decide_eq_true h
    rw [this.1, this.2]
  · cases h

theorem readAc (nw page : Nat) (h : (nw, page) = (1, 0x200000) ∨ (nw, page) = (1, 0x30100) ∨ (nw, page) = (0, 0)) :
    readBlock cAcc (performPrev (sAc nw page) false cAcc.wg cAcc.grp cAcc.after) 0 64 = (.bytes (blk nw page) none, sAc nw page) := by
  rcases h with h | h | h <;> injection h with h1 h2 <;> subst h1 <;> subst h2 <;> exact of_readsTo _ _ _ (by decide +kernel)
theorem readAcProg (page : Nat) (h : page = 0x200000 ∨ page = 0x30100) :
    readBlock (blockFields cAcc (blk 1 page)) (sAc 1 page) 64 (4 * (blockFields cAcc (blk 1 page)).nw) = (.bytes (natToBytes 4 0x68000000) none, sAc 1 page) := by
  rcases h with h | h <;> subst h <;> exact of_readsTo _ _ _ (by decide +kernel)

def nearPage (s : State) (page : DWord) (q : Phys) : Bool := page.toNat % 2 ^ 21 == 0 && q.peer.isNone && q.big && isNb s (unitOf q.pa)
theorem pageAc (page : Nat) (h : page = 0x200000 ∨ page = 0x30100) : ∃ q s3, translateFor (sAc 1 page) 0 0 page true = (some q, s3)
    ∧ nearPage s3 (BitVec.ofNat 64 page) q = decide (page = 0x200000) ∧ s3.calls = [cAcc] := by
  rcases h with h | h <;> subst h
  · exact ⟨_, _, by rfl, by decide +kernel, by rfl⟩
  · exact ⟨_, _, by rfl, by decide +kernel, by rfl⟩

/-- The table of the page's die is full of locks; a call with its locks waits for the queue, which holds `n`. -/
def sAcFull : State := { sAc 1 0x200000 with locks := (List.range 256).map (fun i => { id := 0, die := 0, write := false, space := .global 0, lo := i * 64, hi := i * 64 + 63, launch := 1, owner := 99 }) }
def cLk : Call := { cAcc with st := .locked }
def sLk (n : Nat) : State := { sR cLk with calls := cLk :: (List.range n).map (fun i => { cLk with id := 100 + i, st := .queued }) }

def cEnd (done : Bool) : Call := { cR with st := .ending, brec := rec4, cstDone := done, status := 6, detail := 9, j := 2, lane := 3 }
def sEnd (done : Bool) : State := { sR (cEnd done) with wgs := [{ tW with groups := [tG] }], launches := [tL] }
def sClk (c : Call) (t : Nat) : State := { sR c with clk := BitVec.ofNat 64 t }
/-- A rod with an open row at a RACT, and a load of another group that waits for its bank. -/
def cYld (y : Option (Nat × Nat)) : Call := { cRow with yld := y }
def lCls : Launch := { tL with lflags := 0x200 }
def sYld (y : Option (Nat × Nat)) (l : Launch) : State :=
  { sR (cYld y) with wgs := [{ tW with groups := [{ tG with ops := [tOp .load [tAcc 0 0 []]] }] }], launches := [l] }

theorem test_meets_CallEvents : (∀ nw page, findCall (sAc nw page) (sAc nw page).arg.a = some cAcc) ∧ (cAcc.st = .accepting ∧ cAcc.waitPage = none)
    ∧ (∀ nw page, prevBlocked (sAc nw page) false cAcc.wg cAcc.grp cAcc.after = false)
    ∧ (blockFields cAcc (blk 0 0)).nw = 0
    ∧ (∀ page, page = 0x200000 ∨ page = 0x30100 → let k := blockFields cAcc (blk 1 page)
        fieldAt (blk 1 page) 0x28 4 < 2 ^ 2 ∧ 0 < k.nw ∧ k.nw ≤ 256 ∧ k.dst.toNat % 32 = 0 ∧ k.dstlen % 32 = 0 ∧ offIn cAcc.brec cAcc.off (64 + 4 * k.nw) = true ∧ k.page ≠ 0
        ∧ k.page.toNat = page ∧ k.auxlen = 0 ∧ k.wpage = true ∧ cAcc.refused.contains (pageOf k.page.toNat) = false)
    ∧ (∀ d, findCall (sEnd d) (sEnd d).arg.a = some (cEnd d) ∧ (cEnd d).st = .ending ∧ (cEnd d).waitPage = none ∧ (cEnd d).lane < 16 ∧ ∀ k ∈ (sEnd d).calls, k.id = (cEnd d).id → k = cEnd d)
    ∧ ((cEnd false).refused.contains (pageOf (blockVa (cEnd false) 0)) = false ∧ (∃ s1, writeCst (sEnd false) (cEnd false) 6 = some s1)
      ∧ (∀ j, j < 4 → blockVa (cEnd false) j = blockVa (cEnd false) 0 + j ∧ tlbFind (sEnd false) (cEnd false).die (cEnd false).part (blockVa (cEnd false) j) = some { pa := 0x50000 + j, wr := true, peer := none, big := false, span := false}
        ∧ (translateFor (sEnd false) (cEnd false).die (cEnd false).part (blockVa (cEnd false) j) true).1 = some { pa := 0x50000 + j, wr := true, peer := none, big := false, span := false })
      ∧ (∀ j, j < 4 → callStalls (sEnd false) (cEnd false) (0x50000 + j) = false))
    ∧ (cR.st = .running ∧ 175000000 < now (sClk cR 175000001) - cR.started - cR.uncounted ∧ cX.st = .running ∧ xredOnly cX.prog = true ∧ cX.fpc = 0
      ∧ 175000 < now (sClk cX 175001) - cX.started - cX.uncounted ∧ cX.prog[0]? = some 0x78000000 ∧ decodeRod 0x78000000 = some (.xred (fR 0 0 0 0 0 0))
      ∧ xredSources (sClk cX 175001) cX (fpReg cX 0).toNat = some [(0, [(0x50000, 32)]), (1, [(60 * 2 ^ 30, 32)])] ∧ (sClk cX 175001).arg.b = 1)
    ∧ (∀ y l, findCall (sYld y l) (sYld y l).arg.a = some (cYld y))
    ∧ ((cYld none).st = .running ∧ atYield (cYld none) = true ∧ (cYld none).passed = 0 ∧ (cYld none).yld = none ∧ yieldWaiters (sYld none tL) (cYld none) = true)
    ∧ (cLk.st = .locked ∧ findCall (sLk 0) (sLk 0).arg.a = some cLk ∧ ((sLk 31).calls.filter (fun n => n.st == .queued && n.stack == cLk.stack && n.pch == cLk.pch)).length < 32
      ∧ 32 ≤ ((sLk 32).calls.filter (fun n => n.st == .queued && n.stack == cLk.stack && n.pch == cLk.pch)).length)
    ∧ (∃ q s3, readBlock cAcc (performPrev sAcFull false cAcc.wg cAcc.grp cAcc.after) 0 64 = (.bytes (blk 1 0x200000) none, sAcFull)
      ∧ translateFor sAcFull 0 0 0x200000 true = (some q, s3) ∧ nearPage s3 0x200000 q = true ∧ lockRoom s3 (callLocks s3 { blockFields cAcc (blk 1 0x200000) with pagePa := q.pa }) = false)
    ∧ (yieldWaiters (sR (cYld (some (0, 0)))) (cYld (some (0, 0))) = false ∧ yieldLimit (sYld (some (8, 900)) lCls) (8, 900) = true ∧ rodWaiters (sYld (some (8, 900)) lCls) (cYld (some (8, 900))) (· == 0) = false) :=
  ⟨fun _ _ => rfl, ⟨rfl, rfl⟩, fun _ _ => rfl, by decide, fun p h => by rcases h with rfl | rfl <;> decide +kernel,
    fun d => ⟨rfl, rfl, rfl, show 3 < 16 by decide, fun k hk _ => by simpa [sEnd, sR] using hk⟩,
    ⟨by decide, ⟨_, by rfl⟩, by decide +kernel, by decide +kernel⟩,
    ⟨rfl, by decide, rfl, rfl, rfl, by decide, rfl, by decide, by decide +kernel, rfl⟩, fun _ _ => rfl, ⟨rfl, by decide, rfl, rfl, by decide +kernel⟩, by decide +kernel,
    ⟨_, _, of_readsTo _ _ _ (by decide +kernel), by rfl, by decide +kernel, by decide +kernel⟩, by decide +kernel, by decide, by decide +kernel⟩

/-- Blocks with AUX, and with PAGE 0: XRED and REND, or two REND. -/
def sAx (nw page auxlen op : Nat) : State := { sAc 1 0 with mem := smPutList [] 0x50000 (blkA nw page 0x30010 auxlen ++ natToBytes 4 op ++ natToBytes 4 0x68000000) 0 }
def kAx (nw page auxlen op : Nat) : Call := { blockFields cAcc (blkA nw page 0x30010 auxlen) with prog := if nw = 1 then [BitVec.ofNat 32 op] else [BitVec.ofNat 32 op, 0x68000000] }
/-- A repair window stands over the row of an address. -/
def shut (s : State) (pa : Nat) : State :=
  let p := placeOf s pa
  { s with stks := modifyAt s.stks p.stack (fun k => { k with window := some { kind := 0, pch := p.pch, bank := p.bank, row := p.row } }) }
/-- Call 3 reads its block and its program, and AUX lies where its page translates to. -/
theorem test_meets_CallEvents_forms : (∀ e ∈ [((1, 0x200000, 4, 0x68000000) : Nat × Nat × Nat × Nat), (2, 0, 4, 0x78000000), (2, 0, 0, 0x68000000)],
      let s := sAx e.1 e.2.1 e.2.2.1 e.2.2.2
      let k := kAx e.1 e.2.1 e.2.2.1 e.2.2.2
      readsTo (readBlock cAcc (performPrev s false cAcc.wg cAcc.grp cAcc.after) 0 64) (blkA e.1 e.2.1 0x30010 e.2.2.1) s = true
      ∧ readsTo (readBlock k s 64 (4 * k.nw)) (k.prog.flatMap (fun v => natToBytes 4 v.toNat)) s = true
      ∧ xredOnly k.prog = (e.2.2.2 == 0x78000000) ∧ auxList k = (if e.2.2.1 = 0 then [] else [3])
      ∧ (match auxPages k s (auxList k) with | (.pages l, t) => decide (l = if e.2.2.1 = 0 then [] else [(3, .global 0x50000)]) && decide (t = s) | _ => false) = true
      ∧ findCall s cAcc.id = some cAcc ∧ (e.1 = 2 → lockRoom s (callLocks s { k with auxPa := [] }) = true))
    ∧ (∃ q, translateFor (sAx 1 0x200000 4 0x68000000) 0 0 0x200000 true = (some q, sAx 1 0x200000 4 0x68000000) ∧ nearPage (sAx 1 0x200000 4 0x68000000) 0x200000 q = true
      ∧ lockRoom (sAx 1 0x200000 4 0x68000000) (callLocks (sAx 1 0x200000 4 0x68000000) { kAx 1 0x200000 4 0x68000000 with pagePa := q.pa, auxPa := [(3, .global 0x50000)] }) = true)
    ∧ (cstStalls (shut (sEnd false) 0x50000) (cEnd false) ≠ [] ∧ cstStalls (sEnd false) (cEnd false) = [] ∧ (cEnd false).pend = []
      ∧ (∀ j, j < 4 → yieldRoom (sEnd false) (launchClass (sEnd false) (cEnd false).launch) [0x50000 + j] = true) ∧ { cEnd false with pend := [(0, [])] }.pend ≠ [])
    ∧ (ractStalled (shut (sR cR) (colPa cR 5 2 0)) cR 5 = true ∧ rowStalled (shut (sR cRow) (colPa cRow 0 2 0)) cRow 0 = true ∧ pageStalled (shut (sR cR) 0) (cR.pagePa + 0) 32 = true) :=
  ⟨by decide +kernel, ⟨_, by rfl, by decide +kernel⟩, by decide +kernel⟩

/-- The call of the block with AUX keeps AUX's translation in its queue. -/
theorem test_call_keeps_aux : nextDo (exec .mcallCallAccept (sAx 1 0x200000 4 0x68000000)) (fun t => t.calls.map (fun c => (c.st == .queued, c.auxPa)) == [(true, [(3, .global 0x50000)])]) = true := by decide +kernel

theorem test_calls : nextDo (exec .mcallCallAccept (sAc 1 0x200000)) (fun t => t.calls.map (fun c => (c.st == .queued, c.pagePa, c.stack, c.pch, c.prog)) == [(true, 0x600000, 0, 3, [0x68000000])]) = true
    ∧ nextDo (exec .mcallCallAccept (sAc 1 0x30100)) (fun t => t.calls.map (fun c => (c.st == .ending, c.status)) == [(true, 4)]) = true
    ∧ nextDo (exec .mcallCallAccept (sAc 0 0)) (fun t => t.calls.map (fun c => (c.st == .ending, c.status)) == [(true, 5)]) = true
    ∧ nextDo (exec .callEnd (sEnd false)) (fun t => t.calls.isEmpty && memBytes t 0x50000 4 == [6, 9, 0, 0] && grp0 t (fun g => getJ g 2 == 8)) = true
    ∧ nextDo (exec .callTimeout (sClk cR 175000001)) (fun t => t.calls.map (fun c => c.status) == [3]) = true
    ∧ nextDo (exec .callTimeout (sClk cR 175000000)) (fun t => t.calls.map (fun c => c.status) == [0]) = true
    ∧ nextDo (exec .xredSourceTimeout (sClk cX 175001)) (fun t => t.calls.map (fun c => (c.status, c.detail)) == [(3, 1)]) = true
    ∧ nextDo (exec .rodYield (sYld none tL)) (fun t => t.calls.map (fun c => c.yld) == [some (0, 1000)]) = true
    ∧ nextDo (exec .yieldWindowLimit (sR (cYld (some (0, 0))))) (fun t => t.calls.map (fun c => (c.yld, c.passed)) == [(none, 2)]) = true := by decide +kernel

/-! ## Prediction, faults and checks -/

/-- A quad whose lanes took the target side of a branch at 4: `run` of them run there, `truth` belong there. -/
def qPr (run truth : QMask) : Quad :=
  { quadAt tG 0 with
    pc := 24, run := run, clause := none,
    pred := some { brPc := 4, gang := 0xF, tgt := 24, fall := 8, rj := none, onTarget := true, lanes := 0xF, truth := truth, issued := 1, mark := 3, undo := [.v 5 4 { val := 9, poison := false }, .p 1 5 true], stopped := false } }
/-- Right lanes run on; none is right; some are missing; only missing ones are right. -/
def gPr : Group := { tG with quads := [qPr 15 15, qPr 15 0, qPr 3 15, qPr 3 12] }
/-- The same, the branch naming a reconvergence point at 32. -/
def gPrJ : Group := { gPr with quads := gPr.quads.map (fun a => { a with pred := a.pred.map (fun p => { p with rj := some 32 }) }) }
def sPr : State := { tSt tL tW gPr tI with cur := none, arg := { EvArg.none with a := 2, b := 0, c := 0 } }

/-- Of a gang whose branch is open, MOV %actm stops the side. -/
theorem test_meets_PredictionsResolve_actm : Issues (tSt tL tW gPr tI) 7 (tX tL tW gPr tI 7) ∧ predicted (tX tL tW gPr tI 7) = true ∧ (Fld.mk 0xFB 0).code = 0xFB :=
  ⟨issues_of (tSt tL tW gPr tI) tL tW gPr tI 7 rfl rfl rfl rfl rfl rfl, by decide, rfl⟩
theorem test_actm_stops : nextDo (exec (.mov (fA (Fld.mk 0xFB 0) (Fld.mk 0 0))) (tSt tL tW gPr tI)) (fun t => grp0 t (fun g =>
    g.quads.all (fun q => q.pred.any (fun p => p.stopped)) && (getV g 5 0).val == 0)) = true := by decide +kernel

theorem test_meets_PredictionsResolve : findWg sPr sPr.arg.a = some { tW with groups := [gPr] } ∧ ([gPr] : List Group)[sPr.arg.b]? = some gPr
    ∧ (quadAt gPr sPr.arg.c).pred = (qPr 15 15).pred
    ∧ (∀ q, q < 4 → ∀ k, (quadAt gPr q).pred = some k → hasQuad 0xF q = true ∧ k.brPc = 4 ∧ k.gang = 0xF
        ∧ (let good := k.lanes &&& (quadAt gPr q).live &&& (if k.onTarget then k.truth else ~~~k.truth)
           (q = 0 → good = (quadAt gPr q).run) ∧ (q = 1 → good = 0) ∧ (q = 2 → (quadAt gPr q).run &&& good ≠ 0 ∧ good &&& ~~~(quadAt gPr q).run ≠ 0 ∧ k.issued ≠ 0)
           ∧ (q = 3 → good ≠ 0 ∧ (quadAt gPr q).run &&& good = 0)))
    ∧ (∃ k, (quadAt gPr 1).pred = some k ∧ k.undo[0]? = some (.v 5 4 { val := 9, poison := false }) ∧ k.undo[1]? = some (.p 1 5 true)
      ∧ hasLane (quadLift ((quadAt gPr 1).run &&& ~~~(0 : QMask)) 1) 4 = true ∧ hasLane (quadLift ((quadAt gPr 1).run &&& ~~~(0 : QMask)) 1) 5 = true)
    ∧ (quadAt gPrJ 0).pred.map (fun p => (lateGang p gPrJ).length) = some 1 ∧ (quadAt gPr 0).pred.map (fun p => (lateGang p gPr).length) = some 0 :=
  ⟨rfl, rfl, rfl, fun q hq k h => by
    obtain rfl | rfl | rfl | rfl : q = 0 ∨ q = 1 ∨ q = 2 ∨ q = 3 := by omega
    all_goals (injection h with h; subst h; decide), ⟨_, rfl, rfl, rfl, by decide, by decide⟩, by decide, by decide⟩

/-- Lanes are missing and no word was issued: nothing is to replay. -/
def qNew : Quad := { qPr 3 15 with pred := (qPr 3 15).pred.map (fun p => { p with issued := 0 }) }
theorem test_meets_PredictionsResolve_fresh : ∃ k, qNew.pred = some k ∧ k.issued = 0 ∧ qNew.run &&& (k.lanes &&& qNew.live &&& (if k.onTarget then k.truth else ~~~k.truth)) ≠ 0 :=
  ⟨_, rfl, rfl, by decide⟩

theorem test_prediction_resolves : nextDo (exec .branchResolve sPr) (fun t => grp0 t (fun g => g.quads.map (fun q => (q.pc.toNat, q.run.toNat, q.pred.isSome, q.replay.map (fun y => (y.lanes.toNat, y.pc.toNat))))
    == [(24, 15, false, none), (8, 15, false, none), (24, 3, false, some (12, 24)), (24, 12, false, none)] && (getV g 5 4).val == 9 && getP g 1 5)) = true
    ∧ nextDo (exec .branchResolve (tSt tL tW gPrJ { tI with wg := 2 } |> fun s => { s with cur := none, arg := sPr.arg })) (fun t => grp0 t (fun g =>
      g.quads.map (fun q => q.stack.map (fun e => (e.kind == .gang, e.rpc.map (fun r => r.toNat)))) == [[(true, some 32)], [(true, some 32)], [(true, some 32)], [(false, some 32), (true, some 32)]])) = true := by decide +kernel

def frep (seq code pad : Nat) : List Byte := [0x52, 0] ++ natToBytes 2 seq ++ natToBytes 1 code ++ natToBytes 11 pad
def frec : FaultRec := { part := 0, page := 3, seq := 77, va := 0x30000, absent := true }
def sFr (b : List Byte) : State := { sCp (tCp .cpy true 0) [] with faults := [frec], arg := { EvArg.none with msg := { cls := 0, bytes := b } } }
/-- A store of lane 2 whose page was refused, and its group's trap, with a handler at 64. -/
def oRef : Op := { oStore with id := 5, accs := [{ tAcc 2 0 [1, 2, 3, 4] with st := .refused }] }
def rRef : RefusalRec := { pc := 4, lanes := 4, va := 0x30000, write := true, copy := false, op := 5, quads := 1, stands := false }
def gRef : Group := { tG with ops := [oRef], f := [(3, 1)], refusals := [rRef] }
def sRef : State := { tSt lH tW gRef tI with cur := none, arg := { EvArg.none with a := 2, b := 0 } }
def shmsg (part rsv lo n : Nat) : List Byte := [0x31] ++ natToBytes 1 part ++ natToBytes 2 7 ++ natToBytes 4 rsv ++ natToBytes 8 lo ++ natToBytes 8 n ++ natToBytes 8 0
def sSh (b : List Byte) : State :=
  { sMsg .ready [(0, part1)] b with
    arg := { EvArg.none with msg := { cls := 0, bytes := b } }, nextId := 10, dies := modifyAt State.reset.dies 0 (fun _ => { tlb := [tlbE, tlbBig] }) }
/-- A word of three lanes of a CHECKED group waits in the replay queue of core 0. -/
def rep0 (ok : Bool) : ReplayEntry :=
  { wg := 2, grp := 0, pc := 4, time := 0, words := [], opnds := [], result := [],
    again := if ok then [] else [{ lane := 0, v := [(5, 1)], bad := [], p := [], conds := 0, opa := 0, opb := 0, opc := 0 }] }
def sRq (ok : Bool) : State :=
  { tSt lCk { wCk with chk := some { tK with snap := [tG] } } tG tI with
    cur := none, clk := 9000, cores := modifyAt State.reset.cores 0 (fun k => { k with replayQ := [rep0 ok] }), arg := { EvArg.none with a := 0, ok := ok } }
def sIv : State := { sRq true with arg := { EvArg.none with a := 2 } }

theorem test_meets_FaultAndCheckEvents : ((frep 77 1 0).length = 16 ∧ fieldAt (frep 77 1 0) 0 1 = 0x52 ∧ fieldAt (frep 77 1 0) 4 1 ≤ 1 ∧ fieldAt (frep 77 1 0) 5 11 = 0
      ∧ fieldAt (frep 77 2 0) 4 1 = 2 ∧ (∀ f ∈ (sFr (frep 78 1 0)).faults, ¬(f.part = 0 ∧ f.seq.toNat = fieldAt (frep 78 1 0) 2 2))
      ∧ (sFr (frep 77 1 0)).faults.find? (fun f => f.part == 0 && f.seq.toNat == fieldAt (frep 77 1 0) 2 2) = some frec)
    ∧ (findWg sRef sRef.arg.a = some { tW with groups := [gRef] } ∧ findLaunch sRef tW.launch = some lH ∧ refusalOf gRef = some rRef ∧ trapWaits gRef = false
      ∧ wgHalted sRef { tW with groups := [gRef] } = false ∧ tW.place = .live ∧ (∀ q, q < 4 → midWord gRef q = false)
      ∧ (∀ q ∈ gRef.quads, q.replay = none) ∧ trapsFirst (enablesOf lH) gRef 5 = none ∧ trapsFirst (enablesOf lH) (keepRefused 5 { gRef with refusals := [] }) 5 = none
      ∧ hasHandler lH = true ∧ gRef.inHandler = false)
    ∧ ((trapsFirst (enablesOf lNf) { gRef with ops := [{ oBad with id := 2 }, oRef] } 5).map (fun o => o.id) = some 2 ∧ trapsFirst (enablesOf lNf) { gRef with ops := [oRef, { oBad with id := 8 }] } 5 = none)
    ∧ (linkUp (sSh []) = true ∧ (shmsg 0 0 0x30000 65536).length = 32 ∧ req (sSh (shmsg 0 0 0x30000 65536)) 0 1 = 0x31 ∧ req (sSh (shmsg 0 0 0x30000 65536)) 4 4 = 0
      ∧ findPart (sSh (shmsg 1 0 0x30000 65536)) (req (sSh (shmsg 1 0 0x30000 65536)) 1 1) = none ∧ req (sSh (shmsg 0 5 0x30000 65536)) 4 4 ≠ 0
      ∧ req (sSh (shmsg 0 0 0x30000 65536)) 0x18 8 = 0 ∧ req (sSh (shmsg 0 0 0x30000 65536)) 8 8 % 65536 = 0 ∧ req (sSh (shmsg 0 0 0x30000 65536)) 0x10 8 = 65536
      ∧ (sSh (shmsg 0 0 0x30000 65536)).shoots = [] ∧ shootHeld (sSh (shmsg 0 0 0x30000 65536)) { mark := 10, part := 0, seq := 7, cls := 0, lo := 0x30000, hi := 0x40000 } = false)
    ∧ (∀ ok, ((sRq ok).cores[(sRq ok).arg.a]?).map (fun k => k.replayQ) = some [rep0 ok] ∧ 1500 ≤ now (sRq ok) - (rep0 ok).time ∧ ((rep0 ok).again = (rep0 ok).result ↔ ok = true))
    ∧ (∃ w, findWg (sRq false) (rep0 false).wg = some w ∧ w.chk = some { tK with snap := [tG] }) ∧ tK.rerun = false ∧ tK.snapPoison = false ∧ tK.logPoison = false
    ∧ (∃ w, findWg sIv sIv.arg.a = some w ∧ w.chk = some { tK with snap := [tG] }) ∧ 8192 ≤ now sIv - tK.opened :=
  ⟨by decide, ⟨rfl, rfl, by decide, by decide, by decide +kernel, rfl, by decide +kernel⟩, by decide +kernel, by decide +kernel,
    fun ok => by cases ok <;> decide, ⟨_, rfl, rfl⟩, rfl, rfl, rfl, ⟨_, rfl, rfl⟩, by decide⟩

theorem test_faults_and_checks : nextDo (exec .faultReply (sFr (frep 77 0 0))) (fun t => t.faults.isEmpty && t.copies.all (fun c => c.waitPage.isNone)) = true
    ∧ nextDo (exec .pageFaultTrap sRef) (fun t => grp0 t (fun g => g.inHandler && getTrap g 0x100 == 12 && getTrap g 0x103 == 4 && getF g 3 == 0 && g.kept.length == 1)) = true
    ∧ nextDo (exec .shootdown (sSh (shmsg 0 0 0x30000 65536))) (fun t => (t.dies.map (fun d => d.tlb)).headD [] == [tlbBig] && t.outbox.length == 1) = true
    ∧ nextDo (exec .replayExecute (sRq true)) (fun t => t.cores.all (fun k => k.replayQ.isEmpty)) = true
    ∧ nextDo (exec .replayQueueAgeLimit (sRq false)) (fun t => (findWg t 2).bind (fun w => w.chk.map (fun c => (c.rerun, c.buf.length))) == some (true, 0)) = true
    ∧ nextDo (exec .intervalTimeLimit sIv) (fun t => (findWg t 2).bind (fun w => w.chk.map (fun c => c.cutDue)) == some true) = true := by decide +kernel

/-! ## Repair -/

def rRow : Repair := { kind := 0, pch := 1, bank := 2, row := 3 }
def rBnk : Repair := { kind := 1, pch := 1, bank := 2, row := 0 }
def rTsv : Repair := { kind := 2, pch := 1, bank := 0, row := 2 }
/-- Stack 4 with one repair due; `spent` leaves it no spare of its unit. -/
def kDue (r : Repair) (spent : Bool) : StackSt :=
  { StackSt.fresh with
    due := [r], usedRows := if spent then [(18, 32)] else [], usedBanks := if spent then [(1, 1)] else [], usedTsv := if spent then [(1, 8)] else [] }
def sRp (k : StackSt) : State :=
  { State.reset with
    boot := .ready, clk := 20000, parts := [(0, part1)], stks := modifyAt State.reset.stks 4 (fun _ => k),
    arg := { EvArg.none with a := 4, b := 1, c := 2, d := 3 } }
def kRemap (n : Nat) (w : Option Repair) : StackSt := { StackSt.fresh with window := w, remap := some (rBnk, n, 0) }
def rmsg (ty part seq : Nat) : List Byte := natToBytes 1 ty ++ natToBytes 1 part ++ natToBytes 2 seq
def sMu : State :=
  { sRp StackSt.fresh with
    mapWait := some 9, mapCovers := 1, heldReports := [{ cls := 1, bytes := [5] }, { cls := 1, bytes := [6] }],
    arg := { EvArg.none with msg := { cls := 0, bytes := rmsg 8 0 9 ++ natToBytes 12 0 } } }
def sRl (part f : Nat) : State :=
  { sRp StackSt.fresh with
    retLists := modifyAt State.reset.retLists 0 (fun _ => { entries := [{ frame := 5, stack := 1, kind := 2, seq := 3 }], ovf := false }),
    arg := { EvArg.none with msg := { cls := 0, bytes := rmsg 0x41 part 6 ++ natToBytes 4 f ++ natToBytes 24 0 } } }

theorem test_meets_RepairEvents : (∀ sp, (dueNow (sRp (kDue rRow sp)) 4 = some (kDue rRow sp, rRow) ∧ (freeSpares (kDue rRow sp) 0 (repairUnit rRow) = 0 ↔ sp = true))
      ∧ (dueNow (sRp (kDue rBnk sp)) 4 = some (kDue rBnk sp, rBnk) ∧ (freeSpares (kDue rBnk sp) 1 (repairUnit rBnk) = 0 ↔ sp = true))
      ∧ (dueNow (sRp (kDue rTsv sp)) 4 = some (kDue rTsv sp, rTsv) ∧ (freeSpares (kDue rTsv sp) 2 (repairUnit rTsv) = 0 ↔ sp = true)))
    ∧ ((sRp (kRemap 5 none)).stks[4]? = some (kRemap 5 none) ∧ (5 : Nat) < 16384 ∧ 0 + 10500 ≤ now (sRp (kRemap 5 none)) ∧ repairHeld (sRp (kRemap 5 none)) 4 rBnk = false)
    ∧ ((sRp (kRemap 5 (some rBnk))).stks[4]? = some (kRemap 5 (some rBnk)) ∧ (kRemap 5 (some rBnk)).window ≠ none)
    ∧ (sMu.mapWait = some 9 ∧ sMu.mapDirty = false ∧ sMu.arg.msg.bytes.length = 16 ∧ fieldAt sMu.arg.msg.bytes 0 1 = 8 ∧ fieldAt sMu.arg.msg.bytes 1 1 = 0
      ∧ fieldAt sMu.arg.msg.bytes 2 2 = (9 : BitVec 16).toNat ∧ fieldAt sMu.arg.msg.bytes 4 4 = 0 ∧ fieldAt sMu.arg.msg.bytes 8 8 = 0)
    ∧ (∀ p f, p = 0 ∨ p = 1 → f = 0 ∨ f = 1 → bootServes (sRl p f) = true ∧ (sRl p f).arg.msg.bytes.length = 32 ∧ fieldAt (sRl p f).arg.msg.bytes 0 1 = 0x41
      ∧ fieldAt (sRl p f).arg.msg.bytes 4 4 = f ∧ fieldAt (sRl p f).arg.msg.bytes 12 20 = 0 ∧ (findPart (sRl p f) (fieldAt (sRl p f).arg.msg.bytes 1 1)).isSome = decide (p = 0)) :=
  ⟨fun sp => by cases sp <;> decide +kernel, by decide, by decide, by decide,
    fun p f hp hf => by rcases hp with rfl | rfl <;> rcases hf with rfl | rfl <;> decide +kernel⟩

def stk (o : Host.Outcome State Fault Refusal) (f : StackSt → Bool) : Bool := nextDo o (fun t => match t.stks[4]? with | some k => f k | none => false)
theorem test_repairs : stk (exec .rowRepair (sRp (kDue rRow false))) (fun k => k.rowMap == [(18, 3)] && k.window == some rRow && k.due.isEmpty) = true
    ∧ stk (exec .bankRemap (sRp (kDue rBnk false))) (fun k => k.bankMap == [18] && k.remap == some (rBnk, 1, 0)) = true
    ∧ stk (exec .tsvSwap (sRp (kDue rTsv false))) (fun k => k.tsvMap == [(1, 2)] && k.window == some rTsv) = true
    ∧ stk (exec .bankRemapPiece (sRp (kRemap 5 none))) (fun k => k.window == some { rBnk with row := 5 }) = true
    ∧ stk (exec .repairWindowEnd (sRp (kRemap 5 (some rBnk)))) (fun k => k.remap == some (rBnk, 5, 20000) && k.window.isNone) = true
    ∧ nextDo (exec .mapUpdateReply sMu) (fun t => t.heldReports.length == 1 && t.outbox.map (fun m => m.bytes) == [[5]]) = true
    ∧ nextDo (exec .retiredListRead (sRl 0 0)) (fun t => t.outbox.map (fun m => (m.bytes.length, m.bytes.getD 8 0)) == [(96, 1)]) = true := by decide +kernel

/-! ## Saves, restores and evacuation -/

/-- A pre-emptible workgroup of class 1 fills the partition's core; a launch of class 0 waits for it. -/
def lLow : Launch := { tL with lflags := 0x208, cvb := 2097152, cbanks := 0 }
def lHigh : Launch := { tL with id := 7, st := .queued, next := 0, tag := 8 }
def wLow : Workgroup := { soleWg State.reset 2 lLow tC with place := .live }
def sPre : State := { State.reset with launches := [lLow, lHigh], wgs := [wLow], parts := [(0, part1)], boot := .ready, nextId := 10, arg := { EvArg.none with a := 2 } }
/-- A workgroup that is being saved, and one that is saved. -/
def lSv : Launch := { tL with lflags := 8, cvb := 64, cbanks := 0, vcount := 16 }
def wSv (p : Place) : Workgroup := { soleWg State.reset 2 lSv tC with place := p }
def sSv (p : Place) : State := { State.reset with launches := [lSv], wgs := [wSv p], parts := [(0, part1)], boot := .ready, nextId := 10, arg := { EvArg.none with a := 2 } }

theorem test_meets_SavesAndRestores : (findWg sPre sPre.arg.a = some wLow ∧ findLaunch sPre wLow.launch = some lLow ∧ (∀ v ∈ sPre.wgs, ∀ k ∈ sPre.wgs, v.id = k.id → v = k)
      ∧ lLow.st = .running ∧ wLow.retired = false ∧ (∀ v ∈ together sPre wLow lLow, v.place = .live ∧ ∀ e ∈ sPre.evacs, e.lcore = v.lcore → e.phase = .committed)
      ∧ roomToSave sPre (together sPre wLow lLow) lLow = true ∧ sPre.launches.any (fun h => victimFor sPre h wLow lLow) = true)
    ∧ (findWg (sSv .saving) 2 = some (wSv .saving) ∧ findLaunch (sSv .saving) (wSv .saving).launch = some lSv ∧ (wSv .saving).place = .saving ∧ (wSv .saving).retired = false
      ∧ lSv.st = .running ∧ saveReady (wSv .saving) = true ∧ (wSv .saving).chk = none ∧ (wSv .saving).saveBad = [] ∧ findPart (sSv .saving) lSv.part = some part1
      ∧ (match carve part1 (reserveTaken (sSv .saving) lSv.part) (imageLen lSv) with | some a => !windowRun (sSv .saving) a (imageLen lSv) | none => false) = true
      ∧ (wSv .saving).groups.length = groupsPer lSv ∧ (wSv .saving).banks.length = lSv.cbanks)
    ∧ (let s := sSv (.saved 0x40000000 65536)
       let w := wSv (.saved 0x40000000 65536)
       findWg s 2 = some w ∧ w.retired = false ∧ eligible s lSv = true ∧ together s w lSv = [w] ∧ lowestOut s w = true ∧ windowRun s 0x40000000 65536 = false ∧ runPoisoned s 0x40000000 65536 = false ∧ w.chk = none
       ∧ planStep s lSv s.arg.b [1] = some [0] ∧ mayTake s lSv [0] = true) :=
  ⟨by decide +kernel, by decide +kernel, by decide +kernel⟩

theorem test_saves : nextDo (exec .preempt sPre) (fun t => t.wgs.map (fun w => w.place) == [.saving]) = true
    ∧ nextDo (exec .saveComplete (sSv .saving)) (fun t => t.wgs.all isSaved && t.wgs.all (fun w => w.groups.all (fun g => !g.active))) = true
    ∧ nextDo (exec .restore (sSv (.saved 0x40000000 65536))) (fun t => t.wgs.map (fun w => (w.place, w.lcore, w.reloc.toNat)) == [(.live, 0, 0)]) = true := by decide +kernel

def ev (ph : EvacPhase) : Evac := { lcore := 0, src := 0, dst := 8, phase := ph }
def sEv (phs : List EvacPhase) (oos : Bool) : State :=
  { tSt tL tW tG tI with
    cur := none, parts := [(0, part1)], evacs := phs.map ev, cores := (List.range 288).map (fun i => { CoreSt.fresh with oos := oos, mon := if i = 0 then 3 :: zeroMonitor else zeroMonitor }),
    arg := EvArg.none }
theorem test_meets_CoresAreEvacuated : (sEv [] false).clk.toNat + 2 ^ 20 < 2 ^ 64
    ∧ (∀ oos, lcoreOf (sEv [] oos) (sEv [] oos).arg.a = some 0 ∧ corePart (sEv [] oos) 0 = some (0, part1) ∧ part1.errthr ≤ monCount (sEv [] oos) (sEv [] oos).arg.a
      ∧ (sEv [] oos).evacs.any (fun e => e.lcore == 0 && e.phase != .committed) = false ∧ chooseSpare (sEv [] oos) ((sEv [] oos).arg.a / 9) = if oos then none else some 8)
    ∧ (∀ ph, evacFrom (sEv [ph] false) (sEv [ph] false).arg.a ph = some (ev ph))
    ∧ (∀ w ∈ wgsOn (sEv [.prepare] false) 0, w.place ≠ .saving ∧ (∀ g ∈ w.groups, grpInside g = false) ∧ w.chk = none)
    ∧ (∀ w ∈ wgsOn (sEv [.paused] false) 0, (∀ g ∈ w.groups, speculative g = false ∧ grpInside g = false ∧ ∀ o ∈ g.ops, opBusy o = false) ∧ ∀ c ∈ w.cwords, isCrd c.kind = false)
    ∧ ((sEv [.transferred] false).remap[0]? = some Remap.zero ∧ ∀ v ∈ (sEv [.transferred] false).wgs, ∀ k ∈ (sEv [.transferred] false).wgs, v.id = k.id → v = k)
    ∧ (∀ w ∈ wgsOn (sEv [.transferred] false) 0, w.moveBad = false)
    ∧ ((sEv [] false).boot = .ready ∧ coreInUse (sEv [] false) 0 = true ∧ lcoreOf (sEv [] false) 0 = some 0 ∧ monCount (sEv [] false) 1 + 1 < part1.errthr)
    ∧ (wgsOn (sEv [.transferred] false) 0).length = 1 ∧ ((sEv [.committed] false).cores[0]?).isSome = true :=
  ⟨by decide, fun oos => by cases oos <;> decide +kernel, fun ph => by cases ph <;> decide, by decide, by decide, by decide +kernel, by decide, by decide +kernel, by decide, by decide⟩

theorem test_evacuation : nextDo (exec .monitorPeriodEnd (sEv [] false)) (fun t => now t == 2 ^ 20 && (t.cores.map (fun k => k.mon)).headD [] == (0 :: 3 :: zeroMonitor).take 16) = true
    ∧ nextDo (exec .thresholdCrossing (sEv [] false)) (fun t => t.evacs == [ev .prepare] && monCount t 0 == 0) = true
    ∧ nextDo (exec .thresholdCrossing (sEv [] true)) (fun t => t.evacs.isEmpty && isDegraded t 0 && t.outbox.length == 1) = true
    ∧ nextDo (exec .quiesce (sEv [.prepare] false)) (fun t => t.evacs == [ev .paused]) = true ∧ nextDo (exec .transfer (sEv [.paused] false)) (fun t => t.evacs == [ev .transferred]) = true
    ∧ nextDo (exec .commit (sEv [.transferred] false)) (fun t => physCore t 0 == 8 && t.evacs == [ev .committed] && t.wgs.map (fun w => w.reloc.toNat) == [1]) = true
    ∧ nextDo (exec .sourceOutOfService (sEv [.committed] false)) (fun t => t.evacs.isEmpty && (t.cores.map (fun k => k.oos)).headD false) = true := by decide +kernel

/-! ## Boot and management -/

/-- A request message of 32 bytes; the state is at a boot step, with nothing but that. -/
def rq (ty part : Nat) (a b c : Nat) : List Byte := rmsg ty part 9 ++ natToBytes 4 0 ++ natToBytes 8 a ++ natToBytes 8 b ++ natToBytes 8 c
def sBt (bt : Boot) (m : List Byte) : State := { State.reset with boot := bt, arg := { EvArg.none with msg := { cls := 0, bytes := m } } }
/-- An image of 17,120 bytes: its header says that the body has 16. -/
def sImg (n : Nat) : State := { sBt .waitImage (rq 1 0 0x1000 n 0) with compMem := smPutList [] 0x1008 (natToBytes 4 16) 0 }
def sIr (v fuse : Nat) : State := { sBt .imageRead [] with imgReq := some (9, 0x1000, 17120), sram := natToBytes 4 0 ++ natToBytes 4 v, fuseMin := BitVec.ofNat 32 fuse }

/-- An image older than the fuse passes no check; one that passes them all goes on to the dies. (What the fuses hold is not
known here, so that this is said of any image that passes.) -/
theorem test_meets_BootSteps_rejected : ∃ c, imageCheck (sIr 1 2).fuseMin (sIr 1 2).sram = some c := by
  unfold imageCheck
  dsimp only
  split
  · exact ⟨_, rfl⟩
  · rw [if_pos (by decide)]
    exact ⟨_, rfl⟩
theorem test_meets_BootSteps_verified (b : List Byte) (h1 : sha384 (slice b 0x40 384) = slice Config.fusedRsaKeyHash 0 48) (h2 : sha384 (slice b 0x1C0 48) = slice Config.fusedSlhKeyHash 0 48)
    (h3 : rsaPssVerify (slice b 0x40 384) (signedBytes b) (slice b 0x1F0 384) = true) (h4 : slhDsaVerify (slice b 0x1C0 48) (signedBytes b) (slice b 0x370 16224) = true)
    (h5 : slice (sha384 (b.drop imageBody)) 0 48 = slice b 0xC 48) : imageCheck 0 b = none := by
  simp [imageCheck, h1, h2, h3, h4, h5]

theorem test_meets_BootSteps : (sBt .off []).boot = .off ∧ (sBt .rom []).boot = .rom ∧ (sBt .dies []).boot = .dies ∧ (sBt .stks []).boot = .stks ∧ (sBt .memory []).boot = .memory
    ∧ linkUp (sBt .ready []) = true ∧ 105 ≤ ({ EvArg.none with a := 3, b := 105 } : EvArg).b
    ∧ (∀ n, n = 17103 ∨ n = 17120 ∨ n = 16777217 → let s := sImg n
        s.boot = .waitImage ∧ s.arg.msg.bytes.length = 32 ∧ req s 0 1 = 1 ∧ req s 1 1 = 0 ∧ req s 4 4 = 0 ∧ req s 8 8 % 64 = 0 ∧ req s 0x10 8 = n ∧ req s 0x18 8 = 0
        ∧ s.arg.msg.cls = 0 ∧ bytesToNat (compRead s (req s 8 8 + 8) 4) = 17120 - 17104)
    ∧ (sIr 1 2).boot = .imageRead ∧ (sIr 1 2).imgReq = some (9, 0x1000, 17120) ∧ EvArg.none.opt = none :=
  ⟨rfl, rfl, rfl, rfl, rfl, rfl, by decide, fun n h => by rcases h with rfl | rfl | rfl <;> decide +kernel, rfl, rfl, rfl⟩

def boots (o : Host.Outcome State Fault Refusal) (b : Boot) (codes : List Nat) : Bool := nextDo o (fun t => t.boot == b && t.outbox.map (fun m => (m.bytes.getD 4 0).toNat) == codes)
theorem test_boot : nextDo (exec .powerGood (sBt .off [])) (fun t => t.boot == .rom) = true ∧ boots (exec .trestleLinkUp (sBt .rom [])) .waitImage [1] = true
    ∧ boots (exec .imageLoad (sImg 17103)) .waitImage [3] = true ∧ boots (exec .imageLoad (sImg 17121)) .waitImage [3] = true ∧ boots (exec .imageLoad (sImg 17120)) .imageRead [] = true
    ∧ boots (exec .imageComplete { sIr 1 0 with arg := { EvArg.none with ok := false } }) .waitImage [12, 2, 1] = true
    ∧ boots (exec .diesUp (sBt .dies [])) .stks [] = true ∧ boots (exec .stacksTrained (sBt .stks [])) .memory [] = true
    ∧ boots (exec .stacksTrained { sBt .stks [] with arg := { EvArg.none with opt := some 3 } }) .stackFailed [3] = true ∧ boots (exec .memoryInitialised (sBt .memory [])) .waitMap [4] = true
    ∧ boots (exec .thermalWarning { sBt .config [] with arg := { EvArg.none with a := 3, b := 105 } }) .config [8] = true
    ∧ boots (exec .thermalTrip (sBt .ready [])) .off [] = true ∧ boots (exec .powerOff (sBt .ready [])) .off [] = true := by decide +kernel

/-- The block of a partition of die 1 with units 0 to 2, the last its reserve, its table in unit 0; one with a wrong magic number. -/
def pblk (magic dies units : Nat) : List Byte :=
  natToBytes 4 magic ++ natToBytes 4 0 ++ natToBytes 4 dies ++ natToBytes 4 0 ++ natToBytes 8 0x1000 ++ natToBytes 2 1 ++ natToBytes 6 0 ++ natToBytes 1 units ++ List.replicate 479 0
def sPd (busy : Bool) (b : List Byte) : State :=
  { sBt .config (rq 9 0 0x1000 0 0) with
    compMem := smPutList [] 0x1000 b 0, parts := if busy then [(0, part1)] else [], launches := if busy then [tL] else [] }

/-- What a good block describes. -/
def pPd (b : List Byte) (dies : BitVec 32) (u : BitVec 768) : Partition :=
  { block := b, errinj := false, errthr := 64, dies := dies, troot := 0x1000, rsvu := 1, units := u, nbmap := 0, peers := List.replicate 8 { links := 0, valid := false, part := 0 },
    lost := 255, reqs := [], ckpt := none }
def blkDef : List Byte := pblk 0x43524150 1 7
def blkDel : List Byte := pblk 0x43524150 0 0
theorem readDef : compRead (sPd false blkDef) 0x1000 512 = blkDef := by decide +kernel
theorem readDel : compRead (sPd false blkDel) 0x1000 512 = blkDel := by decide +kernel
theorem partDef : partOf (sPd false blkDef) blkDef = pPd blkDef 1 7 := by decide +kernel
theorem partDel : partOf (sPd false blkDel) blkDel = pPd blkDel 0 0 := by decide +kernel
theorem goodDef : blockBad (sPd false blkDef) 0 blkDef = false := by
  unfold blockBad
  rw [partDef]
  decide +kernel
theorem goodDel : blockBad (sPd false blkDel) 0 blkDel = false := by
  unfold blockBad
  rw [partDel]
  decide +kernel
theorem badBlk : blockBad (sPd false (pblk 0 1 7)) 0 (compRead (sPd false (pblk 0 1 7)) 0x1000 512) = true := by decide +kernel

theorem test_meets_ManagementRequests : (∀ b : Boot, b ≠ .off → b ≠ .rom → linkUp (sBt b []) = true)
    ∧ (∀ e ∈ [1, 5, 0xB, 0xD, 0xF, 0x11, 9], (rq e 0 0 0 0).length = 32 ∧ req (sBt .dies (rq e 0 0 0 0)) 0 1 = e)
    ∧ (step8 (sBt .dies []) = false ∧ ((sBt .dies []).boot == .waitImage) = false ∧ ((sBt .dies []).boot == .waitMap) = false ∧ ((sBt .dies []).boot == .config) = false)
    ∧ (∀ n, n = 0 ∨ n = 40 → let s := sBt .waitMap (rq 5 0 0x1000 n 0x2000)
        s.arg.msg.bytes.length = 32 ∧ req s 4 4 = 0 ∧ s.arg.msg.cls = 0 ∧ req s 1 1 = 0 ∧ req s 0 1 = 5 ∧ req s 8 8 % 64 = 0 ∧ req s 0x18 8 % 64 = 0 ∧ req s 0x10 8 = n ∧ n ≤ 4194304)
    ∧ applyMap { sBt .waitMap (rq 5 0 0x1000 40 0x2000) with boot := .config, mapBuf := 0x2000 } (compRead (sBt .waitMap (rq 5 0 0x1000 40 0x2000)) 0x1000 40) = none
    ∧ (∀ e, e = 0xB ∨ e = 0xD → let s := sBt .config (rq e 0 0x1000 (if e = 0xB then 0x2000 else 0) 0)
        s.arg.msg.bytes.length = 32 ∧ req s 0 1 = e ∧ step8 s = true ∧ req s 8 8 % 64 = 0 ∧ req s 0x10 8 % 64 = 0 ∧ req s 0x18 8 = 0 ∧ (e = 0xD → req s 0x10 16 = 0))
    ∧ (let s := { sBt .config (rq 0xF 0 5 0 0) with fuseMin := 3, fwVersion := 7 }
       req s 0 1 = 0xF ∧ step8 s = true ∧ req s 0xC 4 = 0 ∧ req s 0x10 16 = 0 ∧ s.fuseMin.toNat ≤ req s 8 4 ∧ req s 8 4 ≤ s.fwVersion.toNat
       ∧ req (sBt .config (rq 0xF 0 5 0 0)) 8 4 > (sBt .config (rq 0xF 0 5 0 0)).fwVersion.toNat)
    ∧ (let s := { sBt .config (rq 0x11 0 0 0 0) with parts := [(0, part1)] }
       req s 0 1 = 0x11 ∧ s.boot = .config ∧ req s 8 8 = 0 ∧ req s 0x10 16 = 0 ∧ s.parts ≠ [] ∧ (∀ k ∈ s.stks, ∀ i, i < 3 → ∀ u ∈ lowUnits k i, (i, u) ∈ k.lowTold)
       ∧ (sBt .config (rq 0x11 0 0 0 0)).parts = [])
    ∧ (∀ bu bl, bl = blkDef ∨ bl = blkDel ∨ bl = pblk 0 1 7 → let s := sPd bu bl
        s.arg.msg.bytes.length = 32 ∧ req s 0 1 = 9 ∧ step8 s = true ∧ req s 1 1 < 8 ∧ req s 8 8 % 64 = 0 ∧ req s 0x10 16 = 0 ∧ req s 4 4 = 0 ∧ s.arg.msg.cls = 0 ∧ partBusy s 0 = bu)
    ∧ blockBad (sPd false (pblk 0 1 7)) 0 (compRead (sPd false (pblk 0 1 7)) 0x1000 512) = true
    ∧ (∀ e, e = (blkDef, (1 : BitVec 32)) ∨ e = (blkDel, 0) → blockBad (sPd false e.1) 0 (compRead (sPd false e.1) 0x1000 512) = false
      ∧ (partOf (sPd false e.1) (compRead (sPd false e.1) 0x1000 512)).dies = e.2) := by
  refine ⟨fun b h1 h2 => by cases b <;> simp_all [linkUp, sBt], by decide, by decide, fun n h => by rcases h with rfl | rfl <;> decide, ?_, fun e h => by rcases h with rfl | rfl <;> decide,
    by decide, by decide +kernel, fun bu bl h => by cases bu <;> rcases h with rfl | rfl | rfl <;> decide +kernel, badBlk, fun e h => by
      rcases h with rfl | rfl
      · dsimp only
        rw [readDef, partDef]
        exact ⟨goodDef, rfl⟩
      · dsimp only
        rw [readDel, partDel]
        exact ⟨goodDel, rfl⟩⟩
  have : (compRead (sBt .waitMap (rq 5 0 0x1000 40 0x2000)) 0x1000 40).length < 48 := by decide +kernel
  unfold applyMap
  rw [if_pos (Or.inl this)]

theorem test_management : boots (exec .mapRestore (sBt .waitMap (rq 5 0 0x1000 0 0x2000))) .config [13, 5, 6] = true ∧ boots (exec .configDone (sBt .config (rq 0x11 0 0 0 0))) .config [14] = true
    ∧ boots (exec .configDone { sBt .config (rq 0x11 0 0 0 0) with parts := [(0, part1)], mapWait := some 3 }) .ready [0, 7] = true
    ∧ boots (exec .configDone { sBt .config (rq 0x11 0 0 0 0) with parts := [(0, part1)] }) .ready [0, 7] = true ∧ boots (exec .attest (sBt .dies (rq 0xB 0 0x1000 0x2000 0))) .dies [11] = true
    ∧ nextDo (exec .fuseMin { sBt .config (rq 0xF 0 5 0 0) with fuseMin := 3, fwVersion := 7 }) (fun t => t.fuseMin == 5) = true ∧ boots (exec .fuseMin (sBt .config (rq 0xF 0 5 0 0))) .config [14] = true
    ∧ boots (exec .deviceId (sBt .dies (rq 0xD 0 0x1000 0 0))) .dies [11] = true
    ∧ findPart (applyBlock (sPd false blkDef) 0 blkDef) 0 = some (pPd blkDef 1 7) ∧ findPart (applyBlock (sPd true blkDel) 0 blkDel) 0 = none
    ∧ boots (exec .partDefine (sPd true blkDef)) .config [15] = true ∧ boots (exec .partDefine (sPd false (pblk 0 1 7))) .config [14] = true := by decide +kernel

/-! ## From outside -/

def sOu (r : PeerReq) : State :=
  { State.reset with
    boot := .ready, links := modifyAt State.reset.links 0 (fun _ => { up := true, inc := 5 }), mem := smPutList [] 0x100 [1, 2, 3, 4] 0, parts := [(0, part1)],
    arg := { EvArg.none with a := 0, b := 4, bytes := [9, 8], req := r } }
def ckp (moved : Nat) : Ckpt := { seq := 7, va := 0x30000, len := 65536, dst := 0x4000, moved := moved, poisoned := 2 }
def sCkp (moved : Nat) (tlb : List TlbEntry) : State :=
  { State.reset with
    boot := .ready, parts := [(0, { part1 with ckpt := some (ckp moved) })], mem := smPutList [] (0x50000 + 65472) [7] 0,
    dies := modifyAt State.reset.dies 0 (fun _ => { tlb := tlb }), arg := { EvArg.none with msg := { cls := 3, bytes := rq 0x61 0 0x30000 65536 0x4000 } } }

theorem reachOu (a n : Nat) (h : reachable (sOu (.read 0 0)) a n = true) (r : PeerReq) : reachable (sOu r) a n = true := h

theorem test_meets_OutsideAccesses : (∀ r, reachable (sOu r) (sOu r).arg.a (sOu r).arg.bytes.length = true ∧ reachable (sOu r) (sOu r).arg.a (sOu r).arg.b = true
      ∧ (sOu r).links[(sOu r).arg.a]? = some { up := true, inc := 5 } ∧ reachable (sOu r) 0x100 4 = true ∧ reachable (sOu r) 0x100 2 = true ∧ reachable (sOu r) 0x100 8 = true
      ∧ anyBad (memRead (sOu r) 0x100 4) = false ∧ ∀ w ∈ (sOu r).wgs, isSaved w = false)
    ∧ anyBad (memRead { sOu (.read 0 0) with memPoison := [(0x101, true)] } 0x100 4) = true
    ∧ (linkUp (sCkp 0 []) = true ∧ (sCkp 0 []).arg.msg.bytes.length = 32 ∧ req (sCkp 0 []) 0 1 = 0x61 ∧ findPart { sCkp 0 [] with parts := [] } 0 = none
      ∧ findPart (sCkp 0 []) (req (sCkp 0 []) 1 1) = some { part1 with ckpt := some (ckp 0) } ∧ findPart { sCkp 0 [] with parts := [(0, part1)] } 0 = some part1 ∧ part1.ckpt = none
      ∧ req (sCkp 0 []) 4 4 = 0 ∧ req (sCkp 0 []) 8 8 % 65536 = 0 ∧ req (sCkp 0 []) 0x10 8 % 65536 = 0 ∧ req (sCkp 0 []) 0x10 8 ≠ 0 ∧ req (sCkp 0 []) 0x18 8 % 64 = 0 ∧ (sCkp 0 []).arg.msg.cls = 3)
    ∧ ((ckp 65536).len ≤ (ckp 65536).moved ∧ (ckp 64).moved < (ckp 64).len ∧ (translate (sCkp 64 []) (unitDie (sCkp 64 []) 0) 0 ((ckp 64).va + (ckp 64).moved)).1 = none)
    ∧ ((ckp 65472).moved + 64 = (ckp 65472).len ∧ ∃ q s1, translate (sCkp 65472 [tlbE]) (unitDie (sCkp 65472 [tlbE]) 0) 0 ((ckp 65472).va + (ckp 65472).moved) = (some q, s1)
      ∧ q.peer = none ∧ stalledFor s1 3 q.pa = false) :=
  ⟨fun r => ⟨reachOu 0 2 (by decide +kernel) r, reachOu 0 4 (by decide +kernel) r, rfl, reachOu 0x100 4 (by decide +kernel) r, reachOu 0x100 2 (by decide +kernel) r, reachOu 0x100 8 (by decide +kernel) r, rfl, fun w h => nomatch (show w ∈ ([] : List Workgroup) from h)⟩, by decide, by decide +kernel, ⟨by decide, by decide, by decide +kernel⟩, rfl, _, _, by rfl, by rfl, by rfl⟩

theorem test_outside : nextDo (exec .companionWrite (sOu (.read 0 0))) (fun t => memBytes t 0 2 == [9, 8]) = true
    ∧ nextDo (exec .companionRead { sOu (.read 0 0) with arg := { EvArg.none with a := 0x100, b := 3 } }) (fun t => t.answers == [(0, [(1, false), (2, false), (3, false)])]) = true
    ∧ nextDo (exec .peerAccess (sOu (.atomic 0 4 0x100 1 0))) (fun t => memBytes t 0x100 4 == [2, 2, 3, 4] && t.answers == [(1, [(1, false), (2, false), (3, false), (4, false)])]) = true
    ∧ nextDo (exec .peerAccess (sOu (.write 0x102 [0xAA]))) (fun t => memBytes t 0x100 4 == [1, 2, 0xAA, 4]) = true
    ∧ nextDo (exec .checkpoint { sCkp 0 [] with parts := [(0, part1)] }) (fun t => (findPart t 0).map (fun p => p.ckpt.map (fun k => (k.len, k.dst))) == some (some (65536, 0x4000))) = true
    ∧ nextDo (exec .checkpointEnd (sCkp 65472 [tlbE])) (fun t => compRead t (0x4000 + 65472) 1 == [7] && (findPart t 0).map (fun p => p.ckpt) == some none && t.outbox.length == 1) = true := by
  decide +kernel

/-- Partition 0's peer 0 is bound over link 0, which is up, down, or up with incarnation 5. -/
def pLost : Partition := { part1 with lost := 1 }
def sPu (m : List Byte) : State := { sOu (.read 0 0) with parts := [(0, pLost)], arg := { EvArg.none with msg := { cls := 0, bytes := m } } }
def mPu (part inc : Nat) : List Byte := rmsg 0x71 part 9 ++ natToBytes 4 0 ++ natToBytes 4 0 ++ natToBytes 4 inc ++ natToBytes 16 0
theorem test_meets_PeersComeAndGo : ((sOu (.read 0 0)).boot ≠ .off ∧ (sOu (.read 0 0)).links[1]? = some { up := false, inc := 0 } ∧ (0 : Nat) < 8)
    ∧ (findPart (sOu (.read 0 0)) 0 = some part1 ∧ part1.peers[0]? = some { links := 1, valid := true, part := 0 }
      ∧ ∀ i, i < 8 → (1 : BitVec 8).getLsbD i = true → i = 0)
    ∧ (∀ inc, inc = 5 ∨ inc = 6 → linkUp (sPu (mPu 0 inc)) = true ∧ (mPu 0 inc).length = 32 ∧ req (sPu (mPu 0 inc)) 0 1 = 0x71 ∧ findPart (sPu (mPu 0 inc)) (req (sPu (mPu 0 inc)) 1 1) = some pLost
      ∧ pLost.peers[req (sPu (mPu 0 inc)) 8 1]? = some { links := 1, valid := true, part := 0 } ∧ req (sPu (mPu 0 inc)) 4 4 = 0 ∧ req (sPu (mPu 0 inc)) 9 3 = 0 ∧ req (sPu (mPu 0 inc)) 0x10 16 = 0
      ∧ req (sPu (mPu 0 inc)) 0xC 4 = inc ∧ (sPu (mPu 0 inc)).links[0]? = some { up := true, inc := 5 })
    ∧ findPart (sPu (mPu 1 5)) (req (sPu (mPu 1 5)) 1 1) = none :=
  ⟨by decide, ⟨rfl, rfl, by decide⟩, fun inc h => by rcases h with rfl | rfl <;> decide +kernel, by decide⟩

theorem test_peers : nextDo (exec .peerLinkUp { sOu (.read 0 0) with arg := { EvArg.none with a := 1, b := 8 } }) (fun t => t.links[1]? == some { up := true, inc := 8 }) = true
    ∧ nextDo (exec .peerLinkDown (sOu (.read 0 0))) (fun t => (findPart t 0).map (fun p => p.lost.toNat) == some 1 && t.links[0]?.map (fun x => x.up) == some false) = true
    ∧ nextDo (exec .peerLoss { sOu (.read 0 0) with arg := { EvArg.none with a := 0, b := 0 } }) (fun t => (findPart t 0).map (fun p => p.lost.toNat) == some 1) = true
    ∧ nextDo (exec .peerUp (sPu (mPu 0 5))) (fun t => (findPart t 0).map (fun p => p.lost.toNat) == some 0) = true
    ∧ nextDo (exec .peerUp (sPu (mPu 0 6))) (fun t => (findPart t 0).map (fun p => p.lost.toNat) == some 1) = true := by decide +kernel

/-! ## Decoding (R48-R62, R270)

Every word below is written out field by field from the formats and the opcode maps of the manual: G = 5, D = 0x11, A = 0x06, B = 0x23 and so on. -/

def fl (c : BitVec 8) : Fld := Fld.mk c 0
def dA : FmtA := { g := 5, d := 0x11, a := fl 0x06, b := fl 0x23 }
def dAX : FmtAX := { g := 5, d := 0x11, a := fl 0x06, b := fl 0x23, c := fl 0x31, ty := 2, sty := 9, rnd := 1, neg := 5, abs := 2, sat := true, fs := false, wide := true, md := 0x13 }
def dI : FmtI := { g := 5, d := 0x11, imm := 0x8123 }
def dM : FmtM := { g := 5, d := 0x11, buf := 9, sz := 2, fs := true, idx := fl 0x06, off := 0xFFF8, aop := 3, nt := true, spl := false, sx := true, data := fl 0x23 }
def dC (m : BitVec 5) : FmtC := { g := 5, d := 0x11, a := fl 0x06, b := fl 0x23, c := fl 0x31, e := fl 0x42, vw := 2, q := 5, qen := true, fs := false, md := m }
def dJ : FmtJ := { g := 5, d := 0x11, cp := 0xB, a := fl 0x06, tgt := 0xFFFE, rj := 0x10 }
def dY (k : BitVec 8) : FmtY := { g := 5, d := 0x11, a := fl 0x06, k := k }
def dYX : FmtYX := { g := 5, d := 0x11, a := fl 0x06, k := 0x23, imm := 0x12345678 }
def dR (imm : BitVec 14) : FmtR := { d := 5, a := 2, b := 6, m := 3, t := 2, imm := imm }

/-- Each list of words decodes to its instruction, whole. -/
def decodes (cls : BitVec 3) (l : List (List Word × Instr)) : Bool := l.all (fun e => (decode cls e.1).map (fun d => (d.i, d.len)) == some (e.2, e.1.length))

theorem test_decodes_int : decodes 0
  [([0x02910623, 0x31296AB3], .iadd dAX), ([0x06910623, 0x31296AB3], .iaddc dAX), ([0x0A910623, 0x31296AB3], .isub dAX), ([0x0E910623, 0x31296AB3], .isubb dAX),
   ([0x12910623, 0x31296AB3], .imul dAX), ([0x16910623, 0x31296AB3], .imulh dAX), ([0x1A910623, 0x31296AB3], .imad dAX), ([0x1E910623, 0x31296AB3], .idiv dAX),
   ([0x22910623, 0x31296AB3], .irem dAX), ([0x26910623, 0x31296AB3], .imin dAX), ([0x2A910623, 0x31296AB3], .imax dAX), ([0x2E910623, 0x31296AB3], .iabs dAX),
   ([0x32910623, 0x31296AB3], .ineg dAX), ([0x36910623], .and dA), ([0x3A910623], .or dA), ([0x3E910623], .xor dA),
   ([0x42910623], .andn dA), ([0x46910623], .not dA), ([0x4A910623, 0x31296AB3], .shl dAX), ([0x4E910623, 0x31296AB3], .shr dAX),
   ([0x52910623, 0x31296AB3], .sar dAX), ([0x56910623], .rol dA), ([0x5A910623], .popc dA), ([0x5E910623], .clz dA),
   ([0x62910623], .ctz dA), ([0x66910623], .brev dA), ([0x6A910623, 0x31296AB3], .bfx dAX), ([0x6E910623, 0x31296AB3], .bfi dAX),
   ([0x72910623, 0x31296AB3], .bmix dAX), ([0x76910623, 0x31296AB3], .isat dAX), ([0x7A910623, 0x31296AB3], .vcmp dAX), ([0x7E910623, 0x31296AB3], .vsel dAX),
   ([0x82910623], .pand dA), ([0x86910623], .por dA), ([0x8A910623], .pxor dA), ([0x8E910623], .pnot dA),
   ([0x92910623], .pmov dA), ([0x96910623], .pany dA), ([0x9A910623], .pall dA), ([0x9E910623], .pcnt dA),
   ([0xA2910623], .pset dA), ([0xA6910623], .mov dA), ([0xAA918123], .movi dI), ([0xAE910623], .movs dA),
   ([0xB2910623], .rdln dA), ([0xB6910623], .wrln dA), ([0xBA910623], .qswp dA), ([0xBE910623], .qbc dA),
   ([0xC2910623], .gshf dA), ([0xC6910623], .gbc dA), ([0xCA910623, 0x31296AB3], .gred dAX), ([0xCE910623, 0x31296AB3], .gscn dAX),
   ([0xD2910623], .ballot dA)] = true := by decide +kernel

theorem test_decodes_flt : decodes 1
  [([0x02910623], .fadd dA), ([0x82910623, 0x31296AB3], .faddAx dAX), ([0x06910623], .fmul dA), ([0x86910623, 0x31296AB3], .fmulAx dAX),
   ([0x8A910623, 0x31296AB3], .ffma dAX), ([0x0E910623], .fmin dA), ([0x8E910623, 0x31296AB3], .fminAx dAX), ([0x12910623], .fmax dA),
   ([0x92910623, 0x31296AB3], .fmaxAx dAX), ([0x16910623], .fdiv dA), ([0x96910623, 0x31296AB3], .fdivAx dAX), ([0x1A910623], .frcp dA),
   ([0x9A910623, 0x31296AB3], .frcpAx dAX), ([0x1E910623], .frsq dA), ([0x9E910623, 0x31296AB3], .frsqAx dAX), ([0x22910623], .fsqrt dA),
   ([0xA2910623, 0x31296AB3], .fsqrtAx dAX), ([0x26910623], .fexp2 dA), ([0xA6910623, 0x31296AB3], .fexp2Ax dAX), ([0x2A910623], .flog2 dA),
   ([0xAA910623, 0x31296AB3], .flog2Ax dAX), ([0x2E910623], .fsin dA), ([0xAE910623, 0x31296AB3], .fsinAx dAX), ([0x32910623], .fcos dA),
   ([0xB2910623, 0x31296AB3], .fcosAx dAX), ([0x36910623], .ftanh dA), ([0xB6910623, 0x31296AB3], .ftanhAx dAX), ([0x3A910623], .frnd dA),
   ([0xBA910623, 0x31296AB3], .frndAx dAX), ([0x3E910623], .fscl dA), ([0xBE910623, 0x31296AB3], .fsclAx dAX), ([0x42910623], .fxtr dA),
   ([0xC2910623, 0x31296AB3], .fxtrAx dAX), ([0x46910623], .fcls dA), ([0xC6910623, 0x31296AB3], .fclsAx dAX), ([0xCA910623, 0x31296AB3], .fcmp dAX),
   ([0x4E910623], .padd dA), ([0xCE910623, 0x31296AB3], .paddAx dAX), ([0x52910623], .pmul dA), ([0xD2910623, 0x31296AB3], .pmulAx dAX),
   ([0xD6910623, 0x31296AB3], .pfma dAX), ([0xDA910623, 0x31296AB3], .fdot4 dAX), ([0xDE910623, 0x31296AB3], .cvt dAX), ([0xE2910623, 0x31296AB3], .cvti dAX),
   ([0xE6910623, 0x31296AB3], .cvtm dAX), ([0x6A910623], .tmv dA), ([0xEA910623, 0x31296AB3], .tmvAx dAX)] = true := by decide +kernel

theorem test_decodes_scl : decodes 2
  [([0x02910623], .sadd dA), ([0x82910623, 0x31296AB3], .saddAx dAX), ([0x06910623], .ssub dA), ([0x86910623, 0x31296AB3], .ssubAx dAX),
   ([0x0A910623], .smul dA), ([0x8A910623, 0x31296AB3], .smulAx dAX), ([0x0E910623], .sand dA), ([0x12910623], .sor dA),
   ([0x16910623], .sxor dA), ([0x1A910623], .sshl dA), ([0x9A910623, 0x31296AB3], .sshlAx dAX), ([0x1E910623], .sshr dA),
   ([0x9E910623, 0x31296AB3], .sshrAx dAX), ([0x22910623], .ssar dA), ([0xA2910623, 0x31296AB3], .ssarAx dAX), ([0xA6910623, 0x31296AB3], .scmp dAX),
   ([0x2A910623], .smov dA), ([0xAA910623, 0x31296AB3], .smovAx dAX), ([0x2E918123], .smovi dI), ([0xB2910623, 0x31296AB3], .ssel dAX),
   ([0x36910623], .smin dA), ([0xB6910623, 0x31296AB3], .sminAx dAX), ([0x3A910623], .smax dA), ([0xBA910623, 0x31296AB3], .smaxAx dAX),
   ([0x3E910623], .sldc dA), ([0x42919506, 0xFFF81D23], .sld dM), ([0x46918123], .srd dI), ([0x4A918123], .swr dI)] = true := by decide +kernel

theorem test_decodes_mem : decodes 3
  [([0x02919506, 0xFFF81D23], .ld dM), ([0x06919506, 0xFFF81D23], .st dM), ([0x0A919506, 0xFFF81D23], .ldx dM), ([0x0E919506, 0xFFF81D23], .stx dM),
   ([0x12919506, 0xFFF81D23], .ldc dM), ([0x16919506, 0xFFF81D23], .ldm dM), ([0x1A919506, 0xFFF81D23], .stm dM), ([0x1E919506, 0xFFF81D23], .atom dM),
   ([0x22919506, 0xFFF81D23], .atomn dM), ([0x26919506, 0xFFF81D23], .red dM), ([0x2A919506, 0xFFF81D23], .atomm dM), ([0x2E919506, 0xFFF81D23], .pref dM),
   ([0x32919506, 0xFFF81D23], .brec dM), ([0x36919506, 0xFFF81D23], .bchk dM), ([0x3A919506, 0xFFF81D23], .probe dM), ([0x3E910623], .rjn (dY 0x23))] = true := by decide +kernel

theorem test_decodes_cnv : decodes 4
  [([0x02910623, 0x3142AD40], .cmode (dC 0x14)), ([0x06910623, 0x3142AD40], .cbind (dC 0x14)), ([0x0A910623, 0x3142AD40], .czero (dC 0x14)), ([0x0E910623, 0x3142AD40], .cmma (dC 0x14)),
   ([0x12910623, 0x3142AD40], .cmmas (dC 0x14)), ([0x16910623, 0x3142AD40], .cacc (dC 0x14)), ([0x1A910623, 0x3142AD40], .crd (dC 0x14)), ([0x1E910623, 0x3142AD40], .cswp (dC 0x14)),
   ([0x22910623, 0x3142AD40], .cstat (dC 0x14)), ([0x26910623, 0x3142AD40], .cpin (dC 0x14)), ([0x2A910623, 0x3142AD40], .cunp (dC 0x14)), ([0x2E910623, 0x3142AD40], .cpy (dC 0x14)),
   ([0x32910623, 0x3142AD40], .cpyw (dC 0x14)), ([0x36910623, 0x3142AD40], .cpymBox (dC 0x14)), ([0x36910623, 0x3142AD60], .cpymTile (dC 0x16)), ([0x3A910623, 0x3142AD40], .cpys (dC 0x14)),
   ([0x3E910623, 0x3142AD40], .cpyc (dC 0x14)), ([0x42910623, 0x3142AD40], .sopn (dC 0x14)), ([0x46910623, 0x3142AD40], .sadv (dC 0x14)), ([0x4A910623, 0x3142AD40], .stnd (dC 0x14)),
   ([0x4E910623, 0x3142AD40], .scls (dC 0x14)), ([0x52910623, 0x3142AD40], .sget (dC 0x14))] = true := by decide +kernel

theorem test_decodes_ctl : decodes 5
  [([0x0291B006, 0xFFFE0010], .br dJ), ([0x0691B006, 0xFFFE0010], .bru dJ), ([0x0A91B006, 0xFFFE0010], .bri dJ), ([0x0E91B006, 0xFFFE0010], .briu dJ),
   ([0x1291B006, 0xFFFE0010], .call dJ), ([0x1691B006, 0xFFFE0010], .calli dJ), ([0x1E91B006, 0xFFFE0010], .loop dJ), ([0x1A910623], .ret (dY 0x23)),
   ([0x22910623], .exit (dY 0x23)), ([0x26910623], .nop (dY 0x23)), ([0x2A910623], .yield (dY 0x23)), ([0x2E910623], .sleep (dY 0x23)),
   ([0x32910623], .bkpt (dY 0x23))] = true := by decide +kernel

theorem test_decodes_syn : decodes 6
  [([0x02910623], .phini (dY 0x23)), ([0x06910623], .phreg (dY 0x23)), ([0x0A910623], .phdrp (dY 0x23)), ([0x0E910623], .pharr (dY 0x23)),
   ([0x12910623], .phwt (dY 0x23)), ([0x16910623], .phaw (dY 0x23)), ([0x1A910623], .phexp (dY 0x23)), ([0x1E910623], .phqry (dY 0x23)),
   ([0x22910623], .bar (dY 0x23)), ([0x26910623], .bart (dY 0x23)), ([0x2A910623], .bard (dY 0x23)), ([0x12910663], .phwtOut (dY 0x63)),
   ([0x2E910623, 0x12345678], .waitf dYX), ([0x32910623], .fence (dY 0x23)), ([0x36910623, 0x12345678], .mcall dYX), ([0x3A910623], .waitj (dY 0x23)),
   ([0x3E910600], .jmskSet (dY 0)), ([0x3E910601], .jmskOr (dY 1)), ([0x3E910602], .jmskClr (dY 2)), ([0x3E910603], .jmskRd (dY 3))] = true := by decide +kernel

theorem test_decodes_sys : decodes 7
  [([0x02910623], .trap (dY 0x23)), ([0x06910600], .rftRet (dY 0)), ([0x06910601], .rftRetry (dY 1)), ([0x06910602], .rftSkip (dY 2)),
   ([0x0A910623], .launch (dY 0x23)), ([0x0E910623], .lwait (dY 0x23)), ([0x12910623], .qloc (dY 0x23)), ([0x16910623], .qlep (dY 0x23)),
   ([0x1A910623], .cut (dY 0x23)), ([0x1E910623], .qspr (dY 0x23)), ([0x22910600], .icinvCore (dY 0)), ([0x22910601], .icinvLaunch (dY 1)),
   ([0x26910600], .erriRegc (dY 0)), ([0x26910601], .erriRegu (dY 1)), ([0x26910602], .erriCvc (dY 2)), ([0x26910603], .erriCvu (dY 3)),
   ([0x26910604], .erriRes (dY 4)), ([0x26910605], .erriClone (dY 5))] = true := by decide +kernel

theorem test_decodes_rod : ([
   (0x055B9A5B, .ract (dR 0x1A5B)), (0x0D5B9A5B, .rldv (dR 0x1A5B)), (0x155B9A5B, .rwr (dR 0x1A5B)), (0x1D5B9A5B, .rmac (dR 0x1A5B)),
   (0x255B9A5B, .radd (dR 0x1A5B)), (0x2D5B9A5B, .rmul (dR 0x1A5B)), (0x355B9A5B, .rscl (dR 0x1A5B)), (0x3D5B9A5B, .rcmp (dR 0x1A5B)),
   (0x455B9A5B, .rsel (dR 0x1A5B)), (0x4D5B9A58, .rmskAnd (dR 0x1A58)), (0x4D5B9A59, .rmskOr (dR 0x1A59)), (0x4D5B9A5A, .rmskAndn (dR 0x1A5A)),
   (0x4D5B9A5B, .rmskLd (dR 0x1A5B)), (0x555B9A5B, .rskp (dR 0x1A5B)), (0x5D5B9A5B, .rsum (dR 0x1A5B)), (0x655B9A5B, .rloop (dR 0x1A5B)),
   (0x6D5B9A5B, .rend (dR 0x1A5B)), (0x755B9A5B, .ired (dR 0x1A5B)), (0x7D5B9A5B, .xred (dR 0x1A5B)), (0x855B9A5B, .fill (dR 0x1A5B))] : List (Word × Instr)).all (fun e => decodeRod e.1 == some e.2) = true := by decide +kernel

/-- Literals follow in the order A, B, C, E (R46); an unassigned opcode decodes to nothing; a nonzero field that must be zero is told. -/
theorem test_decodes_literals : (decode 0 [0x1B85FFFF, 0xFF200000, 1, 2, 3]).map Dec.i = some (.imad { fX 2 (lit 1) (lit 2) (lit 3) with g := 7, d := 5 })
    ∧ (decode 3 [0x078024FF, 0x000000FF, 7, 8]).map Dec.i = some (.st { fM (lit 7) (lit 8) with d := 0 })
    ∧ (decode 5 [0x03801F00, 0x00050010]).map Dec.rsv = some true ∧ (decode 5 [0x03801000, 0x00050010]).map Dec.rsv = some false
    ∧ decode 0 [0xD4000000] = none ∧ decode 1 [0x08000000] = none ∧ decode 2 [0x4C000000] = none ∧ decode 3 [0x40000000] = none ∧ decode 4 [0x54000000, 0] = none
    ∧ decode 5 [0x34000000] = none ∧ decode 6 [0x40000000] = none ∧ decode 7 [0x28000000] = none ∧ decodeRod 0x88000000 = none := by decide +kernel

/-- A word of the table, as the host asks for it, and the step that runs it first after reset. -/
theorem test_table_word : decodeTableWord 32 0x358601CF = (decode 0 [0x358601CF]).map Dec.i
    ∧ nextDo (step (State.reset.withFetchWord 32 0x37860101)) (fun t => t.launches.length == 1 && t.agenda.isEmpty) = true := by decide +kernel

/-! ## Well-formed instructions -/

def vw0 : List Word := [0, 0, 0, 0]
/-- A well-formed word of each kind. -/
theorem test_well_formed : (Instr.iadd (fX 2 (lit 5) (vr 1) (vr 0))).wellFormed 16 vw0 = true ∧ (Instr.ballot { fA (vr 3) (vr 0) with d := 4 }).wellFormed 16 vw0 = true
    ∧ (Instr.ret { fY (vr 1) 0 with d := 0 }).wellFormed 16 vw0 = true ∧ (Instr.rmskOr (fR 1 2 3 0 0 1)).wellFormed 16 vw0 = true
    ∧ (Instr.rend (fR 0 0 0 0 0 0)).wellFormed 16 vw0 = true := by decide +kernel

/-- A literal where no word follows for it (litsOk). -/
theorem test_ill_formed_literal : (Instr.iadd (fX 2 (vr 1) (Fld.mk 2 5) (vr 0))).wellFormed 16 vw0 = false ∧ (Instr.iadd (fX 2 (vr 1) (Fld.mk 2 0) (vr 0))).wellFormed 16 vw0 = true := by
  decide +kernel
/-- The bits that pick a form are another form's (selOk). -/
theorem test_ill_formed_form : (Instr.rmskOr (fR 1 2 3 0 0 2)).wellFormed 16 vw0 = false ∧ (Instr.phwt { fY (lit 16) 0x40 with d := 0 }).selOk = false := by decide +kernel
/-- Subcodes of R63 (subcodes): a register beyond VCOUNT; a modifier the word has not; a guarded SCL word; a pair at an odd register; a reserved size. -/
theorem test_ill_formed_subcode : (Instr.iadd { fX 2 (vr 1) (vr 2) (vr 0) with d := 16 }).wellFormed 16 vw0 = false
    ∧ (Instr.iadd { fX 2 (vr 1) (vr 2) (vr 0) with md := 1 }).wellFormed 16 vw0 = false ∧ (Instr.sadd { fA (cst 1) (cst 2) with g := 0 }).wellFormed 16 vw0 = false
    ∧ (Instr.iadd { fX 3 (vr 2) (vr 4) (vr 0) with d := 5 }).wellFormed 16 vw0 = false ∧ (Instr.ld { fM (vr 1) (vr 0) with sz := 5 }).wellFormed 16 vw0 = false := by decide +kernel
/-- A frame word with a nonzero unused field (rodUnused). -/
theorem test_ill_formed_rod : (Instr.rend (fR 1 0 0 0 0 0)).wellFormed 16 vw0 = false ∧ (Instr.ract (fR 1 0 0 0 0 0)).wellFormed 16 vw0 = false := by decide +kernel

/-! ## The machine as a whole -/

theorem test_meets_BallotSumsItsLanes : (Instr.ballot { fA (vr 3) (vr 0) with d := 4 }).wellFormed 16 vw0 = true ∧ Issues s0 7 x0 ∧ LaneFree s0 x0 [] true :=
  ⟨by decide +kernel, issues0, laneFree0 _ _⟩
theorem test_meets_ReturnIsAnIndirectBranch : (Instr.ret { fY (vr 1) 0 with d := 0 }).wellFormed 16 vw0 = true
    ∧ (fJ 7 (vr 1)).g = (fY (vr 1) 0).g ∧ (fJ 7 (vr 1)).a = (fY (vr 1) 0).a ∧ ({ fJ 7 (vr 1) with rj := 0 } : FmtJ).rj = 0 := by decide +kernel
theorem test_meets_StepsKeepMemoryCanonical : Memory.wf (sOu (.write 0x102 [0])).mem = true
    ∧ nextDo (step { sOu (.write 0x102 [0]) with agenda := [.event .peerAccess (sOu (.write 0x102 [0])).arg] }) (fun t => t.mem.length == 3 && Memory.wf t.mem) = true := by decide +kernel

/-- Group 0's gang stands at a clause of one AND word, which the agenda has it issue; a call runs a REND; a row that is no word. -/
def cAnd : Clause := { soleClause 0 [0x37860101] with len := 1 }
def gAnd : Group := (soleWg State.reset 2 tL cAnd).groups.headD tG
def sAnd : State := { tSt tL tW gAnd tI with cur := none, agenda := [.issue 2 0 0 false] }
def xAnd : Stand := { quads := 0xF, run := 0xFFFF, clause := cAnd, idx := 0, replay := false }
def decAnd : Dec := { i := .and { fA (vr 1) (vr 1) with d := 6 }, len := 1, rsv := false }
def sRun : State := { sR { cR with prog := [0x68000000] } with curCall := none, agenda := [.frame 3] }
/-- A launch message waits behind another of its class. -/
def sHeld : State := { sBt .ready [] with inbox := [(.companionWrite, EvArg.none)], agenda := [.event .launchMessage EvArg.none] }
theorem test_meets_StepsRunTheDecodedInstruction : (let s1 := wakeCut (wakeGrp { sAnd with agenda := [] } 2 0) 2 0 0
      findWg s1 2 = some { tW with groups := [gAnd] } ∧ findLaunch s1 tW.launch = some tL ∧ gAnd.active = true ∧ quadReady s1 { tW with groups := [gAnd] } gAnd 0 = true)
    ∧ (standOf gAnd 0).map (fun x => (x.quads, x.run, x.clause, x.idx, x.replay)) = some (xAnd.quads, xAnd.run, xAnd.clause, xAnd.idx, xAnd.replay)
    ∧ decode xAnd.clause.cls (xAnd.clause.words.drop xAnd.idx) = some decAnd ∧ wordSub tL.vcount tL.vw decAnd = none ∧ unsettled gAnd xAnd.quads = false
    ∧ (∃ c, findCall sRun 3 = some c ∧ c.st = .running ∧ c.yld = none ∧ atYield c = false ∧ c.fpc < c.nw ∧ c.prog[c.fpc]? = some 0x68000000)
    ∧ decodeRod 0x68000000 = some (.rend (fR 0 0 0 0 0 0)) ∧ encode .diesUp = []
    ∧ (sHeld.agenda = .event .launchMessage EvArg.none :: [] ∧ encode .launchMessage = [] ∧ inOrder .launchMessage = true ∧ ∃ e ∈ sHeld.inbox, inOrder e.1 = true ∧ e.2.msg.cls = EvArg.none.msg.cls)
    ∧ accessWaits (shut (sOu (.read 0 0)) 0) .companionWrite (sOu (.read 0 0)).arg = true ∧ accessWaits (sOu (.read 0 0)) .companionWrite (sOu (.read 0 0)).arg = false :=
  ⟨by decide +kernel, by decide +kernel, by decide +kernel, by decide +kernel, by decide, ⟨_, rfl, rfl, rfl, by decide, by decide, rfl⟩, by decide, rfl,
    ⟨rfl, rfl, by decide, _, List.mem_singleton.mpr rfl, by decide, rfl⟩, by decide +kernel⟩

theorem test_steps : nextDo (step sAnd) (fun t => t.cur.isNone && t.agenda.isEmpty && grp0 t (fun g => g.quads.all (fun q => q.pc != 4))) = true
    ∧ nextDo (step sRun) (fun t => t.curCall.isNone && t.calls.map (fun c => c.st == .ending) == [true]) = true
    ∧ nextDo (step { sBt .dies [] with agenda := [.event .diesUp EvArg.none] }) (fun t => t.boot == .stks) = true
    ∧ nextDo (step State.reset) (fun t => t.turn == 1) = true := by decide +kernel

theorem test_meets_DecodingInvertsEncoding : (clsOf (.iadd (fX 2 (lit 5) (vr 1) (vr 0))) = some 0 ∧ (Instr.iadd (fX 2 (lit 5) (vr 1) (vr 0))).wellFormed 16 vw0 = true)
    ∧ (clsOf (.rend (fR 0 0 0 0 0 0)) = none ∧ encode (.rend (fR 0 0 0 0 0 0)) = [0x68000000] ∧ (Instr.rend (fR 0 0 0 0 0 0)).wellFormed 16 vw0 = true) ∧ (hdrOf 0x50009FE0).len < 16 := by
  decide +kernel

end Sys2Proof.Tests
end

/-! What one step of the machine does with the stimulus that stands first: the word of a gang that may issue, the word of a
running frame call, and the event that is performed or waits (O58). -/
namespace Sys2Proof.Machine

/-! ## What follows a meaning -/

@[simp] theorem andThen_next (s : State) (f : State → State) : andThen (.next s) f = .next (f s) := rfl

theorem andThen_andThen (o : Host.Outcome State Fault Refusal) (f h : State → State) :
    andThen (andThen o f) h = andThen o (fun t => h (f t)) := by
  cases o <;> rfl

/-- A stimulus of the agenda is taken before the policy's. -/
theorem step_of_agenda {s : State} {st : Stim} {r : List Stim} (h : s.agenda = st :: r) :
    step s = andThen (stimGo { s with agenda := r } st) (fun t => settleAll (settleInbox t)) := by
  unfold step
  rw [h]
  rfl

/-! ## The word of a gang (R63, R64, R125) -/

/-- A legal word that R125 does not hold back is executed with its issue named. -/
theorem issueWord_of_legal {s : State} {wg grp q : Nat} {g : Group} {l : Launch} {x : Stand} {p : Bool} {d : Dec}
    (hd : wordDecode x = some d) (hl : wordSub l.vcount l.vw d = none)
    (hp : x.replay = true ∨ unsettled g x.quads = false ∨ mayPredict d.i = true) :
    issueWord s wg grp q g l x p
      = andThen (exec d.i { s with cur := some (issueOf wg grp x d.len p) }) (fun t => afterIssue s t (issueOf wg grp x d.len p) q) := by
  have hfree : (!x.replay && unsettled g x.quads && !mayPredict d.i) = false := by
    rcases hp with h | h | h <;> simp [h]
  simp [issueWord, hd, hl, hfree]

/-- The gang of a quad that may issue executes the word where it stands. -/
theorem issueStim_of_ready {s s1 : State} {wg grp q : Nat} {p : Bool} {w : Workgroup} {g : Group} {l : Launch} {x : Stand}
    (hs : wakeCut (wakeGrp s wg grp) wg grp q = s1)
    (hw : findWg s1 wg = some w) (hg : w.groups[grp]? = some g) (hl : findLaunch s1 w.launch = some l)
    (hcut : ∀ k, w.chk = some k → k.cutDue = true → cutReady s1 w = false)
    (hact : g.active = true) (hrdy : quadReady s1 w g q = true) (hx : standOf g q = some x) :
    issueStim s wg grp q p = issueWord s1 wg grp q g l x p := by
  unfold issueStim
  simp only [hs, hw]
  rw [if_neg]
  · simp [hg, hl, hact, hrdy, hx]
  · cases hk : w.chk with
    | none => simp
    | some k => simpa using hcut k hk

/-! ## The word of a running frame call (R272, R283) -/

/-- A running call outside a yield window, and at no yield point that something waits for, executes the word at its FPC. -/
theorem frameStim_of_word {s : State} {id : Nat} {c : Call} {v : Word} {i : Instr} (hc : findCall s id = some c)
    (hrun : c.st = .running) (hyld : c.yld = none) (hpt : atYield c = false ∨ yieldWaiters s c = false) (hfpc : c.fpc < c.nw)
    (hv : c.prog[c.fpc]? = some v) (hi : decodeRod v = some i) :
    frameStim s id = andThen (exec i { s with curCall := some c.id }) (fun t => { t with curCall := none }) := by
  have hgoes : (c.yld.isSome || (atYield c && yieldWaiters s c)) = false := by
    rcases hpt with h | h <;> simp [hyld, h]
  simp [frameStim, frameGo, hc, hrun, hgoes, Nat.not_le.mpr hfpc, hv, hi]

/-! ## Events (R199, R283, R297) -/

/-- What the event waits for, as the port tests it. -/
def eventHeld (s : State) (i : Instr) (x : EvArg) : Bool :=
  (inOrder i && s.inbox.any (fun e => inOrder e.1 && e.2.msg.cls == x.msg.cls)) || accessWaits s i x

theorem eventHeld_iff (s : State) (i : Instr) (x : EvArg) :
    eventHeld s i x = true ↔
      (inOrder i = true ∧ ∃ e ∈ s.inbox, inOrder e.1 = true ∧ e.2.msg.cls = x.msg.cls) ∨ accessWaits s i x = true := by
  simp [eventHeld]

theorem stimGo_event {s : State} {i : Instr} {x : EvArg} (h : encode i = []) :
    stimGo s (.event i x) = if eventHeld s i x then .next { s with inbox := s.inbox ++ [(i, x)] } else eventGo s i x := by
  have hrow : isEvent i = true := by simp [isEvent, h]
  simp only [stimGo, hrow, Bool.not_true, Bool.false_eq_true, if_false]
  rfl

/-! ## The step -/

/-- Settles O58: each kind of stimulus by its own lemma, under the step's rule for what stands first in the agenda. -/
theorem stepsRunTheDecodedInstruction : Obligations.StepsRunTheDecodedInstruction := by
  intro s r s0
  refine ⟨?issue, ?frame, ?event⟩
  case issue =>
    intro wg grp q p w g l x d hag s1 c hw hg hl hcut hact hrdy hx hd hsub hpred
    rw [step_of_agenda hag, stimGo, issueStim_of_ready rfl hw hg hl hcut hact hrdy hx, issueWord_of_legal hd hsub hpred, andThen_andThen]
  case frame =>
    intro id c v i hag hc hrun hyld hpt hfpc hv hi
    rw [step_of_agenda hag, stimGo, frameStim_of_word (s := s0) hc hrun hyld hpt hfpc hv hi, andThen_andThen]
  case event =>
    intro i x hag hword held
    have hheld : eventHeld s0 i x = true ↔ held := eventHeld_iff s0 i x
    rw [step_of_agenda hag, stimGo_event hword]
    constructor
    · intro hfree
      rw [if_neg (mt hheld.mp hfree), eventGo, andThen_andThen]
    · intro hwait
      rw [if_pos (hheld.mpr hwait), andThen_next]

end Sys2Proof.Machine

/-! The boot of the device (R18, R20 to R24): what each boot event does in its step, what a power loss leaves, and the remap
table that the firmware writes (O49). -/
namespace Sys2Proof.Machine

/-! ## Messages of the device (R28, R30) -/

/-- A STATUS takes the device's next sequence number and is sent last. -/
theorem sendStatus_eq (s : State) (st detail unit value : Nat) :
    sendStatus s st detail unit value
      = { s with devSeq := s.devSeq + 1, outbox := s.outbox ++ [statusMsg s.devSeq st detail unit value] } := rfl

/-- A management request in its step and well formed is carried out. -/
theorem mgmt_of_formed {s : State} {m : Nat} {step formed : Bool} {f : State → State}
    (hlink : linkUp s = true) (hlen : s.arg.msg.bytes.length = 32) (hm : req s 0 1 = m) (hstep : step = true)
    (hformed : formed = true) (hzero : req s 4 4 = 0) (hpart : m = 9 ∨ req s 1 1 = 0) (hcls : s.arg.msg.cls = 0) :
    mgmt s m step formed f = .next (f s) := by
  have hnoPart : (m != 9 && req s 1 1 != 0) = false := by
    rcases hpart with h | h <;> simp [h]
  simp [mgmt, hlink, hlen, hm, hstep, hformed, hzero, hnoPart, hcls]

/-! ## Power (R18, R20, R21) -/

/-- The step of an incarnation lies between 1 and 2^32 - 1. -/
theorem incarnation_step_ne_self (v x : BitVec 32) : v + 1 + BitVec.ofNat 32 (x.toNat % (2 ^ 32 - 1)) ≠ v := by
  intro h
  have hnat := congrArg BitVec.toNat h
  simp only [BitVec.toNat_add, BitVec.toNat_ofNat, BitVec.reduceToNat] at hnat
  omega

theorem execPowerGood_of_off {s : State} (h : s.boot = .off) :
    ∃ t, execPowerGood s = .next t ∧ t = { s with boot := .rom, incarnation := t.incarnation, freeCtr := s.freeCtr + 1 }
      ∧ t.incarnation ≠ s.incarnation := by
  simp only [execPowerGood, h]
  exact ⟨_, rfl, rfl, incarnation_step_ne_self _ _⟩

/-- A power loss keeps the fuses and what lies in the companion, and nothing that ran. -/
theorem powerLost_loses (s : State) :
    (powerLost s).boot = .off ∧ (powerLost s).mem = [] ∧ (powerLost s).launches = [] ∧ (powerLost s).wgs = []
      ∧ (powerLost s).copies = [] ∧ (powerLost s).calls = [] ∧ (powerLost s).parts = State.reset.parts
      ∧ (powerLost s).fuseMin = s.fuseMin ∧ (powerLost s).compMem = s.compMem :=
  ⟨rfl, rfl, rfl, rfl, rfl, rfl, rfl, rfl, rfl⟩

theorem execTrestleLinkUp_of_rom {s : State} (h : s.boot = .rom) :
    execTrestleLinkUp s
      = .next { s with boot := .waitImage, devSeq := s.devSeq + 1, outbox := s.outbox ++ [statusMsg s.devSeq 1 0 0 0] } := by
  simp [execTrestleLinkUp, h, sendStatus_eq]

theorem execThermalWarning_of_hot {s : State} (hlink : linkUp s = true) (hhot : 105 ≤ s.arg.b) :
    execThermalWarning s
      = .next { s with devSeq := s.devSeq + 1, outbox := s.outbox ++ [statusMsg s.devSeq 8 0 s.arg.a s.arg.b] } := by
  simp [execThermalWarning, hlink, Nat.not_lt.mpr hhot, sendStatus_eq]

/-! ## The firmware image (R22, R29) -/

/-- What IMAGE_LOAD does once its frame is found well formed. -/
def takeImage (s : State) : State :=
  let a := req s 8 8
  let n := req s 0x10 8
  if n < imageBody ∨ imageMax < n then answer s 3 0
  else if bytesToNat (compRead s (a + 8) 4) ≠ n - imageBody then answer s 3 0
  else { s with boot := .imageRead, imgReq := some (BitVec.ofNat 16 (req s 2 2), a, n), sram := compRead s a n }

theorem execImageLoad_of_formed {s : State} (hboot : s.boot = .waitImage) (hlen : s.arg.msg.bytes.length = 32)
    (hm : req s 0 1 = 1) (hpart : req s 1 1 = 0) (hzero : req s 4 4 = 0) (haddr : req s 8 8 % 64 = 0)
    (htail : req s 0x18 8 = 0) (hcls : s.arg.msg.cls = 0) :
    execImageLoad s = .next (takeImage s) :=
  mgmt_of_formed (by simp [linkUp, hboot]) hlen hm (by simp [hboot]) (by simp [aligned64, haddr, htail]) hzero (.inr hpart) hcls

theorem takeImage_of_bad_length {s : State} (h : req s 0x10 8 < 17104 ∨ 16777216 < req s 0x10 8) :
    takeImage s = answer s 3 0 :=
  if_pos h

theorem takeImage_of_good_length {s : State} (hmin : 17104 ≤ req s 0x10 8) (hmax : req s 0x10 8 ≤ 16777216)
    (hbody : bytesToNat (compRead s (req s 8 8 + 8) 4) = req s 0x10 8 - 17104) :
    takeImage s = { s with
      boot := .imageRead, imgReq := some (BitVec.ofNat 16 (req s 2 2), req s 8 8, req s 0x10 8),
      sram := compRead s (req s 8 8) (req s 0x10 8) } := by
  have hrange : ¬(req s 0x10 8 < imageBody ∨ imageMax < req s 0x10 8) :=
    not_or.mpr ⟨Nat.not_lt.mpr hmin, Nat.not_lt.mpr hmax⟩
  exact (if_neg hrange).trans (if_neg (not_not.mpr hbody))

/-- Back at WAIT_IMAGE after check `c` of the image that request `q` named: the reply, STATUS BOOT_REJECTED, STATUS WAIT_IMAGE. -/
def imageRejected (s : State) (q : BitVec 16) (c : Nat) : State :=
  { s with
    boot := .waitImage, imgReq := none, sram := [], devSeq := s.devSeq + 2,
    outbox := s.outbox ++ [replyMsg 0 1 0 q.toNat 12 c, statusMsg s.devSeq 2 c 0 0, statusMsg (s.devSeq + 1) 1 0 0 0] }

/-- The firmware of the image that request `q` named runs: its version, the spare of each die and the remap table stand. -/
def firmwareRuns (s : State) (q : BitVec 16) : State :=
  { s with
    boot := .dies, imgReq := none, fwImage := s.sram, fwVersion := wordOf (fieldAt s.sram 4 4),
    spares := (List.range 32).map (fun d => BitVec.ofNat 4 (spareOf d)), remap := (List.range 256).map firstRemap,
    outbox := s.outbox ++ [replyMsg 0 1 0 q.toNat 0 0] }

/-- A reply and two STATUS messages leave one after another, under two sequence numbers. -/
theorem sendStatus_sendStatus_send (s : State) (m : Msg) (st st' detail detail' : Nat) :
    sendStatus (sendStatus (send s m) st detail 0 0) st' detail' 0 0
      = { s with devSeq := s.devSeq + 2,
                 outbox := s.outbox ++ [m, statusMsg s.devSeq st detail 0 0, statusMsg (s.devSeq + 1) st' detail' 0 0] } := by
  simp [sendStatus_eq, send, BitVec.add_assoc]

section
variable {s : State} {q : BitVec 16} {a n : Nat} (hboot : s.boot = .imageRead) (hreq : s.imgReq = some (q, a, n))
include hboot hreq

theorem execImageComplete_of_unread (h : s.arg.ok = false) : execImageComplete s = .next (imageRejected s q 0) := by
  simp [execImageComplete, hboot, hreq, h, sendStatus_sendStatus_send, imageRejected]

theorem execImageComplete_of_failed {c : Nat} (h : s.arg.ok = true) (hc : imageCheck s.fuseMin s.sram = some c) :
    execImageComplete s = .next (imageRejected s q c) := by
  simp [execImageComplete, hboot, hreq, h, hc, sendStatus_sendStatus_send, imageRejected]

theorem execImageComplete_of_verified (h : s.arg.ok = true) (hc : imageCheck s.fuseMin s.sram = none) :
    execImageComplete s = .next (firmwareRuns s q) := by
  simp [execImageComplete, hboot, hreq, h, hc, send, firmwareRuns]

end

/-! ## The remap table at power-on (R11, R100) -/

theorem firstRemap_die {k : Nat} (hk : k < 256) : (firstRemap k).die.toNat = k / 8 := by
  simp only [firstRemap, BitVec.toNat_ofNat]
  omega

/-- The core's number passes over the die's spare. -/
theorem firstRemap_pcore (k : Nat) :
    (firstRemap k).pcore.toNat = if k % 8 < spareOf (k / 8) then k % 8 else k % 8 + 1 := by
  simp only [firstRemap, BitVec.toNat_ofNat]
  split <;> omega

theorem firstRemap_pcore_lt (k : Nat) : (firstRemap k).pcore.toNat < 9 := by
  rw [firstRemap_pcore]
  split <;> omega

theorem spareOf_lt (d : Nat) : spareOf d < 9 := Nat.mod_lt _ (by decide)

theorem firstRemap_pcore_ne_spare (k : Nat) : (firstRemap k).pcore ≠ BitVec.ofNat 4 (spareOf (k / 8)) := by
  intro h
  have hcore := firstRemap_pcore k
  have hspare := spareOf_lt (k / 8)
  rw [h, BitVec.toNat_ofNat] at hcore
  split at hcore <;> omega

/-- Every device logical core stands on a core of its own die that is not the die's spare. -/
theorem firmwareRuns_remap (s : State) (q : BitVec 16) {k : Nat} (hk : k < 256) :
    ∃ r, (firmwareRuns s q).remap[k]? = some r ∧ r.die.toNat = k / 8 ∧ r.pcore.toNat < 9 ∧ r.epoch = 0 ∧ r.degraded = false
      ∧ ∀ d, (firmwareRuns s q).spares[k / 8]? = some d → r.pcore ≠ d := by
  refine ⟨firstRemap k, by simp [firmwareRuns, hk], firstRemap_die hk, firstRemap_pcore_lt k, rfl, rfl, fun d hd => ?_⟩
  have hdie : k / 8 < 32 := by omega
  have hspare : BitVec.ofNat 4 (spareOf (k / 8)) = d := by simpa [firmwareRuns, hdie] using hd
  exact hspare ▸ firstRemap_pcore_ne_spare k

/-! ## Dies, stacks and memory (R21, R23, R24) -/

theorem execDiesUp_of_dies {s : State} (h : s.boot = .dies) : execDiesUp s = .next { s with boot := .stks } := by
  simp [execDiesUp, h]

theorem execStacksTrained_of_trained {s : State} (h : s.boot = .stks) (hopt : s.arg.opt = none) :
    execStacksTrained s = .next { s with boot := .memory } := by
  simp [execStacksTrained, h, hopt]

theorem execStacksTrained_of_failed {s : State} {k : Nat} (h : s.boot = .stks) (hopt : s.arg.opt = some k) :
    execStacksTrained s
      = .next { s with boot := .stackFailed, devSeq := s.devSeq + 1, outbox := s.outbox ++ [statusMsg s.devSeq 3 0 k 0] } := by
  simp [execStacksTrained, h, hopt, sendStatus_eq]

theorem execMemoryInitialised_of_memory {s : State} (h : s.boot = .memory) :
    execMemoryInitialised s
      = .next { s with boot := .waitMap, mem := [], memPoison := [], devSeq := s.devSeq + 1,
                       outbox := s.outbox ++ [statusMsg s.devSeq 4 0 0 0] } := by
  simp [execMemoryInitialised, h, sendStatus_eq]

/-! ## The boot -/

/-- Settles O49: each boot event by the lemma of its step; the remap table by the cores that pass over their die's spare. -/
theorem bootSteps : Obligations.BootSteps := by
  intro s
  refine ⟨execPowerGood_of_off, ?powerLoss, execTrestleLinkUp_of_rom, execThermalWarning_of_hot, ?imageLoad, ?imageComplete,
    execDiesUp_of_dies, fun h => ⟨execStacksTrained_of_trained h, fun _ => execStacksTrained_of_failed h⟩,
    execMemoryInitialised_of_memory⟩
  case powerLoss =>
    exact List.forall_mem_cons.mpr ⟨⟨powerLost s, rfl, powerLost_loses s⟩,
      List.forall_mem_singleton.mpr ⟨powerLost s, rfl, powerLost_loses s⟩⟩
  case imageLoad =>
    intro hboot hlen hm hpart hzero haddr htail hcls a n
    have hload := execImageLoad_of_formed hboot hlen hm hpart hzero haddr htail hcls
    exact ⟨fun hbad => hload.trans (congrArg _ (takeImage_of_bad_length hbad)),
      fun hmin hmax hbody => hload.trans (congrArg _ (takeImage_of_good_length hmin hmax hbody))⟩
  case imageComplete =>
    intro q a n hboot hreq reply failed
    refine ⟨fun hok => ⟨_, execImageComplete_of_unread hboot hreq hok, rfl⟩,
      fun hok c hc => ⟨_, execImageComplete_of_failed hboot hreq hok hc, rfl⟩, fun hok hc => ?_⟩
    exact ⟨firmwareRuns s q, execImageComplete_of_verified hboot hreq hok hc, rfl, rfl, by simp [firmwareRuns], by simp [firmwareRuns],
      fun k hk => firmwareRuns_remap s q hk⟩

end Sys2Proof.Machine

/-! A legal word decodes to itself (O60): the fields of each word layout, the words of each format, and the rows of the tables. -/
namespace Sys2Proof

open Sys2Proof.Machine

/-! ## Fields of a word -/

/-- `z` stands in `w` from bit `s` up. -/
abbrev FieldAt {n len : Nat} (w : BitVec n) (s : Nat) (z : BitVec len) : Prop := w.extractLsb' s len = z

namespace FieldAt

variable {m n len s : Nat} {x : BitVec m} {y : BitVec n} {z : BitVec len}

theorem whole : FieldAt z 0 z := BitVec.extractLsb'_eq_self

theorem low : FieldAt (x ++ y) 0 y := BitVec.extractLsb'_append_eq_right

/-- Bits put below a field move it up. -/
theorem up (h : FieldAt x s z) : FieldAt (x ++ y) (n + s) z := by
  rw [FieldAt, BitVec.extractLsb'_append_eq_of_le (Nat.le_add_right n s), Nat.add_sub_cancel_left, h]

theorem bit {b : Bool} (h : FieldAt x s (bit1 b)) : x.getLsbD s = b := by
  have hbit := congrArg (fun v => v.getLsbD 0) h
  simpa [bit1] using hbit

theorem getLsbD {i : Nat} (h : FieldAt x 0 z) (hi : i < len) : x.getLsbD i = z.getLsbD i := by
  rw [← h, BitVec.getLsbD_extractLsb', decide_eq_true hi, Bool.true_and, Nat.zero_add]

/-- The low bits of the lowest field. -/
theorem low_toNat {k : Nat} (h : FieldAt x 0 z) (hk : k ≤ len) : (x.extractLsb' 0 k).toNat = z.toNat % 2 ^ k := by
  rw [← h]
  simp [Nat.mod_mod_of_dvd, Nat.pow_dvd_pow 2 hk]

end FieldAt

/-! ## Literal words (R46) -/

section
variable {cap : Bool} {f : Fld} {ws : List Word}

theorem length_encLit : (encLit cap f).length = litN cap f.code := by
  unfold encLit litN
  split <;> rfl

theorem litRest_encLit : litRest cap f.code (encLit cap f ++ ws) = ws := by
  unfold litRest encLit
  split <;> rfl

/-- A field is read back from its code and the words after the instruction's own. -/
theorem fld_of_encLit (h : litOk cap f = true) : { code := f.code, lit := litOf cap f.code (encLit cap f ++ ws) } = f := by
  unfold litOf encLit
  split
  case isTrue => rfl
  case isFalse hc =>
    have hz : f.lit = 0 := by simpa only [litOk, hc, Bool.false_or, beq_iff_eq] using h
    rw [← hz]

end

/-! ## The words of each format (R48 to R54)

A row of a table is known by the opcode of its first word and, in a few rows, by one more field, which the hypothesis on the row
names. -/

section
variable {cls : BitVec 3} {op : BitVec 6} {ca cb cc ce : Bool} {w x : Word} {rest : List Word}

/-- The first word of formats A, AX, C, Y and YX (R48, R49). -/
theorem headA_fields {g : BitVec 3} {d : BitVec 7} {a b : BitVec 8} (hw : w = op ++ g ++ d ++ a ++ b) :
    FieldAt w 26 op ∧ FieldAt w 23 g ∧ FieldAt w 16 d ∧ FieldAt w 8 a ∧ FieldAt w 0 b := by
  subst hw
  exact ⟨FieldAt.whole.up.up.up.up, FieldAt.low.up.up.up, FieldAt.low.up.up, FieldAt.low.up, FieldAt.low⟩

theorem length_encA {f : FmtA} : (encA op ca cb f).length = lenA ca cb f := by
  simp only [encA, lenA, List.length_cons, List.length_append, length_encLit]
  omega

theorem decode_encA {k : FmtA → Instr} {f : FmtA} (hrow : ∀ w r, FieldAt w 26 op → decode cls (w :: r) = dA k ca cb w r)
    (hlit : (litOk ca f.a && litOk cb f.b) = true) :
    decode cls (encA op ca cb f ++ rest) = some { i := k f, len := (encA op ca cb f).length, rsv := false } := by
  obtain ⟨ha, hb⟩ := Bool.and_eq_true_iff.mp hlit
  obtain ⟨w, hw⟩ : ∃ w : Word, w = op ++ f.g ++ f.d ++ f.a.code ++ f.b.code := ⟨_, rfl⟩
  obtain ⟨hop, hg, hd, hac, hbc⟩ := headA_fields hw
  rw [length_encA, encA, ← hw, List.cons_append, hrow _ _ hop]
  simp [dA, decA, hg, hd, hac, hbc, litRest_encLit, fld_of_encLit ha, fld_of_encLit hb]

theorem wordI_fields {f : FmtI} (hw : w = op ++ f.g ++ f.d ++ f.imm) :
    FieldAt w 26 op ∧ FieldAt w 23 f.g ∧ FieldAt w 16 f.d ∧ FieldAt w 0 f.imm := by
  subst hw
  exact ⟨FieldAt.whole.up.up.up, FieldAt.low.up.up, FieldAt.low.up, FieldAt.low⟩

theorem decode_encI {k : FmtI → Instr} {f : FmtI} (hrow : ∀ w r, FieldAt w 26 op → decode cls (w :: r) = dI k w) :
    decode cls (encI op f ++ rest) = some { i := k f, len := (encI op f).length, rsv := false } := by
  obtain ⟨w, hw⟩ : ∃ w : Word, w = op ++ f.g ++ f.d ++ f.imm := ⟨_, rfl⟩
  obtain ⟨hop, hg, hd, himm⟩ := wordI_fields hw
  rw [encI, ← hw, List.cons_append, hrow _ _ hop]
  simp [dI, decI, hg, hd, himm]

/-- The extension word of format AX (R50). -/
theorem extAX_fields {f : FmtAX}
    (hx : x = f.c.code ++ f.ty ++ f.sty ++ f.rnd ++ f.neg ++ f.abs ++ bit1 f.sat ++ bit1 f.fs ++ bit1 f.wide ++ f.md) :
    FieldAt x 24 f.c.code ∧ FieldAt x 20 f.ty ∧ FieldAt x 16 f.sty ∧ FieldAt x 14 f.rnd ∧ FieldAt x 11 f.neg ∧ FieldAt x 8 f.abs
      ∧ x.getLsbD 7 = f.sat ∧ x.getLsbD 6 = f.fs ∧ x.getLsbD 5 = f.wide ∧ FieldAt x 0 f.md := by
  subst hx
  exact ⟨FieldAt.whole.up.up.up.up.up.up.up.up.up, FieldAt.low.up.up.up.up.up.up.up.up, FieldAt.low.up.up.up.up.up.up.up,
    FieldAt.low.up.up.up.up.up.up, FieldAt.low.up.up.up.up.up, FieldAt.low.up.up.up.up, FieldAt.low.up.up.up.bit,
    FieldAt.low.up.up.bit, FieldAt.low.up.bit, FieldAt.low⟩

theorem length_encAX {f : FmtAX} : (encAX op ca cb cc f).length = lenAX ca cb cc f := by
  simp only [encAX, lenAX, List.length_cons, List.length_append, length_encLit]
  omega

theorem decode_encAX {k : FmtAX → Instr} {f : FmtAX} (hrow : ∀ w r, FieldAt w 26 op → decode cls (w :: r) = dAX k ca cb cc w r)
    (hlit : (litOk ca f.a && litOk cb f.b && litOk cc f.c) = true) :
    decode cls (encAX op ca cb cc f ++ rest) = some { i := k f, len := (encAX op ca cb cc f).length, rsv := false } := by
  simp only [Bool.and_eq_true] at hlit
  obtain ⟨⟨ha, hb⟩, hc⟩ := hlit
  obtain ⟨w, hw⟩ : ∃ w : Word, w = op ++ f.g ++ f.d ++ f.a.code ++ f.b.code := ⟨_, rfl⟩
  obtain ⟨hop, hg, hd, hac, hbc⟩ := headA_fields hw
  obtain ⟨x, hx⟩ : ∃ x : Word, x = f.c.code ++ f.ty ++ f.sty ++ f.rnd ++ f.neg ++ f.abs ++ bit1 f.sat ++ bit1 f.fs ++ bit1 f.wide
    ++ f.md := ⟨_, rfl⟩
  obtain ⟨hcc, hty, hsty, hrnd, hneg, habs, hsat, hfs, hwide, hmd⟩ := extAX_fields hx
  rw [length_encAX, encAX, ← hw, ← hx, List.cons_append, hrow _ _ hop]
  simp [dAX, decAX, -BitVec.getLsbD_eq_getElem, hg, hd, hac, hbc, hcc, hty, hsty, hrnd, hneg, habs, hsat, hfs, hwide, hmd,
    litRest_encLit, fld_of_encLit ha, fld_of_encLit hb, fld_of_encLit hc]

/-- The first word of format M (R52). -/
theorem headM_fields {f : FmtM} (hw : w = op ++ f.g ++ f.d ++ f.buf ++ f.sz ++ bit1 f.fs ++ f.idx.code) :
    FieldAt w 26 op ∧ FieldAt w 23 f.g ∧ FieldAt w 16 f.d ∧ FieldAt w 12 f.buf ∧ FieldAt w 9 f.sz ∧ w.getLsbD 8 = f.fs
      ∧ FieldAt w 0 f.idx.code := by
  subst hw
  exact ⟨FieldAt.whole.up.up.up.up.up.up, FieldAt.low.up.up.up.up.up, FieldAt.low.up.up.up.up, FieldAt.low.up.up.up,
    FieldAt.low.up.up, FieldAt.low.up.bit, FieldAt.low⟩

/-- The second word of format M (R52). -/
theorem extM_fields {f : FmtM} (hx : x = f.off ++ f.aop ++ bit1 f.nt ++ bit1 f.spl ++ bit1 f.sx ++ f.data.code) :
    FieldAt x 16 f.off ∧ FieldAt x 11 f.aop ∧ x.getLsbD 10 = f.nt ∧ x.getLsbD 9 = f.spl ∧ x.getLsbD 8 = f.sx
      ∧ FieldAt x 0 f.data.code := by
  subst hx
  exact ⟨FieldAt.whole.up.up.up.up.up, FieldAt.low.up.up.up.up, FieldAt.low.up.up.up.bit, FieldAt.low.up.up.bit,
    FieldAt.low.up.bit, FieldAt.low⟩

theorem length_encM {dat : DatK} {f : FmtM} : (encM op dat f).length = lenM dat f := by
  simp only [encM, lenM, List.length_cons, List.length_append, length_encLit]
  omega

theorem decode_encM {k : FmtM → Instr} {dat : DatK} {f : FmtM} (hrow : ∀ w r, FieldAt w 26 op → decode cls (w :: r) = dM k dat w r)
    (hlit : (litOk true f.idx && litOk (capData dat f.sz f.aop) f.data) = true) :
    decode cls (encM op dat f ++ rest) = some { i := k f, len := (encM op dat f).length, rsv := false } := by
  obtain ⟨hi, hdt⟩ := Bool.and_eq_true_iff.mp hlit
  obtain ⟨w, hw⟩ : ∃ w : Word, w = op ++ f.g ++ f.d ++ f.buf ++ f.sz ++ bit1 f.fs ++ f.idx.code := ⟨_, rfl⟩
  obtain ⟨hop, hg, hd, hbuf, hsz, hfs, hic⟩ := headM_fields hw
  obtain ⟨x, hx⟩ : ∃ x : Word, x = f.off ++ f.aop ++ bit1 f.nt ++ bit1 f.spl ++ bit1 f.sx ++ f.data.code := ⟨_, rfl⟩
  obtain ⟨hoff, haop, hnt, hspl, hsx, hdc⟩ := extM_fields hx
  rw [length_encM, encM, ← hw, ← hx, List.cons_append, hrow _ _ hop]
  simp [dM, decM, -BitVec.getLsbD_eq_getElem, hg, hd, hbuf, hsz, hfs, hic, hoff, haop, hnt, hspl, hsx, hdc,
    litRest_encLit, fld_of_encLit hi, fld_of_encLit hdt]

/-- The operand word of format C (R53). -/
theorem extC_fields {f : FmtC} (hx : x = f.c.code ++ f.e.code ++ f.vw ++ f.q ++ bit1 f.qen ++ bit1 f.fs ++ f.md ++ (0#4)) :
    FieldAt x 24 f.c.code ∧ FieldAt x 16 f.e.code ∧ FieldAt x 14 f.vw ∧ FieldAt x 11 f.q ∧ x.getLsbD 10 = f.qen
      ∧ x.getLsbD 9 = f.fs ∧ FieldAt x 4 f.md ∧ FieldAt x 0 0#4 := by
  subst hx
  exact ⟨FieldAt.whole.up.up.up.up.up.up.up, FieldAt.low.up.up.up.up.up.up, FieldAt.low.up.up.up.up.up, FieldAt.low.up.up.up.up,
    FieldAt.low.up.up.up.bit, FieldAt.low.up.up.bit, FieldAt.low.up, FieldAt.low⟩

theorem length_encC {f : FmtC} : (encC op ca cb cc ce f).length = lenC ca cb cc ce f := by
  simp only [encC, lenC, List.length_cons, List.length_append, length_encLit]
  omega

theorem decode_encC {k : FmtC → Instr} {f : FmtC}
    (hrow : ∀ w r, FieldAt w 26 op → mdOfC r = f.md → decode cls (w :: r) = dC k ca cb cc ce w r)
    (hlit : (litOk ca f.a && litOk cb f.b && litOk cc f.c && litOk ce f.e) = true) :
    decode cls (encC op ca cb cc ce f ++ rest) = some { i := k f, len := (encC op ca cb cc ce f).length, rsv := false } := by
  simp only [Bool.and_eq_true] at hlit
  obtain ⟨⟨⟨ha, hb⟩, hc⟩, he⟩ := hlit
  obtain ⟨w, hw⟩ : ∃ w : Word, w = op ++ f.g ++ f.d ++ f.a.code ++ f.b.code := ⟨_, rfl⟩
  obtain ⟨hop, hg, hd, hac, hbc⟩ := headA_fields hw
  obtain ⟨x, hx⟩ : ∃ x : Word, x = f.c.code ++ f.e.code ++ f.vw ++ f.q ++ bit1 f.qen ++ bit1 f.fs ++ f.md ++ (0#4) := ⟨_, rfl⟩
  obtain ⟨hcc, hec, hvw, hq, hqen, hfs, hmd, hrsv⟩ := extC_fields hx
  rw [length_encC, encC, ← hw, ← hx, List.cons_append, List.cons_append, hrow w (x :: _) hop hmd]
  simp [dC, decC, rsvC, -BitVec.getLsbD_eq_getElem, hg, hd, hac, hbc, hcc, hec, hvw, hq, hqen, hfs, hmd, hrsv,
    litRest_encLit, fld_of_encLit ha, fld_of_encLit hb, fld_of_encLit hc, fld_of_encLit he]

/-- The first word of format J (R54). -/
theorem headJ_fields {f : FmtJ} (hw : w = op ++ f.g ++ f.d ++ f.cp ++ (0#4) ++ f.a.code) :
    FieldAt w 26 op ∧ FieldAt w 23 f.g ∧ FieldAt w 16 f.d ∧ FieldAt w 12 f.cp ∧ FieldAt w 8 0#4 ∧ FieldAt w 0 f.a.code := by
  subst hw
  exact ⟨FieldAt.whole.up.up.up.up.up, FieldAt.low.up.up.up.up, FieldAt.low.up.up.up, FieldAt.low.up.up, FieldAt.low.up,
    FieldAt.low⟩

/-- The second word of format J (R54). -/
theorem extJ_fields {f : FmtJ} (hx : x = f.tgt ++ f.rj) : FieldAt x 16 f.tgt ∧ FieldAt x 0 f.rj := by
  subst hx
  exact ⟨FieldAt.whole.up, FieldAt.low⟩

theorem length_encJ {f : FmtJ} : (encJ op ca f).length = lenJ ca f := by
  simp only [encJ, lenJ, List.length_cons, length_encLit]
  omega

theorem decode_encJ {k : FmtJ → Instr} {f : FmtJ} (hrow : ∀ w r, FieldAt w 26 op → decode cls (w :: r) = dJ k ca w r)
    (hlit : litOk ca f.a = true) :
    decode cls (encJ op ca f ++ rest) = some { i := k f, len := (encJ op ca f).length, rsv := false } := by
  obtain ⟨w, hw⟩ : ∃ w : Word, w = op ++ f.g ++ f.d ++ f.cp ++ (0#4) ++ f.a.code := ⟨_, rfl⟩
  obtain ⟨hop, hg, hd, hcp, hrsv, hac⟩ := headJ_fields hw
  obtain ⟨x, hx⟩ : ∃ x : Word, x = f.tgt ++ f.rj := ⟨_, rfl⟩
  obtain ⟨htgt, hrj⟩ := extJ_fields hx
  rw [length_encJ, encJ, ← hw, ← hx, List.cons_append, hrow _ _ hop]
  simp [dJ, decJ, rsvJ, hg, hd, hcp, hrsv, hac, htgt, hrj, fld_of_encLit hlit]

theorem length_encY {f : FmtY} : (encY op ca f).length = lenY ca f := by
  simp only [encY, lenY, List.length_cons, length_encLit]
  omega

theorem decode_encY {k : FmtY → Instr} {f : FmtY}
    (hrow : ∀ w r, FieldAt w 26 op → FieldAt w 0 f.k → decode cls (w :: r) = dY k ca w r) (hlit : litOk ca f.a = true) :
    decode cls (encY op ca f ++ rest) = some { i := k f, len := (encY op ca f).length, rsv := false } := by
  obtain ⟨w, hw⟩ : ∃ w : Word, w = op ++ f.g ++ f.d ++ f.a.code ++ f.k := ⟨_, rfl⟩
  obtain ⟨hop, hg, hd, hac, hk⟩ := headA_fields hw
  rw [length_encY, encY, ← hw, List.cons_append, hrow _ _ hop hk]
  simp [dY, decY, hg, hd, hac, hk, fld_of_encLit hlit]

theorem length_encYX {f : FmtYX} : (encYX op ca f).length = lenYX ca f := by
  simp only [encYX, lenYX, List.length_cons, length_encLit]
  omega

theorem decode_encYX {k : FmtYX → Instr} {f : FmtYX} (hrow : ∀ w r, FieldAt w 26 op → decode cls (w :: r) = dYX k ca w r)
    (hlit : litOk ca f.a = true) :
    decode cls (encYX op ca f ++ rest) = some { i := k f, len := (encYX op ca f).length, rsv := false } := by
  obtain ⟨w, hw⟩ : ∃ w : Word, w = op ++ f.g ++ f.d ++ f.a.code ++ f.k := ⟨_, rfl⟩
  obtain ⟨hop, hg, hd, hac, hk⟩ := headA_fields hw
  rw [length_encYX, encYX, ← hw, List.cons_append, hrow _ _ hop]
  simp [dYX, decYX, hg, hd, hac, hk, fld_of_encLit hlit]

end

/-! ## Frame and rod words, and clause headers (R36, R270) -/

/-- The frame and rod word (R270). -/
theorem wordR_fields {w : Word} {op : BitVec 5} {f : FmtR} (hw : w = op ++ f.d ++ f.a ++ f.b ++ f.m ++ f.t ++ f.imm) :
    FieldAt w 27 op ∧ FieldAt w 24 f.d ∧ FieldAt w 21 f.a ∧ FieldAt w 18 f.b ∧ FieldAt w 16 f.m ∧ FieldAt w 14 f.t
      ∧ FieldAt w 0 f.imm := by
  subst hw
  exact ⟨FieldAt.whole.up.up.up.up.up.up, FieldAt.low.up.up.up.up.up, FieldAt.low.up.up.up.up, FieldAt.low.up.up.up,
    FieldAt.low.up.up, FieldAt.low.up, FieldAt.low⟩

theorem decodeRod_encR {op : BitVec 5} {k : FmtR → Instr} {f : FmtR} {v : Word}
    (hrow : ∀ w, FieldAt w 27 op → FieldAt w 0 f.imm → decodeRod w = some (k (decR w))) (henc : encR op f = [v]) :
    decodeRod v = some (k f) := by
  have hv : v = op ++ f.d ++ f.a ++ f.b ++ f.m ++ f.t ++ f.imm := (List.singleton_inj.mp henc).symm
  obtain ⟨hop, hd, ha, hb, hm, ht, himm⟩ := wordR_fields hv
  rw [hrow v hop himm]
  simp only [decR, hd, ha, hb, hm, ht, himm]

/-- The clause header (R36). -/
theorem hdr_fields {w : Word} {h : Hdr}
    (hw : w = BitVec.ofNat 4 h.len ++ h.cls ++ h.wait ++ h.setA ++ h.setB ++ bit1 h.yld ++ bit1 h.nspec ++ h.rsv) :
    FieldAt w 28 (BitVec.ofNat 4 h.len) ∧ FieldAt w 25 h.cls ∧ FieldAt w 13 h.wait ∧ FieldAt w 9 h.setA ∧ FieldAt w 5 h.setB
      ∧ w.getLsbD 4 = h.yld ∧ w.getLsbD 3 = h.nspec ∧ FieldAt w 0 h.rsv := by
  subst hw
  exact ⟨FieldAt.whole.up.up.up.up.up.up.up, FieldAt.low.up.up.up.up.up.up, FieldAt.low.up.up.up.up.up, FieldAt.low.up.up.up.up,
    FieldAt.low.up.up.up, FieldAt.low.up.up.bit, FieldAt.low.up.bit, FieldAt.low⟩

theorem hdrOf_encodeHdr {h : Hdr} (hlen : h.len < 16) : hdrOf (encodeHdr h) = h := by
  obtain ⟨hl, hcls, hwait, hsetA, hsetB, hyld, hnspec, hrsv⟩ := hdr_fields (w := encodeHdr h) rfl
  simp only [hdrOf, hl, hcls, hwait, hsetA, hsetB, hyld, hnspec, hrsv, BitVec.toNat_ofNat, Nat.mod_eq_of_lt hlen]

/-! ## The rows of the tables (R57 to R62, R271) -/

section
variable {vc n : Nat} {d : DK} {a b c e : FK} {l : List Nat}

theorem of_ifNil {p : Prop} [Decidable p] (h : (if p then [] else [n]) = []) : p := by
  by_contra hp
  rw [if_neg hp] at h
  exact List.cons_ne_nil n [] h

theorem k_of_ySubs {w : FmtY} (h : ySubs vc d a l w = []) : l = [] := (List.append_eq_nil_iff.mp h).2

theorem md_of_cSubs {w : FmtC} {vw ll : Bool} {q : Nat} (h : cSubs vc d a b c e vw q ll l w = []) : l = [] :=
  (List.append_eq_nil_iff.mp (List.append_eq_nil_iff.mp h).1).2

theorem ok_of_modIf {ok : Bool} (h : modIf ok = []) : ok = true := by
  cases ok
  case true => rfl
  case false => exact absurd h (List.cons_ne_nil 10 [])

/-- MOD of CPYM: the box form (R258). -/
theorem getLsbD_one_of_lt_two : ∀ {m : BitVec 5}, m.toNat < 2 → m.getLsbD 1 = false := by decide

/-- MOD of CPYM: the tile form (R258). -/
theorem getLsbD_one_of_two_or_three : ∀ {m : BitVec 5}, m.toNat = 2 ∨ m.toNat = 3 → m.getLsbD 1 = true := by decide

end

theorem wellFormed_parts {i : Instr} {vc : Nat} {vw : List Word} (h : i.wellFormed vc vw = true) :
    i.litsOk = true ∧ i.selOk = true ∧ subcodes vc vw i = [] := by
  simp only [Instr.wellFormed, Bool.and_eq_true, List.isEmpty_iff] at h
  obtain ⟨⟨⟨hlit, hsel⟩, hsub⟩, -⟩ := h
  exact ⟨hlit, hsel, hsub⟩

/-- Each clause word by its format, in the row of its opcode; the forms of one opcode by the field that picks them. -/
theorem decode_encode {i : Instr} {cls : BitVec 3} {vc : Nat} {vw rest : List Word} (hcls : clsOf i = some cls)
    (hwf : i.wellFormed vc vw = true) :
    decode cls (encode i ++ rest) = some { i := i, len := (encode i).length, rsv := false } := by
  obtain ⟨hlit, hsel, hsub⟩ := wellFormed_parts hwf
  cases i
  -- Table INT (R57)
  case iadd w | iaddc w | isub w | isubb w | imul w | imulh w | imad w | idiv w | irem w | imin w | imax w | iabs w | ineg w
      | shl w | shr w | sar w | bfx w | bfi w | bmix w | isat w | vcmp w | vsel w | gred w | gscn w =>
    obtain rfl := Option.some.inj hcls
    exact decode_encAX (fun v r hop => by rw [decode, decInt, hop]; rfl) hlit
  case and w | or w | xor w | andn w | not w | rol w | popc w | clz w | ctz w | brev w | pand w | por w | pxor w | pnot w
      | pmov w | pany w | pall w | pcnt w | pset w | mov w | movs w | rdln w | wrln w | qswp w | qbc w | gshf w | gbc w
      | ballot w =>
    obtain rfl := Option.some.inj hcls
    exact decode_encA (fun v r hop => by rw [decode, decInt, hop]; rfl) hlit
  case movi w =>
    obtain rfl := Option.some.inj hcls
    exact decode_encI (fun v r hop => by rw [decode, decInt, hop]; rfl)
  -- Table FLT (R58)
  case fadd w | fmul w | fmin w | fmax w | fdiv w | frcp w | frsq w | fsqrt w | fexp2 w | flog2 w | fsin w | fcos w | ftanh w
      | frnd w | fscl w | fxtr w | fcls w | padd w | pmul w | tmv w =>
    obtain rfl := Option.some.inj hcls
    exact decode_encA (fun v r hop => by rw [decode, decFlt, hop]; rfl) hlit
  case faddAx w | fmulAx w | ffma w | fminAx w | fmaxAx w | fdivAx w | frcpAx w | frsqAx w | fsqrtAx w | fexp2Ax w | flog2Ax w
      | fsinAx w | fcosAx w | ftanhAx w | frndAx w | fsclAx w | fxtrAx w | fclsAx w | fcmp w | paddAx w | pmulAx w | pfma w
      | fdot4 w | cvt w | cvti w | cvtm w | tmvAx w =>
    obtain rfl := Option.some.inj hcls
    exact decode_encAX (fun v r hop => by rw [decode, decFlt, hop]; rfl) hlit
  -- Table SCL (R58)
  case sadd w | ssub w | smul w | sand w | sor w | sxor w | sshl w | sshr w | ssar w | smov w | smin w | smax w | sldc w =>
    obtain rfl := Option.some.inj hcls
    exact decode_encA (fun v r hop => by rw [decode, decScl, hop]; rfl) hlit
  case saddAx w | ssubAx w | smulAx w | sshlAx w | sshrAx w | ssarAx w | scmp w | smovAx w | ssel w | sminAx w | smaxAx w =>
    obtain rfl := Option.some.inj hcls
    exact decode_encAX (fun v r hop => by rw [decode, decScl, hop]; rfl) hlit
  case smovi w | srd w | swr w =>
    obtain rfl := Option.some.inj hcls
    exact decode_encI (fun v r hop => by rw [decode, decScl, hop]; rfl)
  case sld w =>
    obtain rfl := Option.some.inj hcls
    exact decode_encM (fun v r hop => by rw [decode, decScl, hop]; rfl) hlit
  -- Table MEM (R59)
  case ld w | st w | ldx w | stx w | ldc w | ldm w | stm w | atom w | atomn w | red w | atomm w | pref w | brec w | bchk w
      | probe w =>
    obtain rfl := Option.some.inj hcls
    exact decode_encM (fun v r hop => by rw [decode, decMem, hop]; rfl) hlit
  case rjn w =>
    obtain rfl := Option.some.inj hcls
    exact decode_encY (fun v r hop _ => by rw [decode, decMem, hop]; rfl) hlit
  -- Table CNV (R60)
  case cmode w | cbind w | czero w | cmma w | cmmas w | cacc w | crd w | cswp w | cstat w | cpin w | cunp w | cpy w | cpyw w
      | cpys w | cpyc w | sopn w | sadv w | stnd w | scls w | sget w =>
    obtain rfl := Option.some.inj hcls
    exact decode_encC (fun v r hop hmd => by rw [decode, decCnv, hop, hmd]; rfl) hlit
  case cpymBox w =>
    obtain rfl := Option.some.inj hcls
    simp only [subcodes] at hsub
    have hmod := md_of_cSubs hsub
    have hbox := getLsbD_one_of_lt_two (of_decide_eq_true (ok_of_modIf hmod))
    exact decode_encC (fun v r hop hmd => by rw [decode, decCnv, hop, hmd, hbox]; rfl) hlit
  case cpymTile w =>
    obtain rfl := Option.some.inj hcls
    simp only [subcodes] at hsub
    have hmod := md_of_cSubs hsub
    have htile := getLsbD_one_of_two_or_three (of_decide_eq_true (ok_of_modIf hmod))
    exact decode_encC (fun v r hop hmd => by rw [decode, decCnv, hop, hmd, htile]; rfl) hlit
  -- Table CTL (R61)
  case br w | bru w | bri w | briu w | call w | calli w | loop w =>
    obtain rfl := Option.some.inj hcls
    exact decode_encJ (fun v r hop => by rw [decode, decCtl, hop]; rfl) hlit
  case ret w | exit w | nop w | yield w | sleep w | bkpt w =>
    obtain rfl := Option.some.inj hcls
    exact decode_encY (fun v r hop _ => by rw [decode, decCtl, hop]; rfl) hlit
  -- Table SYN (R62)
  case phini w | phreg w | phdrp w | pharr w | phaw w | phexp w | phqry w | bar w | bart w | bard w | fence w | waitj w =>
    obtain rfl := Option.some.inj hcls
    exact decode_encY (fun v r hop _ => by rw [decode, decSyn, hop]; rfl) hlit
  case waitf w | mcall w =>
    obtain rfl := Option.some.inj hcls
    exact decode_encYX (fun v r hop => by rw [decode, decSyn, hop]; rfl) hlit
  case phwt w =>
    obtain rfl := Option.some.inj hcls
    have hin : w.k.getLsbD 6 = false := by simpa [Instr.selOk] using hsel
    exact decode_encY (fun v r hop hk => by rw [decode, decSyn, hop, hk.getLsbD (by decide), hin]; rfl) hlit
  case phwtOut w =>
    obtain rfl := Option.some.inj hcls
    have hout : w.k.getLsbD 6 = true := hsel
    exact decode_encY (fun v r hop hk => by rw [decode, decSyn, hop, hk.getLsbD (by decide), hout]; rfl) hlit
  case jmskSet w | jmskOr w | jmskClr w | jmskRd w =>
    obtain rfl := Option.some.inj hcls
    have hsel := of_ifNil (k_of_ySubs hsub)
    exact decode_encY (fun v r hop hk => by rw [decode, decSyn, hop, hk, hsel]; rfl) hlit
  -- Table SYS (R62)
  case trap w | launch w | lwait w | qloc w | qlep w | cut w | qspr w =>
    obtain rfl := Option.some.inj hcls
    exact decode_encY (fun v r hop _ => by rw [decode, decSys, hop]; rfl) hlit
  case rftRet w | rftRetry w | rftSkip w | icinvCore w | icinvLaunch w | erriRegc w | erriRegu w | erriCvc w | erriCvu w
      | erriRes w | erriClone w =>
    obtain rfl := Option.some.inj hcls
    have hsel := of_ifNil (k_of_ySubs hsub)
    exact decode_encY (fun v r hop hk => by rw [decode, decSys, hop, hk, hsel]; rfl) hlit
  all_goals exact nomatch hcls

/-- Each frame and rod word in the row of its OP; the mask words by the low bits of IMM. -/
theorem decodeRod_encode {i : Instr} {v : Word} {vc : Nat} {vw : List Word} (hcls : clsOf i = none) (henc : encode i = [v])
    (hwf : i.wellFormed vc vw = true) : decodeRod v = some i := by
  obtain ⟨-, hsel, -⟩ := wellFormed_parts hwf
  cases i
  case ract w | rldv w | rwr w | rmac w | radd w | rmul w | rscl w | rcmp w | rsel w | rskp w | rsum w | rloop w | rend w
      | ired w | xred w | fill w =>
    exact decodeRod_encR (fun v hop _ => by rw [decodeRod, hop]; rfl) henc
  case rmskAnd w | rmskOr w | rmskAndn w | rmskLd w =>
    have himm : w.imm.toNat % 2 ^ 2 = _ := of_decide_eq_true hsel
    exact decodeRod_encR (fun v hop hi => by rw [decodeRod, hop, hi.low_toNat (by decide), himm]; rfl) henc
  all_goals exact nomatch hcls, henc

/-- Settles O59: the decoder computes each of the worked words. -/
theorem workedWordsDecode : Obligations.WorkedWordsDecode := by
  unfold Obligations.WorkedWordsDecode
  decide

/-- Settles O60: clause words by their format and row, frame and rod words by theirs, headers by their fields. -/
theorem decodingInvertsEncoding : Obligations.DecodingInvertsEncoding :=
  ⟨fun _ _ _ _ _ hcls hwf => decode_encode hcls hwf, fun _ _ _ _ hcls henc hwf => decodeRod_encode hcls henc hwf,
    fun _ hlen => hdrOf_encodeHdr hlen⟩

end Sys2Proof

/-! The scheduler's events (O41): what a clause fetch leaves alone, which pending group takes a place, and the exchange of places. -/
namespace Sys2Proof.Machine

/-! ## One group of the state -/

section
variable {α : Type} (l : List α) (f : α → α) {i j : Nat}

theorem getElem?_modifyAt_same : (modifyAt l i f)[i]? = l[i]?.map f := by
  induction l generalizing i with
  | nil => rfl
  | cons a r ih =>
    cases i with
    | zero => rfl
    | succ n => exact ih

theorem getElem?_modifyAt_other (h : j ≠ i) : (modifyAt l i f)[j]? = l[j]? := by
  induction l generalizing i j with
  | nil => rfl
  | cons a r ih =>
    cases i with
    | zero => obtain ⟨k, rfl⟩ := Nat.exists_eq_succ_of_ne_zero h; rfl
    | succ n =>
      cases j with
      | zero => rfl
      | succ k => exact ih (fun e => h (congrArg Nat.succ e))

end

section
variable (s : State) (wg grp : Nat) (f : Group → Group)

theorem findWg_modGrp_same :
    findWg (modGrp s wg grp f) wg = (findWg s wg).map (fun w => { w with groups := modifyAt w.groups grp f }) :=
  findWg_modWg_same s wg _ (fun _ => rfl)

theorem findWg_modGrp_other {wg' : Nat} (h : wg' ≠ wg) : findWg (modGrp s wg grp f) wg' = findWg s wg' :=
  findWg_modWg_other s wg wg' (fun w => { w with groups := modifyAt w.groups grp f }) (fun _ => rfl) h

theorem findGrp_modGrp_same : findGrp (modGrp s wg grp f) wg grp = (findGrp s wg grp).map f := by
  rw [findGrp, findWg_modGrp_same, findGrp]
  cases findWg s wg with
  | none => rfl
  | some w => exact getElem?_modifyAt_same w.groups f

theorem findGrp_modGrp_other {wg' grp' : Nat} (h : (wg', grp') ≠ (wg, grp)) :
    findGrp (modGrp s wg grp f) wg' grp' = findGrp s wg' grp' := by
  by_cases hw : wg' = wg
  case neg => rw [findGrp, findWg_modGrp_other s wg grp f hw, findGrp]
  case pos =>
    subst hw
    have hg : grp' ≠ grp := fun e => h (congrArg (Prod.mk wg') e)
    rw [findGrp, findWg_modGrp_same, findGrp]
    cases findWg s wg' with
    | none => rfl
    | some w => exact getElem?_modifyAt_other w.groups f hg

end

theorem findGrp_of_get {s : State} {wg grp : Nat} {w : Workgroup} {g : Group} (hw : findWg s wg = some w) (hg : w.groups[grp]? = some g) :
    findGrp s wg grp = some g := by
  rw [findGrp, hw]
  exact hg

theorem findWg_id {s : State} {wg : Nat} {w : Workgroup} (h : findWg s wg = some w) : w.id = wg := by
  simpa using List.find?_some h

/-! ## Clause fetch (R37, R38) -/

/-- Reading code changes only the TLBs, the cores' instruction caches and the count of free values. -/
def OnlyReadsCode (s t : State) : Prop := t = { s with dies := t.dies, cores := t.cores, freeCtr := t.freeCtr }

namespace OnlyReadsCode

theorem refl (s : State) : OnlyReadsCode s s := rfl

theorem trans {s t u : State} (h : OnlyReadsCode s t) (h' : OnlyReadsCode t u) : OnlyReadsCode s u := by
  unfold OnlyReadsCode at *
  rw [h', h]

theorem mem {s t : State} (h : OnlyReadsCode s t) : t.mem = s.mem := by rw [h]

theorem wgs {s t : State} (h : OnlyReadsCode s t) : t.wgs = s.wgs := by rw [h]

end OnlyReadsCode

theorem translate_onlyReadsCode (s : State) (die part va : Nat) : OnlyReadsCode s (translate s die part va).2 := by
  unfold translate
  split
  · exact .refl s
  · split
    · exact .refl s
    · rfl

theorem translateFor_onlyReadsCode (s : State) (die part va : Nat) (write : Bool) :
    OnlyReadsCode s (translateFor s die part va write).2 := by
  have h := translate_onlyReadsCode s die part va
  unfold translateFor
  split
  next heq =>
    rw [heq] at h
    split <;> exact h
  · exact h

theorem codeMem_onlyReadsCode (s : State) (p : Phys) : OnlyReadsCode s (codeMem s p).2 := by
  unfold codeMem
  dsimp only
  split <;> rfl

theorem codeWord_onlyReadsCode (s : State) (w : Workgroup) (l : Launch) (pc : Word) : OnlyReadsCode s (codeWord s w l pc).2 := by
  have htr := translateFor_onlyReadsCode s (dieOf s w.lcore) l.part (codeVa l pc) false
  unfold codeWord
  dsimp only
  split
  next s1 heq => rw [heq] at htr; exact htr
  next p s1 heq =>
    rw [heq] at htr
    have hmem := htr.trans (codeMem_onlyReadsCode s1 p)
    split
    · exact htr
    split
    · exact hmem.trans rfl
    split
    · exact hmem
    · exact hmem.trans rfl

theorem codeWords_onlyReadsCode (w : Workgroup) (l : Launch) (n : Nat) (s : State) (pc : Word) :
    OnlyReadsCode s (codeWords s w l pc n).2 := by
  induction n generalizing s pc with
  | zero => exact .refl s
  | succ n ih =>
    have hword := codeWord_onlyReadsCode s w l pc
    unfold codeWords
    split
    next heq => rw [heq] at hword; exact hword
    next heq => rw [heq] at hword; exact hword.trans (ih _ _)

/-- No quad of the group replays: neither one of its own, nor the absent one. -/
theorem quadAt_replay_none {g : Group} (h : ∀ q, q < g.quads.length → (quadAt g q).replay = none) (q : Nat) :
    (quadAt g q).replay = none := by
  by_cases hq : q < g.quads.length
  case pos => exact h q hq
  case neg =>
    have habsent : quadAt g q = quad0 := by simp [quadAt, List.getD_eq_getElem?_getD, Nat.le_of_not_lt hq]
    rw [habsent]
    rfl

/-- The quads of `m` hold a fetched clause. -/
def holdClause (c : Clause) (m : QMask) (g : Group) : Group := modQuads g m (fun a => { setClause c a with refused := [] })

theorem quadAt_holdClause {c : Clause} {m : QMask} {g : Group} {q : Nat} (hq : q < g.quads.length) (hm : hasQuad m q = true)
    (hrep : (quadAt g q).replay = none) :
    (quadAt (holdClause c m g) q).clause = some c ∧ (quadAt (holdClause c m g) q).pc = (quadAt g q).pc := by
  rw [holdClause, quadAt_modQuads _ _ _ _ hq, if_pos hm]
  simp [setClause, hrep]

/-- A clause that is read and found legal is held by the gang. -/
theorem fetchClause_of_legal {s s1 s2 : State} {w : Workgroup} {grp q : Nat} {g : Group} {l : Launch} {hdr h : Word} {ws : List Word}
    (hword : codeWord s w l hdr = (some h, s1)) (hwords : codeWords s1 w l (hdr + 4) (hdrOf h).len = ((ws, none), s2))
    (hsub : hdrSub h ws = none) (hrep : (quadAt g q).replay = none) :
    fetchClause s w grp g l q hdr = modGrp s2 w.id grp (holdClause (clauseOf hdr h ws) (gangOf g q)) := by
  simp only [fetchClause, fetchQuads, hword, hwords, hsub, hrep]
  rfl

theorem execClauseFetch_of_ready {s : State} {w : Workgroup} {g : Group} {l : Launch} {pc : Word} (hw : findWg s s.arg.a = some w)
    (hg : w.groups[s.arg.b]? = some g) (hl : findLaunch s w.launch = some l) (hact : g.active = true)
    (hrdy : quadReady s w g s.arg.c = true) (hpc : fetchPc g s.arg.c = some pc) :
    execClauseFetch s = .next (fetchClause s w s.arg.b g l s.arg.c pc) := by
  simp [execClauseFetch, hw, hg, hl, hact, hrdy, hpc]

/-! ## The choice of R112 -/

abbrev SlotEntry := Workgroup × Nat × Group

theorem foldl_older_mem (a : SlotEntry) (r : List SlotEntry) : r.foldl older a ∈ a :: r := by
  induction r generalizing a with
  | nil => exact List.mem_cons_self
  | cons b r ih =>
    rcases List.mem_cons.mp (ih (older a b)) with h | h
    · rw [List.foldl_cons, h]
      unfold older
      split <;> simp
    · exact List.mem_cons_of_mem _ (List.mem_cons_of_mem _ h)

theorem older_since_le (a b : SlotEntry) : (older a b).2.2.since ≤ a.2.2.since ∧ (older a b).2.2.since ≤ b.2.2.since := by
  unfold older
  split <;> omega

theorem foldl_older_since_le (a : SlotEntry) (r : List SlotEntry) : ∀ p ∈ a :: r, (r.foldl older a).2.2.since ≤ p.2.2.since := by
  induction r generalizing a with
  | nil => simp
  | cons b r ih =>
    obtain ⟨ha, hb⟩ := older_since_le a b
    have hfirst := ih (older a b) _ List.mem_cons_self
    intro p hp
    rcases List.mem_cons.mp hp with rfl | hp
    · exact hfirst.trans ha
    rcases List.mem_cons.mp hp with rfl | hp
    · exact hfirst.trans hb
    · exact ih (older a b) p (List.mem_cons_of_mem _ hp)

theorem mem_of_oldest {l : List SlotEntry} {e : SlotEntry} (h : oldest l = some e) : e ∈ l := by
  cases l with
  | nil => cases h
  | cons a r => exact Option.some.inj h ▸ foldl_older_mem a r

theorem since_le_of_oldest {l : List SlotEntry} {e : SlotEntry} (h : oldest l = some e) : ∀ p ∈ l, e.2.2.since ≤ p.2.2.since := by
  cases l with
  | nil => cases h
  | cons a r => exact Option.some.inj h ▸ foldl_older_since_le a r

theorem exists_oldest {l : List SlotEntry} (h : l ≠ []) : ∃ e, oldest l = some e := by
  cases l with
  | nil => exact absurd rfl h
  | cons a r => exact ⟨_, rfl⟩

/-- The least class number among places, where `m` bounds them. -/
def leastClass (s : State) (l : List SlotEntry) (m : Nat) : Nat := l.foldl (fun m e => min m (grpClass s e.1)) m

theorem leastClass_le_bound (s : State) (l : List SlotEntry) (m : Nat) : leastClass s l m ≤ m := by
  induction l generalizing m with
  | nil => exact Nat.le_refl m
  | cons a r ih => exact (ih _).trans (Nat.min_le_left _ _)

theorem leastClass_le (s : State) (l : List SlotEntry) (m : Nat) : ∀ p ∈ l, leastClass s l m ≤ grpClass s p.1 := by
  induction l generalizing m with
  | nil => simp
  | cons a r ih =>
    intro p hp
    rcases List.mem_cons.mp hp with rfl | hp
    · exact (leastClass_le_bound s r _).trans (Nat.min_le_right _ _)
    · exact ih _ p hp

theorem leastClass_attained (s : State) (l : List SlotEntry) (m : Nat) :
    leastClass s l m = m ∨ ∃ p ∈ l, grpClass s p.1 = leastClass s l m := by
  induction l generalizing m with
  | nil => exact .inl rfl
  | cons a r ih =>
    rcases ih (min m (grpClass s a.1)) with h | ⟨p, hp, h⟩
    · rcases Nat.le_total m (grpClass s a.1) with hm | hm
      · exact .inl (h.trans (Nat.min_eq_left hm))
      · exact .inr ⟨a, List.mem_cons_self, (h.trans (Nat.min_eq_right hm)).symm⟩
    · exact .inr ⟨p, List.mem_cons_of_mem _ hp, h⟩

/-- Classes are numbered 0 to 3 (R83). -/
theorem grpClass_le (s : State) (w : Workgroup) : grpClass s w ≤ 3 := by
  unfold grpClass
  split
  · exact Nat.le_of_lt_succ (BitVec.isLt _)
  · exact Nat.le_refl 3

theorem exists_leastClass {s : State} {l : List SlotEntry} (h : l ≠ []) : ∃ p ∈ l, grpClass s p.1 = leastClass s l 3 := by
  rcases leastClass_attained s l 3 with h3 | hp
  · obtain ⟨p, hp⟩ := List.exists_mem_of_ne_nil l h
    exact ⟨p, hp, Nat.le_antisymm (h3.symm ▸ grpClass_le s p.1) (leastClass_le s l 3 p hp)⟩
  · exact hp

/-- The ready pending groups of a slot. -/
def pending (s : State) (core slot : Nat) : List SlotEntry :=
  (slotGroups s core slot).filter (fun e => !e.2.2.active && groupReady s e.1 e.2.1)

/-- Those of age 256 clk or more. -/
def aged (s : State) (l : List SlotEntry) : List SlotEntry := l.filter (fun e => decide (256 ≤ now s - e.2.2.since))

/-- Those of the lowest class number. -/
def ofLeastClass (s : State) (l : List SlotEntry) : List SlotEntry := l.filter (fun e => grpClass s e.1 == leastClass s l 3)

theorem mem_aged {s : State} {l : List SlotEntry} {p : SlotEntry} : p ∈ aged s l ↔ p ∈ l ∧ 256 ≤ now s - p.2.2.since := by
  rw [aged, List.mem_filter, decide_eq_true_iff]

theorem mem_ofLeastClass {s : State} {l : List SlotEntry} {p : SlotEntry} :
    p ∈ ofLeastClass s l ↔ p ∈ l ∧ grpClass s p.1 = leastClass s l 3 := by
  rw [ofLeastClass, List.mem_filter, beq_iff_eq]

theorem chooseGroup_of_none_pending {s : State} {core slot : Nat} (h : pending s core slot = []) : chooseGroup s core slot = none := by
  unfold pending at h
  simp [chooseGroup, h, oldest]

theorem chooseGroup_of_aged {s : State} {core slot : Nat} (h : aged s (pending s core slot) ≠ []) :
    chooseGroup s core slot = oldest (aged s (pending s core slot)) :=
  if_neg (mt List.isEmpty_iff.mp h)

theorem chooseGroup_of_none_aged {s : State} {core slot : Nat} (h : aged s (pending s core slot) = []) :
    chooseGroup s core slot = oldest (ofLeastClass s (pending s core slot)) :=
  if_pos (List.isEmpty_iff.mpr h)

/-- What R112 asks of the group that takes a free place. -/
def FirstChoice (s : State) (l : List SlotEntry) (e : SlotEntry) : Prop :=
  e ∈ l
    ∧ ((∃ p ∈ l, 256 ≤ now s - p.2.2.since) → 256 ≤ now s - e.2.2.since ∧ ∀ p ∈ l, 256 ≤ now s - p.2.2.since → e.2.2.since ≤ p.2.2.since)
    ∧ ((∀ p ∈ l, now s - p.2.2.since < 256) →
      ∀ p ∈ l, grpClass s e.1 ≤ grpClass s p.1 ∧ (grpClass s p.1 = grpClass s e.1 → e.2.2.since ≤ p.2.2.since))

theorem chooseGroup_first {s : State} {core slot : Nat} (h : pending s core slot ≠ []) :
    ∃ e, chooseGroup s core slot = some e ∧ FirstChoice s (pending s core slot) e := by
  by_cases hnone : aged s (pending s core slot) = []
  case neg =>
    obtain ⟨e, he⟩ := exists_oldest hnone
    obtain ⟨hmem, hage⟩ := mem_aged.mp (mem_of_oldest he)
    refine ⟨e, (chooseGroup_of_aged hnone).trans he, hmem, fun _ => ⟨hage, fun p hp hpage => ?_⟩, fun hyoung => ?_⟩
    · exact since_le_of_oldest he p (mem_aged.mpr ⟨hp, hpage⟩)
    · exact absurd (hyoung e hmem) (Nat.not_lt.mpr hage)
  case pos =>
    obtain ⟨p, hp⟩ := exists_leastClass (s := s) h
    obtain ⟨e, he⟩ := exists_oldest (List.ne_nil_of_mem (mem_ofLeastClass.mpr hp))
    obtain ⟨hmem, hleast⟩ := mem_ofLeastClass.mp (mem_of_oldest he)
    refine ⟨e, (chooseGroup_of_none_aged hnone).trans he, hmem, fun ⟨q, hq⟩ => ?_, fun _ q hq => ⟨?_, fun hsame => ?_⟩⟩
    · exact absurd (mem_aged.mpr hq) (hnone ▸ List.not_mem_nil)
    · exact hleast ▸ leastClass_le s _ 3 q hq
    · exact since_le_of_oldest he q (mem_ofLeastClass.mpr ⟨hq, hsame.trans hleast⟩)

/-! ## Places of the active set (R111 to R113) -/

theorem findGrp_enter (s : State) (e : SlotEntry) :
    findGrp (enter s e) e.1.id e.2.1 = (findGrp s e.1.id e.2.1).map (fun g => { g with active := true, since := now s }) :=
  findGrp_modGrp_same _ _ _ _

theorem findGrp_enter_leave_in (s : State) {e o : SlotEntry} (h : (e.1.id, e.2.1) ≠ (o.1.id, o.2.1)) :
    findGrp (enter (leave s o) e) e.1.id e.2.1 = (findGrp s e.1.id e.2.1).map (fun g => { g with active := true, since := now s }) := by
  rw [findGrp_enter, leave, findGrp_modGrp_other _ _ _ _ h]
  rfl

theorem findGrp_enter_leave_out (s : State) {e o : SlotEntry} (h : (e.1.id, e.2.1) ≠ (o.1.id, o.2.1)) :
    findGrp (enter (leave s o) e) o.1.id o.2.1 = (findGrp s o.1.id o.2.1).map (fun g => { g with active := false, since := now s }) := by
  rw [enter, findGrp_modGrp_other _ _ _ _ h.symm, leave, findGrp_modGrp_same]

section
variable {s : State} {e o : SlotEntry}

theorem execActiveSetExchange_of_none (h : chooseGroup s s.arg.a s.arg.b = none) : execActiveSetExchange s = .next s := by
  simp [execActiveSetExchange, h]

theorem execActiveSetExchange_of_free (he : chooseGroup s s.arg.a s.arg.b = some e)
    (hfree : ((slotGroups s s.arg.a s.arg.b).filter (fun e => e.2.2.active)).length < 8) :
    execActiveSetExchange s = .next (enter s e) := by
  simp [execActiveSetExchange, he, hfree]

theorem execActiveSetExchange_of_full (he : chooseGroup s s.arg.a s.arg.b = some e)
    (hfull : 8 ≤ ((slotGroups s s.arg.a s.arg.b).filter (fun e => e.2.2.active)).length)
    (ho : oldest (((slotGroups s s.arg.a s.arg.b).filter (fun e => e.2.2.active)).filter (fun e => !groupReady s e.1 e.2.1)) = some o) :
    execActiveSetExchange s = .next (enter (leave s o) e) := by
  simp only [execActiveSetExchange, he, ho, if_neg (Nat.not_lt.mpr hfull)]

theorem execSchedulerRotate_of_aged
    (he : oldest ((slotGroups s s.arg.a s.arg.b).filter
      (fun e => !e.2.2.active && groupReady s e.1 e.2.1 && decide (256 ≤ now s - e.2.2.since))) = some e)
    (ho : oldest ((slotGroups s s.arg.a s.arg.b).filter (fun e => e.2.2.active)) = some o)
    (hfull : ((slotGroups s s.arg.a s.arg.b).filter (fun e => e.2.2.active)).length = 8)
    (hrdy : ((slotGroups s s.arg.a s.arg.b).filter (fun e => e.2.2.active)).any (fun e => !groupReady s e.1 e.2.1) = false) :
    execSchedulerRotate s = .next (enter (leave s o) e) := by
  simp only [execSchedulerRotate, he, ho, hfull, hrdy]
  rfl

end

/-! ## Sleep (R139) -/

/-- The quads of `m` run again. -/
def wakeQuads (m : QMask) (g : Group) : Group := modQuads g m (fun q => { q with st := .running, park := .none })

theorem quadAt_wakeQuads {m : QMask} {g : Group} {q : Nat} (hq : q < g.quads.length) (hm : hasQuad m q = true) :
    (quadAt (wakeQuads m g) q).st = .running ∧ (quadAt (wakeQuads m g) q).pc = (quadAt g q).pc := by
  rw [wakeQuads, quadAt_modQuads _ _ _ _ hq, if_pos hm]
  exact ⟨rfl, rfl⟩

theorem execSleepWake_of_due {s : State} {g : Group} {wake : Nat} (hg : findGrp s s.arg.a s.arg.b = some g)
    (hst : (quadAt g s.arg.c).st = .parked) (hpark : (quadAt g s.arg.c).park = .sleep wake) (hdue : wake ≤ now s) :
    execSleepWake s = .next (modGrp s s.arg.a s.arg.b (fun g => settle (wakeQuads (gangOf g s.arg.c) g))) := by
  simp [execSleepWake, hg, hst, hpark, hdue, wakeQuads]

/-! ## The events -/

/-- Settles O41: a fetch by the frame of reading code, the choice by R112's two steps, each change of places by the groups it names. -/
theorem schedulerEvents : Obligations.SchedulerEvents := by
  intro s
  refine ⟨?fetch, ⟨fun hnone => ?idle, fun hsome => chooseGroup_first hsome⟩, ?full, ?free, ?rotate, ?wake⟩
  case fetch =>
    intro w g l pc h s1 ws s2 hw hg hl hact hrdy hpc hword hwords hsub hrep
    have hreads : OnlyReadsCode s s2 := by
      have h1 := codeWord_onlyReadsCode s w l pc
      have h2 := codeWords_onlyReadsCode w l (hdrOf h).len s1 (pc + 4)
      rw [hword] at h1
      rw [hwords] at h2
      exact h1.trans h2
    have hgrp : findGrp s2 s.arg.a s.arg.b = some g := by
      rw [findGrp, findWg, hreads.wgs]
      exact findGrp_of_get hw hg
    refine ⟨_, holdClause (clauseOf pc h ws) (gangOf g s.arg.c) g, (execClauseFetch_of_ready hw hg hl hact hrdy hpc).trans
      (congrArg _ (fetchClause_of_legal hword hwords hsub (quadAt_replay_none hrep _))), hreads.mem, ?_, rfl,
      fun q hq hgang => quadAt_holdClause hq hgang (hrep q hq)⟩
    rw [findWg_id hw, findGrp_modGrp_same, hgrp]
    rfl
  case idle => exact execActiveSetExchange_of_none (chooseGroup_of_none_pending hnone)
  case full =>
    intro e o he act hfull ho hne
    exact ⟨_, execActiveSetExchange_of_full he hfull ho, rfl, findGrp_enter_leave_in s hne, findGrp_enter_leave_out s hne⟩
  case free =>
    intro e he hfree
    exact ⟨_, execActiveSetExchange_of_free he hfree, rfl, findGrp_enter s e⟩
  case rotate =>
    intro all act e o he ho hfull hrdy hne
    exact ⟨_, execSchedulerRotate_of_aged he ho hfull hrdy, rfl, findGrp_enter_leave_in s hne, findGrp_enter_leave_out s hne⟩
  case wake =>
    intro g wake hg hst hpark hdue
    refine ⟨_, wakeQuads (gangOf g s.arg.c) g, execSleepWake_of_due hg hst hpark hdue, rfl, ?_, rfl,
      fun q hq hgang => quadAt_wakeQuads hq hgang⟩
    rw [findGrp_modGrp_same, hg]
    rfl

end Sys2Proof.Machine

/-! The launch unit (R85 to R90): what a launch message does, the answer to a partition's first request, and the checks of
acceptance in their order (O38). -/
namespace Sys2Proof.Machine

/-! ## One partition of the state -/

/-- A change of the entries under a key changes what is found there. -/
theorem assoc?_map_same {α : Type} (l : List (Nat × α)) (k : Nat) (f : α → α) :
    assoc? (l.map (fun e => if e.1 = k then (e.1, f e.2) else e)) k = (assoc? l k).map f := by
  induction l with
  | nil => rfl
  | cons e r ih =>
    obtain ⟨a, v⟩ := e
    by_cases h : a = k
    · simp [assoc?, h]
    · simpa [assoc?, h] using ih

theorem findPart_modPart_same (s : State) (p : Nat) (f : Partition → Partition) :
    findPart (modPart s p f) p = (findPart s p).map f :=
  assoc?_map_same s.parts p f

/-! ## Launch messages (R87, R88) -/

/-- The partition that the message at the port names. -/
def messagePart (s : State) : Nat := fieldAt s.arg.msg.bytes 1 1

/-- The reply to the message at the port. -/
def messageReply (s : State) (c : Nat) : Msg :=
  launchReply (messagePart s) (BitVec.ofNat 16 (fieldAt s.arg.msg.bytes 2 2)) s.arg.msg.cls c 0

/-- The request that the message at the port makes. -/
def messageRequest (s : State) : Request :=
  Request.mk (.message (BitVec.ofNat 16 (fieldAt s.arg.msg.bytes 2 2)) s.arg.msg.cls) (dwordOf (fieldAt s.arg.msg.bytes 8 8)) [] none []

section
variable {s : State} (hlen : s.arg.msg.bytes.length = 32) (hkind : fieldAt s.arg.msg.bytes 0 1 = 0x21)
include hlen hkind

theorem execLaunchMessage_of_not_ready (hon : s.boot ≠ .off) (h : s.boot ≠ .ready) :
    execLaunchMessage s = .next (send s (messageReply s 7)) := by
  simp [execLaunchMessage, hlen, hkind, hon, h, messageReply, messagePart]

theorem execLaunchMessage_of_no_part (hrdy : s.boot = .ready) (hp : findPart s (messagePart s) = none) :
    execLaunchMessage s = .next (send s (messageReply s 8)) := by
  rw [messagePart] at hp
  simp [execLaunchMessage, hlen, hkind, hrdy, hp, messageReply, messagePart]

section
variable {p : Partition} (hrdy : s.boot = .ready) (hp : findPart s (messagePart s) = some p)
include hrdy hp

theorem execLaunchMessage_of_malformed (h : fieldAt s.arg.msg.bytes 4 4 ≠ 0 ∨ fieldAt s.arg.msg.bytes 0x10 16 ≠ 0) :
    execLaunchMessage s = .next (send s (messageReply s 3)) := by
  rw [messagePart] at hp
  simp [execLaunchMessage, hlen, hkind, hrdy, hp, h, messageReply, messagePart]

theorem execLaunchMessage_of_formed (hzero : fieldAt s.arg.msg.bytes 4 4 = 0) (htail : fieldAt s.arg.msg.bytes 0x10 16 = 0) :
    execLaunchMessage s = .next (modPart s (messagePart s) (fun p => { p with reqs := p.reqs ++ [messageRequest s] })) := by
  rw [messagePart] at hp
  simp [execLaunchMessage, hlen, hkind, hrdy, hp, hzero, htail, messageRequest, messagePart]

end

end

/-! ## The answer to a request (R85, R88) -/

/-- The first request of a partition leaves its queue. -/
def dropRequest (s : State) (part : Nat) : State := modPart s part (fun p => { p with reqs := p.reqs.tail })

/-- An accepted launch joins the launches under a fresh number. -/
def joinLaunches (s : State) : Option Launch → State
  | none => s
  | some l => { (freshId s).2 with launches := s.launches ++ [{ l with id := s.nextId }] }

theorem execLaunchAccept_of_answer {s s1 : State} {p : Partition} {q : Request} {more : List Request} {code tag : Nat} {l : Option Launch}
    (hp : findPart s s.arg.a = some p) (hq : p.reqs = q :: more) (hwait : q.waitPage = none)
    (hgo : luGo s s.arg.a q = .answer s1 code tag l) :
    execLaunchAccept s = .next (luAnswer (joinLaunches (dropRequest s1 s.arg.a) l) s.arg.a q code tag) := by
  simp only [execLaunchAccept, hp, Option.bind_some, hq, List.head?_cons, hwait, hgo]
  cases l <;> rfl

/-- A request that a message made is answered by a message. -/
theorem luAnswer_of_message (s : State) (part code tag : Nat) {q : Request} {seq : BitVec 16} {cls : BitVec 2} (h : q.via = .message seq cls) :
    luAnswer s part q code tag = send s (launchReply part seq cls code tag) := by
  simp only [luAnswer, h]

theorem luGo_of_bad_address (s : State) (part : Nat) {q : Request} (h : 2 ^ 57 ≤ q.addr.toNat ∨ q.addr.toNat % 64 ≠ 0) :
    luGo s part q = .answer s 1 0 none :=
  if_pos h

/-! ## The launch unit's own copy (R85) -/

/-- What the copy holds is not read again. -/
theorem luRead_of_copied {s : State} {part o tag va n : Nat} {q : Request} (f : State → Request → List Byte → LuRes)
    (h : o + n ≤ q.got.length) : luRead s part q o tag va n f = f s q (slice q.got o n) := by
  have hall : min n (q.got.length - o) = n := by omega
  simp only [luRead, hall, Nat.sub_self, luBytes, List.append_nil]

/-! ## The checks of acceptance (R85) -/

/-- Launches that stand in the queue of a launch (R89). -/
def queueLength (s : State) (part : Nat) (l : Launch) : Nat :=
  (s.launches.filter (fun k => k.part == part && classOf k == classOf l && k.st != .done)).length

section
variable {s : State} {part : Nat} {r ib bt wt : List Byte}

theorem luCheck_of_imageBad (h : imageBad (fieldAt r 0 8 % 2 ^ 57) ib = true) :
    luCheck s part r ib bt wt = .answer s 2 (fieldAt r 8 4) none :=
  if_pos h

variable (himg : imageBad (fieldAt r 0 8 % 2 ^ 57) ib = false)
include himg

theorem luCheck_of_launchBad (h : launchBad s part r (imgOf ib) = true) :
    luCheck s part r ib bt wt = .answer s 3 (fieldAt r 8 4) none := by
  simp only [luCheck, himg, h, Bool.false_eq_true, if_false, if_true]

variable (hrec : launchBad s part r (imgOf ib) = false)
include hrec

theorem luCheck_of_recBad (h : (launchOf s part r (imgOf ib) bt wt).recs.any recBad = true) :
    luCheck s part r ib bt wt = .answer s 4 (fieldAt r 8 4) none := by
  simp only [luCheck, himg, hrec, h, Bool.false_eq_true, if_false, if_true]

variable (hbuf : (launchOf s part r (imgOf ib) bt wt).recs.any recBad = false)
include hbuf

theorem luCheck_of_misfit (h : coreFit (launchOf s part r (imgOf ib) bt wt) = 0) :
    luCheck s part r ib bt wt = .answer s 5 (fieldAt r 8 4) none := by
  simp only [luCheck, himg, hrec, hbuf, h, Bool.false_eq_true, if_false, if_true]

/-- A launch that fits, waits for no other and is not EARLY meets the length of its queue alone. -/
theorem luCheck_of_fit (hfit : coreFit (launchOf s part r (imgOf ib) bt wt) ≠ 0) (hdep : depTags r = [])
    (hearly : isEarly (launchOf s part r (imgOf ib) bt wt) = false)
    (hcoop : isCoop (launchOf s part r (imgOf ib) bt wt) = true → coopFits s (launchOf s part r (imgOf ib) bt wt) = true) :
    luCheck s part r ib bt wt
      = if 64 ≤ queueLength s part (launchOf s part r (imgOf ib) bt wt) then .answer s 6 (fieldAt r 8 4) none
        else .answer s 0 (fieldAt r 8 4) (some (launchOf s part r (imgOf ib) bt wt)) := by
  have hplaced : (isCoop (launchOf s part r (imgOf ib) bt wt) && !coopFits s (launchOf s part r (imgOf ib) bt wt)) = false := by
    simpa using hcoop
  simp only [luCheck, himg, hrec, hbuf, hfit, hdep, hearly, hplaced, List.contains_nil, Bool.false_and, Bool.false_eq_true, if_false]
  rfl

end

/-- Settles O38: messages and requests by the answer to each, what is copied by the read that finds it, the checks one after another. -/
theorem launchesAreAccepted : Obligations.LaunchesAreAccepted := by
  refine ⟨fun s => ⟨?message, ?accept⟩, fun s part q o tag va n f h => luRead_of_copied f h, ?check⟩
  case message =>
    intro b part reply hlen hkind hon
    refine ⟨execLaunchMessage_of_not_ready hlen hkind hon, execLaunchMessage_of_no_part hlen hkind, fun hrdy p hp => ?_⟩
    refine ⟨execLaunchMessage_of_malformed hlen hkind hrdy hp, fun hzero htail => ?_⟩
    exact ⟨_, { p with reqs := p.reqs ++ [messageRequest s] }, execLaunchMessage_of_formed hlen hkind hrdy hp hzero htail, rfl,
      (findPart_modPart_same ..).trans (congrArg _ hp), rfl⟩
  case accept =>
    intro p q more seq cls hp hq hwait hvia
    constructor
    · intro hbad
      have hexec := execLaunchAccept_of_answer hp hq hwait (luGo_of_bad_address s s.arg.a hbad)
      rw [luAnswer_of_message _ _ _ _ hvia] at hexec
      have hrest : findPart (dropRequest s s.arg.a) s.arg.a = some { p with reqs := more } := by
        rw [dropRequest, findPart_modPart_same, hp, Option.map_some, hq, List.tail_cons]
      exact ⟨_, _, hexec, rfl, hrest, rfl⟩
    · intro s1 tag l hgo
      have hexec := execLaunchAccept_of_answer hp hq hwait hgo
      rw [luAnswer_of_message _ _ _ _ hvia] at hexec
      exact ⟨_, _, hexec, rfl, rfl, rfl, rfl, rfl⟩
  case check =>
    intro s part r ib bt wt tag h l full
    refine ⟨luCheck_of_imageBad, fun himg => ⟨luCheck_of_launchBad himg, fun hrec => ⟨luCheck_of_recBad himg hrec, fun hbuf => ?_⟩⟩⟩
    refine ⟨luCheck_of_misfit himg hrec hbuf, fun hfit hdep hearly hcoop => ?_⟩
    have hqueue := luCheck_of_fit himg hrec hbuf hfit hdep hearly hcoop
    exact ⟨fun hfull => hqueue.trans (if_pos hfull), fun hfree => hqueue.trans (if_neg hfree)⟩

end Sys2Proof.Machine

/-! Placement (R72, R73, R92 to R102): the copy of a launch's palette that a core makes, and the workgroups that start (O39). -/
namespace Sys2Proof.Machine

/-! ## One launch of the state -/

theorem findLaunch_modLaunch_same (s : State) (id : Nat) (f : Launch → Launch) (hf : ∀ l, (f l).id = l.id) :
    findLaunch (modLaunch s id f) id = (findLaunch s id).map f :=
  find_map_same s.launches f Launch.id id hf

theorem findLaunch_modLaunch_of_some {s : State} {id : Nat} {l : Launch} (f : Launch → Launch) (hf : ∀ l, (f l).id = l.id)
    (h : findLaunch s id = some l) : findLaunch (modLaunch s id f) id = some (f l) := by
  rw [findLaunch_modLaunch_same s id f hf, h, Option.map_some]

theorem findLaunch_id {s : State} {id : Nat} {l : Launch} (h : findLaunch s id = some l) : l.id = id := by
  simpa using List.find?_some h

/-! ## Reads of the launch unit -/

/-- A read by the launch unit changes only what reading code changes, and counts as an access in yield windows. -/
def OnlyReads (s t : State) : Prop := t = { s with dies := t.dies, cores := t.cores, freeCtr := t.freeCtr, calls := t.calls }

namespace OnlyReads

variable {s t u : State}

theorem refl (s : State) : OnlyReads s s := rfl

theorem ofCode (h : OnlyReadsCode s t) : OnlyReads s t := by
  rw [OnlyReadsCode] at h
  rw [OnlyReads, h]

theorem trans (h : OnlyReads s t) (h' : OnlyReads t u) : OnlyReads s u := by
  unfold OnlyReads at *
  rw [h', h]

theorem mem (h : OnlyReads s t) : t.mem = s.mem := by rw [h]

theorem wgs (h : OnlyReads s t) : t.wgs = s.wgs := by rw [h]

theorem nextId (h : OnlyReads s t) : t.nextId = s.nextId := by rw [h]

theorem findLaunch (h : OnlyReads s t) (id : Nat) : findLaunch t id = findLaunch s id := by
  rw [h]
  rfl

end OnlyReads

theorem yieldServe_onlyReads (s : State) (pas : List Nat) : OnlyReads s (yieldServe s pas) := by
  unfold yieldServe
  split
  · exact .refl s
  · rfl

theorem unitByte_onlyReads (s : State) (part die cls : Nat) (refused : List Nat) (va : Nat) :
    OnlyReads s (unitByte s part die cls refused va).2 := by
  have htr := OnlyReads.ofCode (translateFor_onlyReadsCode s die part va false)
  unfold unitByte
  split
  · exact .refl s
  split
  next heq => rw [heq] at htr; exact htr
  next p s1 heq =>
    rw [heq] at htr
    split
    · split
      · exact htr
      · exact htr.trans rfl
    · extract_lets first
      split
      · exact htr
      · exact htr.trans (yieldServe_onlyReads s1 first)

theorem unitRead_onlyReads (part die cls : Nat) (refused : List Nat) (zeros : Bool) (n : Nat) (s : State) (va : Nat) :
    OnlyReads s (unitRead s part die cls refused zeros va n).2 := by
  induction n generalizing s va with
  | zero => exact .refl s
  | succ n ih =>
    have hbyte := unitByte_onlyReads s part die cls refused va
    unfold unitRead
    split
    next b s1 heq =>
      rw [heq] at hbyte
      have hrest := hbyte.trans (ih s1 (va + 1))
      split
      next heq => rw [heq] at hrest; exact hrest
      · exact hrest
    next va' s1 heq =>
      rw [heq] at hbyte
      have hrest := hbyte.trans (ih s1 (va + 1))
      split
      · split
        next heq => rw [heq] at hrest; exact hrest
        · exact hrest
      · exact hbyte
    · exact hbyte

/-! ## The palette copy (R72) -/

theorem assoc?_assocPut_same {α : Type} (l : List (Nat × α)) (k : Nat) (v : α) : assoc? (assocPut l k v) k = some v := by
  induction l with
  | nil => simp [assocPut, assoc?]
  | cons e r ih =>
    obtain ⟨a, w⟩ := e
    unfold assocPut
    split
    · simp [assoc?]
    split
    · simp [assoc?]
    · next hne => simpa [assoc?, Ne.symm hne] using ih

/-- A launch once a core has copied its palette. -/
def withPalette (pc : Nat) (b : List (Byte × Bool)) (l : Launch) : Launch :=
  { l with palettes := assocPut l.palettes pc (smPutList [] 0 b (0, false)), palRefused := l.palRefused.filter (fun e => e.1 != pc) }

/-- The copy holds each byte that was read. -/
theorem smGet_palette {b : List (Byte × Bool)} {i : Nat} {y : Byte × Bool} (h : b[i]? = some y) :
    smGet (smPutList [] 0 b (0, false)) i (0, false) = y := by
  obtain ⟨hi, -⟩ := List.getElem?_eq_some_iff.mp h
  have hin : 0 ≤ i ∧ i < 0 + b.length := by omega
  rw [smGet_smPutList, if_pos hin, Nat.sub_zero, List.getD_eq_getElem?_getD, h]
  rfl

/-- A launch while a core's copy of its palette waits for the page of `va`. -/
def awaitPage (pc va : Nat) (l : Launch) : Launch := { l with waitPage := some (pageOf va), waitCore := some pc }

/-- The copy waits for the fault at `va`. -/
def palWaits (s : State) (l : Launch) (pc va : Nat) : State :=
  raiseFault (modLaunch s l.id (awaitPage pc va)) l.part va 0 l.tag.toNat

/-- What a core reads to fill the window of a launch. -/
def readPalette (s : State) (l : Launch) (pc : Nat) : UnitRead × State :=
  unitRead s l.part (pc / 9) (classOf l) (palGone l pc) true (l.kimg.toNat + l.paloff) l.pallen

theorem onlyReads_of_readPalette {s s1 : State} {l : Launch} {pc : Nat} {r : UnitRead} (h : readPalette s l pc = (r, s1)) :
    OnlyReads s s1 := by
  have hreads := unitRead_onlyReads l.part (pc / 9) (classOf l) (palGone l pc) true l.pallen s (l.kimg.toNat + l.paloff)
  rw [readPalette] at h
  rwa [h] at hreads

section
variable {s s1 : State} {l : Launch} {pc : Nat} (hl : findLaunch s l.id = some l)
include hl

theorem fillPalette_of_filled (h : (assoc? l.palettes pc).isSome = true) : fillPalette s l.id pc = (some s, s) := by
  simp only [fillPalette, hl, h, if_true]

theorem fillPalette_of_read {b : List (Byte × Bool)} (h : assoc? l.palettes pc = none) (hread : readPalette s l pc = (.bytes b, s1)) :
    fillPalette s l.id pc = (some (modLaunch s1 l.id (withPalette pc b)), s1) := by
  rw [readPalette] at hread
  simp only [fillPalette, hl, h, hread]
  rfl

theorem fillPalette_of_fault {va : Nat} (h : assoc? l.palettes pc = none) (hread : readPalette s l pc = (.fault va, s1)) :
    fillPalette s l.id pc = (none, palWaits s1 l pc va) := by
  rw [readPalette] at hread
  simp only [fillPalette, hl, h, hread]
  rfl

theorem fillPalettes_of_filled {pcs : List Nat} (h : ∀ pc ∈ pcs, (assoc? l.palettes pc).isSome = true) :
    fillPalettes l.id pcs s = (some s, s) := by
  induction pcs with
  | nil => rfl
  | cons pc r ih =>
    obtain ⟨hpc, hr⟩ := List.forall_mem_cons.mp h
    rw [fillPalettes, fillPalette_of_filled hl hpc]
    exact ih hr

end

/-! ## A page that faults -/

theorem raiseFault_wgs (s : State) (part va how tag : Nat) : (raiseFault s part va how tag).wgs = s.wgs := by
  unfold raiseFault
  split <;> rfl

theorem raiseFault_mem (s : State) (part va how tag : Nat) : (raiseFault s part va how tag).mem = s.mem := by
  unfold raiseFault
  split <;> rfl

theorem findLaunch_raiseFault (s : State) (part va how tag id : Nat) :
    findLaunch (raiseFault s part va how tag) id = findLaunch s id := by
  unfold raiseFault
  split <;> rfl

/-- A fault that is raised stands, as a new one or as the page's earlier one. -/
theorem faultPending_raiseFault (s : State) (part va how tag : Nat) :
    faultPending (raiseFault s part va how tag) part (pageOf va) = true := by
  unfold raiseFault
  split
  next h => exact h
  next => simp [faultPending]

/-! ## Cores without repetition -/

theorem mem_of_mem_dedupNat {x : Nat} {l : List Nat} (h : x ∈ dedupNat l) : x ∈ l := by
  induction l with
  | nil => exact h
  | cons a r ih =>
    unfold dedupNat at h
    split at h
    · exact List.mem_cons_of_mem _ (ih h)
    · rcases List.mem_cons.mp h with rfl | hr
      · exact List.mem_cons_self
      · exact List.mem_cons_of_mem _ (ih hr)

theorem dedupNat_replicate (n a : Nat) : dedupNat (List.replicate (n + 1) a) = [a] := by
  induction n with
  | zero => rfl
  | succ n ih =>
    rw [List.replicate_succ, dedupNat, if_pos (by simp), ih]

/-- A plan all of whose cores are one names that core. -/
theorem dedupNat_map_const {plan : List Nat} {f : Nat → Nat} {pc : Nat} (hne : plan ≠ []) (h : ∀ c ∈ plan, f c = pc) :
    dedupNat (plan.map f) = [pc] := by
  obtain ⟨n, hn⟩ := Nat.exists_eq_succ_of_ne_zero (mt List.length_eq_zero_iff.mp hne)
  rw [List.map_congr_left h, List.map_const', hn]
  exact dedupNat_replicate n pc

/-! ## A workgroup at its start (R73, R110, R114) -/

/-- Group `k` of a launch at its start: nothing set, and its counted quads at ENTRY. -/
def GroupStarts (l : Launch) (k : Nat) (g : Group) : Prop :=
  g.v = [] ∧ g.s = [] ∧ g.p = [] ∧ g.f = [] ∧ g.j = [] ∧ g.b = smPutList [] 0 l.recs 0 ∧ g.oob = 0
    ∧ g.counted = countedOf l.threads k ∧ g.inHandler = false
    ∧ ∀ q, q < 4 → (quadAt g q).live = quadPart (quadMates (countedOf l.threads k)) q ∧ (quadAt g q).run = (quadAt g q).live
        ∧ ((quadAt g q).live ≠ 0 → (quadAt g q).pc = l.entry ∧ (quadAt g q).st = .running)

theorem groupStarts_group0 (l : Launch) (k slot time : Nat) : GroupStarts l k (group0 l k slot time) := by
  refine ⟨rfl, rfl, rfl, rfl, rfl, rfl, rfl, rfl, rfl, fun q hq => ?_⟩
  have hquad : quadAt (group0 l k slot time) q
      = (let x := quadPart (quadMates (countedOf l.threads k)) q
         if x = 0 then quad0 else { quad0 with pc := l.entry, run := x, live := x, st := .running }) := by
    simp [quadAt, group0, quads4, List.getD_eq_getElem?_getD, hq]
  rw [hquad]
  dsimp only
  split
  next hnone => exact ⟨hnone.symm, rfl, fun h => absurd rfl h⟩
  next => exact ⟨rfl, rfl, fun _ => ⟨rfl, rfl⟩⟩

/-- Workgroup `lin` of a launch at its start on a core. -/
def WgStarts (l : Launch) (lin core : Nat) (w : Workgroup) : Prop :=
  w.launch = l.id ∧ w.lin = lin ∧ w.lcore = core ∧ w.place = .live ∧ w.win = [] ∧ w.wslots = []
    ∧ w.groups.length = groupsPer l ∧ (w.chk.isSome = isChecked l) ∧ ∀ k g, w.groups[k]? = some g → GroupStarts l k g

/-- The workgroup that starts: a CHECKED one in its first interval (R329). -/
def startedWg (s : State) (l : Launch) (core : Nat) : Workgroup :=
  let w := wg0 s l s.nextId l.next core
  if isChecked l then { w with chk := some (freshInterval (now s) (s.nextId + 1) w.groups) } else w

theorem wg0_groups {s : State} {l : Launch} {id lin core k : Nat} {g : Group} (h : (wg0 s l id lin core).groups[k]? = some g) :
    ∃ slot, g = group0 l k slot (now s) := by
  obtain ⟨hk, rfl⟩ := List.getElem?_eq_some_iff.mp h
  simp only [wg0, List.getElem_map, List.getElem_range]
  exact ⟨_, rfl⟩

theorem startedWg_starts (s : State) (l : Launch) (core : Nat) : WgStarts l l.next core (startedWg s l core) := by
  have hgroups : ∀ k g, (wg0 s l s.nextId l.next core).groups[k]? = some g → GroupStarts l k g := by
    intro k g hg
    obtain ⟨slot, rfl⟩ := wg0_groups hg
    exact groupStarts_group0 ..
  have hcount : (wg0 s l s.nextId l.next core).groups.length = groupsPer l := by simp [wg0]
  unfold startedWg
  dsimp only
  split
  next hchk => exact ⟨rfl, rfl, rfl, rfl, rfl, rfl, hcount, hchk.symm, hgroups⟩
  next hchk => exact ⟨rfl, rfl, rfl, rfl, rfl, rfl, hcount, (Bool.eq_false_iff.mpr hchk).symm, hgroups⟩

/-! ## The plan (R92, R102) -/

/-- Numbers of workgroups that are still to come are free. -/
def IdsBelow (s : State) : Prop := ∀ w ∈ s.wgs, w.id < s.nextId

/-- The launch counts one more workgroup placed. -/
def countPlaced (l : Launch) : Launch := { l with next := l.next + 1, st := .running }

theorem startedWg_id (s : State) (l : Launch) (core : Nat) : (startedWg s l core).id = s.nextId := by
  unfold startedWg
  dsimp only
  split <;> rfl

/-- A change under a number that no earlier workgroup has reaches the last one alone. -/
theorem modWg_last {s : State} {ws : List Workgroup} {w : Workgroup} (f : Workgroup → Workgroup) (hs : s.wgs = ws ++ [w])
    (h : ∀ v ∈ ws, v.id ≠ w.id) : (modWg s w.id f).wgs = ws ++ [f w] := by
  have hkeep : ws.map (fun v => if v.id = w.id then f v else v) = ws :=
    (List.map_congr_left fun v hv => if_neg (h v hv)).trans (List.map_id' ws)
  simp [modWg, hs, hkeep]

section
variable {s : State} {lid core : Nat} {l : Launch} (hl : findLaunch s lid = some l)
include hl

theorem startWg_eq (hids : IdsBelow s) :
    startWg lid s core
      = { modLaunch s lid countPlaced with nextId := s.nextId + 1, wgs := s.wgs ++ [startedWg s l core] } := by
  have hnew : ∀ v ∈ s.wgs, v.id ≠ s.nextId := fun v hv => Nat.ne_of_lt (hids v hv)
  simp only [startWg, hl, startedWg]
  split
  next =>
    -- Opening the first interval reaches the new workgroup alone.
    exact congrArg (fun ws => { modLaunch s lid countPlaced with nextId := s.nextId + 1, wgs := ws })
      (modWg_last (s := { s with nextId := s.nextId + 1, wgs := s.wgs ++ [wg0 s l s.nextId l.next core] }) _ rfl hnew)
  next => rfl

end

/-- The workgroups of a plan stand after those of before, numbered from NEXT on. -/
def Started (l : Launch) (plan : List Nat) (s t : State) : Prop :=
  ∃ ws, t.wgs = s.wgs ++ ws ∧ t.mem = s.mem ∧ ws.length = plan.length
    ∧ ∀ i c, plan[i]? = some c → ∃ w, ws[i]? = some w ∧ WgStarts l (l.next + i) c w

theorem Started.nil (l : Launch) (s : State) : Started l [] s s :=
  ⟨[], (List.append_nil _).symm, rfl, rfl, fun _ _ h => nomatch h⟩

/-- One workgroup starts, and those of the rest of the plan after it. -/
theorem Started.cons {l : Launch} {core : Nat} {plan : List Nat} {s s' t : State} {w : Workgroup} (hw : WgStarts l l.next core w)
    (hwgs : s'.wgs = s.wgs ++ [w]) (hmem : s'.mem = s.mem) (h : Started (countPlaced l) plan s' t) : Started l (core :: plan) s t := by
  obtain ⟨ws, hws, htm, hlen, hall⟩ := h
  refine ⟨w :: ws, ?_, htm.trans hmem, congrArg Nat.succ hlen, fun i c hi => ?_⟩
  · rw [hws, hwgs, List.append_assoc, List.singleton_append]
  · cases i with
    | zero => exact ⟨w, rfl, Option.some.inj hi ▸ hw⟩
    | succ n =>
      obtain ⟨v, hv, hstarts⟩ := hall n c hi
      have hlin : (countPlaced l).next + n = l.next + (n + 1) := Nat.succ_add_eq_add_succ l.next n
      exact ⟨v, hv, hlin ▸ hstarts⟩

/-- The workgroups of a plan start one after another; the launch keeps its palette copies. -/
theorem foldl_startWg {s : State} {l : Launch} {lid : Nat} {plan : List Nat} (hl : findLaunch s lid = some l) (hids : IdsBelow s) :
    Started l plan s (plan.foldl (startWg lid) s)
      ∧ ∃ l', findLaunch (plan.foldl (startWg lid) s) lid = some l' ∧ l'.palettes = l.palettes := by
  induction plan generalizing s l with
  | nil => exact ⟨.nil l s, l, hl, rfl⟩
  | cons core plan ih =>
    have hstep := startWg_eq (core := core) hl hids
    have hnext : findLaunch (startWg lid s core) lid = some (countPlaced l) := by
      rw [hstep]
      exact findLaunch_modLaunch_of_some countPlaced (fun _ => rfl) hl
    have hbelow : IdsBelow (startWg lid s core) := by
      rw [hstep]
      exact List.forall_mem_append.mpr ⟨fun v hv => Nat.lt_succ_of_lt (hids v hv),
        List.forall_mem_singleton.mpr (startedWg_id s l core ▸ Nat.lt_succ_self _)⟩
    obtain ⟨hstarted, hkept⟩ := ih hnext hbelow
    exact ⟨.cons (startedWg_starts s l core) (by rw [hstep]) (by rw [hstep]; rfl) hstarted, hkept⟩

/-! ## WORKGROUP_PLACE -/

theorem execWorkgroupPlace_of_plan {s : State} {l : Launch} {plan : List Nat} (hl : findLaunch s s.arg.a = some l)
    (helig : eligible s l = true) (hwait : l.waitPage = none) (hout : outWgs s l.id = []) (hnext : l.next < gridSize l)
    (hplan : planStep s l s.arg.b (stepSizes l) = some plan) (hmay : mayTake s l plan = true) :
    execWorkgroupPlace s = .next (startOn s l.id plan) := by
  simp [execWorkgroupPlace, hl, helig, hwait, hout, hnext, hplan, hmay]

section
variable {s : State} {l : Launch} {plan : List Nat} (hl : findLaunch s l.id = some l)
include hl

/-- Where each core has the palette, the plan's workgroups start at once. -/
theorem startOn_of_filled (h : ∀ c ∈ plan, (assoc? l.palettes (physCore s c)).isSome = true) :
    startOn s l.id plan = plan.foldl (startWg l.id) s := by
  have hfilled : ∀ pc ∈ dedupNat (plan.map (physCore s)), (assoc? l.palettes pc).isSome = true := by
    intro pc hpc
    obtain ⟨c, hc, rfl⟩ := List.mem_map.mp (mem_of_mem_dedupNat hpc)
    exact h c hc
  rw [startOn, fillPalettes_of_filled hl hfilled]

variable {s1 : State} {pc : Nat} (hne : plan ≠ []) (hcore : ∀ c ∈ plan, physCore s c = pc) (hpal : assoc? l.palettes pc = none)
include hne hcore hpal

/-- Where the plan's one core can read the palette, the workgroups start on the copy. -/
theorem startOn_of_read {b : List (Byte × Bool)} (hread : readPalette s l pc = (.bytes b, s1)) :
    startOn s l.id plan = plan.foldl (startWg l.id) (modLaunch s1 l.id (withPalette pc b)) := by
  simp only [startOn, dedupNat_map_const hne hcore, fillPalettes, fillPalette_of_read hl hpal hread]

theorem startOn_of_fault {va : Nat} (hread : readPalette s l pc = (.fault va, s1)) :
    startOn s l.id plan = palWaits s1 l pc va := by
  simp only [startOn, dedupNat_map_const hne hcore, fillPalettes, fillPalette_of_fault hl hpal hread]

end

/-- A state that reads the same launches and workgroups, with the palette copied, starts the same workgroups. -/
theorem Started.of_read {s s1 t : State} {l : Launch} {plan : List Nat} {pc : Nat} {b : List (Byte × Bool)} (hreads : OnlyReads s s1)
    (h : Started (withPalette pc b l) plan (modLaunch s1 l.id (withPalette pc b)) t) : Started l plan s t := by
  obtain ⟨ws, hws, hmem, hrest⟩ := h
  exact ⟨ws, hws.trans (congrArg (· ++ ws) hreads.wgs), hmem.trans hreads.mem, hrest⟩

/-- Settles O39: the plan's workgroups one after another, on the palettes that are there, or on the copy that the one core reads;
a copy that faults leaves the workgroups as they were. -/
theorem workgroupsStart : Obligations.WorkgroupsStart := by
  intro s l plan harg _ hids helig hwait hout hnext hplan hmay started
  have hexec := execWorkgroupPlace_of_plan harg helig hwait hout hnext hplan hmay
  have hl : findLaunch s l.id = some l := by rw [findLaunch_id harg, harg]
  refine ⟨fun hfilled => ?filled, fun pc hne hcore hpal => ⟨fun b s1 hread => ?read, fun va s1 hread => ?fault⟩⟩
  case filled =>
    rw [startOn_of_filled hl hfilled] at hexec
    exact ⟨_, hexec, (foldl_startWg hl hids).1⟩
  case read =>
    have hreads := onlyReads_of_readPalette hread
    have hcopied : findLaunch (modLaunch s1 l.id (withPalette pc b)) l.id = some (withPalette pc b l) :=
      findLaunch_modLaunch_of_some _ (fun _ => rfl) ((hreads.findLaunch l.id).trans hl)
    have hbelow : IdsBelow (modLaunch s1 l.id (withPalette pc b)) := by
      intro w hw
      rw [modLaunch_wgs, hreads.wgs] at hw
      rw [modLaunch_nextId, hreads.nextId]
      exact hids w hw
    rw [startOn_of_read hl hne hcore hpal hread] at hexec
    obtain ⟨hstarted, l', hl', hkept⟩ := foldl_startWg (plan := plan) hcopied hbelow
    refine ⟨_, l', _, hexec, hstarted.of_read hreads, hl', ?_, fun i y hy => smGet_palette hy⟩
    rw [hkept]
    exact assoc?_assocPut_same l.palettes pc _
  case fault =>
    have hreads := onlyReads_of_readPalette hread
    rw [startOn_of_fault hl hne hcore hpal hread] at hexec
    have hwaits : findLaunch (modLaunch s1 l.id (awaitPage pc va)) l.id = some (awaitPage pc va l) :=
      findLaunch_modLaunch_of_some _ (fun _ => rfl) ((hreads.findLaunch l.id).trans hl)
    exact ⟨_, awaitPage pc va l, hexec, (raiseFault_wgs ..).trans hreads.wgs, (raiseFault_mem ..).trans hreads.mem,
      (findLaunch_raiseFault ..).trans hwaits, rfl, faultPending_raiseFault ..⟩

end Sys2Proof.Machine

/-! The launch and call words (R105 to R109, R216, R279, R290): what each does to its group and to what it asks for outside it (O36). -/
namespace Sys2Proof.Machine

/-! ## Changes of the issuing group -/

theorem modifyAt_modifyAt {α : Type} (l : List α) (i : Nat) (f f' : α → α) :
    modifyAt (modifyAt l i f) i f' = modifyAt l i (fun a => f' (f a)) := by
  induction l generalizing i with
  | nil => rfl
  | cons a r ih =>
    cases i with
    | zero => rfl
    | succ n => exact congrArg (a :: ·) (ih n)

theorem modGrp_modGrp (s : State) (wg grp : Nat) (f f' : Group → Group) :
    modGrp (modGrp s wg grp f) wg grp f' = modGrp s wg grp (fun g => f' (f g)) := by
  unfold modGrp modWg
  simp only [List.map_map]
  congr 1
  refine List.map_congr_left fun w _ => ?_
  by_cases h : w.id = wg <;> simp [h, modifyAt_modifyAt]

theorem modifyAt_id {α : Type} (l : List α) (i : Nat) : modifyAt l i (fun a => a) = l := by
  induction l generalizing i with
  | nil => rfl
  | cons a r ih =>
    cases i with
    | zero => rfl
    | succ n => exact congrArg (a :: ·) (ih n)

theorem modGrp_id (s : State) (wg grp : Nat) : modGrp s wg grp (fun g => g) = s := by
  unfold modGrp modWg
  simp [modifyAt_id]

/-- A change of one group in any state where it stands is a step of that group alone. -/
theorem modGrp_stepAt {s : State} {x : Ctx} (hw : findWg s x.c.wg = some x.w) (hg : x.w.groups[x.c.grp]? = some x.g) (f : Group → Group) :
    GroupStep s (modGrp s x.c.wg x.c.grp f) x (f x.g) where
  rest := rfl
  others := fun _ hid => findWg_modGrp_other s _ _ f hid
  here := by rw [findWg_modGrp_same, hw, Option.map_some, modifyAt_of_get _ _ _ _ hg]

/-- A word that only writes scalar `d` and goes on. -/
theorem putS_advanceGrp_writes (x : Ctx) (d : Nat) (y : Word) : SclWrites x (advanceGrp x.c (putS x.g d y)) (toS d y) where
  rest := by rw [advanceGrp_frame]; rfl
  on := ⟨x.g.quads, rfl, advanceGrp_again x.c (putS x.g d y)⟩
  slots := fun n => by
    rw [advanceGrp_frame]
    change getS (putSSlot x.g d _) n = _
    rw [getS_putSSlot, toS]
    split <;> rfl

/-! ## LAUNCH (R105, R106) -/

/-- The request that a LAUNCH makes. -/
def wordRequest (s : State) (x : Ctx) (w : FmtY) : Request :=
  Request.mk (.word x.c.wg x.c.grp x.c.quads w.d.toNat) (dwordOf (readInt s x w.a 64 false 0)) [] none []

/-- A request joins its partition's queue. -/
def addRequest (q : Request) (p : Partition) : Partition := { p with reqs := p.reqs ++ [q] }

theorem writesBlocked_of_idle (s : State) (wg : Nat) {g : Group} (h : g.ops = []) : writesBlocked s wg g = false := by
  simp [writesBlocked, h]

theorem performWrites_of_idle {s : State} {wg grp : Nat} {g : Group} (hg : findGrp s wg grp = some g) (h : g.ops = []) :
    performWrites s wg grp = s := by
  simp [performWrites, hg, h]

/-- With nothing outstanding there is nothing to perform before the request joins its partition's queue. -/
theorem launchGo_of_idle {s : State} {gd : BitVec 3} {x : Ctx} (w : FmtY) (hi : Issues s gd x) (h : x.g.ops = []) :
    launchGo w x s = .ok (modGrp (modPart s x.l.part (addRequest (wordRequest s x w))) x.c.wg x.c.grp
      (parkGrp x.c .launchAnswer)) := by
  have hg := findGrp_of_get hi.wg hi.grp
  simp only [launchGo, hg, writesBlocked_of_idle s x.c.wg h, performWrites_of_idle hg h]
  rfl

theorem withCut_of_plain {s : State} {x : Ctx} (f : State → Res) (h : x.w.chk = none) : withCut s x f = closeRes s x (f s) := by
  rw [withCut, h]

theorem launch_asks {s : State} {x : Ctx} {w : FmtY} (hi : Issues s w.g x) (ha : GroupActs x) (hr : Reads x [srcOf 0 w.a 2] x.act)
    {p : Partition} (hp : findPart s x.l.part = some p) :
    ∃ t g p', exec (.launch w) s = .next t ∧ GroupStep s { t with parts := s.parts } x g ∧ Parks x .launchAnswer g
      ∧ findPart t x.l.part = some p' ∧ p'.reqs = p.reqs ++ [wordRequest s x w] := by
  have hexec : execLaunch w s = _ := sysWord_next hi ha.act _
  rw [withSources_reads _ hr, withCut_of_plain _ ha.plain, launchGo_of_idle w hi ha.idle] at hexec
  refine ⟨_, _, addRequest (wordRequest s x w) p, hexec, modGrp_step hi (parkGrp x.c .launchAnswer), parkGrp_parks x .launchAnswer, ?_, rfl⟩
  exact (findPart_modPart_same s x.l.part (addRequest (wordRequest s x w))).trans (congrArg (Option.map _) hp)

/-! ## LWAIT (R107) -/

theorem parkLwait_parks (x : Ctx) (id : Nat) : Parks x (.lwait id x.c.pc) (parkLwait x.c id x.g) :=
  ⟨rfl, fun q hq hm _ => by
    rw [parkLwait, quadAt_modQuads _ _ _ _ hq, if_pos hm]
    exact ⟨rfl, rfl, rfl⟩⟩

section
variable {s : State} {x : Ctx} {w : FmtY} (hi : Issues s w.g x) (ha : groupAct x ≠ 0) (hr : Reads x [srcOf 0 w.a 1] x.act)
include hi ha hr

theorem lwait_goesOn (h : tagHolder s x.l.part (readUN s x w.a) = none) :
    ∃ t g, exec (.lwait w) s = .next t ∧ GroupStep s t x g ∧ OnlyMoves x g := by
  have hexec : execLwait w s = _ := sysWord_next hi ha _
  rw [withSources_reads _ hr] at hexec
  simp only [h] at hexec
  exact ⟨_, _, hexec, advance_step hi⟩

theorem lwait_parks {k : Launch} (h : tagHolder s x.l.part (readUN s x w.a) = some k) (hk : k.id ≠ x.l.id) :
    ∃ t g, exec (.lwait w) s = .next t ∧ GroupStep s t x g ∧ Parks x (.lwait k.id x.c.pc) g := by
  have hexec : execLwait w s = _ := sysWord_next hi ha _
  rw [withSources_reads _ hr] at hexec
  simp only [h, if_neg hk] at hexec
  exact ⟨_, _, hexec, modGrp_step hi _, parkLwait_parks x k.id⟩

/-! ## QLOC and QLEP (R108, R109) -/

theorem queryWord_writes (f : State → Ctx → Workgroup → Nat) :
    ∃ t g, queryWord w s f = .next t ∧ GroupStep s t x g
      ∧ SclWrites x g (toS w.d.toNat (match queried s x w with | some m => wordOf (f s x m) | none => 0xFFFFFFFF)) := by
  have hexec : queryWord w s f = _ := sysWord_next hi ha _
  rw [withSources_reads _ hr] at hexec
  exact ⟨_, _, hexec, modGrp_step hi _, putS_advanceGrp_writes x _ _⟩

end

/-! ## QSPR (R290) -/

theorem reads_nil (x : Ctx) : Reads x [] x.act where
  clean := by
    have h : maskOf (fun _ => false) = 0 := by decide
    simpa [poisonLanes, lanePoison] using h
  known := fun _ => rfl

theorem qspr_writes {s : State} {x : Ctx} {w : FmtY} (hi : Issues s w.g x) (ha : groupAct x ≠ 0)
    (hr : w.k ≠ 4 → Reads x [srcOf 0 w.a 1] x.act) :
    ∃ t g, exec (.qspr w) s = .next t ∧ GroupStep s t x g
      ∧ SclWrites x g (toS w.d.toNat (wordOf (qsprValue s x.l.part w.k.toNat (readUN s x w.a)))) := by
  have hsrc : Reads x (if w.k = 4 then [] else [srcOf 0 w.a 1]) x.act := by
    split
    next => exact reads_nil x
    next h => exact hr h
  have hexec : execQspr w s = _ := sysWord_next hi ha _
  rw [withSources_reads _ hsrc] at hexec
  exact ⟨_, _, hexec, modGrp_step hi _, putS_advanceGrp_writes x _ _⟩

/-! ## RJN (R216) -/

/-- The gang of `c` holds at the RJN that it issues. -/
def holdAtRjn (c : Issue) (g : Group) : Group := modQuads g c.quads (fun q => { q with st := .holdRjn, pc := c.pc, clause := some c.clause })

theorem joinSplit_frame (g : Group) : joinSplit g = { g with quads := (joinSplit g).quads, split := (joinSplit g).split } := by
  unfold joinSplit
  dsimp only
  split
  · rfl
  split
  · rfl
  split <;> rfl

/-- A split that stays open moves no quad. -/
theorem joinSplit_quads_of_open {g : Group} (h : (joinSplit g).split ≠ none) : (joinSplit g).quads = g.quads := by
  revert h
  unfold joinSplit
  dsimp only
  split
  · exact fun _ => rfl
  split
  · exact fun _ => rfl
  split
  · exact fun h => absurd rfl h
  · exact fun _ => rfl

section
variable {s : State} {x : Ctx} {w : FmtY} (hi : Issues s w.g x)
include hi

theorem rjn_goesOn (h : ∀ q, hasQuad x.c.quads q = true → inSplit x.g q = false) :
    ∃ t g, exec (.rjn w) s = .next t ∧ GroupStep s t x g ∧ OnlyMoves x g := by
  have hexec : execRjn w s = _ := withCtx_next hi _
  have hout : (quadsOf x.c.quads).any (inSplit x.g) = false :=
    List.any_eq_false.mpr fun q hq => by simp [h q (List.mem_filter.mp hq).2]
  rw [holdSplit, hout] at hexec
  exact ⟨_, _, hexec, advance_step hi⟩

theorem rjn_holds (h : ∃ q, q < 4 ∧ hasQuad x.c.quads q = true ∧ inSplit x.g q = true) :
    ∃ t g, exec (.rjn w) s = .next t ∧ GroupStep s t x g ∧ g = { x.g with quads := g.quads, split := g.split }
      ∧ (g.split ≠ none → ∀ q, q < x.g.quads.length → hasQuad x.c.quads q = true → (quadAt g q).st = .holdRjn ∧ (quadAt g q).pc = x.c.pc) := by
  obtain ⟨p, hp, hmine, hsplit⟩ := h
  have hexec : execRjn w s = _ := withCtx_next hi _
  have hin : (quadsOf x.c.quads).any (inSplit x.g) = true :=
    List.any_eq_true.mpr ⟨p, List.mem_filter.mpr ⟨List.mem_range.mpr hp, hmine⟩, hsplit⟩
  rw [holdSplit, hin] at hexec
  refine ⟨_, _, hexec, modGrp_step hi (fun g => joinSplit (holdAtRjn x.c g)), joinSplit_frame _, fun hopen q hq hm => ?_⟩
  rw [quadAt, joinSplit_quads_of_open hopen, ← quadAt, holdAtRjn, quadAt_modQuads _ _ _ _ hq, if_pos hm]
  exact ⟨rfl, rfl⟩

end

/-! ## Sequencers do not see the rejoin masks and the sticky bits -/

/-- The header actions of every running quad that stands at a header. -/
def actHeaders (g : Group) : Group :=
  { g with quads := g.quads.map (fun q =>
    if (q.st = .running ∧ atHeader q ∧ q.pred.isNone ∧ q.replay.isNone) ∨ q.live = 0 then headerRun 24 q else q) }

theorem settleGo_succ (n : Nat) (g : Group) : settleGo (n + 1) g = (gangRelease (actHeaders g)).elim (actHeaders g) (settleGo n) := by
  unfold settleGo actHeaders
  dsimp only
  split
  next h => rw [h]; rfl
  next h => rw [h]; rfl

/-- A group with other rejoin masks and sticky bits. -/
def withMarks (j : SMap LMask) (oob : BitVec 16) (g : Group) : Group := { g with j := j, oob := oob }

section
variable (j : SMap LMask) (oob : BitVec 16)

theorem modQuads_withMarks (g : Group) (m : QMask) (f : Quad → Quad) : modQuads (withMarks j oob g) m f = withMarks j oob (modQuads g m f) := rfl

theorem partGangs_withMarks (g : Group) : partGangs (withMarks j oob g) = withMarks j oob (partGangs g) := rfl

theorem mayMerge_withMarks (g : Group) (p q : Nat) : mayMerge (withMarks j oob g) p q = mayMerge g p q := rfl

theorem gangOf_withMarks (g : Group) (q : Nat) : gangOf (withMarks j oob g) q = gangOf g q := rfl

theorem quadAt_withMarks (g : Group) (q : Nat) : quadAt (withMarks j oob g) q = quadAt g q := rfl

theorem gangRelease_withMarks (g : Group) : gangRelease (withMarks j oob g) = (gangRelease g).map (withMarks j oob) := by
  unfold gangRelease
  simp only [quadAt_withMarks, modQuads_withMarks]
  split
  · rfl
  · split <;> rfl

theorem actHeaders_withMarks (g : Group) : actHeaders (withMarks j oob g) = withMarks j oob (actHeaders g) := rfl

theorem settleGo_withMarks (n : Nat) (g : Group) : settleGo n (withMarks j oob g) = withMarks j oob (settleGo n g) := by
  induction n generalizing g with
  | zero => rfl
  | succ n ih =>
    rw [settleGo_succ, settleGo_succ, actHeaders_withMarks, gangRelease_withMarks]
    cases gangRelease (actHeaders g) with
    | none => rfl
    | some g2 => exact ih g2

theorem mergeGangs_withMarks (n : Nat) (g : Group) : mergeGangs n (withMarks j oob g) = withMarks j oob (mergeGangs n g) := by
  induction n generalizing g with
  | zero => rfl
  | succ n ih =>
    unfold mergeGangs
    simp only [mayMerge_withMarks, gangOf_withMarks, modQuads_withMarks]
    split
    · rfl
    · exact ih _

theorem settle_withMarks (g : Group) : settle (withMarks j oob g) = withMarks j oob (settle g) := by
  rw [settle, settleGo_withMarks, partGangs_withMarks, mergeGangs_withMarks, settle]

theorem advanceGrp_withMarks (c : Issue) (g : Group) : advanceGrp c (withMarks j oob g) = withMarks j oob (advanceGrp c g) := by
  simp only [advanceGrp, modQuads_withMarks, settle_withMarks]
  split
  · rfl
  split <;> rfl

end

/-! ## MCALL (R279)

The lanes' calls and marks, one lane after another, come to one change of the group and one list of calls. -/

/-- Calls join the others, under numbers that count on. -/
def addCalls (s : State) (cs : List Call) : State := { s with nextId := s.nextId + cs.length, calls := s.calls ++ cs }

theorem addCalls_addCalls (s : State) (cs cs' : List Call) : addCalls (addCalls s cs) cs' = addCalls s (cs ++ cs') := by
  unfold addCalls
  simp only [List.length_append, Nat.add_assoc, List.append_assoc]

/-- One group changes, and calls join the others. -/
def withCalls (s : State) (wg grp : Nat) (f : Group → Group) (cs : List Call) : State := modGrp (addCalls s cs) wg grp f

theorem withCalls_nil (s : State) (wg grp : Nat) (f : Group → Group) : withCalls s wg grp f [] = modGrp s wg grp f := by
  rw [withCalls, addCalls, List.append_nil]
  rfl

theorem withCalls_withCalls (s : State) (wg grp : Nat) (f f' : Group → Group) (cs cs' : List Call) :
    withCalls (withCalls s wg grp f cs) wg grp f' cs' = withCalls s wg grp (fun g => f' (f g)) (cs ++ cs') := by
  rw [withCalls, withCalls, withCalls, ← addCalls_addCalls]
  exact modGrp_modGrp (addCalls (addCalls s cs) cs') wg grp f f'

section
variable (s : State) (x : Ctx) (w : FmtYX) (after : Nat)

/-- Lane `l` makes a call: it is counted, and its block lies in the record. -/
def callsFor (l : Nat) : Bool := hasLane x.g.counted l && mcallIn (getB x.g (w.k.toNat % 16)) (mcallOff s x w l)

/-- The call of lane `l` under number `id`. -/
def callOf (id l : Nat) : Call := { call0 s x w l (mcallOff s x w l).toNat after with id := id }

/-- The calls of lanes `ls` under the numbers from `id` on. -/
def callsFrom (id : Nat) (ls : List Nat) : List Call := (ls.filter (callsFor s x w)).mapIdx (fun i l => callOf s x w after (id + i) l)

/-- The bit of lane `l` in the rejoin mask falls where the lane calls, and rises where it does not. -/
def markLane (g : Group) (l : Nat) : Group :=
  let m := getJ g (w.d.toNat % 8)
  putJ g (w.d.toNat % 8) (if callsFor s x w l then m &&& ~~~laneBit l else m ||| laneBit l)

theorem callsFrom_cons (id l : Nat) (ls : List Nat) :
    callsFrom s x w after id (l :: ls) = callsFrom s x w after id [l] ++ callsFrom s x w after (id + (callsFrom s x w after id [l]).length) ls := by
  cases h : callsFor s x w l with
  | false => simp [callsFrom, h]
  | true => simp [callsFrom, h, List.mapIdx_cons, Nat.add_assoc, Nat.add_comm 1]

theorem mcallLane_eq (l : Nat) :
    mcallLane x w after s l = withCalls s x.c.wg x.c.grp (markLane s x w · l) (callsFrom s x w after s.nextId [l]) := by
  have hcall : (!hasLane x.g.counted l || !mcallIn (getB x.g (w.k.toNat % 16)) (mcallOff s x w l)) = !callsFor s x w l := by
    rw [callsFor, Bool.not_and]
  unfold mcallLane
  dsimp only
  rw [hcall]
  cases h : callsFor s x w l with
  | false => simp [callsFrom, markLane, h, withCalls_nil]
  | true =>
    simp [callsFrom, markLane, h]
    rfl

theorem foldl_mcallLane (ls : List Nat) :
    ls.foldl (mcallLane x w after) s = withCalls s x.c.wg x.c.grp (ls.foldl (markLane s x w)) (callsFrom s x w after s.nextId ls) := by
  induction ls generalizing s with
  | nil => simp [callsFrom, withCalls_nil, modGrp_id]
  | cons l ls ih =>
    rw [List.foldl_cons, ih, mcallLane_eq, callsFrom_cons s x w after s.nextId l ls]
    exact withCalls_withCalls s x.c.wg x.c.grp (markLane s x w · l) (ls.foldl (markLane s x w)) _ _

theorem length_callsFrom (id : Nat) (ls : List Nat) : (callsFrom s x w after id ls).length = (ls.filter (callsFor s x w)).length :=
  List.length_mapIdx

theorem getElem?_callsFrom {id i l : Nat} {ls : List Nat} (h : (ls.filter (callsFor s x w))[i]? = some l) :
    (callsFrom s x w after id ls)[i]? = some (callOf s x w after (id + i) l) := by
  rw [callsFrom, List.getElem?_mapIdx, h]
  rfl

/-- The offset of a block in its record is no negative number. -/
theorem callOf_off {id l : Nat} (h : callsFor s x w l = true) : ((callOf s x w after id l).off : Int) = mcallOff s x w l := by
  simp only [callsFor, mcallIn, offIn, Bool.and_eq_true, decide_eq_true_eq] at h
  obtain ⟨-, ⟨hpos, -⟩, -⟩ := h
  exact Int.toNat_of_nonneg hpos

/-! ### The rejoin mask and the sticky bit -/

theorem foldl_markLane_frame (ls : List Nat) (g : Group) :
    ls.foldl (markLane s x w) g = { g with j := (ls.foldl (markLane s x w) g).j } := by
  induction ls generalizing g with
  | nil => rfl
  | cons l ls ih => rw [List.foldl_cons, ih]; rfl

theorem getJ_foldl_markLane_other (ls : List Nat) (g : Group) {n : Nat} (h : n ≠ w.d.toNat % 8) :
    getJ (ls.foldl (markLane s x w) g) n = getJ g n := by
  induction ls generalizing g with
  | nil => rfl
  | cons l ls ih => rw [List.foldl_cons, ih, markLane, getJ_putJ, if_neg h]

theorem hasLane_markLane (g : Group) {a l : Nat} (ha : a < 16) (hl : l < 16) :
    hasLane (getJ (markLane s x w g a) (w.d.toNat % 8)) l
      = if l = a then !callsFor s x w a else hasLane (getJ g (w.d.toNat % 8)) l := by
  have hbit : (laneBit a).getLsbD l = decide (l = a) := hasLane_laneBit a l ha hl
  rw [markLane, getJ_putJ, if_pos rfl]
  cases callsFor s x w a with
  | false =>
    simp only [hasLane, BitVec.getLsbD_or, hbit, Bool.false_eq_true, if_false]
    by_cases h : l = a <;> simp [h]
  | true =>
    simp only [hasLane, BitVec.getLsbD_and, BitVec.getLsbD_not, hbit, hl, if_true]
    by_cases h : l = a <;> simp [h]

/-- Each lane's bit says whether the lane made no call; the bits of other lanes stay. -/
theorem hasLane_foldl_markLane {ls : List Nat} (hls : ∀ l ∈ ls, l < 16) (g : Group) {l : Nat} (hl : l < 16) :
    hasLane (getJ (ls.foldl (markLane s x w) g) (w.d.toNat % 8)) l
      = if l ∈ ls then !callsFor s x w l else hasLane (getJ g (w.d.toNat % 8)) l := by
  induction ls generalizing g with
  | nil => rfl
  | cons a ls ih =>
    obtain ⟨ha, hr⟩ := List.forall_mem_cons.mp hls
    rw [List.foldl_cons, ih hr, hasLane_markLane s x w g ha hl]
    by_cases hin : l ∈ ls <;> by_cases heq : l = a <;> simp [hin, heq]

/-- The record's sticky bit is set where a confirmed lane's block lies out of it. -/
def markOob (g : Group) : Group :=
  if (lanesOf (sureLanes x)).any (fun l => !mcallIn (getB x.g (w.k.toNat % 16)) (mcallOff s x w l)) then setSticky (w.k.toNat % 16) g else g

theorem markOob_frame (g : Group) : markOob s x w g = { g with oob := (markOob s x w g).oob } := by
  unfold markOob
  split <;> rfl

theorem modGrp_markOob :
    modGrp s x.c.wg x.c.grp (markOob s x w)
      = if (lanesOf (sureLanes x)).any (fun l => !mcallIn (getB x.g (w.k.toNat % 16)) (mcallOff s x w l)) then
          modGrp s x.c.wg x.c.grp (setSticky (w.k.toNat % 16)) else s := by
  split
  next h => exact congrArg (modGrp s x.c.wg x.c.grp) (funext fun g => if_pos h)
  next h => exact (congrArg (modGrp s x.c.wg x.c.grp) (funext fun g => if_neg h)).trans (modGrp_id ..)

theorem oob_markOob (g : Group) :
    (markOob s x w g).oob
      = if (lanesOf (sureLanes x)).all (fun l => mcallIn (getB x.g (w.k.toNat % 16)) (mcallOff s x w l)) then g.oob
        else g.oob ||| BitVec.ofNat 16 (2 ^ (w.k.toNat % 16)) := by
  rw [List.all_eq_not_any_not, markOob]
  cases (lanesOf (sureLanes x)).any (fun l => !mcallIn (getB x.g (w.k.toNat % 16)) (mcallOff s x w l)) <;> rfl

/-! ### The word as a whole -/

/-- The group once its marks stand. -/
def marked (g : Group) : Group := (lanesOf x.act).foldl (markLane s x w) (markOob s x w g)

/-- The calls of the word, all of which stand at its place. -/
def wordCalls : List Call := callsFrom s x w s.nextId s.nextId (lanesOf x.act)

/-- The group after the word: parked while a call of it is being accepted, else at the word after. -/
def mcallGroup (g : Group) : Group :=
  if wordCalls s x w = [] then advanceGrp x.c (marked s x w g)
  else parkGrp x.c (.mcall s.nextId (s.nextId + (wordCalls s x w).length)) (marked s x w g)

theorem mcallGo_of_untrapped (ht : mcallTrap s x w = none) (hf : heldByFault x.g = false) :
    mcallGo x w s = .ok (withCalls s x.c.wg x.c.grp (mcallGroup s x w) (wordCalls s x w)) := by
  have hfold : (lanesOf x.act).foldl (mcallLane x w s.nextId) (modGrp s x.c.wg x.c.grp (markOob s x w))
      = withCalls s x.c.wg x.c.grp (marked s x w) (wordCalls s x w) := by
    rw [foldl_mcallLane, ← withCalls_nil, withCalls_withCalls]
    rfl
  have hmove : ∀ f, modGrp (withCalls s x.c.wg x.c.grp (marked s x w) (wordCalls s x w)) x.c.wg x.c.grp f
      = withCalls s x.c.wg x.c.grp (fun g => f (marked s x w g)) (wordCalls s x w) := fun f => modGrp_modGrp ..
  unfold mcallGo
  dsimp only
  rw [← modGrp_markOob, ht, hf]
  dsimp only
  rw [modGrp_nextId, hfold, show advance _ x.c = _ from hmove _, hmove, if_neg Bool.false_ne_true]
  by_cases hnone : wordCalls s x w = []
  case pos =>
    have hgrp : mcallGroup s x w = fun g => advanceGrp x.c (marked s x w g) := funext fun _ => if_pos hnone
    rw [if_pos (by rw [hnone]; rfl), hgrp]
  case neg =>
    have hgrp : mcallGroup s x w = fun g => parkGrp x.c (.mcall s.nextId (s.nextId + (wordCalls s x w).length)) (marked s x w g) :=
      funext fun _ => if_neg hnone
    have hmore : s.nextId + (wordCalls s x w).length ≠ s.nextId := by
      have := List.length_pos_iff.mpr hnone
      omega
    exact (if_neg hmore).trans (hgrp ▸ rfl)

theorem marked_frame (g : Group) : marked s x w g = withMarks (marked s x w g).j (markOob s x w g).oob g := by
  rw [marked, foldl_markLane_frame, markOob_frame]
  rfl

theorem mcallGroup_frame (g : Group) :
    mcallGroup s x w g = { marked s x w g with quads := (mcallGroup s x w g).quads } := by
  unfold mcallGroup
  split
  · exact advanceGrp_frame ..
  · rfl

theorem mcallGroup_keeps (g : Group) :
    mcallGroup s x w g = { g with j := (mcallGroup s x w g).j, oob := (mcallGroup s x w g).oob, quads := (mcallGroup s x w g).quads } := by
  rw [mcallGroup_frame, marked_frame]
  rfl

theorem oob_mcallGroup (g : Group) : (mcallGroup s x w g).oob = (markOob s x w g).oob := by
  rw [mcallGroup_frame, marked_frame]
  rfl

theorem getJ_mcallGroup (g : Group) (n : Nat) : getJ (mcallGroup s x w g) n = getJ (marked s x w g) n := by
  rw [mcallGroup_frame]
  rfl

theorem getJ_markOob (g : Group) (n : Nat) : getJ (markOob s x w g) n = getJ g n := by
  rw [markOob_frame]
  rfl

theorem getJ_mcallGroup_other (g : Group) {n : Nat} (h : n ≠ w.d.toNat % 8) : getJ (mcallGroup s x w g) n = getJ g n := by
  rw [getJ_mcallGroup, marked, getJ_foldl_markLane_other s x w _ _ h, getJ_markOob]

/-- The lanes of ACTIVE that call. -/
def callLanes : List Nat := (lanesOf x.act).filter (callsFor s x w)

theorem hasLane_mcallGroup (g : Group) {l : Nat} (hl : l < 16) :
    hasLane (getJ (mcallGroup s x w g) (w.d.toNat % 8)) l
      = if (callLanes s x w).contains l then false else hasLane (getJ g (w.d.toNat % 8)) l || hasLane x.act l := by
  rw [getJ_mcallGroup, marked, hasLane_foldl_markLane s x w (fun _ h => lanesOf_lt h) _ hl, getJ_markOob]
  by_cases hact : hasLane x.act l = true <;> by_cases hcall : callsFor s x w l = true <;>
    simp [callLanes, mem_lanesOf, hl, hact, hcall]

theorem length_wordCalls : (wordCalls s x w).length = (callLanes s x w).length := length_callsFrom ..

theorem wordCalls_eq_nil : wordCalls s x w = [] ↔ callLanes s x w = [] := by
  rw [← List.length_eq_zero_iff, length_wordCalls, List.length_eq_zero_iff]

/-- The gang parks until the calls are accepted. -/
theorem mcallGroup_parks (g : Group) (h : callLanes s x w ≠ []) {q : Nat} (hq : q < g.quads.length) (hm : hasQuad x.c.quads q = true)
    (hlive : (quadAt g q).live ≠ 0) :
    (quadAt (mcallGroup s x w g) q).st = .parked
      ∧ (quadAt (mcallGroup s x w g) q).park = .mcall s.nextId (s.nextId + (callLanes s x w).length)
      ∧ (quadAt (mcallGroup s x w g) q).pc = x.c.next := by
  rw [mcallGroup, if_neg (mt (wordCalls_eq_nil s x w).mp h), length_wordCalls, marked_frame]
  exact (parkGrp_parks { x with g := withMarks _ _ g } _).2 q hq hm hlive

theorem mcallGroup_moves (g : Group) (h : callLanes s x w = []) : (mcallGroup s x w g).quads = (advanceGrp x.c g).quads := by
  rw [mcallGroup, if_pos ((wordCalls_eq_nil s x w).mpr h), marked_frame, advanceGrp_withMarks]
  rfl

end

/-! ### What MCALL does -/

section
variable {s : State} {x : Ctx} {w : FmtYX} (hi : Issues s w.g x) (ha : groupAct x ≠ 0) (hr : Reads x [srcOf 0 w.a 1] x.act)
include hi ha hr

theorem execMcall_of_reads :
    execMcall w s = .next (if x.w.chk.isNone then closeRes s x (mcallGo x w s)
      else if cutReady s x.w then closeRes s x (mcallGo x w (openInterval (commitBuf s x.w.id) x.w.id))
      else modGrp s x.c.wg x.c.grp (stayGrp x.c .cut)) := by
  rw [execMcall, withCtx_next hi, if_neg ha, withSources_reads _ hr]

theorem mcall_waitsCut (hc : x.w.chk ≠ none) (hcut : cutReady s x.w = false) : WaitsCut s x (exec (.mcall w) s) := by
  have hexec : exec (.mcall w) s = _ := execMcall_of_reads hi ha hr
  rw [if_neg (mt Option.isNone_iff_eq_none.mp hc), hcut] at hexec
  exact ⟨_, hexec, modGrp_step hi _⟩

/-- The word is performed in the state it starts in: with no interval the one it finds, else that of the interval that opens. -/
theorem execMcall_of_untrapped {b : State} (hplain : x.w.chk = none → b = s)
    (hcut : x.w.chk ≠ none → cutReady s x.w = true ∧ b = openInterval (commitBuf s x.c.wg) x.c.wg)
    (ht : mcallTrap b x w = none) (hf : heldByFault x.g = false) :
    exec (.mcall w) s = .next (withCalls b x.c.wg x.c.grp (mcallGroup b x w) (wordCalls b x w)) := by
  have hexec : exec (.mcall w) s = _ := execMcall_of_reads hi ha hr
  have hgo := mcallGo_of_untrapped b x w ht hf
  by_cases hc : x.w.chk = none
  case pos =>
    rw [hplain hc] at hgo ⊢
    rw [hexec, if_pos (Option.isNone_iff_eq_none.mpr hc), hgo]
    rfl
  case neg =>
    obtain ⟨hready, hb⟩ := hcut hc
    rw [hexec, if_neg (mt Option.isNone_iff_eq_none.mp hc), if_pos hready, findWg_id hi.wg, ← hb, hgo]
    rfl

end

/-! ## The words -/

/-- Settles O36: each word by the lemma of what it does; MCALL by the change it makes to its group and the calls that it adds. -/
theorem launchAndCallWords : Obligations.LaunchAndCallWords := by
  refine ⟨fun s x w hi ha => ⟨fun hacts hr p hp => launch_asks hi hacts hr hp,
    fun hr => ⟨lwait_goesOn hi ha hr, fun k hk hne => lwait_parks hi ha hr hk hne,
      queryWord_writes hi ha hr (fun s x m => qlocValue s x m w.k.toNat), queryWord_writes hi ha hr (fun s _ m => epochOf s m)⟩⟩,
    fun s x w hi ha hr => ⟨mcall_waitsCut hi ha hr, ?mcall⟩,
    fun s x w hi => ⟨fun ha hr => qspr_writes hi ha hr, rjn_goesOn hi, rjn_holds hi⟩⟩
  case mcall =>
    intro b v y hplain hcut hv hy ht hf r off calls j
    have hexec := execMcall_of_untrapped hi ha hr hplain hcut ht hf
    refine ⟨_, mcallGroup b x w y, hexec, ?step, ?ids, mcallGroup_keeps b x w y, ?oob,
      fun n hn => getJ_mcallGroup_other b x w y hn, ?lanes, ?count, ?before, ?each, ?parks, ?moves⟩
    case step => exact modGrp_stepAt (x := { x with w := v, g := y }) hv hy (mcallGroup b x w)
    case ids => exact congrArg (b.nextId + ·) (length_wordCalls b x w)
    case lanes => exact fun l hl => hasLane_mcallGroup b x w y hl
    case oob =>
      rw [oob_mcallGroup, oob_markOob]
      rfl
    case count => exact (List.length_append ..).trans (congrArg (b.calls.length + ·) (length_wordCalls b x w))
    case before => exact fun i hlt => List.getElem?_append_left hlt
    case each =>
      intro i l hl
      have hcall : callsFor b x w l = true := (List.mem_filter.mp (List.mem_of_getElem? hl)).2
      refine ⟨callOf b x w b.nextId (b.nextId + i) l, ?_, rfl, rfl, rfl, rfl, rfl, rfl, rfl, rfl, callOf_off b x w b.nextId hcall, rfl, rfl⟩
      exact (List.getElem?_append_right (Nat.le_add_right ..)).trans
        ((congrArg _ (Nat.add_sub_cancel_left ..)).trans (getElem?_callsFrom b x w b.nextId hl))
    case parks =>
      intro hsome q hq hm hlive
      have hpark := mcallGroup_parks b x w y hsome hq hm hlive
      rw [← length_wordCalls] at hpark
      exact hpark
    case moves => exact mcallGroup_moves b x w y

end Sys2Proof.Machine

/-! Saves and restores (R95, R98, R320 to R327): which workgroups a PREEMPT calls for, where an image is written, and how a saved
workgroup comes back (O47). -/
namespace Sys2Proof.Machine

/-! ## Workgroups by their numbers -/

/-- Workgroups with one number are the same. -/
def IdsUnique (s : State) : Prop := ∀ v ∈ s.wgs, ∀ k ∈ s.wgs, v.id = k.id → v = k

theorem findWg_of_mem {s : State} (hids : IdsUnique s) {v : Workgroup} (hv : v ∈ s.wgs) : findWg s v.id = some v := by
  obtain ⟨k, hk⟩ : ∃ k, findWg s v.id = some k := Option.isSome_iff_exists.mp (List.find?_isSome.mpr ⟨v, hv, beq_self_eq_true _⟩)
  rw [hk, hids k (List.mem_of_find?_eq_some hk) v hv (findWg_id hk)]

/-- A change of every workgroup that keeps the numbers. -/
theorem findWg_map {s t : State} {f : Workgroup → Workgroup} (ht : t.wgs = s.wgs.map f) (hf : ∀ w, (f w).id = w.id) (id : Nat) :
    findWg t id = (findWg s id).map f := by
  have hkey : (fun w : Workgroup => w.id == id) ∘ f = fun w => w.id == id := funext fun w => congrArg (· == id) (hf w)
  rw [findWg, ht, List.find?_map, hkey, findWg]

/-! ## PREEMPT (R95, R98, R320, R321) -/

/-- What a call for a save of workgroups `ws` makes of a workgroup. -/
def calledFor (ws : List Workgroup) (v : Workgroup) : Workgroup := if ws.any (fun k => k.id == v.id) then toSave v else v

theorem calledFor_id (ws : List Workgroup) (v : Workgroup) : (calledFor ws v).id = v.id := by
  unfold calledFor
  split <;> rfl

/-- Only the workgroups that are named have the number of one that is named. -/
theorem calledFor_together {s : State} (hids : IdsUnique s) (w : Workgroup) (l : Launch) {v : Workgroup} (hv : v ∈ s.wgs) :
    calledFor (together s w l) v = if v ∈ together s w l then toSave v else v := by
  refine if_congr ?_ rfl rfl
  simp only [List.any_eq_true, beq_iff_eq]
  constructor
  · rintro ⟨k, hk, hid⟩
    rwa [← hids k (List.mem_filter.mp hk).1 v hv hid]
  · exact fun h => ⟨v, h, rfl⟩

theorem execPreempt_of_victim {s : State} {w : Workgroup} {l : Launch} (hw : findWg s s.arg.a = some w) (hl : findLaunch s w.launch = some l)
    (hrun : l.st = .running) (hret : w.retired = false)
    (hlive : ∀ v ∈ together s w l, v.place = .live ∧ ∀ e ∈ s.evacs, e.lcore = v.lcore → e.phase = .committed)
    (hroom : roomToSave s (together s w l) l = true) (hvictim : s.launches.any (fun h => victimFor s h w l) = true) :
    execPreempt s = .next { s with wgs := s.wgs.map (calledFor (together s w l)) } := by
  have hfree : (together s w l).all (fun v => v.place == .live && !s.evacs.any (fun e => e.lcore == v.lcore && e.phase != .committed)) = true := by
    refine List.all_eq_true.mpr fun v hv => ?_
    obtain ⟨hplace, hev⟩ := hlive v hv
    simpa [hplace] using hev
  simp only [execPreempt, hw, hl, hrun, hret, hfree, hroom, hvictim]
  rfl

/-! ## The regions of an image (R323) -/

theorem regionAt_add_le {l : Launch} {k n : Nat} (h : (regionSizes l)[k]? = some n) : regionAt l k + n ≤ imageLen l := by
  have hsum : ∀ ns : List Nat, ns.foldl (· + ·) 0 = ns.sum := fun ns => List.sum_eq_foldl.symm
  have hsplit : (regionSizes l).sum = ((regionSizes l).take (k + 1)).sum + ((regionSizes l).drop (k + 1)).sum := by
    rw [← List.sum_append, List.take_append_drop]
  have hnext : ((regionSizes l).take (k + 1)).sum = ((regionSizes l).take k).sum + n := by
    rw [List.take_add_one, h, List.sum_append]
    simp
  rw [regionAt, imageLen, hsum, hsum]
  omega

theorem le_page4 (n : Nat) : n ≤ page4 n := by
  unfold page4 ceilDiv
  omega

/-! ## Lengths of the records (R324, R325) -/

theorem length_natToBytes (n x : Nat) : (natToBytes n x).length = n := by
  induction n generalizing x with
  | zero => rfl
  | succ n ih => exact congrArg Nat.succ (ih _)

@[simp] theorem length_nb (n x : Nat) : (nb n x).length = n := length_natToBytes n x

@[simp] theorem length_zeros (n : Nat) : (zeros n).length = n := List.length_replicate

theorem length_flatMap_of_const {α β : Type} {f : α → List β} {n : Nat} (l : List α) (h : ∀ a, (f a).length = n) :
    (l.flatMap f).length = l.length * n := by
  rw [List.length_flatMap, funext h, List.map_const', List.sum_replicate, smul_eq_mul]

@[simp] theorem length_entryBytes (e : StackEntry) : (entryBytes e).length = 16 := length_nb ..

@[simp] theorem length_quadBytes (s : State) (w : Workgroup) (q : Quad) : (quadBytes s w q).length = 160 := by
  rw [quadBytes, List.length_append, length_flatMap_of_const (List.range 8) (n := 16)]
  · simp
  · intro k
    split <;> simp

@[simp] theorem length_groupTail (g : Group) : (groupTail g).length = 32 := by
  simp [groupTail]

theorem length_groupBytes (s : State) (w : Workgroup) (g : Group) : (groupBytes s w g).length = 3072 := by
  have hrecords : ∀ f : Nat → List Byte, (∀ k, (f k).length = 160) → (quads4.flatMap f).length = 640 := fun _ h => length_flatMap_of_const quads4 h
  unfold groupBytes
  extract_lets records
  have hlen : ∀ qs, (records qs).length = 640 := by
    intro qs
    refine hrecords _ fun k => ?_
    split <;> simp
  simp [hlen, lanes16]

/-! ## The runs of an image lie within it (R323) -/

/-- A run of bytes at an offset lies within an image. -/
def WithinImage (l : Launch) (e : Nat × List Byte) : Prop := e.1 + e.2.length ≤ imageLen l

section
variable {s : State} {w : Workgroup} {l : Launch}

theorem mul_add_le_of_lt {k n a : Nat} (h : k < n) : a * k + a ≤ a * n := by
  calc a * k + a = a * (k + 1) := (Nat.mul_succ a k).symm
    _ ≤ a * n := Nat.mul_le_mul_left a h

theorem groupBytes_within {k : Nat} (g : Group) (h : k < groupsPer l) :
    WithinImage l (regionAt l 1 + 3072 * k, groupBytes s w g) := by
  have hregion : regionAt l 1 + page4 (3072 * groupsPer l) ≤ imageLen l := regionAt_add_le rfl
  have hpage := le_page4 (3072 * groupsPer l)
  have hk : 3072 * k + 3072 ≤ 3072 * groupsPer l := mul_add_le_of_lt h
  change regionAt l 1 + 3072 * k + (groupBytes s w g).length ≤ imageLen l
  rw [length_groupBytes]
  omega

theorem vectorBytes_within {k : Nat} (g : Group) (h : k < groupsPer l) :
    WithinImage l (regionAt l 2 + 64 * l.vcount * k,
      (List.range l.vcount).flatMap (fun n => lanes16.flatMap (fun ln => nb 4 (getV g n ln).val.toNat))) := by
  have hregion : regionAt l 2 + page4 (regsPer l) ≤ imageLen l := regionAt_add_le rfl
  have hpage := le_page4 (regsPer l)
  have hk : 64 * l.vcount * k + 64 * l.vcount ≤ regsPer l := mul_add_le_of_lt h
  have hlen : ∀ n, (lanes16.flatMap (fun ln => nb 4 (getV g n ln).val.toNat)).length = 64 := by simp [lanes16]
  rw [WithinImage, length_flatMap_of_const _ hlen, List.length_range]
  dsimp only
  omega

theorem windowBytes_within : WithinImage l (regionAt l 3, smGetList w.win 0 (32768 * ceilDiv l.cvb 32768) 0) := by
  have hregion : regionAt l 3 + 32768 * ceilDiv l.cvb 32768 ≤ imageLen l := regionAt_add_le rfl
  simpa [WithinImage, smGetList] using hregion

theorem bankRuns_within {k : Nat} {b : Bank} (h : k < l.cbanks) :
    ∀ e ∈ bankRuns b, WithinImage l (regionAt l 4 + 32768 * k + e.1, e.2) := by
  have hregion : regionAt l 4 + 32768 * l.cbanks ≤ imageLen l := regionAt_add_le rfl
  have hlen : ((List.range 2048).flatMap (fun k => nb 4 (smGet b.acc k 0).toNat)).length = 8192 := by
    rw [length_flatMap_of_const _ (fun _ => length_nb ..), List.length_range]
  simp only [bankRuns, List.forall_mem_cons, WithinImage, List.length_map, List.length_range, hlen]
  refine ⟨?_, ?_, nofun⟩ <;> omega

theorem paletteBytes_within (f : Nat → Byte) : WithinImage l (regionAt l 7, (List.range (palWindow l)).map f) := by
  have hregion : regionAt l 7 + palWindow l ≤ imageLen l := regionAt_add_le rfl
  simpa [WithinImage] using hregion

theorem imageRuns_within (hgroups : w.groups.length = groupsPer l) (hbanks : w.banks.length = l.cbanks) :
    ∀ e ∈ imageRuns s w l, WithinImage l e := by
  unfold imageRuns
  extract_lets pal
  simp only [List.forall_mem_append, List.forall_mem_singleton, List.mem_flatMap, List.mem_range, forall_exists_index, and_imp]
  refine ⟨⟨⟨fun e k hk he => ?groups, windowBytes_within⟩, fun e k hk he => ?banks⟩, paletteBytes_within _⟩
  case groups =>
    rw [hgroups] at hk
    split at he
    next g _ =>
      rcases List.mem_cons.mp he with rfl | he
      · exact groupBytes_within g hk
      · exact List.mem_singleton.mp he ▸ vectorBytes_within g hk
    next => nomatch he
  case banks =>
    rw [hbanks] at hk
    split at he
    next b _ =>
      obtain ⟨r, hr, rfl⟩ := List.mem_map.mp he
      exact bankRuns_within hk r hr
    next => nomatch he

end

/-- Runs that lie within the image change no byte outside it. -/
theorem smGet_foldl_runs_out {l : Launch} {runs : List (Nat × List Byte)} (hruns : ∀ e ∈ runs, WithinImage l e) (m : SMap Byte) {a x : Nat}
    (hx : ¬(a ≤ x ∧ x < a + imageLen l)) :
    smGet (runs.foldl (fun m (e : Nat × List Byte) => smPutList m (a + e.1) e.2 0) m) x 0 = smGet m x 0 := by
  induction runs generalizing m with
  | nil => rfl
  | cons e r ih =>
    obtain ⟨he, hr⟩ := List.forall_mem_cons.mp hruns
    have hout : ¬(a + e.1 ≤ x ∧ x < a + e.1 + e.2.length) := by
      unfold WithinImage at he
      omega
    rw [List.foldl_cons, ih hr, smGet_smPutList, if_neg hout]

/-! ## SAVE_COMPLETE (R320, R322) -/

/-- What a save that starts to write its image at `a` makes of a workgroup. -/
def intoImage (s : State) (w : Workgroup) (a n : Nat) (v : Workgroup) : Workgroup :=
  { v with place := .saved a n, savedPcore := coreOf s w, saveBad := [], groups := v.groups.map (fun g => { g with active := false }) }

/-- The workgroup stands in the reserve, its image still to be written. -/
def reserved (s : State) (w : Workgroup) (a n : Nat) : State :=
  { modWg s w.id (intoImage s w a n) with memPoison := poisonAfter s.memPoison a n }

theorem saveAt_eq (s : State) (w : Workgroup) (a n : Nat) :
    saveAt s w a n = markSectors ((findWg (reserved s w a n) w.id).elim (reserved s w a n) (putImage (reserved s w a n))) a
      (w.saveBad.filter (fun o => decide (o < n))) := by
  change markSectors (match findWg (reserved s w a n) w.id with | some v => putImage (reserved s w a n) v | none => reserved s w a n) a _ = _
  cases findWg (reserved s w a n) w.id <;> rfl

section
variable {s : State} {w : Workgroup} {l : Launch} (hw : findWg s w.id = some w) (hl : findLaunch s w.launch = some l)
include hw

theorem findWg_reserved (a n : Nat) : findWg (reserved s w a n) w.id = some (intoImage s w a n w) :=
  (findWg_modWg_same s w.id (intoImage s w a n) (fun _ => rfl)).trans (congrArg (Option.map _) hw)

include hl

/-- Where every byte could be read, the save writes the image and poisons nothing (R327). -/
theorem saveAt_of_clean (a n : Nat) (hbad : w.saveBad = []) :
    saveAt s w a n = { reserved s w a n with
      mem := (imageRuns (reserved s w a n) (intoImage s w a n w) l).foldl (fun m (e : Nat × List Byte) => smPutList m (a + e.1) e.2 0) s.mem } := by
  have hfind := findWg_reserved hw a n
  have hput : putImage (reserved s w a n) (intoImage s w a n w) = { reserved s w a n with
      mem := (imageRuns (reserved s w a n) (intoImage s w a n w) l).foldl (fun m (e : Nat × List Byte) => smPutList m (a + e.1) e.2 0) s.mem } := by
    have hlaunch : findLaunch (reserved s w a n) (intoImage s w a n w).launch = some l := hl
    unfold putImage
    simp only [hlaunch]
    rfl
  rw [← hput, saveAt_eq, hfind, hbad]
  rfl

theorem execSaveComplete_of_ready {p : Partition} {a : Nat} (harg : s.arg.a = w.id) (hplace : w.place = .saving) (hret : w.retired = false)
    (hrun : l.st = .running) (hready : saveReady w = true) (hchk : w.chk = none) (hp : findPart s l.part = some p)
    (ha : carve p (reserveTaken s l.part) (imageLen l) = some a) (hopen : windowRun s a (imageLen l) = false) :
    execSaveComplete s = .next (saveAt s w a (imageLen l)) := by
  have hnow : saveNow s w l = saveAt s w a (imageLen l) := by simp [saveNow, hready, hp, ha, hopen]
  simp [execSaveComplete, harg, hw, hl, hplace, hret, hrun, hchk, hnow]

end

/-! ## RESTORE (R101, R326) -/

/-- Groups that take seats again keep their order; each changes in its place and age alone, and an LWAIT stands at its word. -/
theorem seatGroups_getElem? {time : Nat} {gs : List Group} {ns : List Nat} {k : Nat} {g : Group} (h : gs[k]? = some g) :
    ∃ slot, (seatGroups time gs ns).1[k]? = some (lwaitAgain { g with slot := slot, active := false, since := time }) := by
  induction gs generalizing ns k with
  | nil => nomatch h
  | cons a r ih =>
    cases k with
    | zero =>
      obtain rfl := Option.some.inj h
      exact ⟨_, rfl⟩
    | succ k => exact ih h

theorem length_seatGroups (time : Nat) (gs : List Group) (ns : List Nat) : (seatGroups time gs ns).1.length = gs.length := by
  induction gs generalizing ns with
  | nil => rfl
  | cons a r ih => exact congrArg Nat.succ (ih _)

/-- What a restore onto logical core `c` makes of the workgroup `w` whose image, of `n` bytes at `a`, holds no poison. -/
def broughtBack (s : State) (w : Workgroup) (l : Launch) (a n c : Nat) (v : Workgroup) : Workgroup :=
  { v with
    place := .live, lcore := c,
    reloc := if c != w.lcore || physCore s c != w.savedPcore then nextReloc v.reloc else v.reloc,
    groups := (seatGroups (now s) v.groups (quads4.map (slotCount s (physCore s c)))).1,
    chk := v.chk.map (fun k => { k with
      opened := now s, mark := s.nextId, snap := k.snap.map lwaitAgain,
      snapPoison := k.snapPoison || runPoisoned s (a + regionAt l 8) (n - regionAt l 8) }) }

section
variable {s : State} {w : Workgroup} {l : Launch} {a n : Nat} (hw : findWg s w.id = some w) (hl : findLaunch s w.launch = some l)
  (hplace : w.place = .saved a n)
include hw hl hplace

theorem restoreWg_of_clean (c : Nat) (hbad : runPoisoned s a n = false) :
    restoreWg s (w, c) = movePalette (moveLocks (modWg s w.id (broughtBack s w l a n c)) w.id (physCore s c / 9)) l.id w.savedPcore (physCore s c) := by
  simp only [restoreWg, hw, hplace, hl, hbad]
  rfl

theorem execRestore_of_alone {c : Nat} (harg : s.arg.a = w.id) (hret : w.retired = false) (helig : eligible s l = true)
    (halone : together s w l = [w]) (hlow : lowestOut s w = true) (hopen : windowRun s a n = false)
    (hplan : planStep s l s.arg.b [1] = some [c]) (hmay : mayTake s l [c] = true) :
    execRestore s = .next (restoreWg s (w, c)) := by
  have hsaved : isSaved w = true := by rw [isSaved, hplace]
  have hsizes : wgSizes [w] = [1] := rfl
  simp [execRestore, harg, hw, hl, halone, hret, helig, hlow, hsaved, hplace, hopen, hsizes, hplan, hmay]

end

/-! ## The three events -/

/-- Settles O47: a PREEMPT by the workgroups it calls for, a save by the runs of its image, a restore by the seats it gives. -/
theorem savesAndRestores : Obligations.SavesAndRestores := by
  intro s w l hwarg hl hids
  have hid : w.id = s.arg.a := findWg_id hwarg
  have hw : findWg s w.id = some w := by rw [hid, hwarg]
  refine ⟨?preempt, ?save, ?restore⟩
  case preempt =>
    intro hrun hret hlive hroom hvictim
    refine ⟨_, execPreempt_of_victim hwarg hl hrun hret hlive hroom hvictim, rfl, fun v hv => ?_⟩
    have hfound := findWg_map (s := s) (t := { s with wgs := s.wgs.map (calledFor (together s w l)) }) rfl (calledFor_id _) v.id
    rw [findWg_of_mem hids hv, Option.map_some, calledFor_together hids w l hv] at hfound
    exact ⟨fun h => hfound.trans (congrArg some (if_pos h)), fun h => hfound.trans (congrArg some (if_neg h))⟩
  case save =>
    intro hplace hret hrun hready hchk hbad p a hp ha hopen
    have hexec := execSaveComplete_of_ready hw hl hid.symm hplace hret hrun hready hchk hp ha hopen
    rw [saveAt_of_clean hw hl a (imageLen l) hbad] at hexec
    refine ⟨_, intoImage s w a (imageLen l) w, hexec, rfl, findWg_reserved hw a (imageLen l), ?left, fun hgroups hbanks x hx => ?outside⟩
    case left => rw [intoImage, ← hbad]
    case outside =>
      have hlen : (intoImage s w a (imageLen l) w).groups.length = groupsPer l := (List.length_map _).trans hgroups
      exact smGet_foldl_runs_out (imageRuns_within hlen hbanks) s.mem hx
  case restore =>
    intro a n c hplace hret helig halone hlow hopen hclean hchk hplan hmay
    have hexec := execRestore_of_alone hw hl hplace hid.symm hret helig halone hlow hopen hplan hmay
    rw [restoreWg_of_clean hw hl hplace c hclean] at hexec
    refine ⟨_, broughtBack s w l a n c w, hexec, rfl, ?found, rfl, rfl, rfl, rfl, ?reloc, length_seatGroups .., fun k g hg => ?seat⟩
    case found => exact (findWg_modWg_same s w.id (broughtBack s w l a n c) (fun _ => rfl)).trans (congrArg (Option.map _) hw)
    case reloc => exact if_congr (by simp) rfl rfl
    case seat =>
      obtain ⟨slot, hseat⟩ := seatGroups_getElem? hg
      exact ⟨_, hseat, rfl⟩

end Sys2Proof.Machine

/-! Compare, select and predicate words (R140, R163, R168): each lane's write is that of the shared lane-word shell (O4). -/
namespace Sys2Proof.Machine

/-- A word whose lanes each write one predicate bit. -/
theorem laneWord_predicate {s : State} {g : BitVec 3} {srcs : List Src} {x : Ctx} (q : Bool) (d : Nat) (f : State → Ctx → Nat → Bool)
    (hi : Issues s g x) (hf : LaneFree s x srcs q) (hb : ∀ k, f { s with cores := k } x = f s x) :
    LaneEffect s x q (laneWord s { plainSpec g srcs with queue := q } (perLane fun s x l => outP l d (f s x l))) noSlot (toPred x d (f s x)) := by
  refine laneWord_plain _ _ _ q hi hf (fun k => by simp only [hb k]) (fun _ => rfl) (fun _ => rfl) (fun _ => rfl) ?_ ?_
  · intro n l; simp [noSlot]
  · intro n l; exact outP_toPred x d n l (f s x)

/-- A word whose lanes each write one register. -/
theorem laneWord_register {s : State} {g : BitVec 3} {srcs : List Src} {x : Ctx} (q : Bool) (d : Nat) (f : State → Ctx → Nat → Word)
    (hi : Issues s g x) (hf : LaneFree s x srcs q) (hb : ∀ k, f { s with cores := k } x = f s x) :
    LaneEffect s x q (laneWord s { plainSpec g srcs with queue := q } (perLane fun s x l => outV l d (f s x l))) (toReg x d (f s x)) noBit := by
  refine laneWord_plain _ _ _ q hi hf (fun k => by simp only [hb k]) (fun _ => rfl) (fun _ => rfl) (fun _ => rfl) ?_ ?_
  · intro n l; exact outV_toReg x d n l (f s x)
  · intro n l; simp [noBit]

/-- The words of two predicates. -/
theorem pred2_effect {s : State} {x : Ctx} {w : FmtA} (op : Bool → Bool → Bool) (hi : Issues s w.g x) (hf : LaneFree s x [] false) :
    LaneEffect s x false (pred2 s w op) noSlot (toPred x w.d.toNat (fun l => op (readP x w.a l) (readP x w.b l))) :=
  laneWord_predicate false _ (fun _ x l => op (readP x w.a l) (readP x w.b l)) hi hf (fun _ => rfl)

/-- VSEL's lanes each write a result of its type. -/
theorem execVsel_effect {s : State} {x : Ctx} {w : FmtAX} (hi : Issues s w.g x) (hf : LaneFree s x (srcs2 w) false) :
    LaneEffect s x false (execVsel w s)
      (toInt x w.ty.toNat w.d.toNat (fun l => readTy s x (if readP x w.c l then w.a else w.b) w.ty.toNat l)) noBit := by
  refine laneWord_plain _ _ _ false hi hf (fun _ => rfl) (fun _ => outInt_lane ..) (fun _ => outInt_bad ..) (fun _ => outInt_conds ..) ?_ ?_
  · intro n l
    exact lastV_outInt x w.ty.toNat w.d.toNat n l (fun l => readTy s x (if readP x w.c l then w.a else w.b) w.ty.toNat l)
  · intro n l; simp [noBit]

/-- Settles O4: VCMP and the predicate words by what a word of one predicate bit or one register writes, VSEL by its typed result. -/
theorem compareSelectAndPredicates : Obligations.CompareSelectAndPredicates := by
  refine ⟨fun s x w hi hf => ⟨?vcmp, execVsel_effect hi hf⟩, fun s x w hi => ⟨fun hf => ?pairs, fun hf => ?cross, fun hf => ?pset⟩⟩
  case vcmp =>
    exact laneWord_predicate false _ (fun s x l => iCond w.md.toNat (tyVal s x w.a w.ty.toNat l) (tyVal s x w.b w.ty.toNat l)) hi hf (fun _ => rfl)
  case pairs =>
    exact ⟨pred2_effect _ hi hf, pred2_effect _ hi hf, pred2_effect _ hi hf,
      laneWord_predicate false _ (fun _ x l => !readP x w.a l) hi hf (fun _ => rfl),
      laneWord_predicate false _ (fun _ x => readP x w.a) hi hf (fun _ => rfl)⟩
  case cross =>
    exact ⟨laneWord_predicate true _ (fun _ x _ => holdLanes x w.a != 0) hi hf (fun _ => rfl),
      laneWord_predicate true _ (fun _ x _ => holdLanes x w.a == x.act) hi hf (fun _ => rfl),
      laneWord_register true _ (fun _ x _ => wordOf (popCount (holdLanes x w.a))) hi hf (fun _ => rfl),
      laneWord_register true _ (fun _ x _ => wordOf (holdLanes x w.a).toNat) hi hf (fun _ => rfl)⟩
  case pset =>
    exact laneWord_predicate false _ (fun s x l => bitOf (readN s x w.a l) l) hi hf (fun _ => rfl)

end Sys2Proof.Machine

/-! Long-latency floating-point words (R154, R171, R172): each is a unary or binary word of the shared shape (O7). -/
namespace Sys2Proof.Machine

/-- Settles O7: division by the binary shape, every other word by the unary one; its short form is the long one at f32. -/
theorem floatLongLatency : Obligations.FloatLongLatency := by
  constructor
  · intro s x w hi
    have un := fun op => fltUn_issued (w := axOf w 10) op hi
    exact ⟨fltBin_issued fDiv hi, un (fun ty md sat v _ => fDiv ty md sat fOne v), un (fun ty md sat v _ => fRsq ty md sat v),
      un (fun ty md sat v _ => fSqrt ty md sat v), un (fun ty _ sat v b => fTransc 0 ty sat v b), un (fun ty _ sat v b => fTransc 1 ty sat v b),
      un (fun ty _ sat v b => fTransc 2 ty sat v b), un (fun ty _ sat v b => fTransc 3 ty sat v b), un (fun ty _ sat v b => fTransc 4 ty sat v b)⟩
  · intro s x w hi
    have un := fun op => fltUn_issued op hi
    exact ⟨fltBin_issued fDiv hi, un (fun ty md sat v _ => fDiv ty md sat fOne v), un (fun ty md sat v _ => fRsq ty md sat v),
      un (fun ty md sat v _ => fSqrt ty md sat v), un (fun ty _ sat v b => fTransc 0 ty sat v b), un (fun ty _ sat v b => fTransc 1 ty sat v b),
      un (fun ty _ sat v b => fTransc 2 ty sat v b), un (fun ty _ sat v b => fTransc 3 ty sat v b), un (fun ty _ sat v b => fTransc 4 ty sat v b)⟩

end Sys2Proof.Machine

/-! RET and BRI (R136, O54). -/
namespace Sys2Proof.Machine

/-- Settles O54: the two meanings divide by the same targets, and a rejoin offset of 0 names no rejoin point. -/
theorem returnIsAnIndirectBranch : Obligations.ReturnIsAnIndirectBranch := by
  intro w
  constructor
  · intro vc vw h
    obtain ⟨-, -, hsub⟩ := wellFormed_parts h
    have hfld : fieldSubs vc (.vec 1 1) w.a = [] := by
      simp only [subcodes, ySubs, List.append_eq_nil_iff] at hsub
      exact hsub.1.2
    by_contra hvec
    simp [fieldSubs, hvec] at hfld
  · intro s j hg ha hrj
    have hnone : ∀ c : Issue, rjOf c j.rj = none := fun c => by simp [rjOf, hrj]
    simp only [exec, execRet, execBri, hnone, hg, ha]

end Sys2Proof.Machine

/-! The division of a gang (R117): when it fits the stacks, and where each quad then stands. -/
namespace Sys2Proof.Machine

/-! ## Quads of a mask -/

theorem mem_quadsOf {m : QMask} {q : Nat} : q ∈ quadsOf m ↔ q < 4 ∧ hasQuad m q = true := by
  simp [quadsOf, quads4, List.mem_filter]

theorem lt_four_of_hasQuad {m : QMask} {q : Nat} (h : hasQuad m q = true) : q < 4 := BitVec.lt_of_getLsbD h

theorem mem_quadsOf_of_hasQuad {m : QMask} {q : Nat} (h : hasQuad m q = true) : q ∈ quadsOf m :=
  mem_quadsOf.mpr ⟨lt_four_of_hasQuad h, h⟩

/-- A gang's quads are those of the stated kind without exception, or one of them is not. -/
theorem any_quadsOf_eq_false {m : QMask} {p : Nat → Prop} [DecidablePred p] :
    (quadsOf m).any (fun q => decide (p q)) = false ↔ ∀ q, q < 4 → hasQuad m q = true → ¬p q := by
  simp [List.any_eq_false, mem_quadsOf, and_imp]

theorem quadAt_mapRange (g : Group) (f : Nat → Quad) {q : Nat} (h : q < g.quads.length) :
    quadAt { g with quads := (List.range g.quads.length).map f } q = f q := by
  simp [quadAt, List.getD_eq_getElem?_getD, h]

theorem quadAt_congr {g h : Group} (e : g.quads = h.quads) (q : Nat) : quadAt g q = quadAt h q := by
  rw [quadAt, quadAt, e]

/-! ## Gangs that form (R117) -/

/-- The quads that go on to one PC take one name, and no others take it. -/
theorem gangName_eq_iff {m : QMask} (next : Nat → Word) {p q : Nat} (hp : hasQuad m p = true) (hq : hasQuad m q = true) :
    gangName m next p = gangName m next q ↔ next p = next q := by
  have named : ∀ {k : Nat}, hasQuad m k = true → next (gangName m next k) = next k := by
    intro k hk
    obtain ⟨j, hj⟩ : ∃ j, (quadsOf m).find? (fun i => next i == next k) = some j :=
      Option.isSome_iff_exists.mp (List.find?_isSome.mpr ⟨k, mem_quadsOf_of_hasQuad hk, by simp⟩)
    simpa [gangName, hj] using List.find?_some hj
  constructor
  · intro h
    rw [← named hp, h, named hq]
  · intro h
    have hsame : (quadsOf m).find? (fun k => next k == next p) = (quadsOf m).find? (fun k => next k == next q) := by rw [h]
    obtain ⟨j, hj⟩ : ∃ j, (quadsOf m).find? (fun i => next i == next q) = some j :=
      Option.isSome_iff_exists.mp (List.find?_isSome.mpr ⟨q, mem_quadsOf_of_hasQuad hq, by simp⟩)
    simp [gangName, hsame, hj]

/-! ## Direct branches -/

section
variable {x : Ctx} {g : Group} {take : LMask} {tgt fall : Word} {rj : Option Word}

theorem nextOf_congr (hg : g.quads = x.g.quads) : nextOf g take tgt fall = nextOf x.g take tgt fall := by
  funext q
  rw [nextOf, nextOf, quadAt_congr hg]

/-- Where a quad goes, by its lanes that take the branch and those that do not. -/
theorem nextOf_eq (q : Nat) :
    nextOf g take tgt fall q
      = if (quadAt g q).run &&& ~~~quadPart take q = 0 then tgt else if quadPart take q &&& (quadAt g q).run = 0 then fall else tgt := by
  have hoff : (quadAt g q).run &&& ~~~(quadPart take q &&& (quadAt g q).run) = (quadAt g q).run &&& ~~~quadPart take q := by
    ext i
    cases h : (quadAt g q).run[i] <;> simp [h]
  simp only [nextOf, hoff]

/-- Entries pushed, as `divide` counts them. -/
theorem pushed_eq (hg : g.quads = x.g.quads) (q : Nat) :
    pushed x take tgt fall rj q
      = (if apart x.c.quads (nextOf g take tgt fall) && rj.isSome then 1 else 0)
        + (if quadPart take q &&& (quadAt g q).run != 0 && (quadAt g q).run &&& ~~~quadPart take q != 0 then 1 else 0) := by
  simp [pushed, nextOf_congr hg, quadAt_congr hg]

theorem divide_eq_none_of_overflow {spec : Bool} (hg : g.quads = x.g.quads) (h : ¬StackFits x take tgt fall rj) :
    divide x.c.quads take tgt fall rj spec g = none := by
  have hany : (quadsOf x.c.quads).any (fun q => decide (8 < (quadAt g q).stack.length + pushed x take tgt fall rj q)) = true := by
    rw [← Bool.not_eq_false, any_quadsOf_eq_false]
    simpa only [StackFits, quadAt_congr hg, Nat.not_lt] using h
  simp only [pushed_eq hg] at hany
  simp only [divide]
  rw [if_pos hany]

theorem divide_of_fits {spec : Bool} (hg : g.quads = x.g.quads) (h : StackFits x take tgt fall rj) :
    ∃ d, divide x.c.quads take tgt fall rj spec g = some d ∧ Divided x g take tgt fall rj spec d
      ∧ d.quads.length = g.quads.length := by
  have hany : (quadsOf x.c.quads).any (fun q => decide (8 < (quadAt g q).stack.length + pushed x take tgt fall rj q)) = false := by
    rw [any_quadsOf_eq_false]
    simpa only [StackFits, quadAt_congr hg, Nat.not_lt] using h
  simp only [pushed_eq hg] at hany
  simp only [divide]
  rw [if_neg (Bool.eq_false_iff.mp hany)]
  refine ⟨_, rfl, ⟨rfl, ?outside, ?inside, ?gangs⟩, by simp⟩
  case outside =>
    intro q hq hm
    simp [quadAt_mapRange g _ hq, hm]
  case inside =>
    intro q hq hm
    simp only [quadAt_mapRange g _ hq, hm, if_true]
    refine ⟨trivial, ?all, ?none, ?some⟩
    case all =>
      intro hoff
      simp [nextOf_eq, hoff]
    case none =>
      intro hoff hon
      rw [BitVec.ofNat_eq_ofNat] at hoff hon
      simp [nextOf_eq, hoff, hon]
    case some =>
      intro hoff hon
      rw [BitVec.ofNat_eq_ofNat] at hoff hon
      simp [nextOf_eq, hoff, hon]
  case gangs =>
    intro p q hp hq hmp hmq
    simp only [quadAt_mapRange g _ hp, quadAt_mapRange g _ hq, hmp, hmq, if_true]
    exact gangName_eq_iff _ hmp hmq

end

/-! ## The end of a flow word -/

theorem flowEnd_goes {s : State} {gd : BitVec 3} {x : Ctx} (hi : Issues s gd x) (d : Group) : GroupStep s (flowEnd s x (some d)) x (settle d) :=
  modGrp_step hi _

theorem flowEnd_overflows {s : State} {gd : BitVec 3} {x : Ctx} (hi : Issues s gd x) (hr : TrapReady x) :
    ∃ g, GroupStep s (flowEnd s x none) x g ∧ InHandler x (overflowTrap x) g := raise_enters hi hr _

theorem raise_traps {s : State} {gd : BitVec 3} {x : Ctx} (hi : Issues s gd x) (hr : TrapReady x) (tr : Trap) : Traps s x (.next (raise s x tr)) tr := by
  obtain ⟨g, hstep, hin⟩ := raise_enters hi hr tr
  exact ⟨_, g, rfl, hstep, hin⟩

section
variable {s : State} {gd : BitVec 3} {x : Ctx} {g : Group} {take : LMask} {tgt fall : Word} {rj : Option Word}

/-- A flow word whose division fits: its gang divides, and settles. -/
theorem flowEnd_divides (hi : Issues s gd x) (hg : g.quads = x.g.quads) (h : StackFits x take tgt fall rj) :
    ∃ t d, Host.Outcome.next (φ := Fault) (ρ := Refusal) (flowEnd s x (divide x.c.quads take tgt fall rj false g)) = .next t
      ∧ GroupStep s t x (settle d) ∧ Divided x g take tgt fall rj false d := by
  obtain ⟨d, hd, hdiv, -⟩ := divide_of_fits (spec := false) hg h
  exact ⟨_, d, by rw [hd], flowEnd_goes hi d, hdiv⟩

/-- A flow word whose division does not fit traps. -/
theorem flowEnd_traps (hi : Issues s gd x) (hg : g.quads = x.g.quads) (hr : TrapReady x) (h : ¬StackFits x take tgt fall rj) :
    Traps s x (.next (flowEnd s x (divide x.c.quads take tgt fall rj false g))) (overflowTrap x) := by
  rw [divide_eq_none_of_overflow hg h]
  exact raise_traps hi hr _

end

/-! ## The link (R135) -/

theorem foldl_putV_frame (d : Nat) (y : Word) (ls : List Nat) (g : Group) :
    ls.foldl (fun g l => putV g d l y) g = { g with v := (ls.foldl (fun g l => putV g d l y) g).v } := by
  induction ls generalizing g with
  | nil => rfl
  | cons l r ih => rw [List.foldl_cons, ih]; rfl

theorem getV_foldl_putV (d : Nat) (y : Word) {ls : List Nat} (hls : ∀ l ∈ ls, l < 16) (g : Group) (n : Nat) {k : Nat} (hk : k < 16) :
    getV (ls.foldl (fun g l => putV g d l y) g) n k = if n = d ∧ k ∈ ls then { val := y, poison := false } else getV g n k := by
  induction ls generalizing g with
  | nil => simp
  | cons l r ih =>
    rw [List.foldl_cons, ih (fun a ha => hls a (List.mem_cons_of_mem l ha)), putV, getV_putVSlot _ _ _ _ _ _ (hls l List.mem_cons_self) hk]
    by_cases hn : n = d <;> by_cases hr : k ∈ r <;> by_cases hl : k = l <;> simp [hn, hr, hl]

theorem putLink_frame (c : Issue) (d : Nat) (g : Group) (m : LMask) : putLink c d g m = { g with v := (putLink c d g m).v } :=
  foldl_putV_frame _ _ _ _

theorem putLink_quads (c : Issue) (d : Nat) (g : Group) (m : LMask) : (putLink c d g m).quads = g.quads := by
  rw [putLink_frame]

theorem getV_putLink (c : Issue) (d : Nat) (g : Group) (m : LMask) (n : Nat) {l : Nat} (hl : l < 16) :
    getV (putLink c d g m) n l = if n = d ∧ hasLane m l = true then { val := fallOf c.clause, poison := false } else getV g n l := by
  rw [putLink, getV_foldl_putV _ _ (fun _ => lanesOf_lt) g n hl]
  simp [mem_lanesOf, hl]

/-! ## BR (R121, R122, R133) -/

section
variable {s t : State} {x : Ctx} {w : FmtJ}

theorem stackRoom_iff : StackRoom x ↔ (quadsOf x.c.quads).all (fun q => decide ((quadAt x.g q).stack.length ≤ 6)) = true := by
  simp only [List.all_eq_true, decide_eq_true_eq]
  exact ⟨fun h q hq => h q (mem_quadsOf.mp hq).2, fun h q hq => h q (mem_quadsOf_of_hasQuad hq)⟩

/-- What follows the predictor's learning changes the cores by that alone. -/
theorem flowStep_of_learnt {core key : Nat} {m seen : LMask} {g : Group} (h : GroupStep (predUpdate s core key m seen) t x g) :
    t.cores = (predUpdate s core key m seen).cores ∧ FlowStep s t x g := by
  obtain ⟨hrest, hothers, hhere⟩ := h
  exact ⟨by rw [hrest], by rw [hrest]; rfl, hothers, hhere⟩

theorem execBr_of_constant (hi : Issues s w.g x) (hcp : w.cp = 7) (hg : w.g = 7) :
    exec (.br w) s = .next (modGrp (predUpdate s (coreOf s x.w) (predKey x) x.c.run x.c.run) x.c.wg x.c.grp (jumpGrp x.c (hdrOff x.c w.tgt))) := by
  rw [exec, execBr, withCtx_next hi, if_pos ⟨hcp, hg⟩]

theorem execBr_of_unpredicted (hi : Issues s w.g x) (hconst : ¬(w.cp = 7 ∧ w.g = 7))
    (hsure : x.c.predict = false ∨ alwaysKnown w = true ∨ (predEntry s x).conf.toNat < 2 ∨ ¬StackRoom x) :
    exec (.br w) s
      = .next (flowEnd (predUpdate s (coreOf s x.w) (predKey x) x.c.run (x.act &&& condMask x.g w.cp)) x
          (divide x.c.quads (x.act &&& condMask x.g w.cp) (hdrOff x.c w.tgt) (fallOf x.c.clause) (rjOf x.c w.rj) false x.g)) := by
  have hno : (x.c.predict && !alwaysKnown w && (quadsOf x.c.quads).all (fun q => decide ((quadAt x.g q).stack.length ≤ 6))
      && decide (2 ≤ (predEntry s x).conf.toNat)) = false := by
    rw [stackRoom_iff, Bool.not_eq_true] at hsure
    rcases hsure with h | h | h | h
    · simp [h]
    · simp [h]
    · simp [Nat.not_le.mpr h]
    · simp [h]
  rw [exec, execBr, withCtx_next hi, if_neg hconst]
  simp only [hno, Bool.false_eq_true, if_false]

/-- A gang with room for two more entries takes every division. -/
theorem stackFits_of_room {take : LMask} {tgt fall : Word} {rj : Option Word} (h : StackRoom x) : StackFits x take tgt fall rj := by
  intro q _ hm
  have hlen := h q hm
  have hpush : pushed x take tgt fall rj q ≤ 2 := by
    unfold pushed
    split <;> split <;> omega
  omega

theorem execBr_of_predicted {d : Group} (hi : Issues s w.g x) (hroom : StackRoom x) (hknown : alwaysKnown w = false) (hpred : x.c.predict = true)
    (hconf : 2 ≤ (predEntry s x).conf.toNat)
    (hd : divide x.c.quads ((predEntry s x).mask &&& x.c.run) (hdrOff x.c w.tgt) (fallOf x.c.clause) (rjOf x.c w.rj) true x.g = some d) :
    exec (.br w) s
      = .next (predictBr s x (x.act &&& condMask x.g w.cp) ((predEntry s x).mask &&& x.c.run) (hdrOff x.c w.tgt) (fallOf x.c.clause) (rjOf x.c w.rj) d) := by
  have hconst : ¬(w.cp = 7 ∧ w.g = 7) := by
    rintro ⟨hcp, hg⟩
    simp [alwaysKnown, hcp, hg] at hknown
  have hyes : (x.c.predict && !alwaysKnown w && (quadsOf x.c.quads).all (fun q => decide ((quadAt x.g q).stack.length ≤ 6))
      && decide (2 ≤ (predEntry s x).conf.toNat)) = true := by
    simp only [hpred, hknown, stackRoom_iff.mp hroom, hconf, decide_true, Bool.not_false, Bool.and_self]
  rw [exec, execBr, withCtx_next hi, if_neg hconst]
  simp only [hyes, if_true, hd]

/-- A quad with a predicted lane that takes the branch goes to its target. -/
theorem onTarget_eq {g : Group} {mask : LMask} {tgt fall : Word} (q : Nat) :
    (nextOf g mask tgt fall q == tgt && quadPart mask q &&& (quadAt g q).run != 0) = (quadPart mask q &&& (quadAt g q).run != 0) := by
  by_cases hon : quadPart mask q &&& (quadAt g q).run = 0
  · simp [hon]
  · have hgoes : nextOf g mask tgt fall q = tgt := by
      rw [nextOf_eq, if_neg hon, ite_self]
    simp [hgoes]

/-- BR that is predicted: the gang divides by the predictor's mask, and each of its quads is noted as predicted. -/
theorem predictBr_notes (hi : Issues s w.g x) {take mask : LMask} {tgt fall : Word} {rj : Option Word} {d0 : Group} (hdiv : Divided x x.g mask tgt fall rj true d0)
    (hlen : d0.quads.length = x.g.quads.length) :
    ∃ d, GroupStep s (predictBr s x take mask tgt fall rj d0) x d ∧ d = { d0 with quads := d.quads }
      ∧ (∀ q, q < x.g.quads.length → hasQuad x.c.quads q = false → quadAt d q = quadAt x.g q)
      ∧ (∀ q, q < x.g.quads.length → hasQuad x.c.quads q = true →
          quadAt d q = { quadAt d0 q with pred := some {
              brPc := x.c.pc, gang := x.c.quads, tgt := tgt, fall := fall, rj := rj, onTarget := quadPart mask q &&& (quadAt x.g q).run != 0,
              lanes := (quadAt x.g q).run, truth := quadPart take q &&& (quadAt x.g q).run, issued := 0, mark := s.nextId, undo := [], stopped := false } }) := by
  refine ⟨_, modGrp_step hi _, rfl, ?outside, ?inside⟩
  case outside =>
    intro q hq hm
    rw [quadAt_mapRange d0 _ (hlen ▸ hq)]
    simp only [hm, Bool.false_eq_true, if_false]
    exact hdiv.outside q hq hm
  case inside =>
    intro q hq hm
    rw [quadAt_mapRange d0 _ (hlen ▸ hq)]
    simp only [hm, if_true, onTarget_eq]

end

/-! ## The direct branches -/

section
variable {s : State} {x : Ctx} {w : FmtJ} (hi : Issues s w.g x)
include hi

theorem execBru_of_agreed (h : disagree (x.act &&& x.g.counted) (x.act &&& condMask x.g w.cp) = false) :
    exec (.bru w) s
      = .next (flowEnd s x (divide x.c.quads (bruTake x (x.act &&& condMask x.g w.cp)) (hdrOff x.c w.tgt) (fallOf x.c.clause) (rjOf x.c w.rj) false x.g)) := by
  rw [exec, execBru, withCtx_next hi]
  simp only [h, Bool.false_eq_true, if_false]

theorem execBru_of_disagreed (h : disagree (x.act &&& x.g.counted) (x.act &&& condMask x.g w.cp) = true) :
    exec (.bru w) s = .next (raise s x (uniformTrap x)) := by
  rw [exec, execBru, withCtx_next hi]
  simp only [h, if_true]

theorem execCall_eq :
    exec (.call w) s
      = .next (flowEnd s x (divide x.c.quads (x.act &&& condMask x.g w.cp) (hdrOff x.c w.tgt) (fallOf x.c.clause) (rjOf x.c w.rj) false
          (putLink x.c w.d.toNat x.g (x.act &&& condMask x.g w.cp)))) := by
  rw [exec, execCall, withCtx_next hi]

theorem execLoop_of_idle (h : x.act = 0) :
    exec (.loop w) s = .next (flowEnd s x (divide x.c.quads 0 (hdrOff x.c w.tgt) (fallOf x.c.clause) (rjOf x.c w.rj) false x.g)) := by
  rw [exec, execLoop, withCtx_next hi]
  simp only [h, if_true]

theorem execLoop_of_reads (h : x.act ≠ 0) (hr : Reads x [srcOf 0 w.a 1] x.act) :
    let n := w.a.code.toNat - 0x80
    let left := (getS x.g n).val - 1
    exec (.loop w) s
      = .next (flowEnd s x (divide x.c.quads (if left = 0 then 0 else x.act) (hdrOff x.c w.tgt) (fallOf x.c.clause) (rjOf x.c w.rj) false
          (putS x.g n left))) := by
  rw [exec, execLoop, withCtx_next hi]
  simp only [h, if_false, withSources_reads _ hr]

end

/-- Settles O20: each branch by its one division, which fits the stacks or is the trap; the predicted BR by what it notes. -/
theorem branchesDivide : Obligations.BranchesDivide := by
  constructor
  · intro s x w hi tgt fall rj take learnt n left again
    have hi' : ∀ k, Issues { s with cores := k } w.g x := fun _ => ⟨hi.cur, hi.wg, hi.grp, hi.launch, hi.act⟩
    refine ⟨fun hconst hsure => ?br, fun hcp hg => ?jump, fun hagree => ?bru, fun hdiff hr => ?uniform, fun hfit => ?call, fun hfull hr => ?callTrap,
      fun hidle hfit => ?loopIdle, fun hact hreads => ?loop⟩
    case br =>
      rw [execBr_of_unpredicted hi hconst hsure]
      constructor
      · intro hfit
        obtain ⟨t, d, ht, hstep, hdiv⟩ := flowEnd_divides (hi' (learnt take)) rfl hfit
        obtain ⟨hcores, hflow⟩ := flowStep_of_learnt hstep
        exact ⟨t, d, ht, hcores, hflow, hdiv⟩
      · intro hfull hr
        obtain ⟨t, g, ht, hstep, hin⟩ := flowEnd_traps (hi' (learnt take)) rfl hr hfull
        obtain ⟨hcores, hflow⟩ := flowStep_of_learnt hstep
        exact ⟨t, g, ht, hcores, hflow, hin⟩
    case jump =>
      obtain ⟨hcores, hflow⟩ := flowStep_of_learnt (modGrp_step (hi' (learnt x.c.run)) (jumpGrp x.c tgt))
      exact ⟨_, _, execBr_of_constant hi hcp hg, hcores, hflow, rfl⟩
    case bru =>
      rw [execBru_of_agreed hi hagree]
      exact ⟨flowEnd_divides hi rfl, fun hfull hr => flowEnd_traps hi rfl hr hfull⟩
    case uniform =>
      rw [execBru_of_disagreed hi hdiff]
      exact raise_traps hi hr _
    case call =>
      obtain ⟨t, d, ht, hstep, hdiv⟩ := flowEnd_divides hi (putLink_quads x.c w.d.toNat x.g take) hfit
      exact ⟨t, _, d, (execCall_eq hi).trans ht, hstep, hdiv, putLink_frame _ _ _ _, fun n l hl => getV_putLink _ _ _ _ _ hl⟩
    case callTrap =>
      rw [execCall_eq hi]
      exact flowEnd_traps hi (putLink_quads x.c w.d.toNat x.g take) hr hfull
    case loopIdle =>
      rw [execLoop_of_idle hi hidle]
      exact flowEnd_divides hi rfl hfit
    case loop =>
      rw [execLoop_of_reads hi hact hreads]
      exact ⟨flowEnd_divides hi rfl, fun hfull hr => flowEnd_traps hi rfl hr hfull⟩
  · intro s x w hi hroom hknown hpred hconf tgt fall rj mask take
    obtain ⟨d0, hd, hdiv, hlen⟩ := divide_of_fits (spec := true) (g := x.g) rfl (stackFits_of_room (take := mask) (tgt := tgt) (fall := fall) (rj := rj) hroom)
    obtain ⟨d, hstep, hrest, hout, hin⟩ := predictBr_notes (take := take) hi hdiv hlen
    exact ⟨_, d0, d, execBr_of_predicted hi hroom hknown hpred hconf hd, hstep, hdiv, hrest, hout, hin⟩

end Sys2Proof.Machine

/-! Indirect branches (R134 to R136): where each quad goes, what stays at the branch, and the link that CALLI writes (O21). -/
namespace Sys2Proof.Machine

/-! ## Masks and their lanes -/

/-- The sum of the powers of two below `n` that `f` picks. -/
def sumBits (f : Nat → Bool) (n : Nat) : Nat := ((List.range n).map (fun l => if f l then 2 ^ l else 0)).foldl (· + ·) 0

theorem sumBits_succ (f : Nat → Bool) (n : Nat) : sumBits f (n + 1) = sumBits f n + (if f n then 2 ^ n else 0) := by
  simp [sumBits, List.range_succ]

theorem sumBits_lt (f : Nat → Bool) (n : Nat) : sumBits f n < 2 ^ n := by
  induction n with
  | zero => simp [sumBits]
  | succ n ih =>
    rw [sumBits_succ, Nat.pow_succ]
    split <;> omega

theorem testBit_sumBits (f : Nat → Bool) (n i : Nat) : (sumBits f n).testBit i = (decide (i < n) && f i) := by
  induction n with
  | zero => simp [sumBits]
  | succ n ih =>
    rcases Nat.lt_trichotomy i n with h | h | h
    · rw [sumBits_succ, decide_eq_true (Nat.lt_succ_of_lt h), ← decide_eq_true h, ← ih]
      split
      · rw [Nat.add_comm, Nat.testBit_two_pow_add_gt h]
      · rw [Nat.add_zero]
    · subst h
      have hclear : (sumBits f i).testBit i = false := Nat.testBit_lt_two_pow (sumBits_lt f i)
      cases hf : f i
      · simp [sumBits_succ, hf, hclear]
      · rw [sumBits_succ, hf, if_pos rfl, Nat.add_comm, Nat.testBit_two_pow_add_eq, hclear]
        simp
    · have hlt : sumBits f (n + 1) < 2 ^ i := Nat.lt_of_lt_of_le (sumBits_lt f (n + 1)) (Nat.pow_le_pow_right (by decide) h)
      rw [Nat.testBit_lt_two_pow hlt, decide_eq_false (by omega), Bool.false_and]

theorem hasLane_maskOf (f : Nat → Bool) {l : Nat} (hl : l < 16) : hasLane (maskOf f) l = f l := by
  rw [hasLane, maskOf, BitVec.getLsbD_ofNat, lanes16, ← sumBits, testBit_sumBits]
  simp [hl]

theorem hasQuad_qmaskOf (f : Nat → Bool) {q : Nat} (hq : q < 4) : hasQuad (qmaskOf f) q = f q := by
  rw [hasQuad, qmaskOf, BitVec.getLsbD_ofNat, quads4, ← sumBits, testBit_sumBits]
  simp [hq]

theorem hasQuad_quadPart (m : LMask) (q : Nat) {i : Nat} (hi : i < 4) : hasQuad (quadPart m q) i = hasLane m (4 * q + i) := by
  simp only [hasQuad, hasLane, quadPart, BitVec.getLsbD_ofNat, hi, decide_true, Bool.true_and, Nat.testBit_div_two_pow]
  rw [BitVec.getLsbD, Nat.add_comm]

theorem hasLane_quadLift (m : QMask) (q : Nat) {l : Nat} (hl : l < 16) : hasLane (quadLift m q) l = (decide (l / 4 = q) && hasQuad m (l % 4)) := by
  rw [hasLane, quadLift, BitVec.getLsbD_ofNat, Nat.testBit_mul_two_pow]
  by_cases h : l / 4 = q
  · have hge : 4 * q ≤ l := by omega
    have hsub : l - 4 * q = l % 4 := by omega
    simp [h, hl, hge, hsub, hasQuad, BitVec.getLsbD]
  · by_cases hge : 4 * q ≤ l
    · have hclear : m.toNat.testBit (l - 4 * q) = false :=
        Nat.testBit_lt_two_pow (Nat.lt_of_lt_of_le m.isLt (Nat.pow_le_pow_right (by decide) (by omega)))
      simp [h, hclear]
    · simp [h, hge]

theorem hasLane_and (m n : LMask) (l : Nat) : hasLane (m &&& n) l = (hasLane m l && hasLane n l) := BitVec.getLsbD_and

theorem hasLane_or (m n : LMask) (l : Nat) : hasLane (m ||| n) l = (hasLane m l || hasLane n l) := BitVec.getLsbD_or

theorem hasLane_foldl_or (f : Nat → LMask) (qs : List Nat) (m : LMask) (l : Nat) :
    hasLane (qs.foldl (fun m q => m ||| f q) m) l = (hasLane m l || qs.any (fun q => hasLane (f q) l)) := by
  induction qs generalizing m with
  | nil => simp
  | cons q r ih => rw [List.foldl_cons, ih, hasLane_or, List.any_cons, Bool.or_assoc]

/-- The lanes of a group, out of the lanes of its quads. -/
theorem hasLane_foldl_quadLift (f : Nat → QMask) {l : Nat} (hl : l < 16) :
    hasLane (quads4.foldl (fun m q => m ||| quadLift (f q) q) 0) l = hasQuad (f (l / 4)) (l % 4) := by
  rw [hasLane_foldl_or]
  have hzero : hasLane 0 l = false := by simp [hasLane]
  have hq : l / 4 ∈ quads4 := by simp [quads4]; omega
  rw [hzero, Bool.false_or, Bool.eq_iff_iff, List.any_eq_true]
  constructor
  · rintro ⟨q, -, h⟩
    rw [hasLane_quadLift _ _ hl, Bool.and_eq_true, decide_eq_true_eq] at h
    rw [h.1]; exact h.2
  · intro h
    exact ⟨l / 4, hq, by rw [hasLane_quadLift _ _ hl, h]; simp⟩

/-! ## What an indirect branch sends off (R134) -/

section
variable {x : Ctx} {tg : Nat → Word} {rj : Option Word}

theorem firstLanes_of_none {q : Nat} (h : firstIn x.act q = none) : firstLanes x.act tg q = 0 := by
  rw [firstIn] at h
  simp only [firstLanes, h]

theorem firstLanes_of_some {q l0 : Nat} (h : firstIn x.act q = some l0) :
    firstLanes x.act tg q = quadPart (maskOf (fun l => hasLane x.act l && l / 4 == q && tg l == tg l0)) q := by
  rw [firstIn] at h
  simp only [firstLanes, h]

theorem firstIn_mem {q l0 : Nat} (h : firstIn x.act q = some l0) : l0 < 16 ∧ hasLane x.act l0 = true ∧ l0 / 4 = q := by
  have hmem := mem_lanesOf.mp (List.mem_of_find?_eq_some h)
  exact ⟨hmem.1, hmem.2, by simpa using List.find?_some h⟩

/-- The lanes that go share the target of the lowest lane of their quad in ACTIVE. -/
theorem hasQuad_firstLanes {l : Nat} (hl : l < 16) :
    hasQuad (firstLanes x.act tg (l / 4)) (l % 4) = true ↔ hasLane x.act l = true ∧ ∃ l0, firstIn x.act (l / 4) = some l0 ∧ tg l = tg l0 := by
  cases h : firstIn x.act (l / 4) with
  | none => simp [firstLanes_of_none h, hasQuad]
  | some l0 =>
    rw [firstLanes_of_some h, hasQuad_quadPart _ _ (by omega), Nat.div_add_mod, hasLane_maskOf _ hl]
    simp

/-- Some lane of a quad goes if one is in ACTIVE. -/
theorem firstLanes_ne_zero {q l0 : Nat} (h : firstIn x.act q = some l0) : firstLanes x.act tg q ≠ 0 := by
  obtain ⟨hl, hact, rfl⟩ := firstIn_mem h
  intro hzero
  have hgo : hasQuad (firstLanes x.act tg (l0 / 4)) (l0 % 4) = true := (hasQuad_firstLanes hl).mpr ⟨hact, l0, h, rfl⟩
  rw [hzero] at hgo
  simp [hasQuad] at hgo

theorem sentRun_eq (q : Nat) : (if firstLanes x.act tg q = 0 then (quadAt x.g q).run else firstLanes x.act tg q) = sentRun x tg q := by
  rw [sentRun]
  cases h : firstIn x.act q with
  | none => rw [if_pos (firstLanes_of_none h)]
  | some l0 => rw [if_neg (firstLanes_ne_zero h), firstLanes_of_some h]

theorem sentRest_eq (q : Nat) :
    (if firstLanes x.act tg q = 0 then 0 else (quadAt x.g q).run &&& ~~~firstLanes x.act tg q) = sentRest x tg q := by
  rw [sentRest, ← sentRun_eq]
  split
  · simp
  · rfl

theorem briStack_eq (q : Nat) : briStack x.c (quadAt x.g q) rj (sentRest x tg q) (sentApart x tg rj) = sentStack x tg rj q := by
  rw [briStack, sentStack]
  by_cases hr : reuses (quadAt x.g q) = true
  · simp only [hr, if_true]
    cases (quadAt x.g q).stack <;> rfl
  · rw [if_neg hr, if_neg hr]
    dsimp only
    by_cases hrest : sentRest x tg q = 0
    · rw [if_pos hrest, if_pos hrest]
      cases sentApart x tg rj <;> rfl
    · rw [if_neg hrest, if_neg hrest]
      cases sentApart x tg rj <;> rfl

/-- The gang after an indirect branch. -/
def sentGrp (x : Ctx) (tg : Nat → Word) (rj : Option Word) (g : Group) : Group :=
  { g with quads := (List.range g.quads.length).map (fun q =>
      let a := quadAt g q
      if hasQuad x.c.quads q then
        { a with pc := sentNext x tg q, clause := none, gang := gangName x.c.quads (sentNext x tg) q, stack := sentStack x tg rj q, run := sentRun x tg q }
      else a) }

theorem divideBy_eq {g : Group} (hg : g.quads = x.g.quads) :
    divideBy x.c x.act tg rj g
      = if (quadsOf x.c.quads).any (fun q => decide (8 < (sentStack x tg rj q).length)) then none else some (sentGrp x tg rj g) := by
  have hquad : quadAt g = quadAt x.g := funext (quadAt_congr hg)
  simp only [divideBy, sentGrp, hquad, sentRest_eq, sentRun_eq, ← briStack_eq]
  rfl

theorem sentGrp_sent (g : Group) : Sent x g tg rj (sentGrp x tg rj g) where
  rest := rfl
  length := by simp [sentGrp]
  outside := by
    intro q hq hm
    simp [sentGrp, quadAt_mapRange g _ hq, hm]
  inside := by
    intro q hq hm
    simp [sentGrp, quadAt_mapRange g _ hq, hm]
  gangs := by
    intro p q hp hq hmp hmq
    simp only [sentGrp, quadAt_mapRange g _ hp, quadAt_mapRange g _ hq, hmp, hmq, if_true]
    exact gangName_eq_iff _ hmp hmq

theorem divideBy_of_fits {g : Group} (hg : g.quads = x.g.quads) (h : SentFits x tg rj) :
    ∃ d, divideBy x.c x.act tg rj g = some d ∧ Sent x g tg rj d := by
  have hany : (quadsOf x.c.quads).any (fun q => decide (8 < (sentStack x tg rj q).length)) = false := by
    rw [any_quadsOf_eq_false]
    simpa only [SentFits, Nat.not_lt] using h
  exact ⟨_, by rw [divideBy_eq hg, if_neg (Bool.eq_false_iff.mp hany)], sentGrp_sent g⟩

theorem divideBy_eq_none_of_overflow {g : Group} (hg : g.quads = x.g.quads) (h : ¬SentFits x tg rj) : divideBy x.c x.act tg rj g = none := by
  have hany : (quadsOf x.c.quads).any (fun q => decide (8 < (sentStack x tg rj q).length)) = true := by
    rw [← Bool.not_eq_false, any_quadsOf_eq_false]
    simpa only [SentFits, Nat.not_lt] using h
  rw [divideBy_eq hg, if_pos hany]

end

/-! ## BRI, CALLI and RET -/

section
variable {s : State} {gd : BitVec 3} {x : Ctx} {tg : Nat → Word} {rj : Option Word} {link : Group → LMask → Group}

/-- Lanes that an indirect branch sends off (R134). -/
def sentLanes (x : Ctx) (tg : Nat → Word) : LMask := quads4.foldl (fun m q => m ||| quadLift (firstLanes x.act tg q) q) 0 &&& x.c.run

theorem hasLane_sentLanes {l : Nat} (hl : l < 16) :
    hasLane (sentLanes x tg) l = true
      ↔ hasLane x.act l = true ∧ hasLane x.c.run l = true ∧ ∃ l0, firstIn x.act (l / 4) = some l0 ∧ tg l = tg l0 := by
  rw [sentLanes, hasLane_and, hasLane_foldl_quadLift _ hl, Bool.and_eq_true, hasQuad_firstLanes hl]
  tauto

theorem indirect_of_even (h : oddTargets x tg = 0) :
    indirect s x tg rj link = flowEnd s x (divideBy x.c x.act (evenTarget tg) rj (link x.g (sentLanes x (evenTarget tg)))) := by
  simp [indirect, h, sentLanes]

theorem indirect_of_odd (h : oddTargets x tg ≠ 0) : indirect s x tg rj link = raise s x (Trap.at x.c .illegalOp 11 (oddTargets x tg)) := by
  rw [indirect, if_pos (bne_iff_ne.mpr h)]

/-- An indirect branch of even targets whose division fits. -/
theorem indirect_sends (hi : Issues s gd x) (hlink : ∀ m, (link x.g m).quads = x.g.quads) (heven : oddTargets x tg = 0)
    (hfit : SentFits x (evenTarget tg) rj) :
    ∃ t d, Host.Outcome.next (φ := Fault) (ρ := Refusal) (indirect s x tg rj link) = .next t ∧ GroupStep s t x (settle d)
      ∧ Sent x (link x.g (sentLanes x (evenTarget tg))) (evenTarget tg) rj d := by
  obtain ⟨d, hd, hsent⟩ := divideBy_of_fits (hlink (sentLanes x (evenTarget tg))) hfit
  exact ⟨_, d, by rw [indirect_of_even heven, hd], flowEnd_goes hi d, hsent⟩

theorem indirect_overflows (hi : Issues s gd x) (hlink : ∀ m, (link x.g m).quads = x.g.quads) (heven : oddTargets x tg = 0)
    (hfull : ¬SentFits x (evenTarget tg) rj) (hr : TrapReady x) : Traps s x (.next (indirect s x tg rj link)) (overflowTrap x) := by
  rw [indirect_of_even heven, divideBy_eq_none_of_overflow (hlink _) hfull]
  exact raise_traps hi hr _

theorem indirect_traps (hi : Issues s gd x) (hodd : oddTargets x tg ≠ 0) (hr : TrapReady x) :
    Traps s x (.next (indirect s x tg rj link)) (Trap.at x.c .illegalOp 11 (oddTargets x tg)) := by
  rw [indirect_of_odd hodd]
  exact raise_traps hi hr _

end

section
variable {s : State} {x : Ctx}

theorem execBri_of_reads {w : FmtJ} (hi : Issues s w.g x) (hr : Reads x [srcOf 0 w.a 1] x.act) :
    exec (.bri w) s = .next (indirect s x (targetOf s x w.a) (rjOf x.c w.rj) (fun g _ => g)) := by
  rw [exec, execBri, withCtx_next hi, withSources_reads _ hr]

theorem execCalli_of_reads {w : FmtJ} (hi : Issues s w.g x) (hr : Reads x [srcOf 0 w.a 1] x.act) :
    exec (.calli w) s = .next (indirect s x (targetOf s x w.a) (rjOf x.c w.rj) (putLink x.c w.d.toNat)) := by
  rw [exec, execCalli, withCtx_next hi, withSources_reads _ hr]

theorem execRet_of_reads {w : FmtY} (hi : Issues s w.g x) (hr : Reads x [srcOf 0 w.a 1] x.act) :
    exec (.ret w) s = .next (indirect s x (targetOf s x w.a) none (fun g _ => g)) := by
  rw [exec, execRet, withCtx_next hi, withSources_reads _ hr]

/-! ## BRIU (R128, R134) -/

theorem judges_eq (x : Ctx) : judges x = if groupAct x = 0 then x.act else x.act &&& x.g.counted := by
  rw [judges, groupAct]
  by_cases h : x.act &&& x.g.counted = 0
  · rw [if_pos h, if_pos h, if_pos rfl]
  · have hact : x.act ≠ 0 := fun h0 => h (by rw [h0]; exact BitVec.zero_and)
    rw [if_neg h, if_neg h, if_neg hact]

variable {w : FmtJ} (hi : Issues s w.g x) (hr : Reads x [srcOf 0 w.a 1] x.act)
include hi hr

theorem execBriu_of_odd (hodd : oddTargets x (targetOf s x w.a) ≠ 0) :
    exec (.briu w) s = .next (raise s x (Trap.at x.c .illegalOp 11 (oddTargets x (targetOf s x w.a)))) := by
  rw [exec, execBriu, withCtx_next hi, withSources_reads _ hr, if_pos (bne_iff_ne.mpr hodd)]

variable (heven : oddTargets x (targetOf s x w.a) = 0)
include heven

theorem execBriu_of_idle (h : x.act = 0) :
    exec (.briu w) s = .next (flowEnd s x (divide x.c.quads 0 0 (fallOf x.c.clause) (rjOf x.c w.rj) false x.g)) := by
  have hnone : lowestLane (judges x) = none := by
    rw [judges_eq, groupAct, h, ite_self, if_pos rfl]
    decide
  rw [exec, execBriu, withCtx_next hi, withSources_reads _ hr]
  simp [heven, hnone]

theorem execBriu_of_agreed {l0 : Nat} (hl0 : lowestLane (judges x) = some l0)
    (hagree : ∀ l, l < 16 → hasLane (x.act &&& x.g.counted) l = true → evenTarget (targetOf s x w.a) l = evenTarget (targetOf s x w.a) l0) :
    exec (.briu w) s
      = .next (flowEnd s x (divide x.c.quads x.act (evenTarget (targetOf s x w.a) l0) (fallOf x.c.clause) (rjOf x.c w.rj) false x.g)) := by
  have hany : (lanesOf (x.act &&& x.g.counted)).any (fun l => evenTarget (targetOf s x w.a) l != evenTarget (targetOf s x w.a) l0) = false := by
    rw [List.any_eq_false]
    intro l hl
    obtain ⟨hlt, hlane⟩ := mem_lanesOf.mp hl
    simp [hagree l hlt hlane]
  rw [exec, execBriu, withCtx_next hi, withSources_reads _ hr]
  simp [heven, hl0, hany]

theorem execBriu_of_disagreed {l0 l : Nat} (hl0 : lowestLane (judges x) = some l0) (hl : l < 16)
    (hlane : hasLane (x.act &&& x.g.counted) l = true) (hdiff : evenTarget (targetOf s x w.a) l ≠ evenTarget (targetOf s x w.a) l0) :
    exec (.briu w) s = .next (raise s x (uniformTrap x)) := by
  have hany : (lanesOf (x.act &&& x.g.counted)).any (fun l => evenTarget (targetOf s x w.a) l != evenTarget (targetOf s x w.a) l0) = true :=
    List.any_eq_true.mpr ⟨l, mem_lanesOf.mpr ⟨hl, hlane⟩, bne_iff_ne.mpr hdiff⟩
  rw [exec, execBriu, withCtx_next hi, withSources_reads _ hr]
  simp [heven, hl0, hany]

end

/-- Settles O21: BRI, CALLI and RET by the one indirect branch they share, BRIU by what its counted lanes agree on. -/
theorem indirectBranches : Obligations.IndirectBranches := by
  refine ⟨fun s x w hi hreads heven => ?even, fun s x w hi hreads hodd hr => ?odd, fun s x w hi hreads => ?ret⟩
  case even =>
    have hquads : ∀ m, (putLink x.c w.d.toNat x.g m).quads = x.g.quads := putLink_quads x.c w.d.toNat x.g
    intro tg rj
    refine ⟨fun hfit => ⟨?bri, ?calli⟩, fun hfull hr => ⟨?briFull, ?calliFull⟩, fun l0 hl0 => ?briu, fun hidle hfit => ?briuIdle⟩
    case bri =>
      rw [execBri_of_reads hi hreads]
      exact indirect_sends hi (fun _ => rfl) heven hfit
    case calli =>
      obtain ⟨t, d, ht, hstep, hsent⟩ := indirect_sends (link := putLink x.c w.d.toNat) hi hquads heven hfit
      refine ⟨t, _, d, (execCalli_of_reads hi hreads).trans ht, hstep, hsent, putLink_frame _ _ _ _, fun n l hl => ?_⟩
      rw [getV_putLink _ _ _ _ _ hl]
      simp only [hasLane_sentLanes hl]
      rfl
    case briFull =>
      rw [execBri_of_reads hi hreads]
      exact indirect_overflows hi (fun _ => rfl) heven hfull hr
    case calliFull =>
      rw [execCalli_of_reads hi hreads]
      exact indirect_overflows hi hquads heven hfull hr
    case briu =>
      rw [← judges_eq] at hl0
      constructor
      · intro hagree
        rw [execBriu_of_agreed hi hreads heven hl0 hagree]
        exact ⟨flowEnd_divides hi rfl, fun hfull hr => flowEnd_traps hi rfl hr hfull⟩
      · rintro ⟨l, hl, hlane, hdiff⟩ hr
        rw [execBriu_of_disagreed hi hreads heven hl0 hl hlane hdiff]
        exact raise_traps hi hr _
    case briuIdle =>
      rw [execBriu_of_idle hi hreads heven hidle]
      exact flowEnd_divides hi rfl hfit
  case odd =>
    rw [execBri_of_reads hi hreads, execCalli_of_reads hi hreads, execBriu_of_odd hi hreads hodd]
    exact ⟨indirect_traps hi hodd hr, indirect_traps hi hodd hr, raise_traps hi hr _⟩
  case ret =>
    intro tg
    rw [execRet_of_reads hi hreads]
    exact ⟨fun heven => ⟨indirect_sends hi (fun _ => rfl) heven, fun hfull hr => indirect_overflows hi (fun _ => rfl) heven hfull hr⟩,
      fun hodd hr => indirect_traps hi hodd hr⟩

end Sys2Proof.Machine

/-! EXIT, YIELD, SLEEP and NOP (R138, R139): the lanes that end, the barriers looked at again, and leaving the active set (O22). -/
namespace Sys2Proof.Machine

/-! ## Operations that are over -/

/-- A flag falls for an operation that is over, where it is no reduction. -/
def lowerFlag (g : Group) (o : Op) : Group := if o.kind == .red then g else flagDec g o.flag

theorem lowerFlag_withQuads (g : Group) (o : Op) (qs : List Quad) : lowerFlag { g with quads := qs } o = { lowerFlag g o with quads := qs } := by
  unfold lowerFlag
  split
  · rfl
  · cases o.flag <;> rfl

theorem lowerFlag_frame (g : Group) (o : Op) : lowerFlag g o = { g with f := (lowerFlag g o).f } := by
  unfold lowerFlag
  split
  · rfl
  · cases o.flag <;> rfl

theorem foldl_lowerFlag_withQuads (ops : List Op) (g : Group) (qs : List Quad) :
    ops.foldl lowerFlag { g with quads := qs } = { ops.foldl lowerFlag g with quads := qs } := by
  induction ops generalizing g with
  | nil => rfl
  | cons o r ih => rw [List.foldl_cons, lowerFlag_withQuads, ih, List.foldl_cons]

theorem foldl_lowerFlag_frame (ops : List Op) (g : Group) : ops.foldl lowerFlag g = { g with f := (ops.foldl lowerFlag g).f } := by
  induction ops generalizing g with
  | nil => rfl
  | cons o r ih => rw [List.foldl_cons, ih, lowerFlag_frame]

theorem finishGrp_eq (g : Group) : finishGrp g = { (g.ops.filter opOver).foldl lowerFlag g with ops := g.ops.filter (fun o => !opOver o) } := rfl

/-- The end of operations changes flags and operations alone. -/
theorem finishGrp_frame (g : Group) : finishGrp g = { g with f := (finishGrp g).f, ops := (finishGrp g).ops } := by
  rw [finishGrp_eq, foldl_lowerFlag_frame]

/-- The end of operations does not see the quads. -/
theorem finishGrp_withQuads (g : Group) (qs : List Quad) : finishGrp { g with quads := qs } = { finishGrp g with quads := qs } := by
  rw [finishGrp_eq, foldl_lowerFlag_withQuads, finishGrp_eq]

/-! ## EXIT (R116, R138) -/

/-- A group whose lanes `m` have ended, but for their loads and the open split. -/
def endLanes (m : LMask) (g : Group) : Group :=
  let g1 := { g with quads := (List.range g.quads.length).map (fun q =>
    stripQuad (liveAfter g m q) (qmaskOf (fun k => liveAfter g m k != 0)) (quadAt g q)) }
  dropLoads (liveOf g 0xF &&& ~~~liveOf g1 0xF) g1

theorem exitLanes_eq (m : LMask) (g : Group) : exitLanes m g = joinSplit (endLanes m g) := rfl

theorem liveOf_congr {g h : Group} (e : g.quads = h.quads) (m : QMask) : liveOf g m = liveOf h m := by
  simp only [liveOf, quadAt_congr e]

theorem dropLoads_frame (gone : LMask) (g : Group) : dropLoads gone g = { g with f := (dropLoads gone g).f, ops := (dropLoads gone g).ops } := by
  rw [dropLoads, finishGrp_frame]

/-- Discarding loads does not see the quads. -/
theorem dropLoads_withQuads (gone : LMask) (g : Group) (qs : List Quad) : dropLoads gone { g with quads := qs } = { dropLoads gone g with quads := qs } :=
  finishGrp_withQuads { g with ops := g.ops.map (fun o =>
    if o.kind == .load && !o.scalar then { o with lanes := o.lanes &&& ~~~gone, accs := o.accs.filter (fun a => !hasLane gone a.lane) } else o) } qs

theorem dropLoads_quads (gone : LMask) (g : Group) : (dropLoads gone g).quads = g.quads := by rw [dropLoads_frame]

section
variable (x : Ctx)

theorem endLanes_quads :
    (endLanes x.act x.g).quads = (List.range x.g.quads.length).map (fun q =>
      stripQuad (liveAfter x.g x.act q) (qmaskOf (fun k => liveAfter x.g x.act k != 0)) (quadAt x.g q)) := dropLoads_quads _ _

theorem quadAt_endLanes {q : Nat} (hq : q < x.g.quads.length) :
    quadAt (endLanes x.act x.g) q = stripQuad (liveAfter x.g x.act q) (qmaskOf (fun k => liveAfter x.g x.act k != 0)) (quadAt x.g q) := by
  rw [quadAt, endLanes_quads]
  simp [List.getD_eq_getElem?_getD, hq]

theorem endLanes_exited : Exited x (endLanes x.act x.g) where
  length := by simp [endLanes_quads]
  ended := by
    intro q hq h
    rw [quadAt_endLanes x hq, stripQuad]
    simp only [h, if_true]
  goes := by
    intro q hq h
    rw [quadAt_endLanes x hq, stripQuad]
    simp only [h, if_false]

theorem withoutLoads_eq (gone : LMask) : withoutLoads x gone = dropLoads gone x.g := by
  have hops : ∀ o : Op, ((o.kind == .load && !o.scalar) = true) = (o.kind = .load ∧ o.scalar = false) := fun o => by simp
  simp only [dropLoads, withoutLoads, hops]

theorem endLanes_eq :
    endLanes x.act x.g = { withoutLoads x (liveOf x.g 0xF &&& ~~~liveOf (endLanes x.act x.g) 0xF) with quads := (endLanes x.act x.g).quads } := by
  have hlive := liveOf_congr (g := endLanes x.act x.g) (h := { x.g with quads := (endLanes x.act x.g).quads }) rfl 0xF
  rw [hlive, endLanes_quads, withoutLoads_eq, ← dropLoads_withQuads]
  rfl

end

/-! ## Barriers that nothing waits at (R307) -/

theorem mem_modifyAt {α : Type} {l : List α} {i : Nat} {f : α → α} {b : α} (h : b ∈ modifyAt l i f) : b ∈ l ∨ ∃ a ∈ l, b = f a := by
  induction l generalizing i with
  | nil => exact absurd h (List.not_mem_nil)
  | cons a r ih =>
    cases i with
    | zero =>
      rcases List.mem_cons.mp h with rfl | h
      · exact .inr ⟨a, List.mem_cons_self, rfl⟩
      · exact .inl (List.mem_cons_of_mem a h)
    | succ n =>
      rcases List.mem_cons.mp h with rfl | h
      · exact .inl List.mem_cons_self
      · rcases ih h with h | ⟨c, hc, he⟩
        · exact .inl (List.mem_cons_of_mem a h)
        · exact .inr ⟨c, List.mem_cons_of_mem a hc, he⟩

/-- No group waits at a barrier. -/
def NoArrival (gs : List Group) : Prop := ∀ k ∈ gs, k.barArr = false ∧ k.bartArr = false ∧ k.bardArr = false

theorem barriers_of_noArrival {s : State} {wg : Nat} (h : ∀ v ∈ s.wgs, v.id = wg → NoArrival v.groups) : barriers s wg = s := by
  have hbar : barCheck s wg = s := by
    have hmap : s.wgs.map (fun w => if w.id = wg then
        (if w.groups.any (fun g => g.barArr) && allArrived Group.barArr w then releaseWg .bar w else w) else w) = s.wgs := by
      refine (List.map_congr_left fun v hv => ?_).trans (List.map_id _)
      split
      · next hid =>
        have hno : v.groups.any (fun g => g.barArr) = false := List.any_eq_false.mpr fun k hk => by simp [(h v hv hid k hk).1]
        rw [hno, Bool.false_and, if_neg Bool.false_ne_true]
        rfl
      · rfl
    rw [barCheck, modWg, hmap]
  rw [barriers, hbar, sendArrival]
  cases hw : findWg s wg with
  | none => rfl
  | some w =>
    have hno := h w (List.mem_of_find?_eq_some hw) (findWg_id hw)
    have hbart : w.groups.any Group.bartArr = false := List.any_eq_false.mpr fun k hk => by simp [(hno k hk).2.1]
    have hbard : w.groups.any Group.bardArr = false := List.any_eq_false.mpr fun k hk => by simp [(hno k hk).2.2]
    simp [hbart, hbard]

/-! ## EXIT, YIELD and SLEEP -/

theorem exitLanes_keeps_arrivals (c : Issue) (m : LMask) (g : Group) :
    (settle (advanceGrp c (exitLanes m g))).barArr = g.barArr ∧ (settle (advanceGrp c (exitLanes m g))).bartArr = g.bartArr
      ∧ (settle (advanceGrp c (exitLanes m g))).bardArr = g.bardArr := by
  rw [settle_frame, advanceGrp_frame, exitLanes_eq, joinSplit_frame, endLanes, dropLoads_frame]
  exact ⟨rfl, rfl, rfl⟩

section
variable {s : State} {x : Ctx} {w : FmtY} (hi : Issues s w.g x)
include hi

theorem execExit_ends (h : x.act ≠ 0) :
    ∃ u, exec (.exit w) s = .next (barriers u x.c.wg) ∧ GroupStep s u x (settle (advanceGrp x.c (joinSplit (endLanes x.act x.g))))
      ∧ ((∀ v ∈ s.wgs, v.id = x.c.wg → v = x.w) → NoArrival x.w.groups → barriers u x.c.wg = u) := by
  refine ⟨_, by rw [exec, execExit, withCtx_next hi, if_neg h], modGrp_step hi _, fun honly hno => barriers_of_noArrival fun v hv hid => ?_⟩
  obtain ⟨v0, hv0, rfl⟩ := List.mem_map.mp hv
  have hid0 : v0.id = x.c.wg := by
    by_contra hne
    simp [hne] at hid
  rw [if_pos hid0, honly v0 hv0 hid0]
  intro k hk
  rcases mem_modifyAt hk with hk | ⟨k0, hk0, rfl⟩
  · exact hno k hk
  · obtain ⟨hbar, hbart, hbard⟩ := exitLanes_keeps_arrivals x.c x.act k0
    rw [hbar, hbart, hbard]
    exact hno k0 hk0

/-- A group that has gone on leaves its place where another of its slot is ready. -/
theorem yieldGrp_advance : ∃ t, yieldGrp (advance s x.c) x.c.wg x.c.grp = t ∧ GroupStep s t x (yielded s x) := by
  have hw : findWg (advance s x.c) x.c.wg = some { x.w with groups := modifyAt x.w.groups x.c.grp (advanceGrp x.c) } := by
    rw [advance, findWg_modGrp_same, hi.wg]
    rfl
  have hg : (modifyAt x.w.groups x.c.grp (advanceGrp x.c))[x.c.grp]? = some (advanceGrp x.c x.g) := by
    rw [getElem?_modifyAt_same, hi.grp]
    rfl
  have hslot : (advanceGrp x.c x.g).slot = x.g.slot := by rw [advanceGrp_frame]
  have hready : (slotGroups (advance s x.c) (coreOf (advance s x.c) { x.w with groups := modifyAt x.w.groups x.c.grp (advanceGrp x.c) })
      (advanceGrp x.c x.g).slot).any (fun e => !e.2.2.active && groupReady (advance s x.c) e.1 e.2.1) = pendingReady s x := by
    rw [hslot]
    rfl
  refine ⟨_, rfl, ?_⟩
  simp only [yieldGrp, hw, hg, hready, yielded]
  by_cases h : pendingReady s x = true
  · simp only [h, if_true, advance, modGrp_modGrp]
    exact modGrp_step hi _
  · simp only [h]
    exact modGrp_step hi _

end

/-- Settles O22: EXIT by the lanes it ends, YIELD and SLEEP 0 by the place they leave, SLEEP by its park, and idle words by the gang's advance. -/
theorem exitAndYield : Obligations.ExitAndYield := by
  intro s x w hi
  refine ⟨fun hact => ?exit, fun hidle => ?idle, ?nop, fun hact => ⟨?yield, fun hk => ?nap, fun hk => ?sleep⟩⟩
  case exit =>
    obtain ⟨u, hexec, hstep, hbar⟩ := execExit_ends hi hact
    exact ⟨u, _, endLanes x.act x.g, hexec, hstep, endLanes_exited x, endLanes_eq x, rfl, hbar⟩
  case idle =>
    have hexit : exec (.exit w) s = .next (advance s x.c) := by rw [exec, execExit, withCtx_next hi, if_pos hidle]
    have hyield : exec (.yield w) s = .next (advance s x.c) := by rw [exec, execYield, withCtx_next hi, if_pos hidle]
    have hsleep : exec (.sleep w) s = .next (advance s x.c) := by rw [exec, execSleep, withCtx_next hi, if_pos hidle]
    intro o ho
    have hgoes : o = .next (advance s x.c) := by simpa [hexit, hyield, hsleep] using ho
    exact ⟨_, _, hgoes, advance_step hi⟩
  case nop =>
    exact ⟨_, _, by rw [exec, execNop, withCtx_next hi], advance_step hi⟩
  case yield =>
    obtain ⟨t, ht, hstep⟩ := yieldGrp_advance hi
    exact ⟨t, by rw [exec, execYield, withCtx_next hi, if_neg hact, ht], hstep⟩
  case nap =>
    obtain ⟨t, ht, hstep⟩ := yieldGrp_advance hi
    exact ⟨t, by rw [exec, execSleep, withCtx_next hi, if_neg hact, if_pos hk, ht], hstep⟩
  case sleep =>
    exact ⟨_, _, by rw [exec, execSleep, withCtx_next hi, if_neg hact, if_neg hk], modGrp_step hi _, parkGrp_parks x _⟩

end Sys2Proof.Machine

/-! BREC (R116, R211): the record that a slot takes, and the traps of the word (O19). -/
namespace Sys2Proof.Machine

/-! ## Changes that change nothing -/

theorem modifyAt_const_of_get {α : Type} {l : List α} {i : Nat} {a : α} (h : l[i]? = some a) : modifyAt l i (fun _ => a) = l := by
  induction l generalizing i with
  | nil => rfl
  | cons b r ih =>
    cases i with
    | zero => simp at h; simp [modifyAt, h]
    | succ n => simp at h; simp [modifyAt, ih h]

/-- A change that leaves the one group of its number as it is leaves the state as it is. -/
theorem modGrp_of_fixed {s : State} {gd : BitVec 3} {x : Ctx} (hi : Issues s gd x) (hsole : Sole s x) {f : Group → Group} (hf : f x.g = x.g) :
    modGrp s x.c.wg x.c.grp f = s := by
  have hmap : s.wgs.map (fun w => if w.id = x.c.wg then { w with groups := modifyAt w.groups x.c.grp f } else w) = s.wgs := by
    refine (List.map_congr_left fun v hv => ?_).trans (List.map_id _)
    split
    · next hid =>
      obtain rfl := hsole.one v hv hid
      rw [modifyAt_of_get _ _ _ f hi.grp, hf, modifyAt_const_of_get hi.grp]
      rfl
    · rfl
  rw [modGrp, modWg, hmap]

theorem clearWait_of_idle {x : Ctx} {g : Group} (h : g.ops = []) : clearWait x g = g := by
  simp only [clearWait, h, List.filter_nil, List.foldl_nil]
  rw [← h]

/-- A group that has noted no refused page has none to forget. -/
theorem forgetPages_of_fresh {x : Ctx} (h : ∀ q, hasQuad x.c.quads q = true → (quadAt x.g q).refused = []) : forgetPages x x.g = x.g := by
  have hquads : (List.range x.g.quads.length).map (fun q => if hasQuad x.c.quads q then { quadAt x.g q with refused := [] } else quadAt x.g q) = x.g.quads := by
    refine List.ext_getElem (by simp) fun i h1 h2 => ?_
    have hat : quadAt x.g i = x.g.quads[i] := by simp [quadAt, h2]
    simp only [List.getElem_map, List.getElem_range]
    split
    · next hm => rw [← h i hm, ← hat]
    · exact hat
  rw [forgetPages, modQuads, hquads]

theorem forgetPages_unnoted (x : Ctx) (g : Group) : (forgetPages x g).quads.map unnoted = g.quads.map unnoted :=
  modQuads_unnoted g _ _ (fun _ => rfl)

/-! ## Translation (R193, R194) -/

/-- Translation changes a TLB alone. -/
theorem translateFor_frame (s : State) (die part va : Nat) (write : Bool) :
    (translateFor s die part va write).2 = { s with dies := (translateFor s die part va write).2.dies } := by
  have htr : (translate s die part va).2 = { s with dies := (translate s die part va).2.dies } := by
    unfold translate
    split
    · rfl
    · split <;> rfl
  unfold translateFor
  split
  · next p s1 h =>
    rw [h] at htr
    split <;> exact htr
  · exact htr

theorem onlyDies_of_translateFor {s s1 : State} {die part va : Nat} {write : Bool} {r : Option Phys} (h : translateFor s die part va write = (r, s1)) :
    s1 = { s with dies := s1.dies } := by
  have hf := translateFor_frame s die part va write
  rwa [h] at hf

/-! ## The record read (R211) -/

/-- A group that takes record `r` in slot `n`, and goes on. -/
def bindGrp (x : Ctx) (n : Nat) (r : BitVec 128) (g : Group) : Group := advanceGrp x.c (putB (forgetPages x g) n r)

theorem bindGrp_frame (x : Ctx) (n : Nat) (r : BitVec 128) :
    bindGrp x n r x.g = { x.g with b := (bindGrp x n r x.g).b, quads := (bindGrp x n r x.g).quads } := by
  rw [bindGrp, advanceGrp_frame]
  rfl

theorem bindGrp_goesOn (x : Ctx) (n : Nat) (r : BitVec 128) : GoesOn x (bindGrp x n r x.g) :=
  ⟨(forgetPages x x.g).quads, forgetPages_unnoted x x.g, advanceGrp_again x.c (putB (forgetPages x x.g) n r)⟩

theorem getB_bindGrp (x : Ctx) (n : Nat) (r : BitVec 128) (k : Nat) : getB (bindGrp x n r x.g) k = if k = n then r else getB x.g k := by
  rw [bindGrp, advanceGrp_frame]
  exact getB_putB (forgetPages x x.g) n k r

section
variable {s : State} {x : Ctx} {n va : Nat} {r : BitVec 128}

theorem brecPut_of_good (h : recBad r = false) : brecPut s x n va r = modGrp s x.c.wg x.c.grp (bindGrp x n r) := by
  simp only [brecPut, h, Bool.false_and, Bool.false_eq_true, if_false]
  rfl

theorem brecPut_of_bad_helper (h : recBad r = true) (hsure : sureLanes x = 0) : brecPut s x n va r = modGrp s x.c.wg x.c.grp (bindGrp x n 0) := by
  simp only [brecPut, h, hsure, decide_true, Bool.and_self, if_true]
  rfl

theorem brecPut_zero : brecPut s x n va 0 = modGrp s x.c.wg x.c.grp (bindGrp x n 0) := brecPut_of_good (by decide)

theorem brecPut_of_bad (h : recBad r = true) (hsure : sureLanes x ≠ 0) :
    brecPut s x n va r
      = raise (modGrp s x.c.wg x.c.grp (forgetPages x)) x { Trap.at x.c .badRecord 0 (sureLanes x) with addr := va } := by
  simp only [brecPut, h, hsure, decide_false, Bool.and_false, Bool.false_eq_true, if_false, if_true]

end

/-! ## BREC -/

section
variable {s : State} {x : Ctx} {w : FmtM} (hi : Issues s w.g x) (hact : x.act ≠ 0) (hsole : Sole s x)
  (hfull : flagFull x.g (flagSel x.c.clause w.fs) = false) (hreads : Reads x [srcOf 3 w.idx 1] x.act)

/-- Element that BREC names. -/
def brecElem (s : State) (x : Ctx) (w : FmtM) : Int := (readUN s x w.idx : Int) + memOff w

/-- Its address in the launch's table. -/
def brecAddr (s : State) (x : Ctx) (w : FmtM) : Nat := x.l.btab.toNat + 16 * (brecElem s x w).toNat

include hi hact hsole hfull hreads

/-- BREC of a group with nothing outstanding reads its element, or the zero record beyond the table. -/
theorem execBrec_of_sole :
    exec (.brec w) s
      = .next (if brecElem s x w < 0 ∨ (x.l.bcnt : Int) ≤ brecElem s x w then brecPut s x (w.d.toNat % 16) 0 0
          else match brecLock s x (brecAddr s x w) with
            | some a => if sureLanes x = 0 then brecPut s x (w.d.toNat % 16) (brecAddr s x w) 0
                else raise (modGrp s x.c.wg x.c.grp (forgetPages x)) x { Trap.at x.c .rangeHazard 0 (sureLanes x) with addr := a, info := 1 }
            | none => brecRead s x (flagSel x.c.clause w.fs) (w.d.toNat % 16) (brecAddr s x w)) := by
  have hclear : clearWait x x.g = x.g := clearWait_of_idle hsole.idle
  have hstay : modGrp s x.c.wg x.c.grp (clearWait x) = s := modGrp_of_fixed hi hsole hclear
  have hheld : heldByFault x.g = false := by simp [heldByFault, hsole.idle]
  rw [exec, execBrec, withWait, withCtx_next hi]
  simp only [hclear, hstay, hfull, hact, hheld, withSources_reads _ hreads, Bool.false_eq_true, if_false]
  rfl

theorem execBrec_beyond (h : brecElem s x w < 0 ∨ (x.l.bcnt : Int) ≤ brecElem s x w) :
    exec (.brec w) s = .next (modGrp s x.c.wg x.c.grp (bindGrp x (w.d.toNat % 16) 0)) := by
  rw [execBrec_of_sole hi hact hsole hfull hreads, if_pos h, brecPut_zero]

variable (hin : ¬(brecElem s x w < 0 ∨ (x.l.bcnt : Int) ≤ brecElem s x w))
include hin

theorem execBrec_locked_helper {a : Nat} (hlock : brecLock s x (brecAddr s x w) = some a) (hsure : sureLanes x = 0) :
    exec (.brec w) s = .next (modGrp s x.c.wg x.c.grp (bindGrp x (w.d.toNat % 16) 0)) := by
  rw [execBrec_of_sole hi hact hsole hfull hreads, if_neg hin]
  simp only [hlock, hsure, if_true, brecPut_zero]

theorem execBrec_locked {a : Nat} (hlock : brecLock s x (brecAddr s x w) = some a) (hsure : sureLanes x ≠ 0) :
    exec (.brec w) s
      = .next (raise (modGrp s x.c.wg x.c.grp (forgetPages x)) x { Trap.at x.c .rangeHazard 0 (sureLanes x) with addr := a, info := 1 }) := by
  rw [execBrec_of_sole hi hact hsole hfull hreads, if_neg hin]
  simp only [hlock, hsure, if_false]

theorem execBrec_unlocked (hlock : brecLock s x (brecAddr s x w) = none) :
    exec (.brec w) s = .next (brecRead s x (flagSel x.c.clause w.fs) (w.d.toNat % 16) (brecAddr s x w)) := by
  rw [execBrec_of_sole hi hact hsole hfull hreads, if_neg hin]
  simp only [hlock]

end

/-! ## The read of a group with nothing outstanding -/

theorem prevStalled_of_idle {s : State} {wg id : Nat} {g : Group} (hops : g.ops = []) (hy : NoYield s) : prevStalled s wg g id = false := by
  have hall : s.calls.all (fun c => c.yld.isNone) = true := List.all_eq_true.mpr fun c hc => by simp [hy c hc]
  simp [prevStalled, opStalled, opsRoom, hops, hall]

theorem performBefore_of_idle {s : State} {wg grp id : Nat} {g : Group} (n : LMask) (hg : findGrp s wg grp = some g) (hops : g.ops = []) :
    performBefore s wg grp id n = s := by
  simp [performBefore, hg, hops, closureGo]

theorem yieldServe_of_noYield {s : State} (pas : List Nat) (hy : NoYield s) : yieldServe s pas = s := by
  have hall : s.calls.all (fun c => c.yld.isNone) = true := List.all_eq_true.mpr fun c hc => by simp [hy c hc]
  simp only [yieldServe, hall, if_true]

theorem loadBytes_of_unchecked {s : State} {wg : Nat} (loc : Loc) (n : Nat) (h : Unchecked s wg) : loadBytes s wg loc n = locRead s loc n := by
  obtain ⟨w, hw, hchk⟩ := h
  simp [loadBytes, bufOf, hw, hchk]

theorem anyBad_memRead (s : State) {pa n : Nat} (h : ∀ i, i < n → sectorBad s (pa + i) = false) : anyBad (memRead s pa n) = false := by
  simpa [anyBad, memRead] using h

theorem memRead_bytes (s : State) (pa n : Nat) : (memRead s pa n).map Prod.fst = memBytes s pa n := by
  simp [memRead, memBytes, smGetList, memByte]

section
variable {s s1 : State} {gd : BitVec 3} {x : Ctx} {fl : Option Nat} {n va : Nat}

theorem brecRead_of_clean {p : Phys} (hp : translateFor s (dieOf s x.w.lcore) x.l.part va false = (some p, s1)) (hpeer : p.peer = none)
    (hst : stalledAt s1 x.c.wg (.global p.pa) = false) (hy : NoYield s) (hu : Unchecked s x.c.wg) (hclean : ∀ i, i < 16 → sectorBad s (p.pa + i) = false)
    (hi : Issues s gd x) (hsole : Sole s x) :
    brecRead s x fl n va = brecPut s1 x n va (BitVec.ofNat 128 (memNat s p.pa 16)) := by
  obtain ⟨dies, rfl⟩ : ∃ dies, s1 = { s with dies := dies } := ⟨_, onlyDies_of_translateFor hp⟩
  have hg : findGrp { s with dies := dies } x.c.wg x.c.grp = some x.g := findGrp_of_get (s := { s with dies := dies }) hi.wg hi.grp
  have hy1 : NoYield { s with dies := dies } := hy
  have hu1 : Unchecked { s with dies := dies } x.c.wg := hu
  have hbad : anyBad (memRead { s with dies := dies } p.pa 16) = false := anyBad_memRead _ hclean
  simp only [brecRead, hp, hpeer, hst, prevStalled_of_idle hsole.idle hy1, Bool.or_self, Bool.false_eq_true, if_false,
    performBefore_of_idle _ hg hsole.idle, yieldServe_of_noYield _ hy1, loadBytes_of_unchecked _ _ hu1, locRead, hbad, memRead_bytes]
  rfl

theorem brecRead_of_helper (hp : translateFor s (dieOf s x.w.lcore) x.l.part va false = (none, s1)) (hsure : sureLanes x = 0) :
    brecRead s x fl n va = brecPut s1 x n va 0 := by
  simp only [brecRead, hp, hsure, if_true]

end

/-- A group that takes a record at the end of a step which else changed TLBs alone. -/
theorem binds_of_bindGrp {s s1 : State} {gd : BitVec 3} {x : Ctx} {o : Host.Outcome State Fault Refusal} {n : Nat} {r : BitVec 128} (hi : Issues s gd x)
    (hs1 : s1 = { s with dies := s1.dies }) (ho : o = .next (modGrp s1 x.c.wg x.c.grp (bindGrp x n r))) :
    ∃ t g, o = .next t ∧ t = { s with wgs := t.wgs, dies := t.dies } ∧ findGrp t x.c.wg x.c.grp = some g
      ∧ g = { x.g with b := g.b, quads := g.quads } ∧ GoesOn x g ∧ ∀ k, getB g k = if k = n then r else getB x.g k := by
  have hg : findGrp s1 x.c.wg x.c.grp = some x.g := by
    rw [hs1]
    exact findGrp_of_get (s := { s with dies := s1.dies }) hi.wg hi.grp
  refine ⟨_, bindGrp x n r x.g, ho, ?_, ?_, bindGrp_frame x n r, bindGrp_goesOn x n r, getB_bindGrp x n r⟩
  · rw [hs1]; rfl
  · rw [findGrp_modGrp_same, hg]; rfl

/-- Settles O19: beyond the table, under a lock, at an unresolved page and at a clean entry, by what each makes of the record. -/
theorem recordsBind : Obligations.RecordsBind := by
  intro s x w hi hact hsole hfull hreads e va fresh binds sure
  have inside : 0 ≤ e → e < (x.l.bcnt : Int) → ¬(e < 0 ∨ (x.l.bcnt : Int) ≤ e) := fun h0 h1 => by omega
  have forgets : fresh → modGrp s x.c.wg x.c.grp (forgetPages x) = s := fun hfresh => modGrp_of_fixed hi hsole (forgetPages_of_fresh hfresh)
  refine ⟨fun hout => ?beyond, fun h0 h1 a hlock => ⟨fun hsure => ?lockedHelper, fun hsure hfresh hr => ?locked⟩,
    fun h0 h1 hlock s1 hp hsure => ?unmapped, fun h0 h1 hlock p s1 hp hpeer hst hy hu hclean => ?read⟩
  case beyond =>
    exact ⟨_, bindGrp x (w.d.toNat % 16) 0 x.g, execBrec_beyond hi hact hsole hfull hreads hout, modGrp_step hi _, bindGrp_frame x _ _,
      bindGrp_goesOn x _ _, getB_bindGrp x _ _⟩
  case lockedHelper =>
    exact binds_of_bindGrp hi rfl (execBrec_locked_helper hi hact hsole hfull hreads (inside h0 h1) hlock hsure)
  case locked =>
    rw [execBrec_locked hi hact hsole hfull hreads (inside h0 h1) hlock hsure, forgets hfresh]
    exact raise_traps hi hr _
  case unmapped =>
    refine binds_of_bindGrp hi (onlyDies_of_translateFor hp) ?_
    rw [execBrec_unlocked hi hact hsole hfull hreads (inside h0 h1) hlock, brecRead_of_helper (va := brecAddr s x w) hp hsure, brecPut_zero]
  case read =>
    have hs1 := onlyDies_of_translateFor hp
    have hexec := execBrec_unlocked hi hact hsole hfull hreads (inside h0 h1) hlock
    rw [brecRead_of_clean (va := brecAddr s x w) hp hpeer hst hy hu hclean hi hsole] at hexec
    refine ⟨fun hgood => ?good, fun hbad hsure => ?helper, fun hbad hsure hfresh hr => ?bad⟩
    case good => exact binds_of_bindGrp hi hs1 (by rw [hexec, brecPut_of_good hgood])
    case helper => exact binds_of_bindGrp hi hs1 (by rw [hexec, brecPut_of_bad_helper hbad hsure])
    case bad =>
      have hi1 : Issues s1 w.g x := by rw [hs1]; exact ⟨hi.cur, hi.wg, hi.grp, hi.launch, hi.act⟩
      have hsole1 : Sole s1 x := by rw [hs1]; exact ⟨hsole.one, hsole.idle⟩
      rw [brecPut_of_bad hbad hsure, modGrp_of_fixed hi1 hsole1 (forgetPages_of_fresh hfresh)] at hexec
      obtain ⟨g, hstep, hin⟩ := raise_enters hi1 hr { Trap.at x.c .badRecord 0 (sureLanes x) with addr := brecAddr s x w }
      refine ⟨_, g, hexec, ?_, ?_, hin⟩
      · rw [hstep.rest, hs1]
      · exact findGrp_of_get hstep.here (by rw [getElem?_modifyAt_same, hi.grp]; rfl)

end Sys2Proof.Machine

/-! The end of groups and workgroups (R359) and the retirement of a launch (R361 to R364) (O40). -/
namespace Sys2Proof.Machine

/-! ## Numbers in memory -/

theorem bytesToNat_natToBytes (n x : Nat) : bytesToNat (natToBytes n x) = x % 256 ^ n := by
  induction n generalizing x with
  | zero => rw [pow_zero, Nat.mod_one]; rfl
  | succ n ih =>
    have hstep : bytesToNat (natToBytes (n + 1) x) = x % 256 + 256 * bytesToNat (natToBytes n (x / 256)) := rfl
    rw [hstep, ih, pow_succ', Nat.mod_mul]

theorem memBytes_congr {s t : State} {pa n : Nat} (h : ∀ a, pa ≤ a → a < pa + n → memByte t a = memByte s a) : memBytes t pa n = memBytes s pa n :=
  List.map_congr_left fun i hi => h (pa + i) (by omega) (by have := List.mem_range.1 hi; omega)

theorem memNat_congr {s t : State} {pa n : Nat} (h : ∀ a, pa ≤ a → a < pa + n → memByte t a = memByte s a) : memNat t pa n = memNat s pa n := by
  rw [memNat, memBytes_congr h, memNat]

/-- A number that stands within the bytes written. -/
theorem memNat_memWrite_within (s : State) (pa : Nat) (pre post : List Byte) (n x : Nat) :
    memNat (memWrite s pa (pre ++ natToBytes n x ++ post)) (pa + pre.length) n = x % 256 ^ n := by
  have hbytes : memBytes (memWrite s pa (pre ++ natToBytes n x ++ post)) (pa + pre.length) n = natToBytes n x := by
    refine List.ext_getElem (by simp [memBytes, smGetList, length_natToBytes]) fun i h1 h2 => ?_
    have hget : (pre ++ natToBytes n x ++ post)[pre.length + i]? = some (natToBytes n x)[i] := by
      rw [List.append_assoc, List.getElem?_append_right (by omega), Nat.add_sub_cancel_left, List.getElem?_append_left h2, List.getElem?_eq_getElem h2]
    have hbyte := memByte_memWrite_in s pa (pre.length + i) _ _ hget
    simp only [memBytes, smGetList, List.getElem_map, List.getElem_range, Nat.add_assoc]
    exact hbyte
  rw [memNat, hbytes, bytesToNat_natToBytes]

/-! ## The end of a group (R359) -/

theorem all_ended_modifyAt {l : List Group} {i : Nat} {f : Group → Group} (hf : ∀ g, (f g).ended = true)
    (h : ∀ k g, k ≠ i → l[k]? = some g → g.ended = true) : (modifyAt l i f).all (fun g => g.ended) = true := by
  refine List.all_eq_true.2 fun g hg => ?_
  obtain ⟨k, hk⟩ := List.mem_iff_getElem?.1 hg
  by_cases hki : k = i
  · subst hki
    rw [getElem?_modifyAt_same] at hk
    obtain ⟨g0, -, rfl⟩ := Option.map_eq_some_iff.1 hk
    exact hf g0
  · exact h k g hki (by rwa [getElem?_modifyAt_other l f hki] at hk)

theorem findWg_modBoth_same (s : State) (wg grp : Nat) (f : Group → Group) :
    findWg (modBoth s wg grp f) wg
      = (findWg s wg).map (fun w => { w with groups := modifyAt w.groups grp f,
                                             chk := w.chk.map (fun c => { c with snap := modifyAt c.snap grp f }) }) :=
  findWg_modWg_same s wg _ fun _ => rfl

/-- A group that has ended. -/
def endedGrp (g : Group) : Group := { g with ended := true, active := false }

/-- A workgroup whose last group has ended. -/
def retiredWg (w : Workgroup) (k : Nat) : Workgroup := { w with groups := modifyAt w.groups k endedGrp, retired := true, chk := none }

/-- Every other group of the workgroup has ended. -/
def othersEnded (w : Workgroup) (k : Nat) : Bool :=
  (List.range w.groups.length).all (fun j => j == k || match w.groups[j]? with | some h => h.ended | none => true)

theorem othersEnded_iff {w : Workgroup} {k : Nat} : othersEnded w k = true ↔ ∀ j h, j ≠ k → w.groups[j]? = some h → h.ended = true := by
  constructor
  · intro hall j h hj hg
    have hlt : j < w.groups.length := by
      by_contra hc
      rw [List.getElem?_eq_none (by omega)] at hg
      cases hg
    simpa [hj, hg] using List.all_eq_true.1 hall j (List.mem_range.2 hlt)
  · intro hall
    refine List.all_eq_true.2 fun j _ => ?_
    by_cases hj : j = k
    · simp [hj]
    · cases hg : w.groups[j]? with
      | none => simp
      | some h => simp [hall j h hj hg]

section
variable {s : State} {w : Workgroup} {g : Group} {l : Launch} (hw : findWg s s.arg.a = some w) (hg : w.groups[s.arg.b]? = some g)
  (hl : findLaunch s w.launch = some l) (hend : mayEnd w s.arg.b g = true)

include hw hg hl hend

theorem execGroupEnd_eq :
    exec .groupEnd s = .next (if l.fail.isSome = true ∧ evacPaused s w.lcore = true then s
      else if othersEnded w s.arg.b = true then (if l.waitPage.isSome || !w.cwords.isEmpty then s else retireWg s w l s.arg.b)
      else modBoth s w.id s.arg.b endedGrp) := by
  rw [exec, execGroupEnd]
  simp only [hw, hg, hl, hend, Bool.not_true, Bool.false_or, Bool.and_eq_true]
  rfl

theorem execGroupEnd_of_paused (hfail : l.fail.isSome = true) (hpaused : evacPaused s w.lcore = true) : exec .groupEnd s = .next s := by
  rw [execGroupEnd_eq hw hg hl hend, if_pos ⟨hfail, hpaused⟩]

variable (hrun : l.fail.isSome = true → evacPaused s w.lcore = false)
include hrun

theorem execGroupEnd_of_running :
    exec .groupEnd s = .next (if othersEnded w s.arg.b = true then (if l.waitPage.isSome || !w.cwords.isEmpty then s else retireWg s w l s.arg.b)
      else modBoth s w.id s.arg.b endedGrp) := by
  rw [execGroupEnd_eq hw hg hl hend, if_neg fun ⟨hfail, hpaused⟩ => by rw [hrun hfail] at hpaused; cases hpaused]

/-- A group that is not its workgroup's last ends alone. -/
theorem execGroupEnd_of_others (h : ∃ j o, j ≠ s.arg.b ∧ w.groups[j]? = some o ∧ o.ended = false) :
    exec .groupEnd s = .next (modBoth s s.arg.a s.arg.b endedGrp) := by
  obtain ⟨j, o, hj, ho, hnot⟩ := h
  have hothers : ¬othersEnded w s.arg.b = true := fun hall => by
    rw [othersEnded_iff.1 hall j o hj ho] at hnot
    cases hnot
  rw [execGroupEnd_of_running hw hg hl hend hrun, if_neg hothers, findWg_id hw]

/-- The last group ends its workgroup, which has no pin to release. -/
theorem execGroupEnd_of_last (h : ∀ j o, j ≠ s.arg.b → w.groups[j]? = some o → o.ended = true) (hpage : l.waitPage = none) (hwords : w.cwords = [])
    (hslots : w.wslots = []) :
    exec .groupEnd s
      = .next (modLaunch (modWg (modBoth s s.arg.a s.arg.b endedGrp) s.arg.a (fun w => { w with retired := true, chk := none })) w.launch
          (fun l => { l with retired := l.retired + 1, refused := [] })) := by
  rw [execGroupEnd_of_running hw hg hl hend hrun, if_pos (othersEnded_iff.2 h), retireWg, hslots, findWg_id hw, findLaunch_id hl, hpage, hwords]
  rfl

end

theorem findGrp_modBoth {s : State} {wg grp : Nat} {w : Workgroup} {g : Group} (f : Group → Group) (hw : findWg s wg = some w) (hg : w.groups[grp]? = some g) :
    findGrp (modBoth s wg grp f) wg grp = some (f g) := by
  rw [findGrp, findWg_modBoth_same, hw]
  exact (getElem?_modifyAt_same w.groups f).trans (by rw [hg]; rfl)

theorem findWg_retired {s : State} {wg grp : Nat} {w : Workgroup} (hw : findWg s wg = some w) :
    findWg (modWg (modBoth s wg grp endedGrp) wg (fun w => { w with retired := true, chk := none })) wg = some (retiredWg w grp) := by
  exact (findWg_modWg_same _ wg (fun w => { w with retired := true, chk := none }) fun _ => rfl).trans (by rw [findWg_modBoth_same, hw]; rfl)

theorem wgEnded_retiredWg {w : Workgroup} {k : Nat} (h : ∀ j o, j ≠ k → w.groups[j]? = some o → o.ended = true) : wgEnded (retiredWg w k) = true :=
  all_ended_modifyAt (fun _ => rfl) h

/-! ## The retirement of a launch -/

/-- Workgroups that hold no weight slot release no pin. -/
theorem freePins_of_unbound {l : Launch} {ws : List Workgroup} (s : State) (h : ∀ w ∈ ws, w.wslots = []) : freePins l ws s = (some s, s) := by
  induction ws with
  | nil => rfl
  | cons w r ih =>
    rw [freePins, h w List.mem_cons_self]
    exact ih fun v hv => h v (List.mem_cons_of_mem w hv)

theorem dependant_id (l : Launch) (status : Nat) (k : Launch) : (dependant l status k).id = k.id := by
  unfold dependant
  split
  · rfl
  · dsimp only
    split <;> rfl

/-- A launch that leaves its queue is not found again. -/
theorem findLaunch_leaveQueue (s : State) (l : Launch) : findLaunch (leaveQueue s l) l.id = none := by
  refine List.find?_eq_none.2 fun k hk => ?_
  obtain ⟨k0, hk0, rfl⟩ := List.mem_map.1 hk
  have hne := (List.mem_filter.1 hk0).2
  rw [dependant_id]
  simpa using hne

theorem wgs_leaveQueue {s : State} {l : Launch} {w : Workgroup} (h : w ∈ (leaveQueue s l).wgs) : w.launch ≠ l.id := by
  simpa using (List.mem_filter.1 h).2

theorem length_blockTail (st : Nat × Nat) : (blockTail st).length = 24 := by
  simp [blockTail, length_natToBytes]

/-- The state after the completion block is written, CVAL last (R84, R363). -/
def withBlock (s : State) (pa : Nat) (l : Launch) : State := memWrite (memWrite s (pa + 8) (blockTail (statusOf l))) pa (natToBytes 8 l.cval.toNat)

section
variable (s : State) (pa : Nat) (l : Launch)

theorem memByte_withBlock_tail {a : Nat} (h : pa + 8 ≤ a) : memByte (withBlock s pa l) a = memByte (memWrite s (pa + 8) (blockTail (statusOf l))) a :=
  memByte_memWrite_out _ _ _ _ (by rw [length_natToBytes]; omega)

theorem memByte_withBlock_out {a : Nat} (h : ¬(pa ≤ a ∧ a < pa + 32)) : memByte (withBlock s pa l) a = memByte s a := by
  rw [withBlock, memByte_memWrite_out _ _ _ _ (by rw [length_natToBytes]; omega), memByte_memWrite_out _ _ _ _ (by rw [length_blockTail]; omega)]

theorem memNat_withBlock_cval : memNat (withBlock s pa l) pa 8 = l.cval.toNat := by
  have hsame := memNat_memWrite_same (memWrite s (pa + 8) (blockTail (statusOf l))) pa (natToBytes 8 l.cval.toNat)
  rw [length_natToBytes, bytesToNat_natToBytes] at hsame
  exact hsame.trans (Nat.mod_eq_of_lt l.cval.isLt)

/-- A number of the block's tail, by the bytes before and after it. -/
theorem memNat_withBlock_tail {pre post : List Byte} {n x : Nat} (h : blockTail (statusOf l) = pre ++ natToBytes n x ++ post) :
    memNat (withBlock s pa l) (pa + 8 + pre.length) n = x % 256 ^ n := by
  rw [memNat_congr fun a ha _ => memByte_withBlock_tail s pa l (by omega), h, memNat_memWrite_within]

theorem memNat_withBlock_status : memNat (withBlock s pa l) (pa + 8) 4 = (statusOf l).1 % 2 ^ 32 :=
  memNat_withBlock_tail s pa l (pre := []) (post := natToBytes 4 0 ++ natToBytes 8 (statusOf l).2 ++ natToBytes 8 0)
    (by simp only [blockTail, List.append_assoc, List.nil_append])

theorem memNat_withBlock_reserved : memNat (withBlock s pa l) (pa + 12) 4 = 0 := by
  have h := memNat_withBlock_tail s pa l (pre := natToBytes 4 (statusOf l).1) (n := 4) (x := 0) (post := natToBytes 8 (statusOf l).2 ++ natToBytes 8 0)
    (by simp only [blockTail, List.append_assoc])
  rwa [length_natToBytes] at h

theorem memNat_withBlock_detail : memNat (withBlock s pa l) (pa + 16) 8 = (statusOf l).2 % 2 ^ 64 := by
  have h := memNat_withBlock_tail s pa l (pre := natToBytes 4 (statusOf l).1 ++ natToBytes 4 0) (n := 8) (x := (statusOf l).2) (post := natToBytes 8 0)
    (by simp only [blockTail, List.append_assoc])
  rwa [List.length_append, length_natToBytes, length_natToBytes] at h

theorem memNat_withBlock_last : memNat (withBlock s pa l) (pa + 24) 8 = 0 := by
  have h := memNat_withBlock_tail s pa l (pre := natToBytes 4 (statusOf l).1 ++ natToBytes 4 0 ++ natToBytes 8 (statusOf l).2) (n := 8) (x := 0) (post := [])
    (by simp only [blockTail, List.append_assoc, List.append_nil])
  rwa [List.length_append, List.length_append, length_natToBytes, length_natToBytes, length_natToBytes] at h

end

theorem execLaunchRetire_writes {s s1 : State} {l : Launch} {p : Phys} (hl : findLaunch s s.arg.a = some l) (hall : allRetired s l = true)
    (hdet : detached s l = false) (hpage : l.waitPage = none) (href : l.refused = []) (hslots : ∀ w ∈ s.wgs, w.launch = l.id → w.wslots = [])
    (htr : translateFor s (unitDie s l.part) l.part l.caddr.toNat true = (some p, s1)) (hpeer : p.peer = none)
    (hstall : stalledFor s1 (classOf l) p.pa = false) (hroom : yieldRoom s1 (classOf l) [p.pa] = true) :
    exec .launchRetire s = .next (leaveQueue (yieldServe (withBlock s1 p.pa l) [p.pa]) l) := by
  have hpins : freePins l (s.wgs.filter (fun w => w.launch == l.id)) s = (some s, s) :=
    freePins_of_unbound s fun w hw => hslots w (List.mem_filter.1 hw).1 (by simpa using (List.mem_filter.1 hw).2)
  rw [exec, execLaunchRetire]
  simp [hl, hall, hdet, hpage, hpins, href, htr, hpeer, hstall, hroom, withBlock]

/-- Settles O40: the end of a group and of its workgroup, and the completion block of a launch that retires. -/
theorem groupsAndLaunchesEnd : Obligations.GroupsAndLaunchesEnd := by
  unfold Obligations.GroupsAndLaunchesEnd
  intro s
  refine ⟨?ends, ?retires⟩
  case ends =>
    intro w g l hw hg hl hend
    refine ⟨execGroupEnd_of_paused hw hg hl hend, fun hrun => ⟨fun hothers => ?alone, fun hothers hpage hwords hslots => ?last⟩⟩
    case alone =>
      exact ⟨_, _, execGroupEnd_of_others hw hg hl hend hrun hothers, rfl, findGrp_modBoth endedGrp hw hg, rfl⟩
    case last =>
      exact ⟨_, retiredWg w s.arg.b, _, execGroupEnd_of_last hw hg hl hend hrun hothers hpage hwords hslots, rfl, findWg_retired hw, rfl, rfl,
        wgEnded_retiredWg hothers, findLaunch_modLaunch_of_some _ (fun _ => rfl) hl, rfl⟩
  case retires =>
    intro l p s1 hl hall hdet hpage href hslots htr hpeer hstall hroom
    have hmem : ∀ a, memByte (leaveQueue (yieldServe (withBlock s1 p.pa l) [p.pa]) l) a = memByte (withBlock s1 p.pa l) a := fun a =>
      congrArg (fun m => smGet m a 0) (yieldServe_onlyReads (withBlock s1 p.pa l) [p.pa]).mem
    have hnat : ∀ a n, memNat (leaveQueue (yieldServe (withBlock s1 p.pa l) [p.pa]) l) a n = memNat (withBlock s1 p.pa l) a n := fun a n =>
      memNat_congr fun b _ _ => hmem b
    have hsame : ∀ a, memByte s1 a = memByte s a := fun a => by rw [onlyDies_of_translateFor htr]; rfl
    refine ⟨_, execLaunchRetire_writes hl hall hdet hpage href hslots htr hpeer hstall hroom, findLaunch_leaveQueue _ l, fun w hw => wgs_leaveQueue hw,
      ?_, ?_, ?_, ?_, ?_, fun a ha => ?_⟩
    · rw [hnat, memNat_withBlock_cval]
    · rw [hnat, memNat_withBlock_status]
    · rw [hnat, memNat_withBlock_reserved]
    · rw [hnat, memNat_withBlock_detail]
    · rw [hnat, memNat_withBlock_last]
    · rw [hmem, memByte_withBlock_out s1 p.pa l ha, hsame]

end Sys2Proof.Machine

/-! Faults, shootdowns and the checks of an interval (R131, R194, R196, R318, R329) (O45). -/
namespace Sys2Proof.Machine

/-! ## The reply to a FAULT (R318) -/

/-- What R318 calls a well-formed reply. -/
def FaultReplyFormed (s : State) : Prop :=
  s.arg.msg.bytes.length = 16 ∧ fieldAt s.arg.msg.bytes 0 1 = 0x52 ∧ s.arg.msg.cls = 0 ∧ fieldAt s.arg.msg.bytes 4 1 ≤ 1 ∧ fieldAt s.arg.msg.bytes 5 11 = 0

/-- The fault that the reply names. -/
def namedFault (s : State) : Option FaultRec :=
  s.faults.find? (fun f => f.part == fieldAt s.arg.msg.bytes 1 1 && f.seq.toNat == fieldAt s.arg.msg.bytes 2 2)

theorem execFaultReply_of_malformed {s : State} (h : ¬FaultReplyFormed s) : exec .faultReply s = .next s := by
  rw [exec, execFaultReply]
  refine congrArg Host.Outcome.next (if_pos ?_)
  by_contra hc
  simp only [Bool.or_eq_true, bne_iff_ne, decide_eq_true_eq, not_or, not_not, not_lt] at hc
  obtain ⟨⟨⟨⟨hlen, htype⟩, hcls⟩, hcode⟩, hzero⟩ := hc
  exact h ⟨hlen, htype, hcls, hcode, hzero⟩

theorem execFaultReply_of_formed {s : State} (h : FaultReplyFormed s) :
    exec .faultReply s = .next (match namedFault s with
      | none => s
      | some f => answerPage (forgetPage { s with faults := s.faults.filter (fun k => k != f) } (fieldAt s.arg.msg.bytes 1 1) f.page)
          (fieldAt s.arg.msg.bytes 1 1) f.page (fieldAt s.arg.msg.bytes 4 1 == 1)) := by
  obtain ⟨hlen, htype, hcls, hcode, hzero⟩ := h
  rw [exec, execFaultReply]
  refine congrArg Host.Outcome.next (if_neg ?_)
  simp [hlen, htype, hcls, hzero, hcode]

theorem namedFault_eq_none {s : State} (h : ∀ f ∈ s.faults, ¬(f.part = fieldAt s.arg.msg.bytes 1 1 ∧ f.seq.toNat = fieldAt s.arg.msg.bytes 2 2)) :
    namedFault s = none :=
  List.find?_eq_none.2 fun f hf hyes => h f hf (by simpa using hyes)

/-- Nothing of the partition waits for the page. -/
structure PageAnswered (t : State) (part page : Nat) : Prop where
  copies : ∀ c ∈ t.copies, c.part = part → c.waitPage ≠ some page
  calls : ∀ c ∈ t.calls, c.part = part → c.waitPage ≠ some page
  launches : ∀ l ∈ t.launches, l.part = part → l.waitPage ≠ some page
  reqs : ∀ e ∈ t.parts, e.1 = part → ∀ r ∈ e.2.reqs, r.waitPage ≠ some page

theorem noLonger_waits (wait : Option Nat) (page : Nat) : (if wait = some page then none else wait) ≠ some page := by
  split
  · exact nofun
  · assumption

theorem answerLaunch_waitPage (page : Nat) (refused : Bool) (l : Launch) : (answerLaunch page refused l).waitPage = none := by
  unfold answerLaunch
  split
  · rfl
  · split <;> rfl

/-- The engines that waited for an answered page wait for it no longer. -/
theorem answerEngines_answers (s : State) (part page : Nat) (refused : Bool) : PageAnswered (answerEngines s part page refused) part page where
  copies c hc hpart := by
    obtain ⟨c0, -, rfl⟩ := List.mem_map.1 hc
    by_cases h0 : c0.part = part
    · rw [if_pos h0]; exact noLonger_waits c0.waitPage page
    · rw [if_neg h0] at hpart; exact absurd hpart h0
  calls c hc hpart := by
    obtain ⟨c0, -, rfl⟩ := List.mem_map.1 hc
    by_cases h0 : c0.part = part
    · rw [if_pos h0]; exact noLonger_waits c0.waitPage page
    · rw [if_neg h0] at hpart; exact absurd hpart h0
  launches l hl hpart := by
    obtain ⟨l0, -, rfl⟩ := List.mem_map.1 hl
    by_cases h0 : (l0.part = part && l0.waitPage == some page) = true
    · rw [if_pos h0, answerLaunch_waitPage]; exact nofun
    · rw [if_neg h0] at hpart ⊢
      simpa [hpart] using h0
  reqs e he hpart r hr := by
    obtain ⟨e0, -, rfl⟩ := List.mem_map.1 he
    by_cases h0 : e0.1 = part
    · rw [if_pos h0] at hr
      obtain ⟨r0, -, rfl⟩ := List.mem_map.1 hr
      exact noLonger_waits r0.waitPage page
    · rw [if_neg h0] at hpart; exact absurd hpart h0

theorem answerPage_answers (s : State) (part page : Nat) (refused : Bool) : PageAnswered (answerPage s part page refused) part page :=
  answerEngines_answers _ part page refused

/-! ## PAGE_FAULT (R196, R314) -/

/-- The group once its pending lane words are over (R314 step 2). -/
def wordsEnded (en : BitVec 5) (g : Group) : Group := (heldLaneWords en g).foldl (fun g o => endLaneWord en o g) g

/-- The trap that is taken for operation `id`: that of an earlier pending lane word, if one traps. -/
def trapTaken (en : BitVec 5) (g : Group) (id : Nat) (tr : Trap) : Trap :=
  match trapsFirst en g id with
  | none => tr
  | some o => opTrap o (condLanes g en o.outs)

/-- A trap of operation `id`, with lane words pending: the group enters its handler for the earliest that traps. -/
theorem takeTrapOf_enters {s : State} {wg grp : Nat} {w : Workgroup} {g : Group} {l : Launch} (hw : findWg s wg = some w) (hg : w.groups[grp]? = some g)
    (hl : findLaunch s w.launch = some l) (hhand : hasHandler l = true) (hout : g.inHandler = false) (id : Nat) (tr : Trap) :
    ∃ h, takeTrapOf s wg grp id tr = modGrp s wg grp (fun _ => h) ∧ Entered (wordsEnded (enablesOf l) g) l (trapTaken (enablesOf l) g id tr) h := by
  simp only [takeTrapOf, trapTaken, wordsEnded, hw, hg, hl, hhand, hout, Bool.not_true, Bool.or_self, Bool.false_eq_true, if_false]
  generalize (heldLaneWords (enablesOf l) g).foldl (fun g o => endLaneWord (enablesOf l) o g) g = g1
  cases trapsFirst (enablesOf l) g id
  all_goals
    refine ⟨_, rfl, rfl, by simp, fun q hq hlive => ?_, fun q hq hdead => ?_⟩
    · simp only [quadAt, List.getD_eq_getElem?_getD, List.getElem?_map, List.getElem?_range hq, Option.map_some, Option.getD_some] at hlive ⊢
      simp only [if_neg hlive]
      simp
    · simp only [quadAt, List.getD_eq_getElem?_getD, List.getElem?_map, List.getElem?_range hq, Option.map_some, Option.getD_some] at hdead ⊢
      simp only [if_pos hdead]
      simp

section
variable {s : State} {w : Workgroup} {g : Group} {l : Launch} {r : RefusalRec}

/-- The group without the refusals that its trap takes, whose refused pieces its handler keeps. -/
def refusalKept (r : RefusalRec) (g : Group) : Group :=
  keepRefused r.op { g with refusals := g.refusals.filter (fun k => !(k.op == r.op && k.copy == r.copy)) }

theorem flagDec_inHandler (g : Group) (f : Option Nat) : (flagDec g f).inHandler = g.inHandler := by
  unfold flagDec
  split <;> rfl

theorem keepRefused_inHandler (id : Nat) (g : Group) : (keepRefused id g).inHandler = g.inHandler := by
  unfold keepRefused
  split
  · rfl
  · rw [finishGrp_frame]; exact flagDec_inHandler g _

theorem refusalKept_inHandler (r : RefusalRec) (g : Group) : (refusalKept r g).inHandler = g.inHandler := keepRefused_inHandler r.op _

/-- Address of a fault: that of the refused piece of its lowest lane (R315). -/
def faultAddr (g : Group) (r : RefusalRec) : Nat :=
  match (g.ops.find? (fun o => o.id == r.op)).bind (fun o => o.accs.find? (fun k => k.st == .refused && some k.lane == lowestLane r.lanes)) with
  | some k => k.va
  | none => r.va

/-- What R196 says of the trap of refusals `r`. -/
structure IsPageFault (g : Group) (r : RefusalRec) (tr : Trap) : Prop where
  kind : tr.kind = .pageFault
  sub : tr.sub = 0
  mask : tr.mask = r.lanes
  pc : tr.pc = r.pc
  info : tr.info = (if r.write then 1 else 0) + (if r.copy then 2 else 0)
  outs : tr.outs = []
  addr : tr.addr = faultAddr g r

/-- PAGE_FAULT at a word boundary traps the group as it stands, or as it is without the refusals taken. -/
theorem execPageFaultTrap_takes (hw : findWg s s.arg.a = some w) (hg : w.groups[s.arg.b]? = some g) (hl : findLaunch s w.launch = some l)
    (hr : refusalOf g = some r) (hreplay : ∀ q ∈ g.quads, q.replay = none) (hwait : trapWaits g = false) (hhalt : wgHalted s w = false)
    (hlive : w.place = .live) (hmid : ∀ q, q < 4 → midWord g q = false) :
    ∃ tr, IsPageFault g r tr ∧ exec .pageFaultTrap s = .next (takeTrapOf
      (modGrp s s.arg.a s.arg.b (fun _ => match trapsFirst (enablesOf l) g r.op with | some _ => g | none => refusalKept r g)) s.arg.a s.arg.b r.op tr) := by
  have hnone : g.quads.any (fun q => q.replay.isSome) = false := List.any_eq_false.2 fun q hq => by simp [hreplay q hq]
  have hword : quads4.any (fun q => midWord g q) = false :=
    List.any_eq_false.2 fun q hq => by simpa using hmid q (List.mem_range.1 hq)
  have hen : launchEnables s w = enablesOf l := by rw [launchEnables, hl]
  rw [exec, execPageFaultTrap]
  simp only [hw, hg, hr, hhalt, hnone, hwait, hlive, hword, hen, Bool.false_and, Bool.or_false, beq_self_eq_true, Bool.true_or, Bool.not_true,
    Bool.false_eq_true, if_false]
  exact ⟨_, ⟨rfl, rfl, rfl, rfl, rfl, rfl, rfl⟩, rfl⟩

/-- The group `g1` of the place of `g` enters its handler. -/
theorem takeTrapOf_replaced (hw : findWg s s.arg.a = some w) (hg : w.groups[s.arg.b]? = some g) (hl : findLaunch s w.launch = some l)
    (hhand : hasHandler l = true) {g1 : Group} (hout : g1.inHandler = false) (id : Nat) (tr : Trap) :
    ∃ h, takeTrapOf (modGrp s s.arg.a s.arg.b (fun _ => g1)) s.arg.a s.arg.b id tr = modGrp s s.arg.a s.arg.b (fun _ => h)
      ∧ Entered (wordsEnded (enablesOf l) g1) l (trapTaken (enablesOf l) g1 id tr) h := by
  have hw1 := (findWg_modGrp_same s s.arg.a s.arg.b (fun _ => g1)).trans (congrArg (Option.map _) hw)
  obtain ⟨h, htake, hent⟩ := takeTrapOf_enters hw1 (g := g1) (by rw [getElem?_modifyAt_same, hg]; rfl) hl hhand hout id tr
  exact ⟨h, by rw [htake, modGrp_modGrp], hent⟩

theorem findGrp_replaced (hw : findWg s s.arg.a = some w) (hg : w.groups[s.arg.b]? = some g) (h : Group) :
    findGrp (modGrp s s.arg.a s.arg.b (fun _ => h)) s.arg.a s.arg.b = some h := by
  rw [findGrp_modGrp_same, findGrp_of_get hw hg, Option.map_some]

end

/-! ## Shootdowns (R194) -/

/-- The shootdown that the message asks for. -/
def shootOf (s : State) : Shoot :=
  { mark := s.nextId, part := req s 1 1, seq := BitVec.ofNat 16 (req s 2 2), cls := s.arg.msg.cls, lo := req s 8 8, hi := req s 8 8 + req s 0x10 8 }

/-- The entries of the range are dropped on every die. -/
def shotDies (s : State) : List Die :=
  s.dies.map (fun (d : Die) => { tlb := d.tlb.filter (fun e => !(e.part == req s 1 1 && rangesMeet (req s 8 8) (req s 8 8 + req s 0x10 8) e.va (entrySpan e))) })

theorem foldl_send (f : Shoot → Msg) (ks : List Shoot) (s : State) :
    ks.foldl (fun s k => send s (f k)) s = { s with outbox := s.outbox ++ ks.map f } := by
  induction ks generalizing s with
  | nil => rw [List.map_nil, List.append_nil]; rfl
  | cons k r ih => rw [List.foldl_cons, ih, List.map_cons, send, List.append_assoc, List.singleton_append]

theorem settleShoots_frame (s : State) :
    settleShoots s = { s with shoots := (settleShoots s).shoots, outbox := (settleShoots s).outbox } := by
  unfold settleShoots
  split
  · rfl
  · rw [foldl_send]

/-- The one shootdown, which nothing holds, is answered. -/
theorem settleShoots_one {s : State} {k : Shoot} (hone : s.shoots = [k]) (hfree : shootHeld s k = false) :
    settleShoots s = { s with shoots := [], outbox := s.outbox ++ [replyMsg k.cls 0x31 k.part k.seq.toNat 0 0] } := by
  rw [settleShoots, hone, foldl_send]
  simp [hfree]

theorem natToBytes_mod (n x : Nat) : natToBytes n (x % 256 ^ n) = natToBytes n x := by
  induction n generalizing x with
  | zero => rfl
  | succ n ih =>
    have hbyte : BitVec.ofNat 8 (x % 256 ^ (n + 1)) = BitVec.ofNat 8 x := by
      refine BitVec.eq_of_toNat_eq ?_
      rw [BitVec.toNat_ofNat, BitVec.toNat_ofNat]
      exact Nat.mod_mod_of_dvd x (Dvd.intro_left (256 ^ n) (pow_succ 256 n).symm)
    have hrest : x % 256 ^ (n + 1) / 256 = x / 256 % 256 ^ n := by rw [pow_succ', Nat.mod_mul_right_div_self]
    rw [natToBytes, natToBytes, hbyte, hrest, ih]

theorem replyMsg_seq (cls : BitVec 2) (m part seq code value : Nat) : replyMsg cls m part (BitVec.ofNat 16 seq).toNat code value = replyMsg cls m part seq code value := by
  rw [replyMsg, replyMsg, BitVec.toNat_ofNat, show 2 ^ 16 = 256 ^ 2 by rfl, natToBytes_mod]

section
variable {s : State} (hlink : linkUp s = true) (hlen : s.arg.msg.bytes.length = 32) (htype : req s 0 1 = 0x31)
include hlink hlen htype

theorem execShootdown_of_noPart (h : findPart s (req s 1 1) = none) : exec .shootdown s = .next (answer s 8 0) := by
  rw [exec, execShootdown]
  simp [hlink, hlen, htype, h]

variable {p : Partition} (hp : findPart s (req s 1 1) = some p)
include hp

theorem execShootdown_of_malformed
    (h : req s 4 4 ≠ 0 ∨ req s 0x18 8 ≠ 0 ∨ req s 8 8 % 65536 ≠ 0 ∨ req s 0x10 8 % 65536 ≠ 0 ∨ req s 0x10 8 = 0 ∨ s.arg.msg.cls ≠ 0) :
    exec .shootdown s = .next (answer s 3 0) := by
  rw [exec, execShootdown]
  simp only [hlink, hlen, htype, hp, Bool.not_true, bne_self_eq_false, Bool.or_self, Bool.false_eq_true, if_false, Option.isNone_some]
  refine congrArg Host.Outcome.next (if_pos ?_)
  simpa [or_assoc] using h

theorem execShootdown_of_formed (hres : req s 4 4 = 0) (hres' : req s 0x18 8 = 0) (hlo : req s 8 8 % 65536 = 0) (hn : req s 0x10 8 % 65536 = 0)
    (hpos : req s 0x10 8 ≠ 0) (hcls : s.arg.msg.cls = 0) :
    exec .shootdown s = .next (settleShoots { s with dies := shotDies s, shoots := s.shoots ++ [shootOf s] }) := by
  rw [exec, execShootdown]
  simp only [hlink, hlen, htype, hp, Bool.not_true, bne_self_eq_false, Bool.or_self, Bool.false_eq_true, if_false, Option.isNone_some]
  refine congrArg Host.Outcome.next (if_neg ?_)
  simp [hres, hres', hlo, hn, hpos, hcls]

end

theorem rangesMeet_iff {lo hi a n : Nat} : rangesMeet lo hi a n = true ↔ a < hi ∧ lo < a + n := by simp [rangesMeet]

/-- An entry stays in a TLB exactly where the range does not meet it. -/
theorem shotDies_get {s : State} {i : Nat} {d : Die} (h : s.dies[i]? = some d) :
    ∃ d' : Die, (shotDies s)[i]? = some d'
      ∧ ∀ e, e ∈ d'.tlb ↔ e ∈ d.tlb ∧ ¬(e.part = req s 1 1 ∧ e.va < req s 8 8 + req s 0x10 8 ∧ req s 8 8 < e.va + entrySpan e) := by
  refine ⟨_, by rw [shotDies, List.getElem?_map, h]; rfl, fun e => ?_⟩
  rw [List.mem_filter, Bool.not_eq_true', ← Bool.not_eq_true, Bool.and_eq_true, beq_iff_eq, rangesMeet_iff]

/-! ## The replay queue (R131) -/

theorem crossing_wgs (s : State) (core : Nat) : (crossing s core).wgs = s.wgs := by
  unfold crossing
  repeat' split
  all_goals rfl

theorem crossing_clk (s : State) (core : Nat) : (crossing s core).clk = s.clk := by
  unfold crossing
  repeat' split
  all_goals rfl

theorem monEvent_wgs (s : State) (core : Nat) : (monEvent s core).wgs = s.wgs := by
  unfold monEvent
  split
  · exact crossing_wgs _ core
  · rfl

theorem monEvent_now (s : State) (core : Nat) : now (monEvent s core) = now s := by
  unfold monEvent
  split
  · exact congrArg BitVec.toNat (crossing_clk _ core)
  · rfl

/-- A workgroup put in the place of one that is there. -/
theorem findWg_replaced {s : State} {id : Nat} {w v : Workgroup} (hw : findWg s id = some w) (hv : v.id = id) :
    findWg (modWg s id (fun _ => v)) id = some v := by
  have hsame : modWg s id (fun _ => v) = modWg s id (fun w => { v with id := w.id }) := by
    unfold modWg
    congr 1
    refine List.map_congr_left fun u _ => ?_
    split
    · next hu =>
      dsimp only
      rw [hu, ← hv]
    · rfl
  rw [hsame, findWg_modWg_same s id (fun w => { v with id := w.id }) fun _ => rfl, hw, Option.map_some, findWg_id hw, ← hv]

/-- A rollback runs the open interval again, with nothing in its buffer (R333, R337). -/
theorem rollback_reruns {s : State} {wg trigger : Nat} {w : Workgroup} {c : Checked} (hw : findWg s wg = some w) (hc : w.chk = some c) (hrun : c.rerun = false)
    (hsnap : c.snapPoison = false) (hlog : c.logPoison = false) :
    ∃ v c', findWg (rollback s wg trigger) wg = some v ∧ v.chk = some c' ∧ c'.rerun = true ∧ c'.buf = [] ∧ c'.opened = now s := by
  have hmon : findWg (monEvent s (coreOf s w)) wg = some w := by rw [findWg, monEvent_wgs]; exact hw
  rw [rollback, hw]
  simp only [hc, hrun, hsnap, hlog, Bool.or_self, Bool.false_eq_true, if_false]
  exact ⟨_, _, findWg_replaced hmon (show w.id = wg from findWg_id hw), rfl, rfl, rfl, monEvent_now s _⟩

section
variable {s : State} {k : CoreSt} {e : ReplayEntry} (hk : s.cores[s.arg.a]? = some k) (he : k.replayQ.head? = some e)

/-- The state without the oldest entry of the core's replay queue. -/
def entryDone (s : State) : State := modCore s s.arg.a (fun k => { k with replayQ := k.replayQ.tail })

include hk in
theorem entryDone_core : (entryDone s).cores[s.arg.a]? = some { k with replayQ := k.replayQ.tail } :=
  (getElem?_modifyAt_same s.cores _).trans (by rw [hk]; rfl)

include hk he

theorem replayOne_eq : replayOne s s.arg.a = if e.again = e.result then entryDone s else rollback (entryDone s) e.wg 2 := by
  simp only [replayOne, hk, Option.bind_some, he]
  rfl

theorem execReplayQueueAgeLimit_of_old (hold : 1500 ≤ now s - e.time) : exec .replayQueueAgeLimit s = .next (replayOne s s.arg.a) := by
  simp only [exec, execReplayQueueAgeLimit, hk, Option.bind_some, he, if_pos hold]

theorem replayOne_of_match (h : e.again = e.result) : replayOne s s.arg.a = entryDone s := by rw [replayOne_eq hk he, if_pos h]

theorem replayOne_of_mismatch (h : e.again ≠ e.result) {w : Workgroup} {c : Checked} (hw : findWg s e.wg = some w) (hc : w.chk = some c)
    (hrun : c.rerun = false) (hsnap : c.snapPoison = false) (hlog : c.logPoison = false) :
    ∃ v c', findWg (replayOne s s.arg.a) e.wg = some v ∧ v.chk = some c' ∧ c'.rerun = true ∧ c'.buf = [] ∧ c'.opened = now s := by
  rw [replayOne_eq hk he, if_neg h]
  exact rollback_reruns (s := entryDone s) hw hc hrun hsnap hlog

end

/-! ## The limit of an interval (R329) -/

theorem execIntervalTimeLimit_of_old {s : State} {w : Workgroup} {c : Checked} (hw : findWg s s.arg.a = some w) (hc : w.chk = some c)
    (hold : 8192 ≤ now s - c.opened) :
    exec .intervalTimeLimit s = .next (modWg s s.arg.a (fun w => { w with chk := w.chk.map (fun c => { c with cutDue := true }) })) := by
  rw [exec, execIntervalTimeLimit]
  simp only [hw, hc, if_pos hold, findWg_id hw]

/-- Settles O45: replies to faults, the PAGE_FAULT trap, shootdowns, the replay queue and the limit of an interval. -/
theorem faultAndCheckEvents : Obligations.FaultAndCheckEvents := by
  unfold Obligations.FaultAndCheckEvents
  intro s
  refine ⟨?reply, ?trap, ?shoot, ?replay, ?interval⟩
  case reply =>
    refine ⟨execFaultReply_of_malformed, fun hform hnone => ?_, fun hform f hf => ?_⟩
    · rw [execFaultReply_of_formed hform, namedFault_eq_none hnone]
    · have hnamed : namedFault s = some f := hf
      rw [execFaultReply_of_formed hform, hnamed]
      obtain ⟨hcopies, hcalls, hlaunches, hreqs⟩ := answerPage_answers
        (forgetPage { s with faults := s.faults.filter (fun k => k != f) } (fieldAt s.arg.msg.bytes 1 1) f.page)
        (fieldAt s.arg.msg.bytes 1 1) f.page (fieldAt s.arg.msg.bytes 4 1 == 1)
      exact ⟨_, rfl, hcopies, hcalls, hlaunches, hreqs⟩
  case trap =>
    intro w g l r x hw hg hl hr hxl hreplay hwait hhalt hlive hmid hhand hout
    obtain ⟨tr, htr, hexec⟩ := execPageFaultTrap_takes hw hg hl hr hreplay hwait hhalt hlive hmid
    refine ⟨fun hfirst hfirst1 hxg => ?_, fun o hfirst hxg => ?_⟩
    · have hkept := (refusalKept_inHandler r g).trans hout
      have htaken : trapTaken (enablesOf l) (refusalKept r g) r.op tr = tr := by
        have hfirst2 : trapsFirst (enablesOf l) (refusalKept r g) r.op = none := hfirst1
        rw [trapTaken, hfirst2]
      simp only [hfirst] at hexec
      obtain ⟨h, htake, hent⟩ := takeTrapOf_replaced hw hg hl hhand hkept r.op tr
      rw [htake] at hexec
      rw [htaken] at hent
      obtain ⟨hkind, hsub, hmask, hpc, hinfo, houts, haddr⟩ := htr
      refine ⟨_, _, tr, hexec, rfl, findGrp_replaced hw hg _, ?_, hkind, hsub, hmask, hpc, hinfo, houts, haddr⟩
      rw [InHandler, hxl, hxg]
      exact hent
    · have htaken : trapTaken (enablesOf l) g r.op tr = opTrap o (condLanes g (enablesOf l) o.outs) := by rw [trapTaken, hfirst]
      simp only [hfirst] at hexec
      obtain ⟨h, htake, hent⟩ := takeTrapOf_replaced hw hg hl hhand hout r.op tr
      rw [htake] at hexec
      rw [htaken] at hent
      refine ⟨_, _, _, hexec, rfl, findGrp_replaced hw hg _, ?_, rfl⟩
      rw [InHandler, hxl, hxg]
      exact hent
  case shoot =>
    intro part lo n hlink hlen htype
    refine ⟨execShootdown_of_noPart hlink hlen htype, fun p hp => ⟨execShootdown_of_malformed hlink hlen htype hp, ?_⟩⟩
    intro hres hres' hlo hn hpos hcls
    refine ⟨_, execShootdown_of_formed hlink hlen htype hp hres hres' hlo hn hpos hcls, ?_, ?_, fun i d hd => ?_, fun hnone hfree => ?_⟩
    · rw [settleShoots_frame]
    · rw [settleShoots_frame]; exact List.length_map _
    · rw [settleShoots_frame]; exact shotDies_get hd
    · have hshot : shootHeld { s with dies := shotDies s, shoots := s.shoots ++ [shootOf s] } (shootOf s) = false := by
        rw [shootOf, hcls]; exact hfree
      rw [settleShoots_one (k := shootOf s) (by rw [hnone]; rfl) hshot]
      refine ⟨rfl, ?_⟩
      rw [← replyMsg_seq 0 0x31 (req s 1 1) (req s 2 2) 0 0, shootOf, hcls]
  case replay =>
    intro k e hk he
    refine ⟨fun hmatch => ?_, fun hmatch hold => ?_, fun hdiff w c hw hc hrun hsnap hlog => ?_⟩
    · exact ⟨_, congrArg Host.Outcome.next (replayOne_of_match hk he hmatch), _, rfl, entryDone_core hk, rfl⟩
    · exact ⟨_, (execReplayQueueAgeLimit_of_old hk he hold).trans (congrArg Host.Outcome.next (replayOne_of_match hk he hmatch)), _, rfl, entryDone_core hk, rfl⟩
    · have hfails := replayOne_of_mismatch hk he hdiff hw hc hrun hsnap hlog
      exact ⟨⟨_, rfl, hfails⟩, fun hold => ⟨_, execReplayQueueAgeLimit_of_old hk he hold, hfails⟩⟩
  case interval =>
    intro w c hw hc hold
    refine ⟨_, execIntervalTimeLimit_of_old hw hc hold, rfl, fun id hid => findWg_modWg_other s s.arg.a id _ (fun _ => rfl) hid, ?_⟩
    exact (findWg_modWg_same s s.arg.a (fun w => { w with chk := w.chk.map (fun c => { c with cutDue := true }) }) fun _ => rfl).trans
      (by rw [hw, Option.map_some, hc]; rfl)

end Sys2Proof.Machine

/-! Immediate floating-point words (R148, R170, R173): each is a unary or binary word of the shared shape, and FFMA the one of three sources (O6). -/
namespace Sys2Proof.Machine

/-- FFMA delivers its one result, at f64 with WIDE. -/
theorem execFfma_effect {s : State} {x : Ctx} {w : FmtAX} (hi : Issues s w.g x) :
    let ty := w.ty.toNat
    let rty := if w.wide then 11 else ty
    let A := fun l => fDecode ty (readFlt x w.a ty l)
    let B := fun l => fDecode ty (readFlt x w.b ty l)
    let C := fun l => fDecode rty (readFlt x w.c rty l)
    let r := fun l => fFma rty w.rnd.toNat w.sat (modVal w 0 (A l)) (modVal w 1 (B l)) (modVal w 2 (C l))
    LaneFree s x [srcOf 0 w.a (nTy ty), srcOf 1 w.b (nTy ty), srcOf 2 w.c (nTy rty)] false →
    NoneMet x (fun l => condOf rty (r l) [A l, B l, C l]) →
    LaneEffect s x false (execFfma w s) (toFlt x rty w.d.toNat (fun l => (r l).bits)) noBit := by
  intro ty rty A B C r hf hn
  refine laneWord_flt _ _ (sp := fltSpec w [srcOf 0 w.a (nTy ty), srcOf 1 w.b (nTy ty), srcOf 2 w.c (nTy rty)] false) hi rfl rfl hf hn
    (fun _ => rfl) (fun _ => rfl) (fun _ => outFlt_lane ..) (fun _ => outFlt_bad ..) ?_ ?_
  · intro n l; exact lastV_outFlt x rty w.d.toNat n l (fun l => (r l).bits)
  · intro n l; simp [noBit]

/-- Settles O6: FRND by the unary shape, FFMA by its own, every other word by the binary one; a short form is the long one at f32. -/
theorem floatArithmetic : Obligations.FloatArithmetic := by
  refine ⟨fun s x w hi => ?_, fun s x w hi => ?_⟩
  · have bin := fun op => fltBin_effect (w := axOf w 10) op hi
    exact ⟨bin fAdd, bin fMul, bin (fun ty _ sat => fMinMax ty sat false),
      bin (fun ty _ sat => fMinMax ty sat true), fltUn_effect (w := axOf w 10) (fun ty md sat v _ => fRnd ty md sat v) hi⟩
  · have bin := fun op => fltBin_effect op hi
    exact ⟨bin fAdd, bin fMul, bin (fun ty _ sat => fMinMax ty sat false),
      bin (fun ty _ sat => fMinMax ty sat true), fltUn_effect (fun ty md sat v _ => fRnd ty md sat v) hi, execFfma_effect hi⟩

end Sys2Proof.Machine

/-! NONFINITE (R148, R149): the trap of a lane word whose lanes meet an enabled condition, at once and at completion, and what its
frame shows (O25). -/
namespace Sys2Proof.Machine

/-! ## The lanes that trap -/

theorem hasLane_ge (m : LMask) {l : Nat} (h : 16 ≤ l) : hasLane m l = false := BitVec.getLsbD_of_ge m l h

theorem hasLane_condLanes (g : Group) (en : BitVec 5) {outs : List LaneOut} (hlt : ∀ o ∈ outs, o.lane < 16) {l : Nat} (hl : l < 16) :
    hasLane (condLanes g en outs) l = outs.any (fun o => o.lane == l && (o.conds &&& en != 0 && hasLane g.counted o.lane)) := by
  have hfold : ∀ m : LMask, hasLane (outs.foldl (fun m o => if o.conds &&& en != 0 && hasLane g.counted o.lane then m ||| laneBit o.lane else m) m) l
      = (hasLane m l || outs.any (fun o => o.lane == l && (o.conds &&& en != 0 && hasLane g.counted o.lane))) := by
    induction outs with
    | nil => intro m; simp
    | cons o r ih =>
      intro m
      rw [List.foldl_cons, ih (fun a ha => hlt a (List.mem_cons_of_mem o ha)), List.any_cons, ← Bool.or_assoc]
      congr 1
      split
      · rename_i hmet
        rw [hasLane_or, hasLane_laneBit _ _ (hlt o List.mem_cons_self) hl, hmet, Bool.and_true]
        congr 1
        exact decide_eq_decide.2 eq_comm
      · rename_i hmet
        rw [Bool.eq_false_iff.2 hmet, Bool.and_false, Bool.or_false]
  rw [condLanes, hfold]
  simp [hasLane]

theorem condLanes_disabled (g : Group) (outs : List LaneOut) : condLanes g 0 outs = 0 := by simp [condLanes]

/-- The lanes of a word that trap, by the conditions of each (R149). -/
theorem condLanes_perLane_met {x : Ctx} {s : State} {f : State → Ctx → Nat → LaneOut} {c : Nat → BitVec 5} (hlane : ∀ l, (f s x l).lane = l)
    (hc : ∀ l, (f s x l).conds = c l) : condLanes x.g (enablesOf x.l) (perLane f s x) = metLanes x c := by
  refine BitVec.eq_of_getLsbD_eq fun l hl => ?_
  have hlt : ∀ o ∈ perLane f s x, o.lane < 16 := fun o ho => by
    obtain ⟨k, hk, rfl⟩ := List.mem_map.1 ho
    rw [hlane]; exact lanesOf_lt hk
  change hasLane _ l = hasLane _ l
  rw [hasLane_condLanes _ _ hlt hl, metLanes, hasLane_maskOf _ hl, Bool.eq_iff_iff]
  simp only [perLane, List.any_map, List.any_eq_true, Function.comp_apply, hlane, hc, mem_lanesOf, Bool.and_eq_true, beq_iff_eq]
  constructor
  · rintro ⟨k, ⟨-, hact⟩, rfl, hmet, hcount⟩; exact ⟨⟨hact, hcount⟩, hmet⟩
  · rintro ⟨⟨hact, hcount⟩, hmet⟩; exact ⟨l, ⟨hl, hact⟩, rfl, hmet, hcount⟩

theorem outOf_perLane_outside {x : Ctx} {s : State} {f : State → Ctx → Nat → LaneOut} (hlane : ∀ l, (f s x l).lane = l) {l : Nat}
    (h : hasLane x.act l = false) : outOf (perLane f s x) l = none := by
  refine List.find?_eq_none.2 fun o ho => ?_
  obtain ⟨k, hk, rfl⟩ := List.mem_map.1 ho
  rw [hlane, beq_iff_eq]
  rintro rfl
  rw [(mem_lanesOf.1 hk).2] at h
  cases h

/-! ## The trap at once -/

/-- A gang of a group with no side predicted or replaying is not predicted. -/
theorem predicted_of_sure {x : Ctx} (h : speculative x.g = false) : predicted x = false := by
  refine List.any_eq_false.2 fun q _ => ?_
  have hq : (quadAt x.g q).pred = none ∧ (quadAt x.g q).replay = none := by
    rw [quadAt, List.getD_eq_getElem?_getD]
    cases hget : x.g.quads[q]? with
    | none => exact ⟨rfl, rfl⟩
    | some a =>
      have ha := List.any_eq_false.1 h a (List.mem_of_getElem? hget)
      simpa using ha
  simp [runsOn, hq]

/-- A word whose lanes each show their conditions and sources takes NONFINITE where a lane meets an enabled condition. -/
theorem laneWord_traps {s : State} {x : Ctx} {sp : LaneSpec} {f : State → Ctx → Nat → LaneOut} {c : Nat → BitVec 5} {a b k : Nat → Nat} (out : Nat → LaneOut)
    (hi : Issues s sp.g x) (hl : sp.ll = none) (hq : sp.queue = false) (hlane : ∀ l, (out l).lane = l)
    (hf : ∀ l, f s x l = withOps (out l) (c l) (a l) (b l) (k l)) : TakesNonfinite s x (laneWord s sp (perLane f)) sp.srcs sp.wtype c a b k := by
  intro hfree hr hmet
  have hfl : ∀ l, (f s x l).lane = l := fun l => by rw [hf]; exact hlane l
  have hmask := condLanes_perLane_met (c := c) hfl (fun l => by rw [hf]; rfl)
  have hcheck : checkedAt s x false (replayEntry s x sp.srcs (perLane f s x)) = s := if_neg (hmask ▸ hmet)
  obtain ⟨g, hstep, hin⟩ := raise_enters hi hr (nonfiniteTrap x sp.wtype (metLanes x c) (perLane f s x))
  refine ⟨_, g, _, ?_, hstep, hin, rfl, rfl, rfl, rfl, rfl, rfl, rfl, ?_, fun l => outOf_perLane_outside hfl⟩
  · rw [laneWord, withCtx_next hi]
    simp only [hl, hq, withSources_reads _ hfree.clean, checkedWord_free hfree, hcheck, laneFinish, hmask, bne_iff_ne.2 hmet, if_true, trapOr,
      predicted_of_sure hr.sure, Bool.false_eq_true, if_false]
  · exact perLane_carries hfl (fun l => by rw [hf]; rfl) (fun l => by rw [hf]; rfl) (fun l => by rw [hf]; rfl) (fun l => by rw [hf]; rfl)

/-- The same of an immediate floating-point word, whose frame shows its types in WTYPE (R149). -/
theorem fltWord_traps {s : State} {x : Ctx} {w : FmtAX} {srcs : List Src} {f : State → Ctx → Nat → LaneOut} {c : Nat → BitVec 5} {a b k : Nat → Nat}
    {out : Nat → LaneOut} (hi : Issues s w.g x) (hlane : ∀ l, (out l).lane = l) (hf : ∀ l, f s x l = withOps (out l) (c l) (a l) (b l) (k l)) :
    TakesNonfinite s x (laneWord s (fltSpec w srcs false) (perLane f)) srcs (wtypeOf w) c a b k :=
  laneWord_traps (sp := fltSpec w srcs false) out hi rfl rfl hlane hf

theorem fltBin_traps {s : State} {x : Ctx} {w : FmtAX} (op) (hi : Issues s w.g x) : FltTwoTraps s x w (fltBin s w false op) op :=
  fltWord_traps hi (fun _ => outFlt_lane ..) (fun _ => rfl)

theorem fltUn_traps {s : State} {x : Ctx} {w : FmtAX} (op : Nat → Nat → Bool → FVal → FOut) (hi : Issues s w.g x) :
    FltOneTraps s x w (fltUn s w false (fun ty md sat v _ => op ty md sat v)) op :=
  fltWord_traps hi (fun _ => outFlt_lane ..) (fun _ => rfl)

theorem pkWord_traps {s : State} {x : Ctx} {w : FmtAX} (a b : Fld) (op) (hi : Issues s w.g x) : FltPackedTraps s x w (pkWord s w [a, b] op) [a, b] op :=
  fltWord_traps hi (fun _ => outV_lane ..) (fun _ => rfl)

theorem sclWord_traps {s : State} {x : Ctx} {w : FmtAX} (hi : Issues s w.g x) :
    let ty := w.ty.toNat
    let A := fun l => readFlt x w.a ty l
    TakesNonfinite s x (sclWord s w) [srcOf 0 w.a (nTy ty), srcOf 1 w.b 1] (wtypeOf w)
      (fun l => condOf ty (fScl ty w.rnd.toNat w.sat (modVal w 0 (fDecode ty (A l))) (readI s x w.b l)) [fDecode ty (A l)]) A (readN s x w.b) (fun _ => 0) :=
  fltWord_traps hi (fun _ => outFlt_lane ..) (fun _ => rfl)

theorem xtrWord_traps {s : State} {x : Ctx} {w : FmtAX} (hi : Issues s w.g x) :
    let ty := w.ty.toNat
    let A := fun l => readFlt x w.a ty l
    TakesNonfinite s x (xtrWord s w) [srcOf 0 w.a (nTy ty)] (wtypeOf w)
      (fun l => if w.md = 0 then condBits (fIsSnan (fDecode ty (A l))) false false false (fNonFinite (fDecode ty (A l)))
        else condOf ty (fXtrMan ty (modVal w 0 (fDecode ty (A l)))) [fDecode ty (A l)]) A (fun _ => 0) (fun _ => 0) := by
  by_cases hmd : w.md = 0
  all_goals
    unfold xtrWord
    simp only [hmd, if_true, if_false]
  · exact fltWord_traps hi (fun _ => outV_lane ..) (fun _ => rfl)
  · exact fltWord_traps hi (fun _ => outFlt_lane ..) (fun _ => rfl)

/-- A product that is invalid already delivers a NaN, so that only a sum of valid products asks for the sources' signalling NaNs. -/
theorem fdot4_delivered (mode : Nat) (sat bad inv snan : Bool) (e : Exact) :
    (if bad then deliver 10 mode sat .nan true false else deliver 10 mode sat e (inv || (bad || snan)) false)
      = if bad then deliver 10 mode sat .nan true false else deliver 10 mode sat e (inv || snan) false := by
  cases bad <;> rfl

theorem execFdot4_traps {s : State} {x : Ctx} {w : FmtAX} (hi : Issues s w.g x) :
    let sty := w.sty.toNat
    let n := if sty = 8 ∨ sty = 9 then 2 else 1
    let raw := fun (f : Fld) l => pairVal (regWord x.g f.code 0 l) (if sty = 8 ∨ sty = 9 then regWord x.g f.code 1 l else 0)
    let E := fun l i => dotElem sty (raw w.a l) i
    let F := fun l i => dotElem sty (raw w.b l) i
    let C := fun l => fDecode 10 (readFlt x w.c 10 l)
    let prod := fun l i => exMul (modVal w 0 (E l i)) (modVal w 1 (F l i))
    let srcs := fun l => [E l 0, E l 1, E l 2, E l 3, F l 0, F l 1, F l 2, F l 3, C l]
    let bad := fun l => [prod l 0, prod l 1, prod l 2, prod l 3].any Prod.snd
    let sum := fun l => exactSum w.rnd.toNat [(prod l 0).1, (prod l 1).1, (prod l 2).1, (prod l 3).1, modVal w 2 (C l)]
    let r := fun l => if bad l then deliver 10 w.rnd.toNat w.sat .nan true false
      else deliver 10 w.rnd.toNat w.sat (sum l).1 ((sum l).2 || (srcs l).any fIsSnan) false
    TakesNonfinite s x (execFdot4 w s) [srcOf 0 w.a n, srcOf 1 w.b n, srcOf 2 w.c 1] (wtypeOf w) (fun l => condOf 10 (r l) (srcs l))
      (raw w.a) (raw w.b) (readFlt x w.c 10) := by
  unfold execFdot4
  simp only [Bool.or_eq_true, beq_iff_eq, fdot4_delivered]
  exact fltWord_traps hi (fun _ => outFlt_lane ..) (fun _ => rfl)

theorem execCvt_traps {s : State} {x : Ctx} {w : FmtAX} (hi : Issues s w.g x) :
    let ty := w.ty.toNat
    let sty := w.sty.toNat
    let k := w.md.toNat % 8
    let from' := w.md.toNat / 8 = 2
    let into := w.md.toNat / 8 = 3
    let a := fun l => if from' then readPk x w.a sty l / 2 ^ (elemBits sty * k) % 2 ^ elemBits sty else readFlt x w.a sty l
    let v := fun l => fDecode sty (a l)
    let r := fun l => fCvt ty w.rnd.toNat w.sat (modVal w 0 (v l))
    TakesNonfinite s x (execCvt w s)
      (srcOf 0 w.a (if from' then 1 else nTy sty) :: (if into then [{ which := 3, code := BitVec.ofNat 8 w.d.toNat, n := 1 }] else [])) (wtypeOf w)
      (fun l => condOf ty { r l with inv := (r l).inv || fIsSnan (v l) } [v l]) a (fun _ => 0) (fun _ => 0) := by
  unfold execCvt
  simp only [beq_iff_eq]
  refine fltWord_traps hi (fun l => ?_) (fun _ => rfl)
  split
  · exact outV_lane ..
  · exact outFlt_lane ..

theorem execCvti_traps {s : State} {x : Ctx} {w : FmtAX} (hi : Issues s w.g x) :
    let ty := w.ty.toNat
    let sty := w.sty.toNat
    let v := fun l => fDecode sty (readFlt x w.a sty l)
    TakesNonfinite s x (execCvti w s) [srcOf 0 w.a (nTy sty)] (wtypeOf w)
      (fun l => if tyInt ty then condBits ((fToInt ty w.rnd.toNat (modVal w 0 (v l))).2 || fIsSnan (v l)) false false false (fNonFinite (v l))
        else condOf ty (deliver ty w.rnd.toNat w.sat (exOfInt (intVal sty (readTy s x w.a sty l))) false false) [])
      (fun l => if tyInt ty then readFlt x w.a sty l else readTy s x w.a sty l) (fun _ => 0) (fun _ => 0) := by
  cases hty : tyInt w.ty.toNat
  all_goals
    unfold execCvti
    simp only [hty, if_true, Bool.false_eq_true, if_false]
  case true => exact fltWord_traps hi (fun _ => outInt_lane ..) (fun _ => rfl)
  case false => exact fltWord_traps hi (fun _ => outFlt_lane ..) (fun _ => rfl)

/-- The first of `n` positions that satisfies `p`, or position 0, is one of them. -/
theorem find?_range_getD_lt (p : Nat → Bool) {n : Nat} (h : 0 < n) : ((List.range n).find? p).getD 0 < n := by
  cases hf : (List.range n).find? p with
  | none => exact h
  | some i => exact List.mem_range.1 (List.mem_of_find?_eq_some hf)

theorem execCvtm_traps {s : State} {x : Ctx} {w : FmtAX} (hi : Issues s w.g x) :
    let sty := w.sty.toNat
    let v := fun l i => fDecode sty (cvtmSrc x w l i)
    let cond := fun l i => condBits (fIsNan (v l i)) false false false (fNonFinite (v l i))
    let first := fun l => ((List.range 32).find? (fun i => cond l i &&& enablesOf x.l != 0)).getD 0
    TakesNonfinite s x (execCvtm w s) [srcOf 0 w.a (if sty = 10 then 32 else 16)] (wtypeOf w)
      (fun l => (List.range 32).foldl (fun c i => c ||| cond l i) 0) (fun l => cvtmSrc x w l (first l)) first (fun _ => 0) := by
  intro sty v cond first
  have hsrc : ∀ l, ((List.range 32).map (cvtmSrc x w l)).getD (first l) 0 = cvtmSrc x w l (first l) := fun l => by
    have hfirst : first l < 32 := find?_range_getD_lt _ (by decide)
    simp [List.getD_eq_getElem?_getD, hfirst]
  rw [← funext hsrc]
  exact fltWord_traps hi (fun _ => rfl) (fun _ => rfl)

/-! ## The trap at completion (R154, R314) -/

section
variable {g : Group} {o : Op} {later : List Op} {en : BitVec 5}

theorem flagDrop_frame (g : Group) (o : Op) : flagDrop g o = { g with f := (flagDrop g o).f } := by
  unfold flagDrop
  split <;> rfl

/-- A lane word that meets an enabled condition, and no other lane word behind it: it alone holds its gang (R154). -/
theorem heldLaneWords_one (hops : g.ops = o :: later) (hkind : o.kind = .laneWord) (hlater : ∀ k ∈ later, k.kind ≠ .laneWord)
    (hm : condLanes g en o.outs ≠ 0) : heldLaneWords en g = [o] := by
  have hen : en ≠ 0 := by
    rintro rfl
    exact hm (condLanes_disabled g o.outs)
  have hnone : later.filter (fun k => k.kind == .laneWord) = [] := List.filter_eq_nil_iff.2 fun k hk => by simpa using hlater k hk
  rw [heldLaneWords, if_neg hen, hops, List.filter_cons, if_pos (beq_iff_eq.2 hkind), hnone]

/-- The word that traps is undone: its flag has fallen, and its gang's quads stand at it again. -/
theorem endLaneWord_met (hops : g.ops = o :: later) (hid : ∀ k ∈ later, k.id ≠ o.id) (hm : condLanes g en o.outs ≠ 0) :
    endLaneWord en o g = modQuads { flagDrop g o with ops := later } o.quads (fun q => if q.live = 0 then q else { q with pc := o.pc }) := by
  have hrest : later.filter (fun k => k.id != o.id) = later := List.filter_eq_self.2 fun k hk => bne_iff_ne.2 (hid k hk)
  rw [endLaneWord, if_neg hm, hops, List.filter_cons, if_neg (by simp), hrest]

end

/-- LANE_WORD_COMPLETE of a word that meets an enabled condition, with no earlier refusal, is its trap. -/
theorem execLaneWordComplete_traps {s : State} {w : Workgroup} {l : Launch} {g : Group} {o : Op} {later : List Op} (hw : findWg s s.arg.a = some w)
    (hl : findLaunch s w.launch = some l) (hg : w.groups[s.arg.b]? = some g) (hops : g.ops = o :: later) (hname : Names s o) (hkind : o.kind = .laneWord)
    (houts : o.outs ≠ []) (hm : condLanes g (enablesOf l) o.outs ≠ 0) (hdue : (dueRefusals g).any (fun r => decide (r.op < o.id)) = false)
    (hwait : trapWaits g = false) :
    exec .laneWordComplete s = .next (takeTrapOf s s.arg.a s.arg.b o.id (opTrap o (condLanes g (enablesOf l) o.outs))) := by
  have hfind : g.ops.find? (fun o => o.id == s.arg.c && (o.kind == .laneWord || o.kind == .crd) && !o.outs.isEmpty) = some o := by
    rw [hops, List.find?_cons_of_pos]
    simp [hkind, houts, show s.arg.c = o.id from hname]
  rw [exec, execLaneWordComplete]
  simp only [hw, hg, hl, hfind, hkind, hdue, hwait, bne_iff_ne.2 hm, beq_self_eq_true, Bool.and_self, Bool.false_eq_true, if_true, if_false]

/-! ## The frame (R149, R316) -/

section
variable {α : Type} [DecidableEq α]

/-- Writes of distinct keys, read back one by one. -/
theorem smGet_foldl_smPut_notMem {es : List (Nat × α)} {d : α} {k : Nat} (h : k ∉ es.map Prod.fst) (m : SMap α) :
    smGet (es.foldl (fun m e => smPut m e.1 e.2 d) m) k d = smGet m k d := by
  induction es generalizing m with
  | nil => rfl
  | cons e r ih =>
    rw [List.map_cons, List.mem_cons, not_or] at h
    rw [List.foldl_cons, ih h.2, smGet_smPut_other _ _ _ _ _ h.1]

theorem smGet_foldl_smPut_mem {es : List (Nat × α)} {d : α} {k : Nat} {v : α} (hdist : (es.map Prod.fst).Nodup) (h : (k, v) ∈ es) (m : SMap α) :
    smGet (es.foldl (fun m e => smPut m e.1 e.2 d) m) k d = v := by
  induction es generalizing m with
  | nil => cases h
  | cons e r ih =>
    rw [List.map_cons, List.nodup_cons] at hdist
    rw [List.foldl_cons]
    rcases List.mem_cons.1 h with rfl | hr
    · rw [smGet_foldl_smPut_notMem hdist.1, smGet_smPut_same]
    · exact ih hdist.2 hr _

end

/-- What a frame shows of an operand of lane `l`. -/
def shownOp (t : Trap) (f : LaneOut → DWord) (l : Nat) : Nat := match outOf t.outs l with | none => 0 | some o => (f o).toNat

/-- What the conditions of lane `l` add to a register of the frame as its byte `k`. -/
def shownCause (t : Trap) (l k : Nat) : Nat :=
  match outOf t.outs l with | none => 0 | some o => if hasLane t.mask o.lane then o.conds.toNat * 2 ^ (8 * k) else 0

/-- The registers of a frame that stand for the operands `f` of the lanes. -/
def frameOps (t : Trap) (base : Nat) (f : LaneOut → DWord) : List (Nat × Word) :=
  lanes16.flatMap (fun l => [(base + 2 * l, wordOf (shownOp t f l)), (base + 2 * l + 1, wordOf (shownOp t f l / 2 ^ 32))])

/-- The registers of a frame in number order. -/
def frameRegs (t : Trap) : List (Nat × Word) :=
  [(0x100, wordOf (t.kind.code + 256 * t.sub)), (0x101, t.pc), (0x102, t.resume), (0x103, wordOf t.mask.toNat),
    (0x104, wordOf t.addr), (0x105, wordOf (t.addr / 2 ^ 32)), (0x106, wordOf t.info), (0x107, wordOf t.wtype)]
  ++ (List.range 4).map (fun i => (0x108 + i, wordOf ((List.range 4).foldl (fun a k => a + shownCause t (4 * i + k) k) 0)))
  ++ frameOps t 0x110 LaneOut.opa ++ frameOps t 0x130 LaneOut.opb ++ frameOps t 0x150 LaneOut.opc

theorem trapFrame_eq (t : Trap) : trapFrame t = (frameRegs t).foldl (fun m e => smPut m e.1 e.2 0) [] := rfl

theorem frameRegs_nodup (t : Trap) : ((frameRegs t).map Prod.fst).Nodup := by
  have hkeys : (frameRegs t).map Prod.fst = List.range' 0x100 12 ++ List.range' 0x110 96 := rfl
  rw [hkeys, List.nodup_append]
  refine ⟨List.nodup_range', List.nodup_range', fun a ha b hb => ?_⟩
  rw [List.mem_range'_1] at ha hb
  omega

theorem getTrap_withTrap (g : Group) (m : SMap Word) (n : Nat) : getTrap { g with trap := m } n = smGet m n 0 := rfl

/-- The frame reads back what is listed for it. -/
theorem getTrap_trapFrame (g : Group) {t : Trap} {n : Nat} {v : Word} (h : (n, v) ∈ frameRegs t) : getTrap { g with trap := trapFrame t } n = v := by
  rw [getTrap_withTrap, trapFrame_eq]
  exact smGet_foldl_smPut_mem (frameRegs_nodup t) h []

/-- The pair of an operand reads back as the operand. -/
theorem getTrap_trapFrame_op (g : Group) {t : Trap} {base : Nat} {f : LaneOut → DWord} (hsub : frameOps t base f ⊆ frameRegs t) {l : Nat} (hl : l < 16) :
    (getTrap { g with trap := trapFrame t } (base + 2 * l)).toNat + 2 ^ 32 * (getTrap { g with trap := trapFrame t } (base + 2 * l + 1)).toNat = shownOp t f l := by
  have hmem : ∀ e ∈ [(base + 2 * l, wordOf (shownOp t f l)), (base + 2 * l + 1, wordOf (shownOp t f l / 2 ^ 32))], e ∈ frameRegs t :=
    fun e he => hsub (List.mem_flatMap.2 ⟨l, List.mem_range.2 hl, he⟩)
  have hlt : shownOp t f l < 2 ^ 64 := by
    unfold shownOp
    split
    · decide
    · exact BitVec.isLt _
  rw [getTrap_trapFrame g (hmem _ List.mem_cons_self), getTrap_trapFrame g (hmem _ (List.mem_cons_of_mem _ List.mem_cons_self))]
  simp only [wordOf, BitVec.toNat_ofNat]
  omega

theorem foldl_add_range_four (f : Nat → Nat) : (List.range 4).foldl (fun a k => a + f k) 0 = f 0 + f 1 + f 2 + f 3 := by
  simp only [show List.range 4 = [0, 1, 2, 3] from rfl, List.foldl_cons, List.foldl_nil, Nat.zero_add]

/-- A byte of a word that four bytes at their places make up. -/
theorem wordOf_byte {f d : Nat → Nat} (hf : ∀ k, f k = d k * 2 ^ (8 * k)) (hd : ∀ k, d k < 2 ^ 8) {j : Nat} (hj : j < 4) :
    (wordOf ((List.range 4).foldl (fun a k => a + f k) 0)).toNat / 2 ^ (8 * j) % 2 ^ 8 = d j := by
  rw [foldl_add_range_four, hf 0, hf 1, hf 2, hf 3, wordOf, BitVec.toNat_ofNat]
  have h0 := hd 0
  have h1 := hd 1
  have h2 := hd 2
  have h3 := hd 3
  interval_cases j <;> omega

theorem shownCause_eq (t : Trap) (l k : Nat) : shownCause t l k = shownCause t l 0 * 2 ^ (8 * k) := by
  unfold shownCause
  cases outOf t.outs l with
  | none => exact (Nat.zero_mul _).symm
  | some o => cases hasLane t.mask o.lane <;> simp

theorem shownCause_lt (t : Trap) (l : Nat) : shownCause t l 0 < 2 ^ 8 := by
  unfold shownCause
  split
  · decide
  · rename_i o _
    have hconds := o.conds.isLt
    split <;> omega

/-- The byte that a frame holds for the conditions of a lane. -/
theorem getTrap_trapFrame_cause (g : Group) (t : Trap) {l : Nat} (hl : l < 16) :
    (getTrap { g with trap := trapFrame t } (0x108 + l / 4)).toNat / 2 ^ (8 * (l % 4)) % 2 ^ 8 = shownCause t l 0 := by
  have hmem : (0x108 + l / 4, wordOf ((List.range 4).foldl (fun a k => a + shownCause t (4 * (l / 4) + k) k) 0)) ∈ frameRegs t := by
    have hreg : l / 4 < 4 := by omega
    exact List.mem_append_left _ (List.mem_append_left _ (List.mem_append_left _ (List.mem_append_right _
      (List.mem_map_of_mem (List.mem_range.2 hreg)))))
  rw [getTrap_trapFrame g hmem, wordOf_byte (fun k => shownCause_eq t _ k) (fun k => shownCause_lt t _) (Nat.mod_lt l (by decide)), Nat.div_add_mod]

/-- What results that carry conditions and sources show in a frame. -/
theorem Carries.shown {t : Trap} {m : LMask} {c : Nat → BitVec 5} {a b k : Nat → Nat} (h : Carries t.outs m c a b k)
    (hout : ∀ l, hasLane m l = false → outOf t.outs l = none) {l : Nat} (hl : l < 16) :
    shownCause t l 0 = (if hasLane m l = true ∧ hasLane t.mask l = true then (c l).toNat else 0)
    ∧ shownOp t LaneOut.opa l = (if hasLane m l then a l else 0) % 2 ^ 64 ∧ shownOp t LaneOut.opb l = (if hasLane m l then b l else 0) % 2 ^ 64
    ∧ shownOp t LaneOut.opc l = (if hasLane m l then k l else 0) % 2 ^ 64 := by
  unfold shownCause shownOp
  cases hm : hasLane m l
  case false => simp [hout l hm]
  case true =>
    obtain ⟨o, hget, hc, ha, hb, hk⟩ := h l hl hm
    have hlane : o.lane = l := by simpa using List.find?_some hget
    simp [hget, hlane, hc, ha, hb, hk, dwordOf]

/-! ## The statement -/

/-- Settles O25: each word's trap at once by the shell's, that of a pending word at its completion, and the frame register by register. -/
theorem nonfiniteTraps : Obligations.NonfiniteTraps := by
  refine ⟨fun s x w hi => ?short, fun s x w hi => ?long, ?completion, ?frame⟩
  case short =>
    have bin := fun op => fltBin_traps (w := axOf w 10) op hi
    exact ⟨bin fAdd, bin fMul, bin (fun ty _ sat => fMinMax ty sat false), bin (fun ty _ sat => fMinMax ty sat true), fltUn_traps fRnd hi,
      pkWord_traps (w := axOf w 8) w.a w.b pkAdd hi, pkWord_traps (w := axOf w 8) w.a w.b pkMul hi, sclWord_traps (w := axOf w 10) hi,
      xtrWord_traps (w := axOf w 10) hi⟩
  case long =>
    have bin := fun op => fltBin_traps op hi
    exact ⟨bin fAdd, bin fMul, bin (fun ty _ sat => fMinMax ty sat false), bin (fun ty _ sat => fMinMax ty sat true), fltUn_traps fRnd hi,
      pkWord_traps w.a w.b pkAdd hi, pkWord_traps w.a w.b pkMul hi, fltWord_traps hi (fun _ => outV_lane ..) (fun _ => rfl),
      sclWord_traps hi, xtrWord_traps hi, fltWord_traps hi (fun _ => outP_lane ..) (fun _ => rfl), fltWord_traps hi (fun _ => outFlt_lane ..) (fun _ => rfl),
      execFdot4_traps hi, execCvt_traps hi, execCvti_traps hi, execCvtm_traps hi⟩
  case completion =>
    intro s w l g o later m hw hl hfront hname hkind houts hm hlater hdue hwait hhand hout
    obtain ⟨hgrp, hops, hothers⟩ := hfront
    have hg : w.groups[s.arg.b]? = some g := by rw [findGrp, hw] at hgrp; exact hgrp
    have hheld := heldLaneWords_one hops hkind hlater hm
    have hfirst : trapsFirst (enablesOf l) g o.id = none := by simp [trapsFirst, hheld]
    obtain ⟨h, htake, hent⟩ := takeTrapOf_enters hw hg hl hhand hout o.id (opTrap o m)
    rw [wordsEnded, hheld, List.foldl_cons, List.foldl_nil, endLaneWord_met hops (fun k hk => (hothers k hk).1) hm, trapTaken, hfirst] at hent
    have hexec := execLaneWordComplete_traps hw hl hg hops hname hkind houts hm hdue hwait
    rw [htake] at hexec
    have hquads : (flagDrop g o).quads = g.quads := by rw [flagDrop_frame]
    refine ⟨_, _, h, hexec, rfl, fun id hid => findWg_modGrp_other s _ _ _ hid, findGrp_replaced hw hg h, ?_, ?_, fun q hq => ?_, hent⟩
    · rfl
    · simp [modQuads, hquads]
    · rw [quadAt_modQuads _ _ _ _ (by rw [hquads]; exact hq), quadAt_congr (show ({ flagDrop g o with ops := later } : Group).quads = g.quads from hquads)]
      cases hasQuad o.quads q
      · simp
      · by_cases hlive : (quadAt g q).live = 0 <;> simp [hlive]
  case frame =>
    intro g t m c opa opb opc hcar hout f shown l hl
    obtain ⟨hcause, hopa, hopb, hopc⟩ := hcar.shown hout hl
    have hlisted : frameOps t 0x110 LaneOut.opa ⊆ frameRegs t ∧ frameOps t 0x130 LaneOut.opb ⊆ frameRegs t ∧ frameOps t 0x150 LaneOut.opc ⊆ frameRegs t := by
      refine ⟨fun e he => ?_, fun e he => ?_, fun e he => ?_⟩ <;> simp [frameRegs, he]
    obtain ⟨hlista, hlistb, hlistc⟩ := hlisted
    exact ⟨(getTrap_trapFrame_cause g t hl).trans hcause, (getTrap_trapFrame_op g hlista hl).trans hopa, (getTrap_trapFrame_op g hlistb hl).trans hopb,
      (getTrap_trapFrame_op g hlistc hl).trans hopc⟩

end Sys2Proof.Machine

/-! Integer words (R155 to R162): each writes one typed result of its lane's operands, a division through a pending operation
(O1, O2, O3). -/
namespace Sys2Proof.Machine

/-! ## Words of one typed result -/

/-- A word whose lanes each write one result of an integer type. -/
theorem laneWord_typed {s : State} {g : BitVec 3} {srcs : List Src} {x : Ctx} (q : Bool) (ty d : Nat) (f : State → Ctx → Nat → Nat)
    (hi : Issues s g x) (hf : LaneFree s x srcs q) (hb : Blind s (f · x)) :
    LaneEffect s x q (laneWord s { plainSpec g srcs with queue := q } (perLane fun s x l => outInt ty l d (f s x l))) (toInt x ty d (f s x)) noBit := by
  refine laneWord_plain _ _ _ q hi hf (fun k => ?_) (fun _ => outInt_lane ..) (fun _ => outInt_bad ..) (fun _ => outInt_conds ..) ?_ ?_
  · funext l; exact congrArg (fun r : Nat → Nat => outInt ty l d (r l)) (hb k)
  · intro n l; exact lastV_outInt x ty d n l (f s x)
  · intro n l; simp [noBit]

/-- A result beside which predicate `k` is written, unless `k` is 7. -/
theorem outBit_withCarry (o : LaneOut) (k n : Nat) (b : Bool) :
    outBit { o with p := if k = 7 then [] else [(k, b)] } n = if k = 7 then none else outBit (outP o.lane k b) n := by
  by_cases hk : k = 7
  · rw [if_pos hk, if_pos hk]; rfl
  · rw [if_neg hk, if_neg hk]; rfl

/-! ## Arithmetic (R155) and carries (R156) -/

section
variable {s : State} {x : Ctx} {w : FmtAX} (hi : Issues s w.g x)
include hi

/-- A word of two integer sources delivers `r` where its operation gives it. -/
theorem intBin_effect {op : Nat → Int → Int → Int} {r : Nat → Int} (hf : LaneFree s x (srcs2 w) false)
    (hr : ∀ l, op w.ty.toNat (tyVal s x w.a w.ty.toNat l) (tyVal s x w.b w.ty.toNat l) = r l) :
    LaneEffect s x false (intBin s w op) (toIntW x w r) noBit :=
  intOut_effect w (fun s x l => op w.ty.toNat (tyVal s x w.a w.ty.toNat l) (tyVal s x w.b w.ty.toNat l)) r hi hf (fun _ => rfl) hr

/-- A word of one integer source delivers `r` where its operation gives it. -/
theorem intUn_effect {op : Int → Int} {r : Nat → Int} (hf : LaneFree s x [srcOf 0 w.a (nTy w.ty.toNat)] false)
    (hr : ∀ l, op (tyVal s x w.a w.ty.toNat l) = r l) : LaneEffect s x false (intUn s w op) (toIntW x w r) noBit :=
  intOut_effect w (fun s x l => op (tyVal s x w.a w.ty.toNat l)) r hi hf (fun _ => rfl) hr

/-- IADDC and ISUBB deliver the sum or difference of their unsigned operands, and their carry or borrow in predicate MOD 2:0. -/
theorem carryWord_effect (sub : Bool) (hf : LaneFree s x (srcs2 w) false) :
    let W := tyWidth w.ty.toNat
    let A := fun l => (readTy s x w.a w.ty.toNat l : Int)
    let B := fun l => (readTy s x w.b w.ty.toNat l : Int)
    let C := fun l => (if readP x w.c l then 1 else 0 : Int)
    let P := w.md.toNat % 8
    let r := fun l => if sub then A l - B l - C l else A l + B l + C l
    LaneEffect s x false (carryWord s w sub) (toInt x w.ty.toNat w.d.toNat (fun l => wrapNat W (r l)))
      (if P = 7 then noBit else toPred x P (fun l => decide (if sub then r l < 0 else ((2 ^ W : Nat) : Int) ≤ r l))) := by
  intro W A B C P r
  refine laneWord_plain _ _ _ false hi hf (fun _ => rfl) (fun _ => outInt_lane ..) (fun _ => outInt_bad ..) (fun _ => outInt_conds ..) ?_ ?_
  · intro n l; exact lastV_outInt x w.ty.toNat w.d.toNat n l (fun l => wrapNat W (r l))
  · intro n l
    refine (congrArg (fun b : Option Bool => if hasLane x.act l then b else none) (outBit_withCarry _ P n _)).trans ?_
    by_cases hP : P = 7
    · simp [hP, noBit]
    · simp only [if_neg hP]
      exact outP_toPred x P n l (fun l => decide (if sub then r l < 0 else ((2 ^ W : Nat) : Int) ≤ r l))

end

theorem lesser_eq_min (a b : Int) : (if b < a then b else a) = min a b := by rw [← min_def_lt, min_comm]

theorem neg_or_self_eq_natAbs (a : Int) : (if a < 0 then -a else a) = (a.natAbs : Int) := by split <;> omega

/-- Settles O1: each word by its shape of one or two integer sources, IMAD by its own three, IADDC and ISUBB by the carry word. -/
theorem integerArithmetic : Obligations.IntegerArithmetic := by
  refine ⟨fun s x w hi => ⟨fun hf => ?pairs, fun hf => ?singles, fun hf => ?imad⟩, fun s x w hi hf => ?carries⟩
  case pairs =>
    have bin := fun (op : Nat → Int → Int → Int) => intBin_effect (op := op) hi hf (fun _ => rfl)
    exact ⟨bin (fun _ a b => a + b), bin (fun _ a b => a - b), bin (fun _ a b => a * b), bin (fun ty a b => (a * b) / ((2 ^ tyWidth ty : Nat) : Int)),
      intBin_effect (op := fun _ a b => if b < a then b else a) hi hf (fun _ => lesser_eq_min _ _),
      intBin_effect (op := fun _ a b => if a < b then b else a) hi hf (fun _ => (max_def_lt _ _).symm)⟩
  case singles =>
    exact ⟨intUn_effect (op := fun a => if a < 0 then -a else a) hi hf (fun _ => neg_or_self_eq_natAbs _), intUn_effect (op := fun a => -a) hi hf (fun _ => rfl)⟩
  case imad =>
    exact intOut_effect w (fun s x l => tyVal s x w.a w.ty.toNat l * tyVal s x w.b w.ty.toNat l + tyVal s x w.c (if w.wide then w.ty.toNat + 1 else w.ty.toNat) l)
      _ hi hf (fun _ => rfl) (fun _ => rfl)
  case carries => exact ⟨carryWord_effect hi false hf, carryWord_effect hi true hf⟩

/-! ## Division (R157) -/

/-- A division issues its operation with the results, the condition DVZ of a zero divisor, and the sources as read. -/
theorem divWord_issued {s : State} {x : Ctx} {w : FmtAX} (op : Nat → Int → Int → Int) (hi : Issues s w.g x) :
    let ty := w.ty.toNat
    let A := tyVal s x w.a ty
    let B := tyVal s x w.b ty
    let c := fun l => condBits false (B l == 0) false false false
    LongWord s x w.fs (srcs2 w) (divWord s w op) (toIntW x w (fun l => op ty (A l) (B l))) ty c
      (fun outs => Carries outs x.act c (readTy s x w.a ty) (readTy s x w.b ty) (fun _ => 0)) := by
  intro ty A B c
  have hlong := laneWord_long (sp := { g := w.g, srcs := srcs2 w, wtype := ty, ll := some w.fs, queue := false }) (fun s x l =>
      withOps (intOut w l (op ty (tyVal s x w.a ty l) (tyVal s x w.b ty l))) (condBits false (tyVal s x w.b ty l == 0) false false false)
        (readTy s x w.a ty l) (readTy s x w.b ty l) 0)
    c hi rfl rfl (fun _ => rfl) (fun l => intOut_lane ..) (fun _ => rfl) (fun l n => outBit_intOut ..)
    (carry := fun outs => Carries outs x.act c (readTy s x w.a ty) (readTy s x w.b ty) (fun _ => 0))
    (perLane_carries (fun l => intOut_lane ..) (fun _ => rfl) (fun _ => rfl) (fun _ => rfl) (fun _ => rfl))
  have hwrites := funext fun n => funext fun l => lastV_intOut x w n l (fun l => op ty (A l) (B l))
  exact hwrites ▸ hlong

/-- Settles O2: both words by the one division, under the quotient and the remainder with their values for a zero divisor. -/
theorem integerDivision : Obligations.IntegerDivision := fun _ _ _ hi =>
  ⟨divWord_issued divQuot hi, divWord_issued (fun _ => divRem) hi⟩

/-! ## Bits (R158), shifts (R159), fields (R160, R161) and saturation (R162) -/

/-- A bitwise word of two sources. -/
theorem bit2_effect {s : State} {x : Ctx} {w : FmtA} (op : Word → Word → Word) (hi : Issues s w.g x)
    (hf : LaneFree s x [srcOf 0 w.a 1, srcOf 1 w.b 1] false) :
    LaneEffect s x false (bit2 s w op) (toReg x w.d.toNat (fun l => op (wordOf (readN s x w.a l)) (wordOf (readN s x w.b l)))) noBit :=
  laneWord_register false _ (fun s x l => op (wordOf (readN s x w.a l)) (wordOf (readN s x w.b l))) hi hf (fun _ => rfl)

/-- A bitwise word of one source. -/
theorem bit1_effect {s : State} {x : Ctx} {w : FmtA} (op : Word → Word) (hi : Issues s w.g x) (hf : LaneFree s x [srcOf 0 w.a 1] false) :
    LaneEffect s x false (bit1 s w op) (toReg x w.d.toNat (fun l => op (wordOf (readN s x w.a l)))) noBit :=
  laneWord_register false _ (fun s x l => op (wordOf (readN s x w.a l))) hi hf (fun _ => rfl)

/-- A shift, or a field extract, of a typed source by a 32-bit one. -/
theorem shiftWord_effect {s : State} {x : Ctx} {w : FmtAX} (op : Nat → Nat → Nat → Nat) (hi : Issues s w.g x)
    (hf : LaneFree s x [srcOf 0 w.a (nTy w.ty.toNat), srcOf 1 w.b 1] false) :
    LaneEffect s x false (shiftWord s w op)
      (toInt x w.ty.toNat w.d.toNat (fun l => op (tyWidth w.ty.toNat) (readTy s x w.a w.ty.toNat l) (readN s x w.b l))) noBit :=
  laneWord_typed false _ _ (fun s x l => op (tyWidth w.ty.toNat) (readTy s x w.a w.ty.toNat l) (readN s x w.b l)) hi hf (fun _ => rfl)

/-- Settles O3: the bit words and the shifts by their shapes, BFI and ISAT by their typed result, BMIX by its one register. -/
theorem bitsShiftsAndFields : Obligations.BitsShiftsAndFields := by
  refine ⟨fun s x w hi => ⟨fun hf => ?two, fun hf => ?one⟩, fun s x w hi => ⟨fun hf => ?shifts, fun hf => ?bfi, fun hf => ?bmix, fun hf => ?isat⟩⟩
  case two =>
    exact ⟨bit2_effect (· &&& ·) hi hf, bit2_effect (· ||| ·) hi hf, bit2_effect (· ^^^ ·) hi hf, bit2_effect (fun a b => a &&& ~~~b) hi hf,
      bit2_effect (fun a b => a.rotateLeft (b.toNat % 32)) hi hf⟩
  case one =>
    exact ⟨bit1_effect (~~~·) hi hf, bit1_effect (fun a => wordOf (popBits a)) hi hf, bit1_effect (fun a => wordOf (clzBits a)) hi hf,
      bit1_effect (fun a => wordOf (ctzBits a)) hi hf, bit1_effect (fun a => wordOf (revBits 32 a.toNat)) hi hf⟩
  case shifts =>
    exact ⟨shiftWord_effect shiftLeft hi hf, shiftWord_effect shiftRight hi hf, shiftWord_effect shiftArith hi hf,
      shiftWord_effect (fun _ a b => bfx w.ty.toNat a b) hi hf⟩
  case bfi =>
    exact laneWord_typed false _ _ (fun s x l => bfi w.ty.toNat (readTy s x w.a w.ty.toNat l) (readN s x w.b l) (readTy s x w.c w.ty.toNat l)) hi hf (fun _ => rfl)
  case bmix =>
    exact laneWord_register false _ (fun s x l => wordOf (bmix (readN s x w.a l) (readN s x w.b l) (readN s x w.c l))) hi hf (fun _ => rfl)
  case isat =>
    exact laneWord_typed false _ _ (fun s x l =>
      intResult w.ty.toNat true (tyVal s x w.a ((if w.md.getLsbD 0 then 2 else 6) + (if w.md.getLsbD 1 then 1 else 0)) l)) hi hf (fun _ => rfl)

end Sys2Proof.Machine

/-! Moves, exchanges, the reduction and the scan (R164 to R169), and the ballot's sum (O5, O53). -/
namespace Sys2Proof.Machine

/-! ## Words that check their own sources (R165, R166) -/

/-- The results of a word past the check of its launch reach the registers. -/
theorem checkedWord_effect {s : State} {gd : BitVec 3} {x : Ctx} {sp : LaneSpec} {srcs : List Src} {q : Bool} {outs : List LaneOut} (kept : List Src)
    (hi : Issues s gd x) (hl : sp.ll = none) (hf : LaneFree s x srcs q) (hc : condLanes x.g (enablesOf x.l) outs = 0) (hg : GoodOuts x outs) :
    LaneEffect s x q (.next (checkedWord s x q (replayEntry s x kept outs) fun t => laneFinish t x sp outs)) (outsSlot outs) (outsBit outs) := by
  have hentry : checkedAt s x q (replayEntry s x kept outs) = afterCheck s x q (replayEntry s x kept outs) := if_pos hc
  have hi' : Issues (afterCheck s x q (replayEntry s x kept outs)) gd x := ⟨hi.cur, hi.wg, hi.grp, hi.launch, hi.act⟩
  have hstep := modGrp_step hi' (fun g => advanceGrp x.c (outs.foldl (writeOut s.nextId) g))
  refine ⟨_, _, _, ?_, replayEntry_recorded s x kept outs, ⟨rfl, hstep.others, hstep.here⟩, laneWrites_fold s.nextId hg⟩
  rw [checkedWord_free hf, hentry]
  simp only [laneFinish, hl, hc]
  rfl

/-- The same of results that are one register of each lane of ACTIVE. -/
theorem checkedWord_register {s : State} {gd : BitVec 3} {x : Ctx} {sp : LaneSpec} {srcs : List Src} {q : Bool} (kept : List Src) (d : Nat)
    (f : State → Ctx → Nat → Word) (hi : Issues s gd x) (hl : sp.ll = none) (hf : LaneFree s x srcs q) :
    LaneEffect s x q (.next (checkedWord s x q (replayEntry s x kept (perLane (fun s x l => outV l d (f s x l)) s x)) fun t =>
      laneFinish t x sp (perLane (fun s x l => outV l d (f s x l)) s x))) (toReg x d (f s x)) noBit := by
  refine (checkedWord_effect kept hi hl hf (condLanes_perLane _ _ _ _ _ fun _ => rfl) (goodOuts_perLane x _ (fun _ => rfl) (fun _ => rfl))).congr
    (fun n l hlt => ?_) (fun n l hlt => ?_)
  all_goals simp only [outsSlot, outsBit, perLane, outOf_perLane _ (fun l => outV_lane l d _) _ _ hlt]
  · rw [← outV_toReg]
    split <;> rfl
  · split <;> rfl

/-- MOVS delivers the four bytes of the window, whose registers hold no poison. -/
theorem execMovs_effect {s : State} {x : Ctx} {w : FmtA} (hi : Issues s w.g x) (hf : LaneFree s x [srcOf 0 w.a 1] false)
    (hclean : maskOf (fun l => hasLane x.act l && hasLane x.g.counted l && ((movsRegs s x w l).find? (fun n => (getV x.g n l).poison)).isSome) = 0) :
    LaneEffect s x false (execMovs w s) (toReg x w.d.toNat (fun l => wordOf (movsVal s x w l))) noBit := by
  rw [execMovs, withCtx_next hi, withSources_reads _ hf.clean]
  dsimp only
  rw [if_pos hclean]
  exact checkedWord_register _ _ (fun s x l => wordOf (movsVal s x w l)) hi rfl hf

/-- An exchange delivers what the source lanes, none of them poisoned, give. -/
theorem exchWord_effect {s : State} {x : Ctx} {w : FmtA} (withB : Bool) (src : State → Ctx → Nat → Nat) (hi : Issues s w.g x)
    (hf : LaneFree s x (if withB then [srcOf 1 w.b 1] else []) true) (hclean : exchClean x w.a (src s x)) :
    LaneEffect s x true (exchWord s w withB src) (toReg x w.d.toNat (fun l => exchVal x w.a (src s x l))) noBit := by
  unfold exchClean at hclean
  rw [exchWord, withCtx_next hi, withSources_reads _ hf.clean]
  dsimp only
  rw [if_pos hclean]
  exact checkedWord_register _ _ (fun s x l => exchVal x w.a (src s x l)) hi rfl hf

/-! ## WRLN (R167) -/

/-- What lane `t` takes in register `d` from its senders, in ascending order. -/
def sentOut (t d : Nat) (v : Nat → Word) (senders : List Nat) : LaneOut :=
  match senders.reverse with
  | [] => outNone t
  | k :: _ => outV t d (v k)

section
variable (t d : Nat) (v : Nat → Word) (senders : List Nat)

theorem sentOut_eq : sentOut t d v senders = match senders.getLast? with | none => outNone t | some k => outV t d (v k) := by
  rw [sentOut, List.getLast?_eq_head?_reverse]
  cases senders.reverse <;> rfl

theorem sentOut_lane : (sentOut t d v senders).lane = t := by rw [sentOut_eq]; split <;> rfl
theorem sentOut_bad : (sentOut t d v senders).bad = [] := by rw [sentOut_eq]; split <;> rfl
theorem sentOut_conds : (sentOut t d v senders).conds = 0 := by rw [sentOut_eq]; split <;> rfl
theorem outBit_sentOut (n : Nat) : outBit (sentOut t d v senders) n = none := by rw [sentOut_eq]; split <;> rfl

theorem lastV_sentOut (n : Nat) : lastV (sentOut t d v senders) n = if n = d then senders.getLast?.map v else none := by
  rw [sentOut_eq]
  cases senders.getLast? with
  | none => rw [Option.map_none, ite_self]; rfl
  | some k => rw [lastV_outV, Option.map_some]

end

/-- WRLN delivers to each lane the value of its highest sender. -/
theorem execWrln_effect {s : State} {x : Ctx} {w : FmtA} (hi : Issues s w.g x) (hf : LaneFree s x [srcOf 0 w.a 1, srcOf 1 w.b 1] true) :
    LaneEffect s x true (execWrln w s) (fun n t =>
      if hasLane x.act t && n == w.d.toNat then
        (((lanesOf x.act).filter (fun k => readN s x w.b k % 16 == t)).getLast?).map (fun k => (getV x.g w.a.code.toNat k).val)
      else none) noBit := by
  refine laneWord_plain (fun s x t => sentOut t w.d.toNat (fun k => (getV x.g w.a.code.toNat k).val)
    ((lanesOf x.act).filter (fun k => readN s x w.b k % 16 == t))) _ _ true hi hf (fun _ => rfl) (fun _ => sentOut_lane ..) (fun _ => sentOut_bad ..)
    (fun _ => sentOut_conds ..) (fun n t => ?_) (fun n t => ?_)
  · rw [lastV_sentOut]
    cases hasLane x.act t <;> simp
  · rw [outBit_sentOut, ite_self]; rfl

/-! ## Running values (R169) -/

/-- Values combined from left to right; 0 where there is none. -/
def foldVals (op : Nat → Nat → Nat) : List Nat → Nat
  | [] => 0
  | v :: r => r.foldl op v

section
variable (op : Nat → Nat → Nat) (v : Nat → Nat)

/-- Of ascending lanes behind a first one, those up to one of them begin with the first. -/
theorem filter_le_cons_of_lt {a l : Nat} {r : List Nat} (h : a < l) : (a :: r).filter (fun k => decide (k ≤ l)) = a :: r.filter (fun k => decide (k ≤ l)) :=
  List.filter_cons_of_pos (decide_eq_true (Nat.le_of_lt h))

theorem filter_le_self {a : Nat} {r : List Nat} (h : ∀ l ∈ r, a < l) : (a :: r).filter (fun k => decide (k ≤ a)) = [a] := by
  have hnone : r.filter (fun k => decide (k ≤ a)) = [] := List.filter_eq_nil_iff.2 fun l hl => by simpa using h l hl
  rw [List.filter_cons, if_pos (decide_eq_true (Nat.le_refl a)), hnone]

/-- The running values over ascending lanes, from a value that stands. -/
theorem runScan_some {ls : List Nat} (h : ls.Pairwise (· < ·)) (a : Nat) :
    runScan op (some a) (ls.map (fun l => (l, v l))) = ls.map (fun l => (l, ((ls.filter (fun k => decide (k ≤ l))).map v).foldl op a)) := by
  induction ls generalizing a with
  | nil => rfl
  | cons b r ih =>
    obtain ⟨hlt, hr⟩ := List.pairwise_cons.1 h
    rw [List.map_cons, runScan, ih hr, List.map_cons, filter_le_self hlt]
    exact congrArg _ (List.map_congr_left fun l hl => by rw [filter_le_cons_of_lt (hlt l hl)]; rfl)

/-- The running values over ascending lanes: each lane's are those up to it, combined. -/
theorem runScan_none {ls : List Nat} (h : ls.Pairwise (· < ·)) :
    runScan op none (ls.map (fun l => (l, v l))) = ls.map (fun l => (l, foldVals op ((ls.filter (fun k => decide (k ≤ l))).map v))) := by
  cases ls with
  | nil => rfl
  | cons b r =>
    obtain ⟨hlt, hr⟩ := List.pairwise_cons.1 h
    rw [List.map_cons, runScan, runScan_some op v hr, List.map_cons, filter_le_self hlt]
    exact congrArg _ (List.map_congr_left fun l hl => by rw [filter_le_cons_of_lt (hlt l hl)]; rfl)

end

theorem lanesOf_pairwise (m : LMask) : (lanesOf m).Pairwise (· < ·) := List.Pairwise.filter _ List.pairwise_lt_range

/-- The combined values of the lanes of ACTIVE up to lane `l`. -/
def valsUpTo (s : State) (x : Ctx) (w : FmtAX) (l : Nat) : Nat :=
  foldVals (redOp w.ty.toNat w.md.toNat w.rnd.toNat) (((lanesOf x.act).filter (fun k => decide (k ≤ l))).map (redSrc s x w))

theorem scanVals_eq (s : State) (x : Ctx) (w : FmtAX) : scanVals s x w = (lanesOf x.act).map (fun l => (l, valsUpTo s x w l)) :=
  runScan_none _ _ (lanesOf_pairwise x.act)

/-- The last lane's value is that of all lanes. -/
theorem valsUpTo_last {s : State} {x : Ctx} {w : FmtAX} {r : List Nat} {m : Nat} (h : lanesOf x.act = r ++ [m]) :
    valsUpTo s x w m = valsUpTo s x w 15 := by
  have hall : ∀ n, (∀ k ∈ lanesOf x.act, k ≤ n) → (lanesOf x.act).filter (fun k => decide (k ≤ n)) = lanesOf x.act := fun n hn =>
    List.filter_eq_self.2 fun k hk => decide_eq_true (hn k hk)
  have hlast : ∀ k ∈ lanesOf x.act, k ≤ m := by
    have hpair := lanesOf_pairwise x.act
    rw [h, List.pairwise_append] at hpair
    intro k hk
    rw [h, List.mem_append, List.mem_singleton] at hk
    rcases hk with hr | rfl
    · exact Nat.le_of_lt (hpair.2.2 k hr m (List.mem_singleton_self m))
    · exact Nat.le_refl k
  rw [valsUpTo, valsUpTo, hall m hlast, hall 15 fun k hk => Nat.le_of_lt_succ (lanesOf_lt hk)]

/-- The last running value, where there is a lane, is that of all lanes. -/
theorem scanVals_reverse (s : State) (x : Ctx) (w : FmtAX) :
    (lanesOf x.act = [] ∧ scanVals s x w = []) ∨ ∃ m r, (scanVals s x w).reverse = (m, valsUpTo s x w 15) :: r := by
  rw [scanVals_eq]
  rcases List.eq_nil_or_concat' (lanesOf x.act) with h | ⟨r, m, h⟩
  · exact .inl ⟨h, by rw [h]; rfl⟩
  · refine .inr ⟨m, (r.map (fun l => (l, valsUpTo s x w l))).reverse, ?_⟩
    rw [← valsUpTo_last h, h]
    simp

/-! ## GSCN and GRED -/

theorem redOut_lane (ty l d y : Nat) : (redOut ty l d y).lane = l := by unfold redOut; split <;> simp
theorem redOut_bad (ty l d y : Nat) : (redOut ty l d y).bad = [] := by unfold redOut; split <;> simp
theorem redOut_conds (ty l d y : Nat) : (redOut ty l d y).conds = 0 := by unfold redOut; split <;> simp
theorem outBit_redOut (ty l d y n : Nat) : outBit (redOut ty l d y) n = none := by unfold redOut; split <;> simp

theorem lastV_redOut (x : Ctx) (ty d n l : Nat) (f : Nat → Nat) :
    (if hasLane x.act l then lastV (redOut ty l d (f l)) n else none) = (if tyInt ty then toInt x ty d f else toFlt x ty d f) n l := by
  unfold redOut
  cases tyInt ty
  case true => exact lastV_outInt x ty d n l f
  case false => exact lastV_outFlt x ty d n l f

/-- A reduction's or scan's lanes each write a result of its type. -/
theorem redWord_effect {s : State} {x : Ctx} {w : FmtAX} (f : State → Ctx → Nat → Nat) (hi : Issues s w.g x)
    (hf : LaneFree s x [srcOf 0 w.a (nTy w.ty.toNat)] true) (hb : Blind s (f · x)) :
    LaneEffect s x true (laneWord s (crossSpec w.g [srcOf 0 w.a (nTy w.ty.toNat)]) (perLane fun s x l => redOut w.ty.toNat l w.d.toNat (f s x l)))
      (if tyInt w.ty.toNat then toInt x w.ty.toNat w.d.toNat (f s x) else toFlt x w.ty.toNat w.d.toNat (f s x)) noBit := by
  refine laneWord_plain _ _ _ true hi hf (fun k => ?_) (fun _ => redOut_lane ..) (fun _ => redOut_bad ..) (fun _ => redOut_conds ..)
    (fun n l => lastV_redOut x w.ty.toNat w.d.toNat n l (f s x)) (fun n l => ?_)
  · funext l; exact congrArg (fun r : Nat → Nat => redOut w.ty.toNat l w.d.toNat (r l)) (hb k)
  · rw [outBit_redOut, ite_self]; rfl

theorem execGscn_eq (w : FmtAX) (s : State) : execGscn w s
    = laneWord s (crossSpec w.g [srcOf 0 w.a (nTy w.ty.toNat)]) (perLane fun s x l => redOut w.ty.toNat l w.d.toNat (valsUpTo s x w l)) := by
  unfold execGscn
  congr 1
  funext s x
  rw [scanVals_eq, List.map_map]
  rfl

theorem execGred_eq (w : FmtAX) (s : State) : execGred w s
    = laneWord s (crossSpec w.g [srcOf 0 w.a (nTy w.ty.toNat)]) (perLane fun s x l => redOut w.ty.toNat l w.d.toNat (valsUpTo s x w 15)) := by
  unfold execGred
  congr 1
  funext s x
  rcases scanVals_reverse s x w with ⟨hlanes, hvals⟩ | ⟨m, r, hvals⟩
  · rw [hvals, perLane, hlanes]; rfl
  · rw [hvals]; rfl

/-! ## The statements -/

/-- Settles O5: a move by its one register, an exchange by its source lane, WRLN by its highest sender, the scan and the reduction by
their running values. -/
theorem movesAndExchanges : Obligations.MovesAndExchanges := by
  refine ⟨fun s x w hi => ⟨fun hf => ⟨?mov, execMovs_effect hi hf⟩, fun hf => exchWord_effect false (fun _ _ l => Nat.xor l (w.b.code.toNat % 4)) hi hf,
    fun hf => ?exchanges, fun hf => execWrln_effect hi hf⟩, fun s x w hi hf => ?movi, fun s x w hi hf => ⟨?gscn, ?gred⟩⟩
  case mov => exact laneWord_register false _ (fun s x l => wordOf (readN s x w.a l)) hi hf (fun _ => rfl)
  case exchanges =>
    have exch := fun (src : State → Ctx → Nat → Nat) => exchWord_effect true src hi hf
    exact ⟨exch (fun s x l => 4 * (l / 4) + readUN s x w.b % 4), exch (fun s x l => (((l : Int) + toSigned 32 (readUN s x w.b)) % 16).toNat),
      exch (fun s x _ => readUN s x w.b % 16), exch (fun s x l => readN s x w.b l % 16)⟩
  case movi => exact laneWord_register false _ (fun _ _ _ => wordOfInt (toSigned 16 w.imm.toNat)) hi hf (fun _ => rfl)
  case gscn =>
    rw [exec, execGscn_eq]
    exact redWord_effect (fun s x l => valsUpTo s x w l) hi hf (fun _ => rfl)
  case gred =>
    rw [exec, execGred_eq]
    exact redWord_effect (fun s x _ => valsUpTo s x w 15) hi hf (fun _ => rfl)

/-! ## BALLOT (R168) -/

/-- Bits added one by one, where they hold. -/
theorem foldl_bits_eq_sumBits (f : Nat → Bool) (n : Nat) : (List.range n).foldl (fun k m => if f m then k + 2 ^ m else k) 0 = sumBits f n := by
  induction n with
  | zero => rfl
  | succ n ih =>
    rw [List.range_succ, List.foldl_append, ih, sumBits_succ, List.foldl_cons, List.foldl_nil]
    split <;> rfl

theorem maskOf_toNat (f : Nat → Bool) : (maskOf f).toNat = sumBits f 16 := Nat.mod_eq_of_lt (sumBits_lt f 16)

/-- Settles O53: the encoding by its row, the operands by the legal forms, and the sum by the mask of the lanes that hold. -/
theorem ballotSumsItsLanes : Obligations.BallotSumsItsLanes := by
  refine fun w => ⟨⟨_, rfl⟩, fun vc vw hwf => ?operands, fun s x hi hf => ?sum⟩
  case operands =>
    obtain ⟨-, -, hsub⟩ := wellFormed_parts hwf
    obtain ⟨hda, hb⟩ := List.append_eq_nil_iff.1 hsub
    exact ⟨of_ifNil hb, of_ifNil (List.append_eq_nil_iff.1 hda).2⟩
  case sum =>
    rw [foldl_bits_eq_sumBits]
    refine ⟨?_, sumBits_lt _ 16⟩
    rw [← maskOf_toNat]
    exact laneWord_register true _ (fun _ x _ => wordOf (holdLanes x w.a).toNat) hi hf (fun _ => rfl)

end Sys2Proof.Machine

/-! Parts and tests of a value, packed words and FDOT4 (R173 to R176): each lane's result where no enabled condition is met (O8, O9). -/
namespace Sys2Proof.Machine

/-! ## Floating-point words by what their lanes write -/

section
variable {s : State} {x : Ctx} {w : FmtAX} {srcs : List Src} {f : State → Ctx → Nat → LaneOut} {c : Nat → BitVec 5} {a b k : Nat → Nat}

/-- A floating-point word whose lanes show their conditions and sources writes its lanes' results where no enabled condition is met. -/
theorem fltWord_effect {out : Nat → LaneOut} {v : Nat → Nat → Option Word} {p : Nat → Nat → Option Bool} (hi : Issues s w.g x)
    (hf : LaneFree s x srcs false) (hn : NoneMet x c) (hb : Blind s (f · x)) (h : ∀ l, f s x l = withOps (out l) (c l) (a l) (b l) (k l))
    (hlane : ∀ l, (out l).lane = l) (hbad : ∀ l, (out l).bad = [])
    (hv : ∀ n l, (if hasLane x.act l then lastV (out l) n else none) = v n l)
    (hp : ∀ n l, (if hasLane x.act l then outBit (out l) n else none) = p n l) :
    LaneEffect s x false (laneWord s (fltSpec w srcs false) (perLane f)) v p :=
  laneWord_flt (sp := fltSpec w srcs false) f c hi rfl rfl hf hn hb (fun l => by rw [h, withOps_conds]) (fun l => by rw [h, withOps_lane, hlane])
    (fun l => by rw [h, withOps_bad, hbad]) (fun n l => by rw [h, lastV_withOps, hv]) (fun n l => by rw [h, outBit_withOps, hp])

theorem fltWord_float {ty : Nat} {y : Nat → Nat} (hi : Issues s w.g x) (hf : LaneFree s x srcs false) (hn : NoneMet x c) (hb : Blind s (f · x))
    (h : ∀ l, f s x l = withOps (outFlt ty l w.d.toNat (y l)) (c l) (a l) (b l) (k l)) :
    LaneEffect s x false (laneWord s (fltSpec w srcs false) (perLane f)) (toFlt x ty w.d.toNat y) noBit :=
  fltWord_effect hi hf hn hb h (fun _ => outFlt_lane ..) (fun _ => outFlt_bad ..) (fun n l => lastV_outFlt x ty w.d.toNat n l y)
    (fun n l => by simp [noBit])

theorem fltWord_integer {ty : Nat} {y : Nat → Nat} (hi : Issues s w.g x) (hf : LaneFree s x srcs false) (hn : NoneMet x c) (hb : Blind s (f · x))
    (h : ∀ l, f s x l = withOps (outInt ty l w.d.toNat (y l)) (c l) (a l) (b l) (k l)) :
    LaneEffect s x false (laneWord s (fltSpec w srcs false) (perLane f)) (toInt x ty w.d.toNat y) noBit :=
  fltWord_effect hi hf hn hb h (fun _ => outInt_lane ..) (fun _ => outInt_bad ..) (fun n l => lastV_outInt x ty w.d.toNat n l y)
    (fun n l => by simp [noBit])

theorem fltWord_register {y : Nat → Word} (hi : Issues s w.g x) (hf : LaneFree s x srcs false) (hn : NoneMet x c) (hb : Blind s (f · x))
    (h : ∀ l, f s x l = withOps (outV l w.d.toNat (y l)) (c l) (a l) (b l) (k l)) :
    LaneEffect s x false (laneWord s (fltSpec w srcs false) (perLane f)) (toReg x w.d.toNat y) noBit :=
  fltWord_effect hi hf hn hb h (fun _ => outV_lane ..) (fun _ => outV_bad ..) (fun n l => outV_toReg x w.d.toNat n l y) (fun n l => by simp [noBit])

theorem fltWord_predicate {y : Nat → Bool} (hi : Issues s w.g x) (hf : LaneFree s x srcs false) (hn : NoneMet x c) (hb : Blind s (f · x))
    (h : ∀ l, f s x l = withOps (outP l w.d.toNat (y l)) (c l) (a l) (b l) (k l)) :
    LaneEffect s x false (laneWord s (fltSpec w srcs false) (perLane f)) noSlot (toPred x w.d.toNat y) :=
  fltWord_effect hi hf hn hb h (fun _ => outP_lane ..) (fun _ => outP_bad ..) (fun n l => by simp [noSlot]) (fun n l => outP_toPred x w.d.toNat n l y)

end

/-! ## Parts and tests (R173, R174) -/

/-- Settles O8: FSCL, FXTR and FCLS by their words, a short form as the long one at f32; FCMP by the predicate its lanes write. -/
theorem floatPartsAndTests : Obligations.FloatPartsAndTests := by
  refine ⟨fun s x w hi => ⟨sclWord_effect (w := axOf w 10) hi, xtrWord_effect (w := axOf w 10) hi, clsWord_effect (w := axOf w 10) hi⟩,
    fun s x w hi => ⟨sclWord_effect hi, xtrWord_effect hi, clsWord_effect hi, ?fcmp⟩⟩
  case fcmp =>
    intro ty A B hf hn
    exact fltWord_predicate hi hf hn (fun _ => rfl) (fun _ => rfl)

/-! ## Packed words (R175) -/

/-- One half of a packed word, by the values of its sources' halves. -/
theorem pkHalf_map (w : FmtAX) (op : Nat → Nat → Bool → List FVal → FOut) (flds : List Fld) (read : Fld → Nat) (h : Nat) :
    let half := flds.map (fun f => fDecode w.ty.toNat (read f / 2 ^ (16 * h) % 2 ^ 16))
    let o := op w.ty.toNat w.rnd.toNat w.sat ((List.range flds.length).map (fun i => modVal w i (half.getD i fOne)))
    pkHalf w op (flds.map read) h = (o.bits, condOf w.ty.toNat o half) := by
  simp only [pkHalf, List.map_map, List.length_map, Function.comp_def]

/-- A packed word delivers both halves' results in one register. -/
theorem pkWord_effect {s : State} {x : Ctx} {w : FmtAX} (flds : List Fld) (op : Nat → Nat → Bool → List FVal → FOut) (hi : Issues s w.g x) :
    FltPacked s x w (pkWord s w flds op) flds op := by
  unfold FltPacked
  intro ty half r hf hn
  unfold pkWord
  simp only [pkHalf_map]
  exact fltWord_register hi hf hn (fun _ => rfl) (fun _ => rfl)

/-! ## FDOT4 (R176) -/

theorem execFdot4_effect {s : State} {x : Ctx} {w : FmtAX} (hi : Issues s w.g x) :
    let sty := w.sty.toNat
    let n := if sty = 8 ∨ sty = 9 then 2 else 1
    let raw := fun (f : Fld) l => pairVal (regWord x.g f.code 0 l) (if sty = 8 ∨ sty = 9 then regWord x.g f.code 1 l else 0)
    let A := fun l i => dotElem sty (raw w.a l) i
    let B := fun l i => dotElem sty (raw w.b l) i
    let C := fun l => fDecode 10 (readFlt x w.c 10 l)
    let prod := fun l i => exMul (modVal w 0 (A l i)) (modVal w 1 (B l i))
    let srcs := fun l => [A l 0, A l 1, A l 2, A l 3, B l 0, B l 1, B l 2, B l 3, C l]
    let bad := fun l => [prod l 0, prod l 1, prod l 2, prod l 3].any Prod.snd
    let sum := fun l => exactSum w.rnd.toNat [(prod l 0).1, (prod l 1).1, (prod l 2).1, (prod l 3).1, modVal w 2 (C l)]
    let r := fun l => if bad l then deliver 10 w.rnd.toNat w.sat .nan true false
      else deliver 10 w.rnd.toNat w.sat (sum l).1 ((sum l).2 || (srcs l).any fIsSnan) false
    LaneFree s x [srcOf 0 w.a n, srcOf 1 w.b n, srcOf 2 w.c 1] false → NoneMet x (fun l => condOf 10 (r l) (srcs l)) →
    LaneEffect s x false (execFdot4 w s) (toReg x w.d.toNat (fun l => wordOf (r l).bits)) noBit := by
  intro sty n raw A B C prod srcs bad sum r hf hn
  unfold execFdot4
  simp only [Bool.or_eq_true, beq_iff_eq, fdot4_delivered]
  exact fltWord_register hi hf hn (fun _ => rfl) (fun _ => rfl)

/-- Settles O9: the packed words by their halves, a short form as the long one at f16; FDOT4 by its one rounded sum. -/
theorem packedAndDotProducts : Obligations.PackedAndDotProducts :=
  ⟨fun _ _ w hi => ⟨pkWord_effect (w := axOf w 8) [w.a, w.b] pkAdd hi, pkWord_effect (w := axOf w 8) [w.a, w.b] pkMul hi⟩,
    fun _ _ w hi => ⟨pkWord_effect [w.a, w.b] pkAdd hi, pkWord_effect [w.a, w.b] pkMul hi, pkWord_effect [w.a, w.b, w.c] pkFma hi, execFdot4_effect hi⟩⟩

end Sys2Proof.Machine

/-! Conversions and palette products (R177 to R180): CVT and CVTI by their typed results, CVTM by the registers of its block, TMV by
the rows of its matrix (O10). -/
namespace Sys2Proof.Machine

/-! ## Runs of registers -/

/-- The result of a lane whose last write is to register `k`. -/
theorem lastV_concat {o : LaneOut} {r : List (Nat × Word)} {k : Nat} {y : Word} (h : o.v = r ++ [(k, y)]) (n : Nat) :
    lastV o n = if n = k then some y else lastV { o with v := r } n := by
  rw [lastV, lastV, h, List.reverse_append, List.reverse_singleton, List.singleton_append, List.find?_cons]
  by_cases hn : n = k
  · simp [hn]
  · simp [hn, beq_eq_false_iff_ne.2 (Ne.symm hn)]

/-- The result of a lane that writes `m` registers from `d` on. -/
theorem lastV_run (d : Nat) (f : Nat → Word) (n : Nat) {m : Nat} {o : LaneOut} (h : o.v = (List.range m).map (fun i => (d + i, f i))) :
    lastV o n = if d ≤ n ∧ n < d + m then some (f (n - d)) else none := by
  induction m generalizing o with
  | zero =>
    rw [List.range_zero, List.map_nil] at h
    rw [lastV, h, if_neg (by omega)]
    rfl
  | succ m ih =>
    rw [List.range_succ, List.map_append, List.map_singleton] at h
    rw [lastV_concat h, ih rfl]
    by_cases hn : n = d + m
    · rw [if_pos hn, if_pos (by omega), hn, Nat.add_sub_cancel_left]
    · exact (if_neg hn).trans (if_congr (by omega) rfl rfl)

/-- The result of a lane that writes `m` registers from `d` on, and `y` to the one behind them. -/
theorem lastV_block (d m : Nat) (f : Nat → Word) (y : Word) (n : Nat) {o : LaneOut}
    (h : o.v = (List.range m).map (fun i => (d + i, f i)) ++ [(d + m, y)]) :
    lastV o n = if n < d then none else if n < d + m then some (f (n - d)) else if n = d + m then some y else none := by
  rw [lastV_concat h, lastV_run d f n rfl]
  rcases Nat.lt_trichotomy n (d + m) with hn | hn | hn
  · by_cases hlow : n < d
    · rw [if_neg (by omega), if_neg (by omega), if_pos hlow]
    · rw [if_neg (by omega), if_pos (by omega), if_neg hlow, if_pos hn]
  · rw [if_pos hn, if_neg (by omega), if_neg (by omega), if_pos hn]
  · rw [if_neg (by omega), if_neg (by omega), if_neg (by omega), if_neg (by omega), if_neg (by omega)]

/-! ## CVT and CVTI (R177, R178) -/

section
variable {s : State} {x : Ctx} {w : FmtAX} (hi : Issues s w.g x)
include hi

theorem execCvt_effect :
    let ty := w.ty.toNat
    let sty := w.sty.toNat
    let k := w.md.toNat % 8
    let A := fun l => fDecode sty (if w.md.toNat / 8 = 2 then readPk x w.a sty l / 2 ^ (elemBits sty * k) % 2 ^ elemBits sty else readFlt x w.a sty l)
    let r := fun l => fCvt ty w.rnd.toNat w.sat (modVal w 0 (A l))
    let old := fun l => (getV x.g w.d.toNat l).val.toNat
    NoneMet x (fun l => condOf ty { r l with inv := (r l).inv || fIsSnan (A l) } [A l]) →
      (w.md.toNat / 8 ≠ 3 → LaneFree s x [srcOf 0 w.a (if w.md.toNat / 8 = 2 then 1 else nTy sty)] false →
        LaneEffect s x false (execCvt w s) (toFlt x ty w.d.toNat (fun l => (r l).bits)) noBit)
      ∧ (w.md.toNat / 8 = 3 → LaneFree s x [srcOf 0 w.a (nTy sty), { which := 3, code := BitVec.ofNat 8 w.d.toNat, n := 1 }] false →
        LaneEffect s x false (execCvt w s) (toReg x w.d.toNat (fun l =>
          wordOf (old l - old l / 2 ^ (elemBits ty * k) % 2 ^ elemBits ty * 2 ^ (elemBits ty * k) + (r l).bits * 2 ^ (elemBits ty * k)))) noBit) := by
  intro ty sty k A r old hn
  refine ⟨fun hinto hf => ?_, fun hinto hf => ?_⟩
  · have hform : (w.md.toNat / 8 == 3) = false := beq_eq_false_iff_ne.2 hinto
    unfold execCvt
    simp only [hform, beq_iff_eq, Bool.false_eq_true, if_false]
    exact fltWord_float hi hf hn (fun _ => rfl) (fun _ => rfl)
  · have hform : (w.md.toNat / 8 == 3) = true := beq_iff_eq.2 hinto
    have hsrc : (if w.md.toNat / 8 = 2 then 1 else nTy sty) = nTy sty := if_neg (by omega)
    rw [← hsrc] at hf
    unfold execCvt
    simp only [hform, beq_iff_eq, if_true]
    exact fltWord_register hi hf hn (fun _ => rfl) (fun _ => rfl)

theorem execCvti_effect :
    let ty := w.ty.toNat
    let sty := w.sty.toNat
    let v := fun l => fDecode sty (readFlt x w.a sty l)
    let I := fun l => fToInt ty w.rnd.toNat (modVal w 0 (v l))
    let F := fun l => deliver ty w.rnd.toNat w.sat (exOfInt (intVal sty (readTy s x w.a sty l))) false false
    LaneFree s x [srcOf 0 w.a (nTy sty)] false →
      (tyInt ty = true → NoneMet x (fun l => condBits ((I l).2 || fIsSnan (v l)) false false false (fNonFinite (v l))) →
        LaneEffect s x false (execCvti w s) (toInt x ty w.d.toNat (fun l => wrapNat (tyWidth ty) (I l).1)) noBit)
      ∧ (tyInt ty = false → NoneMet x (fun l => condOf ty (F l) []) →
        LaneEffect s x false (execCvti w s) (toFlt x ty w.d.toNat (fun l => (F l).bits)) noBit) := by
  intro ty sty v I F hf
  refine ⟨fun hty hn => ?_, fun hty hn => ?_⟩
  all_goals
    unfold execCvti
    simp only [show tyInt w.ty.toNat = _ from hty, if_true, Bool.false_eq_true, if_false]
  · exact fltWord_integer hi hf hn (fun _ => rfl) (fun _ => rfl)
  · exact fltWord_float hi hf hn (fun _ => rfl) (fun _ => rfl)

end

/-! ## CVTM (R179) -/

theorem condBits_or : ∀ a b c d : Bool, condBits a false false false b ||| condBits c false false false d = condBits (a || c) false false false (b || d) := by
  decide

/-- The conditions of all values of a block, together. -/
theorem foldl_condBits (p q : FVal → Bool) (vs : List FVal) (c : Bool × Bool) :
    vs.foldl (fun c v => c ||| condBits (p v) false false false (q v)) (condBits c.1 false false false c.2)
      = condBits (c.1 || vs.any p) false false false (c.2 || vs.any q) := by
  induction vs generalizing c with
  | nil => simp
  | cons v r ih => rw [List.foldl_cons, condBits_or, ih (c.1 || p v, c.2 || q v), List.any_cons, List.any_cons, Bool.or_assoc, Bool.or_assoc]

/-- CVTM delivers the block's elements, and its scale in the register behind them. -/
theorem execCvtm_effect {s : State} {x : Ctx} {w : FmtAX} (hi : Issues s w.g x) :
    let sty := w.sty.toNat
    let fmt := mxFmt w.ty.toNat
    let per := if fmt = 2 then 8 else 4
    let vs := fun l => (List.range 32).map (fun i => fDecode sty (cvtmSrc x w l i))
    let q := fun l => mxQuant fmt w.rnd.toNat (vs l)
    let slot := fun l j => (List.range per).foldl (fun r i => r + (q l).2.getD (per * j + i) 0 * 2 ^ ((if fmt = 2 then 4 else 8) * i)) 0
    LaneFree s x [srcOf 0 w.a (if sty = 10 then 32 else 16)] false →
    NoneMet x (fun l => condBits ((vs l).any fIsNan) false false false ((vs l).any fNonFinite)) →
    LaneEffect s x false (execCvtm w s) (fun n l =>
      if hasLane x.act l = false ∨ n < w.d.toNat then none
      else if n < w.d.toNat + 32 / per then some (wordOf (slot l (n - w.d.toNat)))
      else if n = w.d.toNat + 32 / per then some (wordOf (q l).1) else none) noBit := by
  intro sty fmt per vs q slot hf hn
  have hconds : ∀ l, condBits ((vs l).any fIsNan) false false false ((vs l).any fNonFinite)
      = (vs l).foldl (fun c v => c ||| condBits (fIsNan v) false false false (fNonFinite v)) 0 := fun l =>
    ((foldl_condBits fIsNan fNonFinite (vs l) (false, false)).trans (by rw [Bool.false_or, Bool.false_or])).symm
  simp only [hconds] at hn
  unfold execCvtm
  simp only [List.map_map]
  refine fltWord_effect hi hf hn (fun _ => rfl) (fun _ => rfl) (fun _ => rfl) (fun _ => rfl) (fun n l => ?_) (fun n l => ite_self _)
  rw [lastV_block w.d.toNat (32 / per) (fun j => wordOf (slot l j)) (wordOf (q l).1) n rfl]
  cases hasLane x.act l <;> simp

/-! ## TMV (R180) -/

/-- A word that nothing sends back issues, or does nothing with ACTIVE empty; numbers of free values taken with it change nothing else. -/
theorem LongWord.issues_taking {s : State} {x : Ctx} {fs : Bool} {srcs : List Src} {o : Host.Outcome State Fault Refusal} {v v' : Nat → Nat → Option Word}
    {wtype : Nat} {c : Nat → BitVec 5} {carry : List LaneOut → Prop} (h : LongWord s x fs srcs o v wtype c carry) (hfree : LongFree s x fs srcs)
    (hfirst : FirstIssue x) (hv : v = v') (n : Nat) :
    ∃ t, andThen o (fun t => { t with freeCtr := t.freeCtr + n }) = .next { t with freeCtr := s.freeCtr + n } ∧ Idle s x (.next t)
      ∧ (x.act ≠ 0 → LaneIssued s x false fs (.next t) v' wtype carry) := by
  subst hv
  obtain ⟨hidle, hgo⟩ := h hfree
  by_cases hact : x.act = 0
  · obtain ⟨t, g, rfl, hstep, hmoves⟩ := hidle hact
    have hctr : t.freeCtr = s.freeCtr := by rw [hstep.rest]
    exact ⟨t, by rw [andThen_next, hctr], fun _ => ⟨t, g, rfl, hstep, hmoves⟩, fun hne => absurd hact hne⟩
  · have hissues : x.c.replay = false ∨ (heldTwin x (enablesOf x.l) = none ∧ ¬Meets x c) := by
      refine hfirst.imp_right fun hen => ⟨by simp [heldTwin, hen], ?_⟩
      rintro ⟨l, -, -, -, hmet⟩
      exact hmet (hen.symm ▸ BitVec.and_zero)
    have hissued := (hgo hact).1 hissues
    obtain ⟨t, g, k, e, rfl, hrec, hrest, hend⟩ := hissued
    have hctr : t.freeCtr = s.freeCtr := by rw [hrest]
    exact ⟨t, by rw [andThen_next, hctr], fun h0 => absurd h0 hact, fun _ => ⟨t, g, k, e, rfl, hrec, hrest, hend⟩⟩

/-- A row of TMV's matrix: each step's accumulator is the rounded product-sum of the step before. -/
theorem foldl_tmvStep_acc (ty : Nat) (en : BitVec 5) (i : Nat) {m y z : Nat → Nat} {js : List Nat} (hy : ∀ j ∈ js, y j = z j) {a : TmvAcc} {o : FOut}
    (h : a.acc = o.bits) :
    (js.foldl (fun a j => tmvStep ty en i j (m j) (y j) a) a).acc
      = (js.foldl (fun o j => fFma 10 0 false (fDecode ty (m j)) (fDecode ty (z j)) (fDecode 10 o.bits)) o).bits := by
  induction js generalizing a o with
  | nil => exact h
  | cons j r ih =>
    refine ih (fun k hk => hy k (List.mem_cons_of_mem j hk)) ?_
    simp only [tmvStep, h, hy j List.mem_cons_self]

/-- An element of a string with no poisoned byte is not poisoned. -/
theorem palElem_clean (ty k : Nat) {bs : List (Byte × Bool)} (h : ∀ e ∈ bs, e.2 = false) : (palElem ty bs k).2 = false := by
  simp only [palElem, anyBad, List.any_eq_false]
  intro e he
  rw [h e (List.mem_of_mem_drop (List.mem_of_mem_take he))]
  exact Bool.false_ne_true

/-- TMV issues with the rows of its matrix, none of whose bytes is poisoned, times the lane's vector. -/
theorem tmvWord_issued {s : State} {x : Ctx} {w : FmtAX} (m n : Nat) (hi : Issues s w.g x) :
    let ty := w.ty.toNat
    let size := tyWidth ty / 8
    let mat := fun l => palRead s x (readN s x w.b l / 4 * 4) (m * n * size)
    let elem := fun l j => if ty = 10 then (regWord x.g w.a.code j l).toNat
      else (regWord x.g w.a.code (j / 2) l).toNat / 2 ^ (16 * (j % 2)) % 2 ^ 16
    let row := fun l i => ((List.range n).foldl (fun a j => fFma 10 0 false (fDecode ty (palElem ty (mat l) (i * n + j)).1) (fDecode ty (elem l j)) (fDecode 10 a.bits))
      ({ bits := 0, inv := false, dvz := false, ovf := false } : FOut)).bits
    LongFree s x w.fs [srcOf 0 w.a (if ty = 10 then n else (n + 1) / 2), srcOf 1 w.b 1] → FirstIssue x →
    (∀ l e, hasLane x.act l = true → e ∈ mat l → e.2 = false) →
    ∃ t, tmvWord s w m n = .next { t with freeCtr := s.freeCtr + 256 } ∧ Idle s x (.next t) ∧ (x.act ≠ 0 →
      LaneIssued s x false w.fs (.next t) (fun k l =>
        if hasLane x.act l = true ∧ w.d.toNat ≤ k ∧ k < w.d.toNat + m then some (wordOf (row l (k - w.d.toNat))) else none)
        (wtypeOf w) (fun _ => True)) := by
  intro ty size mat elem row hfree hfirst hclean
  refine (laneWord_long (sp := fltSpec w [srcOf 0 w.a (if ty = 10 then n else (n + 1) / 2), srcOf 1 w.b 1] true) _ _ hi rfl rfl (fun _ => rfl) (fun _ => rfl)
    (fun _ => rfl) (fun _ _ => rfl) trivial).issues_taking hfree hfirst ?_ 256
  funext k l
  cases hact : hasLane x.act l
  · simp
  · rw [if_pos rfl, lastV_withOps]
    refine (lastV_run w.d.toNat (fun i => wordOf (row l i)) k (m := m) (List.map_congr_left fun i hi => ?_)).trans (by simp)
    have hbad : (List.range n).any (fun j =>
        (palElem w.ty.toNat (palRead s x (readN s x w.b l / 4 * 4) (m * n * (tyWidth w.ty.toNat / 8))) (i * n + j)).2) = false :=
      List.any_eq_false.2 fun j _ => Bool.eq_false_iff.1 (palElem_clean w.ty.toNat _ (fun e he => hclean l e hact he))
    have hacc := foldl_tmvStep_acc ty (enablesOf x.l) i (m := fun j => (palElem ty (mat l) (i * n + j)).1)
      (y := fun j => ((List.range n).map (elem l)).getD j 0) (z := elem l) (js := List.range n)
      (fun j hj => by simp [List.getD_eq_getElem?_getD, List.mem_range.1 hj]) (a := { acc := 0, conds := 0, hit := none })
      (o := { bits := 0, inv := false, dvz := false, ovf := false }) rfl
    simp only [List.getElem?_map, List.getElem?_range (List.mem_range.1 hi), Option.map_some, hbad]
    exact congrArg (fun y => (w.d.toNat + i, wordOf y)) hacc

/-! ## The statement -/

/-- Settles O10: CVT and CVTI by their typed results, CVTM by its block, TMV by its rows; its short form is the long one at f16, 16 by 16. -/
theorem conversionsAndPaletteProducts : Obligations.ConversionsAndPaletteProducts :=
  ⟨fun _ _ w hi => tmvWord_issued (w := axOf w 8) 16 16 hi,
    fun _ _ w hi => ⟨tmvWord_issued (tmvM w) (tmvN w) hi, execCvt_effect hi, execCvti_effect hi, execCvtm_effect hi⟩⟩

end Sys2Proof.Machine

/-! Scalar words (R181 to R185): once for the group, each writes its scalar, its pair, or the sticky bits (O11, O12). -/
namespace Sys2Proof.Machine

/-! ## The shell of a scalar word (R181) -/

section
variable {s : State} {g : BitVec 3} {x : Ctx} {srcs : List Src} (f : State → Ctx → Group → Group) (hi : Issues s g x)
include hi

theorem sclIssue_idle (hact : x.act = 0) : ∃ t h, sclIssue s g srcs f = .next t ∧ GroupStep s t x h ∧ OnlyMoves x h := by
  rw [sclIssue, withCtx_next hi, if_pos hact]
  exact ⟨_, _, rfl, advance_step hi⟩

theorem sclIssue_acts (hact : x.act ≠ 0) (hr : Reads x srcs x.act) :
    ∃ t, sclIssue s g srcs f = .next t ∧ GroupStep s t x (advanceGrp x.c (f s x x.g)) := by
  rw [sclIssue, withCtx_next hi, if_neg hact, withSources_reads _ hr]
  exact ⟨_, rfl, modGrp_step hi (fun grp => advanceGrp x.c (f s x grp))⟩

/-- A scalar word does nothing with ACTIVE empty, else what it makes of the group. -/
theorem sclIssue_effect {v : Nat → Option Word} (hw : SclWrites x (advanceGrp x.c (f s x x.g)) v) : SclEffect s x srcs (sclIssue s g srcs f) v :=
  ⟨sclIssue_idle f hi, fun hact hr =>
    have ⟨t, hexec, hstep⟩ := sclIssue_acts f hi hact hr
    ⟨t, _, hexec, hstep, hw⟩⟩

end

/-- A word that only writes the pair `d`, `d` + 1 and goes on. -/
theorem putSPair_advanceGrp_writes (x : Ctx) (d y : Nat) : SclWrites x (advanceGrp x.c (putSPair x.g d y)) (toSPair d y) where
  rest := by rw [advanceGrp_frame]; rfl
  on := ⟨x.g.quads, rfl, advanceGrp_again x.c (putSPair x.g d y)⟩
  slots := fun n => by
    rw [advanceGrp_frame]
    change getS (putSSlot (putSSlot x.g d _) (d + 1) _) n = _
    rw [getS_putSSlot, getS_putSSlot, toSPair]
    by_cases hn : n = d
    · rw [if_neg (by omega), if_pos hn, if_pos hn]; rfl
    · rw [if_neg hn, if_neg hn]
      split <;> rfl

/-- A result of an integer type is one scalar or a pair (R144). -/
theorem putScl_advanceGrp_writes (x : Ctx) (ty d y : Nat) : SclWrites x (advanceGrp x.c (putScl ty d y x.g)) (toSTy ty d y) := by
  unfold putScl toSTy
  split
  · exact putSPair_advanceGrp_writes x d y
  · exact putS_advanceGrp_writes x d (wordOf y)

/-- A scalar word that writes `y` to scalar `d`. -/
theorem sclIssue_putS {s : State} {g : BitVec 3} {x : Ctx} {srcs : List Src} (d : Nat) (y : State → Ctx → Word) (hi : Issues s g x) :
    SclEffect s x srcs (sclIssue s g srcs fun s x h => putS h d (y s x)) (toS d (y s x)) :=
  sclIssue_effect _ hi (putS_advanceGrp_writes x d (y s x))

/-- A scalar word that writes `y`, of an integer type, to scalar `d` or its pair. -/
theorem sclIssue_putScl {s : State} {g : BitVec 3} {x : Ctx} {srcs : List Src} (ty d : Nat) (y : State → Ctx → Nat) (hi : Issues s g x) :
    SclEffect s x srcs (sclIssue s g srcs fun s x h => putScl ty d (y s x) h) (toSTy ty d (y s x)) :=
  sclIssue_effect _ hi (putScl_advanceGrp_writes x ty d (y s x))

/-! ## Scalar arithmetic, bits, shifts and moves (R182, R183) -/

theorem sclBin_effect {s : State} {x : Ctx} {w : FmtAX} {op' : Int → Int → Int} (op : Int → Int → Int) (hi : Issues s w.g x) (hop : ∀ a b, op a b = op' a b) :
    SclEffect s x (srcs2 w) (sclBin s w op) (toSInt w (op' (tyVal s x w.a w.ty.toNat 0) (tyVal s x w.b w.ty.toNat 0))) := by
  refine sclIssue_effect _ hi ?_
  rw [← hop]
  unfold toSInt
  dsimp only
  split
  · exact putSPair_advanceGrp_writes x _ _
  · exact putScl_advanceGrp_writes x _ _ _

theorem sclShift_effect {s : State} {x : Ctx} {w : FmtAX} (op : Nat → Nat → Nat → Nat) (hi : Issues s w.g x) :
    SclEffect s x [srcOf 0 w.a (nTy w.ty.toNat), srcOf 1 w.b 1] (sclShift s w op)
      (toSTy w.ty.toNat w.d.toNat (op (tyWidth w.ty.toNat) (readTy s x w.a w.ty.toNat 0) (readN s x w.b 0))) :=
  sclIssue_putScl _ _ (fun s x => op (tyWidth w.ty.toNat) (readTy s x w.a w.ty.toNat 0) (readN s x w.b 0)) hi

theorem sclBit_effect {s : State} {x : Ctx} {w : FmtA} (op : Word → Word → Word) (hi : Issues s w.g x) :
    SclEffect s x [srcOf 0 w.a 1, srcOf 1 w.b 1] (sclBit s w op) (toS w.d.toNat (op (wordOf (readUN s x w.a)) (wordOf (readUN s x w.b)))) :=
  sclIssue_putS _ (fun s x => op (wordOf (readUN s x w.a)) (wordOf (readUN s x w.b))) hi

theorem sclMove_effect {s : State} {x : Ctx} {w : FmtAX} (hi : Issues s w.g x) :
    SclEffect s x [srcOf 0 w.a (nTy w.ty.toNat)] (sclMove s w) (toSTy w.ty.toNat w.d.toNat (readTy s x w.a w.ty.toNat 0)) :=
  sclIssue_putScl _ _ (fun s x => readTy s x w.a w.ty.toNat 0) hi

/-- SSEL delivers b where c is zero, else a. -/
theorem execSsel_effect {s : State} {x : Ctx} {w : FmtAX} (hi : Issues s w.g x) :
    SclEffect s x (srcs2 w ++ [srcOf 2 w.c 1]) (execSsel w s)
      (toSTy w.ty.toNat w.d.toNat (readTy s x (if readUN s x w.c = 0 then w.b else w.a) w.ty.toNat 0)) := by
  have hpick : (if readUN s x w.c != 0 then w.a else w.b) = if readUN s x w.c = 0 then w.b else w.a := by
    by_cases hc : readUN s x w.c = 0 <;> simp [hc]
  rw [← hpick]
  exact sclIssue_putScl _ _ (fun s x => readTy s x (if readUN s x w.c != 0 then w.a else w.b) w.ty.toNat 0) hi

/-- Settles O11: each word by its shape, its short form as the long one at i32; SCMP, SSEL and SMOVI by the scalar they write. -/
theorem scalarWords : Obligations.ScalarWords := by
  have hmin := lesser_eq_min
  have hmax := fun a b : Int => (max_def_lt a b).symm
  refine ⟨fun s x w hi => ?short, fun s x w hi => ?long, fun s x w hi => sclIssue_putS _ (fun _ _ => wordOfInt (toSigned 16 w.imm.toNat)) hi⟩
  case short =>
    have hx : Issues s (axOf w 2).g x := hi
    have same := fun (op : Int → Int → Int) => sclBin_effect op hx (fun _ _ => rfl)
    exact ⟨same (· + ·), same (· - ·), same (· * ·), sclBin_effect (fun a b => if b < a then b else a) hx hmin,
      sclBin_effect (fun a b => if a < b then b else a) hx hmax, sclBit_effect (· &&& ·) hi, sclBit_effect (· ||| ·) hi, sclBit_effect (· ^^^ ·) hi,
      sclShift_effect shiftLeft hx, sclShift_effect shiftRight hx, sclShift_effect shiftArith hx, sclMove_effect hx⟩
  case long =>
    have same := fun (op : Int → Int → Int) => sclBin_effect op hi (fun _ _ => rfl)
    exact ⟨same (· + ·), same (· - ·), same (· * ·), sclBin_effect (fun a b => if b < a then b else a) hi hmin,
      sclBin_effect (fun a b => if a < b then b else a) hi hmax, sclShift_effect shiftLeft hi, sclShift_effect shiftRight hi, sclShift_effect shiftArith hi,
      sclIssue_putS _ (fun s x => if iCond w.md.toNat (tyVal s x w.a w.ty.toNat 0) (tyVal s x w.b w.ty.toNat 0) then 1 else 0) hi,
      execSsel_effect hi, sclMove_effect hi⟩

/-! ## SLDC (R184) -/

section
variable {s : State} {x : Ctx} {w : FmtA} (hi : Issues s w.g x)
include hi

/-- SLDC of clean bytes is a scalar word that writes them. -/
theorem execSldc_clean (h : ∀ e ∈ palRead s x ((readUN s x w.a + readUN s x w.b) % 2 ^ 32 / 4 * 4) 4, e.2 = false) :
    SclEffect s x [srcOf 0 w.a 1, srcOf 1 w.b 1] (execSldc w s)
      (toS w.d.toNat (wordOf (bytesToNat ((palRead s x ((readUN s x w.a + readUN s x w.b) % 2 ^ 32 / 4 * 4) 4).map Prod.fst)))) := by
  have hgood : anyBad (palRead s x ((readUN s x w.a + readUN s x w.b) % 2 ^ 32 / 4 * 4) 4) = false :=
    List.any_eq_false.2 fun e he => Bool.eq_false_iff.1 (h e he)
  rw [execSldc, withCtx_next hi]
  refine ⟨fun hact => ?_, fun hact hr => ?_⟩
  · rw [if_pos hact]
    exact ⟨_, _, rfl, advance_step hi⟩
  · rw [if_neg hact, withSources_reads _ hr]
    simp only [hgood, Bool.false_eq_true, if_false]
    exact ⟨_, _, rfl, modGrp_step hi _, putS_advanceGrp_writes x w.d.toNat _⟩

/-- SLDC of a poisoned byte poisons its scalar, whose value is free (R72). -/
theorem execSldc_poisoned (h : ∃ e ∈ palRead s x ((readUN s x w.a + readUN s x w.b) % 2 ^ 32 / 4 * 4) 4, e.2 = true) (hact : x.act ≠ 0)
    (hr : Reads x [srcOf 0 w.a 1, srcOf 1 w.b 1] x.act) :
    ∃ t g, execSldc w s = .next { t with freeCtr := s.freeCtr + 1 } ∧ GroupStep s t x g
      ∧ g = { x.g with s := g.s, quads := g.quads } ∧ GoesOn x g ∧ (getS g w.d.toNat).poison = true ∧ ∀ n, n ≠ w.d.toNat → getS g n = getS x.g n := by
  have hbad : anyBad (palRead s x ((readUN s x w.a + readUN s x w.b) % 2 ^ 32 / 4 * 4) 4) = true := List.any_eq_true.2 h
  let y : Slot := { val := Config.freeWord s.freeCtr, poison := true }
  have hread : ∀ n, getS (advanceGrp x.c (putSSlot x.g w.d.toNat y)) n = if n = w.d.toNat then y else getS x.g n := fun n => by
    rw [advanceGrp_frame]
    exact getS_putSSlot x.g w.d.toNat n y
  refine ⟨modGrp s x.c.wg x.c.grp (fun g => advanceGrp x.c (putSSlot g w.d.toNat y)), _, ?_, modGrp_step hi _, ?_, ?_, ?_, fun n hn => ?_⟩
  · rw [execSldc, withCtx_next hi, if_neg hact, withSources_reads _ hr]
    simp only [hbad, if_true]
    rfl
  · rw [advanceGrp_frame]; rfl
  · exact ⟨x.g.quads, rfl, advanceGrp_again x.c (putSSlot x.g w.d.toNat y)⟩
  · rw [hread, if_pos rfl]
  · rw [hread, if_neg hn]

end

/-- Settles O12: SLDC by its bytes, SRD by the scalar it writes, SWR by the sticky bits it sets. -/
theorem paletteScalarAndSystemRegisters : Obligations.PaletteScalarAndSystemRegisters := by
  refine ⟨fun s x w hi => ⟨execSldc_clean hi, execSldc_poisoned hi⟩,
    fun s x w hi => ⟨sclIssue_putS _ (fun s x => sysReg s x w.imm.toNat) hi, fun hact hr => ?swr⟩⟩
  case swr =>
    obtain ⟨t, hexec, hstep⟩ := sclIssue_acts (fun _ _ g => { g with oob := BitVec.ofNat 16 (getS g w.d.toNat).val.toNat }) hi hact hr
    exact ⟨t, _, hexec, hstep, rfl⟩

end Sys2Proof.Machine

/-! The completion of a lane word (R154): its results, its flag, and what stands behind it (O17). -/
namespace Sys2Proof.Machine

/-- The end of a held word moves the sequencers of a group and nothing else. -/
theorem releaseHold_frame (g : Group) : releaseHold g = { g with quads := (releaseHold g).quads } := by
  rw [releaseHold, settle_frame]

/-- The group once operation `o` has written its results, with `later` still standing. -/
def lanesWritten (g : Group) (o : Op) (later : List Op) : Group :=
  releaseHold (o.outs.foldl (writeOut o.id) { flagDrop g o with ops := later })

section
variable {g : Group} {o : Op} {later : List Op}

/-- The results of a word change vector slots, predicates, its flag and the sequencers. -/
theorem lanesWritten_frame : ∃ v p q, lanesWritten g o later = { g with v := v, p := p, f := (flagDrop g o).f, ops := later, quads := q } := by
  have hdrop : { flagDrop g o with ops := later } = { g with f := (flagDrop g o).f, ops := later } := by rw [flagDrop_frame]
  obtain ⟨v, p, q, hfold⟩ := foldOut_frame o.id o.outs { g with f := (flagDrop g o).f, ops := later }
  rw [lanesWritten, hdrop, hfold]
  exact ⟨v, p, _, releaseHold_frame _⟩

section
variable (hlt : ∀ k ∈ o.outs, k.lane < 16) (hone : o.outs.Pairwise (fun a b => a.lane ≠ b.lane))
include hlt hone

theorem getV_lanesWritten (hclean : ∀ k ∈ o.outs, k.bad = []) (n : Nat) {k : Nat} (hk : k < 16) :
    getV (lanesWritten g o later) n k = ((outsSlot o.outs n k).map (fun y => ({ val := y, poison := false } : Slot))).getD (getV g n k) := by
  have hread : getV (lanesWritten g o later) n k = getV (o.outs.foldl (writeOut o.id) { flagDrop g o with ops := later }) n k := by
    rw [lanesWritten, releaseHold_frame]; rfl
  have hold : getV { flagDrop g o with ops := later } n k = getV g n k := by rw [flagDrop_frame]; rfl
  rw [hread, getV_foldOut _ _ _ _ _ hk hlt hone, hold, outsSlot]
  cases hout : outOf o.outs k with
  | none => rfl
  | some a =>
    have hbad : a.bad = [] := hclean a (List.mem_of_find?_eq_some hout)
    simp only [Option.bind_some, outSlot, lastV, Option.map_map, hbad]
    rfl

theorem getP_lanesWritten {n k : Nat} (hn : n < 7) (hk : k < 16) : getP (lanesWritten g o later) n k = (outsBit o.outs n k).getD (getP g n k) := by
  have hread : getP (lanesWritten g o later) n k = getP (o.outs.foldl (writeOut o.id) { flagDrop g o with ops := later }) n k := by
    rw [lanesWritten, releaseHold_frame]; rfl
  have hold : getP { flagDrop g o with ops := later } n k = getP g n k := by rw [flagDrop_frame]; rfl
  rw [hread, getP_foldOut _ _ _ _ _ hk hn hlt hone, hold, outsBit]

end
end

/-- LANE_WORD_COMPLETE of the word that stands in front, with no enabled condition met, writes its results. -/
theorem execLaneWordComplete_writes {s : State} {w : Workgroup} {l : Launch} {g : Group} {o : Op} {later : List Op} (hw : findWg s s.arg.a = some w)
    (hl : findLaunch s w.launch = some l) (hg : w.groups[s.arg.b]? = some g) (hops : g.ops = o :: later)
    (hname : Names s o) (hkind : o.kind = .laneWord ∨ o.kind = .crd) (houts : o.outs ≠ [])
    (hm : o.kind = .laneWord → condLanes g (enablesOf l) o.outs = 0) :
    exec .laneWordComplete s = .next (modGrp s s.arg.a s.arg.b (fun h => lanesWritten h o (h.ops.filter (fun p => p.id != o.id)))) := by
  have hfind : g.ops.find? (fun o => o.id == s.arg.c && (o.kind == .laneWord || o.kind == .crd) && !o.outs.isEmpty) = some o := by
    rw [hops, List.find?_cons_of_pos]
    rcases hkind with hk | hk <;> simp [hk, houts, show s.arg.c = o.id from hname]
  have hfree : (o.kind == .laneWord && condLanes g (enablesOf l) o.outs != 0) = false := by
    rcases hkind with hk | hk
    · simp [hm hk]
    · simp [hk]
  rw [exec, execLaneWordComplete]
  simp only [hw, hg, hl, hfind, hfree, Bool.false_eq_true, if_false]
  rfl

/-- Settles O17: the event writes the results of the word in front, by what its group then holds, register by register. -/
theorem laneWordsComplete : Obligations.LaneWordsComplete := by
  intro s w l g o later hw hl hfront hname hkind houts hm hout hone
  obtain ⟨hgrp, hops, hothers⟩ := hfront
  have hg : w.groups[s.arg.b]? = some g := by rw [findGrp, hw] at hgrp; exact hgrp
  have hlater : g.ops.filter (fun p => p.id != o.id) = later := by
    rw [hops, List.filter_cons, if_neg (by simp)]
    exact List.filter_eq_self.2 fun k hk => bne_iff_ne.2 (hothers k hk).1
  have hlt := fun k hk => (hout k hk).1
  refine ⟨_, lanesWritten g o later, execLaneWordComplete_writes hw hl hg hops hname hkind houts hm, rfl,
    fun id hid => findWg_modGrp_other s _ _ _ hid, ?found, ?frame, fun n => ?flag, fun n k hk => getV_lanesWritten hlt hone (fun k hk => (hout k hk).2) n hk,
    fun n k hn hk => getP_lanesWritten hlt hone hn hk⟩
  case found => rw [findGrp_modGrp_same, hgrp, Option.map_some, hlater]
  all_goals obtain ⟨v, p, q, hwritten⟩ := lanesWritten_frame (g := g) (o := o) (later := later)
  case frame => rw [hwritten]
  case flag => rw [hwritten]; rfl

end Sys2Proof.Machine

/-! The pieces of a memory operation in front of its group: where they write, and what performing them leaves (R192, R205, R208, R292). -/
namespace Sys2Proof.Machine

/-! ## A write at a place -/

/-- A place in device memory or a window lies at no peer. -/
theorem memByte_locWrite_out {a : Acc} {bs : List Byte} {p : Nat} (s : State) (h : ¬covers a bs.length p) :
    memByte (locWrite s a.loc bs) p = memByte s p := by
  cases hloc : a.loc with
  | global pa => exact memByte_memWrite_out s pa p bs fun hin => h ⟨pa, hloc, hin.1, hin.2⟩
  | canvas v b => rfl
  | peer k pa => rfl

theorem memByte_locWrite_in (s : State) (pa k : Nat) {bs : List Byte} (hk : k < bs.length) :
    some (memByte (locWrite s (.global pa) bs) (pa + k)) = bs[k]? := by
  rw [List.getElem?_eq_getElem hk]
  exact congrArg some (memByte_memWrite_in s pa k bs _ (List.getElem?_eq_getElem hk))

theorem winWrite_id (w : Workgroup) (boff : Nat) (bs : List Byte) : (winWrite w boff bs).id = w.id := by
  unfold winWrite; split <;> rfl

theorem winWrite_win (w : Workgroup) (boff : Nat) (bs : List Byte) : (winWrite w boff bs).win = smPutList w.win boff bs 0 := by
  unfold winWrite
  split
  · next h => subst h; rfl
  · rfl

theorem findWg_locWrite_canvas (s : State) (v b : Nat) (bs : List Byte) :
    findWg (locWrite s (.canvas v b) bs) v = (findWg s v).map (fun w => winWrite w b bs) :=
  findWg_modWg_same s v (fun w => winWrite w b bs) fun w => winWrite_id w b bs

theorem findWg_locWrite_other (s : State) {l : Loc} {id : Nat} (bs : List Byte) (h : ∀ b, l ≠ .canvas id b) :
    findWg (locWrite s l bs) id = findWg s id := by
  cases l with
  | global pa => simp [locWrite, findWg]
  | canvas v b =>
    have hv : id ≠ v := fun e => h b (by rw [e])
    exact findWg_modWg_other s v id (fun w => winWrite w b bs) (fun w => winWrite_id w b bs) hv
  | peer k pa => rfl

theorem winByte_locWrite_out {a : Acc} {bs : List Byte} {v b : Nat} (s : State) (h : ¬coversWin a bs.length v b) :
    winByte (locWrite s a.loc bs) v b = winByte s v b := by
  by_cases hloc : ∃ o, a.loc = .canvas v o
  case neg => rw [winByte, findWg_locWrite_other s bs fun o e => hloc ⟨o, e⟩, winByte]
  case pos =>
    obtain ⟨o, hloc⟩ := hloc
    have hout : ¬(o ≤ b ∧ b < o + bs.length) := fun hin => h ⟨o, hloc, hin.1, hin.2⟩
    rw [winByte, hloc, findWg_locWrite_canvas, winByte]
    cases findWg s v with
    | none => rfl
    | some w => simp only [Option.map_some, winWrite_win, smGet_smPutList, if_neg hout]

theorem winByte_locWrite_in (s : State) {v b k : Nat} {bs : List Byte} (hw : (findWg s v).isSome = true) (hk : k < bs.length) :
    some (winByte (locWrite s (.canvas v b) bs) v (b + k)) = bs[k]? := by
  obtain ⟨w, hw⟩ := Option.isSome_iff_exists.1 hw
  have hin : b ≤ b + k ∧ b + k < b + bs.length := ⟨by omega, by omega⟩
  rw [winByte, findWg_locWrite_canvas, hw, Option.map_some]
  simp only [winWrite_win, smGet_smPutList, if_pos hin, Nat.add_sub_cancel_left, List.getD_eq_getElem?_getD, List.getElem?_eq_getElem hk, Option.getD_some]

theorem findWg_locWrite_isSome (s : State) (l : Loc) (bs : List Byte) (id : Nat) : (findWg (locWrite s l bs) id).isSome = (findWg s id).isSome := by
  by_cases h : ∃ b, l = .canvas id b
  case neg => rw [findWg_locWrite_other s bs fun b e => h ⟨b, e⟩]
  case pos =>
    obtain ⟨b, rfl⟩ := h
    rw [findWg_locWrite_canvas, Option.isSome_map]

/-- Only the window of a workgroup changes where a piece is written. -/
theorem findWg_locWrite_keeps (s : State) (l : Loc) (bs : List Byte) {id : Nat} {w : Workgroup} (hw : findWg s id = some w) :
    ∃ v, findWg (locWrite s l bs) id = some v ∧ v.groups = w.groups ∧ v.chk = w.chk := by
  by_cases h : ∃ b, l = .canvas id b
  case neg => exact ⟨w, by rw [findWg_locWrite_other s bs fun b e => h ⟨b, e⟩, hw], rfl, rfl⟩
  case pos =>
    obtain ⟨b, rfl⟩ := h
    refine ⟨winWrite w b bs, by rw [findWg_locWrite_canvas, hw]; rfl, ?_⟩
    unfold winWrite
    split <;> exact ⟨rfl, rfl⟩

/-- A change of a group writes no window. -/
theorem winByte_modGrp (s : State) (wg grp : Nat) (F : Group → Group) (v b : Nat) : winByte (modGrp s wg grp F) v b = winByte s v b := by
  by_cases hv : v = wg
  · subst hv
    rw [winByte, findWg_modGrp_same, winByte]
    cases findWg s v <;> rfl
  · rw [winByte, findWg_modGrp_other s wg grp F hv, winByte]

/-! ## States that hold the same storage -/

/-- Two states hold the same memory and, under each number, the same workgroup. -/
structure Alike (s t : State) : Prop where
  mem : s.mem = t.mem
  poison : s.memPoison = t.memPoison
  wgs : ∀ id, findWg s id = findWg t id

theorem Alike.refl (s : State) : Alike s s := ⟨rfl, rfl, fun _ => rfl⟩

section
variable {s t : State} (h : Alike s t)
include h

theorem Alike.memByte (p : Nat) : memByte s p = Machine.memByte t p := by rw [Machine.memByte, h.mem, Machine.memByte]

theorem Alike.winByte (v b : Nat) : winByte s v b = Machine.winByte t v b := by rw [Machine.winByte, h.wgs, Machine.winByte]

theorem Alike.findGrp (wg grp : Nat) : findGrp s wg grp = Machine.findGrp t wg grp := by rw [Machine.findGrp, h.wgs, Machine.findGrp]

theorem Alike.unchecked {wg : Nat} (hu : Unchecked s wg) : Unchecked t wg := by
  obtain ⟨w, hw, hchk⟩ := hu
  exact ⟨w, by rw [← h.wgs, hw], hchk⟩

theorem Alike.locRead (l : Loc) (n : Nat) : locRead s l n = Machine.locRead t l n := by
  cases l with
  | global pa => simp only [Machine.locRead, memRead, sectorBad, h.memByte, h.poison]
  | canvas v b => simp only [Machine.locRead, h.wgs]
  | peer k pa => rfl

theorem Alike.locWrite (l : Loc) (bs : List Byte) : Alike (locWrite s l bs) (Machine.locWrite t l bs) := by
  refine ⟨?mem, ?poison, fun id => ?wgs⟩
  case mem =>
    cases l with
    | global pa => simp only [Machine.locWrite, memWrite_mem, h.mem]
    | _ => exact h.mem
  case poison =>
    cases l with
    | global pa =>
      show (memWrite s pa bs).memPoison = (memWrite t pa bs).memPoison
      unfold memWrite
      split
      · exact h.poison
      · exact congrArg (poisonAfter · pa bs.length) h.poison
    | _ => exact h.poison
  case wgs =>
    by_cases hl : ∃ b, l = .canvas id b
    · obtain ⟨b, rfl⟩ := hl
      rw [findWg_locWrite_canvas, findWg_locWrite_canvas, h.wgs]
    · rw [findWg_locWrite_other s bs fun b e => hl ⟨b, e⟩, findWg_locWrite_other t bs fun b e => hl ⟨b, e⟩, h.wgs]

end

/-- A workgroup without an interval logs nothing: its canvas write is a plain one. -/
theorem canvasWrite_alike {s : State} {wg : Nat} (hu : Unchecked s wg) (l : Loc) (bs : List Byte) :
    Alike (canvasWrite s wg l bs) (locWrite s l bs) := by
  obtain ⟨w, hw, hchk⟩ := hu
  cases l with
  | global pa => exact .refl _
  | peer k pa => exact .refl _
  | canvas v b =>
    by_cases hv : v = wg
    case neg =>
      simp only [canvasWrite, if_neg hv]
      exact .refl _
    case pos =>
      subst hv
      have hid : ∀ u, (logRow u b bs.length).id = u.id := fun u => by unfold logRow; split <;> rfl
      have hlogged : Alike (modWg s v (fun w => logRow w b bs.length)) s := by
        refine ⟨rfl, rfl, fun id => ?_⟩
        by_cases hsame : id = v
        · subst hsame
          rw [findWg_modWg_same s id _ hid, hw, Option.map_some, logRow, hchk]
        · exact findWg_modWg_other s v id (fun w => logRow w b bs.length) hid hsame
      simp only [canvasWrite, if_true]
      exact hlogged.locWrite _ _

theorem unchecked_locWrite {s : State} {wg : Nat} (hu : Unchecked s wg) (l : Loc) (bs : List Byte) : Unchecked (locWrite s l bs) wg := by
  obtain ⟨w, hw, hchk⟩ := hu
  obtain ⟨v, hv, -, hvchk⟩ := findWg_locWrite_keeps s l bs hw
  exact ⟨v, hv, hvchk.trans hchk⟩

/-! ## The pieces in order -/

/-- A fold over the places of a list that looks each up is a fold over the list with its places. -/
theorem foldl_range_getElem? {α β : Type} (l : List α) {G : β → Nat → β} {F : β → α × Nat → β}
    (h : ∀ b i a, l[i]? = some a → G b i = F b (a, i)) (b : β) : (List.range l.length).foldl G b = l.zipIdx.foldl F b := by
  have hrange : List.range l.length = l.zipIdx.map Prod.snd := by simp [List.range_eq_range']
  rw [hrange, List.foldl_map]
  refine List.foldl_ext _ _ b fun b e he => ?_
  exact h b e.2 e.1 (by simpa [List.mem_zipIdx_iff_getElem?] using he)

/-- Pieces of operation `o` performed one after the other: the state after, and the pieces with what they read. -/
def performList (wg grp : Nat) (o : Op) : State → List Acc → State × List Acc
  | s, [] => (s, [])
  | s, a :: r => ((performList wg grp o (performAcc s wg grp o a).1 r).1, (performAcc s wg grp o a).2 :: (performList wg grp o (performAcc s wg grp o a).1 r).2)

theorem length_performList (wg grp : Nat) (o : Op) (s : State) (l : List Acc) : (performList wg grp o s l).2.length = l.length := by
  induction l generalizing s with
  | nil => rfl
  | cons a r ih => simp [performList, ih]

/-- The group with the operation that stands in front of it replaced. -/
def inPlace (g : Group) (o : Op) (later : List Op) : Group := { g with ops := o :: later }

section
variable {s : State} {wg grp : Nat} {g : Group} {o : Op} {later : List Op}

/-- A change of the operation in front leaves the others. -/
theorem map_inFront (hothers : ∀ k ∈ later, k.id ≠ o.id ∧ opOver k = false) (p : Op) (hp : p.id = o.id) (f : Op → Op) :
    (p :: later).map (fun k => if k.id = o.id then f k else k) = f p :: later := by
  have hlater : later.map (fun k => if k.id = o.id then f k else k) = later := by
    refine (List.map_congr_left fun k hk => ?_).trans (List.map_id _)
    rw [if_neg (hothers k hk).1]; rfl
  rw [List.map_cons, if_pos hp, hlater]

theorem findOp_inFront (h : InFront s wg grp g o later) : findOp s wg grp o.id = some o := by
  simp [findOp, h.group, h.ops]

/-- Nothing stands before the operation in front. -/
theorem performBefore_inFront (h : InFront s wg grp g o later) (n : LMask) : performBefore s wg grp o.id n = s := by
  simp [performBefore, h.group, h.ops, closureGo]

theorem filter_opOver_later (hothers : ∀ k ∈ later, k.id ≠ o.id ∧ opOver k = false) : later.filter opOver = [] :=
  List.filter_eq_nil_iff.2 fun k hk => by simp [(hothers k hk).2]

theorem filter_not_opOver_later (hothers : ∀ k ∈ later, k.id ≠ o.id ∧ opOver k = false) : later.filter (fun k => !opOver k) = later :=
  List.filter_eq_self.2 fun k hk => by simp [(hothers k hk).2]

/-- An operation in front that is over leaves its group, and its flag falls. -/
theorem finishGrp_over (hothers : ∀ k ∈ later, k.id ≠ o.id ∧ opOver k = false) {p : Op} (hp : opOver p = true) (g : Group) :
    finishGrp (inPlace g p later) = { lowerFlag (inPlace g p later) p with ops := later } := by
  rw [finishGrp_eq, inPlace]
  simp only [List.filter_cons, hp, if_true, Bool.not_true, Bool.false_eq_true, if_false, filter_opOver_later hothers, filter_not_opOver_later hothers]
  rfl

/-- One that is not over stays. -/
theorem finishGrp_open (hothers : ∀ k ∈ later, k.id ≠ o.id ∧ opOver k = false) {p : Op} (hp : opOver p = false) (g : Group) :
    finishGrp (inPlace g p later) = inPlace g p later := by
  rw [finishGrp_eq, inPlace]
  simp only [List.filter_cons, hp, Bool.false_eq_true, if_false, Bool.not_false, if_true, filter_opOver_later hothers, filter_not_opOver_later hothers]
  rfl

/-- A group whose operations are none of them over. -/
theorem finishGrp_later (hothers : ∀ k ∈ later, k.id ≠ o.id ∧ opOver k = false) {h : Group} (hops : h.ops = later) : finishGrp h = h := by
  rw [finishGrp_eq, hops, filter_opOver_later hothers, filter_not_opOver_later hothers, ← hops]
  rfl

/-- The first `k` pieces, none at a peer, are performed in their order. -/
theorem performWhere_first (hfind : findOp s wg grp o.id = some o) (hy : NoYield s) (htodo : ∀ a ∈ o.accs, Todo a) (k : Nat) (s0 : State) :
    performWhere (fun i o a => decide (i < k) && !atPeer s0 wg o a) s wg grp o.id
      = modOp (performList wg grp o s (o.accs.take k)).1 wg grp o.id
          (fun p => { p with accs := (performList wg grp o s (o.accs.take k)).2 ++ o.accs.drop k }) := by
  let F := fun (acc : State × List Acc) (e : Acc × Nat) => if decide (e.2 < k) then ((performAcc acc.1 wg grp o e.1).1, acc.2 ++ [(performAcc acc.1 wg grp o e.1).2])
    else (acc.1, acc.2 ++ [e.1])
  have hrun : ∀ (l : List Acc) (n : Nat) (u : State) (pre : List Acc),
      (l.zipIdx n).foldl F (u, pre) = ((performList wg grp o u (l.take (k - n))).1, pre ++ (performList wg grp o u (l.take (k - n))).2 ++ l.drop (k - n)) := by
    intro l
    induction l with
    | nil => intro n u pre; simp [performList]
    | cons a r ih =>
      intro n u pre
      rw [List.zipIdx_cons, List.foldl_cons]
      by_cases hn : n < k
      · have hk : k - n = (k - (n + 1)) + 1 := by omega
        simp only [F, hn, decide_true, if_true]
        rw [ih, hk]
        simp [performList]
      · have hk : k - n = 0 := by omega
        have hk' : k - (n + 1) = 0 := by omega
        simp only [F, hn, decide_false, Bool.false_eq_true, if_false]
        rw [ih, hk, hk']
        simp [performList]
  have hstep : ∀ (acc : State × List Acc) (i : Nat) (a : Acc), o.accs[i]? = some a →
      (if (decide (i < k) && !atPeer s0 wg o a) && a.st == .todo then
        ((performAcc acc.1 wg grp o a).1, acc.2 ++ [(performAcc acc.1 wg grp o a).2]) else (acc.1, acc.2 ++ [a])) = F acc (a, i) := by
    intro acc i a ha
    obtain ⟨hst, hpeer⟩ := htodo a (List.mem_of_getElem? ha)
    simp [F, atPeer, hst, hpeer]
  unfold performWhere
  simp only [hfind, yieldServe_of_noYield _ hy]
  rw [foldl_range_getElem? o.accs (F := F) fun acc i a ha => by simp only [ha]; exact hstep acc i a ha]
  rw [hrun o.accs 0 s []]
  simp

end

/-- Peers send nothing for an operation with no piece at one. -/
theorem takePeer_of_local {o : Op} (h : ∀ a ∈ o.accs, isPeer a.loc = false) (see : Nat → Acc → List Byte → List (Byte × Bool)) (f : Nat → Acc → Bool)
    (bs : List Byte) : takePeer see f o bs = o := by
  have hrun : ∀ (l : List Acc) (n : Nat) (pre : List Acc),
      (l.zipIdx n).foldl (fun (e : List Acc × List Byte) (x : Acc × Nat) => (e.1 ++ [x.1], e.2)) (pre, bs) = (pre ++ l, bs) := by
    intro l
    induction l with
    | nil => intro n pre; simp
    | cons a r ih => intro n pre; rw [List.zipIdx_cons, List.foldl_cons, ih]; simp
  unfold takePeer
  rw [foldl_range_getElem? o.accs (F := fun e x => (e.1 ++ [x.1], e.2))
    fun e i a ha => by simp only [ha, h a (List.mem_of_getElem? ha), Bool.false_and, Bool.false_eq_true, if_false]]
  rw [hrun]
  rfl

/-- With no window of the rods open, an event of accesses is none too many. -/
theorem withYield_of_noYield {s : State} (t : State) (wg grp : Nat) (whole : Bool) (hy : NoYield s) : withYield s t wg grp whole = t := by
  have hall : s.calls.all (fun c => c.yld.isNone) = true := List.all_eq_true.mpr fun c hc => by simp [hy c hc]
  simp only [withYield, hall, if_true]

end Sys2Proof.Machine

/-! Stores (R205, R292): the last piece over a byte gives it its value, and no other byte changes (O15). -/
namespace Sys2Proof.Machine

/-- The writes of pieces one after the other. -/
def writeRun (s : State) (l : List Acc) : State := l.foldl (fun s a => locWrite s a.loc a.data) s

theorem writeRun_cons (s : State) (a : Acc) (l : List Acc) : writeRun s (a :: l) = writeRun (locWrite s a.loc a.data) l := rfl

theorem findWg_writeRun_keeps (l : List Acc) {s : State} {id : Nat} {w : Workgroup} (hw : findWg s id = some w) :
    ∃ v, findWg (writeRun s l) id = some v ∧ v.groups = w.groups := by
  induction l generalizing s w with
  | nil => exact ⟨w, hw, rfl⟩
  | cons a r ih =>
    obtain ⟨v, hv, hgroups, -⟩ := findWg_locWrite_keeps s a.loc a.data hw
    obtain ⟨u, hu, hu'⟩ := ih hv
    exact ⟨u, hu, hu'.trans hgroups⟩

theorem memByte_writeRun_out {l : List Acc} {p : Nat} (s : State) (h : ∀ a ∈ l, ¬covers a a.data.length p) : memByte (writeRun s l) p = memByte s p := by
  induction l generalizing s with
  | nil => rfl
  | cons a r ih => exact (ih (locWrite s a.loc a.data) fun b hb => h b (List.mem_cons_of_mem a hb)).trans (memByte_locWrite_out s (h a List.mem_cons_self))

theorem winByte_writeRun_out {l : List Acc} {v b : Nat} (s : State) (h : ∀ a ∈ l, ¬coversWin a a.data.length v b) :
    winByte (writeRun s l) v b = winByte s v b := by
  induction l generalizing s with
  | nil => rfl
  | cons a r ih => exact (ih (locWrite s a.loc a.data) fun b hb => h b (List.mem_cons_of_mem a hb)).trans (winByte_locWrite_out s (h a List.mem_cons_self))

/-- A byte holds what the last piece over it wrote. -/
theorem memByte_writeRun_last {l : List Acc} {i pa k : Nat} {a : Acc} (s : State) (ha : l[i]? = some a) (hloc : a.loc = .global pa) (hk : k < a.data.length)
    (hlast : ∀ j b, i < j → l[j]? = some b → ¬covers b b.data.length (pa + k)) : some (memByte (writeRun s l) (pa + k)) = a.data[k]? := by
  induction l generalizing s i with
  | nil => simp at ha
  | cons c r ih =>
    cases i with
    | succ i => exact ih (locWrite s c.loc c.data) (by simpa using ha) fun j b hj hb => hlast (j + 1) b (by omega) (by simpa using hb)
    | zero =>
      obtain rfl : c = a := by simpa using ha
      have hrest : ∀ b ∈ r, ¬covers b b.data.length (pa + k) := fun b hb => by
        obtain ⟨j, hj⟩ := List.mem_iff_getElem?.1 hb
        exact hlast (j + 1) b (by omega) (by simpa using hj)
      rw [writeRun_cons, memByte_writeRun_out _ hrest, hloc]
      exact memByte_locWrite_in s pa k hk

theorem winByte_writeRun_last {l : List Acc} {i v wb k : Nat} {a : Acc} {s : State} (hw : (findWg s v).isSome = true) (ha : l[i]? = some a)
    (hloc : a.loc = .canvas v wb) (hk : k < a.data.length)
    (hlast : ∀ j b, i < j → l[j]? = some b → ¬coversWin b b.data.length v (wb + k)) : some (winByte (writeRun s l) v (wb + k)) = a.data[k]? := by
  induction l generalizing s i with
  | nil => simp at ha
  | cons c r ih =>
    cases i with
    | succ i =>
      exact ih (s := locWrite s c.loc c.data) (by rw [findWg_locWrite_isSome, hw]) (by simpa using ha)
        fun j b hj hb => hlast (j + 1) b (by omega) (by simpa using hb)
    | zero =>
      obtain rfl : c = a := by simpa using ha
      have hrest : ∀ b ∈ r, ¬coversWin b b.data.length v (wb + k) := fun b hb => by
        obtain ⟨j, hj⟩ := List.mem_iff_getElem?.1 hb
        exact hlast (j + 1) b (by omega) (by simpa using hj)
      rw [writeRun_cons, winByte_writeRun_out _ hrest, hloc]
      exact winByte_locWrite_in s hw hk

/-- A store of a workgroup without an interval writes its pieces as they stand. -/
theorem performList_store {wg : Nat} (grp : Nat) {o : Op} (hkind : o.kind = .store) (l : List Acc) {s t : State} (h : Alike s t) (hu : Unchecked t wg) :
    Alike (performList wg grp o s l).1 (writeRun t l) ∧ (performList wg grp o s l).2 = l.map (fun a => { a with st := .done }) := by
  induction l generalizing s t with
  | nil => exact ⟨h, rfl⟩
  | cons a r ih =>
    have hus : Unchecked s wg := Alike.unchecked ⟨h.mem.symm, h.poison.symm, fun id => (h.wgs id).symm⟩ hu
    have hacc : performAcc s wg grp o a = (canvasWrite s wg a.loc a.data, { a with st := .done }) := by
      obtain ⟨w, hw, hchk⟩ := hus
      simp [performAcc, buffered, buffers, hw, hchk, hkind]
    have hwrite := canvasWrite_alike hus a.loc a.data
    have hstep := h.locWrite a.loc a.data
    have hboth : Alike (canvasWrite s wg a.loc a.data) (locWrite t a.loc a.data) :=
      ⟨hwrite.mem.trans hstep.mem, hwrite.poison.trans hstep.poison, fun id => (hwrite.wgs id).trans (hstep.wgs id)⟩
    obtain ⟨hrun, haccs⟩ := ih hboth (unchecked_locWrite hu _ _)
    refine ⟨?_, ?_⟩
    · simp only [performList, hacc]; exact hrun
    · simp only [performList, hacc, haccs, List.map_cons]

/-! ## The group once pieces of the operation in front are performed -/

section
variable {s : State} {wg grp : Nat} {g : Group} {o : Op} {later : List Op}

/-- The pieces of operation `id` of a group become `as`. -/
def withAccs (id : Nat) (as : List Acc) (h : Group) : Group := { h with ops := h.ops.map (fun p => if p.id = id then { p with accs := as } else p) }

theorem withAccs_inFront (hops : g.ops = o :: later) (hothers : ∀ k ∈ later, k.id ≠ o.id ∧ opOver k = false) (as : List Acc) :
    withAccs o.id as g = inPlace g { o with accs := as } later := by
  rw [withAccs, hops, map_inFront hothers o rfl, inPlace]

/-- The first `k` pieces of the operation in front are performed, with no access before them. -/
theorem performTo_inFront (h : InFront s wg grp g o later) (hy : NoYield s) (htodo : ∀ a ∈ o.accs, Todo a) (k : Nat) :
    performTo s wg grp o.id k = modGrp (performList wg grp o s (o.accs.take k)).1 wg grp
      (fun h => finishGrp (withAccs o.id ((performList wg grp o s (o.accs.take k)).2 ++ o.accs.drop k) h)) := by
  unfold performTo
  simp only [findOp_inFront h, performBefore_inFront h]
  rw [performWhere_first (findOp_inFront h) hy htodo, modOp, finishOps, modGrp_modGrp]
  rfl

/-- A change that only peers' bytes make changes nothing of a group whose operation in front has no piece at a peer. -/
theorem finishGrp_local (hothers : ∀ k ∈ later, k.id ≠ o.id ∧ opOver k = false) {T : Op → Op}
    (hT : ∀ p, (∀ a ∈ p.accs, isPeer a.loc = false) → T p = p) {p : Op} (hp : p.id = o.id) (hlocal : ∀ a ∈ p.accs, isPeer a.loc = false) :
    let h := finishGrp (inPlace g p later)
    { h with ops := h.ops.map (fun q => if q.id = o.id then T q else q) } = h := by
  intro h
  have hops : h.ops.map (fun q => if q.id = o.id then T q else q) = h.ops := by
    cases hover : opOver p with
    | true =>
      simp only [h, finishGrp_over hothers hover]
      refine (List.map_congr_left fun k hk => ?_).trans (List.map_id _)
      rw [if_neg (hothers k hk).1]; rfl
    | false =>
      simp only [h, finishGrp_open hothers hover, inPlace]
      rw [map_inFront hothers p hp, hT p hlocal]
  rw [hops]

end

/-- A performed piece stays at its place. -/
theorem performAcc_loc (s : State) (wg grp : Nat) (o : Op) (a : Acc) : (performAcc s wg grp o a).2.loc = a.loc := by
  unfold performAcc
  split
  · rfl
  · cases o.kind <;> rfl

theorem performList_locs (wg grp : Nat) (o : Op) (s : State) (l : List Acc) : (performList wg grp o s l).2.map Acc.loc = l.map Acc.loc := by
  induction l generalizing s with
  | nil => rfl
  | cons a r ih => simp only [performList, List.map_cons, performAcc_loc, ih]

section
variable {s : State} {wg grp : Nat} {g : Group} {o : Op} {later : List Op}

/-- The pieces of `o` once its first `k` are performed. -/
def performedAccs (s : State) (wg grp : Nat) (o : Op) (k : Nat) : List Acc := (performList wg grp o s (o.accs.take k)).2 ++ o.accs.drop k

theorem isPeer_performedAccs (htodo : ∀ a ∈ o.accs, Todo a) (k : Nat) : ∀ a ∈ performedAccs s wg grp o k, isPeer a.loc = false := by
  intro a ha
  have hlocs : (performedAccs s wg grp o k).map Acc.loc = o.accs.map Acc.loc := by
    rw [performedAccs, List.map_append, performList_locs, ← List.map_append, List.take_append_drop]
  obtain ⟨b, hb, hloc⟩ := List.mem_map.1 (hlocs ▸ List.mem_map_of_mem ha)
  rw [← hloc]
  exact (htodo b hb).2

/-- The operation in front has its first `k` pieces performed, and its peers have sent nothing. -/
theorem performTo_local (h : InFront s wg grp g o later) (hy : NoYield s) (htodo : ∀ a ∈ o.accs, Todo a) (k : Nat) {T : Op → Op}
    (hT : ∀ p, (∀ a ∈ p.accs, isPeer a.loc = false) → T p = p) :
    ∃ F, modOp (performTo s wg grp o.id k) wg grp o.id T = modGrp (performList wg grp o s (o.accs.take k)).1 wg grp F
      ∧ F g = finishGrp (inPlace g { o with accs := performedAccs s wg grp o k } later) := by
  refine ⟨_, by rw [performTo_inFront h hy htodo, modOp, modGrp_modGrp], ?_⟩
  rw [← performedAccs, withAccs_inFront h.ops h.others]
  exact finishGrp_local h.others hT rfl (isPeer_performedAccs htodo k)

theorem finishGrp_twice (hothers : ∀ k ∈ later, k.id ≠ o.id ∧ opOver k = false) (p : Op) (g : Group) :
    finishGrp (finishGrp (inPlace g p later)) = finishGrp (inPlace g p later) := by
  cases hover : opOver p with
  | true => rw [finishGrp_over hothers hover]; exact finishGrp_later hothers rfl
  | false => rw [finishGrp_open hothers hover, finishGrp_open hothers hover]

theorem find_inFront (h : InFront s wg grp g o later) {id : Nat} (hid : id = o.id) : g.ops.find? (fun p => p.id == id) = some o := by
  rw [h.ops, List.find?_cons_of_pos (by simp [hid])]

end

/-- STORE_PERFORMED of the store in front. -/
theorem execStorePerformed_inFront {s : State} {g : Group} {o : Op} {later : List Op} (h : InFront s s.arg.a s.arg.b g o later) (hname : Names s o)
    (hy : NoYield s) (hkind : o.kind = .store) (hstall : opStalled s s.arg.a g o.id = false) (htodo : ∀ a ∈ o.accs, Todo a) :
    ∃ F, exec .storePerformed s = .next (modGrp (performList s.arg.a s.arg.b o s (o.accs.take s.arg.d)).1 s.arg.a s.arg.b F)
      ∧ F g = finishGrp (inPlace g { o with accs := performedAccs s s.arg.a s.arg.b o s.arg.d } later) := by
  obtain ⟨F, hF, hFg⟩ := performTo_local h hy htodo s.arg.d
    fun p hp => takePeer_of_local hp seePlain (fun i a => decide (i < s.arg.d) && !peerBlocked g o a) []
  refine ⟨fun h => finishGrp (F h), ?_, (congrArg finishGrp hFg).trans (finishGrp_twice h.others _ g)⟩
  show execStorePerformed s = _
  have hgo : (o.kind != .store || opStalled s s.arg.a g o.id) = false := by simp [hkind, hstall]
  simp only [execStorePerformed, h.group, find_inFront h hname, hgo, Bool.false_eq_true, if_false, withYield_of_noYield _ _ _ _ hy]
  rw [hF, finishOps, modGrp_modGrp]

/-- Settles O15: the pieces are written in their order, and the store in front is over with the last of them. -/
theorem storesPerform : Obligations.StoresPerform := by
  intro s g o later hfront hname hy hkind hu hstall htodo
  obtain ⟨F, hexec, hF⟩ := execStorePerformed_inFront hfront hname hy hkind hstall htodo
  obtain ⟨hlike, haccs⟩ := performList_store s.arg.b hkind (o.accs.take s.arg.d) (.refl s) hu
  have hwritten : ∀ v, findGrp (performList s.arg.a s.arg.b o s (o.accs.take s.arg.d)).1 s.arg.a v = findGrp s s.arg.a v := fun v => by
    obtain ⟨w, hw, -⟩ := hu
    obtain ⟨u, hu, hgroups⟩ := findWg_writeRun_keeps (o.accs.take s.arg.d) hw
    rw [hlike.findGrp, findGrp, hu, findGrp, hw, Option.bind_some, Option.bind_some, hgroups]
  have hwin : ∀ v b, winByte (modGrp (performList s.arg.a s.arg.b o s (o.accs.take s.arg.d)).1 s.arg.a s.arg.b F) v b
      = winByte (writeRun s (o.accs.take s.arg.d)) v b :=
    fun v b => (winByte_modGrp _ _ _ F v b).trans (hlike.winByte v b)
  have htake : ∀ {j b}, j < s.arg.d → o.accs[j]? = some b → (o.accs.take s.arg.d)[j]? = some b := fun hj hb => by rw [List.getElem?_take_of_lt hj, hb]
  have hof : ∀ {j b}, (o.accs.take s.arg.d)[j]? = some b → j < s.arg.d ∧ o.accs[j]? = some b := fun {j b} hb => by
    rw [List.getElem?_take] at hb
    split at hb
    · next hj => exact ⟨hj, hb⟩
    · exact absurd hb (by simp)
  have hkeeps := finishGrp_frame (inPlace g { o with accs := performedAccs s s.arg.a s.arg.b o s.arg.d } later)
  refine ⟨_, F g, hexec, by rw [findGrp_modGrp_same, hwritten, hfront.group, Option.map_some], ?_, ?_, ?_,
    fun p hp => (hlike.memByte p).trans (memByte_writeRun_out s hp),
    fun i a pa k ha hi hloc hk hlast => ?_, fun v b hb => (hwin v b).trans (winByte_writeRun_out s hb),
    fun i a v wb k ha hi hloc hv hk hlast => ?_, fun hall => ?finished⟩
  · rw [hF, hkeeps]; rfl
  · rw [hF, hkeeps]; rfl
  · rw [hF, hkeeps]; rfl
  · exact (congrArg some (hlike.memByte _)).trans (memByte_writeRun_last s (htake hi ha) hloc hk fun j b hj hb => hlast j b hj (hof hb).1 (hof hb).2)
  · exact (congrArg some (hwin _ _)).trans (winByte_writeRun_last hv (htake hi ha) hloc hk fun j b hj hb => hlast j b hj (hof hb).1 (hof hb).2)
  case finished =>
    have hover : opOver { o with accs := performedAccs s s.arg.a s.arg.b o s.arg.d } = true := by
      have hdone : ∀ a ∈ performedAccs s s.arg.a s.arg.b o s.arg.d, a.st = .done := fun a ha => by
        rw [performedAccs, haccs, List.drop_eq_nil_of_le hall, List.append_nil] at ha
        obtain ⟨b, -, rfl⟩ := List.mem_map.1 ha
        rfl
      simpa [opOver, hkind] using hdone
    rw [hF, finishGrp_over hfront.others hover]
    refine ⟨rfl, fun n => ?_⟩
    simp only [lowerFlag, hkind]
    cases hflag : o.flag <;> rfl

end Sys2Proof.Machine

/-! Delivery to registers (R192, R200): the slots whose bytes have all come are written, each once. -/
namespace Sys2Proof.Machine

/-- Delivery of a destination slot leaves memory and the windows alone, and changes one register of its group. -/
def placeDst (o : Op) (e : Nat × Nat) (x : Slot) (g : Group) : Group := if o.scalar then putSSlot g (o.dst + e.2) x else writeV g o.id (o.dst + e.2) e.1 x

/-- The register that holds destination slot `e` of an operation. -/
def readDst (o : Op) (g : Group) (e : Nat × Nat) : Slot := if o.scalar then getS g (o.dst + e.2) else getV g (o.dst + e.2) e.1

/-- A destination slot holds what its pieces brought: their value, or poison where a byte of them is poisoned. -/
def Brought (o : Op) (e : Nat × Nat) (x : Slot) : Prop :=
  (anyBad (slotBytes o e.1 e.2) = true → x.poison = true)
    ∧ (anyBad (slotBytes o e.1 e.2) = false → x = { val := slotValue o (slotBytes o e.1 e.2), poison := false })

/-- From `h` to `h'` the destination slots `es` of an operation are written, and no other register. -/
structure Delivers (o : Op) (es : List (Nat × Nat)) (h h' : Group) : Prop where
  rest : h' = { h with v := h'.v, s := h'.s, quads := h'.quads }
  slots : ∀ e ∈ es, Brought o e (readDst o h' e)
  vectors : ∀ n l, l < 16 → (∀ e ∈ es, ¬(n = o.dst + e.2 ∧ l = e.1)) → getV h' n l = getV h n l
  scalars : ∀ n, (∀ e ∈ es, n ≠ o.dst + e.2) → getS h' n = getS h n
  onlyScalars : o.scalar = true → h'.v = h.v
  onlyVectors : o.scalar = false → h'.s = h.s

/-- The same slot of the same registers. -/
def sameDst (o : Op) (e d : Nat × Nat) : Prop := if o.scalar then e.2 = d.2 else e = d

theorem readDst_placeDst_same (o : Op) {e : Nat × Nat} (he : e.1 < 16) (x : Slot) (g : Group) : readDst o (placeDst o e x g) e = x := by
  unfold readDst placeDst
  split
  · simp
  · rw [getV_writeV _ _ _ _ _ _ _ he he]; simp

theorem readDst_placeDst_other {o : Op} {e d : Nat × Nat} (he : e.1 < 16) (hd : d.1 < 16) (h : ¬sameDst o e d) (x : Slot) (g : Group) :
    readDst o (placeDst o e x g) d = readDst o g d := by
  unfold readDst placeDst sameDst at *
  split
  · next hs =>
    rw [if_pos hs] at h
    rw [getS_putSSlot, if_neg fun heq => h (by omega)]
  · next hs =>
    rw [if_neg hs] at h
    rw [getV_writeV _ _ _ _ _ _ _ he hd, if_neg fun heq => h (Prod.ext heq.2.symm (by omega))]

section
variable {s : State} {wg grp : Nat} {o : Op} {e : Nat × Nat}

/-- Delivery of one slot, as the state and as the issuing group see it. -/
theorem writeDst_writes (s : State) (wg grp : Nat) (o : Op) (e : Nat × Nat) :
    ∃ x, Brought o e x ∧ findGrp (writeDst s wg grp o e.1 e.2) wg grp = (findGrp s wg grp).map (placeDst o e x)
      ∧ (writeDst s wg grp o e.1 e.2).mem = s.mem ∧ (writeDst s wg grp o e.1 e.2).memPoison = s.memPoison
      ∧ ∀ v b, winByte (writeDst s wg grp o e.1 e.2) v b = winByte s v b := by
  have hsince : ∀ (u : State) (f : Group → Group), findGrp (modSince u wg grp o.id f) wg grp = (findGrp u wg grp).map f
      ∧ (modSince u wg grp o.id f).mem = u.mem ∧ (modSince u wg grp o.id f).memPoison = u.memPoison
      ∧ ∀ v b, winByte (modSince u wg grp o.id f) v b = winByte u v b := by
    intro u f
    obtain ⟨F, hF, hkeeps⟩ : ∃ F, modSince u wg grp o.id f = modWg u wg F
        ∧ ∀ w, (F w).id = w.id ∧ (F w).groups = modifyAt w.groups grp f ∧ (F w).win = w.win :=
      ⟨_, rfl, fun _ => ⟨rfl, rfl, rfl⟩⟩
    have hid := fun w => (hkeeps w).1
    refine ⟨?_, by rw [hF]; rfl, by rw [hF]; rfl, fun v b => ?_⟩
    · rw [findGrp, hF, findWg_modWg_same u wg F hid, findGrp]
      cases findWg u wg with
      | none => rfl
      | some w => simp only [Option.map_some, Option.bind_some, (hkeeps w).2.1, getElem?_modifyAt_same]
    · by_cases hv : v = wg
      · subst hv
        rw [winByte, hF, findWg_modWg_same u v F hid, winByte]
        cases findWg u v with
        | none => rfl
        | some w => simp only [Option.map_some, (hkeeps w).2.2]
      · rw [winByte, hF, findWg_modWg_other u wg v F hid hv, winByte]
  cases hbad : anyBad (slotBytes o e.1 e.2) with
  | true =>
    refine ⟨{ val := Config.freeWord s.freeCtr, poison := true }, ⟨fun _ => rfl, fun h => absurd h (by rw [hbad]; decide)⟩, ?_⟩
    simp only [writeDst, hbad, if_true]
    exact hsince (freshWord s).2 _
  | false =>
    refine ⟨{ val := slotValue o (slotBytes o e.1 e.2), poison := false }, ⟨fun h => absurd h (by rw [hbad]; decide), fun _ => rfl⟩, ?_⟩
    simp only [writeDst, hbad, Bool.false_eq_true, if_false]
    exact hsince s _

/-- The slots of an operation are delivered one after the other. -/
theorem foldl_writeDst {es : List (Nat × Nat)} (hlanes : ∀ e ∈ es, e.1 < 16) (honce : es.Pairwise fun e d => ¬sameDst o e d) {h : Group}
    (hg : findGrp s wg grp = some h) :
    let t := es.foldl (fun s e => writeDst s wg grp o e.1 e.2) s
    ∃ h', findGrp t wg grp = some h' ∧ Delivers o es h h' ∧ t.mem = s.mem ∧ t.memPoison = s.memPoison ∧ ∀ v b, winByte t v b = winByte s v b := by
  induction es generalizing s h with
  | nil =>
    refine ⟨h, hg, ⟨rfl, fun _ he => absurd he (by simp), fun _ _ _ _ => rfl, fun _ _ => rfl, fun _ => rfl, fun _ => rfl⟩, rfl, rfl, fun _ _ => rfl⟩
  | cons e r ih =>
    obtain ⟨x, hx, hgrp, hmem, hpoison, hwin⟩ := writeDst_writes s wg grp o e
    rw [hg, Option.map_some] at hgrp
    obtain ⟨hhead, htail⟩ := List.pairwise_cons.1 honce
    have he := hlanes e List.mem_cons_self
    obtain ⟨h', hgrp', hdel, hmem', hpoison', hwin'⟩ := ih (fun d hd => hlanes d (List.mem_cons_of_mem e hd)) htail hgrp
    refine ⟨h', hgrp', ⟨?rest, ?slots, fun n l hl hn => ?vectors, fun n hn => ?scalars, fun hs => ?onlyScalars, fun hs => ?onlyVectors⟩,
      hmem'.trans hmem, hpoison'.trans hpoison, fun v b => (hwin' v b).trans (hwin v b)⟩
    case rest =>
      rw [hdel.rest]
      unfold placeDst
      split <;> rfl
    case slots =>
      intro d hd
      rcases List.mem_cons.1 hd with rfl | hd
      · have hkeep : readDst o h' d = readDst o (placeDst o d x h) d := by
          unfold readDst
          split
          · next hs => exact hdel.scalars _ fun c hc heq => hhead c hc (by rw [sameDst, if_pos hs]; omega)
          · next hs => exact hdel.vectors _ _ he fun c hc heq => hhead c hc (by rw [sameDst, if_neg hs]; exact Prod.ext heq.2 (by omega))
        rw [hkeep, readDst_placeDst_same o he]
        exact hx
      · exact hdel.slots d hd
    case vectors =>
      rw [hdel.vectors n l hl fun c hc => hn c (List.mem_cons_of_mem e hc)]
      unfold placeDst
      split
      · rfl
      · rw [getV_writeV _ _ _ _ _ _ _ he hl, if_neg (hn e List.mem_cons_self)]
    case scalars =>
      rw [hdel.scalars n fun c hc => hn c (List.mem_cons_of_mem e hc)]
      unfold placeDst
      split
      · rw [getS_putSSlot, if_neg (hn e List.mem_cons_self)]
      · rfl
    case onlyScalars => rw [hdel.onlyScalars hs, placeDst, if_pos hs]; rfl
    case onlyVectors => rw [hdel.onlyVectors hs, placeDst, if_neg (by simp [hs])]; rfl

end

/-! ## The pieces that reach the core -/

/-- The operation whose performed pieces chosen by `f` have reached the core. -/
def reached (f : Acc → Bool) (o : Op) : Op := { o with accs := o.accs.map (fun a => if a.st == .performed && f a then { a with st := .done } else a) }

/-- Destination slots of an operation, but for those a refusal took. -/
def dstSlots (o : Op) : List (Nat × Nat) :=
  ((slotLanes o).flatMap (fun l => (List.range (slotsOf o.width)).map (fun k => (l, k)))).filter (fun e => !o.skip.contains e)

/-- Slots that have all their bytes once the pieces chosen by `f` have reached the core, and had not before. -/
def readySlots (f : Acc → Bool) (o : Op) : List (Nat × Nat) :=
  (dstSlots o).filter (fun e => (slotAccs o e.1 e.2).any (fun a => a.st == .performed && f a) && (slotAccs (reached f o) e.1 e.2).all (fun a => a.st == .done))

theorem mem_slotLanes {o : Op} {l : Nat} (h : l ∈ slotLanes o) : l < 16 ∧ hasLane o.lanes l = true ∧ (o.scalar = true → lowestLane o.lanes = some l) := by
  unfold slotLanes at h
  split at h
  · cases hlow : lowestLane o.lanes with
    | none => simp [hlow] at h
    | some k =>
      obtain rfl : l = k := by simpa [hlow] using h
      have hmem := mem_lanesOf.1 (List.mem_of_head? hlow)
      exact ⟨hmem.1, hmem.2, fun _ => rfl⟩
  · next hs => exact ⟨(mem_lanesOf.1 h).1, (mem_lanesOf.1 h).2, fun h => absurd h hs⟩

theorem mem_dstSlots {o : Op} {e : Nat × Nat} : e ∈ dstSlots o ↔ e.1 ∈ slotLanes o ∧ e.2 < slotsOf o.width ∧ o.skip.contains e = false := by
  obtain ⟨l, k⟩ := e
  simp [dstSlots, and_assoc]

theorem dstSlots_once (o : Op) : (dstSlots o).Pairwise fun e d => ¬sameDst o e d := by
  refine List.Pairwise.filter _ ?_
  have hlanes : (slotLanes o).Nodup := by
    unfold slotLanes
    split
    · cases lowestLane o.lanes <;> simp
    · exact lanesOf_nodup _
  have hall : ((slotLanes o).flatMap (fun l => (List.range (slotsOf o.width)).map (fun k => (l, k)))).Nodup :=
    List.Nodup.product hlanes List.nodup_range
  refine List.Pairwise.imp_of_mem (fun {e d} he hd hne => ?_) hall
  unfold sameDst
  split
  · next hs =>
    intro hsame
    have hlane : ∀ c : Nat × Nat, c ∈ (slotLanes o).flatMap (fun l => (List.range (slotsOf o.width)).map (fun k => (l, k))) → lowestLane o.lanes = some c.1 :=
        fun c hc => by
      obtain ⟨l, hl, hk⟩ := List.mem_flatMap.1 hc
      obtain ⟨k, -, rfl⟩ := List.mem_map.1 hk
      exact (mem_slotLanes hl).2.2 hs
    exact hne (Prod.ext (Option.some.inj ((hlane e he).symm.trans (hlane d hd))) hsame)
  · exact hne

/-- A gang that a split holds goes on once what it waits for is over. -/
def settleOpen (g : Group) : Group := if g.split.isSome then settle g else g

theorem settleOpen_frame (g : Group) : settleOpen g = { g with quads := (settleOpen g).quads } := by
  unfold settleOpen
  split
  · exact settle_frame g
  · rfl

section
variable {s : State} {wg grp : Nat} {g : Group} {o : Op} {later : List Op}

/-- The performed pieces chosen by `f` of the operation in front reach the core. -/
theorem deliverWhere_inFront (f : Acc → Bool) (h : InFront s wg grp g o later) :
    let t := deliverWhere f s wg grp o.id
    ∃ g', findGrp t wg grp = some (settleOpen (finishGrp (inPlace g' (reached f o) later))) ∧ Delivers (reached f o) (readySlots f o) g g'
      ∧ t.mem = s.mem ∧ t.memPoison = s.memPoison ∧ ∀ v b, winByte t v b = winByte s v b := by
  have hlanes : ∀ e ∈ readySlots f o, e.1 < 16 := fun e he => (mem_slotLanes (mem_dstSlots.1 (List.mem_of_mem_filter he)).1).1
  have honce : (readySlots f o).Pairwise fun e d => ¬sameDst (reached f o) e d := List.Pairwise.filter _ (dstSlots_once o)
  obtain ⟨g', hgrp, hdel, hmem, hpoison, hwin⟩ := foldl_writeDst (s := s) (wg := wg) (grp := grp) hlanes honce h.group
  have hexec : deliverWhere f s wg grp o.id = modGrp ((readySlots f o).foldl (fun s e => writeDst s wg grp (reached f o) e.1 e.2) s) wg grp
      (fun h => settleOpen (finishGrp { h with ops := h.ops.map (fun p => if p.id = o.id then reached f o else p) })) := by
    unfold deliverWhere
    simp only [findOp_inFront h]
    rw [finishOps, modOp, modGrp_modGrp, modGrp_modGrp]
    rfl
  have hops : g'.ops = o :: later := by rw [hdel.rest]; exact h.ops
  refine ⟨g', ?_, hdel, ?_, ?_, fun v b => ?_⟩
  · rw [hexec, findGrp_modGrp_same, hgrp, Option.map_some, hops, map_inFront h.others o rfl]
    rfl
  · rw [hexec]; exact hmem
  · rw [hexec]; exact hpoison
  · rw [hexec, winByte_modGrp]; exact hwin v b

end

end Sys2Proof.Machine

/-! SECTOR_RETURN of a load in front of its group (R192, R204), whose pieces all lie in the sector (O14). -/
namespace Sys2Proof.Machine

section
variable {s : State} {wg grp : Nat} {g : Group} {o : Op} {later : List Op}

/-- A piece of a load, read. -/
def readPiece (s : State) (wg : Nat) (a : Acc) : Acc := { a with got := loadBytes s wg a.loc a.len, st := .performed }

/-- A piece of a load that has reached the core. -/
def donePiece (s : State) (wg : Nat) (a : Acc) : Acc := { readPiece s wg a with st := .done }

/-- The pieces of a load are read, and nothing changes. -/
theorem performList_load (hkind : o.kind = .load) (l : List Acc) : performList wg grp o s l = (s, l.map (readPiece s wg)) := by
  induction l with
  | nil => rfl
  | cons a r ih =>
    have hacc : performAcc s wg grp o a = (s, readPiece s wg a) := by simp [performAcc, buffered, hkind, readPiece]
    simp only [performList, hacc, ih, List.map_cons]

theorem upToSector_all {d : Nat} (hne : o.accs ≠ []) (hall : ∀ a ∈ o.accs, sectorOf a = d) : upToSector o d = o.accs.length := by
  have hfilter : (List.range o.accs.length).filter (fun i => match o.accs[i]? with | some a => sectorOf a == d | none => false)
      = List.range o.accs.length := by
    refine List.filter_eq_self.2 fun i hi => ?_
    have hlt := List.mem_range.1 hi
    simp [hlt, hall _ (List.getElem_mem hlt)]
  obtain ⟨n, hn⟩ : ∃ n, o.accs.length = n + 1 := Nat.exists_eq_succ_of_ne_zero (by simpa using hne)
  have hrev : (List.range o.accs.length).reverse = n :: (List.range n).reverse := by rw [hn, List.range_succ, List.reverse_append]; rfl
  unfold upToSector
  have : (List.filter (fun i => match o.accs[i]? with | some a => sectorOf a == d | none => false) (List.range o.accs.length)).reverse = n :: (List.range n).reverse := by
    rw [hfilter, hrev]
  split
  · next heq => exact absurd (heq.symm.trans this) (by simp)
  · next i r heq =>
    obtain ⟨rfl, -⟩ := List.cons.inj (heq.symm.trans this)
    exact hn.symm

/-- What a settled piece brings is what it read. -/
theorem slotAccs_map (o : Op) (f : Acc → Acc) (hf : ∀ a, (f a).lane = a.lane ∧ (f a).off = a.off ∧ (f a).len = a.len) (l k : Nat) :
    slotAccs { o with accs := o.accs.map f } l k = (slotAccs o l k).map f := by
  unfold slotAccs
  rw [List.filter_map]
  congr 1
  refine List.filter_congr fun a _ => ?_
  obtain ⟨hlane, hoff, hlen⟩ := hf a
  simp only [Function.comp_apply, hlane, hoff, hlen]

theorem slotBytes_congr (o : Op) {f f' : Acc → Acc} (hf : ∀ a, (f a).lane = a.lane ∧ (f a).off = a.off ∧ (f a).len = a.len)
    (hf' : ∀ a, (f' a).lane = a.lane ∧ (f' a).off = a.off ∧ (f' a).len = a.len) (hgot : ∀ a ∈ o.accs, (f a).got = (f' a).got) (l k : Nat) :
    slotBytes { o with accs := o.accs.map f } l k = slotBytes { o with accs := o.accs.map f' } l k := by
  have hmem : ∀ a ∈ slotAccs o l k, (f a).got = (f' a).got := fun a ha => hgot a (List.mem_of_mem_filter ha)
  unfold slotBytes
  refine List.map_congr_left fun i _ => ?_
  rw [slotAccs_map o f hf, slotAccs_map o f' hf', List.find?_map, List.find?_map]
  have hpred : ∀ h : Acc → Acc, (∀ a, (h a).lane = a.lane ∧ (h a).off = a.off ∧ (h a).len = a.len) →
      (fun a : Acc => decide (a.off ≤ 4 * k + i) && decide (4 * k + i < a.off + a.len)) ∘ h
        = fun a => decide (a.off ≤ 4 * k + i) && decide (4 * k + i < a.off + a.len) := fun h hh => by
    funext a
    simp only [Function.comp_apply, (hh a).2.1, (hh a).2.2]
  rw [hpred f hf, hpred f' hf']
  cases hfind : (slotAccs o l k).find? (fun a => decide (a.off ≤ 4 * k + i) && decide (4 * k + i < a.off + a.len)) with
  | none => rfl
  | some a =>
    simp only [Option.map_some, hmem a (List.mem_of_find?_eq_some hfind), (hf a).2.1, (hf' a).2.1]

/-- What a group holds after a delivery changes in its flags, operations and sequencers alone. -/
theorem settleOpen_finishGrp_frame (g : Group) : ∃ f ops qs, settleOpen (finishGrp g) = { g with f := f, ops := ops, quads := qs } := by
  refine ⟨(finishGrp g).f, (finishGrp g).ops, (settleOpen (finishGrp g)).quads, ?_⟩
  rw [settleOpen_frame]
  generalize (settleOpen (finishGrp g)).quads = qs
  rw [finishGrp_frame]

theorem getF_flagDec_congr {h g : Group} (hf : h.f = g.f) (fl : Option Nat) (n : Nat) : getF (flagDec h fl) n = getF (flagDec g fl) n := by
  cases fl <;> simp only [flagDec, getF, hf]

/-- An operation in front of which every performed piece has reached the core is over, and its flag falls. -/
theorem settleOpen_finishGrp_over (hothers : ∀ k ∈ later, k.id ≠ o.id ∧ opOver k = false) {p : Op} (hp : opOver p = true) (hred : p.kind ≠ .red) (h : Group) :
    (settleOpen (finishGrp (inPlace h p later))).ops = later
      ∧ ∀ n, getF (settleOpen (finishGrp (inPlace h p later))) n = getF (flagDec h p.flag) n := by
  rw [settleOpen_frame, finishGrp_over hothers hp]
  refine ⟨rfl, fun n => ?_⟩
  have hlower : lowerFlag (inPlace h p later) p = flagDec (inPlace h p later) p.flag := by simp [lowerFlag, hred]
  rw [hlower]
  cases p.flag <;> rfl

end

/-- SECTOR_RETURN of the load in front, all of whose pieces lie in the sector: they are read, and reach the core. -/
theorem execSectorReturn_inFront {s : State} {g : Group} {o : Op} {later : List Op} (h : InFront s s.arg.a s.arg.b g o later) (hname : Names s o)
    (hy : NoYield s) (hkind : o.kind = .load) (hstall : opStalled s s.arg.a g o.id = false) (hne : o.accs ≠ [])
    (hall : ∀ a ∈ o.accs, Todo a ∧ sectorOf a = s.arg.d ∧ a.got = []) :
    ∃ u, exec .sectorReturn s = .next (deliverWhere (fun a => sectorOf a == s.arg.d) u s.arg.a s.arg.b o.id) ∧ u.mem = s.mem ∧ u.memPoison = s.memPoison
      ∧ InFront u s.arg.a s.arg.b (inPlace g { o with accs := o.accs.map (readPiece s s.arg.a) } later)
          { o with accs := o.accs.map (readPiece s s.arg.a) } later := by
  have htodo : ∀ a ∈ o.accs, Todo a := fun a ha => (hall a ha).1
  have hread : performedAccs s s.arg.a s.arg.b o o.accs.length = o.accs.map (readPiece s s.arg.a) := by
    simp [performedAccs, performList_load hkind]
  have hopen : opOver { o with accs := o.accs.map (readPiece s s.arg.a) } = false := by
    obtain ⟨a, ha⟩ := List.exists_mem_of_ne_nil _ hne
    simp only [opOver, hkind, List.all_eq_false]
    exact ⟨readPiece s s.arg.a a, List.mem_map_of_mem ha, by simp [readPiece]⟩
  let s1 := performTo s s.arg.a s.arg.b o.id o.accs.length
  let see := peerSee s1 s.arg.a
  let T := fun (p : Op) => takePeer see (fun _ a => sectorOf a == s.arg.d && !peerBlocked g p a) p s.arg.bytes
  obtain ⟨F, hF, hFg⟩ := performTo_local h hy htodo o.accs.length (T := T) fun p hp => takePeer_of_local hp _ _ _
  rw [hread, finishGrp_open h.others hopen] at hFg
  rw [List.take_length, performList_load hkind] at hF
  have hfound : findGrp (modGrp s s.arg.a s.arg.b F) s.arg.a s.arg.b = some (inPlace g { o with accs := o.accs.map (readPiece s s.arg.a) } later) := by
    rw [findGrp_modGrp_same, h.group, Option.map_some, hFg]
  have hexec : exec .sectorReturn s = .next (deliverWhere (fun a => sectorOf a == s.arg.d)
      (modOp (if (bufOf s1 s.arg.a).isEmpty then s1 else { s1 with freeCtr := s1.freeCtr + 32 * o.accs.length }) s.arg.a s.arg.b o.id T)
      s.arg.a s.arg.b o.id) := by
    show execSectorReturn s = _
    have hgo : (o.kind != .load || opStalled s s.arg.a g o.id) = false := by simp [hkind, hstall]
    simp only [execSectorReturn, h.group, find_inFront h hname, hgo, Bool.false_eq_true, if_false, withYield_of_noYield _ _ _ _ hy,
      upToSector_all hne fun a ha => (hall a ha).2.1]
    rfl
  refine ⟨_, hexec, ?_⟩
  split
  · rw [hF]
    exact ⟨rfl, rfl, hfound, rfl, h.others⟩
  · have hctr : modOp { s1 with freeCtr := s1.freeCtr + 32 * o.accs.length } s.arg.a s.arg.b o.id T
        = { modGrp s s.arg.a s.arg.b F with freeCtr := s1.freeCtr + 32 * o.accs.length } := by rw [← hF]; rfl
    rw [hctr]
    exact ⟨rfl, rfl, hfound, rfl, h.others⟩

/-- Settles O14: every piece is read and reaches the core, so each slot that a byte comes for is written. -/
theorem loadsDeliver : Obligations.LoadsDeliver := by
  intro s g o later hfront hname hy hkind hstall hne hall
  obtain ⟨u, hexec, humem, hupoison, hu⟩ := execSectorReturn_inFront hfront hname hy hkind hstall hne hall
  let f := fun (a : Acc) => sectorOf a == s.arg.d
  let o' := { o with accs := o.accs.map (readPiece s s.arg.a) }
  obtain ⟨h, hgrp, hdel, hmem, hpoison, -⟩ := deliverWhere_inFront f hu
  have hreached : reached f o' = { o with accs := o.accs.map (donePiece s s.arg.a) } := by
    unfold reached
    congr 1
    rw [List.map_map]
    refine List.map_congr_left fun a ha => ?_
    have hf : f (readPiece s s.arg.a a) = true := beq_iff_eq.2 (hall a ha).2.1
    show (if ((readPiece s s.arg.a a).st == .performed && f (readPiece s s.arg.a a)) = true then donePiece s s.arg.a a else readPiece s s.arg.a a) = _
    rw [hf]
    rfl
  have hover : opOver (reached f o') = true := by rw [hreached]; simp [opOver, hkind, donePiece]
  obtain ⟨fl, ops, qs, hframe⟩ := settleOpen_finishGrp_frame (inPlace h (reached f o') later)
  obtain ⟨hops, hflag⟩ := settleOpen_finishGrp_over hu.others hover (by rw [hreached]; simp [hkind]) h
  have hready : ∀ l k, l ∈ slotLanes o → k < slotsOf o.width → o.skip.contains (l, k) = false → slotAccs o l k ≠ [] → (l, k) ∈ readySlots f o' := by
    intro l k hl hk hskip hacc
    refine List.mem_filter.2 ⟨mem_dstSlots.2 ⟨hl, hk, hskip⟩, ?_⟩
    rw [hreached, slotAccs_map o (readPiece s s.arg.a) fun a => ⟨rfl, rfl, rfl⟩, slotAccs_map o (donePiece s s.arg.a) fun a => ⟨rfl, rfl, rfl⟩]
    obtain ⟨a, ha⟩ := List.exists_mem_of_ne_nil _ hacc
    have hsec : sectorOf a = s.arg.d := (hall a (List.mem_of_mem_filter ha)).2.1
    simp only [Bool.and_eq_true, List.any_eq_true, List.all_eq_true]
    exact ⟨⟨_, List.mem_map_of_mem ha, by simp [f, readPiece]; exact hsec⟩, fun b hb => by
      obtain ⟨c, -, rfl⟩ := List.mem_map.1 hb
      rfl⟩
  have hslot : ∀ l k, slotBytes (reached f o') l k = slotBytes { o with accs := o.accs.map (fun a => { a with got := loadBytes s s.arg.a a.loc a.len }) } l k :=
    fun l k => by
      rw [hreached]
      exact slotBytes_congr o (f := donePiece s s.arg.a) (f' := fun a => { a with got := loadBytes s s.arg.a a.loc a.len })
        (fun a => ⟨rfl, rfl, rfl⟩) (fun a => ⟨rfl, rfl, rfl⟩) (fun a _ => rfl) l k
  have hbrought : ∀ l k, l ∈ slotLanes o → k < slotsOf o.width → o.skip.contains (l, k) = false → slotAccs o l k ≠ [] →
      Brought { o with accs := o.accs.map (fun a => { a with got := loadBytes s s.arg.a a.loc a.len }) } (l, k) (readDst o h (l, k)) := by
    intro l k hl hk hskip hacc
    have hb := hdel.slots _ (hready l k hl hk hskip hacc)
    unfold Brought at hb ⊢
    rw [← hslot]
    exact hb
  have hwithin : ∀ e ∈ readySlots f o', e.1 ∈ slotLanes o ∧ e.2 < slotsOf o.width ∧ o.skip.contains e = false := fun e he =>
    mem_dstSlots.1 (List.mem_of_mem_filter he)
  rw [hframe] at hgrp
  rw [hframe] at hops hflag
  refine ⟨_, _, hexec, hmem.trans humem, hpoison.trans hupoison, hgrp, hops, ?_, ?_,
    fun n => (hflag n).trans (getF_flagDec_congr (by rw [hdel.rest]; rfl) _ n), fun hs => ?_, fun hs => ?_,
    ⟨fun hs l hlow => ⟨fun k hk hskip hacc => ?_, fun n hn => ?_⟩, fun hs l k hl hlane hk hskip hacc => ?_⟩, fun n l hl hn => ?_⟩
  · show h.p = g.p
    rw [hdel.rest]; rfl
  · show h.b = g.b
    rw [hdel.rest]; rfl
  · exact hdel.onlyScalars hs
  · exact hdel.onlyVectors hs
  · have hb := hbrought l k (by simp [slotLanes, hs, hlow]) hk hskip hacc
    rw [readDst, if_pos hs] at hb
    exact hb
  · refine hdel.scalars n fun e he heq => hn ?_
    obtain ⟨hlane, hk, hskip⟩ := hwithin e he
    obtain rfl : l = e.1 := Option.some.inj (hlow.symm.trans ((mem_slotLanes hlane).2.2 hs))
    have heq' : n = o.dst + e.2 := heq
    exact ⟨by omega, by omega, by rw [heq', Nat.add_sub_cancel_left]; exact hskip⟩
  · have hb := hbrought l k (by rw [slotLanes, if_neg (by simp [hs])]; exact mem_lanesOf.2 ⟨hl, hlane⟩) hk hskip hacc
    rw [readDst, if_neg (by simp [hs])] at hb
    exact hb
  · refine hdel.vectors n l hl fun e he heq => hn ?_
    obtain ⟨hlane, hk, hskip⟩ := hwithin e he
    obtain ⟨hn', rfl⟩ := heq
    have hn'' : n = o.dst + e.2 := hn'
    exact ⟨(mem_slotLanes hlane).2.1, by omega, by omega, by rw [hn'', Nat.add_sub_cancel_left]; exact hskip⟩

end Sys2Proof.Machine

/-! Atomics and reductions (R208, R209): the sequences of the operation in front, in the order of their lanes, and the old values they return (O16). -/
namespace Sys2Proof.Machine

/-! ## A write leaves no new poison -/

theorem sectorBad_locWrite {s : State} {p : Nat} (l : Loc) (bs : List Byte) (h : sectorBad s p = false) : sectorBad (locWrite s l bs) p = false := by
  cases l with
  | global pa =>
    show (memWrite s pa bs).memPoison.any (fun e => e.1 / 64 == p / 64) = false
    unfold memWrite
    split
    · exact h
    · exact List.any_eq_false.2 fun e he => List.any_eq_false.1 h e (List.mem_of_mem_filter he)
  | canvas v b => exact h
  | peer k pa => exact h

theorem winBad_winWrite {w : Workgroup} {b : Nat} (boff : Nat) (bs : List Byte) (h : winBad w b = false) : winBad (winWrite w boff bs) b = false := by
  unfold winWrite
  split
  · exact h
  · exact List.any_eq_false.2 fun e he => List.any_eq_false.1 h e (List.mem_of_mem_filter he)

theorem cleanAt_locWrite {s : State} {a : Acc} (h : cleanAt s a) (l : Loc) (bs : List Byte) : cleanAt (locWrite s l bs) a := by
  unfold cleanAt at h ⊢
  cases hloc : a.loc with
  | global pa =>
    rw [hloc] at h
    refine anyBad_memRead _ fun i hi => sectorBad_locWrite l bs ?_
    exact Bool.eq_false_iff.2 (List.any_eq_false.1 h _ (List.mem_map.2 ⟨i, List.mem_range.2 hi, rfl⟩))
  | peer k pa => simp [locRead, anyBad]
  | canvas v b =>
    rw [hloc] at h
    by_cases hl : ∃ c, l = .canvas v c
    case neg =>
      have hsame := findWg_locWrite_other s bs fun c e => hl ⟨c, e⟩
      simp only [locRead, hsame]
      exact h
    case pos =>
      obtain ⟨c, rfl⟩ := hl
      simp only [locRead, findWg_locWrite_canvas] at h ⊢
      cases hw : findWg s v with
      | none => simp [anyBad]
      | some w =>
        simp only [hw, Option.map_some] at h ⊢
        refine List.any_eq_false.2 fun e he => ?_
        obtain ⟨i, hi, rfl⟩ := List.mem_map.1 he
        have hbad : winBad w (b + i) = false := Bool.eq_false_iff.2 (List.any_eq_false.1 h _ (List.mem_map.2 ⟨i, hi, rfl⟩))
        exact Bool.eq_false_iff.1 (winBad_winWrite c bs hbad)

/-- Bytes none of which is poisoned are their values alone. -/
theorem clean_eq_values {bs : List (Byte × Bool)} (h : anyBad bs = false) : bs = (bs.map Prod.fst).map (fun b => (b, false)) := by
  rw [List.map_map]
  refine (List.map_id bs).symm.trans (List.map_congr_left fun e he => ?_)
  have hclean : e.2 = false := Bool.eq_false_iff.2 (List.any_eq_false.1 h e he)
  exact Prod.ext rfl hclean

theorem length_locRead (s : State) (l : Loc) (n : Nat) : (locRead s l n).length = n := by
  cases l with
  | global pa => simp [locRead, memRead]
  | peer k pa => simp [locRead]
  | canvas v b =>
    simp only [locRead]
    cases findWg s v <;> simp [winRead]

/-! ## The sequences -/

/-- The write of one sequence covers its piece and no more. -/
theorem length_atomNew (aop n : Nat) (old data : List Byte) : (atomNew aop n old data).length = n := length_natToBytes _ _

theorem atomRun_cons (aop : Nat) (s : State) (a : Acc) (l : List Acc) :
    atomRun aop s (a :: l) = ((atomRun aop (locWrite s a.loc (atomNew aop a.len ((locRead s a.loc a.len).map Prod.fst) a.data)) l).1,
      (locRead s a.loc a.len).map Prod.fst :: (atomRun aop (locWrite s a.loc (atomNew aop a.len ((locRead s a.loc a.len).map Prod.fst) a.data)) l).2) := rfl

theorem findWg_atomRun_keeps (aop : Nat) (l : List Acc) {s : State} {id : Nat} {w : Workgroup} (hw : findWg s id = some w) :
    ∃ v, findWg (atomRun aop s l).1 id = some v ∧ v.groups = w.groups := by
  induction l generalizing s w with
  | nil => exact ⟨w, hw, rfl⟩
  | cons a r ih =>
    obtain ⟨v, hv, hgroups, -⟩ := findWg_locWrite_keeps s a.loc (atomNew aop a.len ((locRead s a.loc a.len).map Prod.fst) a.data) hw
    obtain ⟨u, hu, hu'⟩ := ih hv
    exact ⟨u, hu, hu'.trans hgroups⟩

theorem memByte_atomRun_out {aop p : Nat} {l : List Acc} (s : State) (h : ∀ a ∈ l, ¬covers a a.len p) : memByte (atomRun aop s l).1 p = memByte s p := by
  induction l generalizing s with
  | nil => rfl
  | cons a r ih =>
    rw [atomRun_cons, ih _ fun b hb => h b (List.mem_cons_of_mem a hb)]
    exact memByte_locWrite_out s (by rw [length_atomNew]; exact h a List.mem_cons_self)

theorem winByte_atomRun_out {aop v b : Nat} {l : List Acc} (s : State) (h : ∀ a ∈ l, ¬coversWin a a.len v b) :
    winByte (atomRun aop s l).1 v b = winByte s v b := by
  induction l generalizing s with
  | nil => rfl
  | cons a r ih =>
    rw [atomRun_cons, ih _ fun c hc => h c (List.mem_cons_of_mem a hc)]
    exact winByte_locWrite_out s (by rw [length_atomNew]; exact h a List.mem_cons_self)

/-- A piece of an atomic once its sequence is performed, with the old bytes that it found. -/
def sequenced (o : Op) (a : Acc) (old : List Byte) : Acc :=
  { a with got := old.map (fun b => (b, false)), st := if o.ret then .performed else .done }

/-- The pieces of an atomic on clean storage, of a workgroup without an interval, are its lanes' sequences. -/
theorem performList_atom {wg : Nat} (grp : Nat) {o : Op} (hkind : o.kind = .atom ∨ o.kind = .red) (l : List Acc) {s t : State} (h : Alike s t)
    (hu : Unchecked t wg) (hclean : ∀ a ∈ l, cleanAt t a) :
    Alike (performList wg grp o s l).1 (atomRun o.aop t l).1
      ∧ ∀ i a, l[i]? = some a → (performList wg grp o s l).2[i]? = some (sequenced o a ((atomRun o.aop t l).2.getD i []))
        ∧ ((atomRun o.aop t l).2.getD i []).length = a.len := by
  induction l generalizing s t with
  | nil => exact ⟨h, fun i a ha => absurd ha (by simp)⟩
  | cons a r ih =>
    have hus : Unchecked s wg := Alike.unchecked ⟨h.mem.symm, h.poison.symm, fun id => (h.wgs id).symm⟩ hu
    have hread := h.locRead a.loc a.len
    have hgood : anyBad (locRead t a.loc a.len) = false := hclean a List.mem_cons_self
    let old := (locRead t a.loc a.len).map Prod.fst
    have hacc : performAcc s wg grp o a = (canvasWrite s wg a.loc (atomNew o.aop a.len old a.data), sequenced o a old) := by
      obtain ⟨w, hw, hchk⟩ := hus
      have hgot : locRead t a.loc a.len = old.map (fun b => (b, false)) := clean_eq_values hgood
      rcases hkind with hk | hk <;>
        simp only [performAcc, buffered, buffers, hw, hchk, hk, hread, hgood, Option.bind_some, Option.isSome_none, Bool.false_and, Bool.false_eq_true, if_false,
          sequenced, ← hgot] <;> rfl
    have hwrite := canvasWrite_alike hus a.loc (atomNew o.aop a.len old a.data)
    have hstep := h.locWrite a.loc (atomNew o.aop a.len old a.data)
    have hboth : Alike (canvasWrite s wg a.loc (atomNew o.aop a.len old a.data)) (locWrite t a.loc (atomNew o.aop a.len old a.data)) :=
      ⟨hwrite.mem.trans hstep.mem, hwrite.poison.trans hstep.poison, fun id => (hwrite.wgs id).trans (hstep.wgs id)⟩
    obtain ⟨hrun, haccs⟩ := ih hboth (unchecked_locWrite hu _ _) fun b hb => cleanAt_locWrite (hclean b (List.mem_cons_of_mem a hb)) _ _
    refine ⟨by simp only [performList, hacc, atomRun_cons]; exact hrun, fun i b hb => ?_⟩
    cases i with
    | zero =>
      obtain rfl : a = b := by simpa using hb
      refine ⟨by simp only [performList, hacc, atomRun_cons]; rfl, ?_⟩
      simp [atomRun_cons, length_locRead]
    | succ i =>
      simp only [performList, hacc, atomRun_cons, List.getElem?_cons_succ, List.getD_cons_succ]
      exact haccs i b (by simpa using hb)

/-- Every piece of an atomic that is performed is one of its sequences. -/
theorem mem_sequenced {o : Op} {as bs : List Acc} {olds : List (List Byte)} (hlen : bs.length = as.length)
    (h : ∀ i a, as[i]? = some a → bs[i]? = some (sequenced o a (olds.getD i []))) :
    ∀ b ∈ bs, ∃ j c, as[j]? = some c ∧ b = sequenced o c (olds.getD j []) := by
  intro b hb
  obtain ⟨j, hj⟩ := List.mem_iff_getElem?.1 hb
  have hlt : j < as.length := hlen ▸ (List.getElem?_eq_some_iff.1 hj).1
  have hc := List.getElem?_eq_getElem hlt
  exact ⟨j, _, hc, Option.some.inj (hj.symm.trans (h j _ hc))⟩

/-! ## The events -/

/-- ATOMIC_PERFORMED of the operation in front: its pieces are performed, and those of a returning one reach the core. -/
theorem execAtomicPerformed_inFront {s : State} {g : Group} {o : Op} {later : List Op} (h : InFront s s.arg.a s.arg.b g o later) (hname : Names s o)
    (hy : NoYield s) (hkind : o.kind = .atom ∨ o.kind = .red) (hstall : opStalled s s.arg.a g o.id = false) (htodo : ∀ a ∈ o.accs, Todo a) :
    ∃ F, F g = finishGrp (inPlace g { o with accs := (performList s.arg.a s.arg.b o s o.accs).2 } later)
      ∧ exec .atomicPerformed s = .next (if o.ret
          then deliverWhere (fun _ => true) (modGrp (performList s.arg.a s.arg.b o s o.accs).1 s.arg.a s.arg.b F) s.arg.a s.arg.b o.id
          else modGrp (performList s.arg.a s.arg.b o s o.accs).1 s.arg.a s.arg.b (fun h => finishGrp (F h))) := by
  obtain ⟨F, hF, hFg⟩ := performTo_local h hy htodo o.accs.length
    fun p hp => takePeer_of_local hp seePlain (fun _ a => !peerBlocked g o a) s.arg.bytes
  have hall : performedAccs s s.arg.a s.arg.b o o.accs.length = (performList s.arg.a s.arg.b o s o.accs).2 := by simp [performedAccs]
  rw [hall] at hFg
  rw [List.take_length] at hF
  refine ⟨F, hFg, ?_⟩
  show execAtomicPerformed s = _
  have hgo : (!(o.kind == .atom || o.kind == .red) || opStalled s s.arg.a g o.id) = false := by rcases hkind with hk | hk <;> simp [hk, hstall]
  simp only [execAtomicPerformed, h.group, find_inFront h hname, hgo, Bool.false_eq_true, if_false, withYield_of_noYield _ _ _ _ hy, performAll,
    findOp_inFront h]
  rw [hF, finishOps, modGrp_modGrp]

/-- The one piece of a lane, which brings its whole value, brings each slot its bytes. -/
theorem slotBytes_whole {o : Op} {a : Acc} {k : Nat} (ha : a ∈ o.accs) (hone : ∀ b ∈ o.accs, b.lane = a.lane → b = a) (hoff : a.off = 0) (hlen : a.len = o.width)
    (hpos : 0 < o.width) (hk : k < slotsOf o.width) {old : List Byte} (hgot : a.got = old.map (fun b => (b, false))) (hold : old.length = o.width) :
    slotAccs o a.lane k ≠ [] ∧ slotBytes o a.lane k = (slice old (4 * k) (min 4 o.width)).map (fun b => (b, false)) := by
  have hend : 4 * k + min 4 o.width ≤ o.width := by
    unfold slotsOf at hk
    split at hk <;> omega
  have hmem : a ∈ slotAccs o a.lane k := List.mem_filter.2 ⟨ha, by simp [hoff, hlen]; omega⟩
  refine ⟨List.ne_nil_of_mem hmem, List.ext_getElem? fun i => ?_⟩
  by_cases hi : i < min 4 o.width
  case neg =>
    have hr : ((old.drop (4 * k)).take (min 4 o.width)).length = min 4 o.width := by simp; omega
    rw [List.getElem?_eq_none (by simp [slotBytes]; omega), List.getElem?_eq_none (by simp [slice, hr]; omega)]
  case pos =>
    have hfind : (slotAccs o a.lane k).find? (fun a => decide (a.off ≤ 4 * k + i) && decide (4 * k + i < a.off + a.len)) = some a := by
      cases hf : (slotAccs o a.lane k).find? (fun a => decide (a.off ≤ 4 * k + i) && decide (4 * k + i < a.off + a.len)) with
      | none => exact absurd (List.find?_eq_none.1 hf a hmem) (by simp [hoff, hlen]; omega)
      | some b =>
        have hb := List.mem_filter.1 (List.mem_of_find?_eq_some hf)
        have hlane : b.lane = a.lane := by
          have := hb.2
          simp only [Bool.and_eq_true, beq_iff_eq] at this
          exact this.1.1
        rw [hone b hb.1 hlane]
    have hr : ((old.drop (4 * k)).take (min 4 o.width)).length = min 4 o.width := by simp; omega
    simp only [slotBytes, List.getElem?_map, List.getElem?_range hi, Option.map_some, hfind, hgot, hoff, Nat.sub_zero, slice, hr, Nat.sub_self,
      List.replicate_zero, List.append_nil, List.getElem?_take_of_lt hi, List.getElem?_drop, List.getD_eq_getElem?_getD]
    rw [List.getElem?_eq_getElem (show 4 * k + i < old.length by omega)]
    rfl

section
variable {s : State} {g : Group} {o : Op} {later : List Op} (h : InFront s s.arg.a s.arg.b g o later) (hname : Names s o)
include h hname

/-- RED_ACCEPTED of the reduction in front. -/
theorem execRedAccepted_inFront (hkind : o.kind = .red) (hacc : o.accepted = false) (hbuf : redBuffered s s.arg.a o = false)
    (hlog : ∀ a ∈ o.accs, a.st ≠ .unlogged) :
    ∃ g', exec .redAccepted s = .next (modGrp s s.arg.a s.arg.b
        (fun g => finishGrp { flagDec g o.flag with ops := g.ops.map (fun p => if p.id = o.id then { p with accepted := true } else p) }))
      ∧ findGrp (modGrp s s.arg.a s.arg.b
        (fun g => finishGrp { flagDec g o.flag with ops := g.ops.map (fun p => if p.id = o.id then { p with accepted := true } else p) })) s.arg.a s.arg.b = some g'
      ∧ g' = finishGrp (inPlace (flagDec g o.flag) { o with accepted := true } later) := by
  refine ⟨_, ?_, by rw [findGrp_modGrp_same, h.group, Option.map_some], ?_⟩
  · show execRedAccepted s = _
    have hunlogged : o.accs.any (fun a => a.st == .unlogged) = false := List.any_eq_false.2 fun a ha => by simp [hlog a ha]
    have hfind : findOp s s.arg.a s.arg.b s.arg.c = some o := by rw [show s.arg.c = o.id from hname]; exact findOp_inFront h
    simp [execRedAccepted, hfind, hkind, hacc, hbuf, hunlogged]
  · rw [h.ops, map_inFront h.others o rfl]
    rfl

end

section
variable {u : State} {wg grp : Nat} {g : Group} {p : Op} {later : List Op} {F : Group → Group}

/-- The old values of a returning atomic reach the core, where its group holds `p` in front; one with no piece left is over already. -/
theorem deliverWhere_all (hg : findGrp u wg grp = some g) (hothers : ∀ k ∈ later, k.id ≠ p.id ∧ opOver k = false) (hF : F g = finishGrp (inPlace g p later))
    (hscalar : p.scalar = false) :
    let t := deliverWhere (fun _ => true) (modGrp u wg grp F) wg grp p.id
    ∃ g', findGrp t wg grp = some g' ∧ t.mem = u.mem ∧ (∀ v b, winByte t v b = winByte u v b) ∧ g'.s = g.s ∧ g'.p = g.p
      ∧ (opOver p = false → ∀ e ∈ readySlots (fun _ => true) p, Brought (reached (fun _ => true) p) e (getV g' (p.dst + e.2) e.1)) := by
  intro t
  have hfound : findGrp (modGrp u wg grp F) wg grp = some (finishGrp (inPlace g p later)) := by rw [findGrp_modGrp_same, hg, Option.map_some, hF]
  cases hover : opOver p with
  | true =>
    have hnone : findOp (modGrp u wg grp F) wg grp p.id = none := by
      rw [findOp, hfound, Option.bind_some, finishGrp_over hothers hover]
      exact List.find?_eq_none.2 fun k hk => by simp [(hothers k hk).1]
    have ht : t = modGrp u wg grp F := by simp only [t, deliverWhere, hnone]
    have hframe := finishGrp_frame (inPlace g p later)
    exact ⟨_, by rw [ht, hfound], by rw [ht]; rfl, fun v b => by rw [ht, winByte_modGrp], by rw [hframe]; rfl, by rw [hframe]; rfl,
      fun h => absurd h (by decide)⟩
  | false =>
    rw [finishGrp_open hothers hover] at hfound
    have hfront : InFront (modGrp u wg grp F) wg grp (inPlace g p later) p later := ⟨hfound, rfl, hothers⟩
    obtain ⟨h, hgrp, hdel, hmem, -, hwin⟩ := deliverWhere_inFront (fun _ => true) hfront
    obtain ⟨fl, ops, qs, hframe⟩ := settleOpen_finishGrp_frame (inPlace h (reached (fun _ => true) p) later)
    rw [hframe] at hgrp
    refine ⟨_, hgrp, hmem, fun v b => (hwin v b).trans (winByte_modGrp _ _ _ F v b), hdel.onlyVectors hscalar, ?_, fun _ e he => ?_⟩
    · show h.p = g.p
      rw [hdel.rest]; rfl
    · have hb := hdel.slots e he
      rw [readDst, if_neg (by simp [reached, hscalar])] at hb
      exact hb

/-- A lane's slot of a returning atomic, whose one piece there has its old value. -/
theorem mem_readySlots_all {a : Acc} {k : Nat} (hscalar : p.scalar = false) (hlane : a.lane < 16) (hlanes : hasLane p.lanes a.lane = true)
    (hskip : ∀ k, p.skip.contains (a.lane, k) = false) (hk : k < slotsOf p.width) (hacc : slotAccs p a.lane k ≠ [])
    (hperf : ∀ b ∈ p.accs, b.st = .performed) : (a.lane, k) ∈ readySlots (fun _ => true) p := by
  refine List.mem_filter.2 ⟨mem_dstSlots.2 ⟨by rw [slotLanes, if_neg (by simp [hscalar])]; exact mem_lanesOf.2 ⟨hlane, hlanes⟩, hk, hskip k⟩, ?_⟩
  obtain ⟨b, hb⟩ := List.exists_mem_of_ne_nil _ hacc
  simp only [Bool.and_eq_true, List.any_eq_true, List.all_eq_true, Bool.and_true]
  refine ⟨⟨b, hb, by simp [hperf b (List.mem_of_mem_filter hb)]⟩, fun c hc => ?_⟩
  obtain ⟨d, hd, rfl⟩ := List.mem_map.1 (List.mem_of_mem_filter hc)
  simp [hperf d hd]

end

/-- Settles O16: the sequences one after the other, what a returning atomic brings its lanes, and the fall of a reduction's flag. -/
theorem atomicsPerform : Obligations.AtomicsPerform := by
  refine ⟨?performed, ?accepted⟩
  case accepted =>
    intro s g o later h hname hkind hacc hbuf hlog
    obtain ⟨g', hexec, hgrp, rfl⟩ := execRedAccepted_inFront h hname hkind hacc hbuf hlog
    let p := { o with accepted := true }
    have hframe := finishGrp_frame (inPlace (flagDec g o.flag) p later)
    have hflag : ∀ q : Group, q = flagDec g o.flag → q.v = g.v ∧ q.s = g.s ∧ q.p = g.p := fun q hq => by
      subst hq
      cases o.flag <;> exact ⟨rfl, rfl, rfl⟩
    obtain ⟨hv, hs, hp⟩ := hflag _ rfl
    have hover : opOver p = o.accs.all (fun a => a.st == .done) := by simp [p, opOver, hkind]
    refine ⟨_, _, hexec, rfl, hgrp, by rw [hframe]; exact hv, by rw [hframe]; exact hs, by rw [hframe]; exact hp, ?_⟩
    cases hdone : o.accs.all (fun a => a.st == .done) with
    | true =>
      rw [finishGrp_over h.others (hover.trans hdone)]
      have hlower : lowerFlag (inPlace (flagDec g o.flag) p later) p = inPlace (flagDec g o.flag) p later := by simp [lowerFlag, p, hkind]
      rw [hlower]
      exact ⟨fun n => rfl, rfl⟩
    | false =>
      rw [finishGrp_open h.others (hover.trans hdone)]
      exact ⟨fun n => rfl, rfl⟩
  case performed =>
    intro s g o later h hname hy hkind hscalar hu hstall hall
    have htodo : ∀ a ∈ o.accs, Todo a := fun a ha => (hall a ha).1
    obtain ⟨F, hFg, hexec⟩ := execAtomicPerformed_inFront h hname hy hkind hstall htodo
    obtain ⟨hlike, haccs⟩ := performList_atom s.arg.b hkind o.accs (.refl s) hu fun a ha => (hall a ha).2.1
    have hfound : findGrp (performList s.arg.a s.arg.b o s o.accs).1 s.arg.a s.arg.b = some g := by
      obtain ⟨w, hw, -⟩ := hu
      obtain ⟨u, hu, hgroups⟩ := findWg_atomRun_keeps o.aop o.accs hw
      rw [hlike.findGrp, findGrp, hu, ← h.group, findGrp, hw, Option.bind_some, Option.bind_some, hgroups]
    have hmem : ∀ q, (∀ a ∈ o.accs, ¬covers a a.len q) → memByte (atomRun o.aop s o.accs).1 q = memByte s q := fun q hq => memByte_atomRun_out s hq
    cases hret : o.ret with
    | false =>
      rw [hret, if_neg (by decide)] at hexec
      have hframe := finishGrp_frame (inPlace g { o with accs := (performList s.arg.a s.arg.b o s o.accs).2 } later)
      have hgrp : finishGrp (F g) = finishGrp (inPlace g { o with accs := (performList s.arg.a s.arg.b o s o.accs).2 } later) :=
        (congrArg finishGrp hFg).trans (finishGrp_twice h.others _ g)
      refine ⟨_, finishGrp (F g), hexec, hlike.mem, fun v b => (winByte_modGrp _ _ _ _ v b).trans (hlike.winByte v b),
        by rw [findGrp_modGrp_same, hfound, Option.map_some], by rw [hgrp, hframe]; rfl, by rw [hgrp, hframe]; rfl,
        fun q hq => (hlike.memByte q).trans (hmem q hq), fun v b hb => (winByte_modGrp _ _ _ _ v b).trans ((hlike.winByte v b).trans (winByte_atomRun_out s hb)),
        fun _ => by rw [hgrp, hframe]; rfl, fun hr => absurd hr (by decide)⟩
    | true =>
      rw [hret, if_pos rfl] at hexec
      let p := { o with accs := (performList s.arg.a s.arg.b o s o.accs).2 }
      obtain ⟨g', hgrp, htmem, htwin, hs, hp, hdel⟩ := deliverWhere_all (p := p) hfound h.others hFg hscalar
      refine ⟨_, g', hexec, htmem.trans hlike.mem, fun v b => (htwin v b).trans (hlike.winByte v b), hgrp, hs, hp,
        fun q hq => (congrArg (smGet · q 0) (htmem.trans hlike.mem)).trans (hmem q hq),
        fun v b hb => (htwin v b).trans ((hlike.winByte v b).trans (winByte_atomRun_out s hb)), fun hr => absurd hr (by decide), ?_⟩
      intro _ hatom i a k ha hoff hlen _ hlane hlanes hskip hone hk
      obtain ⟨hseq, hold⟩ := haccs i a ha
      let old := (atomRun o.aop s o.accs).2.getD i []
      have hmemp : sequenced o a old ∈ p.accs := List.mem_of_getElem? hseq
      have heach := mem_sequenced (length_performList _ _ _ _ _) fun j c hc => (haccs j c hc).1
      have hperf : ∀ b ∈ p.accs, b.st = .performed := fun b hb => by
        obtain ⟨j, c, -, rfl⟩ := heach b hb
        simp [sequenced, hret]
      have hopen : opOver p = false := by
        have hnot : ¬(sequenced o a old).st = .done := by rw [hperf _ hmemp]; decide
        simp only [opOver, p, hatom]
        exact List.all_eq_false.2 ⟨_, hmemp, by simpa using hnot⟩
      have honly : ∀ b ∈ p.accs, b.lane = a.lane → b = sequenced o a old := fun b hb hbl => by
        obtain ⟨j, c, hc, rfl⟩ := heach b hb
        by_cases hj : j = i
        · subst hj
          obtain rfl : c = a := Option.some.inj (hc.symm.trans ha)
          rfl
        · exact absurd hbl (hone j c hj hc)
      have hpos : 0 < o.width := hlen ▸ (hall a (List.mem_of_getElem? ha)).2.2
      have hlen' : old.length = o.width := hold.trans hlen
      obtain ⟨hsome, hbytes⟩ : slotAccs p a.lane k ≠ [] ∧ slotBytes p a.lane k = (slice old (4 * k) (min 4 o.width)).map (fun b => (b, false)) :=
        slotBytes_whole (o := p) hmemp honly hoff hlen hpos hk rfl hlen'
      have hb := hdel hopen _ (mem_readySlots_all (p := p) (a := a) hscalar hlane hlanes hskip hk hsome hperf)
      have hsame : slotBytes (reached (fun _ => true) p) a.lane k = slotBytes p a.lane k :=
        (slotBytes_congr p (f' := id) (fun b => by dsimp only; split <;> exact ⟨rfl, rfl, rfl⟩) (fun b => ⟨rfl, rfl, rfl⟩)
          (fun b _ => by dsimp only; split <;> rfl) a.lane k).trans (by rw [List.map_id])
      have hclean : anyBad (slotBytes p a.lane k) = false := by
        rw [hbytes]
        simp [anyBad]
      rw [Brought, hsame] at hb
      rw [hb.2 hclean, hbytes]
      rfl

end Sys2Proof.Machine

/-! LDC, PREF, BCHK and PROBE (R206, R210, R212, R213): each by the results of its lanes (O18). -/
namespace Sys2Proof.Machine

theorem LaneWrites.congr {x : Ctx} {g : Group} {v v' : Nat → Nat → Option Word} {p p' : Nat → Nat → Option Bool} (h : LaneWrites x g v p)
    (hv : ∀ n l, l < 16 → v n l = v' n l) (hp : ∀ n l, l < 16 → p n l = p' n l) : LaneWrites x g v' p' :=
  ⟨h.rest, h.on, fun n l hl => by rw [h.slots n l hl, hv n l hl], fun n l hn hl => by rw [h.preds n l hn hl, hp n l hl]⟩

theorem lanesOf_ne_nil {m : LMask} (h : m ≠ 0) : lanesOf m ≠ [] := by
  intro hnil
  refine h (BitVec.eq_of_getLsbD_eq fun i hi => ?_)
  have hout : i ∉ lanesOf m := by simp [hnil]
  simpa [mem_lanesOf, hi, hasLane] using hout

/-- A lane's result: a run of registers. -/
def runOut (d n : Nat) (val : Nat → Nat → Word) (l : Nat) : LaneOut := { outNone l with v := (List.range n).map (fun k => (d + k, val l k)) }

/-- Writes of runs of registers, slot by slot and lane by lane, are the lanes' results. -/
theorem foldl_writeV_runs (id d n : Nat) (val : Nat → Nat → Word) (ls : List Nat) (g : Group) :
    (ls.flatMap (fun l => (List.range n).map (fun k => (l, k)))).foldl (fun g e => writeV g id (d + e.2) e.1 { val := val e.1 e.2, poison := false }) g
      = (ls.map (runOut d n val)).foldl (writeOut id) g := by
  rw [List.foldl_flatMap, List.foldl_map]
  refine congrArg (fun f => ls.foldl f g) ?_
  funext g l
  simp only [writeOut, runOut, outNone, List.foldl_map, List.foldl_nil, List.contains_nil]

/-- A result of each lane of ACTIVE, where only predicate bits are written. -/
theorem foldl_writeP_lanes (id d : Nat) (f : Nat → Bool) (ls : List Nat) (g : Group) :
    ls.foldl (fun g l => writeP g id d l (f l)) g = (ls.map (fun l => outP l d (f l))).foldl (writeOut id) g := by
  rw [List.foldl_map]
  rfl

section
variable {s : State} {x : Ctx} {w : FmtM} (hi : Issues s w.g x) (hr : Reads x [srcOf 3 w.idx 1] x.act)
include hi hr

/-- The value that LDC gives slot `k` of lane `l`, of clean bytes. -/
def ldcWord (s : State) (x : Ctx) (w : FmtM) (l k : Nat) : Word :=
  let v := bytesToNat ((palRead s x (wrapNat 32 ((readN s x w.idx l : Int) + memOff w) / memW w * memW w + 4 * k) (min 4 (memW w))).map Prod.fst)
  if memW w < 4 ∧ w.sx then wordOfInt (toSigned (8 * memW w) v) else wordOf v

/-- LDC of clean bytes writes each lane's run of registers. -/
theorem execLdc_writes
    (hclean : ∀ l k e, hasLane x.act l = true →
      e ∈ palRead s x (wrapNat 32 ((readN s x w.idx l : Int) + memOff w) / memW w * memW w + 4 * k) (min 4 (memW w)) → e.2 = false) :
    ∃ t g, exec (.ldc w) s = .next t ∧ GroupStep s t x g ∧ LaneWrites x g (fun r l =>
      if hasLane x.act l = true ∧ w.d.toNat ≤ r ∧ r < w.d.toNat + slotsOf (memW w) then some (ldcWord s x w l (r - w.d.toNat)) else none) noBit := by
  let slots := (lanesOf x.act).flatMap (fun l => (List.range (slotsOf (memW w))).map (fun k => (l, k)))
  let write := fun (g : Group) (e : Nat × Nat) => writeV g s.nextId (w.d.toNat + e.2) e.1 { val := ldcWord s x w e.1 e.2, poison := false }
  have hslot : ∀ f : Group → Group, ∀ e ∈ slots, ldcSlot (modGrp s x.c.wg x.c.grp f) x w e.1 e.2
      = ({ val := ldcWord s x w e.1 e.2, poison := false }, modGrp s x.c.wg x.c.grp f) := by
    intro f e he
    obtain ⟨l, hl, hk⟩ := List.mem_flatMap.1 he
    obtain ⟨k, -, rfl⟩ := List.mem_map.1 hk
    have hgood : anyBad (palRead s x (wrapNat 32 ((readN s x w.idx l : Int) + memOff w) / memW w * memW w + 4 * k) (min 4 (memW w))) = false :=
      List.any_eq_false.2 fun e he => Bool.eq_false_iff.1 (hclean l k e (mem_lanesOf.1 hl).2 he)
    have hsame : ∀ o n, palRead (modGrp s x.c.wg x.c.grp f) x o n = palRead s x o n := fun o n => rfl
    have hread : readN (modGrp s x.c.wg x.c.grp f) x w.idx l = readN s x w.idx l := rfl
    simp only [ldcSlot, hsame, hread, hgood, Bool.false_eq_true, if_false, ldcWord]
  have hfold : ∀ (es : List (Nat × Nat)), (∀ e ∈ es, e ∈ slots) → ∀ f : Group → Group,
      es.foldl (fun s' e => modGrp (ldcSlot s' x w e.1 e.2).2 x.c.wg x.c.grp (fun g => writeV g s'.nextId (w.d.toNat + e.2) e.1 (ldcSlot s' x w e.1 e.2).1))
        (modGrp s x.c.wg x.c.grp f) = modGrp s x.c.wg x.c.grp (fun g => es.foldl write (f g)) := by
    intro es
    induction es with
    | nil => intro _ f; rfl
    | cons e r ih =>
      intro hes f
      rw [List.foldl_cons, hslot f e (hes e List.mem_cons_self), modGrp_modGrp]
      exact ih (fun e he => hes e (List.mem_cons_of_mem _ he)) _
  have hexec : exec (.ldc w) s = .next (modGrp s x.c.wg x.c.grp (fun g => advanceGrp x.c (slots.foldl write g))) := by
    show execLdc w s = _
    rw [execLdc, withCtx_next hi, withSources_reads _ hr]
    have h := hfold slots (fun _ he => he) (fun g => g)
    rw [modGrp_id] at h
    exact congrArg Host.Outcome.next ((congrArg (advance · x.c) h).trans (modGrp_modGrp _ _ _ _ _))
  refine ⟨_, _, hexec, modGrp_step hi _, ?_⟩
  rw [foldl_writeV_runs]
  refine (laneWrites_fold s.nextId (goodOuts_perLane x _ (fun _ => rfl) fun _ => rfl)).congr (fun r l hl => ?_) fun n l hl => ?_
  · rw [outsSlot, outOf_perLane _ (fun _ => rfl) _ _ hl]
    by_cases hlane : hasLane x.act l = true
    · rw [if_pos hlane, Option.bind_some, lastV_run w.d.toNat (ldcWord s x w l) r rfl]
      exact if_congr (by simp [hlane]) rfl rfl
    · rw [if_neg hlane, if_neg fun h => hlane h.1]; rfl
  · rw [outsBit, outOf_perLane _ (fun _ => rfl) _ _ hl]
    split <;> rfl

/-- BCHK writes the bounds test of each lane. -/
theorem execBchk_writes : ∃ t g, exec (.bchk w) s = .next t ∧ GroupStep s t x g ∧ LaneWrites x g noSlot (toPred x w.d.toNat (fun l =>
    (elemsOf (getB x.g w.buf.toNat) ((readN s x w.idx l : Int) + memOff w) (memW w)).all (elemIn (getB x.g w.buf.toNat)))) := by
  have hexec : exec (.bchk w) s = .next (modGrp s x.c.wg x.c.grp (fun g => advanceGrp x.c ((lanesOf x.act).foldl (fun g l => writeP g s.nextId w.d.toNat l
      ((elemsOf (getB x.g w.buf.toNat) ((readN s x w.idx l : Int) + memOff w) (memW w)).all (elemIn (getB x.g w.buf.toNat)))) g))) := by
    show execBchk w s = _
    rw [execBchk, withCtx_next hi, withSources_reads _ hr]
  refine ⟨_, _, hexec, modGrp_step hi _, ?_⟩
  rw [foldl_writeP_lanes]
  refine (laneWrites_fold s.nextId (goodOuts_perLane x _ (fun _ => rfl) fun _ => rfl)).congr (fun n l hl => ?_) fun n l hl => ?_
  · rw [outsSlot, outOf_perLane _ (fun _ => rfl) _ _ hl]
    split <;> rfl
  · rw [outsBit, outOf_perLane _ (fun _ => rfl) _ _ hl, ← outP_toPred]
    split <;> rfl

/-- The operation of a PROBE. -/
def probeOp (s : State) (x : Ctx) (w : FmtM) : Op :=
  { laneOp s x 0 (flagSel x.c.clause w.fs) ((lanesOf x.act).map (fun l => outV l w.d.toNat (wordOf (probeBits s x w l)))) with kind := .crd }

/-- The gang of a PROBE goes on, and the group holds its operation. -/
def probeGrp (s : State) (x : Ctx) (w : FmtM) (g : Group) : Group :=
  advanceGrp x.c { flagInc g (flagSel x.c.clause w.fs) with ops := g.ops ++ [probeOp s x w] }

/-- PROBE that is free to issue stands as an operation that holds the status of each lane. -/
theorem execProbe_stands (hflag : flagFull x.g (flagSel x.c.clause w.fs) = false) (hact : x.act ≠ 0) :
    exec (.probe w) s = .next (modGrp (freshId s).2 x.c.wg x.c.grp (probeGrp s x w)) := by
  have hne : ((lanesOf x.act).map (fun l => outV l w.d.toNat (wordOf (probeBits s x w l)))).isEmpty = false := by
    simp [List.isEmpty_eq_false_iff, lanesOf_ne_nil hact]
  show execProbe w s = _
  rw [execProbe, withCtx_next hi]
  simp only [hflag, withSources_reads _ hr, hne, Bool.false_eq_true, if_false]
  rfl

end

/-- Settles O18: LDC and BCHK by the results of their lanes, PREF by the gang's advance, PROBE by the operation that stands. -/
theorem paletteLoadsAndTests : Obligations.PaletteLoadsAndTests := by
  intro s x w hi hr
  refine ⟨execLdc_writes hi hr, ⟨_, _, ?pref, advance_step hi⟩, execBchk_writes hi hr, fun hflag hact => ?probe⟩
  case pref =>
    show execPref w s = _
    rw [execPref, withCtx_next hi, withSources_reads _ hr]
  case probe =>
    have hstep := modGrp_step (s := (freshId s).2) (x := x) (gd := w.g) ⟨hi.cur, hi.wg, hi.grp, hi.launch, hi.act⟩ (probeGrp s x w)
    refine ⟨_, _, probeOp s x w, execProbe_stands hi hr hflag hact, rfl, hstep.others, hstep.here, rfl, rfl, rfl, rfl, rfl, fun n l hl => ?_⟩
    show (outOf ((lanesOf x.act).map (fun l => outV l w.d.toNat (wordOf (probeBits s x w l)))) l).bind (fun o => lastV o n) = _
    rw [outOf_perLane _ (fun _ => rfl) _ _ hl, ← outV_toReg]
    split <;> rfl

end Sys2Proof.Machine

/-! Phaser words (R303, R304): a CHECKED group in its handler may hold, among what its cut passes over, a record wait with a refused piece; the
word then stays where it is (O26). -/
namespace Sys2Proof.Machine

/-- A wait for a record, with a piece that was refused. -/
def refusedWait : Op := { (default : Op) with kind := .wait, accs := [{ (default : Acc) with st := .refused }] }

/-- A clause of one word; a group in its handler that holds the wait; its workgroup, whose interval's cut is due; its launch. -/
def heldClause : Clause := { soleClause 0 [0] with len := 1 }
def heldLaunch : Launch := { soleLaunch 1 with codelen := 4096 }
def heldSole : Workgroup := soleWg State.reset 2 heldLaunch heldClause
def heldGroup : Group := { heldSole.groups.headD (soleGroup heldClause default) with inHandler := true, ops := [refusedWait] }
def heldWg : Workgroup := { heldSole with groups := [heldGroup], chk := some { freshInterval 0 0 [heldGroup] with cutDue := true } }
def heldIssue : Issue :=
  { wg := 2, grp := 0, quads := 0xF, run := 0xFFFF, pc := 4, next := 8, last := true, clause := heldClause, predict := false, replay := false }
def heldState : State := { State.reset with launches := [heldLaunch], wgs := [heldWg], cur := some heldIssue, nextId := 10, boot := .ready }
def heldCtx : Ctx := { c := heldIssue, w := heldWg, g := heldGroup, l := heldLaunch, act := activeOf heldIssue heldGroup 7 }

/-- PHINI of the object at canvas byte 16, from scalar 0. -/
def heldPhini : FmtY := { g := 7, d := 5, a := Fld.mk 0xFF 16, k := 0 }

theorem heldIssues : Issues heldState 7 heldCtx := ⟨rfl, rfl, rfl, rfl, rfl⟩

/-- Where the cut has fallen: the group's buffer committed. -/
def heldCut : State := commitBuf heldState 2
def heldCutWg : Workgroup := (findWg heldCut 2).getD heldWg
def heldCutCtx : Ctx := { heldCtx with w := heldCutWg, g := heldCutWg.groups.headD heldGroup }

/-- The refused wait does not keep the cut from falling (R329). -/
theorem heldCut_falls : Cuts heldState heldCtx heldCut heldCutCtx (openInterval · 2) where
  plain := fun h => absurd h (by simp [heldCtx, heldWg])
  cut := fun _ => ⟨by decide +kernel, rfl, rfl⟩
  same := rfl
  wg := by decide +kernel
  grp := by decide +kernel

/-- PHINI names the object at byte 16 of the group's own window. -/
theorem heldPhini_names : PhaserAt heldCut heldCtx heldPhini true 2 16 where
  ready := ⟨by decide +kernel, fun h => absurd h (by simp [heldCtx, heldWg]), by decide +kernel, fun _ => by decide +kernel⟩
  place := ⟨heldCutWg, by decide +kernel, by decide +kernel, by decide +kernel, by decide +kernel⟩
  free := by decide +kernel

/-- The wait holds the word in the model: nothing happens. -/
theorem exec_heldPhini : exec (.phini heldPhini) heldState = .next heldState := by
  have hstays : (match exec (.phini heldPhini) heldState with | .next t => decide (t = heldState) | _ => false) = true := by decide +kernel
  cases hexec : exec (.phini heldPhini) heldState <;> simp_all

/-- In the state as it is the cut is still due; an interval just opened is not due for a cut. -/
theorem heldState_ne_openInterval (u : State) : heldState ≠ openInterval u 2 := by
  intro h
  have hdue : (findWg heldState 2).map (fun w => w.chk.map (·.cutDue)) = some (some true) := by decide +kernel
  have hopen : findWg (openInterval u 2) 2 = (findWg u 2).map fun w => { w with chk := some (freshInterval (now u) u.nextId w.groups) } :=
    findWg_modWg_same u 2 _ fun _ => rfl
  rw [h, hopen] at hdue
  cases hw : findWg u 2 <;> simp [hw, freshInterval] at hdue

/-- Refutes O26: a CHECKED group in its handler holds a record wait with a refused piece; its cut falls past it, yet PHINI stays where it
is and leaves the object as it was. -/
theorem not_phaserWords : ¬ Obligations.PhaserWords := by
  unfold Obligations.PhaserWords
  intro h
  obtain ⟨hini, -⟩ := (h.1 heldState heldCtx heldPhini 2 16 _ _ _ heldIssues heldCut_falls).1 heldPhini_names
  obtain ⟨u, hu, -⟩ := hini (by decide +kernel) (by decide +kernel)
  rw [exec_heldPhini] at hu
  exact heldState_ne_openInterval u (Host.Outcome.next.inj hu)
end Sys2Proof.Machine

/-! Memory words at issue (O13). The obligation asks of no state that its next identifier is new: where an earlier operation of the
group bears it already, the faulted lines of the new word are looked up under that operation and never enter the operand log (R195). -/
namespace Sys2Proof.Machine

/-- An operation with nothing left to do, numbered as the next one will be. -/
def namesakeOp : Op := { (default : Op) with id := 10 }

/-- 1,024 elements of 4 bytes at 0x30000, on a page that nothing maps. -/
def unmappedRec : BitVec 128 := BitVec.ofNat 128 (0x30000 + 2 * 2 ^ 57 + 1024 * 2 ^ 64)

/-- A group whose next word is the namesake's, with the record in slot 2; no partition stands, so no address translates. -/
def twinClause : Clause := { soleClause 0 [0] with len := 1 }
def twinLaunch : Launch := { soleLaunch 1 with codelen := 4096 }
def twinSole : Workgroup := soleWg State.reset 2 twinLaunch twinClause
def twinGroup : Group := { putB (twinSole.groups.headD (soleGroup twinClause default)) 2 unmappedRec with ops := [namesakeOp] }
def twinWg : Workgroup := { twinSole with groups := [twinGroup] }
def twinIssue : Issue :=
  { wg := 2, grp := 0, quads := 0xF, run := 0xFFFF, pc := 4, next := 8, last := true, clause := twinClause, predict := false, replay := false }
def twinState : State := { State.reset with launches := [twinLaunch], wgs := [twinWg], cur := some twinIssue, nextId := 10, boot := .ready }
def twinCtx : Ctx := { c := twinIssue, w := twinWg, g := twinGroup, l := twinLaunch, act := activeOf twinIssue twinGroup 7 }

/-- LD of element 4 of the record into register 8. -/
def ldForm : MemForm := { kind := .load, byOff := false, canvas := false, scalar := false, ret := false }
def twinLd : FmtM :=
  { g := 7, d := 8, buf := 2, sz := 2, fs := false, idx := Fld.mk 0xC4 0, off := 0, aop := 0, nt := false, spl := false, sx := false, data := Fld.mk 0xC0 0 }

theorem twinIssues : Issues twinState 7 twinCtx := ⟨rfl, rfl, rfl, rfl, rfl⟩

theorem twinLd_free : MemFree twinState twinCtx ldForm twinLd where
  act := by decide +kernel
  clean := ⟨by decide +kernel, fun _ => by decide +kernel⟩
  flag := by decide +kernel
  legal := by decide +kernel
  room := by decide +kernel
  buffer := by decide +kernel
  reach := by decide +kernel
  sure := fun h => absurd h (by decide +kernel)

/-- The state of the first piece of the group's last operation. -/
def lastPieceState (t : State) : Option AccState :=
  ((findGrp t 2 0).bind fun g => g.ops.getLast?).bind fun o => o.accs.head?.map (·.st)

/-- After the word its first piece is still out of the log. -/
theorem exec_twinLd {t : State} (h : exec (.ld twinLd) twinState = .next t) : lastPieceState t = some .unlogged := by
  have hlast : (match exec (.ld twinLd) twinState with | .next t => decide (lastPieceState t = some .unlogged) | _ => false) = true := by
    decide +kernel
  simpa [h] using hlast

/-- Refutes O13: an operation of the group bears the number that the word's own gets; the word's faulted lines stay out of an operand
log with room for them. -/
theorem not_memoryWordsIssue : ¬ Obligations.MemoryWordsIssue := by
  unfold Obligations.MemoryWordsIssue
  intro h
  obtain ⟨t, g, hnext, hissued⟩ := ((h.1 twinState twinCtx twinLd twinIssues).1).1 twinLd_free
  obtain ⟨as, ⟨-, hlogged⟩, hops, -⟩ := hissued.ops (by decide +kernel)
  have hout : ((memAccs twinState twinCtx ldForm twinLd)[0]?).map (·.st) = some .unlogged := by decide +kernel
  have hroom : decide (logUse twinState (dieOf twinState twinCtx.w.lcore) + (faultedLines (memAccs twinState twinCtx ldForm twinLd)).length ≤ logSize)
      = true := by decide +kernel
  obtain ⟨a, ha, hst⟩ := Option.map_eq_some_iff.mp hout
  obtain ⟨b, hb, -, -, hlog⟩ := hlogged 0 a ha
  have hin : b.st = .logged := (hlog hst).resolve_right fun hno => Bool.noConfusion (hroom.symm.trans hno.2)
  have hgrp : findGrp t 2 0 = some g := by
    rw [findGrp, show findWg t 2 = _ from hissued.here]
    rfl
  have hlast := exec_twinLd hnext
  rw [lastPieceState, hgrp, Option.bind_some, hops, List.getLast?_append] at hlast
  simp [memOp, List.head?_eq_getElem?, hb, hin] at hlast
end Sys2Proof.Machine

/-! The 16 bytes of a phaser in a window (R301): what a write of them leaves, and the updates that a copy makes there (R250, R302, R304). -/
namespace Sys2Proof.Machine

/-! ## The fields and their bytes -/

/-- Every field of the object fits its bits (R301). -/
structure Phaser.Fits (p : Phaser) : Prop where
  gen : p.gen < 16
  nsig : p.nsig < 1024
  nwait : p.nwait < 1024
  pend : p.pend < 1024
  zhi : p.zhi < 16384
  outb : p.outb < 65536
  zlo : p.zlo < 4294967296
  inb : p.inb < 4294967296

theorem fits_phaserOf (x : Nat) : (phaserOf x).Fits := by
  constructor <;> exact Nat.mod_lt _ (by norm_num)

theorem fits_phRead (s : State) (wg b : Nat) : (phRead s wg b).Fits := fits_phaserOf _

/-- The completion test keeps the fields in their bits. -/
theorem Phaser.Fits.tested {p : Phaser} (h : p.Fits) : (tested p).Fits := by
  unfold Machine.tested
  split
  · exact { h with gen := Nat.mod_lt _ (by norm_num), pend := h.nsig }
  · exact h

theorem phaserNat_lt (p : Phaser) : phaserNat p < 256 ^ 16 := by
  unfold phaserNat
  omega

theorem phaserOf_phaserNat {p : Phaser} (h : p.Fits) : phaserOf (phaserNat p) = p := by
  obtain ⟨gen, nsig, nwait, pend, zhi, outb, zlo, inb⟩ := p
  obtain ⟨h1, h2, h3, h4, h5, h6, h7, h8⟩ := h
  simp only at h1 h2 h3 h4 h5 h6 h7 h8
  simp only [phaserOf, phaserNat, bitsOf, Phaser.mk.injEq]
  refine ⟨?_, ?_, ?_, ?_, ?_, ?_, ?_, ?_⟩ <;> omega

/-- The object is what its 16 bytes say. -/
theorem phRead_eq_winByte (s : State) (wg b : Nat) : phRead s wg b = phaserOf (bytesToNat ((List.range 16).map fun i => winByte s wg (b + i))) := by
  unfold phRead winByte
  cases findWg s wg with
  | none =>
    have hzero : bytesToNat ((List.range 16).map fun _ => (0 : Byte)) = 0 := by decide
    exact congrArg phaserOf hzero.symm
  | some w => rfl

theorem phRead_congr {s t : State} {wg b : Nat} (h : ∀ i, i < 16 → winByte t wg (b + i) = winByte s wg (b + i)) : phRead t wg b = phRead s wg b := by
  rw [phRead_eq_winByte, phRead_eq_winByte]
  exact congrArg (fun l => phaserOf (bytesToNat l)) (List.map_congr_left fun i hi => h i (List.mem_range.mp hi))

/-! ## A write of the object -/

theorem phWrite_eq_locWrite (s : State) (wg b : Nat) (p : Phaser) : phWrite s wg b p = locWrite s (.canvas wg b) (natToBytes 16 (phaserNat p)) := rfl

theorem findWg_phWrite (s : State) (wg b : Nat) (p : Phaser) (v : Nat) :
    findWg (phWrite s wg b p) v = if v = wg then (findWg s v).map (fun w => winWrite w b (natToBytes 16 (phaserNat p))) else findWg s v := by
  split
  next h => subst h; exact findWg_locWrite_canvas s v b _
  next h => exact findWg_modWg_other s wg v _ (fun w => winWrite_id w b _) h

/-- A write of bytes changes the window of the workgroup alone. -/
theorem winWrite_frame (w : Workgroup) (b : Nat) (bs : List Byte) :
    winWrite w b bs = { w with win := (winWrite w b bs).win, winPoison := (winWrite w b bs).winPoison } := by
  unfold winWrite
  split <;> rfl

theorem findGrp_phWrite (s : State) (wg b : Nat) (p : Phaser) (v k : Nat) : findGrp (phWrite s wg b p) v k = findGrp s v k := by
  rw [findGrp, findWg_phWrite, findGrp]
  split
  · cases findWg s v with
    | none => rfl
    | some w => rw [Option.map_some, winWrite_frame]; rfl
  · rfl

theorem winByte_phWrite_out (s : State) {wg b v k : Nat} (p : Phaser) (h : ¬(v = wg ∧ b ≤ k ∧ k < b + 16)) :
    winByte (phWrite s wg b p) v k = winByte s v k :=
  winByte_locWrite_out (a := { (default : Acc) with loc := .canvas wg b }) s fun ⟨o, hloc, hlo, hhi⟩ => by
    obtain ⟨rfl, rfl⟩ : wg = v ∧ b = o := by simpa using hloc
    exact h ⟨rfl, hlo, by rwa [length_natToBytes] at hhi⟩

theorem phRead_phWrite_same {s : State} {wg : Nat} {w : Workgroup} (hw : findWg s wg = some w) (b : Nat) {p : Phaser} (hp : p.Fits) :
    phRead (phWrite s wg b p) wg b = p := by
  have hbytes : ((List.range 16).map fun i => winByte (phWrite s wg b p) wg (b + i)) = natToBytes 16 (phaserNat p) := by
    refine List.ext_getElem? fun i => ?_
    by_cases hi : i < 16
    · rw [List.getElem?_map, List.getElem?_range hi, Option.map_some]
      exact winByte_locWrite_in s (by rw [hw]; rfl) (by rwa [length_natToBytes])
    · rw [List.getElem?_eq_none (by simpa using hi), List.getElem?_eq_none (by simpa [length_natToBytes] using hi)]
  rw [phRead_eq_winByte, hbytes, bytesToNat_natToBytes, Nat.mod_eq_of_lt (phaserNat_lt p), phaserOf_phaserNat hp]

/-! ## Gangs that run on -/

/-- A workgroup whose gangs that wait for `f` run on. -/
def unparkWg (f : Park → Bool) (w : Workgroup) : Workgroup :=
  { w with groups := w.groups.map (unparkGrp f), chk := w.chk.map (fun c => { c with snap := c.snap.map (unparkGrp f) }) }

theorem findWg_releaseParked (s : State) (f : Park → Bool) (v : Nat) : findWg (releaseParked s f) v = (findWg s v).map (unparkWg f) :=
  findWg_map (f := unparkWg f) rfl (fun _ => rfl) v

theorem findGrp_releaseParked (s : State) (f : Park → Bool) (v k : Nat) : findGrp (releaseParked s f) v k = (findGrp s v k).map (unparkGrp f) := by
  rw [findGrp, findWg_releaseParked, findGrp]
  cases findWg s v with
  | none => rfl
  | some w => exact List.getElem?_map

theorem winByte_releaseParked (s : State) (f : Park → Bool) (v k : Nat) : winByte (releaseParked s f) v k = winByte s v k := by
  rw [winByte, findWg_releaseParked, winByte]
  cases findWg s v <;> rfl

theorem phRead_releaseParked (s : State) (f : Park → Bool) (v b : Nat) : phRead (releaseParked s f) v b = phRead s v b :=
  phRead_congr fun _ _ => winByte_releaseParked s f v _

/-! ## An object that changes -/

/-- A written object where no generation ends. -/
theorem objectSet_phWrite {s : State} {wg : Nat} {w : Workgroup} (hw : findWg s wg = some w) (b : Nat) {p : Phaser} (hp : p.Fits) (f : Park → Bool) :
    ObjectSet s (phWrite s wg b p) wg b p false f where
  rest := rfl
  object := phRead_phWrite_same hw b hp
  bytes := fun _ _ h => winByte_phWrite_out s p h
  wgs := fun v w hv => by
    rw [findWg_phWrite, hv]
    split
    · exact ⟨_, rfl, winWrite_frame w b _⟩
    · exact ⟨w, rfl, rfl⟩
  groups := fun v k => by simp [findGrp_phWrite]

/-- A written object whose waiting gangs run on. -/
theorem objectSet_release {s : State} {wg : Nat} {w : Workgroup} (hw : findWg s wg = some w) (b : Nat) {p : Phaser} (hp : p.Fits) (f : Park → Bool) :
    ObjectSet s (releaseParked (phWrite s wg b p) f) wg b p true f where
  rest := rfl
  object := by rw [phRead_releaseParked]; exact phRead_phWrite_same hw b hp
  bytes := fun v k h => by rw [winByte_releaseParked]; exact winByte_phWrite_out s p h
  wgs := fun v w hv => by
    obtain ⟨w', hw', hframe⟩ := (objectSet_phWrite hw b hp f).wgs v w hv
    refine ⟨unparkWg f w', by rw [findWg_releaseParked, hw']; rfl, ?_⟩
    rw [hframe]
    rfl
  groups := fun v k => by rw [findGrp_releaseParked, findGrp_phWrite]; rfl

/-- The completion test sets the object, and frees its gangs where a generation ends (R302). -/
theorem objectSet_phTest {s : State} {wg : Nat} {w : Workgroup} (hw : findWg s wg = some w) (b : Nat) {p : Phaser} (hp : p.Fits) :
    ObjectSet s (phTest s wg b p) wg b (tested p) (ends p) (onPhaser wg b) := by
  have hfits := hp.tested
  unfold phTest
  by_cases h : p.pend = 0 ∧ p.inb = 0
  · have hends : ends p = true := by simp [ends, h.1, h.2]
    rw [tested, if_pos h] at hfits ⊢
    rw [if_pos h, hends]
    exact objectSet_release hw b hfits _
  · have hends : ends p = false := by simpa [ends, Bool.and_eq_false_iff, or_iff_not_imp_left] using h
    rw [tested, if_neg h] at hfits ⊢
    rw [if_neg h, hends]
    exact objectSet_phWrite hw b hfits _

/-! ## What a copy reports -/

/-- INB after `n` bytes came (R250). -/
def countedDown (p : Phaser) (n : Nat) : Phaser := { p with inb := (p.inb + 2 ^ 32 - n % 2 ^ 32) % 2 ^ 32 }

theorem Phaser.Fits.withInb {p : Phaser} (h : p.Fits) {y : Nat} (hy : y < 4294967296) : Phaser.Fits { p with inb := y } := { h with inb := hy }

theorem fits_countedDown {p : Phaser} (h : p.Fits) (n : Nat) : (countedDown p n).Fits := h.withInb (Nat.mod_lt _ (by norm_num))

theorem phDeliver_of_ended {s : State} {wg : Nat} {w : Workgroup} (hw : findWg s wg = some w) (he : wgEnded w = true) (b n : Nat) :
    phDeliver s wg b n = s := by
  simp [phDeliver, hw, he]

theorem phOutb_of_ended {s : State} {wg : Nat} {w : Workgroup} (hw : findWg s wg = some w) (he : wgEnded w = true) (b : Nat) (up : Bool) :
    phOutb s wg b up = s := by
  simp [phOutb, hw, he]

theorem objectSet_phDeliver {s : State} {wg : Nat} {w : Workgroup} (hw : findWg s wg = some w) (he : wgEnded w = false) (b n : Nat) :
    ObjectSet s (phDeliver s wg b n) wg b (tested (countedDown (phRead s wg b) n)) (ends (countedDown (phRead s wg b) n)) (onPhaser wg b) := by
  have hdeliver : phDeliver s wg b n = phTest s wg b (countedDown (phRead s wg b) n) := by simp [phDeliver, hw, he, countedDown]
  rw [hdeliver]
  exact objectSet_phTest hw b (fits_countedDown (fits_phRead s wg b) n)

theorem objectSet_phOutb_up {s : State} {wg : Nat} {w : Workgroup} (hw : findWg s wg = some w) (he : wgEnded w = false) (b : Nat)
    (hroom : (phRead s wg b).outb < 65535) (f : Park → Bool) :
    ObjectSet s (phOutb s wg b true) wg b { phRead s wg b with outb := (phRead s wg b).outb + 1 } false f := by
  have hfits : Phaser.Fits { phRead s wg b with outb := (phRead s wg b).outb + 1 } :=
    { fits_phRead s wg b with outb := Nat.succ_lt_succ hroom }
  have hup : phOutb s wg b true = phWrite s wg b { phRead s wg b with outb := (phRead s wg b).outb + 1 } := by simp [phOutb, hw, he]
  rw [hup]
  exact objectSet_phWrite hw b hfits f

/-- OUTB counts down, and the gangs of PHWT.out run on at zero (R304). -/
theorem objectSet_phOutb_down {s : State} {wg : Nat} {w : Workgroup} (hw : findWg s wg = some w) (he : wgEnded w = false) (b : Nat) :
    ObjectSet s (phOutb s wg b false) wg b { phRead s wg b with outb := (phRead s wg b).outb - 1 } ((phRead s wg b).outb - 1 == 0)
      (· == .phwtOut wg b) := by
  have hwaits : (fun k : Park => match k with | .phwtOut w' b' => w' == wg && b' == b | _ => false) = (· == .phwtOut wg b) := by
    funext k
    cases k <;> simp [BEq.beq]
  have hfits : Phaser.Fits { phRead s wg b with outb := (phRead s wg b).outb - 1 } :=
    { fits_phRead s wg b with outb := lt_of_le_of_lt (Nat.sub_le _ _) (fits_phRead s wg b).outb }
  have hdown : phOutb s wg b false =
      if (phRead s wg b).outb - 1 = 0 then releaseParked (phWrite s wg b { phRead s wg b with outb := (phRead s wg b).outb - 1 }) (· == .phwtOut wg b)
      else phWrite s wg b { phRead s wg b with outb := (phRead s wg b).outb - 1 } := by
    rw [← hwaits]
    unfold phOutb
    rw [if_neg (by simp [hw, he])]
    rfl
  rw [hdown]
  by_cases hz : (phRead s wg b).outb - 1 = 0
  · rw [if_pos hz, hz]
    exact objectSet_release hw b (hz ▸ hfits) _
  · rw [if_neg hz, beq_eq_false_iff_ne.mpr hz]
    exact objectSet_phWrite hw b hfits _
end Sys2Proof.Machine

/-! Gangs whose wait is over stay out of it, and workgroups that a landing tile passes by (R257, R302). -/
namespace Sys2Proof.Machine

/-! ## Sequencer operations park no quad -/

/-- The quad is parked at a wait of `f`. -/
def Waits (f : Park → Bool) (a : Quad) : Prop := a.st = .parked ∧ f a.park = true

/-- No quad of the group waits so. -/
def NoneWaits (f : Park → Bool) (g : Group) : Prop := ∀ a ∈ g.quads, ¬Waits f a

section
variable {f : Park → Bool}

theorem not_waits_quadAt {g : Group} (h : NoneWaits f g) (q : Nat) : ¬Waits f (quadAt g q) := by
  rw [quadAt, List.getD_eq_getElem?_getD]
  cases hq : g.quads[q]? with
  | none => exact fun hw => by cases hw.1
  | some a => exact h a (List.mem_of_getElem? hq)

theorem noneWaits_modQuads {g : Group} (h : NoneWaits f g) (m : QMask) {F : Quad → Quad} (hF : ∀ a, ¬Waits f a → ¬Waits f (F a)) :
    NoneWaits f (modQuads g m F) := by
  intro a ha
  obtain ⟨q, -, rfl⟩ := List.mem_map.mp ha
  split
  · exact hF _ (not_waits_quadAt h q)
  · exact not_waits_quadAt h q

/-- A header action parks no quad: it leaves the state, ends the quad or holds it at its rejoin point. -/
theorem not_waits_headerAct {q q' : Quad} (hact : headerAct q = some q') (h : ¬Waits f q) : ¬Waits f q' := by
  unfold headerAct resumePending at hact
  grind [Waits]

theorem not_waits_headerRun (n : Nat) {q : Quad} (h : ¬Waits f q) : ¬Waits f (headerRun n q) := by
  induction n generalizing q with
  | zero => exact h
  | succ n ih =>
    unfold headerRun
    split
    next => exact h
    next q' hact => exact ih (not_waits_headerAct hact h)

theorem noneWaits_actHeaders {g : Group} (h : NoneWaits f g) : NoneWaits f (actHeaders g) := by
  intro a ha
  obtain ⟨q, hq, rfl⟩ := List.mem_map.mp ha
  split
  · exact not_waits_headerRun 24 (h q hq)
  · exact h q hq

theorem noneWaits_gangRelease {g k : Group} (hrel : gangRelease g = some k) (h : NoneWaits f g) : NoneWaits f k := by
  unfold gangRelease at hrel
  dsimp only at hrel
  split at hrel
  · cases hrel
  split at hrel
  · cases hrel
  · cases hrel
    exact noneWaits_modQuads h _ fun _ _ hw => by cases hw.1

theorem noneWaits_settleGo (n : Nat) {g : Group} (h : NoneWaits f g) : NoneWaits f (settleGo n g) := by
  induction n generalizing g with
  | zero => exact h
  | succ n ih =>
    rw [settleGo_succ]
    cases hrel : gangRelease (actHeaders g) with
    | none => exact noneWaits_actHeaders h
    | some k => exact ih (noneWaits_gangRelease hrel (noneWaits_actHeaders h))

theorem noneWaits_partGangs {g : Group} (h : NoneWaits f g) : NoneWaits f (partGangs g) := by
  intro a ha
  obtain ⟨q, -, rfl⟩ := List.mem_map.mp ha
  exact not_waits_quadAt h q

theorem noneWaits_mergeGangs (n : Nat) {g : Group} (h : NoneWaits f g) : NoneWaits f (mergeGangs n g) := by
  induction n generalizing g with
  | zero => exact h
  | succ n ih =>
    unfold mergeGangs
    split
    · exact h
    · exact ih (noneWaits_modQuads h _ fun _ ha => ha)

theorem noneWaits_settle {g : Group} (h : NoneWaits f g) : NoneWaits f (settle g) :=
  noneWaits_mergeGangs 4 (noneWaits_partGangs (noneWaits_settleGo 16 h))

/-- Where gangs that wait for `f` run on, none waits for it afterwards. -/
theorem noneWaits_unparkGrp (g : Group) : NoneWaits f (unparkGrp f g) := by
  refine noneWaits_settle fun a ha => ?_
  obtain ⟨q, -, rfl⟩ := List.mem_map.mp ha
  unfold unparkQuad
  split
  next => exact fun hw => by cases hw.1
  next h => exact h

/-- Gangs that run on park no other. -/
theorem noneWaits_unparkGrp_keeps (e : Park → Bool) {g : Group} (h : NoneWaits f g) : NoneWaits f (unparkGrp e g) := by
  refine noneWaits_settle fun a ha => ?_
  obtain ⟨q, hq, rfl⟩ := List.mem_map.mp ha
  unfold unparkQuad
  split
  · exact fun hw => by cases hw.1
  · exact h q hq

end

/-- No group of the state waits so. -/
def Freed (t : State) (f : Park → Bool) : Prop := ∀ w k g, findGrp t w k = some g → NoneWaits f g

/-- Whoever no longer waits in `s` does not in `t`. -/
def KeepsFreed (s t : State) : Prop := ∀ f, Freed s f → Freed t f

theorem KeepsFreed.trans {s t u : State} (h1 : KeepsFreed s t) (h2 : KeepsFreed t u) : KeepsFreed s u := fun f h => h2 f (h1 f h)

theorem keepsFreed_of_same {s t : State} (h : ∀ w k, findGrp t w k = findGrp s w k) : KeepsFreed s t :=
  fun _ hs w k g hg => hs w k g (by rwa [← h])

theorem freed_releaseParked (s : State) (f : Park → Bool) : Freed (releaseParked s f) f := by
  intro w k g hg
  rw [findGrp_releaseParked] at hg
  obtain ⟨g0, -, rfl⟩ := Option.map_eq_some_iff.mp hg
  exact noneWaits_unparkGrp g0

theorem keepsFreed_releaseParked (s : State) (e : Park → Bool) : KeepsFreed s (releaseParked s e) := by
  intro f hs w k g hg
  rw [findGrp_releaseParked] at hg
  obtain ⟨g0, hg0, rfl⟩ := Option.map_eq_some_iff.mp hg
  exact noneWaits_unparkGrp_keeps e (hs w k g0 hg0)

/-! ## Workgroups that are passed by -/

/-- The workgroup keeps its banks and its window from `s` to `t`; gangs of it may run on. -/
def Passed (s t : State) (v : Nat) : Prop :=
  ∀ w, findWg s v = some w → ∃ w', findWg t v = some w' ∧ w' = { w with groups := w'.groups, chk := w'.chk } ∧ wgEnded w' = wgEnded w

theorem Passed.trans {s t u : State} {v : Nat} (h1 : Passed s t v) (h2 : Passed t u v) : Passed s u v := by
  intro w hw
  obtain ⟨w1, hw1, hframe1, hend1⟩ := h1 w hw
  obtain ⟨w2, hw2, hframe2, hend2⟩ := h2 w1 hw1
  exact ⟨w2, hw2, by rw [hframe2, hframe1], hend2.trans hend1⟩

theorem passed_of_same {s t : State} {v : Nat} (h : findWg t v = findWg s v) : Passed s t v :=
  fun w hw => ⟨w, h.trans hw, rfl, rfl⟩

/-- Gangs that run on end no workgroup. -/
theorem wgEnded_unparkWg (f : Park → Bool) (w : Workgroup) : wgEnded (unparkWg f w) = wgEnded w := by
  have hgrp : ∀ g, (unparkGrp f g).ended = g.ended := fun g => by rw [unparkGrp, settle_frame]
  simp [wgEnded, unparkWg, List.all_map, Function.comp_def, hgrp]

theorem passed_releaseParked (s : State) (f : Park → Bool) (v : Nat) : Passed s (releaseParked s f) v :=
  fun w hw => ⟨unparkWg f w, by rw [findWg_releaseParked, hw]; rfl, rfl, wgEnded_unparkWg f w⟩

theorem Passed.winByte {s t : State} {v : Nat} {w : Workgroup} (h : Passed s t v) (hw : findWg s v = some w) (k : Nat) :
    winByte t v k = winByte s v k := by
  obtain ⟨w', hw', hframe, -⟩ := h w hw
  rw [Machine.winByte, hw', hframe, Machine.winByte, hw]

/-! ## What a report of delivered bytes leaves -/

/-- A report writes the object, and may free its gangs; or does nothing. -/
theorem phDeliver_shape (s : State) (wg b n : Nat) :
    phDeliver s wg b n = s ∨ ∃ p, phDeliver s wg b n = phWrite s wg b p ∨ phDeliver s wg b n = releaseParked (phWrite s wg b p) (onPhaser wg b) := by
  unfold phDeliver phTest
  dsimp only
  split
  · exact .inl rfl
  split
  · exact .inr ⟨_, .inr rfl⟩
  · exact .inr ⟨_, .inl rfl⟩

theorem phDeliver_rest (s : State) (wg b n : Nat) : phDeliver s wg b n = { s with wgs := (phDeliver s wg b n).wgs } := by
  obtain h | ⟨p, h | h⟩ := phDeliver_shape s wg b n <;> rw [h] <;> rfl

theorem passed_phDeliver (s : State) {wg v : Nat} (b n : Nat) (hv : v ≠ wg) : Passed s (phDeliver s wg b n) v := by
  have hwrite : ∀ p, Passed s (phWrite s wg b p) v := fun p => passed_of_same (by rw [findWg_phWrite, if_neg hv])
  obtain h | ⟨p, h | h⟩ := phDeliver_shape s wg b n <;> rw [h]
  · exact passed_of_same rfl
  · exact hwrite p
  · exact (hwrite p).trans (passed_releaseParked _ _ v)

theorem keepsFreed_phDeliver (s : State) (wg b n : Nat) : KeepsFreed s (phDeliver s wg b n) := by
  have hwrite : ∀ p, KeepsFreed s (phWrite s wg b p) := fun p => keepsFreed_of_same fun w k => findGrp_phWrite s wg b p w k
  obtain h | ⟨p, h | h⟩ := phDeliver_shape s wg b n <;> rw [h]
  · exact fun _ hs => hs
  · exact hwrite p
  · exact (hwrite p).trans (keepsFreed_releaseParked _ _)

/-- Where the object's generation ends, no gang waits at it any more (R302). -/
theorem freed_phDeliver {s : State} {wg : Nat} {w : Workgroup} (hw : findWg s wg = some w) (he : wgEnded w = false) {b n : Nat}
    (hends : ends (countedDown (phRead s wg b) n) = true) : Freed (phDeliver s wg b n) (onPhaser wg b) := by
  have hzero : (countedDown (phRead s wg b) n).pend = 0 ∧ (countedDown (phRead s wg b) n).inb = 0 := by simpa [ends] using hends
  have hdeliver : phDeliver s wg b n = phTest s wg b (countedDown (phRead s wg b) n) := by simp [phDeliver, hw, he, countedDown]
  rw [hdeliver, phTest, if_pos hzero]
  exact freed_releaseParked _ _
end Sys2Proof.Machine

/-! A tile read (R219, R257): what the end of an attempt leaves at the receivers, and where the next one goes. -/
namespace Sys2Proof.Machine

/-! ## One bank -/

/-- The bank has left LOADING for the copy, with state `ts` and reason `fail`, and holds `bytes` where it is VALID. -/
structure BankLands (c : Copy) (ts : TState) (fail : TFail) (bytes : List Byte) (b b' : Bank) : Prop where
  acc : b'.acc = b.acc
  mode : b'.mode = b.mode
  queue : ∀ e ∈ b'.queue, qEntryId e ≠ c.id
  state : b'.ts = ts
  reason : b'.fail = fail
  tset : b'.tset = c.slotSet
  tile : ts = .valid → ∀ (o : Nat) (y : Byte), bytes[o]? = some y → smGet b'.tile o 0 = y

/-- The copy's entry leaves the bank's queue. -/
def unqueue (c : Copy) (b : Bank) : Bank := { b with queue := b.queue.filter (fun e => qEntryId e != c.id) }

theorem mem_unqueue {c : Copy} {b : Bank} {e : QEntry} (h : e ∈ (unqueue c b).queue) : qEntryId e ≠ c.id := by
  simpa using (List.mem_filter.mp h).2

/-- A bank that has got its tile. -/
def filledBank (c : Copy) (kt nt : Nat) (bs : List Byte) (b : Bank) : Bank :=
  { unqueue c b with ts := .valid, fail := .none, tile := smPutList [] 0 bs 0, junk := none, tileBad := [], tfmt := BitVec.ofNat 2 c.wfmt,
                     tset := c.slotSet, tgen := c.slotGen, kt := BitVec.ofNat 12 kt, nt := BitVec.ofNat 12 nt }

/-- A bank whose bytes are free values from `free` on (R219). -/
def spoiledBank (free : Nat) (b : Bank) : Bank := { b with ts := .invalid, tile := [], junk := some free, tileBad := [] }

/-- A bank that is told of a tile that did not come. -/
def missedBank (c : Copy) (kt nt : Nat) (fail : TFail) (b : Bank) : Bank :=
  { unqueue c b with ts := .invalid, fail := fail, tfmt := BitVec.ofNat 2 c.wfmt, tset := c.slotSet, tgen := c.slotGen,
                     kt := BitVec.ofNat 12 kt, nt := BitVec.ofNat 12 nt }

/-- A bank that got none. -/
def emptiedBank (c : Copy) (kt nt : Nat) (fail : TFail) (free : Nat) (b : Bank) : Bank := missedBank c kt nt fail (spoiledBank free b)

theorem bankLands_filledBank (c : Copy) (kt nt : Nat) (bs : List Byte) (b : Bank) : BankLands c .valid .none bs b (filledBank c kt nt bs b) where
  acc := rfl
  mode := rfl
  queue := fun _ => mem_unqueue
  state := rfl
  reason := rfl
  tset := rfl
  tile := fun _ o y hy => by
    have ho : o < bs.length := (List.getElem?_eq_some_iff.mp hy).1
    show smGet (smPutList [] 0 bs 0) o 0 = y
    rw [smGet_smPutList, if_pos (by omega), Nat.sub_zero, List.getD_eq_getElem?_getD, hy, Option.getD_some]

theorem bankLands_emptiedBank (c : Copy) (kt nt : Nat) (fail : TFail) (free : Nat) (bytes : List Byte) (b : Bank) :
    BankLands c .invalid fail bytes b (emptiedBank c kt nt fail free b) where
  acc := rfl
  mode := rfl
  queue := fun _ => mem_unqueue
  state := rfl
  reason := rfl
  tset := rfl
  tile := fun h => TState.noConfusion h

/-! ## The bank of one receiver -/

/-- The state once the receiver's bank has got the tile, or has none; free values may be drawn. -/
def tileBanks (c : Copy) (bank kt nt : Nat) (data : Option (List Byte)) (fail : TFail) (s : State) (r : Nat) : State :=
  match data with
  | some bs => modBank s r bank (filledBank c kt nt bs)
  | none => { modBank s r bank (emptiedBank c kt nt fail s.freeCtr) with freeCtr := s.freeCtr + 32768 }

theorem modBank_modBank (s : State) (r bank : Nat) (F G : Bank → Bank) : modBank (modBank s r bank F) r bank G = modBank s r bank (G ∘ F) := by
  have hone : ∀ w : Workgroup, (if (if w.id = r then { w with banks := modifyAt w.banks bank F } else w).id = r
      then { (if w.id = r then { w with banks := modifyAt w.banks bank F } else w) with
        banks := modifyAt (if w.id = r then { w with banks := modifyAt w.banks bank F } else w).banks bank G }
      else (if w.id = r then { w with banks := modifyAt w.banks bank F } else w))
      = if w.id = r then { w with banks := modifyAt w.banks bank (G ∘ F) } else w := fun w => by
    by_cases h : w.id = r
    · simp only [h, if_true, modifyAt_modifyAt]
      rfl
    · simp only [h, if_false]
  simp only [modBank, modWg, List.map_map, State.mk.injEq, List.map_inj_left, true_and, and_true]
  exact fun w _ => hone w

/-- The copy's phaser at a receiver is told of a whole tile (R250). -/
def tileTold (c : Copy) (r : Nat) (s : State) : State :=
  match c.ph with
  | none => s
  | some b => phDeliver s r b (tileBytes c.wfmt)

/-- A tile ends at a receiver: its bank, and then its phaser; one that has ended only leaves the queue (R188, R250). -/
theorem tileLand_eq (c : Copy) (bank kt nt : Nat) (data : Option (List Byte)) (fail : TFail) (s : State) (r : Nat) :
    tileLand c bank kt nt data fail s r =
      if (findWg s r).any wgEnded then modBank s r bank (unqueue c) else tileTold c r (tileBanks c bank kt nt data fail s r) := by
  have hempty : modBank (spoil s r bank) r bank (missedBank c kt nt fail) = tileBanks c bank kt nt none fail s r :=
    congrArg (fun t : State => { t with freeCtr := s.freeCtr + 32768 }) (modBank_modBank s r bank (spoiledBank s.freeCtr) (missedBank c kt nt fail))
  unfold tileLand
  split
  · rfl
  · cases data with
    | some bs => rfl
    | none => exact congrArg (tileTold c r) hempty

section
variable (s : State) (r bank : Nat) (F : Bank → Bank)

theorem findWg_modBank (v : Nat) :
    findWg (modBank s r bank F) v = if v = r then (findWg s v).map (fun w => { w with banks := modifyAt w.banks bank F }) else findWg s v := by
  split
  next h => subst h; exact findWg_modWg_same s v _ fun _ => rfl
  next h => exact findWg_modWg_other s r v _ (fun _ => rfl) h

theorem findGrp_modBank (v k : Nat) : findGrp (modBank s r bank F) v k = findGrp s v k := by
  rw [findGrp, findWg_modBank, findGrp]
  split
  · cases findWg s v <;> rfl
  · rfl

theorem winByte_modBank (v k : Nat) : winByte (modBank s r bank F) v k = winByte s v k := by
  rw [winByte, findWg_modBank, winByte]
  by_cases h : v = r
  · rw [if_pos h]
    cases findWg s v <;> rfl
  · rw [if_neg h]

end

/-- What the tile does at its receiver is a change of its bank. -/
theorem tileBanks_wgs (c : Copy) (bank kt nt : Nat) (data : Option (List Byte)) (fail : TFail) (s : State) (r : Nat) :
    ∃ F n, tileBanks c bank kt nt data fail s r = { modBank s r bank F with freeCtr := n }
      ∧ ∀ bytes, (∀ bs, data = some bs → bytes = bs) → (data.isSome = true → fail = .none) → ∀ b,
          BankLands c (if data.isSome then .valid else .invalid) fail bytes b (F b) := by
  cases data with
  | some bs =>
    refine ⟨_, s.freeCtr, rfl, fun bytes hbytes hfail b => ?_⟩
    rw [hbytes bs rfl, hfail rfl]
    exact bankLands_filledBank c kt nt bs b
  | none => exact ⟨_, _, rfl, fun bytes _ _ b => bankLands_emptiedBank c kt nt fail s.freeCtr bytes b⟩

/-! ## One receiver -/

/-- The receiver's phaser has counted `n` bytes, with the completion test of R302. -/
structure PhaserTold (s t : State) (r pb n : Nat) : Prop where
  object : phRead t r pb = tested (countedDown (phRead s r pb) n)
  bytes : ∀ k, ¬(pb ≤ k ∧ k < pb + 16) → winByte t r k = winByte s r k
  freed : ends (countedDown (phRead s r pb) n) = true → Freed t (onPhaser r pb)

/-- The tile has ended at receiver `r`, whose workgroup `v` becomes `v'` and whose bank `b` becomes `b'`. -/
structure ReceiverLands (c : Copy) (bank : Nat) (ts : TState) (fail : TFail) (bytes : List Byte) (s t : State) (r : Nat) (v v' : Workgroup)
    (b b' : Bank) : Prop where
  here : findWg t r = some v'
  bank : v'.banks[bank]? = some b'
  ended : wgEnded v = true → b' = unqueue c b ∧ v'.win = v.win
  lands : wgEnded v = false → BankLands c ts fail bytes b b'
  window : wgEnded v = false → c.ph = none → v'.win = v.win
  phaser : wgEnded v = false → ∀ pb, c.ph = some pb → PhaserTold s t r pb (tileBytes c.wfmt)

section
variable {c : Copy} {bank kt nt : Nat} {data : Option (List Byte)} {fail : TFail} {bytes : List Byte} {s t u : State} {r : Nat} {v : Workgroup} {b : Bank}

/-- State and reason that a bank is left with. -/
def tileState (data : Option (List Byte)) : TState := if data.isSome then .valid else .invalid

/-- The bytes and the reason fit the outcome. -/
structure TileOutcome (data : Option (List Byte)) (fail : TFail) (bytes : List Byte) : Prop where
  bytes : ∀ bs, data = some bs → bytes = bs
  reason : data.isSome = true → fail = .none

theorem tileLand_lands (ho : TileOutcome data fail bytes) (hv : findWg s r = some v) (hb : v.banks[bank]? = some b) :
    ∃ v' b', ReceiverLands c bank (tileState data) fail bytes s (tileLand c bank kt nt data fail s r) r v v' b b' := by
  have hget : ∀ F : Bank → Bank, (modifyAt v.banks bank F)[bank]? = some (F b) := fun F => by rw [getElem?_modifyAt_same, hb]; rfl
  rw [tileLand_eq, hv, Option.any_some]
  by_cases he : wgEnded v = true
  · rw [if_pos he]
    have hno : wgEnded v ≠ false := by simp [he]
    exact ⟨{ v with banks := modifyAt v.banks bank (unqueue c) }, unqueue c b, by rw [findWg_modBank, if_pos rfl, hv]; rfl, hget _,
      fun _ => ⟨rfl, rfl⟩, fun h => absurd h hno, fun h => absurd h hno, fun h => absurd h hno⟩
  have he' : wgEnded v = false := by simpa using he
  rw [if_neg he]
  obtain ⟨F, n, hbanks, hlands⟩ := tileBanks_wgs c bank kt nt data fail s r
  have hhere : findWg (tileBanks c bank kt nt data fail s r) r = some { v with banks := modifyAt v.banks bank F } := by
    rw [hbanks]
    exact (findWg_modBank s r bank F r).trans (by rw [if_pos rfl, hv]; rfl)
  have hwin : ∀ k, winByte (tileBanks c bank kt nt data fail s r) r k = winByte s r k := fun k => by
    rw [hbanks]
    exact winByte_modBank s r bank F r k
  unfold tileTold
  cases hph : c.ph with
  | none =>
    exact ⟨_, _, hhere, hget F, fun h => absurd h he, fun _ => hlands bytes ho.bytes ho.reason b, fun _ _ => rfl, fun _ pb h => by simp [hph] at h⟩
  | some pb =>
    have hset := objectSet_phDeliver hhere he' pb (tileBytes c.wfmt)
    have hfreed := freed_phDeliver hhere he' (b := pb) (n := tileBytes c.wfmt)
    rw [phRead_congr fun i _ => hwin (pb + i)] at hset hfreed
    obtain ⟨v', hv', hframe⟩ := hset.wgs r _ hhere
    refine ⟨v', F b, hv', by rw [hframe]; exact hget F, fun h => absurd h he, fun _ => hlands bytes ho.bytes ho.reason b,
      fun _ h => by simp [hph] at h, fun _ pb' hpb => ?_⟩
    obtain rfl : pb = pb' := by simpa [hph] using hpb
    exact ⟨hset.object, fun k hk => (hset.bytes r k fun h => hk h.2).trans (hwin k), hfreed⟩

theorem passed_tileLand (c : Copy) (bank kt nt : Nat) (data : Option (List Byte)) (fail : TFail) (s : State) {r v : Nat} (hv : v ≠ r) :
    Passed s (tileLand c bank kt nt data fail s r) v := by
  have hmod : ∀ F, findWg (modBank s r bank F) v = findWg s v := fun F => by rw [findWg_modBank, if_neg hv]
  have hbanks : Passed s (tileBanks c bank kt nt data fail s r) v := by
    obtain ⟨F, n, hbanks, -⟩ := tileBanks_wgs c bank kt nt data fail s r
    rw [hbanks]
    exact passed_of_same (hmod F)
  rw [tileLand_eq]
  split
  · exact passed_of_same (hmod _)
  · unfold tileTold
    cases c.ph with
    | none => exact hbanks
    | some pb => exact hbanks.trans (passed_phDeliver _ pb _ hv)

theorem keepsFreed_tileLand (c : Copy) (bank kt nt : Nat) (data : Option (List Byte)) (fail : TFail) (s : State) (r : Nat) :
    KeepsFreed s (tileLand c bank kt nt data fail s r) := by
  have hbanks : KeepsFreed s (tileBanks c bank kt nt data fail s r) := by
    obtain ⟨F, n, hbanks, -⟩ := tileBanks_wgs c bank kt nt data fail s r
    rw [hbanks]
    exact keepsFreed_of_same (findGrp_modBank s r bank F)
  rw [tileLand_eq]
  split
  · exact keepsFreed_of_same (findGrp_modBank s r bank _)
  · unfold tileTold
    cases c.ph with
    | none => exact hbanks
    | some pb => exact hbanks.trans (keepsFreed_phDeliver _ r pb _)

/-- Neither memory nor the copies see the tile. -/
theorem tileLand_rest (c : Copy) (bank kt nt : Nat) (data : Option (List Byte)) (fail : TFail) (s : State) (r : Nat) :
    tileLand c bank kt nt data fail s r =
      { s with wgs := (tileLand c bank kt nt data fail s r).wgs, freeCtr := (tileLand c bank kt nt data fail s r).freeCtr } := by
  have hbanks : tileBanks c bank kt nt data fail s r =
      { s with wgs := (tileBanks c bank kt nt data fail s r).wgs, freeCtr := (tileBanks c bank kt nt data fail s r).freeCtr } := by
    obtain ⟨F, n, hbanks, -⟩ := tileBanks_wgs c bank kt nt data fail s r
    rw [hbanks]
    rfl
  rw [tileLand_eq]
  split
  · rfl
  · unfold tileTold
    cases c.ph with
    | none => exact hbanks
    | some pb =>
      simp only
      rw [phDeliver_rest, hbanks]

/-! ## The receivers one after the other -/

/-- A receiver where the tile has ended is passed by afterwards. -/
theorem ReceiverLands.then_passed {ts : TState} {v' : Workgroup} {b' : Bank} (h : ReceiverLands c bank ts fail bytes s t r v v' b b')
    (hpass : Passed t u r) (hfreed : KeepsFreed t u) : ∃ v'', ReceiverLands c bank ts fail bytes s u r v v'' b b' := by
  obtain ⟨v'', hv'', hframe, -⟩ := hpass v' h.here
  have hwin : v''.win = v'.win := by rw [hframe]
  refine ⟨v'', hv'', by rw [hframe]; exact h.bank, fun he => ⟨(h.ended he).1, hwin.trans (h.ended he).2⟩, h.lands,
    fun he hph => hwin.trans (h.window he hph), fun he pb hpb => ?_⟩
  have htold := h.phaser he pb hpb
  have hsame : ∀ k, winByte u r k = winByte t r k := hpass.winByte h.here
  exact ⟨(phRead_congr fun i _ => hsame _).trans htold.object, fun k hk => (hsame k).trans (htold.bytes k hk), fun hends => hfreed _ (htold.freed hends)⟩

/-- A receiver that was passed by before the tile ended there. -/
theorem ReceiverLands.after_passed {ts : TState} {v1 v' : Workgroup} {b' : Bank} (hv : findWg s r = some v) (hpass : Passed s t r)
    (hv1 : v1 = { v with groups := v1.groups, chk := v1.chk }) (hend : wgEnded v1 = wgEnded v)
    (h : ReceiverLands c bank ts fail bytes t u r v1 v' b b') : ReceiverLands c bank ts fail bytes s u r v v' b b' := by
  have hwin : v1.win = v.win := by rw [hv1]
  have hsame : ∀ k, winByte t r k = winByte s r k := hpass.winByte hv
  have hread : ∀ pb, phRead t r pb = phRead s r pb := fun pb => phRead_congr fun i _ => hsame _
  refine ⟨h.here, h.bank, fun he => ⟨(h.ended (hend.trans he)).1, (h.ended (hend.trans he)).2.trans hwin⟩, fun he => h.lands (hend.trans he),
    fun he hph => (h.window (hend.trans he) hph).trans hwin, fun he pb hpb => ?_⟩
  obtain ⟨hobject, hbytes, hfreed⟩ := h.phaser (hend.trans he) pb hpb
  rw [hread] at hobject hfreed
  exact ⟨hobject, fun k hk => (hbytes k hk).trans (hsame k), hfreed⟩

/-- The tile ends at every receiver in turn. -/
def landAll (c : Copy) (bank kt nt : Nat) (data : Option (List Byte)) (fail : TFail) (rs : List Nat) (s : State) : State :=
  rs.foldl (tileLand c bank kt nt data fail) s

theorem passed_landAll {rs : List Nat} {v : Nat} (hv : v ∉ rs) (s : State) : Passed s (landAll c bank kt nt data fail rs s) v := by
  induction rs generalizing s with
  | nil => exact passed_of_same rfl
  | cons r rs ih =>
    exact (passed_tileLand c bank kt nt data fail s (List.ne_of_not_mem_cons hv)).trans (ih (List.not_mem_of_not_mem_cons hv) _)

theorem keepsFreed_landAll (rs : List Nat) (s : State) : KeepsFreed s (landAll c bank kt nt data fail rs s) := by
  induction rs generalizing s with
  | nil => exact fun _ hs => hs
  | cons r rs ih => exact (keepsFreed_tileLand c bank kt nt data fail s r).trans (ih _)

theorem landAll_rest (rs : List Nat) (s : State) : landAll c bank kt nt data fail rs s =
    { s with wgs := (landAll c bank kt nt data fail rs s).wgs, freeCtr := (landAll c bank kt nt data fail rs s).freeCtr } := by
  induction rs generalizing s with
  | nil => rfl
  | cons r rs ih =>
    have hcons : landAll c bank kt nt data fail (r :: rs) s = landAll c bank kt nt data fail rs (tileLand c bank kt nt data fail s r) := rfl
    rw [hcons, ih, tileLand_rest]

theorem landAll_lands (ho : TileOutcome data fail bytes) {rs : List Nat} (hnodup : rs.Nodup) (hr : r ∈ rs) (s : State) {v : Workgroup}
    (hv : findWg s r = some v) (hb : v.banks[bank]? = some b) :
    ∃ v' b', ReceiverLands c bank (tileState data) fail bytes s (landAll c bank kt nt data fail rs s) r v v' b b' := by
  induction rs generalizing s v with
  | nil => cases hr
  | cons r0 rs ih =>
    obtain ⟨hnot, hrest⟩ := List.nodup_cons.mp hnodup
    by_cases hr0 : r = r0
    · subst hr0
      obtain ⟨v', b', hlands⟩ := tileLand_lands (c := c) (kt := kt) (nt := nt) ho hv hb
      obtain ⟨v'', hlands'⟩ := hlands.then_passed (passed_landAll hnot _) (keepsFreed_landAll rs _)
      exact ⟨v'', b', hlands'⟩
    · have hpass := passed_tileLand c bank kt nt data fail s hr0
      obtain ⟨v1, hv1, hframe, hend⟩ := hpass v hv
      obtain ⟨v', b', hlands⟩ := ih hrest ((List.mem_cons.mp hr).resolve_left hr0) _ hv1 (by rw [hframe]; exact hb)
      exact ⟨v', b', hlands.after_passed hv hpass hframe hend⟩

end
end Sys2Proof.Machine

/-! The events that end an attempt at a tile (R257): TILE_ATTEMPT_END and TILE_READ_TIMEOUT. -/
namespace Sys2Proof.Machine

/-! ## Copies by number -/

theorem findCopy_modCopy {s : State} {id : Nat} {c : Copy} (f : Copy → Copy) (hf : ∀ k, (f k).id = k.id) (h : findCopy s id = some c) :
    findCopy (modCopy s id f) id = some (f c) :=
  (find_map_same s.copies f Copy.id id hf).trans (congrArg (Option.map f) h)

theorem findCopy_id {s : State} {id : Nat} {c : Copy} (h : findCopy s id = some c) : c.id = id := by
  simpa using List.find?_some h

/-! ## The end of an attempt -/

/-- The copy with `tiles` still to come, at the start of the first of them. -/
def retryWith (tiles : List (Nat × List Nat × Word × Nat × Nat)) (c : Copy) : Copy :=
  { c with tiles := tiles, moved := 0, snap := [], started := false, waitPage := none, refused := [] }

/-- The copy goes on with `tiles`, its read lock where the next address is. -/
def goesOnWith (s : State) (c : Copy) (tiles : List (Nat × List Nat × Word × Nat × Nat)) : State := moveLock (modCopy s c.id (retryWith tiles)) c

theorem moveLock_rest (s : State) (c : Copy) : moveLock s c = { s with locks := (moveLock s c).locks, nextId := (moveLock s c).nextId } := by
  unfold moveLock
  dsimp only
  split <;> rfl

section
variable {s : State} {c : Copy} {bank kt nt addr : Nat} {more : List Nat} {crc : Word} {later : List (Nat × List Nat × Word × Nat × Nat)}

theorem goesOnWith_rest (tiles : List (Nat × List Nat × Word × Nat × Nat)) :
    goesOnWith s c tiles = { s with copies := (modCopy s c.id (retryWith tiles)).copies, locks := (goesOnWith s c tiles).locks,
                                    nextId := (goesOnWith s c tiles).nextId } := by
  unfold goesOnWith
  rw [moveLock_rest]
  rfl

theorem findCopy_goesOnWith (tiles : List (Nat × List Nat × Word × Nat × Nat)) (h : findCopy s c.id = some c) :
    findCopy (goesOnWith s c tiles) c.id = some (retryWith tiles c) := by
  rw [goesOnWith_rest]
  exact findCopy_modCopy _ (fun _ => rfl) h

theorem goesOnWith_wgs (tiles : List (Nat × List Nat × Word × Nat × Nat)) : (goesOnWith s c tiles).wgs = s.wgs := by rw [goesOnWith_rest]

section
variable (htiles : c.tiles = (bank, addr :: more, crc, kt, nt) :: later)
include htiles

theorem attemptEnd_good : attemptEnd s c none = landAll c bank kt nt (some (c.snap.map Prod.fst)) .none c.recv (goesOnWith s c later) := by
  unfold attemptEnd
  rw [htiles]
  rfl

theorem attemptEnd_over {f : TFail} (hmore : more = []) : attemptEnd s c (some f) = landAll c bank kt nt none f c.recv (goesOnWith s c later) := by
  unfold attemptEnd
  rw [htiles, hmore]
  rfl

theorem attemptEnd_again {f : TFail} (hmore : more ≠ []) : attemptEnd s c (some f) = goesOnWith s c ((bank, more, crc, kt, nt) :: later) := by
  obtain ⟨a, r, rfl⟩ := List.exists_cons_of_ne_nil hmore
  unfold attemptEnd
  rw [htiles]
  rfl

end

/-! ## The outcomes -/

/-- The tile has ended at every receiver that has the bank. -/
def TileEnds (c : Copy) (bank : Nat) (ts : TState) (fail : TFail) (bytes : List Byte) (s t : State) : Prop :=
  ∀ r ∈ c.recv, ∀ v b, findWg s r = some v → v.banks[bank]? = some b → ∃ v' b', ReceiverLands c bank ts fail bytes s t r v v' b b'

theorem tileEnds_landAll {data : Option (List Byte)} {fail : TFail} {bytes : List Byte} (ho : TileOutcome data fail bytes) (hnodup : c.recv.Nodup)
    (tiles : List (Nat × List Nat × Word × Nat × Nat)) :
    TileEnds c bank (tileState data) fail bytes s (landAll c bank kt nt data fail c.recv (goesOnWith s c tiles)) := by
  intro r hr v b hv hb
  have hsame : findWg (goesOnWith s c tiles) r = findWg s r := by rw [findWg, goesOnWith_wgs, findWg]
  obtain ⟨v', b', hlands⟩ := landAll_lands (c := c) (kt := kt) (nt := nt) ho hnodup hr (goesOnWith s c tiles) (hsame.trans hv) hb
  exact ⟨v', b', hlands.after_passed hv (passed_of_same hsame) rfl rfl⟩

/-- The copy tries the next address of the tile. -/
def TriesAgain (s t : State) (c : Copy) (tiles : List (Nat × List Nat × Word × Nat × Nat)) : Prop :=
  ∃ c', findCopy t c.id = some c' ∧ c'.tiles = tiles ∧ c'.started = false ∧ c'.moved = 0 ∧ t.wgs = s.wgs

/-- The outcome where the bytes are not good: the next address, or none is left. -/
theorem attemptEnd_bad (hfind : findCopy s c.id = some c) (htiles : c.tiles = (bank, addr :: more, crc, kt, nt) :: later) (hnodup : c.recv.Nodup)
    (f : TFail) (bytes : List Byte) :
    (more ≠ [] → TriesAgain s (attemptEnd s c (some f)) c ((bank, more, crc, kt, nt) :: later))
    ∧ (more = [] → TileEnds c bank .invalid f bytes s (attemptEnd s c (some f))) := by
  constructor
  · intro hmore
    rw [attemptEnd_again htiles hmore]
    exact ⟨_, findCopy_goesOnWith _ hfind, rfl, rfl, rfl, goesOnWith_wgs _⟩
  · intro hmore
    rw [attemptEnd_over htiles hmore]
    exact tileEnds_landAll (data := none) ⟨fun _ h => by simp at h, fun h => by simp at h⟩ hnodup later

/-- The outcome where the bytes are good. -/
theorem attemptEnd_valid (hfind : findCopy s c.id = some c) (htiles : c.tiles = (bank, addr :: more, crc, kt, nt) :: later) (hnodup : c.recv.Nodup) :
    TileEnds c bank .valid .none (c.snap.map Prod.fst) s (attemptEnd s c none) ∧ findCopy (attemptEnd s c none) c.id = some (retryWith later c)
      ∧ (attemptEnd s c none).mem = s.mem := by
  rw [attemptEnd_good htiles]
  refine ⟨tileEnds_landAll (data := some _) ⟨fun _ h => Option.some.inj h, fun _ => rfl⟩ hnodup later, ?_, ?_⟩
  · rw [landAll_rest]
    exact findCopy_goesOnWith later hfind
  · rw [landAll_rest, goesOnWith_rest]

/-! ## The events -/

section
variable (hfind : findCopy s s.arg.a = some c) (htile : isTileCopy c = true) (hstarted : c.started = true)
  (htiles : c.tiles = (bank, addr :: more, crc, kt, nt) :: later)
include hfind htile hstarted htiles

/-- A whole tile is judged by its bytes. -/
theorem exec_tileAttemptEnd_whole (hall : tileBytes c.wfmt ≤ c.moved) :
    exec .tileAttemptEnd s = .next (attemptEnd s c (if anyBad c.snap = false ∧ crc32c (c.snap.map Prod.fst) = crc.toNat then none else some .corrupt)) := by
  show execTileAttemptEnd s = _
  unfold execTileAttemptEnd
  rw [hfind]
  simp only [htile, hstarted, htiles, hall, if_true]
  by_cases hbad : anyBad c.snap = false
  · by_cases hcrc : crc32c (c.snap.map Prod.fst) = crc.toNat <;> simp [hbad, hcrc]
  · simp [hbad]

/-- A tile of which bytes are missing after 100 µs is given up. -/
theorem exec_late (hpart : c.moved < tileBytes c.wfmt) (hlate : 175000 < now s - c.attempt) {o : Host.Outcome State Fault Refusal}
    (ho : o ∈ [exec .tileReadTimeout s, exec .tileAttemptEnd s]) : o = .next (attemptEnd s c (some .missing)) := by
  have hover : attemptOver s c = true := decide_eq_true hlate
  rcases List.mem_pair.mp ho with rfl | rfl
  · show execTileReadTimeout s = _
    unfold execTileReadTimeout
    rw [hfind]
    simp [htile, hstarted, hover, hpart]
  · show execTileAttemptEnd s = _
    unfold execTileAttemptEnd
    rw [hfind]
    simp [htile, hstarted, htiles, hover, hpart]

end
end
end Sys2Proof.Machine

/-! What a copy reads and writes byte by byte (R251, R260) does not see how far the copies are, and a read of memory sees no window. -/
namespace Sys2Proof.Machine

/-- The state with other workgroups and copies. -/
def withStore (s : State) (W : List Workgroup) (K : List Copy) : State := { s with wgs := W, copies := K }

section
variable (s : State) (W : List Workgroup) (K : List Copy)

theorem withStore_self : withStore s s.wgs s.copies = s := rfl

theorem walkPart_withStore (part va : Nat) : walkPart (withStore s W K) part va = walkPart s part va := rfl

theorem translate_withStore (die part va : Nat) :
    translate (withStore s W K) die part va = ((translate s die part va).1, withStore (translate s die part va).2 W K) := by
  unfold translate
  rw [show tlbFind (withStore s W K) die part va = tlbFind s die part va from rfl, walkPart_withStore]
  cases tlbFind s die part va with
  | some p => rfl
  | none => cases walkPart s part va <;> rfl

theorem translateFor_withStore (die part va : Nat) (wr : Bool) :
    translateFor (withStore s W K) die part va wr = ((translateFor s die part va wr).1, withStore (translateFor s die part va wr).2 W K) := by
  unfold translateFor
  rw [translate_withStore]
  rcases translate s die part va with ⟨_ | p, s1⟩
  · rfl
  · dsimp only
    split <;> rfl

end

/-- With no rod at a yield point an access waits for the repair window and the open rods alone. -/
theorem stalledFor_of_noYield {s : State} (hy : NoYield s) (cls pa : Nat) :
    stalledFor s cls pa = (windowPa s pa || s.calls.any (fun c => c.st == .running && rodOpen c (placeOf s pa))) := by
  have hany : ∀ l : List Call, (∀ c ∈ l, c.yld = none) →
      (if l.all (fun c => c.st != .running) = true then false
        else l.any (fun c => rodOpen c (placeOf s pa) && match c.yld with
          | none => true
          | some w => cls != 0 && (yieldLimit s w || rodWaiters s c (· == 0)))) = l.any (fun c => c.st == .running && rodOpen c (placeOf s pa)) := by
    intro l hl
    have hterm : ∀ c ∈ l, (rodOpen c (placeOf s pa) && match c.yld with
        | none => true
        | some w => cls != 0 && (yieldLimit s w || rodWaiters s c (· == 0))) = (c.st == .running && rodOpen c (placeOf s pa)) := fun c hc => by
      rw [hl c hc]
      by_cases hst : c.st = .running <;> simp [rodOpen, hst]
    have hlist : l.any (fun c => rodOpen c (placeOf s pa) && match c.yld with
        | none => true
        | some w => cls != 0 && (yieldLimit s w || rodWaiters s c (· == 0))) = l.any (fun c => c.st == .running && rodOpen c (placeOf s pa)) := by
      rw [Bool.eq_iff_iff, List.any_eq_true, List.any_eq_true]
      exact exists_congr fun c => and_congr_right fun hc => by rw [hterm c hc]
    rw [hlist]
    split
    next h => exact (List.any_eq_false.mpr fun c hc => by simpa using fun hst => absurd hst (by simpa using List.all_eq_true.mp h c hc)).symm
    next => rfl
  rw [stalledFor, rodHolds]
  exact congrArg (windowPa s pa || ·) (hany s.calls hy)

/-- How far the copy is. -/
def movedTo (o : Nat) (c : Copy) : Copy := { c with moved := o }

section
variable {s : State} (W : List Workgroup) (K : List Copy) (c : Copy) (m : Nat)

theorem copyStalls_withStore (hy : NoYield s) (pa : Nat) : copyStalls (withStore s W K) (movedTo m c) pa = copyStalls s c pa := by
  have hy' : NoYield (withStore s W K) := hy
  rw [copyStalls, copyStalls, stalledFor_of_noYield hy, stalledFor_of_noYield hy']
  rfl

theorem noYield_of_onlyDies {s s1 : State} (hy : NoYield s) (h : s1 = { s with dies := s1.dies }) : NoYield s1 := by
  rw [h]
  exact hy

theorem copyRead_withStore (hy : NoYield s) (peer : Byte) (va : Nat) :
    copyRead (withStore s W K) (movedTo m c) peer va = ((copyRead s c peer va).1, withStore (copyRead s c peer va).2 W K) := by
  have hdies : (translateFor s c.die c.part va false).2 = { s with dies := (translateFor s c.die c.part va false).2.dies } := translateFor_frame _ _ _ _ _
  have hy1 : NoYield (translateFor s c.die c.part va false).2 := noYield_of_onlyDies hy hdies
  unfold copyRead
  rw [show (movedTo m c).refused = c.refused from rfl, show (movedTo m c).die = c.die from rfl, show (movedTo m c).part = c.part from rfl,
    translateFor_withStore]
  split
  · rfl
  · rcases htr : translateFor s c.die c.part va false with ⟨_ | p, s1⟩
    · rfl
    · rw [htr] at hy1
      dsimp only
      rw [copyStalls_withStore W K c m hy1]
      cases p.peer with
      | some k => rfl
      | none =>
        dsimp only
        split <;> rfl

/-- A read changes a TLB alone. -/
theorem copyRead_frame (s : State) (peer : Byte) (va : Nat) : (copyRead s c peer va).2 = { s with dies := (copyRead s c peer va).2.dies } := by
  have hdies := translateFor_frame s c.die c.part va false
  unfold copyRead
  split
  · rfl
  · rcases htr : translateFor s c.die c.part va false with ⟨_ | p, s1⟩ <;> rw [htr] at hdies
    · exact hdies
    · dsimp only
      cases p.peer with
      | some k => exact hdies
      | none =>
        dsimp only
        split
        · exact hdies
        · exact hdies

theorem boxRead_frame (s : State) (peer : Byte) (o : Nat) (ps : List BoxPart) :
    (boxRead s c peer o ps).2 = { s with dies := (boxRead s c peer o ps).2.dies } := by
  induction ps with
  | nil => rfl
  | cons p r ih =>
    unfold boxRead
    rcases hr : boxRead s c peer o r with ⟨x, s1⟩
    rw [hr] at ih
    cases x with
    | data hi hb =>
      dsimp only
      cases p.va with
      | none => exact ih
      | some va =>
        dsimp only
        have hf := copyRead_frame c s1 peer va
        rcases hread : copyRead s1 c peer va with ⟨y, s2⟩
        rw [hread] at hf
        have hs2 : s2 = { s with dies := s2.dies } := by
          dsimp only at hf ih
          rw [hf, ih]
        cases y <;> exact hs2
    | skip va => exact ih
    | fault va => exact ih
    | stall => exact ih

theorem boxRead_withStore (hy : NoYield s) (peer : Byte) (o : Nat) (ps : List BoxPart) :
    boxRead (withStore s W K) (movedTo m c) peer o ps = ((boxRead s c peer o ps).1, withStore (boxRead s c peer o ps).2 W K) := by
  induction ps with
  | nil => rfl
  | cons p r ih =>
    unfold boxRead
    rw [ih]
    have hdies := boxRead_frame c s peer o r
    rcases hr : boxRead s c peer o r with ⟨x, s1⟩
    rw [hr] at hdies
    cases x with
    | data hi hb =>
      dsimp only
      cases p.va with
      | none => rfl
      | some va =>
        dsimp only
        rw [copyRead_withStore (s := s1) W K c m (noYield_of_onlyDies hy hdies)]
        rcases copyRead s1 c peer va with ⟨y, s2⟩
        cases y <;> rfl
    | skip va => rfl
    | fault va => rfl
    | stall => rfl

end

/-! ## The source of a byte -/

/-- Source byte `o` of a copy out of a window: of the bytes kept at its start, or of the window. -/
def windowSource (s : State) (c : Copy) (o : Nat) : CopyByte :=
  match c.snap[o]? with
  | some b => .data b.1 b.2
  | none => match findWg s c.src.1 with
    | some w => let at' := c.src.2 + (if c.kind = .cpyc then swz o c.shape.swz else o)
      .data (smGet w.win at' 0) (winBad w at')
    | none => .stall

/-- The copy reads device memory. -/
def readsMemory (c : Copy) : Bool := c.kind == .cpy || c.kind == .cpymBox

theorem copySource_memory {c : Copy} (h : readsMemory c = true) (s : State) (peer : Byte) (o : Nat) :
    copySource s c peer o = boxRead s c peer o (boxByte c.shape c.coord o) := by
  unfold copySource
  cases hk : c.kind <;> simp_all [readsMemory]

theorem copySource_window {c : Copy} (h : readsMemory c = false) (s : State) (peer : Byte) (o : Nat) :
    copySource s c peer o = (windowSource s c o, s) := by
  have hwin : ∀ at', (match c.snap[o]? with
      | some b => (CopyByte.data b.1 b.2, s)
      | none => match findWg s c.src.1 with
        | some w => (match winRead w at' 1 with
          | [(b, bad)] => (.data b bad, s)
          | _ => (.stall, s))
        | none => (.stall, s)) = ((match c.snap[o]? with
      | some b => CopyByte.data b.1 b.2
      | none => match findWg s c.src.1 with
        | some w => .data (smGet w.win at' 0) (winBad w at')
        | none => .stall), s) := fun at' => by
    cases c.snap[o]? with
    | some b => rfl
    | none => cases findWg s c.src.1 <;> rfl
  unfold copySource windowSource
  split
  next hk => simp [readsMemory, hk] at h
  next hk => simp [readsMemory, hk] at h
  next => exact hwin _

theorem copySource_frame (s : State) (c : Copy) (peer : Byte) (o : Nat) :
    (copySource s c peer o).2 = { s with dies := (copySource s c peer o).2.dies } := by
  cases h : readsMemory c with
  | true => rw [copySource_memory h]; exact boxRead_frame c s peer o _
  | false => rw [copySource_window h]

/-- Where both states hold the same window bytes for it, or it reads memory, the copy reads the same. -/
theorem copySource_withStore {s : State} {c : Copy} (W : List Workgroup) (K : List Copy) (m : Nat) (hy : NoYield s) (peer : Byte) (o : Nat)
    (hwin : readsMemory c = false → windowSource (withStore s W K) c o = windowSource s c o) :
    copySource (withStore s W K) (movedTo m c) peer o = ((copySource s c peer o).1, withStore (copySource s c peer o).2 W K) := by
  cases h : readsMemory c with
  | true =>
    rw [copySource_memory (c := movedTo m c) h, copySource_memory h]
    exact boxRead_withStore W K c m hy peer o _
  | false =>
    rw [copySource_window (c := movedTo m c) h, copySource_window h]
    exact congrArg (·, withStore s W K) (hwin h)
end Sys2Proof.Machine

/-! Bytes of a copy at its receivers (R188, R251, R254): what each byte leaves in their windows, and a run of them. -/
namespace Sys2Proof.Machine

/-! ## One byte at one receiver -/

/-- The workgroup has not ended: it takes what copies bring (R188). -/
def Takes (s : State) (r : Nat) : Prop := ∃ v, findWg s r = some v ∧ wgEnded v = false

/-- A byte reaches offset `a` of a receiver's window. -/
def putOne (a : Nat) (y : Byte × Bool) (s : State) (r : Nat) : State := modWg s r (fun w => if wgEnded w then w else winWriteP w a [y])

theorem winWriteP_frame (w : Workgroup) (a : Nat) (bs : List (Byte × Bool)) :
    winWriteP w a bs = { w with win := smPutList w.win a (bs.map Prod.fst) 0, winPoison := (winWriteP w a bs).winPoison } := by
  rw [← winWrite_win]
  unfold winWriteP
  dsimp only
  rw [winWrite_frame]

section
variable (a : Nat) (y : Byte × Bool) (s : State) (r v b : Nat)

theorem findWg_putOne :
    findWg (putOne a y s r) v = if v = r then (findWg s v).map (fun w => if wgEnded w then w else winWriteP w a [y]) else findWg s v := by
  have hid : ∀ w : Workgroup, (if wgEnded w then w else winWriteP w a [y]).id = w.id := fun w => by
    split
    · rfl
    · rw [winWriteP_frame]
  split
  next h => subst h; exact findWg_modWg_same s v _ hid
  next h => exact findWg_modWg_other s r v _ hid h

theorem takes_putOne : Takes (putOne a y s r) v ↔ Takes s v := by
  have hended : ∀ w : Workgroup, wgEnded (if wgEnded w then w else winWriteP w a [y]) = wgEnded w := fun w => by
    split
    · rfl
    · rw [winWriteP_frame]; rfl
  unfold Takes
  rw [findWg_putOne]
  split
  · cases findWg s v <;> simp [hended]
  · rfl

variable {a y s r v b}

theorem winByte_putOne_in (h : Takes s r) : winByte (putOne a y s r) r a = y.1 := by
  obtain ⟨w, hw, he⟩ := h
  rw [winByte, findWg_putOne, if_pos rfl, hw]
  simp only [Option.map_some, he, Bool.false_eq_true, if_false]
  rw [winWriteP_frame]
  simp [smGet_smPutList]

theorem winByte_putOne_out (h : ¬(v = r ∧ Takes s v ∧ b = a)) : winByte (putOne a y s r) v b = winByte s v b := by
  by_cases hv : v = r
  case neg => rw [winByte, findWg_putOne, if_neg hv, winByte]
  case pos =>
    rw [winByte, findWg_putOne, if_pos hv, winByte]
    cases hw : findWg s v with
    | none => rfl
    | some w =>
      simp only [Option.map_some]
      by_cases he : wgEnded w = true
      · rw [if_pos he]
      · have hb : b ≠ a := fun hb => h ⟨hv, ⟨w, hw, by simpa using he⟩, hb⟩
        rw [if_neg he, winWriteP_frame]
        simp only [smGet_smPutList, List.map_cons, List.map_nil, List.length_singleton]
        rw [if_neg (by omega)]

end

/-! ## One byte at every receiver -/

def putAll (rs : List Nat) (a : Nat) (y : Byte × Bool) (s : State) : State := rs.foldl (putOne a y) s

theorem takes_putAll (rs : List Nat) (a : Nat) (y : Byte × Bool) (s : State) (v : Nat) : Takes (putAll rs a y s) v ↔ Takes s v := by
  induction rs generalizing s with
  | nil => rfl
  | cons r rs ih => exact (ih (putOne a y s r)).trans (takes_putOne a y s r v)

theorem findWg_putAll_other {rs : List Nat} {v : Nat} (hv : v ∉ rs) (a : Nat) (y : Byte × Bool) (s : State) : findWg (putAll rs a y s) v = findWg s v := by
  induction rs generalizing s with
  | nil => rfl
  | cons r rs ih =>
    have hone : findWg (putOne a y s r) v = findWg s v := by rw [findWg_putOne, if_neg (List.ne_of_not_mem_cons hv)]
    exact (ih (List.not_mem_of_not_mem_cons hv) _).trans hone

theorem winByte_putAll_out {rs : List Nat} {a v b : Nat} {y : Byte × Bool} {s : State} (h : ¬(v ∈ rs ∧ Takes s v ∧ b = a)) :
    winByte (putAll rs a y s) v b = winByte s v b := by
  induction rs generalizing s with
  | nil => rfl
  | cons r rs ih =>
    have hrest : ¬(v ∈ rs ∧ Takes (putOne a y s r) v ∧ b = a) := fun ⟨hmem, ht, hb⟩ =>
      h ⟨List.mem_cons_of_mem r hmem, (takes_putOne a y s r v).mp ht, hb⟩
    have hone : ¬(v = r ∧ Takes s v ∧ b = a) := fun ⟨hv, ht, hb⟩ => h ⟨hv ▸ List.mem_cons_self, ht, hb⟩
    exact (ih hrest).trans (winByte_putOne_out hone)

theorem winByte_putAll_in {rs : List Nat} {a r : Nat} {y : Byte × Bool} {s : State} (hr : r ∈ rs) (ht : Takes s r) :
    winByte (putAll rs a y s) r a = y.1 := by
  induction rs generalizing s with
  | nil => cases hr
  | cons r0 rs ih =>
    by_cases hrest : r ∈ rs
    · exact ih hrest ((takes_putOne a y s r0 r).mpr ht)
    · obtain rfl : r = r0 := (List.mem_cons.mp hr).resolve_right hrest
      exact (winByte_putAll_out (s := putOne a y s r) fun h => hrest h.1).trans (winByte_putOne_in ht)

theorem putAll_withStore (rs : List Nat) (a : Nat) (y : Byte × Bool) (s u : State) (K : List Copy) :
    putAll rs a y (withStore s u.wgs K) = withStore s (putAll rs a y u).wgs K := by
  induction rs generalizing u with
  | nil => rfl
  | cons r rs ih => exact ih (putOne a y u r)

/-! ## A run of bytes -/

/-- Where byte `o` of the copy lies in a receiver's window. -/
def placeAt (c : Copy) (o : Nat) : Nat := c.boff + (if c.kind = .cpys then o else swz o c.shape.swz)

/-- The bytes `ys`, from byte `o` on, at every receiver. -/
def putRun (c : Copy) : List (Byte × Bool) → Nat → State → State
  | [], _, s => s
  | y :: ys, o, s => putRun c ys (o + 1) (putAll c.recv (placeAt c o) y s)

theorem takes_putRun (c : Copy) (ys : List (Byte × Bool)) (o : Nat) (s : State) (v : Nat) : Takes (putRun c ys o s) v ↔ Takes s v := by
  induction ys generalizing o s with
  | nil => rfl
  | cons y ys ih => exact (ih (o + 1) _).trans (takes_putAll _ _ _ _ _)

theorem winByte_putRun_out {c : Copy} {ys : List (Byte × Bool)} {o v b : Nat} {s : State}
    (h : ¬(v ∈ c.recv ∧ Takes s v ∧ ∃ i, i < ys.length ∧ b = placeAt c (o + i))) : winByte (putRun c ys o s) v b = winByte s v b := by
  induction ys generalizing o s with
  | nil => rfl
  | cons y ys ih =>
    have hrest : ¬(v ∈ c.recv ∧ Takes (putAll c.recv (placeAt c o) y s) v ∧ ∃ i, i < ys.length ∧ b = placeAt c (o + 1 + i)) :=
      fun ⟨hv, ht, i, hi, hb⟩ =>
        h ⟨hv, (takes_putAll _ _ _ _ _).mp ht, i + 1, by simpa using hi, by rw [hb]; congr 1; omega⟩
    exact (ih hrest).trans (winByte_putAll_out fun ⟨hv, ht, hb⟩ => h ⟨hv, ht, 0, by simp, hb⟩)

theorem winByte_putRun_in {c : Copy} {ys : List (Byte × Bool)} {o r : Nat} {s : State} (hr : r ∈ c.recv) (ht : Takes s r)
    (hdist : ∀ i j, i < ys.length → j < ys.length → placeAt c (o + i) = placeAt c (o + j) → i = j) {i : Nat} {y : Byte × Bool} (hy : ys[i]? = some y) :
    winByte (putRun c ys o s) r (placeAt c (o + i)) = y.1 := by
  induction ys generalizing o s i with
  | nil => cases hy
  | cons y0 ys ih =>
    cases i with
    | zero =>
      obtain rfl : y0 = y := Option.some.inj hy
      refine (winByte_putRun_out (ys := ys) (o := o + 1) (s := putAll c.recv (placeAt c o) y0 s) fun ⟨_, _, j, hj, he⟩ => ?_).trans
        (winByte_putAll_in hr ht)
      have hzero := hdist 0 (j + 1) (by simp) (by simpa using hj) (he.trans (congrArg (placeAt c) (by omega)))
      omega
    | succ i =>
      have hnext : o + (i + 1) = o + 1 + i := by omega
      rw [hnext]
      refine ih ((takes_putAll _ _ _ _ _).mpr ht) (fun j k hj hk he => ?_) hy
      have hsucc := hdist (j + 1) (k + 1) (by simpa using hj) (by simpa using hk)
        (by rw [show o + (j + 1) = o + 1 + j by omega, show o + (k + 1) = o + 1 + k by omega]; exact he)
      omega

/-- Within a 16-byte piece of the copy no two bytes lie at one place: the swizzle moves the piece as a whole. -/
theorem placeAt_inj {c : Copy} {o i j : Nat} (hi : o % 16 + i < 16) (hj : o % 16 + j < 16) (h : placeAt c (o + i) = placeAt c (o + j)) : i = j := by
  unfold placeAt swz at h
  have hblock : (o + i) / 128 = (o + j) / 128 := by omega
  split at h
  · omega
  split at h
  · omega
  · rw [hblock] at h
    have hxor : o + i = o + j := Nat.xor_left_injective (Nat.add_left_cancel h)
    omega
end Sys2Proof.Machine

/-! The next piece of a copy (R249, R251, R260, R295): a run of its bytes, in windows or in memory, and a piece whose page faults. -/
namespace Sys2Proof.Machine

/-! ## One byte after the other -/

/-- One byte of the copy further. -/
def oneMore (c : Copy) : Copy := { c with moved := c.moved + 1 }

theorem copyMove_data {u u1 u2 : State} {c : Copy} {o : Nat} {bs : List Byte} {y y' : Byte} {bad bad' : Bool} (tag n : Nat)
    (hfind : findCopy u c.id = some (movedTo o c)) (hleft : o < c.total) (hwait : c.waitPage = none)
    (hread : copySource u (movedTo o c) (bs.headD 0) o = (.data y bad, u1)) (hput : copyPut u1 (movedTo o c) o y bad = (.data y' bad', u2)) :
    copyMove c.id bs tag (n + 1) u = copyMove c.id bs.tail tag n (modCopy u2 c.id oneMore) := by
  have hgo : ¬((movedTo o c).total ≤ (movedTo o c).moved ∨ (movedTo o c).waitPage.isSome = true) := by
    have : ¬c.total ≤ o := by omega
    simpa [movedTo, hwait] using this
  conv_lhs => unfold copyMove
  simp only [hfind]
  rw [if_neg hgo, show (movedTo o c).moved = o from rfl, hread]
  dsimp only
  rw [hput]
  rfl

theorem sourceRun_succ {c : Copy} {n o : Nat} {bs : List Byte} {s s' : State} {ys : List (Byte × Bool)}
    (h : sourceRun c (n + 1) bs o s = some (ys, s')) : ∃ y bad s1 zs, copySource s c (bs.headD 0) o = (.data y bad, s1)
      ∧ sourceRun c n bs.tail (o + 1) s1 = some (zs, s') ∧ ys = (y, bad) :: zs := by
  unfold sourceRun at h
  split at h
  next y bad s1 hread =>
    obtain ⟨⟨zs, s''⟩, hrest, heq⟩ := Option.map_eq_some_iff.mp h
    obtain ⟨rfl, rfl⟩ := Prod.mk.inj heq
    exact ⟨y, bad, s1, zs, hread, hrest, rfl⟩
  next => cases h

theorem boxRun_cons {c : Copy} {o : Nat} {y : Byte × Bool} {ys : List (Byte × Bool)} {s s' : State} {ws : List (Nat × Byte)}
    (h : boxRun c (y :: ys) o s = some (ws, s')) : ∃ w1 s1 w2, partsRun c (boxByte c.shape c.coord o) y.1 y.2 s = some (w1, s1)
      ∧ boxRun c ys (o + 1) s1 = some (w2, s') ∧ ws = w1 ++ w2 := by
  unfold boxRun at h
  split at h
  next w1 s1 hparts =>
    obtain ⟨⟨w2, s''⟩, hrest, heq⟩ := Option.map_eq_some_iff.mp h
    obtain ⟨rfl, rfl⟩ := Prod.mk.inj heq
    exact ⟨w1, s1, w2, hparts, hrest, rfl⟩
  next => cases h

/-! ## What a run of reads leaves -/

theorem copySource_dies {s s1 : State} {c : Copy} {peer : Byte} {o : Nat} {x : CopyByte} (h : copySource s c peer o = (x, s1)) :
    s1 = { s with dies := s1.dies } := by
  have hf := copySource_frame s c peer o
  rwa [h] at hf

theorem sourceRun_frame {c : Copy} {n o : Nat} {bs : List Byte} {s s' : State} {ys : List (Byte × Bool)} (h : sourceRun c n bs o s = some (ys, s')) :
    s' = { s with dies := s'.dies } := by
  induction n generalizing bs o s ys with
  | zero =>
    obtain ⟨-, rfl⟩ := Prod.mk.inj (Option.some.inj h)
    rfl
  | succ n ih =>
    obtain ⟨y, bad, s1, zs, hread, hrest, -⟩ := sourceRun_succ h
    rw [ih hrest, copySource_dies hread]

theorem length_sourceRun {c : Copy} {n o : Nat} {bs : List Byte} {s s' : State} {ys : List (Byte × Bool)} (h : sourceRun c n bs o s = some (ys, s')) :
    ys.length = n := by
  induction n generalizing bs o s ys with
  | zero =>
    obtain ⟨rfl, -⟩ := Prod.mk.inj (Option.some.inj h)
    rfl
  | succ n ih =>
    obtain ⟨y, bad, s1, zs, -, hrest, rfl⟩ := sourceRun_succ h
    rw [List.length_cons, ih hrest]

/-- A copy out of a window reads it as it is. -/
theorem sourceRun_window {c : Copy} (hwin : readsMemory c = false) {n o : Nat} {bs : List Byte} {s s' : State} {ys : List (Byte × Bool)}
    (h : sourceRun c n bs o s = some (ys, s')) : s' = s := by
  induction n generalizing bs o s ys with
  | zero => exact (Prod.mk.inj (Option.some.inj h)).2.symm
  | succ n ih =>
    obtain ⟨y, bad, s1, zs, hread, hrest, -⟩ := sourceRun_succ h
    rw [copySource_window hwin] at hread
    obtain ⟨-, rfl⟩ := Prod.mk.inj hread
    exact ih hrest

/-! ## A run of bytes at the receivers -/

/-- Both states show the copy the same window bytes. -/
def SeesSame (c : Copy) (s u : State) : Prop := readsMemory c = false → ∀ o, o < c.total → windowSource u c o = windowSource s c o

theorem windowSource_congr {s u : State} {c : Copy} (h : findWg u c.src.1 = findWg s c.src.1) (o : Nat) : windowSource u c o = windowSource s c o := by
  unfold windowSource
  rw [h]

/-- No byte that the copy brings changes one that it is to read: where they share a window it reads what it kept at its start (R251). -/
theorem SeesSame.put {c : Copy} {s u : State} (h : SeesSame c s u) (hkept : copyOverlaps c = true → c.snap.length = c.total)
    (hkind : c.kind = .cpy ∨ c.kind = .cpymBox ∨ c.kind = .cpys) (a : Nat) (y : Byte × Bool) : SeesSame c s (putAll c.recv a y u) := by
  intro hwin o ho
  rw [← h hwin o ho]
  have hcpys : c.kind = .cpys := by
    rcases hkind with hk | hk | hk
    · simp [readsMemory, hk] at hwin
    · simp [readsMemory, hk] at hwin
    · exact hk
  by_cases hover : copyOverlaps c = true
  · have hsnap : o < c.snap.length := by rw [hkept hover]; exact ho
    simp only [windowSource, List.getElem?_eq_getElem hsnap]
  · have hnot : c.src.1 ∉ c.recv := by simpa [copyOverlaps, hcpys] using hover
    exact windowSource_congr (findWg_putAll_other hnot a y u) o

theorem copyPut_windows {c : Copy} (hkind : c.kind ≠ .cpyc) (s : State) (m o : Nat) (y : Byte) (bad : Bool) :
    copyPut s (movedTo m c) o y bad = (.data y bad, putAll c.recv (placeAt c o) (y, bad) s) := by
  unfold copyPut
  split
  next h => exact absurd h hkind
  next => rfl

theorem find_oneMore {K : List Copy} {c : Copy} {o : Nat} (h : K.find? (fun k => k.id == c.id) = some (movedTo o c)) :
    (K.map fun k => if k.id = c.id then oneMore k else k).find? (fun k => k.id == c.id) = some (movedTo (o + 1) c) :=
  (find_map_same K oneMore Copy.id c.id fun _ => rfl).trans (congrArg (Option.map oneMore) h)

/-- A run of bytes that can all be read comes to the receivers byte by byte. -/
theorem copyMove_put {c : Copy} {s : State} (hkind : c.kind = .cpy ∨ c.kind = .cpymBox ∨ c.kind = .cpys) (hwait : c.waitPage = none)
    (hkept : copyOverlaps c = true → c.snap.length = c.total) (tag n : Nat) {bs : List Byte} {o : Nat} {v v' u : State} {K : List Copy}
    {ys : List (Byte × Bool)} (hrun : sourceRun c n bs o v = some (ys, v')) (hy : NoYield v)
    (hsees : SeesSame c s u) (hv : SeesSame c s v) (hfind : K.find? (fun k => k.id == c.id) = some (movedTo o c)) (hleft : o + n ≤ c.total) :
    ∃ K', copyMove c.id bs tag n (withStore v u.wgs K) = withStore v' (putRun c ys o u).wgs K'
      ∧ K'.find? (fun k => k.id == c.id) = some (movedTo (o + n) c) := by
  have hnot : c.kind ≠ .cpyc := by rcases hkind with h | h | h <;> rw [h] <;> decide
  induction n generalizing bs o v u K ys with
  | zero =>
    obtain ⟨rfl, rfl⟩ := Prod.mk.inj (Option.some.inj hrun)
    exact ⟨K, rfl, hfind⟩
  | succ n ih =>
    obtain ⟨y, bad, v1, zs, hread, hrest, rfl⟩ := sourceRun_succ hrun
    have hdies := copySource_dies hread
    have hsame : readsMemory c = false → windowSource (withStore v u.wgs K) c o = windowSource v c o := fun hw =>
      (hsees hw o (by omega)).trans (hv hw o (by omega)).symm
    have hread' : copySource (withStore v u.wgs K) (movedTo o c) (bs.headD 0) o = (.data y bad, withStore v1 u.wgs K) := by
      rw [copySource_withStore u.wgs K o hy _ o hsame, hread]
    have hput : copyPut (withStore v1 u.wgs K) (movedTo o c) o y bad = (.data y bad, withStore v1 (putAll c.recv (placeAt c o) (y, bad) u).wgs K) := by
      rw [copyPut_windows hnot, putAll_withStore]
    have hv1 : SeesSame c s v1 := fun hw k hk => by
      rw [← hv hw k hk, hdies]
      exact windowSource_congr rfl k
    obtain ⟨K', hmove, hfind'⟩ := ih hrest (noYield_of_onlyDies hy hdies) (hsees.put hkept hkind _ _) hv1 (find_oneMore hfind) (by omega)
    refine ⟨K', ?_, by rw [hfind']; congr 2; omega⟩
    exact (copyMove_data (u := withStore v u.wgs K) tag n hfind (by omega) hwait hread' hput).trans hmove

/-! ## A run of bytes in memory -/

/-- A part that lies nowhere is passed over. -/
theorem partsRun_none {c : Copy} {p : BoxPart} {r : List BoxPart} {y : Byte} {bad : Bool} {v v' : State} {ws : List (Nat × Byte)}
    (hva : p.va = none) (h : partsRun c (p :: r) y bad v = some (ws, v')) : partsRun c r (BitVec.ofNat 8 (y.toNat / 16)) bad v = some (ws, v') := by
  simpa only [partsRun, hva] using h

theorem partsRun_cons {c : Copy} {p : BoxPart} {r : List BoxPart} {y : Byte} {bad : Bool} {v v' : State} {ws : List (Nat × Byte)} {va : Nat}
    (hva : p.va = some va) (h : partsRun c (p :: r) y bad v = some (ws, v')) :
    ∃ q v1 x w2, c.refused.contains (pageOf va) = false ∧ translateFor v c.die c.part va true = (some q, v1) ∧ q.peer = none
      ∧ copyStalls v1 c q.pa = false
      ∧ x = (if fmtBits c.shape.fmt = 4 then BitVec.ofNat 8 (if p.high then (memByte v1 q.pa).toNat % 16 + 16 * (y.toNat % 16)
          else (memByte v1 q.pa).toNat / 16 * 16 + y.toNat % 16) else y)
      ∧ partsRun c r (BitVec.ofNat 8 (y.toNat / 16)) bad (memWriteP v1 q.pa [(x, bad)]) = some (w2, v') ∧ ws = (q.pa, x) :: w2 := by
  unfold partsRun at h
  rw [hva] at h
  dsimp only at h
  split at h
  · cases h
  next href =>
    split at h
    next q v1 htr =>
      split at h
      · cases h
      next hfree =>
        obtain ⟨⟨w2, v2⟩, hrest, heq⟩ := Option.map_eq_some_iff.mp h
        obtain ⟨rfl, rfl⟩ := Prod.mk.inj heq
        obtain ⟨hpeer, hstall⟩ : q.peer = none ∧ copyStalls v1 c q.pa = false := by simpa using hfree
        exact ⟨q, v1, _, w2, by simpa using href, htr, hpeer, hstall, rfl, hrest, rfl⟩
    next => cases h

theorem partsRun_frame {c : Copy} {ps : List BoxPart} {y : Byte} {bad : Bool} {v v' : State} {ws : List (Nat × Byte)}
    (h : partsRun c ps y bad v = some (ws, v')) : v' = { v with dies := v'.dies, mem := v'.mem, memPoison := v'.memPoison } := by
  induction ps generalizing y v ws with
  | nil =>
    obtain ⟨-, rfl⟩ := Prod.mk.inj (Option.some.inj h)
    rfl
  | cons p r ih =>
    cases hva : p.va with
    | none => exact ih (partsRun_none hva h)
    | some va =>
      obtain ⟨q, v1, x, w2, -, htr, -, -, -, hrest, -⟩ := partsRun_cons hva h
      rw [ih hrest, onlyDies_of_translateFor htr]
      rfl

theorem boxWrite_of_partsRun {c : Copy} (W : List Workgroup) (K : List Copy) (m : Nat) {ps : List BoxPart} {y : Byte} {bad : Bool} {v v' : State}
    {ws : List (Nat × Byte)} (hy : NoYield v) (h : partsRun c ps y bad v = some (ws, v')) :
    ∃ y' bad', boxWrite (withStore v W K) (movedTo m c) y bad ps = (.data y' bad', withStore v' W K) := by
  induction ps generalizing y v ws with
  | nil =>
    obtain ⟨-, rfl⟩ := Prod.mk.inj (Option.some.inj h)
    exact ⟨y, bad, rfl⟩
  | cons p r ih =>
    cases hva : p.va with
    | none =>
      obtain ⟨y', bad', hwrite⟩ := ih hy (partsRun_none hva h)
      exact ⟨y', bad', by unfold boxWrite; simp only [hva]; exact hwrite⟩
    | some va =>
      obtain ⟨q, v1, x, w2, href, htr, hpeer, hstall, hx, hrest, -⟩ := partsRun_cons hva h
      have hy1 : NoYield v1 := noYield_of_onlyDies hy (onlyDies_of_translateFor htr)
      obtain ⟨y', bad', hwrite⟩ := ih (v := memWriteP v1 q.pa [(x, bad)]) hy1 hrest
      refine ⟨y', bad', ?_⟩
      have htr' : translateFor (withStore v W K) c.die c.part va true = (some q, withStore v1 W K) := by rw [translateFor_withStore, htr]
      unfold boxWrite
      simp only [hva]
      rw [show (movedTo m c).refused = c.refused from rfl, href]
      simp only [Bool.false_eq_true, if_false]
      rw [show (movedTo m c).die = c.die from rfl, show (movedTo m c).part = c.part from rfl, htr']
      simp only [hpeer]
      rw [copyStalls_withStore W K c m hy1, hstall]
      simp only [Bool.false_eq_true, if_false]
      rw [← hwrite, hx]
      by_cases hfmt : fmtBits c.shape.fmt = 4
      · simp only [movedTo, hfmt, bne_self_eq_false, Bool.false_eq_true, if_false, if_true]
        rfl
      · have hne : (fmtBits c.shape.fmt != 4) = true := by simpa using hfmt
        simp only [movedTo, hfmt, hne, if_false, if_true]
        rfl

theorem boxRun_frame {c : Copy} {ys : List (Byte × Bool)} {o : Nat} {v v' : State} {ws : List (Nat × Byte)} (h : boxRun c ys o v = some (ws, v')) :
    v' = { v with dies := v'.dies, mem := v'.mem, memPoison := v'.memPoison } := by
  induction ys generalizing o v ws with
  | nil =>
    obtain ⟨-, rfl⟩ := Prod.mk.inj (Option.some.inj h)
    rfl
  | cons y ys ih =>
    obtain ⟨w1, v1, w2, hparts, hrest, -⟩ := boxRun_cons h
    rw [ih hrest, partsRun_frame hparts]

/-- A run of bytes that can all be read and written comes to memory byte by byte. -/
theorem copyMove_box {c : Copy} {s : State} (hkind : c.kind = .cpyc) (hwait : c.waitPage = none) (tag n : Nat) {bs : List Byte} {o : Nat}
    {v v' : State} {K : List Copy} {ys : List (Byte × Bool)} {s' : State} {ws : List (Nat × Byte)} (hrun : sourceRun c n bs o s = some (ys, s'))
    (hbox : boxRun c ys o v = some (ws, v')) (hy : NoYield v) (hwgs : v.wgs = s.wgs)
    (hfind : K.find? (fun k => k.id == c.id) = some (movedTo o c)) (hleft : o + n ≤ c.total) :
    ∃ K', copyMove c.id bs tag n (withStore v v.wgs K) = withStore v' v'.wgs K' ∧ K'.find? (fun k => k.id == c.id) = some (movedTo (o + n) c) := by
  have hwin : readsMemory c = false := by simp [readsMemory, hkind]
  induction n generalizing bs o v K ys ws with
  | zero =>
    obtain ⟨rfl, -⟩ := Prod.mk.inj (Option.some.inj hrun)
    obtain ⟨-, rfl⟩ := Prod.mk.inj (Option.some.inj hbox)
    exact ⟨K, rfl, hfind⟩
  | succ n ih =>
    obtain ⟨y, bad, s1, zs, hread, hrest, rfl⟩ := sourceRun_succ hrun
    obtain ⟨w1, v1, w2, hparts, hbox', -⟩ := boxRun_cons hbox
    rw [copySource_window hwin] at hread
    obtain ⟨hdata, rfl⟩ := Prod.mk.inj hread
    have hframe := partsRun_frame hparts
    have hwgs1 : v1.wgs = v.wgs := by rw [hframe]
    have hread' : copySource (withStore v v.wgs K) (movedTo o c) (bs.headD 0) o = (.data y bad, withStore v v.wgs K) := by
      rw [copySource_window (c := movedTo o c) hwin, ← hdata]
      have hsame : findWg (withStore v v.wgs K) c.src.1 = findWg s c.src.1 := by rw [findWg, findWg, ← hwgs]; rfl
      exact congrArg (·, withStore v v.wgs K) (windowSource_congr hsame o)
    obtain ⟨y', bad', hwrite⟩ := boxWrite_of_partsRun v.wgs K o hy hparts
    have hput : copyPut (withStore v v.wgs K) (movedTo o c) o y bad = (.data y' bad', withStore v1 v1.wgs K) := by
      rw [hwgs1, ← hwrite, copyPut, show (movedTo o c).kind = .cpyc from hkind]
      rfl
    obtain ⟨K', hmove, hfind'⟩ := ih hrest hbox' (by rw [hframe]; exact hy) (hwgs1.trans hwgs) (find_oneMore hfind) (by omega)
    refine ⟨K', ?_, by rw [hfind']; congr 2; omega⟩
    exact (copyMove_data (u := withStore v v.wgs K) tag n hfind (by omega) hwait hread' hput).trans hmove

/-! ## The bytes that a run writes -/

/-- The value at an address after writes, the last of them winning. -/
def lastWrite (ws : List (Nat × Byte)) (q : Nat) (d : Byte) : Byte := ws.foldl (fun d e => if e.1 = q then e.2 else d) d

theorem lastWrite_append (ws1 ws2 : List (Nat × Byte)) (q : Nat) (d : Byte) : lastWrite (ws1 ++ ws2) q d = lastWrite ws2 q (lastWrite ws1 q d) :=
  List.foldl_append

theorem lastWrite_out {ws : List (Nat × Byte)} {q : Nat} (h : ∀ e ∈ ws, e.1 ≠ q) (d : Byte) : lastWrite ws q d = d := by
  induction ws generalizing d with
  | nil => rfl
  | cons e ws ih =>
    obtain ⟨he, hws⟩ := List.forall_mem_cons.mp h
    rw [lastWrite, List.foldl_cons, if_neg he]
    exact ih hws d

theorem lastWrite_last {ws : List (Nat × Byte)} {i : Nat} {e : Nat × Byte} (he : ws[i]? = some e)
    (hlast : ∀ (j : Nat) (f : Nat × Byte), i < j → ws[j]? = some f → f.1 ≠ e.1) (d : Byte) : lastWrite ws e.1 d = e.2 := by
  induction ws generalizing i d with
  | nil => cases he
  | cons e0 ws ih =>
    cases i with
    | zero =>
      obtain rfl : e0 = e := Option.some.inj he
      rw [lastWrite, List.foldl_cons, if_pos rfl]
      refine lastWrite_out (fun f hf => ?_) _
      obtain ⟨j, hj⟩ := List.mem_iff_getElem?.mp hf
      exact hlast (j + 1) f (by omega) hj
    | succ i => exact ih he (fun j f hj hf => hlast (j + 1) f (by omega) hf) _

theorem memByte_memWriteP_one (s : State) (pa : Nat) (x : Byte) (bad : Bool) (q : Nat) :
    memByte (memWriteP s pa [(x, bad)]) q = if pa = q then x else memByte s q := by
  show memByte (memWrite s pa [x]) q = _
  split
  next h => subst h; exact memByte_memWrite_in s pa 0 [x] x rfl
  next h => exact memByte_memWrite_out s pa q [x] (by simp; omega)

theorem memByte_partsRun {c : Copy} {ps : List BoxPart} {y : Byte} {bad : Bool} {v v' : State} {ws : List (Nat × Byte)}
    (h : partsRun c ps y bad v = some (ws, v')) (q : Nat) : memByte v' q = lastWrite ws q (memByte v q) := by
  induction ps generalizing y v ws with
  | nil =>
    obtain ⟨rfl, rfl⟩ := Prod.mk.inj (Option.some.inj h)
    rfl
  | cons p r ih =>
    cases hva : p.va with
    | none => exact ih (partsRun_none hva h)
    | some va =>
      obtain ⟨k, v1, x, w2, -, htr, -, -, -, hrest, rfl⟩ := partsRun_cons hva h
      have hmem : memByte v1 q = memByte v q := by rw [onlyDies_of_translateFor htr]; rfl
      rw [ih hrest, memByte_memWriteP_one, hmem]
      rfl

theorem memByte_boxRun {c : Copy} {ys : List (Byte × Bool)} {o : Nat} {v v' : State} {ws : List (Nat × Byte)} (h : boxRun c ys o v = some (ws, v'))
    (q : Nat) : memByte v' q = lastWrite ws q (memByte v q) := by
  induction ys generalizing o v ws with
  | nil =>
    obtain ⟨rfl, rfl⟩ := Prod.mk.inj (Option.some.inj h)
    rfl
  | cons y ys ih =>
    obtain ⟨w1, v1, w2, hparts, hrest, rfl⟩ := boxRun_cons h
    rw [ih hrest, memByte_partsRun hparts, lastWrite_append]

/-! ## A byte whose page faults -/

/-- The copy at a page that faults. -/
def heldAt (page : Nat) (c : Copy) : Copy := { c with waitPage := some page }

theorem copyMove_fault {s s1 : State} {c : Copy} {bs : List Byte} {va : Nat} (tag n : Nat) (hfind : findCopy s c.id = some c) (hleft : c.moved < c.total)
    (hwait : c.waitPage = none) (hread : copySource s c (bs.headD 0) c.moved = (.fault va, s1)) :
    copyMove c.id bs tag (n + 1) s = raiseFault (modCopy s1 c.id (heldAt (pageOf va))) c.part va 2 tag := by
  have hgo : ¬(c.total ≤ c.moved ∨ c.waitPage.isSome = true) := by simpa [hwait] using hleft
  unfold copyMove
  simp only [hfind]
  rw [if_neg hgo, hread]
  rfl
end Sys2Proof.Machine

/-! The events of a copy (R249, R251-R255, R260, R295): its start, the next piece or tile byte, and its end. -/
namespace Sys2Proof.Machine

/-! ## The length of a piece -/

theorem pieceLen_pos {c : Copy} (h : c.moved < c.total) : 0 < pieceLen c := by
  have hleft : 0 < min 16 (c.total - c.moved) := by omega
  unfold pieceLen
  dsimp only
  split
  · obtain ⟨k, hk⟩ := Nat.exists_eq_succ_of_ne_zero hleft.ne'
    rw [hk, List.range_succ_eq_map, List.takeWhile_cons_of_pos (by simp)]
    simp
  · omega

theorem pieceLen_le {c : Copy} : pieceLen c ≤ c.total - c.moved := by
  unfold pieceLen
  dsimp only
  split
  · have htake := (List.takeWhile_sublist (l := List.range (min 16 (c.total - c.moved)))
      (fun i => ((boxByte c.shape c.coord (c.moved + i)).head?.bind BoxPart.va).map (· / 16)
        == ((boxByte c.shape c.coord (c.moved + 0)).head?.bind BoxPart.va).map (· / 16))).length_le
    rw [List.length_range] at htake
    exact htake.trans (min_le_right _ _)
  · omega

/-- A piece ends at a 16-byte boundary of its window. -/
theorem pieceLen_block {c : Copy} (h : c.kind ≠ .cpyc) : c.moved % 16 + pieceLen c ≤ 16 := by
  unfold pieceLen
  dsimp only
  rw [if_neg h]
  omega

/-! ## One piece -/

theorem yieldRoom_of_noYield {s : State} (hy : NoYield s) (cls : Nat) (pas : List Nat) : yieldRoom s cls pas = true := by
  have hall : s.calls.all (fun c => c.yld.isNone) = true := List.all_eq_true.mpr fun c hc => by simp [hy c hc]
  simp [yieldRoom, hall]

/-- The state once a piece has come whole: with the last piece the copy's locks fall (R255). -/
def pieceDone (s1 : State) (c : Copy) : State := if c.total ≤ c.moved + pieceLen c then dropLocks s1 c.id else s1

section
variable {s : State} {c : Copy} (hy : NoYield s)
include hy

/-- A piece that comes as a whole stays. -/
theorem copyPiece_whole {bs : List Byte} {tag : Nat} {s1 : State} {c1 : Copy} (hmove : copyMove c.id bs tag (pieceLen c) s = s1)
    (hfind1 : findCopy s1 c.id = some c1) (hmoved : c1.moved = c.moved + pieceLen c) (hy1 : NoYield s1) : copyPiece s c bs tag = s1 := by
  unfold copyPiece
  dsimp only
  rw [hmove, hfind1]
  dsimp only
  rw [yieldRoom_of_noYield hy, hmoved, yieldServe_of_noYield _ hy1]
  simp

/-- A piece that does not come as a whole leaves the copy at its start, waiting where its page faults. -/
theorem copyPiece_held {bs : List Byte} {tag : Nat} {s1 : State} {c1 : Copy} (hmove : copyMove c.id bs tag (pieceLen c) s = s1)
    (hfind1 : findCopy s1 c.id = some c1) (hmoved : c1.moved < c.moved + pieceLen c) :
    copyPiece s c bs tag = modCopy { s1 with mem := s.mem, memPoison := s.memPoison, wgs := s.wgs, copies := s.copies } c.id
      (fun c => { c with waitPage := c1.waitPage }) := by
  have hnot : ¬c.moved + pieceLen c ≤ c1.moved := by omega
  unfold copyPiece
  dsimp only
  rw [hmove, hfind1]
  dsimp only
  rw [yieldRoom_of_noYield hy]
  simp only [Bool.not_true, Bool.false_eq_true, if_false, if_neg hnot]

end

section
variable {s : State} {c : Copy} (hfind : findCopy s c.id = some c)
include hfind

/-- Of the pieces that begin with the copy's next byte there is one. -/
theorem copyRun_one (tag : Nat) (bs : List Byte) (hleft : c.moved < c.total) (hwait : c.waitPage = none) :
    copyRun c.id tag (c.moved + 1) 1 bs s = copyPiece s c bs tag := by
  have hgo : ¬(c.moved + 1 ≤ c.moved ∨ c.total ≤ c.moved ∨ c.waitPage.isSome = true) := by
    have hnot : ¬c.total ≤ c.moved := by omega
    simp [hwait, hnot]
  unfold copyRun
  simp only [hfind]
  rw [if_neg hgo]
  cases findCopy (copyPiece s c bs tag) c.id with
  | none => rfl
  | some c1 =>
    dsimp only
    split <;> rfl

section
variable (harg : s.arg.a = c.id) (hone : s.arg.b = 1) (hstarted : c.started = true) (htile : isTileCopy c = false) (hleft : c.moved < c.total)
  (hwait : c.waitPage = none)
include harg hone hstarted htile hleft hwait

theorem exec_copyDelivery_piece {s1 : State} {c1 : Copy} (hpiece : copyPiece s c s.arg.bytes (tagOf s c.launch) = s1)
    (hfind1 : findCopy s1 c.id = some c1) :
    exec .copyDelivery s = .next (copyCount (if c1.total ≤ c1.moved then dropLocks s1 c.id else s1) c1 (c1.moved - c.moved)) := by
  have hrun : copyRun c.id (tagOf s c.launch) (c.moved + 1) 1 s.arg.bytes s = s1 := (copyRun_one hfind _ _ hleft hwait).trans hpiece
  show execCopyDelivery s = _
  unfold execCopyDelivery
  rw [harg, hfind]
  simp only [hstarted, htile, hone, hrun, hfind1, Bool.not_true, Bool.false_eq_true, if_false]

/-- A piece that comes whole: the copy is past it, and its phasers are told. -/
theorem exec_copyDelivery_whole (hy : NoYield s) {s1 : State} (hmove : copyMove c.id s.arg.bytes (tagOf s c.launch) (pieceLen c) s = s1)
    (hfind1 : findCopy s1 c.id = some (movedTo (c.moved + pieceLen c) c)) (hy1 : NoYield s1) :
    exec .copyDelivery s = .next (copyCount (pieceDone s1 c) c (pieceLen c)) := by
  rw [exec_copyDelivery_piece hfind harg hone hstarted htile hleft hwait (copyPiece_whole hy hmove hfind1 rfl hy1) hfind1]
  have hn : (movedTo (c.moved + pieceLen c) c).moved - c.moved = pieceLen c := Nat.add_sub_cancel_left _ _
  rw [hn]
  rfl

end
end

theorem copyCount_windows {c : Copy} {n : Nat} (hkind : c.kind ≠ .cpyc) (hn : n ≠ 0) (s : State) :
    copyCount s c n = (match c.ph with | some b => c.recv.foldl (fun u r => phDeliver u r b n) s | none => s) := by
  unfold copyCount
  cases c.ph with
  | none => rfl
  | some b => exact if_neg (by simp [hkind, hn])

theorem copyCount_cpyc {c : Copy} (hkind : c.kind = .cpyc) (s : State) (n : Nat) : copyCount s c n = s := by
  unfold copyCount
  cases c.ph with
  | none => rfl
  | some b => exact if_pos (.inl hkind)

theorem copyCount_zero (s : State) (c : Copy) : copyCount s c 0 = s := by
  unfold copyCount
  cases c.ph with
  | none => rfl
  | some b => exact if_pos (.inr rfl)

section
variable {s1 : State} {c : Copy}

theorem pieceDone_locks : (pieceDone s1 c).locks = if c.total ≤ c.moved + pieceLen c then s1.locks.filter (fun k => k.owner != c.id) else s1.locks := by
  unfold pieceDone
  split <;> rfl

theorem pieceDone_rest : pieceDone s1 c = { s1 with locks := (pieceDone s1 c).locks } := by
  unfold pieceDone
  split <;> rfl

end

/-! ## Pieces that come whole -/

/-- A copy that stands in `s` and whose next piece is asked for. -/
structure PieceAsked (s : State) (c : Copy) : Prop where
  find : findCopy s s.arg.a = some c
  one : s.arg.b = 1
  started : c.started = true
  plain : isTileCopy c = false
  left : c.moved < c.total
  free : c.waitPage = none
  noYield : NoYield s

namespace PieceAsked
variable {s : State} {c : Copy} (h : PieceAsked s c)
include h

theorem find' : findCopy s c.id = some c := by
  rw [findCopy_id h.find]
  exact h.find

theorem arg : s.arg.a = c.id := (findCopy_id h.find).symm

/-- The piece comes to the receivers: what it leaves, before its phasers are told. -/
theorem delivers {ys : List (Byte × Bool)} {s1 : State} (hkept : copyOverlaps c = true → c.snap.length = c.total)
    (hrun : sourceRun c (pieceLen c) s.arg.bytes c.moved s = some (ys, s1)) (hkind : c.kind ≠ .cpyc) :
    ∃ K, exec .copyDelivery s = .next (copyCount (pieceDone (withStore s1 (putRun c ys c.moved s).wgs K) c) c (pieceLen c))
      ∧ K.find? (fun k => k.id == c.id) = some (movedTo (c.moved + pieceLen c) c) := by
  have hwindows : c.kind = .cpy ∨ c.kind = .cpymBox ∨ c.kind = .cpys := by
    have hplain := h.plain
    revert hkind hplain
    unfold isTileCopy
    cases c.kind <;> decide
  have hle := pieceLen_le (c := c)
  have hleft := h.left
  obtain ⟨K, hmove, hfind⟩ := copyMove_put (s := s) hwindows h.free hkept (tagOf s c.launch) (pieceLen c) hrun h.noYield
    (fun _ _ _ => rfl) (fun _ _ _ => rfl) h.find' (by omega)
  have hy1 : NoYield s1 := noYield_of_onlyDies h.noYield (sourceRun_frame hrun)
  exact ⟨K, exec_copyDelivery_whole h.find' h.arg h.one h.started h.plain h.left h.free h.noYield hmove hfind hy1, hfind⟩

/-- The piece comes to memory. -/
theorem writes {ys : List (Byte × Bool)} {s1 s2 : State} {ws : List (Nat × Byte)} (hkind : c.kind = .cpyc)
    (hrun : sourceRun c (pieceLen c) s.arg.bytes c.moved s = some (ys, s1)) (hbox : boxRun c ys c.moved s1 = some (ws, s2)) :
    ∃ K, exec .copyDelivery s = .next (pieceDone (withStore s2 s2.wgs K) c)
      ∧ K.find? (fun k => k.id == c.id) = some (movedTo (c.moved + pieceLen c) c)
      ∧ s2 = { s with dies := s2.dies, mem := s2.mem, memPoison := s2.memPoison }
      ∧ ∀ q, memByte s2 q = lastWrite ws q (memByte s q) := by
  obtain rfl : s1 = s := sourceRun_window (by simp [readsMemory, hkind]) hrun
  have hle := pieceLen_le (c := c)
  have hleft := h.left
  have hframe := boxRun_frame hbox
  obtain ⟨K, hmove, hfind⟩ := copyMove_box (s := s1) hkind h.free (tagOf s1 c.launch) (pieceLen c) hrun hbox h.noYield rfl h.find' (by omega)
  have hy1 : NoYield (withStore s2 s2.wgs K) := by
    rw [hframe]
    exact h.noYield
  refine ⟨K, ?_, hfind, hframe, memByte_boxRun hbox⟩
  rw [exec_copyDelivery_whole h.find' h.arg h.one h.started h.plain h.left h.free h.noYield hmove hfind hy1, copyCount_cpyc hkind]

/-- The piece's page faults: the copy waits on it. -/
theorem faults {va : Nat} {s1 : State} (hread : copySource s c (s.arg.bytes.headD 0) c.moved = (.fault va, s1)) :
    ∃ t c', exec .copyDelivery s = .next t ∧ findCopy t c.id = some c' ∧ c'.moved = c.moved ∧ c'.waitPage = some (pageOf va)
      ∧ faultPending t c.part (pageOf va) = true ∧ t.mem = s.mem ∧ t.wgs = s.wgs := by
  have hpos := pieceLen_pos h.left
  obtain ⟨n, hn⟩ := Nat.exists_eq_succ_of_ne_zero hpos.ne'
  have hdies := copySource_dies hread
  have hmove := copyMove_fault (tagOf s c.launch) n h.find' h.left h.free hread
  rw [← Nat.succ_eq_add_one, ← hn] at hmove
  have hfind1 : findCopy (raiseFault (modCopy s1 c.id (heldAt (pageOf va))) c.part va 2 (tagOf s c.launch)) c.id = some (heldAt (pageOf va) c) := by
    have hcopies : ∀ u : State, (raiseFault u c.part va 2 (tagOf s c.launch)).copies = u.copies := fun u => by
      unfold raiseFault
      split <;> rfl
    rw [findCopy, hcopies, hdies]
    exact findCopy_modCopy (heldAt (pageOf va)) (fun _ => rfl) h.find'
  have hpiece := copyPiece_held h.noYield hmove hfind1 (show c.moved < _ by omega)
  have hfind2 := findCopy_modCopy (s := { raiseFault (modCopy s1 c.id (heldAt (pageOf va))) c.part va 2 (tagOf s c.launch) with
    mem := s.mem, memPoison := s.memPoison, wgs := s.wgs, copies := s.copies }) (fun k => { k with waitPage := (heldAt (pageOf va) c).waitPage })
    (fun _ => rfl) h.find'
  have hexec := exec_copyDelivery_piece h.find' h.arg h.one h.started h.plain h.left h.free hpiece hfind2
  have hnot : ¬c.total ≤ c.moved := Nat.not_le.mpr h.left
  dsimp only at hexec
  rw [if_neg hnot, Nat.sub_self, copyCount_zero] at hexec
  exact ⟨_, _, hexec, hfind2, rfl, rfl, faultPending_raiseFault _ _ _ _ _, rfl, rfl⟩

end PieceAsked
end Sys2Proof.Machine

/-! The start of a copy, the bytes of a tile, and the end of a copy (R249, R251, R255, R257), and what O35 says of them together. -/
namespace Sys2Proof.Machine

/-! ## The start -/

section
variable {s : State} {wg grp after : Nat} (h : ∀ g, findGrp s wg grp = some g → ∀ o ∈ g.ops, after ≤ o.id)
include h

theorem filter_earlier {g : Group} (hg : findGrp s wg grp = some g) : g.ops.filter (fun o => (true || o.kind != .red) && decide (o.id < after)) = [] :=
  List.filter_eq_nil_iff.mpr fun o ho => by simpa using h g hg o ho

/-- With no earlier access of the group, none blocks the copy. -/
theorem prevBlocked_of_none_earlier : prevBlocked s true wg grp after = false := by
  unfold prevBlocked
  cases hg : findGrp s wg grp with
  | none => rfl
  | some g =>
    have hnone := filter_earlier h hg
    have hops : ∀ o ∈ g.ops, ¬o.id < after := fun o ho => Nat.not_lt.mpr (h g hg o ho)
    have hroom : opsRoom s wg g (fun o => (true || o.kind != .red) && decide (o.id < after)) = true := by
      unfold opsRoom yieldRoom
      rw [hnone]
      split
      · rfl
      split
      · rfl
      · exact List.all_eq_true.mpr fun c _ => by split <;> rfl
    have hany : g.ops.any (fun o => ((true || o.kind != .red) && decide (o.id < after)) &&
        o.accs.any (fun a => heldAcc a || (a.st == .todo && (isPeer a.loc || stalledAt s wg a.loc)))) = false :=
      List.any_eq_false.mpr fun o ho => by simp [hops o ho]
    dsimp only
    rw [hroom, hany]
    rfl

theorem performPrev_of_none_earlier : performPrev s true wg grp after = s := by
  unfold performPrev
  cases hg : findGrp s wg grp with
  | none => rfl
  | some g =>
    dsimp only
    rw [filter_earlier h hg]
    rfl

end

/-- The source bytes that a copy keeps at its start, where source and destination share a window. -/
def keptBytes (s : State) (c : Copy) : List (Byte × Bool) :=
  if copyOverlaps c then (match findWg s c.src.1 with | some w => winRead w c.src.2 c.total | none => []) else []

/-- A copy that has begun. -/
def begun (s : State) (kept : List (Byte × Bool)) (k : Copy) : Copy := { k with started := true, attempt := now s, snap := kept }

/-- A copy that may begin does. -/
theorem exec_copyStart {s : State} {c : Copy} (hfind : findCopy s s.arg.a = some c) (hstarted : c.started = false) (hroom : channelsFull s c.die = false)
    (hlocks : lockWaits s c.id = false) (hprev : ∀ g, findGrp s c.wg c.grp = some g → ∀ o ∈ g.ops, c.after ≤ o.id)
    (htiles : isTileCopy c = true → c.tiles ≠ []) :
    ∃ t c', exec .copyStart s = .next t ∧ findCopy t c.id = some c' ∧ c'.started = true ∧ c'.attempt = now s ∧ t.mem = s.mem ∧ t.wgs = s.wgs
      ∧ (copyOverlaps c = false → c'.snap = []) := by
  have htile : (isTileCopy c && c.tiles.isEmpty) = false := by
    cases hk : isTileCopy c with
    | false => rfl
    | true => simpa using htiles hk
  have hid := findCopy_id hfind
  have hexec : exec .copyStart s = .next (modCopy s c.id (begun s (keptBytes s c))) := by
    show execCopyStart s = _
    unfold execCopyStart
    rw [hfind]
    simp only [hstarted, hroom, hlocks, prevBlocked_of_none_earlier hprev, htile, performPrev_of_none_earlier hprev, Bool.or_self, Bool.false_eq_true, if_false]
    rfl
  refine ⟨_, _, hexec, findCopy_modCopy _ (fun _ => rfl) (hid ▸ hfind), rfl, rfl, rfl, rfl, fun hover => ?_⟩
  simp [begun, keptBytes, hover]

/-! ## A byte of a tile -/

/-- A tile copy that stands in `s` and whose next byte is asked for, at address `a` of its attempt. -/
structure TileAsked (s : State) (c : Copy) (a : Nat) : Prop where
  find : findCopy s s.arg.a = some c
  one : s.arg.b = 1
  started : c.started = true
  tile : isTileCopy c = true
  addr : tileAddr c = some a
  left : c.moved < tileBytes c.wfmt
  free : c.waitPage = none
  noYield : NoYield s

namespace TileAsked
variable {s : State} {c : Copy} {a : Nat} (h : TileAsked s c a)
include h

theorem exec_eq : exec .copyDelivery s = .next (tileMove c.id s.arg.bytes (tagOf s c.launch) 1 s) := by
  show execCopyDelivery s = _
  unfold execCopyDelivery
  rw [h.find]
  simp only [h.started, h.tile, h.one, Bool.not_true, Bool.false_eq_true, if_false, if_true]

/-- Bytes that come too late are not taken. -/
theorem late (hover : attemptOver s c = true) : exec .copyDelivery s = .next s := by
  rw [h.exec_eq]
  unfold tileMove
  rw [findCopy_id h.find, h.find]
  simp [h.addr, hover]

theorem takes (hin : attemptOver s c = false) {y : Byte} {bad : Bool} {s1 : State}
    (hread : copyRead s c (s.arg.bytes.headD 0) (a + c.moved) = (.data y bad, s1)) :
    ∃ t, exec .copyDelivery s = .next t ∧ findCopy t c.id = some { c with moved := c.moved + 1, snap := c.snap ++ [(y, bad)] } ∧ t.mem = s.mem
      ∧ t.wgs = s.wgs := by
  have hid := findCopy_id h.find
  have hdies : s1 = { s with dies := s1.dies } := by
    have hf := copyRead_frame c s (s.arg.bytes.headD 0) (a + c.moved)
    rwa [hread] at hf
  have hy1 : NoYield s1 := noYield_of_onlyDies h.noYield hdies
  have hgo : ¬(tileBytes c.wfmt ≤ c.moved ∨ c.waitPage.isSome = true ∨ attemptOver s c = true) := by
    have hleft : ¬tileBytes c.wfmt ≤ c.moved := Nat.not_le.mpr h.left
    simp [h.free, hin, hleft]
  have hmove : tileMove c.id s.arg.bytes (tagOf s c.launch) 1 s
      = modCopy s1 c.id fun k => { k with moved := k.moved + 1, snap := k.snap ++ [(y, bad)] } := by
    unfold tileMove
    rw [hid, h.find]
    simp only [h.addr]
    rw [if_neg hgo, yieldRoom_of_noYield h.noYield, hread]
    simp only [yieldServe_of_noYield _ hy1]
    rfl
  rw [h.exec_eq, hmove]
  refine ⟨_, rfl, ?_, by rw [hdies]; rfl, by rw [hdies]; rfl⟩
  rw [hdies]
  exact findCopy_modCopy (fun k => { k with moved := k.moved + 1, snap := k.snap ++ [(y, bad)] }) (fun _ => rfl) (hid ▸ h.find)

end TileAsked

/-! ## The end -/

/-- A copy with everything in place leaves, with its locks, and its flag falls. -/
def copyGone (s : State) (c : Copy) : State := modSince (delCopy (dropLocks s c.id) c.id) c.wg c.grp c.id (fun g => flagDec g c.flag)

theorem exec_copyComplete {s : State} {c : Copy} (hfind : findCopy s s.arg.a = some c) (hover : copyOver c = true) :
    exec .copyComplete s = .next (match c.kind, c.ph with | .cpyc, some b => phOutb (copyGone s c) c.wg b false | _, _ => copyGone s c) := by
  show execCopyComplete s = _
  unfold execCopyComplete
  rw [hfind]
  dsimp only
  rw [if_pos hover]
  rfl

theorem findCopy_copyGone (s : State) (c : Copy) : findCopy (copyGone s c) c.id = none := by
  show (s.copies.filter fun k => k.id != c.id).find? (fun k => k.id == c.id) = none
  exact List.find?_eq_none.mpr fun k hk => by simpa using (List.mem_filter.mp hk).2

theorem locks_copyGone {s : State} {c : Copy} : ∀ k ∈ (copyGone s c).locks, k.owner ≠ c.id :=
  fun _ hk => by simpa using (List.mem_filter.mp hk).2

theorem flagDec_frame (g : Group) (f : Option Nat) : flagDec g f = { g with f := (flagDec g f).f } := by
  cases f <;> rfl

theorem findGrp_copyGone {s : State} {c : Copy} {g : Group} (hg : findGrp s c.wg c.grp = some g) :
    findGrp (copyGone s c) c.wg c.grp = some (flagDec g c.flag) := by
  obtain ⟨w, hw, hgrp⟩ := Option.bind_eq_some_iff.mp hg
  have hwg : findWg (copyGone s c) c.wg = (findWg s c.wg).map _ := findWg_modWg_same _ c.wg _ fun _ => rfl
  rw [findGrp, hwg, hw]
  exact (getElem?_modifyAt_same w.groups _).trans (congrArg (Option.map _) hgrp)
end Sys2Proof.Machine

/-! Copies move (O35): the clauses put together. -/
namespace Sys2Proof.Machine

/-- The copy's phaser at every receiver is told of `n` bytes (R250). -/
def toldAll (c : Copy) (n : Nat) (u : State) : State :=
  match c.ph with
  | some b => c.recv.foldl (fun u r => phDeliver u r b n) u
  | none => u

section
variable {s : State} {c : Copy}

/-- A piece at the receivers, as O35 states it. -/
theorem piece_delivered (h : PieceAsked s c) {ys : List (Byte × Bool)} {s1 : State} (hkept : copyOverlaps c = true → c.snap.length = c.total)
    (hrun : sourceRun c (pieceLen c) s.arg.bytes c.moved s = some (ys, s1)) (hkind : c.kind ≠ .cpyc) :
    ∃ t c', exec .copyDelivery s = .next (toldAll c (pieceLen c) t)
      ∧ findCopy t c.id = some c' ∧ c' = { c with moved := c.moved + pieceLen c }
      ∧ t.locks = (if c.total ≤ c.moved + pieceLen c then s.locks.filter (fun k => k.owner != c.id) else s.locks) ∧ t.mem = s.mem
      ∧ (∀ r ∈ c.recv, Takes s r → ∀ (i : Nat) (y : Byte × Bool), ys[i]? = some y → winByte t r (placeAt c (c.moved + i)) = y.1)
      ∧ ∀ v b, ¬(v ∈ c.recv ∧ Takes s v ∧ ∃ i, i < pieceLen c ∧ b = placeAt c (c.moved + i)) → winByte t v b = winByte s v b := by
  obtain ⟨K, hexec, hfind⟩ := h.delivers hkept hrun hkind
  have hlen := length_sourceRun hrun
  have hblock := pieceLen_block hkind
  have hframe := sourceRun_frame hrun
  have hwin : ∀ v b, winByte (pieceDone (withStore s1 (putRun c ys c.moved s).wgs K) c) v b = winByte (putRun c ys c.moved s) v b := fun v b => by
    rw [pieceDone_rest]
    rfl
  refine ⟨pieceDone (withStore s1 (putRun c ys c.moved s).wgs K) c, movedTo (c.moved + pieceLen c) c, ?_, ?_, rfl, ?_, ?_, ?_, ?_⟩
  · exact hexec.trans (congrArg Host.Outcome.next (copyCount_windows hkind (pieceLen_pos h.left).ne' _))
  · rw [pieceDone_rest]
    exact hfind
  · rw [pieceDone_locks, hframe]
    rfl
  · rw [pieceDone_rest, hframe]
    rfl
  · intro r hr ht i y hy
    rw [hwin]
    exact winByte_putRun_in hr ht (fun i j hi hj => placeAt_inj (by omega) (by omega)) hy
  · intro v b hout
    rw [hwin]
    exact winByte_putRun_out (by rwa [hlen])

/-- A piece in memory, as O35 states it. -/
theorem piece_written (h : PieceAsked s c) {ys : List (Byte × Bool)} {s1 s2 : State} {ws : List (Nat × Byte)} (hkind : c.kind = .cpyc)
    (hrun : sourceRun c (pieceLen c) s.arg.bytes c.moved s = some (ys, s1)) (hbox : boxRun c ys c.moved s1 = some (ws, s2)) :
    ∃ t c', exec .copyDelivery s = .next t ∧ findCopy t c.id = some c' ∧ c' = { c with moved := c.moved + pieceLen c }
      ∧ t.locks = (if c.total ≤ c.moved + pieceLen c then s.locks.filter (fun k => k.owner != c.id) else s.locks) ∧ t.wgs = s.wgs
      ∧ (∀ (i : Nat) (e : Nat × Byte), ws[i]? = some e → (∀ (j : Nat) (f : Nat × Byte), i < j → ws[j]? = some f → f.1 ≠ e.1) →
          memByte t e.1 = e.2)
      ∧ ∀ q, (∀ e ∈ ws, e.1 ≠ q) → memByte t q = memByte s q := by
  obtain ⟨K, hexec, hfind, hframe, hbytes⟩ := h.writes hkind hrun hbox
  have hmem : ∀ q, memByte (pieceDone (withStore s2 s2.wgs K) c) q = lastWrite ws q (memByte s q) := fun q => by
    rw [pieceDone_rest, ← hbytes]
    rfl
  refine ⟨pieceDone (withStore s2 s2.wgs K) c, movedTo (c.moved + pieceLen c) c, hexec, ?_, rfl, ?_, ?_, ?_, ?_⟩
  · rw [pieceDone_rest]
    exact hfind
  · rw [pieceDone_locks, hframe]
    rfl
  · rw [pieceDone_rest, hframe]
    rfl
  · intro i e he hlast
    rw [hmem]
    exact lastWrite_last he hlast _
  · intro q hout
    rw [hmem]
    exact lastWrite_out hout _

end

/-- What a report of bytes does at an object, as O35 states it. -/
theorem phaser_told {u : State} {r : Nat} (b : Nat) {v : Workgroup} (hv : findWg u r = some v) :
    (wgEnded v = true → (∀ n, phDeliver u r b n = u) ∧ ∀ up, phOutb u r b up = u)
    ∧ (wgEnded v = false →
      (∀ n, ObjectSet u (phDeliver u r b n) r b (tested (countedDown (phRead u r b) n)) (ends (countedDown (phRead u r b) n)) (onPhaser r b))
      ∧ ((phRead u r b).outb < 65535 → ObjectSet u (phOutb u r b true) r b { phRead u r b with outb := (phRead u r b).outb + 1 } false (· == .phwtOut r b))
      ∧ ObjectSet u (phOutb u r b false) r b { phRead u r b with outb := (phRead u r b).outb - 1 } ((phRead u r b).outb - 1 == 0) (· == .phwtOut r b)) :=
  ⟨fun he => ⟨phDeliver_of_ended hv he b, phOutb_of_ended hv he b⟩,
   fun he => ⟨objectSet_phDeliver hv he b, fun hroom => objectSet_phOutb_up hv he b hroom _, objectSet_phOutb_down hv he b⟩⟩

/-- What a tile's end leaves at every receiver, as O35 states it. -/
theorem TileEnds.states {c : Copy} {bank : Nat} {ts : TState} {fail : TFail} {bytes : List Byte} {s t : State}
    (hends : TileEnds c bank ts fail bytes s t) :
    ∀ r ∈ c.recv, ∀ v b, findWg s r = some v → v.banks[bank]? = some b → ∃ v' b',
    findWg t r = some v' ∧ v'.banks[bank]? = some b' ∧ b'.acc = b.acc ∧ b'.mode = b.mode ∧ (∀ e ∈ b'.queue, qEntryId e ≠ c.id)
      ∧ (wgEnded v = true → b' = { b with queue := b'.queue } ∧ v'.win = v.win)
      ∧ (wgEnded v = false → b'.ts = ts ∧ b'.fail = fail ∧ b'.tset = c.slotSet
        ∧ (ts = .valid → ∀ (o : Nat) (y : Byte), bytes[o]? = some y → smGet b'.tile o 0 = y)
        ∧ (c.ph = none → v'.win = v.win)
        ∧ ∀ pb, c.ph = some pb →
          phRead t r pb = tested (countedDown (phRead s r pb) (tileBytes c.wfmt)) ∧ (∀ k, ¬(pb ≤ k ∧ k < pb + 16) → winByte t r k = winByte s r k)
          ∧ (ends (countedDown (phRead s r pb) (tileBytes c.wfmt)) = true →
              ∀ w k g, findGrp t w k = some g → ∀ a ∈ g.quads, ¬(a.st = .parked ∧ onPhaser r pb a.park = true))) := by
  intro r hr v b hv hb
  obtain ⟨v', b', h⟩ := hends r hr v b hv hb
  have hkeep : b'.acc = b.acc ∧ b'.mode = b.mode ∧ ∀ e ∈ b'.queue, qEntryId e ≠ c.id := by
    cases he : wgEnded v with
    | true =>
      rw [(h.ended he).1]
      exact ⟨rfl, rfl, fun _ => mem_unqueue⟩
    | false => exact ⟨(h.lands he).acc, (h.lands he).mode, (h.lands he).queue⟩
  refine ⟨v', b', h.here, h.bank, hkeep.1, hkeep.2.1, hkeep.2.2, fun he => ⟨?_, (h.ended he).2⟩, fun he => ?_⟩
  · rw [(h.ended he).1]
    rfl
  · obtain ⟨-, -, -, hstate, hreason, htset, htile⟩ := h.lands he
    exact ⟨hstate, hreason, htset, htile, h.window he, fun pb hpb =>
      let ⟨hobject, hbytes, hfreed⟩ := h.phaser he pb hpb
      ⟨hobject, hbytes, hfreed⟩⟩

/-- Settles O35: a copy's bytes are followed one by one through its reads and writes, a tile through its receivers one by one. -/
theorem copiesMove : Obligations.CopiesMove := by
  unfold Obligations.CopiesMove
  refine ⟨fun s c hfind hone => ⟨?_, ?_, ?_, ?_⟩, fun u r b v hv => phaser_told b hv, ?_⟩
  · exact exec_copyStart hfind
  · intro hstarted htile hleft hwait harg hy
    have h : PieceAsked s c := ⟨hfind, harg, hstarted, htile, hleft, hwait, hy⟩
    refine ⟨fun ys s1 hkept hrun hkind => ?_, fun ys s1 ws s2 hrun hkind hbox => ?_, fun va s1 hread => h.faults hread⟩
    · obtain ⟨t, c', hexec, hfind', hc', hlocks, hmem, hin, hout⟩ := piece_delivered h hkept hrun hkind
      exact ⟨t, c', hexec, hfind', ⟨hc', hlocks⟩, hmem, hin, hout⟩
    · obtain ⟨t, c', hexec, hfind', hc', hlocks, hwgs, hin, hout⟩ := piece_written h hkind hrun hbox
      exact ⟨t, c', hexec, hfind', ⟨hc', hlocks⟩, hwgs, hin, hout⟩
  · intro a hstarted htile haddr hleft hwait harg hy
    have h : TileAsked s c a := ⟨hfind, harg, hstarted, htile, haddr, hleft, hwait, hy⟩
    exact ⟨h.late, fun y bad s1 hin hread => h.takes hin hread⟩
  · intro hover
    refine ⟨copyGone s c, exec_copyComplete hfind hover, findCopy_copyGone s c, locks_copyGone, rfl, fun g hg => ?_⟩
    exact ⟨flagDec g c.flag, findGrp_copyGone hg, flagDec_frame g c.flag, fun _ => rfl⟩
  · intro s c bank kt nt addr more crc later hfind hone htile hstarted htiles hnodup
    have hself : findCopy s c.id = some c := by
      rw [findCopy_id hfind]
      exact hfind
    refine ⟨fun hall hgood => ?_, fun hall hbad => ?_, fun hpart hlate o ho => ?_⟩
    · have hexec := exec_tileAttemptEnd_whole hfind htile hstarted htiles hall
      rw [if_pos hgood] at hexec
      obtain ⟨hends, hfind', hmem⟩ := attemptEnd_valid hself htiles hnodup
      exact ⟨_, _, hexec, hends.states, hfind', rfl, hmem⟩
    · have hexec := exec_tileAttemptEnd_whole hfind htile hstarted htiles hall
      rw [if_neg hbad] at hexec
      obtain ⟨hagain, hover⟩ := attemptEnd_bad hself htiles hnodup .corrupt (c.snap.map Prod.fst)
      exact ⟨fun hmore => ⟨_, hexec, hagain hmore⟩, fun hmore => ⟨_, hexec, (hover hmore).states⟩⟩
    · have hexec := exec_late hfind htile hstarted htiles hpart hlate ho
      obtain ⟨hagain, hover⟩ := attemptEnd_bad hself htiles hnodup .missing (c.snap.map Prod.fst)
      exact ⟨fun hmore => ⟨_, hexec, hagain hmore⟩, fun hmore => ⟨_, hexec, (hover hmore).states⟩⟩
end Sys2Proof.Machine

/-! The canvas words at issue (R237): the shell of a word of one issue, its place in the queues of its banks, and what each word
captures (O30). -/
namespace Sys2Proof.Machine

/-! ## The shell (R237) -/

/-- A word that may wait for a record sees its state as it is, in a group with nothing outstanding. -/
theorem withWait_of_sole {s : State} {gd : BitVec 3} {x : Ctx} (hi : Issues s gd x) (hsole : Sole s x) (f : State → Ctx → State) :
    withWait s gd f = .next (f s x) := by
  have hclear : clearWait x x.g = x.g := clearWait_of_idle hsole.idle
  rw [withWait, withCtx_next hi]
  simp only [hclear, modGrp_of_fixed hi hsole hclear]

/-- A canvas word of one issue that nothing holds does what it says. -/
theorem canvasIssue_next {s : State} {x : Ctx} {w : FmtC} {ll : Bool} {srcs : List Src} (hi : Issues s w.g x) (hsole : Sole s x) (hact : groupAct x ≠ 0)
    (hflag : flagFull x.g (if ll then flagSel x.c.clause w.fs else none) = false) (hr : Reads x srcs x.act) (f : State → Ctx → Option Nat → Res) :
    canvasIssue s w ll srcs f = .next (closeRes s x (f s x (if ll then flagSel x.c.clause w.fs else none))) := by
  rw [canvasIssue, withWait_of_sole hi hsole]
  simp only [hflag, hact, Bool.false_eq_true, if_false, withSources_reads _ hr]

/-- The same of a word that R237 leaves free. -/
theorem canvasIssue_of_free {s : State} {x : Ctx} {w : FmtC} {ll : Bool} {srcs : List Src} (hi : Issues s w.g x)
    (hf : CanvasFree s x srcs (if ll then flagSel x.c.clause w.fs else none)) (f : State → Ctx → Option Nat → Res) :
    canvasIssue s w ll srcs f = .next (closeRes s x (f s x (if ll then flagSel x.c.clause w.fs else none))) :=
  canvasIssue_next hi hf.sole hf.act hf.flag hf.clean f

/-! ## The queues of the banks (R229) -/

/-- The word that joins queues. -/
def newWord (s : State) (x : Ctx) (fl : Option Nat) (kind : CWordKind) (rows : List CRow) (banks : List Nat) : CWord :=
  { id := s.nextId, grp := x.c.grp, flag := fl, kind := kind, rows := rows, left := banks, pc := x.c.pc, hdr := x.c.clause.hdr,
    next := x.c.next, quads := x.c.quads, lanes := x.act }

/-- The banks once a word has joined the queues of those named. -/
def joinQueues (id : Nat) (banks blocks : List Nat) (bs : List Bank) : List Bank :=
  (List.range bs.length).map (fun k => match bs[k]? with
    | some b => if banks.contains k then { b with queue := b.queue ++ [.word id blocks] } else b
    | none => bank0)

/-- A workgroup with one more word in flight. -/
def withWord (c : CWord) (blocks : List Nat) (v : Workgroup) : Workgroup :=
  { v with cwords := v.cwords ++ [c], banks := joinQueues c.id c.left blocks v.banks }

theorem length_joinQueues (id : Nat) (banks blocks : List Nat) (bs : List Bank) : (joinQueues id banks blocks bs).length = bs.length := by
  simp [joinQueues]

theorem joinQueues_get {id k : Nat} {banks blocks : List Nat} {bs : List Bank} {b : Bank} (h : bs[k]? = some b) :
    (joinQueues id banks blocks bs)[k]? = some (if banks.contains k then { b with queue := b.queue ++ [.word id blocks] } else b) := by
  have hk : k < bs.length := (List.getElem?_eq_some_iff.1 h).1
  simp only [joinQueues, List.getElem?_map, List.getElem?_range hk, Option.map_some, h]

/-- A named bank takes the word to the end of its queue. -/
theorem joinQueues_named {id k : Nat} {banks blocks : List Nat} {bs : List Bank} {b : Bank} (hk : k ∈ banks) (h : bs[k]? = some b) :
    (joinQueues id banks blocks bs)[k]? = some { b with queue := b.queue ++ [.word id blocks] } :=
  (joinQueues_get h).trans (by rw [if_pos (List.contains_iff_mem.2 hk)])

section
variable (s : State) (x : Ctx) (fl : Option Nat) (kind : CWordKind) (rows : List CRow) (banks blocks : List Nat)

/-- The workgroup once the word has joined its queues and the issuing group has made `move`. -/
theorem findWg_enqueue {s : State} {v : Workgroup} (hv : findWg s x.c.wg = some v) (move : Group → Group) :
    findWg (modGrp (enqueue s x fl kind rows banks blocks) x.c.wg x.c.grp move) x.c.wg
      = some { withWord (newWord s x fl kind rows banks) blocks v with groups := modifyAt v.groups x.c.grp move } := by
  have hjoin : findWg (enqueue s x fl kind rows banks blocks) x.c.wg = some (withWord (newWord s x fl kind rows banks) blocks v) :=
    (findWg_modWg_same (freshId s).2 x.c.wg (withWord (newWord s x fl kind rows banks) blocks) (fun _ => rfl)).trans (by
      rw [show findWg (freshId s).2 x.c.wg = some v from hv]; rfl)
  rw [findWg_modGrp_same, hjoin]
  rfl

theorem findWg_enqueue_other {id : Nat} (hid : id ≠ x.c.wg) (move : Group → Group) :
    findWg (modGrp (enqueue s x fl kind rows banks blocks) x.c.wg x.c.grp move) id = findWg s id :=
  (findWg_modGrp_other _ _ _ _ hid).trans
    (findWg_modWg_other (freshId s).2 x.c.wg id (withWord (newWord s x fl kind rows banks) blocks) (fun _ => rfl) hid)

end

/-- A gang goes on from a group whose sequencers stand where they stood. -/
theorem goesOn_advanceGrp {x : Ctx} {g : Group} (h : g.quads.map unnoted = x.g.quads.map unnoted) : GoesOn x (advanceGrp x.c g) :=
  ⟨g.quads, h, advanceGrp_again x.c g⟩

theorem flagInc_frame (g : Group) (fl : Option Nat) : flagInc g fl = { g with f := (flagInc g fl).f } := by cases fl <;> rfl

theorem queued_of_room {x : Ctx} (hroom : canvasFull x = false) (s u : State) (fl : Option Nat) (kind : CWordKind) (rows : List CRow) (banks blocks : List Nat) :
    closeRes s x (queued u x fl kind rows banks blocks)
      = modGrp (enqueue u x fl kind rows banks blocks) x.c.wg x.c.grp (fun g => advanceGrp x.c (flagInc g fl)) := by
  simp only [queued, hroom, Bool.false_eq_true, if_false, closeRes]

/-- A word with room in the queues stands there, and its gang goes on (R228, R237). -/
theorem queued_joins {s : State} {gd : BitVec 3} {x : Ctx} (hi : Issues s gd x) (hroom : canvasFull x = false) (fl : Option Nat) (kind : CWordKind)
    (rows : List CRow) (banks blocks : List Nat) :
    CanvasQueued s x (.next (closeRes s x (queued s x fl kind rows banks blocks))) fl kind rows banks blocks := by
  rw [queued_of_room hroom]
  refine ⟨_, _, newWord s x fl kind rows banks, advanceGrp x.c (flagInc x.g fl), rfl, rfl,
    fun id hid => findWg_enqueue_other s x fl kind rows banks blocks hid _, findWg_enqueue x fl kind rows banks blocks hi.wg _, ?_, rfl, rfl, rfl, rfl, rfl, rfl,
    length_joinQueues .., fun k b hb => joinQueues_get hb, advanceGrp_frame _ _, goesOn_advanceGrp (by rw [flagInc_quads])⟩
  rw [modifyAt_of_get _ _ _ (fun g => advanceGrp x.c (flagInc g fl)) hi.grp]
  rfl

/-! ## CMODE, CZERO, CSWP (R242, R246) -/

/-- A word that sends an entry of a kind to every bank it names. -/
def setWord (w : FmtC) (ll : Bool) (kind : CWordKind) (s : State) : Host.Outcome State Fault Refusal :=
  canvasIssue s w ll [srcOf 0 w.a 2] fun s x fl =>
    if (bankSet s x w.a).isEmpty then .ok (advance s x.c) else queued s x fl kind [] (bankSet s x w.a) []

section
variable {s : State} {x : Ctx} {w : FmtC}

theorem setWord_effect {ll : Bool} {fl : Option Nat} (kind : CWordKind) (hi : Issues s w.g x) (hfl : (if ll then flagSel x.c.clause w.fs else none) = fl)
    (hf : CanvasFree s x [srcOf 0 w.a 2] fl) :
    (bankSet s x w.a ≠ [] → CanvasQueued s x (setWord w ll kind s) fl kind [] (bankSet s x w.a) [])
    ∧ (bankSet s x w.a = [] → ∃ t g, setWord w ll kind s = .next t ∧ GroupStep s t x g ∧ OnlyMoves x g) := by
  subst hfl
  rw [setWord, canvasIssue_of_free hi hf]
  refine ⟨fun hbs => ?_, fun hbs => ?_⟩
  · rw [if_neg (mt List.isEmpty_iff.1 hbs)]
    exact queued_joins hi hf.room _ kind [] _ []
  · rw [if_pos (List.isEmpty_iff.2 hbs)]
    exact ⟨_, _, rfl, advance_step hi⟩

theorem execCswp_queues {i j : Nat} {bi bj : Bank} (hi : Issues s w.g x) (hf : CanvasFree s x [srcOf 1 w.b 1, srcOf 2 w.c 1] none)
    (hb : readUN s x w.b = i) (hc : readUN s x w.c = j) (hij : i ≠ j) (hbi : x.w.banks[i]? = some bi) (hbj : x.w.banks[j]? = some bj)
    (hcopy : anyCopy x [i, j] = false) (hcomp : bi.mode = .compute) (hfill : bj.mode = .fill) (hval : bj.ts = .valid) :
    CanvasQueued s x (exec (.cswp w) s) none (.cswp i j (w.md.getLsbD 0)) [] [i, j] [] := by
  have hexec : exec (.cswp w) s = .next (closeRes s x (queued s x none (.cswp i j (w.md.getLsbD 0)) [] [i, j] [])) := by
    show execCswp w s = _
    rw [execCswp, canvasIssue_of_free (ll := false) hi hf]
    simp only [hb, hc, bankAt, hbi, hbj, hcopy, hij, hcomp, hfill, hval, ne_eq, not_true_eq_false, or_self, Bool.false_eq_true, if_false]
  rw [hexec]
  exact queued_joins hi hf.room ..

/-! ## CACC and CRD (R244, R245) -/

theorem condLanes_unmet (g : Group) {en : BitVec 5} {outs : List LaneOut} (h : ∀ o ∈ outs, o.conds &&& en = 0) : condLanes g en outs = 0 := by
  unfold condLanes
  generalize (0 : LMask) = m
  induction outs with
  | nil => rfl
  | cons o r ih =>
    rw [List.foldl_cons, h o (by simp)]
    exact ih fun k hk => h k (by simp [hk])

/-- NFCON is not enabled, so that captured operands that are not finite meet no condition (R226). -/
theorem condLanes_nfcon (g : Group) {en : BitVec 5} (hen : en &&& 16 = 0) {outs : List LaneOut}
    (h : ∀ o ∈ outs, o.conds = condBits false false false false true) : condLanes g en outs = 0 :=
  condLanes_unmet g fun o ho => by rw [h o ho, show condBits false false false false true = 16 from rfl, BitVec.and_comm, hen]

theorem accCheck_passes {bank col0 ncol reg ty : Nat} (hbank : bank < x.l.cbanks) (hpos : 0 < ncol) (h32 : ncol ≤ 32) (hcol : col0 + ncol ≤ 128)
    (hreg : reg + accRegs ty ncol ≤ x.l.vcount) : accCheck s x bank col0 ncol reg ty = none := by
  rw [accCheck, if_neg (by omega), if_neg (by omega)]

/-- The captured values of CACC. -/
def caccRows (x : Ctx) (w : FmtC) (ncol : Nat) : List CRow :=
  (lanesOf (sureLanes x)).map (fun l => CRow.mk l [] [] ((List.range ncol).map (fun j => wordOf (cvtRne 10 (accTy w.md.toNat) (caccVal x w (accTy w.md.toNat) l j)))))

theorem execCacc_queues (hi : Issues s w.g x) (hf : CanvasFree s x [srcOf 1 w.b 1, srcOf 2 w.c 1, srcOf 3 w.e 1] (flagSel x.c.clause w.fs))
    (hcheck : accCheck s x (readUN s x w.b) (readUN s x w.c) (readUN s x w.e) w.a.code.toNat (accTy w.md.toNat) = none)
    (hr : Reads x [srcOf 0 w.a (accRegs (accTy w.md.toNat) (readUN s x w.e))] x.act) (hen : enablesOf x.l &&& 16 = 0) :
    CanvasQueued s x (exec (.cacc w) s) (flagSel x.c.clause w.fs) (.cacc (readUN s x w.c) (readUN s x w.e)) (caccRows x w (readUN s x w.e)) [readUN s x w.b] [] := by
  have hexec : exec (.cacc w) s = .next (closeRes s x (queued s x (flagSel x.c.clause w.fs) (.cacc (readUN s x w.c) (readUN s x w.e))
      (caccRows x w (readUN s x w.e)) [readUN s x w.b] [])) := by
    show execCacc w s = _
    rw [execCacc, canvasIssue_of_free (ll := true) hi hf]
    simp only [hcheck, hr.clean]
    rw [condLanes_nfcon x.g hen (by
      intro o ho
      obtain ⟨l, -, hl⟩ := List.mem_filterMap.1 ho
      obtain ⟨j, -, rfl⟩ := Option.map_eq_some_iff.1 hl
      rfl)]
    rfl
  rw [hexec]
  exact queued_joins hi hf.room ..

/-- The operation of CRD, whose results come from its bank. -/
def crdOp (s : State) (x : Ctx) (ty : Nat) (fl : Option Nat) : Op :=
  { laneOp s x (ty + 160) fl [] with kind := if enablesOf x.l &&& crdEnables ty != 0 then .laneWord else .crd }

/-- The group once CRD stands; it is held behind the word where it may yet trap (R154). -/
def crdGrp (s : State) (x : Ctx) (ty : Nat) (fl : Option Nat) (g : Group) : Group :=
  let g1 := { flagInc g fl with ops := g.ops ++ [crdOp s x ty fl] }
  if enablesOf x.l &&& crdEnables ty != 0 then advanceHold x.c g1 else advanceGrp x.c g1

def crdRows (x : Ctx) : List CRow := (lanesOf x.act).map (fun l => CRow.mk l [] [] [])

theorem execCrd_next (hi : Issues s w.g x) (hf : CanvasFree s x [srcOf 1 w.b 1, srcOf 2 w.c 1, srcOf 3 w.e 1] (flagSel x.c.clause w.fs))
    (hcheck : accCheck s x (readUN s x w.b) (readUN s x w.c) (readUN s x w.e) w.d.toNat (accTy w.md.toNat) = none) :
    exec (.crd w) s = .next (modGrp (enqueue s x none (.crd (accTy w.md.toNat) (readUN s x w.c) (readUN s x w.e) (w.md.getLsbD 2) w.d.toNat) (crdRows x)
        [readUN s x w.b] []) x.c.wg x.c.grp (crdGrp s x (accTy w.md.toNat) (flagSel x.c.clause w.fs))) := by
  show execCrd w s = _
  rw [execCrd, canvasIssue_of_free (ll := true) hi hf]
  simp only [hcheck, hf.room]
  rfl

theorem crdGrp_of_idle (hops : x.g.ops = []) (ty : Nat) (fl : Option Nat) :
    crdGrp s x ty fl x.g = (if enablesOf x.l &&& crdEnables ty = 0 then advanceGrp else advanceHold) x.c { flagInc x.g fl with ops := [crdOp s x ty fl] } := by
  simp only [crdGrp, hops, List.nil_append, bne_iff_ne, ne_eq, ite_not]
  split <;> rfl

end

/-! ## CMMA and CMMAS (R243, R267) -/

section
variable {s : State} {x : Ctx} {w : FmtC} (hi : Issues s w.g x) (hact : groupAct x ≠ 0) (hbs : bankSet s x w.a ≠ []) (hra : Reads x [srcOf 0 w.a 2] x.act)
  (hflag : flagFull x.g (flagSel x.c.clause w.fs) = false) (hcopy : anyCopy x (bankSet s x w.a) = false) (hroom : canvasFull x = false)
  (hcheck : cmmaCheck s x w (bankSet s x w.a) = none)

include hi hact hbs hra hflag hcopy hroom hcheck in
/-- A CMMA that passes R238 and whose sources hold no poison does what it says. -/
theorem cmmaIssue_next {streamed : Bool} (hr : Reads x (cmmaSrcs x w streamed) x.act) (f : State → Ctx → Option Nat → List Nat → Res) :
    cmmaIssue s w streamed f = .next (closeRes s x (f s x (flagSel x.c.clause w.fs) (bankSet s x w.a))) := by
  rw [cmmaIssue, withCtx_next hi]
  simp only [hflag, hact, withSources_reads _ hra, withSources_reads _ hr, mt List.isEmpty_iff.1 hbs, hcopy, hroom, hcheck, Bool.or_self,
    Bool.false_eq_true, if_false]

/-- What CMMA captures of its lanes. -/
def cmmaRows (x : Ctx) (w : FmtC) : List CRow := (lanesOf (sureLanes x)).map (cmmaRow x w)

/-- With NFCON not enabled, NaN blocks let the word go to its queues. -/
theorem cmmaGo_queues (hen : enablesOf x.l &&& 16 = 0) (u : State) (fl : Option Nat) (bs blocks : List Nat) (adv : State → State) :
    cmmaGo u x w fl bs blocks adv = queued (adv u) x fl (.cmma (cmmaAfmt w) (cmmaK256 w)) (cmmaRows x w) bs blocks := by
  have hm : condLanes x.g (enablesOf x.l) (cmmaConds w (cmmaRows x w) blocks) = 0 := condLanes_nfcon x.g hen fun o ho => by
    obtain ⟨r, -, hr⟩ := List.mem_filterMap.1 ho
    obtain ⟨b, -, rfl⟩ := Option.map_eq_some_iff.1 hr
    rfl
  rw [cmmaRows] at hm
  simp only [cmmaGo, hm]
  rfl

include hi hact hbs hra hflag hcopy hroom hcheck in
theorem execCmma_queues (hen : enablesOf x.l &&& 16 = 0) (hr : Reads x (cmmaSrcs x w false) x.act) :
    CanvasQueued s x (exec (.cmma w) s) (flagSel x.c.clause w.fs) (.cmma (cmmaAfmt w) (cmmaK256 w)) (cmmaRows x w) (bankSet s x w.a) (List.range (cmmaKB w)) := by
  have hexec : execCmma w s = _ := cmmaIssue_next hi hact hbs hra hflag hcopy hroom hcheck hr _
  rw [cmmaGo_queues hen] at hexec
  rw [show exec (.cmma w) s = _ from hexec]
  exact queued_joins hi hroom ..

include hi hact hbs hra hflag hcopy hroom hcheck in
/-- CMMAS of a stream that lists nothing below its end. -/
theorem execCmmas_queues (hen : enablesOf x.l &&& 16 = 0) (hr : Reads x (cmmaSrcs x w true) x.act)
    (hshut : ¬((getQ x.g w.q.toNat).st = .opened ∧ (getQ x.g w.q.toNat).pos.toNat < readUN s x w.c + cmmaKB w)) :
    CanvasQueued s x (exec (.cmmas w) s) (flagSel x.c.clause w.fs) (.cmma (cmmaAfmt w) (cmmaK256 w)) (cmmaRows x w) (bankSet s x w.a) [] := by
  have hexec : execCmmas w s = _ := cmmaIssue_next hi hact hbs hra hflag hcopy hroom hcheck hr _
  rw [if_neg hshut, cmmaGo_queues hen] at hexec
  rw [show exec (.cmmas w) s = _ from hexec]
  exact queued_joins hi hroom ..

end

/-! ### The stream of CMMAS -/

/-- A group with nothing outstanding has nothing that must be performed before its next word. -/
theorem prevStalled_of_noOps {g : Group} (hops : g.ops = []) (s : State) (wg id : Nat) : prevStalled s wg g id = false := by
  have hcount : ∀ c, yieldCount s c [] = 0 := fun _ => rfl
  have hroom : yieldRoom s (accClass s wg) [] = true := by
    unfold yieldRoom
    split
    · rfl
    · refine List.all_eq_true.2 fun c _ => ?_
      split
      · simp [hcount]
      · rfl
  simp [prevStalled, opStalled, opsRoom, hops, hroom]

theorem metaByte_of_clean {s : State} {t : Workgroup} (h : t.winPoison = []) (boff : Nat) : metaByte s t boff = metaOf t boff := by
  funext i
  simp [metaByte, winBad, h, metaOf]

theorem metaDone_of_clean {s : State} {t : Workgroup} (h : t.winPoison = []) (boff n : Nat) : metaDone s t boff n = s := by
  simp [metaDone, winBad, h]

/-- A stream read whose metadata stands free, unpoisoned and unlocked goes on with it (R266). -/
theorem streamRead_at {s : State} {gd : BitVec 3} {x : Ctx} {a n boff : Nat} {t : Workgroup} (hi : Issues s gd x) (hn : n ≠ 0) (hat : StreamAt s x a n t boff)
    (old : Stream) (f : (Nat → Nat) → List Nat × Stream) (fin : State → List Nat × Stream → Res) :
    streamRead s x a n old f fin = fin s (f (metaOf t boff)) := by
  obtain ⟨hrange, hfree, hidle, hclean, hunlocked⟩ := hat
  have hheld : heldByFault x.g = false := by simp [heldByFault, hidle]
  have hbefore := performBefore_of_idle (id := s.nextId) x.act (findGrp_of_get hi.wg hi.grp) hidle
  simp only [streamRead, if_neg hn, hrange, hfree, hheld, prevStalled_of_noOps hidle, Bool.or_self, Bool.false_eq_true, if_false, hbefore,
    metaByte_of_clean hclean, metaDone_of_clean hclean, hunlocked]

/-- The issuing group once CMMAS has moved stream `n` and its gang goes on. -/
def movedOn (x : Ctx) (fl : Option Nat) (n : Nat) (q : Stream) : Group := advanceGrp x.c (flagInc (putQ x.g n q) fl)

section
variable (x : Ctx) (fl : Option Nat) (n : Nat) (q : Stream)

theorem movedOn_frame : movedOn x fl n q = { flagInc x.g fl with q := (movedOn x fl n q).q, quads := (movedOn x fl n q).quads } := by
  rw [movedOn, advanceGrp_frame]
  cases fl <;> rfl

theorem movedOn_goesOn : GoesOn x (movedOn x fl n q) := goesOn_advanceGrp (by rw [flagInc_quads]; rfl)

theorem getQ_movedOn (k : Nat) : getQ (movedOn x fl n q) k = if k = n then q else getQ x.g k := by
  rw [movedOn, advanceGrp_frame, flagInc_frame]
  exact getQ_putQ x.g n k q

theorem getQ_movedOn_same : getQ (movedOn x fl n q) n = q := by rw [getQ_movedOn, if_pos rfl]

theorem getQ_movedOn_other {k : Nat} (h : k ≠ n) : getQ (movedOn x fl n q) k = getQ x.g k := by rw [getQ_movedOn, if_neg h]

variable {x}

theorem findWg_streamMoved {s : State} {gd : BitVec 3} (hi : Issues s gd x) :
    findWg (modGrp s x.c.wg x.c.grp (fun g => putQ g n q)) x.c.wg = some { x.w with groups := modifyAt x.w.groups x.c.grp (fun g => putQ g n q) } := by
  rw [findWg_modGrp_same, hi.wg]
  rfl

theorem movedOn_get {s : State} {gd : BitVec 3} (hi : Issues s gd x) :
    (modifyAt (modifyAt x.w.groups x.c.grp (fun g => putQ g n q)) x.c.grp (fun g => advanceGrp x.c (flagInc g fl)))[x.c.grp]? = some (movedOn x fl n q) := by
  rw [modifyAt_modifyAt, getElem?_modifyAt_same, hi.grp]
  rfl

end

/-- Settles O30: each word by the entry that it makes, and CMMAS also by the place its stream has then. -/
theorem canvasWordsQueue : Obligations.CanvasWordsQueue := by
  unfold Obligations.CanvasWordsQueue
  refine ⟨fun s x w hi => ⟨setWord_effect (ll := false) _ hi rfl, setWord_effect (ll := true) _ hi rfl, ?swap, ?accumulate⟩, ?multiply⟩
  case swap =>
    intro i j bi bj hf hb hc hij hbi hbj hcopy hcomp hfill hval
    exact execCswp_queues hi hf hb hc hij hbi hbj hcopy hcomp hfill hval
  case accumulate =>
    intro hf ty bank col0 ncol hbank hpos h32 hcol
    refine ⟨fun hreg hr hen => execCacc_queues hi hf (accCheck_passes hbank hpos h32 hcol hreg) hr hen, fun hreg => ?_⟩
    refine ⟨_, _, newWord s x none (.crd ty col0 ncol (w.md.getLsbD 2) w.d.toNat) (crdRows x) [bank], crdOp s x ty (flagSel x.c.clause w.fs),
      crdGrp s x ty (flagSel x.c.clause w.fs) x.g, execCrd_next hi hf (accCheck_passes hbank hpos h32 hcol hreg), rfl, findWg_enqueue _ _ _ _ _ _ hi.wg _,
      rfl, rfl, rfl, ?_, rfl, fun b hb => ?_, modifyAt_of_get _ _ _ _ hi.grp, crdGrp_of_idle hf.sole.idle _ _, rfl, rfl, rfl, ?_⟩
    · simp [newWord, crdRows, Function.comp_def]
    · exact joinQueues_named (List.mem_singleton.2 rfl) hb
    · by_cases h : enablesOf x.l &&& crdEnables ty = 0 <;> simp [crdOp, h]
  case multiply =>
    intro s x w hi hsole hact bs fl rows kind hbs hra hflag hcopy hroom hcheck hen
    refine ⟨execCmma_queues hi hact hbs hra hflag hcopy hroom hcheck hen,
      fun hr => ⟨execCmmas_queues hi hact hbs hra hflag hcopy hroom hcheck hen hr, fun hopen hpos hlen t boff hat => ?_⟩⟩
    have hn : (getQ x.g w.q.toNat).len.toNat ≠ 0 := fun h => hlen (BitVec.eq_of_toNat_eq h)
    have hexec : execCmmas w s = _ := cmmaIssue_next hi hact hbs hra hflag hcopy hroom hcheck hr _
    rw [if_pos ⟨hopen, hpos⟩, streamRead_at hi hn hat, cmmaGo_queues hen, queued_of_room hroom] at hexec
    refine ⟨_, _, newWord s x fl kind rows bs, hexec, findWg_enqueue _ _ _ _ _ _ (findWg_streamMoved _ _ hi) _, rfl, rfl, rfl, rfl, fun k b hk hb => ?_,
      movedOn x fl w.q.toNat _, movedOn_get _ _ _ hi, getQ_movedOn_same .., movedOn_frame .., movedOn_goesOn .., fun k hk => getQ_movedOn_other _ _ _ _ hk⟩
    exact joinQueues_named hk hb

end Sys2Proof.Machine

/-! The bank events (O31): what a bank's change and the end of its part of a word leave of its workgroup, sums over the cells of a
block of accumulators, and the entries of a queue. -/
namespace Sys2Proof.Machine

/-! ## Changes of one workgroup -/

/-- From `s` to `t` only workgroups numbered `wg` change, and the one that is found under it becomes `v`. -/
structure WgBecomes (s t : State) (wg : Nat) (v : Workgroup) : Prop where
  rest : t = { s with wgs := t.wgs }
  others : ∀ id, id ≠ wg → findWg t id = findWg s id
  here : findWg t wg = some v

theorem WgBecomes.refl {s : State} {wg : Nat} {v : Workgroup} (h : findWg s wg = some v) : WgBecomes s s wg v := ⟨rfl, fun _ _ => rfl, h⟩

section
variable {s t : State} {wg : Nat} {v : Workgroup} (h : WgBecomes s t wg v)

include h

theorem WgBecomes.modWg {f : Workgroup → Workgroup} (hf : ∀ u, (f u).id = u.id) : WgBecomes s (modWg t wg f) wg (f v) where
  rest := by
    rw [Machine.modWg]
    exact congrArg (fun u : State => { u with wgs := t.wgs.map (fun w : Workgroup => if w.id = wg then f w else w) }) h.rest
  others := fun id hid => (findWg_modWg_other t wg id f hf hid).trans (h.others id hid)
  here := by rw [findWg_modWg_same t wg f hf, h.here]; rfl

theorem WgBecomes.modBank (k : Nat) (F : Bank → Bank) : WgBecomes s (modBank t wg k F) wg { v with banks := modifyAt v.banks k F } :=
  h.modWg fun _ => rfl

theorem WgBecomes.modGrp (k : Nat) (F : Group → Group) : WgBecomes s (modGrp t wg k F) wg { v with groups := modifyAt v.groups k F } :=
  h.modWg fun _ => rfl

/-- A workgroup with no interval logs no bank (R331). -/
theorem WgBecomes.logBank (hv : v.chk = none) (k id : Nat) : WgBecomes s (logBank t wg k id) wg v := by
  have hlog : WgBecomes s (Machine.logBank t wg k id) wg _ := h.modWg fun u => by
    split
    · split <;> rfl
    · rfl
  simpa only [hv] using hlog

end

/-! ## The end of a bank's part of a word (R229) -/

/-- A bank whose part of a word is over. -/
def served (id : Nat) (b : Bank) : Bank := { b with queue := b.queue.filter (fun e => qEntryId e != id) }

/-- A workgroup whose bank `k` is done with a word: groups and words in flight may note it, and no operation of a group changes. -/
structure PartOver (v v' : Workgroup) (k id : Nat) : Prop where
  rest : v' = { v with groups := v'.groups, cwords := v'.cwords, banks := v'.banks }
  banks : v'.banks = modifyAt v.banks k (served id)
  ops : ∀ j : Nat, (v'.groups[j]?).map Group.ops = (v.groups[j]?).map Group.ops

theorem flagDec_ops (g : Group) (fl : Option Nat) : (flagDec g fl).ops = g.ops := by cases fl <;> rfl

theorem WgBecomes.partDone {s t : State} {wg : Nat} {v : Workgroup} (h : WgBecomes s t wg v) (k id : Nat) :
    ∃ v', WgBecomes s (partDone t wg k id) wg v' ∧ PartOver v v' k id := by
  have h1 := h.modWg (f := fun w => { w with
    banks := modifyAt w.banks k (served id),
    cwords := w.cwords.map (fun c => if c.id = id then { c with left := c.left.filter (fun j => j != k) } else c) }) (fun _ => rfl)
  unfold Machine.partDone
  dsimp only
  split
  · exact ⟨_, h1, rfl, rfl, fun _ => rfl⟩
  · next c _ =>
    split
    · refine ⟨_, (h1.modWg (f := fun w => { w with cwords := w.cwords.filter (fun c => c.id != id) }) (fun _ => rfl)).modGrp c.grp _, rfl, rfl, fun j => ?_⟩
      by_cases hj : j = c.grp
      · subst hj
        rw [getElem?_modifyAt_same, Option.map_map]
        exact congrArg (Option.map · _) (funext fun g => flagDec_ops g _)
      · rw [getElem?_modifyAt_other _ _ hj]
    · exact ⟨_, h1, rfl, rfl, fun _ => rfl⟩

/-- The entry at the head of the queue leaves it alone. -/
theorem served_head {b : Bank} {id : Nat} {blocks : List Nat} {rest : List QEntry} (hq : b.queue = .word id blocks :: rest) (honce : ∀ e ∈ rest, qEntryId e ≠ id) :
    served id b = { b with queue := rest } := by
  have hrest : rest.filter (fun e => qEntryId e != id) = rest := List.filter_eq_self.2 fun e he => bne_iff_ne.2 (honce e he)
  rw [served, hq, List.filter_cons_of_neg (by simp [qEntryId]), hrest]

theorem not_mem_served {id : Nat} {b : Bank} {e : QEntry} (h : e ∈ (served id b).queue) : qEntryId e ≠ id := by
  simpa using (List.mem_filter.1 h).2

/-! ## The bank of the event -/

section
variable {s : State} {w : Workgroup} {b : Bank} {c : CWord} {blocks : List Nat} {rest : List QEntry} (h : AtHead s w b c blocks rest)
include h

theorem AtHead.id : w.id = s.arg.a := findWg_id h.wg

theorem residues_atHead : residues s w s.arg.b b c = some s := by simp [Machine.residues, h.residues]

/-- The bank of the event becomes `b'`. -/
theorem bankStep_of_becomes {t : State} {v : Workgroup} {b' : Bank} (ht : WgBecomes s t s.arg.a v)
    (hrest : v = { w with groups := v.groups, cwords := v.cwords, banks := v.banks }) {F : Bank → Bank}
    (hbanks : v.banks = modifyAt w.banks s.arg.b F) (hb' : F b = b') :
    BankStep s t w s.arg.b b' where
  rest := ht.rest
  others := ht.others
  here := ⟨v, ht.here, hrest, by rw [hbanks, getElem?_modifyAt_same, h.bank]; exact congrArg some hb', fun j hj => by rw [hbanks, getElem?_modifyAt_other _ _ hj]⟩

/-- The bank changes by `F`, and goes on with its word. -/
theorem bank_changes (F : Bank → Bank) : BankStep s (modBank (logBank s s.arg.a s.arg.b c.id) s.arg.a s.arg.b F) w s.arg.b (F b) :=
  bankStep_of_becomes h (((WgBecomes.refl h.wg).logBank h.plain _ _).modBank _ _) rfl rfl rfl

/-- The bank changes by `F`, and is done with its word. -/
theorem bank_changes_last {F : Bank → Bank} {bl : List Nat} (hF : (F b).queue = .word c.id bl :: rest) :
    BankStep s (partDone (modBank (logBank s s.arg.a s.arg.b c.id) s.arg.a s.arg.b F) s.arg.a s.arg.b c.id) w s.arg.b { F b with queue := rest } := by
  obtain ⟨v, hv, hrest, hbanks, -⟩ := (((WgBecomes.refl h.wg).logBank h.plain s.arg.b c.id).modBank s.arg.b F).partDone s.arg.b c.id
  exact bankStep_of_becomes h hv hrest (hbanks.trans (modifyAt_modifyAt ..)) (served_head hF h.once)

end

/-! ## Cells of the accumulators (R223) -/

/-- The cells of a block of columns: a row and a column of the block. -/
def cells (rows : List CRow) (n : CRow → Nat) : List (CRow × Nat) := rows.flatMap (fun r => (List.range (n r)).map (fun j => (r, j)))

/-- The key of a cell whose block begins at column `col0`. -/
def cellKey (col0 : Nat) (e : CRow × Nat) : Nat := accKey e.1.lane (col0 + e.2)

section
variable {rows : List CRow} {n : CRow → Nat} {col0 : Nat}

theorem mem_cells {e : CRow × Nat} : e ∈ cells rows n ↔ e.1 ∈ rows ∧ e.2 < n e.1 := by
  obtain ⟨r, j⟩ := e
  simp only [cells, List.mem_flatMap, List.mem_map, List.mem_range, Prod.mk.injEq]
  exact ⟨fun ⟨a, ha, i, hi, hr, hj⟩ => by subst hr hj; exact ⟨ha, hi⟩, fun ⟨hr, hj⟩ => ⟨r, hr, j, hj, rfl, rfl⟩⟩

/-- A walk over the rows, and over the columns of each, is one over the cells. -/
theorem foldl_cells {β : Type} (step : β → CRow × Nat → β) (b : β) :
    rows.foldl (fun a r => (List.range (n r)).foldl (fun a j => step a (r, j)) a) b = (cells rows n).foldl step b := by
  simp only [cells, List.foldl_flatMap, List.foldl_map]

theorem accKey_inj {l m i j : Nat} (hi : i < 128) (hj : j < 128) : accKey l i = accKey m j ↔ l = m ∧ i = j := by
  unfold accKey
  omega

/-- In rows of different lanes no two cells have one key. -/
theorem cells_keys (hlanes : rows.Pairwise (fun p q => p.lane ≠ q.lane)) (hcol : ∀ r ∈ rows, col0 + n r ≤ 128) :
    (cells rows n).Pairwise (fun e d => cellKey col0 e ≠ cellKey col0 d) := by
  refine List.pairwise_flatMap.2 ⟨fun r hr => ?_, hlanes.imp_of_mem fun {p q} hp hq hpq e he d hd => ?_⟩
  · refine List.pairwise_map.2 (List.pairwise_lt_range.imp fun {i j} hij heq => ?_)
    simp only [cellKey, accKey] at heq
    omega
  · obtain ⟨i, hi, rfl⟩ := List.mem_map.1 he
    obtain ⟨j, hj, rfl⟩ := List.mem_map.1 hd
    have := hcol p hp
    have := hcol q hq
    rw [List.mem_range] at hi hj
    exact fun heq => hpq ((accKey_inj (by omega) (by omega)).1 heq).1

end

/-- Each step changes one accumulator, of key `key e`, as `f e` says of its value. -/
def ChangesAcc {κ : Type} (key : κ → Nat) (f : κ → Word → Word) (step : Bank → κ → Bank) : Prop :=
  ∀ b e k, smGet (step b e).acc k 0 = if k = key e then f e (smGet b.acc (key e) 0) else smGet b.acc k 0

section
variable {κ : Type} {key : κ → Nat} {f : κ → Word → Word} {step : Bank → κ → Bank} (hstep : ChangesAcc key f step)
include hstep

theorem acc_foldl_other {es : List κ} {k : Nat} (hk : ∀ e ∈ es, key e ≠ k) (b : Bank) : smGet (es.foldl step b).acc k 0 = smGet b.acc k 0 := by
  induction es generalizing b with
  | nil => rfl
  | cons e r ih => rw [List.foldl_cons, ih (fun d hd => hk d (by simp [hd])), hstep, if_neg (hk e (by simp)).symm]

theorem acc_foldl_same {es : List κ} (hkeys : es.Pairwise (fun e d => key e ≠ key d)) {e : κ} (he : e ∈ es) (b : Bank) :
    smGet (es.foldl step b).acc (key e) 0 = f e (smGet b.acc (key e) 0) := by
  induction es generalizing b with
  | nil => simp at he
  | cons d r ih =>
    obtain ⟨hd, hr⟩ := List.pairwise_cons.1 hkeys
    rw [List.foldl_cons]
    rcases List.mem_cons.1 he with rfl | he
    · rw [acc_foldl_other hstep (fun k hk => (hd k hk).symm), hstep, if_pos rfl]
    · rw [ih hr he, hstep, if_neg (hd e he).symm]

end

/-! ## Sums into a block, and a block that is cleared -/

/-- A value of a row is added to a cell with one rounding. -/
def addStep (col0 : Nat) (val : CRow → Nat → Nat) (b : Bank) (e : CRow × Nat) : Bank :=
  putAcc b e.1.lane (col0 + e.2) (wordOf (addRne 10 (getAcc b e.1.lane (col0 + e.2)).toNat (val e.1 e.2)))

/-- A value is added to every cell of a block. -/
def sumInto (col0 : Nat) (n : CRow → Nat) (val : CRow → Nat → Nat) (rows : List CRow) (b : Bank) : Bank := (cells rows n).foldl (addStep col0 val) b

section
variable {col0 : Nat} {n : CRow → Nat} {val : CRow → Nat → Nat} {rows : List CRow} {b : Bank}

theorem addStep_changes : ChangesAcc (cellKey col0) (fun e x => wordOf (addRne 10 x.toNat (val e.1 e.2))) (addStep col0 val) :=
  fun b e k => smGet_smPut b.acc (cellKey col0 e) k (wordOf (addRne 10 (smGet b.acc (cellKey col0 e) 0).toNat (val e.1 e.2))) 0

theorem sumInto_frame : sumInto col0 n val rows b = { b with acc := (sumInto col0 n val rows b).acc } :=
  List.foldlRecOn (motive := fun a : Bank => a = { b with acc := a.acc }) (b := b) (cells rows n) (addStep col0 val) rfl fun a ha e _ => by rw [ha]; rfl

variable (hcol : ∀ r ∈ rows, col0 + n r ≤ 128)
include hcol

theorem getAcc_sumInto_same (hlanes : rows.Pairwise (fun p q => p.lane ≠ q.lane)) {r : CRow} {j : Nat} (hr : r ∈ rows) (hj : j < n r) :
    getAcc (sumInto col0 n val rows b) r.lane (col0 + j) = wordOf (addRne 10 (getAcc b r.lane (col0 + j)).toNat (val r j)) :=
  acc_foldl_same addStep_changes (cells_keys hlanes hcol) (e := (r, j)) (mem_cells.2 ⟨hr, hj⟩) b

theorem getAcc_sumInto_other {l m : Nat} (hm : m < 128) (h : ¬∃ r ∈ rows, r.lane = l ∧ col0 ≤ m ∧ m < col0 + n r) :
    getAcc (sumInto col0 n val rows b) l m = getAcc b l m := by
  refine acc_foldl_other addStep_changes (fun e he hkey => h ?_) b
  obtain ⟨hr, hj⟩ := mem_cells.1 he
  have := hcol e.1 hr
  obtain ⟨hl, hc⟩ := (accKey_inj (by omega) hm).1 hkey
  exact ⟨e.1, hr, hl, by omega, by omega⟩

end

/-- The counted rows of a block are cleared. -/
def clearRows (counted : LMask) (col0 ncol : Nat) (rows : List CRow) (b : Bank) : Bank :=
  (cells (rows.filter (fun r => hasLane counted r.lane)) (fun _ => ncol)).foldl (fun b e => clearAcc b e.1.lane (col0 + e.2)) b

section
variable {counted : LMask} {col0 ncol : Nat} {rows : List CRow} {b : Bank}

theorem clearStep_changes : ChangesAcc (cellKey col0) (fun _ _ => 0) (fun b e => clearAcc b e.1.lane (col0 + e.2)) :=
  fun b e k => smGet_smPut b.acc (cellKey col0 e) k 0 0

theorem clearRows_queue : (clearRows counted col0 ncol rows b).queue = b.queue :=
  List.foldlRecOn (motive := fun a : Bank => a.queue = b.queue) _ _ rfl fun _ ha _ _ => ha

theorem getAcc_clearRows (hlanes : rows.Pairwise (fun p q => p.lane ≠ q.lane)) (hcol : col0 + ncol ≤ 128) {r : CRow} {j : Nat} (hr : r ∈ rows) (hj : j < ncol) :
    getAcc (clearRows counted col0 ncol rows b) r.lane (col0 + j) = if hasLane counted r.lane = true then 0 else getAcc b r.lane (col0 + j) := by
  split
  next hcounted =>
    have hmem : (r, j) ∈ cells (rows.filter (fun r => hasLane counted r.lane)) (fun _ => ncol) := mem_cells.2 ⟨List.mem_filter.2 ⟨hr, hcounted⟩, hj⟩
    exact acc_foldl_same clearStep_changes (cells_keys (hlanes.filter _) fun _ _ => hcol) hmem b
  next hhelper =>
    refine acc_foldl_other clearStep_changes (fun e he hkey => hhelper ?_) b
    obtain ⟨hq, hi⟩ := mem_cells.1 he
    rw [← ((accKey_inj (by omega) (by omega)).1 hkey).1]
    exact (List.mem_filter.1 hq).2

end

/-! ## CACC at its bank (R244) -/

theorem caccAt_eq (rows : List CRow) (col0 : Nat) (b : Bank) :
    caccAt rows col0 b = sumInto col0 (fun r => r.vals.length) (fun r j => (r.vals.getD j 0).toNat) rows b :=
  foldl_cells (n := fun r => r.vals.length) (addStep col0 fun r j => (r.vals.getD j 0).toNat) b

/-! ## A k-block (R225, R234) -/

def poisonKey (b : Bank) (k : Nat) : Bank := { b with accPoison := smPut b.accPoison k true false }

/-- The accumulators that the poisoned bytes of a k-block feed. -/
def poisonedKeys (b : Bank) (rows : List CRow) (kb : Nat) : List Nat :=
  (b.tileBad.filter (fun o => tileBlk b o == kb)).flatMap (fun o => rows.map (fun r => accKey r.lane (tileCol b o)))

theorem poison_foldl (ks : List Nat) (b : Bank) (k : Nat) :
    smGet (ks.foldl poisonKey b).accPoison k false = true ↔ smGet b.accPoison k false = true ∨ k ∈ ks := by
  induction ks generalizing b with
  | nil => simp
  | cons a r ih =>
    rw [List.foldl_cons, ih, poisonKey, smGet_smPut, List.mem_cons]
    split
    next h => simp [h]
    next h => simp [h]

theorem poison_foldl_acc (ks : List Nat) (b : Bank) : (ks.foldl poisonKey b).acc = b.acc :=
  List.foldlRecOn (motive := fun a : Bank => a.acc = b.acc) ks poisonKey rfl fun _ ha _ _ => ha

theorem mem_poisonedKeys {b : Bank} {rows : List CRow} {kb k : Nat} :
    k ∈ poisonedKeys b rows kb ↔ ∃ o ∈ b.tileBad, tileBlk b o = kb ∧ ∃ r ∈ rows, accKey r.lane (tileCol b o) = k := by
  simp only [poisonedKeys, List.mem_flatMap, List.mem_filter, beq_iff_eq, List.mem_map, and_assoc]

/-- A k-block sums the products of every row and column, then poisons what its poisoned bytes feed. -/
theorem blockAt_eq (afmt : Nat) (rows : List CRow) (kb : Nat) (b : Bank) :
    blockAt afmt rows kb b = (poisonedKeys b rows kb).foldl poisonKey (sumInto 0 (fun _ => 128) (fun r n => blockProduct afmt r b kb n) rows b) := by
  have hsum : sumInto 0 (fun _ => 128) (fun r n => blockProduct afmt r b kb n) rows b
      = rows.foldl (fun a r => (List.range 128).foldl (fun a n => addStep 0 (fun r n => blockProduct afmt r b kb n) a (r, n)) a) b := (foldl_cells _ b).symm
  simp only [addStep, Nat.zero_add] at hsum
  rw [blockAt, ← hsum, poisonedKeys, List.foldl_flatMap]
  simp only [List.foldl_map]
  rfl

theorem blockAt_frame (afmt : Nat) (rows : List CRow) (kb : Nat) (b : Bank) :
    blockAt afmt rows kb b = { b with acc := (blockAt afmt rows kb b).acc, accPoison := (blockAt afmt rows kb b).accPoison } := by
  rw [blockAt_eq]
  refine List.foldlRecOn (motive := fun a : Bank => a = { b with acc := a.acc, accPoison := a.accPoison }) _ poisonKey ?_ fun a ha k _ => ?_
  · rw [sumInto_frame]
  · rw [ha]
    rfl

/-- The poison that a k-block leaves. -/
theorem blockAt_poison (afmt : Nat) (rows : List CRow) (kb : Nat) (b : Bank) (k : Nat) :
    smGet (blockAt afmt rows kb b).accPoison k false = true
      ↔ smGet b.accPoison k false = true ∨ ∃ o ∈ b.tileBad, tileBlk b o = kb ∧ ∃ r ∈ rows, accKey r.lane (tileCol b o) = k := by
  rw [blockAt_eq, poison_foldl, mem_poisonedKeys, sumInto_frame]

/-- The accumulators that a k-block leaves. -/
theorem getAcc_blockAt (afmt : Nat) (rows : List CRow) (kb : Nat) (b : Bank) (l n : Nat) :
    getAcc (blockAt afmt rows kb b) l n = getAcc (sumInto 0 (fun _ => 128) (fun r n => blockProduct afmt r b kb n) rows b) l n := by
  rw [blockAt_eq, getAcc, poison_foldl_acc, getAcc]

/-! ## CRD at its bank (R245) -/

theorem crdRow_of_clean {b : Bank} (h : b.accPoison = []) (s : State) (col0 ncol d l : Nat) :
    (crdRow s b 10 col0 ncol d l).1.lane = l ∧ (crdRow s b 10 col0 ncol d l).1.v = (List.range ncol).map (fun k => (d + k, getAcc b l (col0 + k)))
    ∧ (crdRow s b 10 col0 ncol d l).2 = s := by
  have hbad : ∀ n, accBad b l n = false := fun n => by rw [accBad, h]; rfl
  refine ⟨rfl, ?_, ?_⟩
  · simp only [crdRow, hbad, ceilDiv, crdValue, if_true, Nat.add_sub_cancel, Nat.div_one]
    refine List.map_congr_left fun k hk => ?_
    simp [List.mem_range.1 hk, wordOf]
  · simp only [crdRow, hbad]
    refine if_pos (List.isEmpty_iff.2 (List.map_eq_nil_iff.2 (List.filter_eq_nil_iff.2 fun k _ => ?_)))
    rw [List.any_eq_true]
    rintro ⟨i, -, hi⟩
    split at hi
    · next y hy =>
      rw [List.getElem?_map] at hy
      obtain ⟨j, -, rfl⟩ := Option.map_eq_some_iff.1 hy
      cases hi
    · cases hi

/-- What CRD reads for its rows. -/
def crdOuts (s : State) (b : Bank) (col0 ncol d : Nat) (rows : List CRow) : List LaneOut := rows.map (fun r => (crdRow s b 10 col0 ncol d r.lane).1)

theorem crdOuts_slot {s : State} {b : Bank} (h : b.accPoison = []) {col0 ncol d : Nat} {rows : List CRow} {r : CRow} {j : Nat} (hr : r ∈ rows) (hj : j < ncol) :
    outsSlot (crdOuts s b col0 ncol d rows) (d + j) r.lane = some (getAcc b r.lane (col0 + j)) := by
  have hlane := fun l => (crdRow_of_clean h s col0 ncol d l).1
  have hfind : outOf (crdOuts s b col0 ncol d rows) r.lane = some (crdRow s b 10 col0 ncol d r.lane).1 := by
    induction rows with
    | nil => simp at hr
    | cons q rows ih =>
      rw [outOf, crdOuts, List.map_cons, List.find?_cons, hlane]
      by_cases hq : q.lane = r.lane
      · simp [hq]
      · have hr' : r ∈ rows := (List.mem_cons.1 hr).resolve_left fun e => hq (e ▸ rfl)
        rw [beq_eq_false_iff_ne.2 hq]
        exact ih hr'
  rw [outsSlot, hfind, Option.bind_some, lastV_run d _ _ (crdRow_of_clean h s col0 ncol d r.lane).2.1, if_pos (by omega), Nat.add_sub_cancel_left]

theorem crd_reads {s : State} {b : Bank} (h : b.accPoison = []) (col0 ncol d : Nat) (rows : List CRow) (es : List LaneOut) :
    rows.foldl (fun (e : List LaneOut × State) row => ((e.1 ++ [(crdRow e.2 b 10 col0 ncol d row.lane).1], (crdRow e.2 b 10 col0 ncol d row.lane).2))) (es, s)
      = (es ++ crdOuts s b col0 ncol d rows, s) := by
  induction rows generalizing es with
  | nil => simp [crdOuts]
  | cons r rows ih =>
    rw [List.foldl_cons, (crdRow_of_clean h s col0 ncol d r.lane).2.2, ih, List.append_assoc]
    rfl

/-- A group whose operation holds results. -/
def withResults (id : Nat) (outs : List LaneOut) (g : Group) : Group :=
  { g with ops := g.ops.map (fun o => if o.id = id then { o with outs := outs } else o) }

theorem outs_of_withResults {id : Nat} {outs : List LaneOut} {g : Group} {o : Op} (ho : o ∈ (withResults id outs g).ops) (hid : o.id = id) : o.outs = outs := by
  obtain ⟨a, -, rfl⟩ := List.mem_map.1 ho
  split
  · rfl
  next hne =>
    rw [if_neg hne] at hid
    exact absurd hid hne

/-- CRD of f32 values with nothing poisoned and no enabled condition: its results stand in its operation, and its counted rows are cleared
where it says. -/
theorem crdAt_of_clean {s : State} {w : Workgroup} {b : Bank} {c : CWord} {g : Group} {l : Launch} (h : b.accPoison = []) (hg : w.groups[c.grp]? = some g)
    (hl : findLaunch s w.launch = some l) (hen : enablesOf l = 0) (k col0 ncol : Nat) (clr : Bool) (d : Nat) :
    crdAt s w k b c 10 col0 ncol clr d
      = if clr then modBank (logBank (modGrp s w.id c.grp (withResults c.id (crdOuts s b col0 ncol d c.rows))) w.id k c.id) w.id k
          (clearRows g.counted col0 ncol c.rows)
        else modGrp s w.id c.grp (withResults c.id (crdOuts s b col0 ncol d c.rows)) := by
  have hclear : ∀ b, clearRows g.counted col0 ncol c.rows b = c.rows.foldl (fun b row =>
      if hasLane g.counted row.lane then (List.range ncol).foldl (fun b j => clearAcc b row.lane (col0 + j)) b else b) b := fun b => by
    rw [clearRows, ← foldl_cells (fun b e => clearAcc b e.1.lane (col0 + e.2)), List.foldl_filter]
  simp only [crdAt, crd_reads h, hg, hl, hen, condLanes_disabled, List.nil_append, beq_self_eq_true, Bool.and_true]
  cases clr
  · rfl
  · simp only [if_true]
    exact congrArg (modBank _ _ _) (funext fun b => (hclear b).symm)

/-! ## CSWP at the head of both queues (R246) -/

/-- The bank that CSWP fills next, and the one that computes next. -/
def swappedOut (acc : Bool) (b : Bank) : Bank :=
  if acc then { b with mode := .fill, acc := [], accPoison := [], resBad := [] } else { b with mode := .fill }
def swappedIn (acc : Bool) (a b : Bank) : Bank :=
  if acc then { b with mode := .compute, acc := a.acc, accPoison := a.accPoison, resBad := a.resBad } else { b with mode := .compute }

theorem cswpAt_of_heads {s : State} {wg id i j : Nat} {w : Workgroup} {bi bj : Bank} (hw : findWg s wg = some w) (hi : w.banks[i]? = some bi) (hj : w.banks[j]? = some bj)
    (hqi : bi.queue.head? = some (.word id [])) (hqj : bj.queue.head? = some (.word id [])) (acc : Bool) :
    cswpAt s wg id i j acc
      = partDone (partDone (modBank (modBank (logBank (logBank s wg i id) wg j id) wg i (swappedOut acc)) wg j (swappedIn acc bi)) wg i id) wg j id := by
  simp only [cswpAt, hw, bankAt, hi, hj, hqi, hqj, Option.map_some, qEntryId, beq_self_eq_true, Bool.and_self, if_true]
  rfl

/-! ## The events -/

/-- What the word at the head of bank `k` of a workgroup numbered `wg` comes to. -/
def performed (s : State) (w : Workgroup) (wg k : Nat) (b : Bank) (c : CWord) : State :=
  match c.kind with
  | .cmode m => partDone (modBank (logBank s wg k c.id) wg k (fun b => { b with mode := m })) wg k c.id
  | .czero => partDone (modBank (logBank s wg k c.id) wg k (fun b => { b with acc := [], accPoison := [], resBad := [] })) wg k c.id
  | .cacc col0 _ => partDone (modBank (logBank s wg k c.id) wg k (caccAt c.rows col0)) wg k c.id
  | .crd ty col0 ncol clr d => partDone (crdAt s w k b c ty col0 ncol clr d) wg k c.id
  | .cswp i j acc => cswpAt s wg c.id i j acc
  | .cbind slot => partDone (modBank (logBank s wg k c.id) wg k (fun b => { b with bound := slot.isSome, slot := BitVec.ofNat 4 (slot.getD 0) })) wg k c.id
  | .cmma _ _ => partDone (logBank s wg k c.id) wg k c.id

section
variable {s : State} {w : Workgroup} {b : Bank} {c : CWord} {rest : List QEntry} (h : AtHead s w b c [] rest)
include h

/-- BANK_QUEUE_ENTRY performs the word at the head (R228). -/
theorem execBankQueueEntry_atHead : exec .bankQueueEntry s = .next (performed s w s.arg.a s.arg.b b c) := by
  have hentry : exec .bankQueueEntry s = .next (entryAt s w s.arg.b b c) := by
    show execBankQueueEntry s = _
    simp only [execBankQueueEntry, h.wg, bankAt, h.bank, h.queue, h.word, h.goes, if_true]
  have hperf : entryAt s w s.arg.b b c = performed s w s.arg.a s.arg.b b c := by
    cases hk : c.kind <;> simp only [entryAt, performed, hk, residues_atHead h, h.id, h.wg, bankAt, h.bank, Option.bind_some]
  rw [hentry, hperf]

/-- An entry that changes its bank alone. -/
theorem entry_changes {F : Bank → Bank} (hF : (F b).queue = b.queue)
    (hp : performed s w s.arg.a s.arg.b b c = partDone (modBank (logBank s s.arg.a s.arg.b c.id) s.arg.a s.arg.b F) s.arg.a s.arg.b c.id) :
    ∃ t b', exec .bankQueueEntry s = .next t ∧ BankStep s t w s.arg.b b' ∧ b' = { F b with queue := rest } :=
  ⟨_, _, (execBankQueueEntry_atHead h).trans (congrArg _ hp), bank_changes_last h (hF.trans h.queue), rfl⟩

theorem cacc_adds {col0 ncol : Nat} (hk : c.kind = .cacc col0 ncol) (hlanes : c.rows.Pairwise (fun p q => p.lane ≠ q.lane)) (hcol : col0 + ncol ≤ 128)
    (hvals : ∀ r ∈ c.rows, r.vals.length = ncol) :
    ∃ t b', exec .bankQueueEntry s = .next t ∧ BankStep s t w s.arg.b b' ∧ b' = { b with acc := b'.acc, queue := rest }
      ∧ (∀ r j, r ∈ c.rows → j < ncol → getAcc b' r.lane (col0 + j) = wordOf (addRne 10 (getAcc b r.lane (col0 + j)).toNat (r.vals.getD j 0).toNat))
      ∧ (∀ l n, n < 128 → ¬(∃ r ∈ c.rows, r.lane = l ∧ col0 ≤ n ∧ n < col0 + ncol) → getAcc b' l n = getAcc b l n) := by
  have hframe := sumInto_frame (col0 := col0) (n := fun r => r.vals.length) (val := fun r j => (r.vals.getD j 0).toNat) (rows := c.rows) (b := b)
  have hin : ∀ r ∈ c.rows, col0 + r.vals.length ≤ 128 := fun r hr => by rw [hvals r hr]; exact hcol
  rw [← caccAt_eq] at hframe
  obtain ⟨t, b', hexec, hstep, hb'⟩ := entry_changes h (F := caccAt c.rows col0) (by rw [hframe]) (by rw [performed, hk])
  have hacc : ∀ l n, getAcc b' l n = getAcc (sumInto col0 (fun r => r.vals.length) (fun r j => (r.vals.getD j 0).toNat) c.rows b) l n := fun l n => by
    rw [hb', ← caccAt_eq]
    rfl
  refine ⟨t, b', hexec, hstep, ?_, fun r j hr hj => ?_, fun l n hn hout => ?_⟩
  · rw [hb', hframe]
  · rw [hacc, getAcc_sumInto_same hin hlanes hr (by rw [hvals r hr]; exact hj)]
  · rw [hacc, getAcc_sumInto_other hin hn fun ⟨r, hr, hl, hlo, hhi⟩ => hout ⟨r, hr, hl, hlo, by rwa [hvals r hr] at hhi⟩]

section
variable {col0 ncol : Nat} {clr : Bool} {d : Nat} {g : Group} {l : Launch} (hk : c.kind = .crd 10 col0 ncol clr d) (hg : w.groups[c.grp]? = some g)
  (hl : findLaunch s w.launch = some l) (hclean : b.accPoison = []) (hen : enablesOf l = 0)
include hk hg hl hclean hen

/-- CRD leaves its results in its operation, and its part is over at a bank that it may have cleared. -/
theorem crd_done : ∃ t u v, exec .bankQueueEntry s = .next t ∧ WgBecomes s t s.arg.a v ∧ PartOver u v s.arg.b c.id
    ∧ u.groups = modifyAt w.groups c.grp (withResults c.id (crdOuts s b col0 ncol d c.rows))
    ∧ u.banks[s.arg.b]? = some (if clr then clearRows g.counted col0 ncol c.rows b else b) := by
  have hexec := execBankQueueEntry_atHead h
  rw [performed, hk] at hexec
  dsimp only at hexec
  rw [crdAt_of_clean hclean hg hl hen, h.id] at hexec
  have hread := (WgBecomes.refl h.wg).modGrp c.grp (withResults c.id (crdOuts s b col0 ncol d c.rows))
  cases clr
  case false =>
    obtain ⟨v, hv, hover⟩ := hread.partDone s.arg.b c.id
    exact ⟨_, _, v, hexec, hv, hover, rfl, h.bank⟩
  case true =>
    obtain ⟨v, hv, hover⟩ := ((hread.logBank h.plain s.arg.b c.id).modBank s.arg.b (clearRows g.counted col0 ncol c.rows)).partDone s.arg.b c.id
    exact ⟨_, _, v, hexec, hv, hover, rfl, by rw [getElem?_modifyAt_same, h.bank]; rfl⟩

theorem crd_captures (hlanes : c.rows.Pairwise (fun p q => p.lane ≠ q.lane)) (hcol : col0 + ncol ≤ 128) :
    ∃ t v b' g', exec .bankQueueEntry s = .next t ∧ findWg t s.arg.a = some v ∧ v.banks[s.arg.b]? = some b' ∧ b'.queue = rest ∧ v.groups[c.grp]? = some g'
      ∧ (∀ o ∈ g'.ops, o.id = c.id → ∀ r j, r ∈ c.rows → j < ncol → outsSlot o.outs (d + j) r.lane = some (getAcc b r.lane (col0 + j)))
      ∧ (∀ r j, r ∈ c.rows → j < ncol → getAcc b' r.lane (col0 + j)
          = if clr = true ∧ hasLane g.counted r.lane = true then 0 else getAcc b r.lane (col0 + j)) := by
  obtain ⟨t, u, v, hexec, hv, hover, hgroups, hbank⟩ := crd_done h hk hg hl hclean hen
  have hops := hover.ops c.grp
  rw [hgroups, getElem?_modifyAt_same, hg] at hops
  obtain ⟨g', hg', hops'⟩ := Option.map_eq_some_iff.1 hops
  have hqueue : (if clr then clearRows g.counted col0 ncol c.rows b else b).queue = .word c.id [] :: rest := by
    rw [apply_ite Bank.queue, clearRows_queue, ite_self, h.queue]
  have hb' : v.banks[s.arg.b]? = some { (if clr then clearRows g.counted col0 ncol c.rows b else b) with queue := rest } := by
    rw [hover.banks, getElem?_modifyAt_same, hbank, Option.map_some, served_head hqueue h.once]
  refine ⟨t, v, _, g', hexec, hv.here, hb', rfl, hg', fun o ho hid r j hr hj => ?_, fun r j hr hj => ?_⟩
  · rw [hops'] at ho
    rw [outs_of_withResults ho hid, crdOuts_slot hclean hr hj]
  · cases clr
    case false => simp [getAcc]
    case true => exact (getAcc_clearRows hlanes hcol hr hj).trans (by simp only [true_and])

end

theorem cswp_exchanges {i j : Nat} {acc : Bool} {bi bj : Bank} (hk : c.kind = .cswp i j acc) (hij : i ≠ j) (hbi : w.banks[i]? = some bi) (hbj : w.banks[j]? = some bj)
    (hqi : bi.queue.head? = some (.word c.id [])) (hqj : bj.queue.head? = some (.word c.id [])) :
    ∃ t v, exec .bankQueueEntry s = .next t ∧ findWg t s.arg.a = some v ∧ v.banks[i]? = some (served c.id (swappedOut acc bi))
      ∧ v.banks[j]? = some (served c.id (swappedIn acc bi bj)) := by
  have hexec := execBankQueueEntry_atHead h
  rw [performed, hk] at hexec
  dsimp only at hexec
  rw [cswpAt_of_heads h.wg hbi hbj hqi hqj] at hexec
  have hlog := ((WgBecomes.refl h.wg).logBank h.plain i c.id).logBank h.plain j c.id
  obtain ⟨v, hv, -, hbanks, -⟩ := ((hlog.modBank i (swappedOut acc)).modBank j (swappedIn acc bi)).partDone i c.id
  obtain ⟨u, hu, -, hbanks', -⟩ := hv.partDone j c.id
  rw [hbanks] at hbanks'
  refine ⟨_, u, hexec, hu.here, ?_, ?_⟩
  · rw [hbanks', getElem?_modifyAt_other _ _ hij, getElem?_modifyAt_same, getElem?_modifyAt_other _ _ hij, getElem?_modifyAt_same, hbi]
    rfl
  · rw [hbanks', getElem?_modifyAt_same, getElem?_modifyAt_other _ _ hij.symm, getElem?_modifyAt_same, getElem?_modifyAt_other _ _ hij.symm, hbj]
    rfl

end

/-- The bank of a CMMA after its next k-block. -/
def blockDone (afmt : Nat) (c : CWord) (kb : Nat) (more : List Nat) (rest : List QEntry) (b : Bank) : Bank :=
  { blockAt afmt c.rows kb b with queue := .word c.id more :: rest }

section
variable {s : State} {w : Workgroup} {b : Bank} {c : CWord} {kb : Nat} {more : List Nat} {rest : List QEntry} {afmt : Nat} {k256 : Bool}
  (h : AtHead s w b c (kb :: more) rest) (hk : c.kind = .cmma afmt k256)
include h hk

/-- KBLOCK_DONE performs the next k-block, and with the last ends the bank's part of the word (R228). -/
theorem execKblockDone_atHead :
    exec .kblockDone s = .next (if more = [] then
      partDone (modBank (logBank s s.arg.a s.arg.b c.id) s.arg.a s.arg.b (blockDone afmt c kb more rest)) s.arg.a s.arg.b c.id
      else modBank (logBank s s.arg.a s.arg.b c.id) s.arg.a s.arg.b (blockDone afmt c kb more rest)) := by
  show execKblockDone s = _
  simp only [execKblockDone, h.wg, bankAt, h.bank, h.queue, h.word, hk, h.goes, residues_atHead h, Bool.not_true, Bool.false_eq_true, if_false, List.isEmpty_iff]
  rfl

theorem kblock_steps : ∃ t, exec .kblockDone s = .next t
    ∧ BankStep s t w s.arg.b { blockAt afmt c.rows kb b with queue := (if more = [] then [] else [.word c.id more]) ++ rest } := by
  refine ⟨_, execKblockDone_atHead h hk, ?_⟩
  split
  · exact bank_changes_last h (F := blockDone afmt c kb more rest) rfl
  · exact bank_changes h (blockDone afmt c kb more rest)

end

/-- Settles O31: each entry by the change of its bank, and a k-block by the sums and the poison that it leaves. -/
theorem bankEntriesPerform : Obligations.BankEntriesPerform := by
  unfold Obligations.BankEntriesPerform
  refine ⟨fun s w b c rest h => ⟨fun m hk => ?mode, fun slot hk => ?bind, fun hk => ?zero, fun col0 ncol hk => ?add,
    fun col0 ncol clr d g l hk hg hl hclean hen hlanes hcol => ?read, fun i j acc bi bj hk hij hbi hbj _ hqi hqj => ?swap⟩,
    fun s w b c kb more rest afmt k256 h hk hlanes => ?block⟩
  case mode => exact entry_changes h (F := fun b => { b with mode := m }) rfl (by rw [performed, hk])
  case bind => exact entry_changes h (F := fun b => { b with bound := slot.isSome, slot := BitVec.ofNat 4 (slot.getD 0) }) rfl (by rw [performed, hk])
  case zero =>
    obtain ⟨t, b', hexec, hstep, hb'⟩ := entry_changes h (F := fun b => { b with acc := [], accPoison := [], resBad := [] }) rfl (by rw [performed, hk])
    exact ⟨t, b', hexec, hstep, by rw [hb', ← h.residues]⟩
  case add => exact cacc_adds h hk
  case read => exact crd_captures h hk hg hl hclean hen hlanes hcol
  case swap =>
    obtain ⟨t, v, hexec, hv, hi, hj⟩ := cswp_exchanges h hk hij hbi hbj hqi hqj
    refine ⟨t, v, _, _, hexec, hv, hi, hj, ?_, ?_, ?_, ?_, ?_, ?_, fun e he => (List.mem_append.1 he).elim not_mem_served not_mem_served⟩
    all_goals cases acc <;> simp [served, swappedOut, swappedIn]
  case block =>
    obtain ⟨t, hexec, hstep⟩ := kblock_steps h hk
    have hcol : ∀ r ∈ c.rows, 0 + 128 ≤ 128 := fun _ _ => Nat.le_refl _
    refine ⟨t, _, hexec, hstep, ?_, blockAt_poison afmt c.rows kb b, fun r n hr hn => ?_, fun l n hn hl => ?_⟩
    · rw [blockAt_frame]
    · refine (getAcc_blockAt afmt c.rows kb b r.lane n).trans ?_
      simpa only [Nat.zero_add] using getAcc_sumInto_same (n := fun _ => 128) hcol hlanes hr hn
    · exact (getAcc_blockAt afmt c.rows kb b l n).trans (getAcc_sumInto_other (n := fun _ => 128) hcol hn fun ⟨r, hr, hlane, _⟩ => hl r hr hlane)

end Sys2Proof.Machine

/-! The weight slots (R231, R240, R241, R247): what the read of a header and the change of a PINW leave, and the words CBIND, CPIN,
CUNP and CSTAT (O32). -/
namespace Sys2Proof.Machine

/-! ## Reads of records (R80) -/

theorem onlyReads_of_translateFor {s s1 : State} {die part va : Nat} {write : Bool} {r : Option Phys} (h : translateFor s die part va write = (r, s1)) :
    OnlyReads s s1 := by
  rw [OnlyReads, onlyDies_of_translateFor h]

theorem freeBytes_onlyReads (s : State) (n : Nat) : OnlyReads s (freeBytes s n).2 := by
  induction n generalizing s with
  | zero => exact .refl s
  | succ n ih => exact OnlyReads.trans (t := (freshWord s).2) rfl (ih _)

theorem OnlyReads.findGrp {s t : State} (h : OnlyReads s t) (wg grp : Nat) : findGrp t wg grp = Machine.findGrp s wg grp := by
  rw [Machine.findGrp, findWg, h.wgs, Machine.findGrp, findWg]

/-- A record read by a group with nothing outstanding only reads. -/
theorem readRec_onlyReads {s : State} {x : Ctx} (hg : findGrp s x.c.wg x.c.grp = some x.g) (hops : x.g.ops = []) (va n : Nat) : OnlyReads s (readRec s x va n).2 := by
  rcases htr : translateFor s (dieOf s x.w.lcore) x.l.part va false with ⟨p, s1⟩
  have hs1 := onlyReads_of_translateFor htr
  have hbefore := performBefore_of_idle (id := s1.nextId) x.act ((hs1.findGrp _ _).trans hg) hops
  cases p with
  | none =>
    simp only [readRec, htr]
    split <;> exact hs1
  | some p =>
    simp only [readRec, htr, hbefore]
    split
    · split
      · exact hs1
      · split
        · exact hs1
        · exact hs1.trans (freeBytes_onlyReads s1 n)
    · split
      · exact hs1
      · split <;> exact hs1.trans (yieldServe_onlyReads s1 _)

theorem onlyReads_of_readRec {s s1 : State} {x : Ctx} {va n : Nat} {r : RecRead} (hg : findGrp s x.c.wg x.c.grp = some x.g) (hops : x.g.ops = [])
    (h : readRec s x va n = (r, s1)) : OnlyReads s s1 := by
  have hr := readRec_onlyReads hg hops va n
  rwa [h] at hr

/-- A record that is read at its place. -/
theorem withRec_bytes {s s1 : State} {x : Ctx} {va n : Nat} {b : List Byte} (hal : va % 64 = 0) (hva : va < 2 ^ 57) (h : readRec s x va n = (.bytes b, s1))
    (fl : Option Nat) (m : LMask) (f : State → List Byte → Res) : withRec s x fl m va n f = f s1 b := by
  have hout : ¬2 ^ 57 ≤ va := by omega
  simp only [withRec, hal, hout, h, bne_self_eq_false, decide_false, Bool.or_self, Bool.false_eq_true, if_false]

/-! ## CBIND (R240) -/

/-- A slot that is bound to a weight set. -/
def boundSlot (r : Nat) (h : WHdr) : WSlot :=
  { addr := dwordOf r, setid := h.setid, gen := h.gen, wfmt := BitVec.ofNat 8 h.wfmt, ktiles := h.kt, ntiles := h.nt, adapt := h.adapt,
    rank := BitVec.ofNat 16 h.rank, afmt := BitVec.ofNat 4 h.afmt, pin := .none }

/-- Slot `k` holds `o`. -/
def putSlot (k : Nat) (o : WSlot) (w : Workgroup) : Workgroup := { w with wslots := assocPut w.wslots k o }

theorem slotOfWg_putSlot (k : Nat) (o : WSlot) (w : Workgroup) : slotOfWg (putSlot k o w) k = some o := assoc?_assocPut_same w.wslots k o

/-- The state once the word has bound its slot. -/
def slotBound (s : State) (x : Ctx) (k : Nat) (o : WSlot) : State := modWg (modGrp s x.c.wg x.c.grp (forgetPages x)) x.w.id (putSlot k o)

theorem cbindGo_fresh {x : Ctx} {k : Nat} (hk : slotOfWg x.w k = none) (s u : State) (r : Nat) (bs : List Nat) (h : WHdr) :
    closeRes s x (cbindGo u x k r bs h) = if bs = [] then advance (slotBound u x k (boundSlot r h)) x.c
      else closeRes s x (queued (slotBound u x k (boundSlot r h)) x none (.cbind (some k)) [] bs []) := by
  simp only [cbindGo, hk, Bool.false_eq_true, if_false, List.isEmpty_iff]
  split <;> rfl

/-- The workgroup of the issuing group once a slot is bound. -/
def boundWg (x : Ctx) (k : Nat) (o : WSlot) : Workgroup := putSlot k o { x.w with groups := modifyAt x.w.groups x.c.grp (forgetPages x) }

theorem findWg_slotBound {s : State} {x : Ctx} (hw : findWg s x.c.wg = some x.w) (k : Nat) (o : WSlot) :
    findWg (slotBound s x k o) x.c.wg = some (boundWg x k o) := by
  rw [slotBound, findWg_id hw, findWg_modWg_same _ _ (putSlot k o) (fun _ => rfl), findWg_modGrp_same, hw]
  rfl

theorem findWg_advance_slotBound {s : State} {x : Ctx} (hw : findWg s x.c.wg = some x.w) (k : Nat) (o : WSlot) :
    findWg (advance (slotBound s x k o) x.c) x.c.wg
      = some { boundWg x k o with groups := modifyAt (boundWg x k o).groups x.c.grp (advanceGrp x.c) } :=
  (findWg_modGrp_same ..).trans (by rw [findWg_slotBound hw]; rfl)

section
variable {s : State} {x : Ctx} {w : FmtC} (hi : Issues s w.g x) (hsole : Sole s x) (hact : groupAct x ≠ 0)
include hi hsole hact

/-- CBIND of a free slot whose two headers stand and name one set. -/
theorem execCbind_fresh {e : DWord} {b1 b2 : List Byte} {s1 s2 : State} {r : Nat}
    (hreads : Reads x [srcOf 0 w.a 2, srcOf 1 w.b 1, srcOf 2 w.c 2] x.act) (hcopy : anyCopy x (bankSet s x w.a) = false)
    (hroom : bankSet s x w.a ≠ [] → canvasFull x = false) (he : x.l.wtab[readUN s x w.b]? = some e)
    (hr : (if readU s x w.c 64 false = 0 then e.toNat else readU s x w.c 64 false) = r) (hal : r % 64 = 0) (hlt : r < 2 ^ 57)
    (hale : e.toNat % 64 = 0) (hlte : e.toNat < 2 ^ 57) (h1 : readRec s x r 64 = (.bytes b1, s1)) (h2 : readRec s1 x e.toNat 64 = (.bytes b2, s2))
    (hb1 : whdrBad b1 = false) (hb2 : whdrBad b2 = false) (hset : (whdrOf b1).setid = (whdrOf b2).setid) :
    exec (.cbind w) s = .next (closeRes s x (cbindGo s2 x (readUN s x w.b) r (bankSet s x w.a) (whdrOf b1))) := by
  have hheld : heldByFault x.g = false := by simp [heldByFault, hsole.idle]
  have hfull : (!(bankSet s x w.a).isEmpty && canvasFull x) = false := by
    by_cases hbs : bankSet s x w.a = []
    · rw [hbs]; rfl
    · rw [hroom hbs, Bool.and_false]
  have hexec : execCbind w s = _ := canvasIssue_next (ll := false) hi hsole hact rfl hreads _
  show execCbind w s = _
  rw [hexec]
  simp only [hcopy, hfull, hheld, he, hr, withRec_bytes hal hlt h1, withRec_bytes hale hlte h2, hb1, hb2, hset, bne_self_eq_false, Bool.or_self,
    Bool.false_eq_true, if_false]

end

/-! ## The pins (R231, R241) -/

theorem bytesToNat_lt (bs : List Byte) : bytesToNat bs < 256 ^ bs.length := by
  induction bs with
  | nil => decide
  | cons b r ih =>
    have hb := b.isLt
    rw [bytesToNat, List.length_cons, pow_succ]
    omega

theorem memNat_word_lt (s : State) (pa : Nat) : memNat s pa 4 < 2 ^ 32 := by
  have h := bytesToNat_lt (memBytes s pa 4)
  simpa [memNat, memBytes, smGetList] using h

/-- The word of a record after a write of it alone. -/
theorem wordChanges_of_write {s u t : State} {pa v : Nat} (hu : u.mem = s.mem) (ht : t.mem = (memWrite u pa (natToBytes 4 v)).mem) (hv : v < 2 ^ 32) :
    WordChanges s t pa (memNat s pa 4) v := by
  have hbyte : ∀ a, memByte t a = memByte (memWrite u pa (natToBytes 4 v)) a := fun a => by rw [memByte, ht, memByte]
  have hold : ∀ a, memByte u a = memByte s a := fun a => by rw [memByte, hu, memByte]
  refine ⟨rfl, ?_, fun p hp => ?_⟩
  · have hsame := memNat_memWrite_same u pa (natToBytes 4 v)
    rw [length_natToBytes, bytesToNat_natToBytes, Nat.mod_eq_of_lt (show v < 256 ^ 4 from hv)] at hsame
    exact (memNat_congr fun a _ _ => hbyte a).trans hsame
  · rw [hbyte, memByte_memWrite_out _ _ _ _ (by rwa [length_natToBytes]), hold]

/-- The change of a PINW that stands free and unpoisoned in device memory. -/
theorem pinAtomic_of_clean {s s1 : State} {x : Ctx} {p : Phys} {va : Nat} (hg : findGrp s x.c.wg x.c.grp = some x.g) (hops : x.g.ops = [])
    (hp : translateFor s (dieOf s x.w.lcore) x.l.part va true = (some p, s1)) (hpeer : p.peer = none) (hst : stalledAt s1 x.c.wg (.global p.pa) = false)
    (hclean : ∀ i, i < 4 → sectorBad s (p.pa + i) = false) (f : Nat → Nat) (fin : State → Option Nat → State) :
    pinAtomic s x va f fin = .ok (fin (memWrite (yieldServe s1 [p.pa]) p.pa (natToBytes 4 (f (memNat s p.pa 4)))) (some (memNat s p.pa 4))) := by
  have hs1 := onlyReads_of_translateFor hp
  have hbefore := performBefore_of_idle (id := s1.nextId) x.act ((hs1.findGrp _ _).trans hg) hops
  have hread : memRead (yieldServe s1 [p.pa]) p.pa 4 = memRead s p.pa 4 := by rw [hs1.trans (yieldServe_onlyReads s1 [p.pa])]; rfl
  simp only [pinAtomic, hp, hpeer, hst, prevStalled_of_noOps hops, Bool.or_self, Bool.false_eq_true, if_false, hbefore, hread, anyBad_memRead s hclean, memRead_bytes]
  rfl

/-- The state and the workgroup once a pin has changed and the gang goes on. -/
theorem findWg_goOn {s u : State} {x : Ctx} (hw : findWg s x.c.wg = some x.w) (hu : u.wgs = s.wgs) {F : Workgroup → Workgroup} (hF : ∀ w, (F w).id = w.id) :
    findWg (goOn (modWg u x.w.id F) x) x.c.wg
      = some { F x.w with groups := modifyAt (F x.w).groups x.c.grp (fun g => advanceGrp x.c (forgetPages x g)) } := by
  have hwu : findWg u x.c.wg = some x.w := by rw [findWg, hu]; exact hw
  rw [goOn, findWg_modGrp_same, findWg_id hw, findWg_modWg_same _ _ F hF, hwu]
  rfl

theorem assoc?_assocDel_same {α : Type} (l : List (Nat × α)) (k : Nat) : assoc? (assocDel l k) k = none := by
  induction l with
  | nil => rfl
  | cons e r ih =>
    obtain ⟨a, v⟩ := e
    by_cases h : a = k
    · simpa [assocDel, h] using ih
    · simpa [assocDel, h, assoc?] using ih

/-- A workgroup whose slot is unbound has no bank and no queued CBIND that names it (R240, R241). -/
theorem unbindSlot_unbinds (k : Nat) (w : Workgroup) :
    slotOfWg (unbindSlot k w) k = none ∧ (∀ b ∈ (unbindSlot k w).banks, ¬(b.bound = true ∧ b.slot.toNat = k))
    ∧ ∀ c ∈ (unbindSlot k w).cwords, c.kind ≠ .cbind (some k) := by
  refine ⟨assoc?_assocDel_same w.wslots k, fun b hb => ?_, fun c hc => ?_⟩
  · obtain ⟨a, -, rfl⟩ := List.mem_map.1 hb
    split
    · simp
    · assumption
  · obtain ⟨a, -, rfl⟩ := List.mem_map.1 hc
    split
    · simp
    · assumption

section
variable {s : State} {x : Ctx} {w : FmtC} (hi : Issues s w.g x) (hsole : Sole s x) (hact : groupAct x ≠ 0)
include hi hsole hact

section
variable {o : WSlot} {p : Phys} {s1 : State} (hreads : Reads x [srcOf 0 w.a 1] x.act) (hk : readUN s x w.a < x.l.wtab.length)
  (ho : slotOfWg x.w (readUN s x w.a) = some o) (hp : translateFor s (dieOf s x.w.lcore) x.l.part (o.addr.toNat + 8) true = (some p, s1))
  (hpeer : p.peer = none) (hst : stalledAt s1 x.c.wg (.global p.pa) = false) (hclean : ∀ i, i < 4 → sectorBad s (p.pa + i) = false)
include hreads hk ho hp hpeer hst hclean

/-- CPIN of a slot with no pin counts one, unless bit 31 of the PINW refuses it. -/
theorem execCpin_counts (hpin : o.pin = .none) :
    let v0 := memNat s p.pa 4
    ∃ t v o', exec (.cpin w) s = .next t ∧ findWg t x.c.wg = some v ∧ slotOfWg v (readUN s x w.a) = some o'
      ∧ o' = { o with pin := if bitOf v0 31 then .refused else .pinned } ∧ WordChanges s t p.pa v0 (if bitOf v0 31 then v0 else v0 + 1) := by
  intro v0
  have hheld : heldByFault x.g = false := by simp [heldByFault, hsole.idle]
  have hu := (onlyReads_of_translateFor hp).trans (yieldServe_onlyReads s1 [p.pa])
  have hexec : execCpin w s = _ := canvasIssue_next (ll := false) hi hsole hact rfl hreads _
  simp only [if_pos hk, ho, hpin, hheld, bne_self_eq_false, Bool.false_eq_true, if_false] at hexec
  rw [pinAtomic_of_clean (findGrp_of_get hi.wg hi.grp) hsole.idle hp hpeer hst hclean] at hexec
  refine ⟨_, _, _, hexec, findWg_goOn hi.wg ((memWrite_wgs ..).trans hu.wgs) (F := putSlot _ _) (fun _ => rfl), slotOfWg_putSlot _ _ _, rfl,
    wordChanges_of_write hu.mem rfl ?_⟩
  have hlt := memNat_word_lt s p.pa
  split
  · exact hlt
  next hbit =>
    have hhalf : memNat s p.pa 4 < 2 ^ 31 := by
      by_contra hge
      exact hbit (by simp only [bitOf, beq_iff_eq]; omega)
    omega

/-- CUNP of a pinned slot counts its pin back and unbinds it. -/
theorem execCunp_unbinds (hpin : o.pin = .pinned) :
    let v0 := memNat s p.pa 4
    ∃ t v, exec (.cunp w) s = .next t ∧ findWg t x.c.wg = some v ∧ slotOfWg v (readUN s x w.a) = none
      ∧ (∀ b ∈ v.banks, ¬(b.bound = true ∧ b.slot.toNat = readUN s x w.a)) ∧ (∀ c ∈ v.cwords, c.kind ≠ .cbind (some (readUN s x w.a)))
      ∧ WordChanges s t p.pa v0 ((v0 + 2 ^ 32 - 1) % 2 ^ 32) := by
  intro v0
  have hheld : heldByFault x.g = false := by simp [heldByFault, hsole.idle]
  have hu := (onlyReads_of_translateFor hp).trans (yieldServe_onlyReads s1 [p.pa])
  have hexec : execCunp w s = _ := canvasIssue_next (ll := false) hi hsole hact rfl hreads _
  simp only [if_pos hk, ho, hpin, hheld, bne_self_eq_false, Bool.false_eq_true, if_false] at hexec
  rw [pinAtomic_of_clean (findGrp_of_get hi.wg hi.grp) hsole.idle hp hpeer hst hclean] at hexec
  obtain ⟨hslot, hbanks, hwords⟩ := unbindSlot_unbinds (readUN s x w.a) x.w
  exact ⟨_, _, hexec, findWg_goOn hi.wg ((memWrite_wgs ..).trans hu.wgs) (fun _ => rfl), hslot, hbanks, hwords,
    wordChanges_of_write hu.mem rfl (Nat.mod_lt _ (by norm_num))⟩

end

/-! ## CSTAT (R247) -/

theorem execCstat_writes (hreads : Reads x [srcOf 1 w.b 1] x.act) :
    ∃ t g, exec (.cstat w) s = .next t ∧ GroupStep s t x g ∧ SclWrites x g (toS w.d.toNat (cstatValue x w.md.toNat (readUN s x w.b))) := by
  have hexec : execCstat w s = _ := canvasIssue_next (ll := false) hi hsole hact rfl hreads _
  exact ⟨_, _, hexec, modGrp_step hi fun g => advanceGrp x.c (putS g _ _), putS_advanceGrp_writes x _ _⟩

end

/-- Settles O32: CBIND by the slot it binds and the entry it makes, CPIN and CUNP by the PINW and the slot, CSTAT by its scalar. -/
theorem weightSlots : Obligations.WeightSlots := by
  unfold Obligations.WeightSlots
  refine fun s x w hi hsole hact => ⟨?bind, ?pins, execCstat_writes hi hsole hact⟩
  case bind =>
    intro bs k raddr e b1 b2 s1 s2 hreads hcopy hroom he r hal hlt hale hlte h1 h2 hb1 hb2 hset hfree
    have hr1 := onlyReads_of_readRec (findGrp_of_get hi.wg hi.grp) hsole.idle h1
    have hr2 := hr1.trans (onlyReads_of_readRec ((hr1.findGrp _ _).trans (findGrp_of_get hi.wg hi.grp)) hsole.idle h2)
    have hw2 : findWg s2 x.c.wg = some x.w := by rw [findWg, hr2.wgs]; exact hi.wg
    have hexec := execCbind_fresh hi hsole hact hreads hcopy hroom he (r := r) rfl hal hlt hale hlte h1 h2 hb1 hb2 hset
    rw [cbindGo_fresh hfree] at hexec
    by_cases hbs : bankSet s x w.a = []
    · rw [if_pos hbs] at hexec
      refine ⟨_, _, boundSlot r (whdrOf b1), hexec, hr2.mem, findWg_advance_slotBound hw2 k _, slotOfWg_putSlot k _ _, rfl, rfl, rfl, rfl,
        rfl, rfl, fun _ => ⟨rfl, rfl⟩, fun h => absurd hbs h⟩
    · rw [if_neg hbs, queued_of_room (hroom hbs)] at hexec
      refine ⟨_, _, boundSlot r (whdrOf b1), hexec, hr2.mem, findWg_enqueue _ _ _ _ _ _ (findWg_slotBound hw2 k _) _, slotOfWg_putSlot k _ _, rfl, rfl, rfl,
        rfl, rfl, rfl, fun h => absurd h hbs,
        fun _ => ⟨newWord _ x none (.cbind (some k)) [] bs, rfl, rfl, rfl, length_joinQueues .., fun j b hb => joinQueues_get hb⟩⟩
  case pins =>
    intro k o p s1 hreads hk ho hp hpeer hst hclean v0
    exact ⟨execCpin_counts hi hsole hact hreads hk ho hp hpeer hst hclean, execCunp_unbinds hi hsole hact hreads hk ho hp hpeer hst hclean⟩

end Sys2Proof.Machine

/-! The stream words (R264-R267): the register that each leaves in its group (O33). -/
namespace Sys2Proof.Machine

section
variable {s : State} {x : Ctx} {w : FmtC} (hi : Issues s w.g x) (ha : groupAct x ≠ 0)
include hi ha

/-- A stream word that can read its sources comes to what its meaning makes of them. -/
theorem streamWord_reads {srcs : List Src} (hr : Reads x srcs x.act) (f : State → Ctx → Res) :
    streamWord s w srcs f = .next (closeRes s x (f s x)) := by
  rw [streamWord, withCtx_next hi, if_neg ha, withSources_reads _ hr]

omit ha in
theorem setStream_writes (n : Nat) (q : Stream) : ∃ g, GroupStep s (setStream s x n q) x g ∧ StreamWrites x g n q :=
  ⟨movedOn x none n q, modGrp_step hi fun g => advanceGrp x.c (putQ g n q), movedOn_frame x none n q, movedOn_goesOn x none n q, getQ_movedOn x none n q⟩

/-- SOPN of no bytes: the stream has no position. -/
theorem execSopn_empty (hr : Reads x [srcOf 0 w.a 1, srcOf 1 w.b 1, srcOf 2 w.c 1] x.act) (hlen : readUN s x w.c = 0) :
    ∃ u g, exec (.sopn w) s = .next u ∧ GroupStep s u x g ∧ StreamWrites x g (w.d.toNat % 8)
      (streamOpen (fun _ => 0) (dwordOf (readUN s x w.a)) (wordOf (readUN s x w.b)) (wordOf (readUN s x w.c))) := by
  have hexec : execSopn w s = _ := streamWord_reads hi ha hr _
  rw [streamRead, if_pos hlen] at hexec
  obtain ⟨g, hstep, hw⟩ := setStream_writes hi (w.d.toNat % 8)
    (streamOpen (fun _ => 0) (dwordOf (readUN s x w.a)) (wordOf (readUN s x w.b)) (wordOf (readUN s x w.c)))
  exact ⟨_, g, hexec, hstep, hw⟩

/-- SOPN of metadata that stands free: the stream stands on its first listed position. -/
theorem execSopn_opens (hr : Reads x [srcOf 0 w.a 1, srcOf 1 w.b 1, srcOf 2 w.c 1] x.act) (hlen : readUN s x w.c ≠ 0) {t : Workgroup} {boff : Nat}
    (hat : StreamAt s x (readUN s x w.a) (readUN s x w.c) t boff) :
    ∃ u g, exec (.sopn w) s = .next u ∧ GroupStep s u x g ∧ StreamWrites x g (w.d.toNat % 8)
      (streamOpen (metaOf t boff) (dwordOf (readUN s x w.a)) (wordOf (readUN s x w.b)) (wordOf (readUN s x w.c))) := by
  have hexec : execSopn w s = _ := streamWord_reads hi ha hr _
  rw [streamRead_at hi hlen hat] at hexec
  obtain ⟨g, hstep, hw⟩ := setStream_writes hi (w.d.toNat % 8)
    (streamOpen (metaOf t boff) (dwordOf (readUN s x w.a)) (wordOf (readUN s x w.b)) (wordOf (readUN s x w.c)))
  exact ⟨_, g, hexec, hstep, hw⟩

/-- SADV of a stream that is not open, or stands at its operand or past it. -/
theorem execSadv_stays (hr : Reads x [srcOf 0 w.a 1] x.act)
    (hno : ¬((getQ x.g (w.d.toNat % 8)).st = .opened ∧ (getQ x.g (w.d.toNat % 8)).pos.toNat < readUN s x w.a)) :
    ∃ u g, exec (.sadv w) s = .next u ∧ GroupStep s u x g ∧ OnlyMoves x g := by
  have hexec : execSadv w s = _ := streamWord_reads hi ha hr _
  rw [if_neg hno] at hexec
  exact ⟨_, _, hexec, advance_step hi⟩

/-- SADV of an open stream below its operand: it moves past the positions there. -/
theorem execSadv_advances (hr : Reads x [srcOf 0 w.a 1] x.act) (hopen : (getQ x.g (w.d.toNat % 8)).st = .opened)
    (hpos : (getQ x.g (w.d.toNat % 8)).pos.toNat < readUN s x w.a) (hlen : (getQ x.g (w.d.toNat % 8)).len ≠ 0) {t : Workgroup} {boff : Nat}
    (hat : StreamAt s x (getQ x.g (w.d.toNat % 8)).addr.toNat (getQ x.g (w.d.toNat % 8)).len.toNat t boff) :
    ∃ u g, exec (.sadv w) s = .next u ∧ GroupStep s u x g ∧ StreamWrites x g (w.d.toNat % 8)
      (streamAdvance (metaOf t boff) (readUN s x w.a) ((getQ x.g (w.d.toNat % 8)).len.toNat + 1) (getQ x.g (w.d.toNat % 8))).2 := by
  have hn : (getQ x.g (w.d.toNat % 8)).len.toNat ≠ 0 := fun h => hlen (BitVec.eq_of_toNat_eq h)
  have hexec : execSadv w s = _ := streamWord_reads hi ha hr _
  rw [if_pos ⟨hopen, hpos⟩, streamRead_at hi hn hat] at hexec
  obtain ⟨g, hstep, hw⟩ := setStream_writes hi (w.d.toNat % 8)
    (streamAdvance (metaOf t boff) (readUN s x w.a) ((getQ x.g (w.d.toNat % 8)).len.toNat + 1) (getQ x.g (w.d.toNat % 8))).2
  exact ⟨_, g, hexec, hstep, hw⟩

omit hi ha in
/-- The lanes of ACTIVE of one predicate take one value each. -/
theorem putPMask_writes (x : Ctx) (d : Nat) (m : LMask) (f : Nat → Bool) (hm : ∀ l, l < 16 → hasLane x.act l = true → hasLane m l = f l) :
    LaneWrites x (advanceGrp x.c (putPMask x.g d x.act m)) noSlot (toPred x d f) where
  rest := by rw [advanceGrp_frame]; rfl
  on := goesOn_advanceGrp rfl
  slots := fun n l _ => by rw [getV_advanceGrp]; rfl
  preds := fun n l hn hl => by
    rw [getP_advanceGrp, getP, getP, getPMask_putPMask, toPred]
    by_cases hd : n = d
    · subst hd
      have h7 : n ≠ 7 := by omega
      by_cases hl' : hasLane x.act l = true
      · simp_all [hasLane]
      · simp_all [hasLane]
    · simp [hd]

theorem execStnd_writes : ∃ u g, exec (.stnd w) s = .next u ∧ GroupStep s u x g
    ∧ LaneWrites x g noSlot (toPred x w.d.toNat (fun _ => !decide ((getQ x.g w.q.toNat).st = .opened))) := by
  have hexec : execStnd w s = _ := streamWord_reads hi ha (reads_nil x) _
  refine ⟨_, _, hexec, modGrp_step hi _, putPMask_writes x _ _ _ fun l hl hact => ?_⟩
  by_cases h : (getQ x.g w.q.toNat).st = .opened
  · simp [h, hasLane]
  · simpa [h, hasLane] using hact

theorem execScls_closes : ∃ u g, exec (.scls w) s = .next u ∧ GroupStep s u x g
    ∧ StreamWrites x g (w.d.toNat % 8) { getQ x.g (w.d.toNat % 8) with st := .closed } := by
  have hexec : execScls w s = _ := streamWord_reads hi ha (reads_nil x) _
  obtain ⟨g, hstep, hw⟩ := setStream_writes hi (w.d.toNat % 8) { getQ x.g (w.d.toNat % 8) with st := .closed }
  exact ⟨_, g, hexec, hstep, hw⟩

end

/-- Settles O33: SOPN and SADV by the metadata that they read, or by the stream as it stands; STND by its predicate, SCLS by its register, SGET
by its scalar. -/
theorem streamWords : Obligations.StreamWords := by
  unfold Obligations.StreamWords
  intro s x w hi ha
  refine ⟨fun hr => ⟨execSopn_empty hi ha hr, fun hlen t boff hat => execSopn_opens hi ha hr hlen hat⟩,
    fun hr => ⟨execSadv_stays hi ha hr, fun hopen hpos hlen t boff hat => execSadv_advances hi ha hr hopen hpos hlen hat⟩,
    execStnd_writes hi ha, execScls_closes hi ha, ?sget⟩
  case sget =>
    have hexec : execSget w s = _ := streamWord_reads hi ha (reads_nil x) _
    exact ⟨_, _, hexec, modGrp_step hi _, putS_advanceGrp_writes x _ _⟩

end Sys2Proof.Machine

/-! A word in the state that its cut leaves (R299, R329), and the words that wait for flags, rejoin masks and operations (R280, R281, R300,
R310): WAITF, WAITJ, JMSK and FENCE (O28). -/
namespace Sys2Proof.Machine

/-! ## A word in the state that its cut leaves -/

section
variable {s b : State} {x y : Ctx} {fin : State → State} (h : Cuts s x b y fin)
include h

theorem Cuts.sameIssue : y.c = x.c := by rw [h.same]
theorem Cuts.sameLaunch : y.l = x.l := by rw [h.same]
theorem Cuts.sameAct : y.act = x.act := by rw [h.same]

/-- A word with a cut that does not wait is performed in the state that the commit leaves, and what follows the cut comes last. -/
theorem Cuts.withCut_ok (hw : findWg s x.c.wg = some x.w) {f : State → Res} {u : State} (hf : f b = .ok u) : withCut s x f = fin u := by
  unfold withCut
  cases hchk : x.w.chk with
  | none =>
    obtain ⟨rfl, rfl, rfl⟩ := h.plain hchk
    simp [closeRes, hf]
  | some c =>
    obtain ⟨hready, rfl, rfl⟩ := h.cut (by simp [hchk])
    simp only [hready, findWg_id hw, hf, if_true]

/-- Once the cut stands, the group's own change is a step of that group alone. -/
theorem Cuts.modGrp_step (f : Group → Group) : GroupStep b (modGrp b x.c.wg x.c.grp f) y (f y.g) := by
  rw [← h.sameIssue]
  exact modGrp_stepAt (h.sameIssue ▸ h.wg) (h.sameIssue ▸ h.grp) f

end

/-! ## WAITF, WAITJ and JMSK (R280, R281, R310) -/

section
variable {s : State} {x : Ctx} {w : FmtY} (hi : Issues s w.g x)
include hi

theorem execWaitj_moves (ha : groupAct x ≠ 0) (hr : Reads x [srcOf 0 w.a 1] x.act)
    (hin : getJ x.g (w.d.toNat % 8) &&& BitVec.ofNat 16 (readUN s x w.a) = BitVec.ofNat 16 (readUN s x w.a)) :
    ∃ t g, exec (.waitj w) s = .next t ∧ GroupStep s t x g ∧ OnlyMoves x g := by
  have hexec : execWaitj w s = _ := withCtx_next hi _
  rw [if_neg ha, withSources_reads _ hr, if_pos hin] at hexec
  exact ⟨_, _, hexec, advance_step hi⟩

theorem execWaitj_parks (ha : groupAct x ≠ 0) (hr : Reads x [srcOf 0 w.a 1] x.act)
    (hin : getJ x.g (w.d.toNat % 8) &&& BitVec.ofNat 16 (readUN s x w.a) ≠ BitVec.ofNat 16 (readUN s x w.a)) :
    ∃ t g, exec (.waitj w) s = .next t ∧ GroupStep s t x g ∧ Parks x (.waitj (w.d.toNat % 8) (BitVec.ofNat 16 (readUN s x w.a))) g := by
  have hexec : execWaitj w s = _ := withCtx_next hi _
  rw [if_neg ha, withSources_reads _ hr, if_neg hin] at hexec
  exact ⟨_, _, hexec, (park_step hi _).1, parkGrp_parks x _⟩

omit hi in
/-- The group after a word that writes rejoin mask `n`. -/
theorem putJ_advanceGrp_writes (x : Ctx) (n : Nat) (m : LMask) :
    advanceGrp x.c (putJ x.g n m) = advanceGrp x.c { x.g with j := (advanceGrp x.c (putJ x.g n m)).j }
    ∧ ∀ k, getJ (advanceGrp x.c (putJ x.g n m)) k = if k = n then m else getJ x.g k := by
  have hj : (advanceGrp x.c (putJ x.g n m)).j = (putJ x.g n m).j := by rw [advanceGrp_frame]
  refine ⟨by rw [hj]; rfl, fun k => ?_⟩
  rw [getJ, hj]
  exact getJ_putJ x.g n k m

/-- JMSK writes its rejoin mask, whichever its function of the operand is. -/
theorem jmskWord_writes (ha : groupAct x ≠ 0) (hr : Reads x [srcOf 0 w.a 1] x.act) (f : LMask → LMask → LMask) :
    ∃ t g, jmskWord s w f = .next t ∧ GroupStep s t x g ∧ g = advanceGrp x.c { x.g with j := g.j }
      ∧ ∀ k, getJ g k = if k = w.d.toNat % 8 then f (getJ x.g (w.d.toNat % 8)) (BitVec.ofNat 16 (readUN s x w.a)) else getJ x.g k := by
  rw [jmskWord, withCtx_next hi, if_neg ha, withSources_reads _ hr]
  obtain ⟨hrest, hmasks⟩ := putJ_advanceGrp_writes x (w.d.toNat % 8) (f (getJ x.g (w.d.toNat % 8)) (BitVec.ofNat 16 (readUN s x w.a)))
  exact ⟨_, _, rfl, modGrp_step hi _, hrest, hmasks⟩

theorem execJmskRd_writes (ha : groupAct x ≠ 0) : ∃ t g, exec (.jmskRd w) s = .next t ∧ GroupStep s t x g
    ∧ SclWrites x g (toS (w.a.code.toNat % 64) (wordOf (getJ x.g (w.d.toNat % 8)).toNat)) := by
  have hexec : execJmskRd w s = _ := withCtx_next hi _
  rw [if_neg ha] at hexec
  exact ⟨_, _, hexec, modGrp_step hi _, putS_advanceGrp_writes x _ _⟩

/-! ## FENCE (R300) -/

omit hi in
/-- A FENCE in the state where it is performed. -/
def fenceRes (x : Ctx) (ag st : Nat) (s : State) : Res :=
  if fenceOpen s x.c.wg x.c.grp ag st s.nextId then .ok (modGrp s x.c.wg x.c.grp (parkGrp x.c (.fence ag st s.nextId))) else .ok (advance s x.c)

theorem execFence_next (ha : groupAct x ≠ 0) : exec (.fence w) s = .next
    (if 2 ≤ bitsOf w.k.toNat 7 5 then withCut s x (fenceRes x (bitsOf w.k.toNat 7 5) (bitsOf w.k.toNat 4 3))
      else closeRes s x (fenceRes x (bitsOf w.k.toNat 7 5) (bitsOf w.k.toNat 4 3) s)) := by
  have hexec : execFence w s = _ := withCtx_next hi _
  rw [if_neg ha] at hexec
  exact hexec

/-- A FENCE that no cut precedes: of the workgroup's own scope, or in a workgroup with no interval. -/
theorem execFence_plain (ha : groupAct x ≠ 0) (hplain : bitsOf w.k.toNat 7 5 < 2 ∨ x.w.chk = none) :
    exec (.fence w) s = .next (closeRes s x (fenceRes x (bitsOf w.k.toNat 7 5) (bitsOf w.k.toNat 4 3) s)) := by
  rw [execFence_next hi ha]
  split
  · rw [withCut_of_plain _ (hplain.resolve_left (by omega))]
  · rfl

theorem execFence_plain_effect (ha : groupAct x ≠ 0) (hplain : bitsOf w.k.toNat 7 5 < 2 ∨ x.w.chk = none) :
    let ag := bitsOf w.k.toNat 7 5
    let st := bitsOf w.k.toNat 4 3
    (fenceOpen s x.c.wg x.c.grp ag st s.nextId = false → ∃ t g, exec (.fence w) s = .next t ∧ GroupStep s t x g ∧ OnlyMoves x g)
    ∧ (fenceOpen s x.c.wg x.c.grp ag st s.nextId = true → ∃ t g, exec (.fence w) s = .next t ∧ GroupStep s t x g ∧ Parks x (.fence ag st s.nextId) g) := by
  have hexec := execFence_plain hi ha hplain
  unfold fenceRes at hexec
  refine ⟨fun hopen => ?_, fun hopen => ?_⟩
  · rw [hopen] at hexec
    exact ⟨_, _, hexec, advance_step hi⟩
  · rw [hopen] at hexec
    exact ⟨_, _, hexec, (park_step hi _).1, parkGrp_parks x _⟩

/-- A FENCE beyond the workgroup, at a cut. -/
theorem execFence_cut (ha : groupAct x ≠ 0) (hag : 2 ≤ bitsOf w.k.toNat 7 5) {b : State} {y : Ctx} {fin : State → State} (hc : Cuts s x b y fin) :
    let ag := bitsOf w.k.toNat 7 5
    let st := bitsOf w.k.toNat 4 3
    (fenceOpen b x.c.wg x.c.grp ag st b.nextId = false → ∃ u g, exec (.fence w) s = .next (fin u) ∧ GroupStep b u y g ∧ OnlyMoves y g)
    ∧ (fenceOpen b x.c.wg x.c.grp ag st b.nextId = true → ∃ u g, exec (.fence w) s = .next (fin u) ∧ GroupStep b u y g ∧ Parks y (.fence ag st b.nextId) g) := by
  have hexec := execFence_next hi ha
  rw [if_pos hag] at hexec
  have hmove : ∀ k, parkGrp x.c k y.g = parkGrp y.c k y.g := fun k => by rw [hc.sameIssue]
  refine ⟨fun hopen => ?_, fun hopen => ?_⟩
  · rw [hc.withCut_ok hi.wg (u := advance b x.c) (by rw [fenceRes, hopen]; rfl)] at hexec
    exact ⟨_, advanceGrp x.c y.g, hexec, hc.modGrp_step _, by rw [OnlyMoves, hc.sameIssue]⟩
  · rw [hc.withCut_ok hi.wg (by rw [fenceRes, hopen]; rfl)] at hexec
    exact ⟨_, _, hexec, hc.modGrp_step _, hmove _ ▸ parkGrp_parks y _⟩

/-- With no counted lane in ACTIVE, the words only let their gang go on. -/
theorem syncWords_idle (ha : groupAct x = 0) :
    ∀ o ∈ [exec (.waitj w) s, exec (.jmskSet w) s, exec (.jmskOr w) s, exec (.jmskClr w) s, exec (.jmskRd w) s, exec (.fence w) s],
      ∃ t g, o = .next t ∧ GroupStep s t x g ∧ OnlyMoves x g := by
  have hmask : ∀ f, jmskWord s w f = .next (advance s x.c) := fun f => by rw [jmskWord, withCtx_next hi, if_pos ha]
  have hwait : execWaitj w s = _ := withCtx_next hi _
  have hread : execJmskRd w s = _ := withCtx_next hi _
  have hfence : execFence w s = _ := withCtx_next hi _
  rw [if_pos ha] at hwait hread hfence
  simp only [List.forall_mem_cons, List.not_mem_nil, false_implies, implies_true, and_true]
  exact ⟨⟨_, _, hwait, advance_step hi⟩, ⟨_, _, hmask fun _ a => a, advance_step hi⟩, ⟨_, _, hmask fun j a => j ||| a, advance_step hi⟩,
    ⟨_, _, hmask fun j a => j &&& ~~~a, advance_step hi⟩, ⟨_, _, hread, advance_step hi⟩, ⟨_, _, hfence, advance_step hi⟩⟩

end

section
variable {s : State} {x : Ctx} {w : FmtYX} (hi : Issues s w.g x)
include hi

theorem execWaitf_moves (h : groupAct x = 0 ∨ flagsClear x.g x.c.quads (BitVec.ofNat 12 w.imm.toNat) = true) :
    ∃ t g, exec (.waitf w) s = .next t ∧ GroupStep s t x g ∧ OnlyMoves x g := by
  have hexec : execWaitf w s = _ := withCtx_next hi _
  rw [if_pos (h.imp_right .inr)] at hexec
  exact ⟨_, _, hexec, advance_step hi⟩

theorem execWaitf_parks (ha : groupAct x ≠ 0) (hm : BitVec.ofNat 12 w.imm.toNat ≠ 0)
    (hf : flagsClear x.g x.c.quads (BitVec.ofNat 12 w.imm.toNat) = false) :
    ∃ t g, exec (.waitf w) s = .next t ∧ GroupStep s t x g ∧ Parks x (.waitf (BitVec.ofNat 12 w.imm.toNat)) g := by
  have hexec : execWaitf w s = _ := withCtx_next hi _
  rw [if_neg (by simp only [hf, Bool.false_eq_true, or_false]; exact not_or.2 ⟨ha, hm⟩)] at hexec
  exact ⟨_, _, hexec, (park_step hi _).1, parkGrp_parks x _⟩

end

/-- Settles O28: WAITF and WAITJ by their waits, JMSK by the mask that it writes or reads, FENCE with and without its cut. -/
theorem flagMaskAndFenceWords : Obligations.FlagMaskAndFenceWords := by
  unfold Obligations.FlagMaskAndFenceWords
  refine ⟨fun s x w hi => ⟨execWaitf_moves hi, execWaitf_parks hi⟩, fun s x w hi ha => ⟨?masks, execJmskRd_writes hi ha, ?fence⟩,
    fun s x w hi ha => syncWords_idle hi ha⟩
  case masks =>
    exact fun hr => ⟨execWaitj_moves hi ha hr, execWaitj_parks hi ha hr, jmskWord_writes hi ha hr fun _ a => a,
      jmskWord_writes hi ha hr fun j a => j ||| a, jmskWord_writes hi ha hr fun j a => j &&& ~~~a⟩
  case fence => exact ⟨execFence_plain_effect hi ha, fun hag b y fin hc => execFence_cut hi ha hag hc⟩

end Sys2Proof.Machine

/-! Traps (R314-R319): the words that raise one, what the frame holds of it, and a trap that ends the launch (O23). -/
namespace Sys2Proof.Machine

/-- A launch that has not failed fails with the status and the detail given (R319); memory stays. -/
theorem failLaunch_fails {s : State} {id : Nat} {l : Launch} (h : findLaunch s id = some l) (hok : l.fail = none) (status detail : Nat) :
    (failLaunch s id status detail).mem = s.mem ∧ ∃ l', findLaunch (failLaunch s id status detail) id = some l' ∧ l'.st = .failing
      ∧ l'.fail = some (status, dwordOf detail) := by
  simp only [failLaunch, h, hok, Option.isSome_none, Bool.false_eq_true, if_false]
  exact ⟨rfl, _, findLaunch_modLaunch_of_some _ (fun _ => rfl) h, rfl, rfl⟩

section
variable {s : State} {x : Ctx} {w : FmtY} (hi : Issues s w.g x) (ha : groupAct x ≠ 0)
include hi

/-- A trap that no side and no word delays, with no handler to enter, fails its launch (R319). -/
theorem raise_fails (hreplay : x.c.replay = false) (hwaits : trapWaits x.g = false) (hheld : heldLaneWords (enablesOf x.l) x.g = [])
    (hno : hasHandler x.l = false ∨ x.g.inHandler = true) (hok : x.l.fail = none) (tr : Trap) :
    (raise s x tr).mem = s.mem ∧ ∃ l, findLaunch (raise s x tr) x.w.launch = some l ∧ l.st = .failing
      ∧ l.fail = some (stTrapped, dwordOf (tr.kind.code + 256 * tr.sub + (if x.g.inHandler then 2 ^ 16 else 0) + 2 ^ 32 * tr.pc.toNat)) := by
  have hfails : (!hasHandler x.l || x.g.inHandler) = true := by simpa using hno
  simp only [raise, hreplay, hwaits, takeTrap, takeTrapOf, hi.wg, hi.grp, hi.launch, trapsFirst_none _ hheld, hheld, List.foldl_nil, hfails,
    Bool.false_eq_true, if_false, if_true]
  exact failLaunch_fails (s := modGrp s _ _ _) hi.launch hok _ _

include ha

theorem execBkpt_traps (hr : TrapReady x) :
    Traps s x (exec (.bkpt w) s) { Trap.at x.c .breakpoint 0 x.act with info := w.k.toNat, resume := x.c.next } := by
  have hexec : execBkpt w s = _ := withCtx_next hi _
  rw [if_neg (by simpa [hr.handler] using ha)] at hexec
  obtain ⟨g, hstep, hin⟩ := raise_enters hi hr _
  exact ⟨_, g, hexec, hstep, hin⟩

theorem execTrap_traps (hr : TrapReady x) :
    Traps s x (exec (.trap w) s) { Trap.at x.c .software 0 x.act with info := w.k.toNat, resume := x.c.next } := by
  have hexec : execTrap w s = _ := sysWord_next hi ha _
  obtain ⟨g, hstep, hin⟩ := raise_enters hi hr _
  exact ⟨_, g, hexec, hstep, hin⟩

omit ha in
/-- BKPT of a launch without a handler does nothing. -/
theorem execBkpt_moves (hno : hasHandler x.l = false) : ∃ t g, exec (.bkpt w) s = .next t ∧ GroupStep s t x g ∧ OnlyMoves x g := by
  have hexec : execBkpt w s = _ := withCtx_next hi _
  rw [if_pos (by simp [hno])] at hexec
  exact ⟨_, _, hexec, advance_step hi⟩

end

/-- The registers of a frame that are the same for every kind of trap (R316). -/
theorem getTrap_trapFrame_head (g : Group) (tr : Trap) {n : Nat} {v : Word}
    (h : (n, v) ∈ [(0x100, wordOf (tr.kind.code + 256 * tr.sub)), (0x101, tr.pc), (0x102, tr.resume), (0x103, wordOf tr.mask.toNat),
      (0x104, wordOf tr.addr), (0x105, wordOf (tr.addr / 2 ^ 32)), (0x106, wordOf tr.info), (0x107, wordOf tr.wtype)]) :
    getTrap { g with trap := trapFrame tr } n = v :=
  getTrap_trapFrame g (by simp only [frameRegs, List.mem_append]; exact .inl (.inl (.inl (.inl h))))

/-- Settles O23: BKPT and TRAP enter the handler, the frame reads back, and a trap with no handler to enter fails the launch. -/
theorem trapsEnterTheHandler : Obligations.TrapsEnterTheHandler := by
  unfold Obligations.TrapsEnterTheHandler
  refine ⟨fun s x w hi ha => ⟨fun hr => ⟨execBkpt_traps hi ha hr, execTrap_traps hi ha hr⟩, execBkpt_moves hi⟩, fun g tr => ?frame,
    fun s x w hi ha hreplay hwaits hheld hno hok => ?fails⟩
  case frame =>
    refine ⟨?_, ?_, ?_, ?_, ?_, ?_, ?_, ?_⟩ <;> exact getTrap_trapFrame_head g tr (by simp)
  case fails =>
    have hexec : execTrap w s = _ := sysWord_next hi ha _
    obtain ⟨hmem, l, hl, hst, hfail⟩ := raise_fails hi hreplay hwaits hheld hno hok { Trap.at x.c .software 0 x.act with info := w.k.toNat, resume := x.c.next }
    exact ⟨_, l, hexec, hmem, hl, hst, hfail⟩

end Sys2Proof.Machine

/-! Returns from a handler (R343): a PAGE_FAULT of a header's own fetch, whose page has come since (O24). -/
namespace Sys2Proof.Machine

/-- The die's TLB maps the launch's code, where a header of one word stands. -/
def lateDie : Die :=
  { tlb := [{ part := 0, kind := .pages, va := 0, leaves := [{ idx := 0, frame := 0x50000, wr := true, span := false, peer := none }] }] }
def lateLaunch : Launch := { heldLaunch with handler := 64 }
/-- A group in the handler of the PAGE_FAULT that the header's fetch took. -/
def lateGroup : Group :=
  { heldSole.groups.headD (soleGroup heldClause default) with
    inHandler := true, ctx := (heldSole.groups.headD (soleGroup heldClause default)).quads, ctxQuads := 0xF, ctxHeader := true, trap := [(0x100, 12)] }
def lateWg : Workgroup := { heldSole with groups := [lateGroup] }
def lateState : State :=
  { State.reset with
    launches := [lateLaunch], wgs := [lateWg], cur := some heldIssue, nextId := 10, boot := .ready, dies := modifyAt State.reset.dies 0 fun _ => lateDie,
    mem := smPutList [] 0x50000 [0, 0, 0, 0x10] 0 }
def lateCtx : Ctx := { c := heldIssue, w := lateWg, g := lateGroup, l := lateLaunch, act := activeOf heldIssue lateGroup 7 }

/-- RFT. -/
def lateRft : FmtY := { g := 7, d := 0, a := Fld.mk 0xFF 0, k := 0 }

theorem lateIssues : Issues lateState 7 lateCtx := ⟨rfl, rfl, rfl, rfl, rfl⟩

/-- The header can be read now, and its clause is one word long. -/
theorem codeWord_lateHeader : (codeWord lateState lateCtx.w lateCtx.l 0).1 = some 0x10000000 := by decide +kernel

/-- The gang of the trap at `goal`, every quad as the trap found it. -/
def lateReturn (goal : Word) : Group :=
  { lateGroup with
    inHandler := false, quads := lateGroup.ctx.map fun q => { q with pc := goal, st := .running, park := .none, clause := clauseAt goal q } }

/-- The model goes to the word behind the header. -/
theorem exec_lateRft {t : State} (h : exec (.rftSkip lateRft) lateState = .next t) : findGrp t 2 0 = some (settle (lateReturn 4)) := by
  have hgrp : (match exec (.rftSkip lateRft) lateState with | .next t => decide (findGrp t 2 0 = some (settle (lateReturn 4))) | _ => false) = true := by
    decide +kernel
  simpa [h] using hgrp

/-- A return of the trap's gang leaves one group. -/
theorem returned_late {d : Group} (h : Returned lateCtx 0xF 8 d) : d = lateReturn 8 := by
  obtain ⟨hrest, hlen, hquads⟩ := h
  have hall : d.quads = (lateReturn 8).quads := by
    refine List.ext_getElem (hlen.trans (by decide)) fun q hq hq' => ?_
    have h4 : q < 4 := by rwa [show (lateReturn 8).quads.length = 4 by decide] at hq'
    have hget : d.quads[q] = quadAt d q := by rw [quadAt, List.getD_eq_getElem _ _ hq]
    have hon := (hquads q (hlen ▸ hq)).2.1
    rw [hget]
    interval_cases q <;> exact (hon (by decide) (by decide)).trans rfl
  rw [hrest, hall]
  rfl

/-- Refutes O24: the header's fetch took the PAGE_FAULT, and its page has come since, so that its length can be read; the model goes to
the word behind the header, not past the header's clause. -/
theorem not_returnsFromTheHandler : ¬ Obligations.ReturnsFromTheHandler := by
  unfold Obligations.ReturnsFromTheHandler
  intro h
  have hskip := ((h lateState lateCtx lateRft lateIssues (by decide)).1 rfl (by decide)).1 (by decide)
  obtain ⟨-, -, -, hheader⟩ := hskip
  obtain ⟨t, d, hnext, hstep, hret⟩ := (hheader rfl (by decide)).1 _ _ (Prod.ext codeWord_lateHeader rfl)
  have hgrp : findGrp t 2 0 = some (settle d) := by
    rw [findGrp, show findWg t 2 = _ from hstep.here]
    rfl
  rw [exec_lateRft hnext, returned_late hret] at hgrp
  exact absurd hgrp (by decide +kernel)

end Sys2Proof.Machine

/-! Copies (R248-R262) in a CHECKED group in its handler: what its cut passes over still holds a copy word where it is (O34). -/
namespace Sys2Proof.Machine

/-- CPYS of the 16 bytes at canvas byte 0 of the group's own window to byte 64 of the same. -/
def heldCpys : FmtC := { g := 7, d := 0, vw := 0, q := 0, qen := false, fs := false, md := 0, a := Fld.mk 0xFF 0, b := Fld.mk 0xFF 16, c := Fld.mk 0xFF 64, e := Fld.mk 0xFF 0 }

theorem heldCpys_free : CopyFree heldState heldCtx heldCpys [srcOf 0 heldCpys.a 1, srcOf 1 heldCpys.b 1, srcOf 2 heldCpys.c 2] 0 where
  one := by decide +kernel
  idle := fun h => absurd h (by simp [heldCtx, heldWg])
  waits := by decide +kernel
  elected := by decide +kernel
  flag := by decide +kernel
  clean := ⟨by decide +kernel, fun _ => by decide +kernel⟩

/-- The refused wait holds the word in the model: nothing happens. -/
theorem exec_heldCpys : exec (.cpys heldCpys) heldState = .next heldState := by
  have hstays : (match exec (.cpys heldCpys) heldState with | .next t => decide (t = heldState) | _ => false) = true := by decide +kernel
  cases hexec : exec (.cpys heldCpys) heldState <;> simp_all

/-- Refutes O34: a CHECKED group in its handler holds a record wait with a refused piece; its cut falls past it, yet CPYS stays where it is
and no copy stands. -/
theorem not_copiesStand : ¬ Obligations.CopiesStand := by
  unfold Obligations.CopiesStand
  intro h
  have hcpys := (h.1 heldState heldCtx heldCpys 0 heldIssues _ _ _ heldCut_falls).2 heldCpys_free
  obtain ⟨u, k, hu, -⟩ := hcpys heldCutWg 0 heldCutWg (by decide +kernel) (by decide +kernel) (by decide +kernel) (by decide +kernel) (by decide +kernel)
    (by decide +kernel) (by decide +kernel) (by decide +kernel) (by decide +kernel) (by decide +kernel) (by decide +kernel)
  rw [exec_heldCpys] at hu
  exact heldState_ne_openInterval u (Host.Outcome.next.inj hu)

end Sys2Proof.Machine

/-! LAUNCH at a cut (R106, R299) beside two refused stores of one number: the obligation asks of no state that the numbers of a group's
operations differ (O29). -/
namespace Sys2Proof.Machine

/-- A store of one byte at an address whose page was refused. -/
def refusedStore (va : Nat) : Op := { (default : Op) with kind := .store, accs := [{ (default : Acc) with st := .refused, va := va, len := 1 }] }

/-- A CHECKED group in its handler that holds two of them. -/
def pairGroup : Group := { heldGroup with ops := [refusedStore 0x1000, refusedStore 0x2000] }
def pairWg : Workgroup := { heldWg with groups := [pairGroup], chk := some (freshInterval 0 0 [pairGroup]) }
def pairState : State := { heldState with wgs := [pairWg] }
def pairCtx : Ctx := { c := heldIssue, w := pairWg, g := pairGroup, l := heldLaunch, act := activeOf heldIssue pairGroup 7 }

theorem pairIssues : Issues pairState 7 pairCtx := ⟨rfl, rfl, rfl, rfl, rfl⟩

/-- Where the cut has fallen. -/
def pairCut : State := commitBuf pairState 2
def pairCutWg : Workgroup := (findWg pairCut 2).getD pairWg
def pairCutCtx : Ctx := { pairCtx with w := pairCutWg, g := pairCutWg.groups.headD pairGroup }

theorem pairCut_falls : Cuts pairState pairCtx pairCut pairCutCtx (openInterval · 2) where
  plain := fun h => absurd h (by simp [pairCtx, pairWg])
  cut := fun _ => ⟨by decide +kernel, rfl, rfl⟩
  same := rfl
  wg := by decide +kernel
  grp := by decide +kernel

/-- LAUNCH of the header at address 0. -/
def pairLaunch : FmtY := { g := 7, d := 0, a := Fld.mk 0xFF 0, k := 0 }

/-- The addresses of the pieces of a group's operations. -/
def pieceAddrs (g : Group) : List Nat := g.ops.flatMap fun o => o.accs.map Acc.va

/-- The model writes the first store's pieces over those of its namesake. -/
theorem exec_pairLaunch {t : State} (h : exec (.launch pairLaunch) pairState = .next t) : (findGrp t 2 0).map pieceAddrs = some [0x1000, 0x1000] := by
  have haddrs : (match exec (.launch pairLaunch) pairState with | .next t => decide ((findGrp t 2 0).map pieceAddrs = some [0x1000, 0x1000]) | _ => false) = true := by
    decide +kernel
  simpa [h] using haddrs

theorem findWg_openInterval (s : State) (wg : Nat) :
    findWg (openInterval s wg) wg = (findWg s wg).map fun w => { w with chk := some (freshInterval (now s) s.nextId w.groups) } :=
  findWg_modWg_same s wg _ fun _ => rfl

theorem findGrp_openInterval (s : State) (wg grp : Nat) : findGrp (openInterval s wg) wg grp = findGrp s wg grp := by
  rw [findGrp, findWg_openInterval, findGrp]
  cases findWg s wg <;> rfl

/-- Refutes O29: two refused stores of a CHECKED group in its handler bear one number; LAUNCH at the cut leaves the group with other
operations than it found. -/
theorem not_intervalCuts : ¬ Obligations.IntervalCuts := by
  unfold Obligations.IntervalCuts
  intro h
  have hreads : Reads pairCtx [srcOf 0 pairLaunch.a 2] pairCtx.act := ⟨by decide +kernel, fun _ => by decide +kernel⟩
  obtain ⟨u, g, hnext, -, -, hgrp, ⟨hops, -⟩, -⟩ := h.2.2.1 pairState pairCtx pairLaunch pairCut pairCutCtx _ pairIssues (by decide +kernel)
    (fun h => absurd h (by simp [pairCtx, pairWg])) pairCut_falls hreads
  have haddrs := exec_pairLaunch hnext
  rw [findGrp_openInterval, show findGrp u 2 0 = some g from hgrp] at haddrs
  have hkept : pieceAddrs g = pieceAddrs pairCutCtx.g := by
    rw [hops]
    rfl
  exact absurd (hkept.symm.trans (Option.some.inj haddrs)) (by decide +kernel)

end Sys2Proof.Machine

/-! The commit of an evacuation (R353) where one workgroup is listed twice: the obligation asks of no state that it is not (O48). -/
namespace Sys2Proof.Machine

def doneEvac : Evac := { lcore := 0, src := 0, dst := 8, phase := .transferred }

/-- The evacuation of core 0 has transferred its state; its one workgroup stands twice in the list. -/
def listedTwice : State := { State.reset with launches := [heldLaunch], wgs := [heldSole, heldSole], evacs := [doneEvac], arg := EvArg.none, boot := .ready }

/-- The model counts RELOC on for each of the two. -/
theorem exec_commit_listedTwice {t : State} (h : exec .commit listedTwice = .next t) :
    (findWg t 2).map Workgroup.reloc = some (nextReloc (nextReloc heldSole.reloc)) := by
  have hreloc : (match exec .commit listedTwice with
      | .next t => decide ((findWg t 2).map Workgroup.reloc = some (nextReloc (nextReloc heldSole.reloc)))
      | _ => false) = true := by decide +kernel
  simpa [h] using hreloc

/-- Refutes O48: the commit moves a workgroup once for each place where it is listed. -/
theorem not_coresAreEvacuated : ¬ Obligations.CoresAreEvacuated := by
  unfold Obligations.CoresAreEvacuated
  intro h
  obtain ⟨-, -, -, -, -, hcommit, -⟩ := h listedTwice
  have hone : ∀ v ∈ listedTwice.wgs, v = heldSole := by simp [listedTwice]
  obtain ⟨t, hnext, -, -, -, -, hmoved, -⟩ := hcommit doneEvac Remap.zero (by decide +kernel) (by decide +kernel)
    (fun v hv k hk _ => (hone v hv).trans (hone k hk).symm) (by decide +kernel)
  obtain ⟨v, hv, -, -, hreloc, -⟩ := hmoved heldSole (by decide +kernel)
  have hcount := exec_commit_listedTwice hnext
  rw [show findWg t 2 = some v from hv, Option.map_some, hreloc] at hcount
  exact absurd hcount (by decide)

end Sys2Proof.Machine

/-! Acceptance of a call (R277) behind 32 queued calls of its own number: the obligation asks of no state that calls' numbers differ (O43). -/
namespace Sys2Proof.Machine

/-- The record of 4,096 bytes at 0x30000 that the call block stands in, whose page is mapped. -/
def xredRec : BitVec 128 := BitVec.ofNat 128 (0x30000 + 2 * 2 ^ 57 + 1024 * 2 ^ 64)
def xredTlb : TlbEntry :=
  { part := 0, kind := .pages, va := 0, leaves := [{ idx := 3, frame := 0x50000, wr := true, span := false, peer := none }] }

/-- A call block of two words with no PAGE, no AUX and no DST, and its program: XRED and REND. -/
def xredBlock : List Byte := natToBytes 4 0 ++ natToBytes 2 2 ++ natToBytes 58 0
def xredProg : List Byte := natToBytes 4 0x78000000 ++ natToBytes 4 0x68000000

/-- Call 3 is being accepted. -/
def xredCall : Call := { soleCall 3 1 2 0 with st := .accepting, brec := xredRec, stack := 12, prog := [], rods := [], wpage := false }

/-- Behind it stand 32 queued calls of its number and of its frame. -/
def namesakes : List Call := List.replicate 32 { xredCall with st := .queued }
def namesakeState : State :=
  { State.reset with
    calls := xredCall :: namesakes, boot := .ready, dies := modifyAt State.reset.dies 0 fun _ => { tlb := [xredTlb] }, arg := { EvArg.none with a := 3 },
    mem := smPutList [] 0x50000 (xredBlock ++ xredProg) 0 }

/-- The call as its block gives it. -/
def xredFields : Call := blockFields xredCall xredBlock

/-- A read gives these bytes and leaves the state as it is. -/
def ReadsTo (r : CallRead × State) (b : List Byte) : Bool := match r with | (.bytes a none, t) => decide (a = b ∧ t = namesakeState) | _ => false

theorem eq_of_readsTo {r : CallRead × State} {b : List Byte} (h : ReadsTo r b = true) : r = (.bytes b none, namesakeState) := by
  unfold ReadsTo at h
  split at h
  · obtain ⟨rfl, rfl⟩ := of_decide_eq_true h
    rfl
  · cases h

theorem readBlock_xredBlock :
    readBlock xredCall (performPrev namesakeState false xredCall.wg xredCall.grp xredCall.after) 0 64 = (.bytes xredBlock none, namesakeState) :=
  eq_of_readsTo (by decide +kernel)

theorem readBlock_xredProg : readBlock xredFields namesakeState 64 (4 * xredFields.nw) = (.bytes xredProg none, namesakeState) :=
  eq_of_readsTo (by decide +kernel)

/-- The model moves every call of the number at once, finds none left in the queue, and queues the call. -/
theorem exec_accept_namesakes {t : State} (h : exec .mcallCallAccept namesakeState = .next t) : (findCall t 3).map Call.st = some .queued := by
  have hst : (match exec .mcallCallAccept namesakeState with | .next t => decide ((findCall t 3).map Call.st = some .queued) | _ => false) = true := by
    decide +kernel
  simpa [h] using hst

/-- Refutes O43: with 32 queued calls of its own number the call's queue is full, yet the call is queued. -/
theorem not_callEvents : ¬ Obligations.CallEvents := by
  unfold Obligations.CallEvents
  intro h
  obtain ⟨haccept, -⟩ := h namesakeState xredCall rfl
  obtain ⟨-, -, hfits⟩ := haccept rfl rfl (by decide +kernel) xredBlock namesakeState readBlock_xredBlock
  obtain ⟨-, hnopage⟩ := hfits (by decide +kernel) (by decide +kernel) (by decide +kernel) (by decide +kernel) (.inr (by decide +kernel))
    (by decide +kernel) xredProg namesakeState readBlock_xredProg
  obtain ⟨hjoins, -⟩ := hnopage (by decide +kernel) [] namesakeState rfl
  obtain ⟨-, hqueued⟩ := hjoins (by decide +kernel)
  obtain ⟨t, hnext, -, hfound, -⟩ := hqueued (by decide +kernel) rfl
  have hst := exec_accept_namesakes hnext
  rw [show findCall t 3 = _ from hfound] at hst
  exact absurd hst (by decide +kernel)

end Sys2Proof.Machine

/-! Peers (R369-R371): links come up and fail, peers become LOST, and PEER_UP clears LOST (O52). -/
namespace Sys2Proof.Machine

/-! ## Accesses to a lost peer complete (R370) -/

/-- From `s` to `t` only workgroups, launches and the count of free values change. -/
def OnlyWork (s t : State) : Prop := t = { s with wgs := t.wgs, launches := t.launches, freeCtr := t.freeCtr }

theorem OnlyWork.refl (s : State) : OnlyWork s s := rfl

theorem OnlyWork.trans {s t u : State} (h : OnlyWork s t) (k : OnlyWork t u) : OnlyWork s u := by
  unfold OnlyWork at *
  rw [k, h]

/-- A fold of steps that each stand in such a relation to the state before stands in it. -/
theorem OnlyWork.foldl {α : Type} {f : State → α → State} (hf : ∀ s e, OnlyWork s (f s e)) (l : List α) (s : State) : OnlyWork s (l.foldl f s) :=
  List.foldlRecOn l f (OnlyWork.refl s) fun _ h e _ => h.trans (hf _ e)

theorem onlyWork_modGrp (s : State) (wg grp : Nat) (f : Group → Group) : OnlyWork s (modGrp s wg grp f) := rfl

theorem onlyWork_writeDst (wg grp : Nat) (o : Op) (s : State) (e : Nat × Nat) : OnlyWork s (writeDst s wg grp o e.1 e.2) := by
  unfold writeDst
  dsimp only
  by_cases h : anyBad (slotBytes o e.1 e.2) = true
  · rw [if_pos h]
    rfl
  · rw [if_neg h]
    rfl

theorem onlyWork_deliverWhere (f : Acc → Bool) (s : State) (wg grp id : Nat) : OnlyWork s (deliverWhere f s wg grp id) := by
  unfold deliverWhere
  split
  · exact .refl s
  · exact (((OnlyWork.foldl (onlyWork_writeDst wg grp _) _ s).trans (onlyWork_modGrp _ _ _ _)).trans (onlyWork_modGrp _ _ _ _)).trans
      (onlyWork_modGrp _ _ _ _)

theorem onlyWork_loseOp (part launch wg grp : Nat) (s : State) (o : Op) : OnlyWork s (loseOp part launch wg grp s o) := by
  unfold loseOp
  split
  · exact .refl s
  split
  · exact (onlyWork_modGrp s wg grp _).trans (onlyWork_deliverWhere _ _ _ _ _)
  · refine ((OnlyWork.foldl (fun u a => ?_) o.accs s).trans (onlyWork_modGrp _ _ _ _)).trans (onlyWork_modGrp _ _ _ _)
    split
    · split
      · rfl
      · exact .refl u
    · exact .refl u

theorem onlyWork_sweepPeers (s : State) : OnlyWork s (sweepPeers s) := by
  unfold sweepPeers
  split
  · exact .refl s
  refine OnlyWork.foldl (fun u w => ?_) s.wgs s
  split
  · exact .refl u
  refine OnlyWork.foldl (fun v i => ?_) _ u
  split
  · exact .refl v
  · exact OnlyWork.foldl (onlyWork_loseOp _ _ _ _) _ v

/-! ## A partition's lost peers -/

/-- From `s` to `t` peers may have become LOST; links, memory and what each partition binds are as before. -/
structure Loses (s t : State) : Prop where
  mem : t.mem = s.mem
  links : t.links = s.links
  parts : ∀ p y, findPart s p = some y → ∃ z, findPart t p = some z ∧ z.peers = y.peers ∧ ∀ k, y.lost.getLsbD k = true → z.lost.getLsbD k = true

theorem Loses.refl (s : State) : Loses s s := ⟨rfl, rfl, fun _ y h => ⟨y, h, rfl, fun _ => id⟩⟩

theorem Loses.trans {s t u : State} (h : Loses s t) (k : Loses t u) : Loses s u where
  mem := k.mem.trans h.mem
  links := k.links.trans h.links
  parts := fun p y hy => by
    obtain ⟨z, hz, hpeers, hlost⟩ := h.parts p y hy
    obtain ⟨z', hz', hpeers', hlost'⟩ := k.parts p z hz
    exact ⟨z', hz', hpeers'.trans hpeers, fun k hk => hlost' k (hlost k hk)⟩

theorem Loses.of_onlyWork {s t : State} (h : OnlyWork s t) : Loses s t := by
  rw [h]
  exact ⟨rfl, rfl, fun _ y hy => ⟨y, hy, rfl, fun _ => id⟩⟩

theorem assoc?_map_other {α : Type} (l : List (Nat × α)) {k j : Nat} (f : α → α) (h : j ≠ k) :
    assoc? (l.map fun e => if e.1 = k then (e.1, f e.2) else e) j = assoc? l j := by
  induction l with
  | nil => rfl
  | cons e r ih =>
    obtain ⟨a, v⟩ := e
    by_cases hk : a = k
    · subst hk
      simpa [assoc?, Ne.symm h] using ih
    · by_cases hj : a = j
      · simp [assoc?, hj, h]
      · simpa [assoc?, hk, hj] using ih

theorem findPart_modPart_other (s : State) {p q : Nat} (f : Partition → Partition) (h : q ≠ p) : findPart (modPart s p f) q = findPart s q :=
  assoc?_map_other s.parts f h

/-- Peer `k` among a partition's lost. -/
def withLost (k : Nat) (p : Partition) : Partition := { p with lost := p.lost ||| BitVec.ofNat 8 (2 ^ k) }

/-- Peer `k` no longer among them. -/
def withoutLost (k : Nat) (p : Partition) : Partition := { p with lost := p.lost &&& ~~~(BitVec.ofNat 8 (2 ^ k)) }

theorem getLsbD_ofNat_pow (n k i : Nat) : (BitVec.ofNat n (2 ^ k)).getLsbD i = (decide (i < n) && decide (i = k)) := by
  rw [BitVec.getLsbD_ofNat, Nat.testBit_two_pow]
  simp [eq_comm]

theorem losePeer_loses (s : State) (p k : Nat) : Loses s (losePeer s p k) where
  mem := rfl
  links := rfl
  parts := fun q y hy => by
    by_cases hq : q = p
    · subst hq
      refine ⟨withLost k y, ?_, rfl, fun i hi => by simp [withLost, hi]⟩
      exact (findPart_modPart_same s q (withLost k)).trans (congrArg _ hy)
    · exact ⟨y, (findPart_modPart_other s (withLost k) hq).trans hy, rfl, fun _ => id⟩

theorem losePeer_marks {s : State} {p k : Nat} {y : Partition} (hy : findPart s p = some y) (hk : k < 8) :
    ∃ z, findPart (losePeer s p k) p = some z ∧ z.lost.getLsbD k = true :=
  ⟨withLost k y, (findPart_modPart_same s p (withLost k)).trans (congrArg _ hy), by
    rw [withLost, BitVec.getLsbD_or, getLsbD_ofNat_pow]
    simp [hk]⟩

/-! ## Links fail (R370) -/

/-- Peer `e.2` of partition `e.1` is lost where no link of it is left. -/
def loseIfDown (s : State) (e : Nat × Nat) : State :=
  match (findPart s e.1).bind (fun p => (p.peers[e.2]?).map (fun b => (p.lost.getLsbD e.2, b))) with
  | some (lost, b) => if b.valid && !lost && linksDown s b then losePeer s e.1 e.2 else s
  | none => s

theorem loseIfDown_loses (s : State) (e : Nat × Nat) : Loses s (loseIfDown s e) := by
  unfold loseIfDown
  split
  · split
    · exact losePeer_loses s _ _
    · exact .refl s
  · exact .refl s

theorem loseIfDown_marks {s : State} {p k : Nat} {y : Partition} {b : PeerBind} (hy : findPart s p = some y) (hk : k < 8) (hb : y.peers[k]? = some b)
    (hvalid : b.valid = true) (hdown : linksDown s b = true) : ∃ z, findPart (loseIfDown s (p, k)) p = some z ∧ z.lost.getLsbD k = true := by
  by_cases hlost : y.lost.getLsbD k = true
  · obtain ⟨z, hz, -, hkeeps⟩ := (loseIfDown_loses s (p, k)).parts p y hy
    exact ⟨z, hz, hkeeps k hlost⟩
  · have hstep : loseIfDown s (p, k) = losePeer s p k := by simp [loseIfDown, hy, hb, hvalid, hlost, hdown]
    exact hstep ▸ losePeer_marks hy hk

theorem foldl_loseIfDown_loses (l : List (Nat × Nat)) (s : State) : Loses s (l.foldl loseIfDown s) :=
  List.foldlRecOn l loseIfDown (Loses.refl s) fun _ h e _ => h.trans (loseIfDown_loses _ e)

theorem linksDown_congr {s t : State} (h : t.links = s.links) (b : PeerBind) : linksDown t b = linksDown s b := by
  rw [linksDown, linksDown, h]

theorem foldl_loseIfDown_marks {l : List (Nat × Nat)} {s : State} {p k : Nat} {y : Partition} {b : PeerBind} (hmem : (p, k) ∈ l)
    (hy : findPart s p = some y) (hk : k < 8) (hb : y.peers[k]? = some b) (hvalid : b.valid = true) (hdown : linksDown s b = true) :
    ∃ z, findPart (l.foldl loseIfDown s) p = some z ∧ z.lost.getLsbD k = true := by
  obtain ⟨l1, l2, rfl⟩ := List.append_of_mem hmem
  rw [List.foldl_append, List.foldl_cons]
  have hbefore := foldl_loseIfDown_loses l1 s
  obtain ⟨y1, hy1, hpeers, -⟩ := hbefore.parts p y hy
  obtain ⟨z, hz, hlost⟩ := loseIfDown_marks hy1 hk (hpeers ▸ hb) hvalid ((linksDown_congr hbefore.links b).trans hdown)
  obtain ⟨z', hz', -, hkeeps⟩ := (foldl_loseIfDown_loses l2 _).parts p z hz
  exact ⟨z', hz', hkeeps k hlost⟩

/-- The state once the links `m` are down, before any peer is lost for it. -/
def cutLinks (s : State) (m : BitVec 8) : State :=
  { s with links := (List.range s.links.length).map fun i =>
      let x := s.links.getD i { up := false, inc := 0 }
      if m.getLsbD i then { x with up := false } else x }

theorem failLinks_eq (s : State) (m : BitVec 8) :
    failLinks s m = sweepPeers ((s.parts.flatMap fun e => (List.range 8).map fun k => (e.1, k)).foldl loseIfDown (cutLinks s m)) := rfl

theorem links_cutLinks {s : State} {i : Nat} {x : Link} (m : BitVec 8) (h : s.links[i]? = some x) :
    (cutLinks s m).links[i]? = some (if m.getLsbD i then { x with up := false } else x) := by
  have hi : i < s.links.length := (List.getElem?_eq_some_iff.1 h).1
  simp [cutLinks, List.getD_eq_getElem?_getD, h, List.getElem?_range hi]

theorem mem_of_assoc? {α : Type} {l : List (Nat × α)} {k : Nat} {v : α} (h : assoc? l k = some v) : (k, v) ∈ l := by
  induction l with
  | nil => cases h
  | cons e r ih =>
    obtain ⟨a, w⟩ := e
    by_cases ha : a = k
    · simp_all [assoc?]
    · exact List.mem_cons_of_mem _ (ih (by simpa [assoc?, ha] using h))

theorem failLinks_loses (s : State) (m : BitVec 8) : Loses (cutLinks s m) (failLinks s m) :=
  (foldl_loseIfDown_loses _ _).trans (.of_onlyWork (onlyWork_sweepPeers _))

/-- A peer all of whose trained links are among those that fail is LOST. -/
theorem failLinks_marks {s : State} {m : BitVec 8} {p k : Nat} {y : Partition} {b : PeerBind} (hy : findPart s p = some y) (hk : k < 8)
    (hb : y.peers[k]? = some b) (hvalid : b.valid = true)
    (hgone : ∀ i x, i < 8 → b.links.getLsbD i = true → s.links[i]? = some x → x.up = true → m.getLsbD i = true) :
    ∃ z, findPart (failLinks s m) p = some z ∧ z.lost.getLsbD k = true := by
  have hdown : linksDown (cutLinks s m) b = true := by
    simp only [linksDown, Bool.not_eq_true', List.any_eq_false, List.mem_range, Bool.and_eq_true, not_and, Bool.not_eq_true]
    intro i hi hbit
    cases hx : s.links[i]? with
    | none =>
      have hnone : (cutLinks s m).links[i]? = none := by simpa [cutLinks] using hx
      rw [hnone]
    | some x =>
      rw [links_cutLinks m hx]
      by_cases hm : m.getLsbD i = true
      · rw [if_pos hm]
      · rw [if_neg hm]
        exact Bool.eq_false_iff.2 fun hup => hm (hgone i x hi hbit hx hup)
  have hpair : (p, k) ∈ s.parts.flatMap fun e => (List.range 8).map fun k => (e.1, k) :=
    List.mem_flatMap.2 ⟨(p, y), mem_of_assoc? hy, List.mem_map.2 ⟨k, List.mem_range.2 hk, rfl⟩⟩
  obtain ⟨z, hz, hlost⟩ := foldl_loseIfDown_marks (s := cutLinks s m) hpair hy hk hb hvalid hdown
  obtain ⟨z', hz', -, hkeeps⟩ := (Loses.of_onlyWork (onlyWork_sweepPeers _)).parts p z hz
  exact ⟨z', hz', hkeeps k hlost⟩

theorem links_failLinks {s : State} {i : Nat} {x : Link} (m : BitVec 8) (h : s.links[i]? = some x) :
    (m.getLsbD i = true → (failLinks s m).links[i]? = some { x with up := false }) ∧ (¬m.getLsbD i = true → (failLinks s m).links[i]? = some x) := by
  rw [(failLinks_loses s m).links, links_cutLinks m h]
  exact ⟨fun hm => by rw [if_pos hm], fun hm => by rw [if_neg hm]⟩

/-! ## Events -/

theorem execPeerLinkUp_trains {s : State} {x : Link} (hboot : s.boot ≠ .off) (hx : s.links[s.arg.a]? = some x) (hup : x.up = false) :
    ∃ t, exec .peerLinkUp s = .next t ∧ t = { s with links := t.links } ∧ t.links[s.arg.a]? = some { up := true, inc := s.arg.b % 2 ^ 32 }
      ∧ ∀ i, i ≠ s.arg.a → t.links[i]? = s.links[i]? := by
  have hexec : execPeerLinkUp s = .next { s with links := modifyAt s.links s.arg.a fun (x : Link) => if x.up then x else { up := true, inc := s.arg.b % 2 ^ 32 } } := by
    rw [execPeerLinkUp, if_neg (by simpa using hboot)]
  refine ⟨_, hexec, rfl, ?_, fun i hi => getElem?_modifyAt_other s.links _ hi⟩
  rw [getElem?_modifyAt_same, hx]
  simp [hup]

/-- Some trained link of the peer shows the incarnation that the request names. -/
def shown (s : State) (b : PeerBind) : Bool :=
  (List.range 8).any fun i => b.links.getLsbD i && match s.links[i]? with | some x => x.up && x.inc == req s 0xC 4 | none => false

theorem shown_iff (s : State) (b : PeerBind) :
    shown s b = true ↔ ∃ i x, i < 8 ∧ b.links.getLsbD i = true ∧ s.links[i]? = some x ∧ x.up = true ∧ x.inc = req s 0xC 4 := by
  simp only [shown, List.any_eq_true, List.mem_range, Bool.and_eq_true]
  refine ⟨fun ⟨i, hi, hbit, hx⟩ => ?_, fun ⟨i, x, hi, hbit, hx, hup, hinc⟩ => ⟨i, hi, hbit, by simp [hx, hup, hinc]⟩⟩
  cases h : s.links[i]? with
  | none => simp [h] at hx
  | some x =>
    simp only [h, Bool.and_eq_true, beq_iff_eq] at hx
    exact ⟨i, x, hi, hbit, h, hx.1, hx.2⟩

section
variable {s : State} (hup : linkUp s = true) (hlen : s.arg.msg.bytes.length = 32) (hty : req s 0 1 = 0x71)
include hup hlen hty

theorem execPeerUp_unknown (h : (findPart s (req s 1 1)).bind (fun p => p.peers[req s 8 1]?) = none) : exec .peerUp s = .next (answer s 3 0) := by
  show execPeerUp s = _
  simp only [execPeerUp, hup, hlen, hty, h, Bool.not_true, bne_self_eq_false, Bool.or_self, Bool.false_eq_true, if_false]

theorem execPeerUp_known {b : PeerBind} (h : (findPart s (req s 1 1)).bind (fun p => p.peers[req s 8 1]?) = some b) :
    exec .peerUp s = .next (if req s 4 4 != 0 || req s 9 3 != 0 || req s 0x10 16 != 0 || s.arg.msg.cls != 0 || !b.valid || !shown s b then answer s 3 0
      else answer (modPart s (req s 1 1) (withoutLost (req s 8 1))) 0 0) := by
  show execPeerUp s = _
  simp only [execPeerUp, hup, hlen, hty, h, Bool.not_true, bne_self_eq_false, Bool.or_self, Bool.false_eq_true, if_false]
  rfl

/-- PEER_UP that a trained link bears out clears LOST, and nothing else. -/
theorem execPeerUp_clears {p : Partition} {b : PeerBind} (hp : findPart s (req s 1 1) = some p) (hb : p.peers[req s 8 1]? = some b) (h4 : req s 4 4 = 0)
    (h9 : req s 9 3 = 0) (h10 : req s 0x10 16 = 0) (hcls : s.arg.msg.cls = 0) (hvalid : b.valid = true) (hnamed : shown s b = true) :
    ∃ t z, exec .peerUp s = .next t ∧ t = { s with parts := t.parts, outbox := s.outbox ++ [replyMsg 0 0x71 (req s 1 1) (req s 2 2) 0 0] }
      ∧ findPart t (req s 1 1) = some z ∧ z = { p with lost := z.lost }
      ∧ ∀ i, i < 8 → z.lost.getLsbD i = if i = req s 8 1 then false else p.lost.getLsbD i := by
  have hexec := execPeerUp_known hup hlen hty (b := b) (by rw [hp]; exact hb)
  rw [if_neg (by simp [h4, h9, h10, hcls, hvalid, hnamed])] at hexec
  refine ⟨_, withoutLost (req s 8 1) p, hexec, ?_, ?_, rfl, fun i hi => ?_⟩
  · have hbytes : fieldAt s.arg.msg.bytes 0 1 = 0x71 := hty
    simp only [answer, send, modPart, hcls, hbytes]
    rfl
  · exact (findPart_modPart_same s _ (withoutLost (req s 8 1))).trans (congrArg _ hp)
  · rw [withoutLost, BitVec.getLsbD_and, BitVec.getLsbD_not, getLsbD_ofNat_pow]
    by_cases hk : i = req s 8 1
    · simp [← hk, hi]
    · simp [hk, hi]

end

/-- Settles O52: a link up by its own entry, links down by the fold over the peers, PEER_UP by the partition's lost peers. -/
theorem peersComeAndGo : Obligations.PeersComeAndGo := by
  unfold Obligations.PeersComeAndGo
  intro s
  refine ⟨fun x => execPeerLinkUp_trains, ⟨fun ha => ?down, fun p b hp hb hvalid => ?loss⟩, fun hup hlen hty => ⟨fun p b hp hb => ⟨?named, fun hno => ?unnamed⟩, ?unknown⟩⟩
  case down =>
    have hbit : ∀ i, (BitVec.ofNat 8 (2 ^ s.arg.a)).getLsbD i = true ↔ i = s.arg.a := fun i => by
      rw [getLsbD_ofNat_pow]
      simp only [Bool.and_eq_true, decide_eq_true_eq]
      omega
    refine ⟨_, rfl, (failLinks_loses s _).mem, fun p y k b hy hk hb hvalid hgone => failLinks_marks hy hk hb hvalid fun i x hi hl hx hup =>
      (hbit i).2 (hgone i x hi hl hx hup), fun i x hx => ?_⟩
    simpa only [hbit] using links_failLinks (BitVec.ofNat 8 (2 ^ s.arg.a)) hx
  case loss =>
    have hexec : execPeerLoss s = .next (failLinks s b.links) := by simp [execPeerLoss, hp, hb, hvalid]
    exact ⟨_, hexec, (failLinks_loses s _).mem, fun q y k c hy hk hc hcv hgone => failLinks_marks hy hk hc hcv hgone,
      fun i x hx => links_failLinks b.links hx⟩
  case named =>
    exact fun h4 h9 h10 hcls hvalid hnamed => execPeerUp_clears hup hlen hty hp hb h4 h9 h10 hcls hvalid ((shown_iff s b).2 hnamed)
  case unnamed =>
    have hshown : shown s b = false := Bool.eq_false_iff.2 fun h => hno ((shown_iff s b).1 h)
    rw [execPeerUp_known hup hlen hty (b := b) (by rw [hp]; exact hb), if_pos (by simp [hshown])]
  case unknown => exact fun hp => execPeerUp_unknown hup hlen hty (by rw [hp]; rfl)

end Sys2Proof.Machine

/-! Accesses from outside (R297, R298) and checkpoint streams (R365, R366) (O51). -/
namespace Sys2Proof.Machine

/-! ## Reads and writes of the companion and of peers -/

/-- What a yield window has served changes nothing but the calls. -/
theorem yieldServe_frame (s : State) (pas : List Nat) : yieldServe s pas = { s with calls := (yieldServe s pas).calls } := by
  unfold yieldServe
  split <;> rfl

theorem memWrite_frame (s : State) (pa : Nat) (bs : List Byte) :
    memWrite s pa bs = { s with mem := (memWrite s pa bs).mem, memPoison := (memWrite s pa bs).memPoison } := by
  unfold memWrite
  split <;> rfl

theorem memByte_congr {s t : State} (h : t.mem = s.mem) (a : Nat) : memByte t a = memByte s a := congrArg (smGet · a 0) h

theorem memByte_yieldServe (s : State) (pas : List Nat) (a : Nat) : memByte (yieldServe s pas) a = memByte s a := by
  rw [yieldServe_frame]
  rfl

theorem memRead_yieldServe (s : State) (pas : List Nat) (pa n : Nat) : memRead (yieldServe s pas) pa n = memRead s pa n := by
  rw [yieldServe_frame]
  rfl

/-- A write from outside: the bytes take their place, and no other byte changes. -/
theorem outsideWrite_writes (s : State) (a : Nat) (bs : List Byte) :
    let t := memWrite (touchRange s a bs.length) a bs
    t = { yieldServe s (rangePas a bs.length) with mem := t.mem, memPoison := t.memPoison } ∧ (∀ i y, bs[i]? = some y → memByte t (a + i) = y)
    ∧ ∀ x, ¬(a ≤ x ∧ x < a + bs.length) → memByte t x = memByte s x :=
  ⟨memWrite_frame _ _ _, fun i y h => memByte_memWrite_in _ _ i bs y h, fun _ hx => (memByte_memWrite_out _ _ _ _ hx).trans (memByte_yieldServe ..)⟩

theorem putImages_of_noneSaved {s : State} (h : ∀ w ∈ s.wgs, isSaved w = false) : putImages s = s := by
  refine List.foldlRecOn (motive := (· = s)) s.wgs putImage rfl fun _ hu w hw => ?_
  subst hu
  have hplace := h w hw
  unfold isSaved at hplace
  unfold putImage
  cases hp : w.place <;> simp_all

theorem imageHidden_of_noneSaved {s : State} (h : ∀ w ∈ s.wgs, isSaved w = false) (pa : Nat) : imageHidden s pa = false := by
  simp only [imageHidden, List.any_eq_false]
  intro w hw
  have hplace := h w hw
  unfold isSaved at hplace
  cases hp : w.place <;> simp_all

/-- With no workgroup in the save reserve a read gives the bytes that memory holds. -/
theorem outsideRead_of_noneSaved {s : State} (h : ∀ w ∈ s.wgs, isSaved w = false) (pa n : Nat) : outsideRead s pa n = memRead s pa n := by
  simp only [outsideRead, putImages_of_noneSaved h, imageHidden_of_noneSaved h, Bool.false_eq_true, if_false]
  rfl

/-- A read from outside: its answer, of as many bytes as it asked for. -/
theorem outsideRead_gives (s : State) (who a n : Nat) :
    let u := touchRange s a n
    ∃ l, ({ u with answers := u.answers ++ [(who, outsideRead u a n)], freeCtr := u.freeCtr + n } : State)
        = { yieldServe s (rangePas a n) with answers := s.answers ++ [(who, l)], freeCtr := s.freeCtr + n }
      ∧ l.length = n ∧ ((∀ w ∈ s.wgs, isSaved w = false) → ∀ i, i < n → l[i]? = some (memByte s (a + i), sectorBad s (a + i))) := by
  refine ⟨outsideRead (touchRange s a n) a n, ?_, by simp [outsideRead], fun hsaved i hi => ?_⟩
  · rw [touchRange, yieldServe_frame]
  · have hwgs : (touchRange s a n).wgs = s.wgs := by rw [touchRange, yieldServe_frame]
    rw [outsideRead_of_noneSaved (hwgs ▸ hsaved), touchRange, memRead_yieldServe, memRead, List.getElem?_map, List.getElem?_range hi]
    rfl

theorem execCompanionWrite_writes {s : State} (h : reachable s s.arg.a s.arg.bytes.length = true) :
    exec .companionWrite s = .next (memWrite (touchRange s s.arg.a s.arg.bytes.length) s.arg.a s.arg.bytes) := by
  show execCompanionWrite s = _
  rw [execCompanionWrite, if_pos h]

theorem execCompanionRead_gives {s : State} (h : reachable s s.arg.a s.arg.b = true) :
    exec .companionRead s = .next (let u := touchRange s s.arg.a s.arg.b
      { u with answers := u.answers ++ [(0, outsideRead u s.arg.a s.arg.b)], freeCtr := u.freeCtr + s.arg.b }) := by
  show execCompanionRead s = _
  rw [execCompanionRead, if_pos h]

/-- An atomic on the bytes that device memory holds. -/
def peerAtomic (s : State) (aop w pa d c : Nat) : State :=
  if anyBad (memRead s pa w) then s else memWrite s pa (atomNew aop w ((memRead s pa w).map Prod.fst) (natToBytes w d ++ natToBytes w c))

theorem peerAtomic_frame (s : State) (aop w pa d c : Nat) :
    peerAtomic s aop w pa d c = { s with mem := (peerAtomic s aop w pa d c).mem, memPoison := (peerAtomic s aop w pa d c).memPoison } := by
  unfold peerAtomic
  split
  · rfl
  · exact memWrite_frame _ _ _

theorem memByte_peerAtomic_out (s : State) (aop d c : Nat) {w pa x : Nat} (h : ¬(pa ≤ x ∧ x < pa + w)) :
    memByte (peerAtomic s aop w pa d c) x = memByte s x := by
  unfold peerAtomic
  split
  · rfl
  · exact memByte_memWrite_out _ _ _ _ (by rwa [length_atomNew])

theorem memNat_peerAtomic {s : State} (aop d c : Nat) {w pa : Nat} (h : anyBad (memRead s pa w) = false) :
    memNat (peerAtomic s aop w pa d c) pa w = atomOp aop w (memNat s pa w) (d % 2 ^ (8 * w)) (c % 2 ^ (8 * w)) % 2 ^ (8 * w) := by
  have hpow : (256 : Nat) ^ w = 2 ^ (8 * w) := by rw [pow_mul]; rfl
  have hwrite := memNat_memWrite_same s pa (atomNew aop w ((memRead s pa w).map Prod.fst) (natToBytes w d ++ natToBytes w c))
  rw [length_atomNew] at hwrite
  rw [peerAtomic, h, if_neg Bool.false_ne_true, hwrite, atomNew, bytesToNat_natToBytes, memRead_bytes, hpow]
  simp only [List.take_left' (length_natToBytes w d), List.drop_left' (length_natToBytes w d), bytesToNat_natToBytes, hpow, memNat]

section
variable {s : State} {k : Link} (hk : s.links[s.arg.a]? = some k) (hup : k.up = true)
include hk hup

theorem execPeerAccess_up : exec .peerAccess s = .next (match s.arg.req with
    | .read pa n => if reachable s pa n then (let u := touchRange s pa n
        { u with freeCtr := u.freeCtr + n, answers := u.answers ++ [(s.arg.a + 1, outsideRead u pa n)] }) else s
    | .write pa bs => if reachable s pa bs.length then memWrite (touchRange s pa bs.length) pa bs else s
    | .atomic aop w pa d c => if !reachable s pa w then s else
        let u := peerAtomic (touchRange s pa w) aop.toNat w pa d.toNat c.toNat
        { u with answers := u.answers ++ [(s.arg.a + 1, memRead (touchRange s pa w) pa w)] }) := by
  show execPeerAccess s = _
  simp only [execPeerAccess, hk, hup, Bool.not_true, Bool.false_eq_true, if_false]
  rfl

/-- An atomic of a peer returns the old bytes, and writes the new number where none of them is poisoned. -/
theorem execPeerAccess_atomic {aop : BitVec 5} {w pa : Nat} {d c : DWord} (hreq : s.arg.req = .atomic aop w pa d c) (hr : reachable s pa w = true) :
    ∃ t, exec .peerAccess s = .next t
      ∧ t = { yieldServe s (rangePas pa w) with mem := t.mem, memPoison := t.memPoison, answers := s.answers ++ [(s.arg.a + 1, memRead s pa w)] }
      ∧ (anyBad (memRead s pa w) = true → t.mem = s.mem ∧ t.memPoison = s.memPoison)
      ∧ (anyBad (memRead s pa w) = false → memNat t pa w = atomOp aop.toNat w (memNat s pa w) (d.toNat % 2 ^ (8 * w)) (c.toNat % 2 ^ (8 * w)) % 2 ^ (8 * w))
      ∧ ∀ x, ¬(pa ≤ x ∧ x < pa + w) → memByte t x = memByte s x := by
  have hexec := execPeerAccess_up hk hup
  simp only [hreq, hr, Bool.not_true, Bool.false_eq_true, if_false] at hexec
  have hold : memRead (touchRange s pa w) pa w = memRead s pa w := memRead_yieldServe ..
  have hmem : (touchRange s pa w).mem = s.mem := by rw [touchRange, yieldServe_frame]
  refine ⟨_, hexec, ?_, fun hbad => ?_, fun hclean => ?_, fun x hx => ?_⟩
  · rw [hold, peerAtomic_frame, touchRange, yieldServe_frame]
  · rw [peerAtomic, hold, hbad, if_pos rfl, touchRange, yieldServe_frame]
    exact ⟨rfl, rfl⟩
  · have hnum : memNat (touchRange s pa w) pa w = memNat s pa w := memNat_congr fun a _ _ => memByte_congr hmem a
    exact (memNat_peerAtomic aop.toNat d.toNat c.toNat (hold ▸ hclean)).trans (by rw [hnum])
  · exact (memByte_peerAtomic_out _ _ _ _ hx).trans (memByte_congr hmem x)

end

/-! ## Checkpoint streams -/

section
variable {s : State} (hup : linkUp s = true) (hlen : s.arg.msg.bytes.length = 32) (hty : req s 0 1 = 0x61)
include hup hlen hty

theorem execCheckpoint_unknown (h : findPart s (req s 1 1) = none) : exec .checkpoint s = .next (answer s 8 0) := by
  show execCheckpoint s = _
  simp only [execCheckpoint, hup, hlen, hty, h, Bool.not_true, bne_self_eq_false, Bool.or_self, Bool.false_eq_true, if_false]

/-- The stream that a CHECKPOINT message asks for. -/
def askedCkpt (s : State) : Ckpt := { seq := BitVec.ofNat 16 (req s 2 2), va := req s 8 8, len := req s 0x10 8, dst := req s 0x18 8, moved := 0, poisoned := 0 }
def withCkpt (k : Option Ckpt) (p : Partition) : Partition := { p with ckpt := k }

theorem execCheckpoint_formed {p : Partition} (hp : findPart s (req s 1 1) = some p) (h4 : req s 4 4 = 0) (hva : req s 8 8 % 65536 = 0)
    (hn : req s 0x10 8 % 65536 = 0) (hn0 : req s 0x10 8 ≠ 0) (hdst : req s 0x18 8 % 64 = 0) (hcls : s.arg.msg.cls = 3) :
    exec .checkpoint s = .next (if p.ckpt.isSome then answer s 6 0 else modPart s (req s 1 1) (withCkpt (some (askedCkpt s)))) := by
  show execCheckpoint s = _
  simp only [execCheckpoint, hup, hlen, hty, hp, h4, hva, hn, hdst, hcls, beq_eq_false_iff_ne.2 hn0, Bool.not_true, bne_self_eq_false, Bool.or_self,
    Bool.false_eq_true, if_false]
  rfl

end

/-- The stream of partition `a` has ended, with its reply. -/
def endStream (s : State) (part : Nat) (seq : BitVec 16) (code value : Nat) : State :=
  send (modPart s part (withCkpt none)) (replyMsg 3 0x61 part seq.toNat code value)

section
variable {s : State} {part : Nat} {p : Partition} {k : Ckpt} (hp : findPart s part = some p) (hk : p.ckpt = some k)
include hp

theorem endStream_ends {u : State} (hu : findPart u part = findPart s part) (hmem : u.mem = s.mem) (hout : u.outbox = s.outbox) (seq : BitVec 16)
    (code value : Nat) : findPart (endStream u part seq code value) part = some (withCkpt none p) ∧ (endStream u part seq code value).mem = s.mem
      ∧ (endStream u part seq code value).outbox = s.outbox ++ [replyMsg 3 0x61 part seq.toNat code value] :=
  ⟨(findPart_modPart_same u part (withCkpt none)).trans (by rw [hu, hp]; rfl), hmem, congrArg (· ++ _) hout⟩

include hk

theorem ckptGo_fini {n : Nat} {u : State} {code value : Nat} (h : ckptSector s part k = .fini u code value) :
    ckptGo part true (n + 1) s = endStream u part k.seq code value := by
  rw [ckptGo, hp]
  simp only [Option.bind_some, hk, h, if_true]
  rfl

theorem ckptGo_moved {n : Nat} {u : State} (h : ckptSector s part k = .moved u) : ckptGo part true (n + 1) s = ckptGo part true n u := by
  rw [ckptGo, hp]
  simp only [Option.bind_some, hk, h]

end

theorem execCheckpointEnd_stream {s : State} {p : Partition} {k : Ckpt} (hp : findPart s s.arg.a = some p) (hk : p.ckpt = some k) :
    exec .checkpointEnd s = .next (ckptGo s.arg.a true ((k.len - k.moved) / 64 + 1) s) := by
  show execCheckpointEnd s = _
  simp only [execCheckpointEnd, hp, Option.bind_some, hk]

/-- What a sector of device memory is copied as: zeros where it is poisoned. -/
def sectorCopy (s : State) (pa : Nat) : List Byte := if sectorBad s pa then natToBytes 64 0 else memBytes s pa 64

/-- The stream once a sector has moved. -/
def movedOnce (s : State) (pa : Nat) (k : Ckpt) : Ckpt := { k with moved := k.moved + 64, poisoned := k.poisoned + (if sectorBad s pa then 1 else 0) }

/-- The state in which a sector's copy stands in companion memory. -/
def sectorSent (u : State) (a : Nat) (bad : Bool) (bs : List Byte) : State :=
  let v := compWrite { u with freeCtr := u.freeCtr + 64 } a bs
  if bad then { v with compPoison := smPutList v.compPoison a (List.replicate 64 true) false } else v

theorem sectorSent_frame (u : State) (a : Nat) (bad : Bool) (bs : List Byte) :
    sectorSent u a bad bs
      = { u with freeCtr := u.freeCtr + 64, compMem := smPutList u.compMem a bs 0, compPoison := (sectorSent u a bad bs).compPoison } := by
  unfold sectorSent compWrite
  cases bad
  · simp only [Bool.false_eq_true, if_false]
  · simp only [if_true]

theorem ckptSector_local {s s1 : State} {part : Nat} {k : Ckpt} {q : Phys} (hleft : k.moved < k.len)
    (hq : translate s (unitDie s part) part (k.va + k.moved) = (some q, s1)) (hpeer : q.peer = none) (hfree : stalledFor s1 3 q.pa = false) :
    ckptSector s part k = .moved (modPart (sectorSent (yieldServe s1 [q.pa]) (k.dst + k.moved) (sectorBad (yieldServe s1 [q.pa]) q.pa)
      (sectorCopy (yieldServe s1 [q.pa]) q.pa)) part (withCkpt (some (movedOnce (yieldServe s1 [q.pa]) q.pa k)))) := by
  unfold ckptSector
  simp only [Nat.not_le.2 hleft, if_false, hq, hpeer, Option.isNone_none, Option.isSome_none, Bool.true_and, hfree, Bool.false_eq_true, if_true]
  rfl

/-- A sector of device memory moves: companion memory holds it, the stream counts it, and memory, what is sent and the partition stay. -/
theorem ckptSector_moved {s s1 : State} {part : Nat} {p : Partition} {k : Ckpt} {q : Phys} (hp : findPart s part = some p) (hleft : k.moved < k.len)
    (hq : translate s (unitDie s part) part (k.va + k.moved) = (some q, s1)) (hpeer : q.peer = none) (hfree : stalledFor s1 3 q.pa = false) :
    ∃ u, ckptSector s part k = .moved u ∧ findPart u part = some (withCkpt (some (movedOnce s q.pa k)) p) ∧ u.mem = s.mem ∧ u.outbox = s.outbox
      ∧ u.compMem = smPutList s.compMem (k.dst + k.moved) (sectorCopy s q.pa) 0 := by
  have hreads : OnlyReads s (yieldServe s1 [q.pa]) := by
    have h := translate_onlyReadsCode s (unitDie s part) part (k.va + k.moved)
    rw [hq] at h
    exact (OnlyReads.ofCode h).trans (yieldServe_onlyReads s1 [q.pa])
  refine ⟨_, ckptSector_local hleft hq hpeer hfree, ?_⟩
  generalize yieldServe s1 [q.pa] = v at hreads
  have hbad : sectorBad v q.pa = sectorBad s q.pa := by rw [hreads]; rfl
  have hcopy : sectorCopy v q.pa = sectorCopy s q.pa := by rw [hreads]; rfl
  have hmoved : movedOnce v q.pa k = movedOnce s q.pa k := by rw [movedOnce, hbad, movedOnce]
  have hpart : findPart v part = some p := by
    rw [hreads]
    exact hp
  rw [hbad, hcopy, hmoved, sectorSent_frame]
  refine ⟨?_, hreads.mem, by rw [hreads]; rfl, by rw [hreads]; rfl⟩
  rw [findPart_modPart_same]
  exact congrArg (Option.map _) hpart

theorem getD_natToBytes_zero (n i : Nat) : (natToBytes n 0).getD i 0 = 0 := by
  induction n generalizing i with
  | zero => rfl
  | succ n ih => cases i with
    | zero => rfl
    | succ i => exact ih i

/-- Companion memory after a sector has come there. -/
theorem smGet_sectorCopy (m : SMap Byte) (s : State) (pa d x : Nat) : smGet (smPutList m d (sectorCopy s pa) 0) x 0
    = if d ≤ x ∧ x < d + 64 then (if sectorBad s pa then 0 else memByte s (pa + (x - d))) else smGet m x 0 := by
  have hlen : (sectorCopy s pa).length = 64 := by
    unfold sectorCopy
    split
    · exact length_natToBytes 64 0
    · simp [memBytes, smGetList]
  rw [smGet_smPutList, hlen]
  split
  next h =>
    unfold sectorCopy
    split
    · exact getD_natToBytes_zero 64 _
    · have hi : x - d < 64 := by omega
      simp [memBytes, smGetList, List.getD_eq_getElem?_getD, List.getElem?_range hi, memByte]
  next => rfl

/-- Settles O51: what comes from outside reads and writes memory as it stands, and a checkpoint stream begins, moves its last sector and ends. -/
theorem outsideAccesses : Obligations.OutsideAccesses := by
  unfold Obligations.OutsideAccesses
  refine ⟨fun s => ⟨fun hr => ⟨_, execCompanionWrite_writes hr, outsideWrite_writes s _ _⟩, fun hr => ⟨_, execCompanionRead_gives hr, outsideRead_gives s 0 _ _⟩,
    fun k hk hup => ⟨fun pa n hreq hr => ?read, fun pa bs hreq hr => ?write, fun aop w pa d c hreq hr => execPeerAccess_atomic hk hup hreq hr⟩⟩,
    fun s => ⟨fun hup hlen hty => ⟨execCheckpoint_unknown hup hlen hty, fun p hp h4 hva hn hn0 hdst hcls => ?begins⟩, fun p k hp hk => ?ends⟩⟩
  case read =>
    have hexec := execPeerAccess_up hk hup
    simp only [hreq, hr, if_true] at hexec
    exact ⟨_, hexec, outsideRead_gives s (s.arg.a + 1) pa n⟩
  case write =>
    have hexec := execPeerAccess_up hk hup
    simp only [hreq, hr, if_true] at hexec
    exact ⟨_, hexec, outsideWrite_writes s pa bs⟩
  case begins =>
    have hexec := execCheckpoint_formed hup hlen hty hp h4 hva hn hn0 hdst hcls
    refine ⟨fun hsome => by rw [hexec, if_pos (Option.isSome_iff_ne_none.2 hsome)], fun hnone => ?_⟩
    rw [hnone] at hexec
    exact ⟨_, hexec, rfl, (findPart_modPart_same s _ (withCkpt (some (askedCkpt s)))).trans (congrArg _ hp)⟩
  case ends =>
    have hexec := execCheckpointEnd_stream hp hk
    refine ⟨fun hdone => ?done, fun hleft hno => ?fault, fun q s1 hlast hq hpeer hfree => ?last⟩
    case done =>
      have hsector : ckptSector s s.arg.a k = .fini s 0 k.poisoned := by rw [ckptSector, if_pos hdone]
      exact ⟨_, hexec.trans (by rw [ckptGo_fini hp hk hsector]), endStream_ends hp rfl rfl rfl _ _ _⟩
    case fault =>
      have hsector : ckptSector s s.arg.a k = .fini (translate s (unitDie s s.arg.a) s.arg.a (k.va + k.moved)).2 10 (k.va + k.moved) := by
        simp only [ckptSector, Nat.not_le.2 hleft, if_false]
        rw [← Prod.mk.eta (p := translate s (unitDie s s.arg.a) s.arg.a (k.va + k.moved)), hno]
      have hreads := translate_onlyReadsCode s (unitDie s s.arg.a) s.arg.a (k.va + k.moved)
      exact ⟨_, hexec.trans (by rw [ckptGo_fini hp hk hsector]), endStream_ends hp (by rw [hreads]; rfl) (by rw [hreads]) (by rw [hreads]) _ _ _⟩
    case last =>
      obtain ⟨u, hmoved, hpart, hmem, hout, hcomp⟩ := ckptSector_moved hp (by omega) hq hpeer hfree
      have hfuel : (k.len - k.moved) / 64 + 1 = 1 + 1 := by omega
      have hsector : ckptSector u s.arg.a (movedOnce s q.pa k) = .fini u 0 (movedOnce s q.pa k).poisoned := by
        rw [ckptSector, if_pos (by simp only [movedOnce]; omega)]
      rw [hfuel, ckptGo_moved hp hk hmoved, ckptGo_fini hpart rfl hsector] at hexec
      obtain ⟨hfinal, hmem', hout'⟩ := endStream_ends hpart rfl rfl rfl k.seq 0 (movedOnce s q.pa k).poisoned
      refine ⟨_, hexec, ⟨hfinal, hmem'.trans hmem, hout'.trans (by rw [hout]; rfl)⟩, fun x => ?_⟩
      rw [show (endStream u s.arg.a _ _ _).compMem = _ from hcomp]
      exact smGet_sectorCopy s.compMem s q.pa (k.dst + k.moved) x

end Sys2Proof.Machine

/-! ICINV and ERRI (R343, R344): what they leave of the cores, of the issuing group and of a canvas (O37). -/
namespace Sys2Proof.Machine

/-! ## Code words dropped from instruction caches -/

/-- A core but for the code words of launch `lid`. -/
def withoutCode (lid : Nat) (k : CoreSt) : CoreSt := { k with icache := k.icache.filter fun (e : Nat × Nat × Word) => e.1 != lid }

theorem mem_icache_withoutCode (lid : Nat) (k : CoreSt) (e : Nat × Nat × Word) : e ∈ (withoutCode lid k).icache ↔ e ∈ k.icache ∧ e.1 ≠ lid := by
  simp [withoutCode]

theorem withoutCode_twice (lid : Nat) (k : CoreSt) : withoutCode lid (withoutCode lid k) = withoutCode lid k := by
  simp [withoutCode, List.filter_filter]

theorem cores_dropCode (lid : Nat) (s : State) (c j : Nat) :
    (dropCode lid s c).cores[j]? = if j = c then s.cores[j]?.map (withoutCode lid) else s.cores[j]? := by
  split
  next h => exact h ▸ getElem?_modifyAt_same s.cores _
  next h => exact getElem?_modifyAt_other s.cores _ h

/-- Cores named more than once drop their code words once. -/
theorem cores_foldl_dropCode (lid : Nat) (cs : List Nat) (s : State) (j : Nat) :
    (cs.foldl (dropCode lid) s).cores[j]? = if j ∈ cs then s.cores[j]?.map (withoutCode lid) else s.cores[j]? := by
  induction cs generalizing s with
  | nil => simp
  | cons c cs ih =>
    rw [List.foldl_cons, ih, cores_dropCode]
    by_cases hc : j = c <;> by_cases hj : j ∈ cs
    · simp only [hc ▸ hj, hc, if_true, List.mem_cons, true_or, Option.map_map]
      congr 1
      exact funext fun k => withoutCode_twice lid k
    · simp [hc, hc ▸ hj]
    · simp [hc, hj]
    · simp [hc, hj]

theorem foldl_dropCode_frame (lid : Nat) (cs : List Nat) (s : State) : cs.foldl (dropCode lid) s = { s with cores := (cs.foldl (dropCode lid) s).cores } :=
  List.foldlRecOn (motive := fun t : State => t = { s with cores := t.cores }) cs (dropCode lid) rfl fun t ht c _ => by
    rw [ht]
    rfl

theorem mem_dedupNat {x : Nat} {l : List Nat} : x ∈ dedupNat l ↔ x ∈ l := by
  refine ⟨mem_of_mem_dedupNat, fun h => ?_⟩
  induction l with
  | nil => exact h
  | cons a r ih =>
    rw [dedupNat]
    by_cases ha : r.contains a = true
    · rw [if_pos ha]
      rcases List.mem_cons.1 h with rfl | hr
      · exact ih (by simpa using ha)
      · exact ih hr
    · rw [if_neg ha]
      exact (List.mem_cons.1 h).elim (fun e => e ▸ List.mem_cons_self) fun hr => List.mem_cons_of_mem _ (ih hr)

section
variable {s : State} {x : Ctx} {w : FmtY} (hi : Issues s w.g x) (ha : groupAct x ≠ 0)
include hi ha

/-- ICINV of a group with nothing outstanding: the cores named drop the launch's code words, and the gang goes on. -/
theorem icinvWord_drops (hops : x.g.ops = []) (cores : State → Ctx → List Nat) :
    ∃ t g, icinvWord w cores s = .next t ∧ GroupStep s { t with cores := s.cores } x g ∧ OnlyMoves x g
      ∧ ∀ c ∈ cores s x, ∀ k, s.cores[c]? = some k → ∃ k', t.cores[c]? = some k' ∧ k' = { k with icache := k'.icache }
          ∧ ∀ e, e ∈ k'.icache ↔ e ∈ k.icache ∧ e.1 ≠ x.l.id := by
  have hg := findGrp_of_get hi.wg hi.grp
  have hopen : writesOpen s x.c.wg x.c.grp = false := by simp [writesOpen, hg, hops]
  have hexec : icinvWord w cores s = .next (advance ((cores s x).foldl (dropCode x.l.id) s) x.c) := by
    rw [icinvWord, sysWord_next hi ha, writesBlocked_of_idle s x.c.wg hops, performWrites_of_idle hg hops]
    simp only [hopen, Bool.false_eq_true, if_false]
  refine ⟨_, _, hexec, ?_, (advance_step hi).2, fun c hc k hk => ⟨withoutCode x.l.id k, ?_, rfl, mem_icache_withoutCode _ _⟩⟩
  · have hstate : ({ advance ((cores s x).foldl (dropCode x.l.id) s) x.c with cores := s.cores } : State) = advance s x.c := by
      rw [foldl_dropCode_frame]
      rfl
    exact hstate ▸ (advance_step hi).1
  · show ((cores s x).foldl (dropCode x.l.id) s).cores[c]? = _
    rw [cores_foldl_dropCode, if_pos hc, hk]
    rfl

end

/-! ## Errors that a monitor counts -/

/-- A state with other workgroups and another count of free values. -/
def withWork (s : State) (W : List Workgroup) (n : Nat) : State := { s with wgs := W, freeCtr := n }

/-- The launch unit looks neither at workgroups nor at free values when a monitor crosses its threshold. -/
theorem crossing_withWork (s : State) (W : List Workgroup) (n core : Nat) : crossing (withWork s W n) core = withWork (crossing s core) W n := by
  unfold crossing
  rw [show lcoreOf (withWork s W n) core = lcoreOf s core from rfl]
  cases lcoreOf s core with
  | none => rfl
  | some lc =>
    dsimp only
    rw [show corePart (withWork s W n) lc = corePart s lc from rfl]
    cases corePart s lc with
    | none => rfl
    | some e =>
      dsimp only
      rw [show monCount (withWork s W n) core = monCount s core from rfl, show (withWork s W n).boot = s.boot from rfl,
        show (withWork s W n).evacs = s.evacs from rfl, show chooseSpare (withWork s W n) (core / 9) = chooseSpare s (core / 9) from rfl]
      split
      · rfl
      · split
        · rfl
        · split <;> rfl

theorem monEvent_withWork (s : State) (W : List Workgroup) (n core : Nat) : monEvent (withWork s W n) core = withWork (monEvent s core) W n := by
  unfold monEvent
  rw [show (withWork s W n).boot = s.boot from rfl, show coreInUse (withWork s W n) core = coreInUse s core from rfl]
  split
  · exact crossing_withWork (modCore s core _) W n core
  · rfl

theorem hitCore_withWork (s : State) (W : List Workgroup) (n : Nat) (w : Workgroup) : hitCore (withWork s W n) w = withWork (hitCore s w) W n :=
  monEvent_withWork s W n _

theorem hitCore_wgs (s : State) (w : Workgroup) : (hitCore s w).wgs = s.wgs := monEvent_wgs s _

theorem hitCore_freeCtr (s : State) (w : Workgroup) : (hitCore s w).freeCtr = s.freeCtr := by
  have h := hitCore_withWork s s.wgs s.freeCtr w
  rw [show withWork s s.wgs s.freeCtr = s from rfl] at h
  rw [h]
  rfl

/-- A step of one group stands beside any change that leaves the workgroups alone. -/
theorem GroupStep.beside {s t S : State} {x : Ctx} {g : Group} (h : GroupStep s t x g) (hS : S.wgs = s.wgs) : GroupStep S { S with wgs := t.wgs } x g where
  rest := rfl
  others := fun id hid => (h.others id hid).trans (by rw [findWg, findWg, hS])
  here := h.here

theorem WgBecomes.beside {s t S : State} {wg : Nat} {v : Workgroup} (h : WgBecomes s t wg v) (hS : S.wgs = s.wgs) :
    WgBecomes S { S with wgs := t.wgs } wg v where
  rest := rfl
  others := fun id hid => (h.others id hid).trans (by rw [findWg, findWg, hS])
  here := h.here

/-! ## The ECC word of a window byte (R221, R234) -/

/-- The eight window bytes of an ECC word are all of that word. -/
theorem eccWord_of_mem {ns boff e : Nat} (h : e ∈ eccBytes ns boff) : eccWord ns e = eccWord ns boff := by
  obtain ⟨i, hi, rfl⟩ := List.mem_map.1 h
  rw [List.mem_range] at hi
  simp only [eccWord, bankByte]
  rcases Nat.eq_zero_or_pos ns with rfl | hns
  · simp only [Nat.mul_zero, Nat.zero_add, Nat.div_zero, Nat.mod_zero, Nat.zero_mul, Prod.mk.injEq]
    omega
  have hlt : boff / 4 % ns < ns := Nat.mod_lt _ hns
  generalize boff / (4 * ns) * 4 + boff % 4 = b
  generalize boff / 4 % ns = a at hlt
  obtain ⟨o, ho⟩ : ∃ o, o = b / 8 * 8 + i := ⟨_, rfl⟩
  rw [← ho, ← Nat.div_div_eq_div_mul, show ((o / 4 * ns + a) * 4 + o % 4) / 4 = a + o / 4 * ns by omega,
    show ((o / 4 * ns + a) * 4 + o % 4) % 4 = o % 4 by omega, Nat.add_mul_mod_self_right, Nat.mod_eq_of_lt hlt, Nat.add_mul_div_right _ _ hns,
    Nat.div_eq_of_lt hlt]
  exact Prod.ext rfl (by dsimp only; omega)

theorem smPut_keys {α : Type} [DecidableEq α] {m : SMap α} {k : Nat} {v d : α} (hv : v ≠ d) (P : Nat → Prop) :
    (∃ e ∈ smPut m k v d, P e.1) ↔ (∃ e ∈ m, P e.1) ∨ P k := by
  induction m with
  | nil => simp [smPut, hv]
  | cons e r ih =>
    obtain ⟨a, u⟩ := e
    rw [smPut, if_neg hv, if_neg hv]
    split
    · simp only [List.exists_mem_cons_iff]
      exact or_comm
    split
    next h =>
      subst h
      simp only [List.exists_mem_cons_iff]
      rw [or_right_comm, or_self]
    · simp only [List.exists_mem_cons_iff, ih]
      exact or_assoc.symm

theorem foldl_smPut_keys (bs : List Nat) (m : SMap Bool) (P : Nat → Prop) :
    (∃ e ∈ bs.foldl (fun m b => smPut m b true false) m, P e.1) ↔ (∃ e ∈ m, P e.1) ∨ ∃ b ∈ bs, P b := by
  induction bs generalizing m with
  | nil => simp
  | cons b bs ih =>
    rw [List.foldl_cons, ih, smPut_keys (by decide), List.exists_mem_cons_iff, or_assoc]

/-- A workgroup whose window holds an uncorrectable ECC word. -/
def withBadWord (boff : Nat) (w : Workgroup) : Workgroup :=
  { w with winPoison := (eccBytes w.ns boff).foldl (fun m b => smPut m b true false) w.winPoison }

/-- Exactly the bytes of that word are poisoned with those that were. -/
theorem winBad_withBadWord (boff : Nat) (w : Workgroup) (o : Nat) :
    winBad (withBadWord boff w) o = true ↔ (winBad w o = true ∨ eccWord w.ns o = eccWord w.ns boff) := by
  simp only [winBad, withBadWord, List.any_eq_true, beq_iff_eq]
  rw [foldl_smPut_keys _ _ fun k => eccWord w.ns k = eccWord w.ns o]
  refine or_congr_right ⟨fun ⟨b, hb, hw⟩ => hw.symm.trans (eccWord_of_mem hb), fun h => ⟨_, List.mem_map_of_mem (List.mem_range.2 (by decide : 0 < 8)), ?_⟩⟩
  exact (eccWord_of_mem (List.mem_map_of_mem (List.mem_range.2 (by decide : 0 < 8)))).trans h.symm

/-! ## The words -/

theorem lowestLane_getD_lt (m : LMask) : (lowestLane m).getD 0 < 16 := by
  cases h : lowestLane m with
  | none => decide
  | some l => exact List.mem_range.1 (List.mem_of_mem_filter (List.mem_of_mem_head? h))

section
variable {s : State} {x : Ctx} {w : FmtY} (hi : Issues s w.g x) (ha : groupAct x ≠ 0)
include hi ha

/-- Where the companion does not allow it, ERRI lets its gang go on. -/
theorem erriWord_refused (hno : injects s x.l = false) (f : Ctx → State) : erriWord s w.g f = .next (advance s x.c) := by
  rw [erriWord, sysWord_next hi ha]
  simp only [hno, Bool.false_eq_true, if_false]

theorem erriWord_allowed (hyes : injects s x.l = true) (f : Ctx → State) : erriWord s w.g f = .next (f x) := by
  rw [erriWord, sysWord_next hi ha]
  simp only [hyes, if_true]

theorem erriWords_refused (hno : injects s x.l = false) :
    ∀ o ∈ [exec (.erriRegc w) s, exec (.erriRegu w) s, exec (.erriCvc w) s, exec (.erriCvu w) s, exec (.erriRes w) s, exec (.erriClone w) s],
      ∃ t g, o = .next t ∧ GroupStep s t x g ∧ OnlyMoves x g := by
  have hcanvas : ∀ f, erriCanvas s w f = .next (advance s x.c) := fun f => by rw [erriCanvas, erriWord_refused hi ha hno]
  have hregc : execErriRegc w s = _ := erriWord_refused hi ha hno _
  have hregu : execErriRegu w s = _ := erriWord_refused hi ha hno _
  have hres : execErriRes w s = _ := erriWord_refused hi ha hno _
  have hclone : execErriClone w s = _ := erriWord_refused hi ha hno _
  simp only [List.forall_mem_cons, List.not_mem_nil, false_implies, implies_true, and_true]
  have hmoves : ∀ {o : Host.Outcome State Fault Refusal}, o = .next (advance s x.c) → ∃ t g, o = .next t ∧ GroupStep s t x g ∧ OnlyMoves x g :=
    fun ho => ⟨_, _, ho, advance_step hi⟩
  exact ⟨hmoves hregc, hmoves hregu, hmoves (hcanvas _), hmoves (hcanvas _), hmoves hres, hmoves hclone⟩

omit ha in
/-- The gang goes on once an event has been counted. -/
theorem advance_hitCore (v : Workgroup) : GroupStep (hitCore s v) (advance (hitCore s v) x.c) x (advanceGrp x.c x.g) := by
  have hstep := (advance_step hi).1.beside (hitCore_wgs s v)
  have hstate : ({ hitCore s v with wgs := (advance s x.c).wgs } : State) = advance (hitCore s v) x.c := by
    rw [advance, modGrp, modWg, ← hitCore_wgs s v]
    rfl
  exact hstate ▸ hstep

theorem execErriRegc_counts (hyes : injects s x.l = true) :
    ∃ t g, exec (.erriRegc w) s = .next t ∧ GroupStep (hitCore s x.w) t x g ∧ OnlyMoves x g := by
  have hexec : execErriRegc w s = _ := erriWord_allowed hi ha hyes _
  exact ⟨_, _, hexec, advance_hitCore hi x.w, rfl⟩

/-- ERRI of a register slot: the slot is poison, and an event has been counted. -/
theorem execErriRegu_poisons (hyes : injects s x.l = true) : let l := (lowestLane x.act).getD 0
    ∃ t g, exec (.erriRegu w) s = .next t ∧ GroupStep (hitCore s x.w) { t with freeCtr := s.freeCtr } x g ∧ g = { x.g with v := g.v, quads := g.quads }
      ∧ GoesOn x g ∧ (getV g w.a.code.toNat l).poison = true ∧ ∀ n k, k < 16 → ¬(n = w.a.code.toNat ∧ k = l) → getV g n k = getV x.g n k := by
  intro l
  have hl : l < 16 := lowestLane_getD_lt x.act
  have hexec : execErriRegu w s = _ := erriWord_allowed hi ha hyes _
  rw [hitSlot, findWg_id hi.wg] at hexec
  obtain ⟨y, hy⟩ : ∃ y, y = ({ val := (freshWord s).1, poison := true } : Slot) := ⟨_, rfl⟩
  have hstep := (modGrp_step hi fun g => advanceGrp x.c (putVSlot g w.a.code.toNat l y)).beside (hitCore_wgs s x.w)
  rw [← modGrp_modGrp] at hstep
  refine ⟨_, advanceGrp x.c (putVSlot x.g w.a.code.toNat l y), hexec, ?_, by rw [advanceGrp_frame]; rfl, goesOn_advanceGrp rfl, ?_, fun n k hk hne => ?_⟩
  · have hhit : hitCore (modGrp (freshWord s).2 x.c.wg x.c.grp fun g => putVSlot g w.a.code.toNat l y) x.w
        = withWork (hitCore s x.w) (modGrp s x.c.wg x.c.grp fun g => putVSlot g w.a.code.toNat l y).wgs (s.freeCtr + 1) := hitCore_withWork s _ _ x.w
    have hfree := hitCore_freeCtr s x.w
    rw [← hy, hhit]
    generalize hitCore s x.w = S at hfree hstep
    rw [← hfree]
    exact hstep
  · rw [getV_advanceGrp, getV_putVSlot _ _ _ _ _ _ hl hl, if_pos ⟨rfl, rfl⟩, hy]
  · rw [getV_advanceGrp, getV_putVSlot _ _ _ _ _ _ hl hk, if_neg hne]

theorem execErriClone_marks (hyes : injects s x.l = true) : ∃ t g, exec (.erriClone w) s = .next t ∧ GroupStep s t x g
    ∧ g = advanceGrp x.c { x.g with cloneBad := x.g.cloneBad || isChecked x.l } := by
  have hexec : execErriClone w s = _ := erriWord_allowed hi ha hyes _
  exact ⟨_, _, hexec, modGrp_step hi _, rfl⟩

section
variable (hyes : injects s x.l = true) (hr : Reads x [srcOf 0 w.a 1] x.act) {v : Workgroup} {boff : Nat}
  (hat : canvasAt s x.l x.w (readUN s x w.a) 4 = some (v, boff))
include hyes hr

section
include hat

theorem erriCanvas_reaches (f : State → Workgroup → Nat → State) : erriCanvas s w f = .next (advance (f s v boff) x.c) := by
  rw [erriCanvas, erriWord_allowed hi ha hyes, withSources_reads _ hr]
  simp only [hat]

theorem execErriCvc_counts : ∃ t g, exec (.erriCvc w) s = .next t ∧ GroupStep (hitCore s v) t x g ∧ OnlyMoves x g := by
  have hexec : execErriCvc w s = _ := erriCanvas_reaches hi ha hyes hr hat _
  exact ⟨_, _, hexec, advance_hitCore hi v, rfl⟩

/-- ERRI of a canvas byte: its ECC word is poison, and an event has been counted. -/
theorem execErriCvu_poisons (hv : findWg s v.id = some v) :
    ∃ t u, exec (.erriCvu w) s = .next t ∧ t = { hitCore s v with wgs := t.wgs } ∧ findWg t v.id = some u ∧ u.win = v.win
      ∧ (∃ g, findGrp t x.c.wg x.c.grp = some g ∧ OnlyMoves x g)
      ∧ ∀ o, winBad u o = true ↔ (winBad v o = true ∨ eccWord v.ns o = eccWord v.ns boff) := by
  have hexec : execErriCvu w s = _ := erriCanvas_reaches hi ha hyes hr hat _
  have hhit : hitWin s v boff = withWork (hitCore s v) (modWg s v.id (withBadWord boff)).wgs s.freeCtr := hitCore_withWork s _ _ v
  have hstate : withWork (hitCore s v) (modWg s v.id (withBadWord boff)).wgs s.freeCtr = { hitCore s v with wgs := (modWg s v.id (withBadWord boff)).wgs } := by
    rw [← hitCore_freeCtr s v]
    rfl
  rw [hhit, hstate] at hexec
  generalize hitCore s v = S at hexec
  have hbad : findWg (modWg s v.id (withBadWord boff)) v.id = some (withBadWord boff v) := by
    rw [findWg_modWg_same s v.id (withBadWord boff) fun _ => rfl, hv]
    rfl
  have hgrp : findGrp (modWg s v.id (withBadWord boff)) x.c.wg x.c.grp = some x.g := by
    by_cases hx : x.c.wg = v.id
    · have hw : x.w = v := Option.some.inj (hi.wg.symm.trans (hx ▸ hv))
      rw [findGrp, hx, hbad, ← hw]
      exact hi.grp
    · rw [findGrp, findWg_modWg_other s v.id x.c.wg (withBadWord boff) (fun _ => rfl) hx]
      exact findGrp_of_get hi.wg hi.grp
  obtain ⟨u, hu, hwin, hwinBad⟩ : ∃ u, findWg (advance { S with wgs := (modWg s v.id (withBadWord boff)).wgs } x.c) v.id = some u ∧ u.win = v.win
      ∧ ∀ o, winBad u o = winBad (withBadWord boff v) o := by
    by_cases hx : v.id = x.c.wg
    · refine ⟨{ withBadWord boff v with groups := modifyAt v.groups x.c.grp (advanceGrp x.c) }, ?_, rfl, fun _ => rfl⟩
      rw [hx, advance, findWg_modGrp_same, ← hx]
      exact congrArg (Option.map _) hbad
    · refine ⟨withBadWord boff v, ?_, rfl, fun _ => rfl⟩
      rw [advance, findWg_modGrp_other _ _ _ _ hx]
      exact hbad
  refine ⟨_, u, hexec, rfl, hu, hwin, ⟨_, ?_, (advance_step hi).2⟩, fun o => by rw [hwinBad, winBad_withBadWord]⟩
  rw [advance, findGrp_modGrp_same]
  exact congrArg (Option.map _) hgrp

end

/-- ERRI of a residue of a bank of the group's own workgroup. -/
theorem execErriRes_corrupts {k : Nat} (hk : readUN s x w.a = k) (hlt : k < x.l.cbanks) {b : Bank} (hb : x.w.banks[k]? = some b) :
    ∃ t v, exec (.erriRes w) s = .next t ∧ t.mem = s.mem ∧ findWg t x.c.wg = some v ∧ (∃ g, v.groups[x.c.grp]? = some g ∧ OnlyMoves x g)
      ∧ v.banks[k]? = some { b with resBad := smPut b.resBad 0 true false } := by
  have hexec : execErriRes w s = _ := erriWord_allowed hi ha hyes _
  rw [withSources_reads _ hr] at hexec
  simp only [hk, Nat.not_le.2 hlt, if_false, findWg_id hi.wg] at hexec
  have hstep := ((WgBecomes.refl hi.wg).modBank k fun b => { b with resBad := smPut b.resBad 0 true false }).modGrp x.c.grp (advanceGrp x.c)
  refine ⟨_, _, hexec, rfl, hstep.here, ⟨_, ?_, (advance_step hi).2⟩, ?_⟩
  · exact (getElem?_modifyAt_same ..).trans (congrArg (Option.map _) hi.grp)
  · exact (getElem?_modifyAt_same ..).trans (congrArg (Option.map _) hb)

end

end

/-- Settles O37: ICINV by the cores that it names, ERRI by what each kind strikes. -/
theorem cacheAndErrorWords : Obligations.CacheAndErrorWords := by
  unfold Obligations.CacheAndErrorWords
  intro s x w hi ha
  refine ⟨fun hops => ⟨?core, ?launch⟩, erriWords_refused hi ha, fun hyes => ⟨execErriRegc_counts hi ha hyes, execErriRegu_poisons hi ha hyes,
    execErriClone_marks hi ha hyes, fun hr => ⟨fun v boff hat => ⟨execErriCvc_counts hi ha hyes hr hat, execErriCvu_poisons hi ha hyes hr hat⟩,
      fun hlt b hb => execErriRes_corrupts hi ha hyes hr rfl hlt hb⟩⟩⟩
  case core =>
    obtain ⟨t, g, hexec, hstep, hmoves, hdrop⟩ := icinvWord_drops hi ha hops fun s x => [coreOf s x.w]
    exact ⟨t, g, hexec, hstep, hmoves, hdrop _ List.mem_cons_self⟩
  case launch =>
    obtain ⟨t, g, hexec, hstep, hmoves, hdrop⟩ := icinvWord_drops hi ha hops fun s x =>
      dedupNat ((s.wgs.filter (fun v => v.launch == x.l.id && !v.retired && !isSaved v)).map (coreOf s))
    refine ⟨t, g, hexec, hstep, hmoves, fun v hv hlaunch hretired hsaved => hdrop _ (mem_dedupNat.2 (List.mem_map_of_mem (List.mem_filter.2 ⟨hv, ?_⟩)))⟩
    simp [hlaunch, hretired, hsaved]

end Sys2Proof.Machine


/-! Barriers (R306-R308): BAR, BART and BARD, and the levels of the barrier tree (O27). -/
namespace Sys2Proof.Machine

/-! ## A commit leaves its groups nothing that a release waits for (R299) -/

/-- The workgroup stands as before but for its window. -/
def WindowOnly (w v : Workgroup) : Prop := v = { w with win := v.win, winPoison := v.winPoison }

theorem WindowOnly.refl (w : Workgroup) : WindowOnly w w := rfl

theorem WindowOnly.trans {u v w : Workgroup} (h : WindowOnly u v) (h' : WindowOnly v w) : WindowOnly u w := by
  unfold WindowOnly at *
  rw [h', h]

/-- `t` has the workgroups of `s`, but for their windows. -/
def KeepsSeats (s t : State) : Prop := ∀ id w, findWg s id = some w → ∃ v, findWg t id = some v ∧ WindowOnly w v

theorem keepsSeats_of_wgs {s t : State} (h : t.wgs = s.wgs) : KeepsSeats s t := fun id w hw => ⟨w, by rw [findWg, h]; exact hw, .refl w⟩

theorem KeepsSeats.trans {s t u : State} (h : KeepsSeats s t) (h' : KeepsSeats t u) : KeepsSeats s u := by
  intro id w hw
  obtain ⟨v, hv, hwv⟩ := h id w hw
  obtain ⟨z, hz, hvz⟩ := h' id v hv
  exact ⟨z, hz, hwv.trans hvz⟩

theorem keepsSeats_foldl {α : Type} (f : State → α → State) (hf : ∀ s a, KeepsSeats s (f s a)) (l : List α) (s : State) : KeepsSeats s (l.foldl f s) := by
  induction l generalizing s with
  | nil => exact keepsSeats_of_wgs rfl
  | cons a l ih => exact (hf s a).trans (ih (f s a))

theorem keepsSeats_locWrite (s : State) (l : Loc) (bs : List Byte) : KeepsSeats s (locWrite s l bs) := by
  intro id w hw
  by_cases h : ∃ b, l = .canvas id b
  case neg => exact ⟨w, by rw [findWg_locWrite_other s bs fun b e => h ⟨b, e⟩, hw], .refl w⟩
  case pos =>
    obtain ⟨b, rfl⟩ := h
    exact ⟨winWrite w b bs, by rw [findWg_locWrite_canvas, hw]; rfl, winWrite_frame w b bs⟩

theorem keepsSeats_commitEntry (s : State) (e : BufEntry) : KeepsSeats s (commitEntry s e) := by
  unfold commitEntry
  split
  · exact keepsSeats_locWrite s _ _
  · lift_lets
    intro n old
    split
    · exact keepsSeats_of_wgs rfl
    · exact keepsSeats_locWrite s _ _

theorem dropEntries_wgs (s : State) (wg : Nat) : (dropEntries s wg).wgs = s.wgs := by
  unfold dropEntries
  split
  · rfl
  split
  · rfl
  next l _ =>
    refine List.foldlRecOn (motive := fun t : State => t.wgs = s.wgs) _ _ rfl fun t ht e _ => ?_
    split
    · split
      · exact ht
      · exact ht
    · exact ht

/-- A commit leaves a workgroup its window, what its groups then hold, and an empty buffer. -/
theorem findWg_commitBuf {s : State} {wg : Nat} {w : Workgroup} (hw : findWg s wg = some w) : ∃ v, WindowOnly w v
    ∧ findWg (commitBuf s wg) wg = some { v with groups := w.groups.map commitGrp, chk := w.chk.map (fun c => { c with buf := [] }) } := by
  have hkeeps : KeepsSeats s (yieldServe ((bufOf s wg).foldl commitEntry (dropEntries s wg)) (bufPas s wg)) :=
    ((keepsSeats_of_wgs (dropEntries_wgs s wg)).trans (keepsSeats_foldl _ keepsSeats_commitEntry _ _)).trans
      (keepsSeats_of_wgs (yieldServe_onlyReads _ _).wgs)
  obtain ⟨v, hv, hwv⟩ := hkeeps wg w hw
  refine ⟨v, hwv, ?_⟩
  have hcommit : findWg (commitBuf s wg) wg = Option.map _ _ := findWg_modWg_same _ wg _ fun _ => rfl
  rw [hcommit, hv, hwv]
  rfl

/-- A buffered operation as the commit leaves it. -/
def committedOp (o : Op) : Op :=
  if o.kind == .load || o.ret then o
  else { o with accepted := true, accs := o.accs.map (fun a => if a.st == .performed then { a with st := .done } else a) }

theorem foldl_flagDec_frame (ops : List Op) (g : Group) : ops.foldl (fun g o => flagDec g o.flag) g = { g with f := (ops.foldl (fun g o => flagDec g o.flag) g).f } := by
  induction ops generalizing g with
  | nil => rfl
  | cons o r ih => rw [List.foldl_cons, ih, flagDec_frame]

/-- The commit changes flags and operations of a group alone: those that it leaves are not over. -/
theorem commitGrp_frame (g : Group) : ∃ f, commitGrp g = { g with f := f, ops := (g.ops.map committedOp).filter (fun o => !opOver o) } := by
  refine ⟨(commitGrp g).f, ?_⟩
  unfold commitGrp
  rw [finishGrp_eq, foldl_lowerFlag_frame, foldl_flagDec_frame]
  rfl

/-- No access of the group waits, on its own account or for a fault's reply. -/
def Quiet (g : Group) : Prop := ∀ o ∈ g.ops, ∀ a ∈ o.accs, a.st ≠ .todo ∧ heldAcc a = false

theorem quiet_of_idle {g : Group} (h : g.ops = []) : Quiet g := fun o ho => by rw [h] at ho; cases ho

theorem mem_committedOp_accs {o : Op} {a : Acc} (h : a ∈ (committedOp o).accs) : a ∈ o.accs ∨ a.st = .done := by
  unfold committedOp at h
  split at h
  · exact .inl h
  · obtain ⟨b, hb, rfl⟩ := List.mem_map.mp h
    split
    · exact .inr rfl
    · exact .inl hb

/-- An operation that no cut waits for, or what is left of which stands refused, has no access that waits. -/
theorem settled_of_not_blocks {g : Group} {o : Op} (h : ¬(blocksCut o = true ∧ refusedOp g o = false)) {a : Acc} (ha : a ∈ o.accs) :
    a.st = .performed ∨ a.st = .done ∨ a.st = .refused := by
  have hor : blocksCut o = false ∨ refusedOp g o = true := by
    rw [not_and_or, Bool.not_eq_true, Bool.not_eq_false] at h
    exact h
  rcases hor with hfree | hrefused
  · have hall : ∀ a ∈ o.accs, a.st = .performed ∨ a.st = .done := by cases hk : o.kind <;> simp_all [blocksCut]
    exact (hall a ha).imp_right .inl
  · simp only [refusedOp, Bool.and_eq_true, List.all_eq_true, Bool.or_eq_true, beq_iff_eq] at hrefused
    exact .inr (hrefused.2 a ha).symm

theorem quiet_of_cutReady {s : State} {w : Workgroup} (hcut : cutReady s w = true) {g : Group} (hg : g ∈ w.groups) : Quiet (commitGrp g) := by
  obtain ⟨f, hf⟩ := commitGrp_frame g
  simp only [cutReady, Bool.and_eq_true, List.all_eq_true, Bool.not_eq_true', List.any_eq_false] at hcut
  obtain ⟨⟨⟨⟨hgroups, -⟩, -⟩, -⟩, -⟩ := hcut
  obtain ⟨⟨-, hops⟩, -⟩ := hgroups g hg
  intro o ho a ha
  rw [hf] at ho
  obtain ⟨k, hk, rfl⟩ := List.mem_map.mp (List.mem_filter.mp ho).1
  have hst : a.st = .performed ∨ a.st = .done ∨ a.st = .refused :=
    (mem_committedOp_accs ha).elim (settled_of_not_blocks (hops k hk)) fun h => .inr (.inl h)
  rcases hst with h | h | h <;> simp [heldAcc, h]

/-! ## The gang where its barrier word is performed -/

/-- What the gang of a word with a cut finds where the word is performed: its own registers and sequencers, and nothing that waits. -/
structure Poised (x y : Ctx) : Prop where
  quiet : Quiet y.g
  vectors : y.g.v = x.g.v
  scalars : y.g.s = x.g.s
  quads : y.g.quads = x.g.quads
  launch : y.w.launch = x.w.launch
  team : teamNo y.w = teamNo x.w

theorem Cuts.poised {s b : State} {x y : Ctx} {fin : State → State} {gd : BitVec 3} (hi : Issues s gd x) (hidle : Idles x) (h : Cuts s x b y fin) :
    Poised x y := by
  cases hchk : x.w.chk with
  | none =>
    obtain ⟨-, rfl, -⟩ := h.plain hchk
    exact ⟨quiet_of_idle (hidle hchk), rfl, rfl, rfl, rfl, rfl⟩
  | some c =>
    obtain ⟨hready, rfl, -⟩ := h.cut (by simp [hchk])
    obtain ⟨v, hv, hfind⟩ := findWg_commitBuf hi.wg
    have hw := Option.some.inj (h.wg.symm.trans hfind)
    have hg : some y.g = some (commitGrp x.g) := by
      rw [← h.grp, hw, List.getElem?_map, hi.grp]
      rfl
    obtain ⟨f, hf⟩ := commitGrp_frame x.g
    have hquiet := quiet_of_cutReady hready (List.mem_of_getElem? (hi.grp))
    have hgroup : y.g = _ := (Option.some.inj hg).trans hf
    have hlaunch : y.w.launch = x.w.launch := by rw [hw, hv]
    have hteam : teamNo y.w = teamNo x.w := by rw [hw, hv]; rfl
    exact ⟨Option.some.inj hg ▸ hquiet, by rw [hgroup], by rw [hgroup], by rw [hgroup], hlaunch, hteam⟩

theorem prefixFor_of_performed {o : Op} (h : ∀ a ∈ o.accs, a.st ≠ .todo) (n : LMask) : prefixFor o n = 0 := by
  unfold prefixFor
  lift_lets
  intro hit
  have hnone : hit = [] := by
    refine List.filter_eq_nil_iff.mpr fun i _ => ?_
    cases hget : o.accs[i]? with
    | none => simp
    | some a => simp [h a (List.mem_of_getElem? hget)]
  rw [hnone]
  rfl

/-- Nothing of what is performed has to be performed first. -/
theorem closureGo_of_performed {ops : List Op} (h : ∀ o ∈ ops, ∀ a ∈ o.accs, a.st ≠ .todo) (n : LMask) : closureGo ops n = [] := by
  induction ops generalizing n with
  | nil => rfl
  | cons o r ih =>
    have hrest : ∀ m, closureGo r m = [] := ih fun k hk => h k (List.mem_cons_of_mem o hk)
    unfold closureGo
    simp [hrest, prefixFor_of_performed (h o List.mem_cons_self)]

theorem performGroup_of_quiet {b : State} {wg grp : Nat} {g : Group} (hg : findGrp b wg grp = some g) (hq : Quiet g) : performGroup b wg grp = b := by
  have hnone : ∀ n, closureGo (g.ops.takeWhile (fun o => o.id != b.nextId)).reverse n = [] := closureGo_of_performed fun o ho a ha =>
    (hq o (List.takeWhile_subset _ (List.mem_reverse.mp ho)) a ha).1
  simp [performGroup, performBefore, hg, hnone]

/-! ## Releasing one barrier leaves the gangs of another parked (R307) -/

/-- The quad keeps its live lanes, and where it is parked at a wait outside `e` it stays there. -/
def Stays (e : Park → Bool) (a b : Quad) : Prop :=
  b.live = a.live ∧ (a.live ≠ 0 → a.st = .parked → e a.park = false → b.st = .parked ∧ b.park = a.park)

/-- The quads of the group stay. -/
def QuadsStay (e : Park → Bool) (g h : Group) : Prop := ∀ q, Stays e (quadAt g q) (quadAt h q)

section
variable {e : Park → Bool}

theorem Stays.refl (a : Quad) : Stays e a a := ⟨rfl, fun _ hst _ => ⟨hst, rfl⟩⟩

theorem Stays.trans {a b c : Quad} (h : Stays e a b) (h' : Stays e b c) : Stays e a c := by
  refine ⟨h'.1.trans h.1, fun hl hst he => ?_⟩
  obtain ⟨hb, hp⟩ := h.2 hl hst he
  obtain ⟨hc, hp'⟩ := h'.2 (h.1 ▸ hl) hb (hp ▸ he)
  exact ⟨hc, hp'.trans hp⟩

theorem QuadsStay.refl (g : Group) : QuadsStay e g g := fun _ => .refl _

theorem QuadsStay.trans {g h k : Group} (h1 : QuadsStay e g h) (h2 : QuadsStay e h k) : QuadsStay e g k := fun q => (h1 q).trans (h2 q)

/-- A quad that is not parked with live lanes, and keeps them, stays. -/
theorem stays_of_live {a b : Quad} (h : b.live = a.live) (hst : a.st ≠ .parked ∨ a.live = 0) : Stays e a b :=
  ⟨h, fun hl hp => absurd hst (not_or.2 ⟨fun hn => hn hp, hl⟩)⟩

/-- Quads stay where each becomes one that stays. -/
theorem quadsStay_of_each {g h : Group} (F : Nat → Quad → Quad) (hquads : ∀ q, h.quads[q]? = (g.quads[q]?).map (F q))
    (hF : ∀ q, Stays e (quadAt g q) (F q (quadAt g q))) : QuadsStay e g h := by
  intro q
  have hstay := hF q
  simp only [quadAt, List.getD_eq_getElem?_getD, hquads] at hstay ⊢
  cases hq : g.quads[q]? with
  | none => exact .refl _
  | some a => simpa [hq] using hstay

theorem quadsStay_map {g : Group} (F : Quad → Quad) (hF : ∀ a, Stays e a (F a)) : QuadsStay e g { g with quads := g.quads.map F } :=
  quadsStay_of_each (fun _ => F) (fun _ => List.getElem?_map) fun _ => hF _

theorem getElem?_eachQuad (g : Group) (F : Nat → Quad → Quad) (q : Nat) :
    ((List.range g.quads.length).map (fun q => F q (quadAt g q)))[q]? = (g.quads[q]?).map (F q) := by
  by_cases h : q < g.quads.length
  · simp [h, quadAt]
  · simp [h]

theorem quadsStay_modQuads {g : Group} {m : QMask} {F : Quad → Quad} (hF : ∀ q, hasQuad m q = true → Stays e (quadAt g q) (F (quadAt g q))) :
    QuadsStay e g (modQuads g m F) :=
  quadsStay_of_each (fun q a => if hasQuad m q then F a else a) (getElem?_eachQuad g fun q a => if hasQuad m q then F a else a) fun q => by
    split
    next h => exact hF q h
    next => exact .refl _

theorem headerAct_keeps {q q' : Quad} (h : headerAct q = some q') : q'.live = q.live := by
  unfold headerAct resumePending at h
  grind

theorem headerRun_keeps (n : Nat) (q : Quad) : (headerRun n q).live = q.live := by
  induction n generalizing q with
  | zero => rfl
  | succ n ih =>
    unfold headerRun
    split
    next => rfl
    next q' hact => exact (ih q').trans (headerAct_keeps hact)

theorem quadsStay_actHeaders (g : Group) : QuadsStay e g (actHeaders g) := by
  refine quadsStay_map _ fun a => ?_
  split
  next h => exact stays_of_live (headerRun_keeps 24 a) (h.imp_left fun hrun hp => by rw [hp] at hrun; exact absurd hrun.1 (by decide))
  next => exact .refl a

/-- The gang that R118 releases held at its rejoin point. -/
theorem quadsStay_gangRelease {g k : Group} (hrel : gangRelease g = some k) : QuadsStay e g k := by
  unfold gangRelease at hrel
  dsimp only at hrel
  split at hrel
  · cases hrel
  next q hfind =>
  split at hrel
  · cases hrel
  next top below hstack =>
  cases hrel
  have hready := List.find?_some hfind
  simp only [hstack] at hready
  split at hready
  next hst he =>
    cases he
    refine quadsStay_modQuads fun p hp => stays_of_live rfl ?_
    have hp4 : p < 4 := by
      by_contra hge
      rw [hasQuad, BitVec.getLsbD_of_ge _ _ (by omega)] at hp
      cases hp
    rw [hasQuad_qmaskOf _ hp4, Bool.and_eq_true] at hp
    have hheld := List.all_eq_true.mp hready p (mem_quadsOf.mpr ⟨hp4, hp.1⟩)
    simp only [Bool.or_eq_true, beq_iff_eq, Bool.and_eq_true] at hheld
    exact hheld.elim .inr fun h => .inl (by rw [h.1.1]; decide)
  next => cases hready

theorem quadsStay_settleGo (n : Nat) (g : Group) : QuadsStay e g (settleGo n g) := by
  induction n generalizing g with
  | zero => exact .refl g
  | succ n ih =>
    rw [settleGo_succ]
    cases hrel : gangRelease (actHeaders g) with
    | none => exact quadsStay_actHeaders g
    | some k => exact ((quadsStay_actHeaders g).trans (quadsStay_gangRelease hrel)).trans (ih k)

theorem quadsStay_partGangs (g : Group) : QuadsStay e g (partGangs g) :=
  quadsStay_of_each _ (getElem?_eachQuad g fun q a => { a with gang := (quads4.find? (fun k =>
        let b := quadAt g k
        b.gang == a.gang && b.pc == a.pc && b.st == a.st && b.park == a.park && splitHeld g k == splitHeld g q)).getD q }) fun _ => .refl _

theorem quadsStay_mergeGangs (n : Nat) (g : Group) : QuadsStay e g (mergeGangs n g) := by
  induction n generalizing g with
  | zero => exact .refl g
  | succ n ih =>
    unfold mergeGangs
    split
    · exact .refl g
    · exact QuadsStay.trans (quadsStay_modQuads fun _ _ => .refl _) (ih _)

theorem quadsStay_settle (g : Group) : QuadsStay e g (settle g) :=
  ((quadsStay_settleGo 16 g).trans (quadsStay_partGangs _)).trans (quadsStay_mergeGangs 4 _)

theorem stays_unparkQuad (a : Quad) : Stays e a (unparkQuad e a) := by
  unfold unparkQuad
  split
  next h => exact ⟨rfl, fun _ _ he => absurd (he.symm.trans h.2) (by decide)⟩
  next => exact .refl a

/-- Gangs that wait for something else stay parked where the gangs that wait for `e` run on. -/
theorem quadsStay_unparkGrp (g : Group) : QuadsStay e g (unparkGrp e g) :=
  QuadsStay.trans (h := { g with quads := g.quads.map (unparkQuad e), ctx := g.ctx.map (unparkQuad e) })
    (quadsStay_of_each (fun _ => unparkQuad e) (fun _ => List.getElem?_map) fun _ => stays_unparkQuad _) (quadsStay_settle _)

end
/-- The quads that a release of `k` lets run, with those that stay. -/
theorem quadsStay_releaseBar (k : Park) (g : Group) : QuadsStay (fun p => p == k) g (releaseBar k g) := by
  unfold releaseBar
  split
  · exact quadsStay_unparkGrp { g with barArr := false, barN := g.barN + 1 }
  · exact quadsStay_unparkGrp { g with bartArr := false, bartN := g.bartN + 1 }
  · exact quadsStay_unparkGrp { g with bardArr := false, bardN := g.bardN + 1 }

theorem unparkGrp_frame (f : Park → Bool) (g : Group) : ∃ qs cs, unparkGrp f g = { g with quads := qs, ctx := cs } := by
  refine ⟨(unparkGrp f g).quads, g.ctx.map (unparkQuad f), ?_⟩
  unfold unparkGrp
  rw [settle_frame]

/-- A release of BAR ends the group's arrival, advances its count and lets quads run; nothing else of the group changes. -/
theorem releaseBar_bar_frame (g : Group) : ∃ qs cs, releaseBar .bar g = { g with barArr := false, barN := g.barN + 1, quads := qs, ctx := cs } :=
  unparkGrp_frame _ { g with barArr := false, barN := g.barN + 1 }

theorem liveOf_of_stay {e : Park → Bool} {g h : Group} (hs : QuadsStay e g h) (m : QMask) : liveOf h m = liveOf g m := by
  have hlive : ∀ q, (quadAt h q).live = (quadAt g q).live := fun q => (hs q).1
  simp only [liveOf, hlive]

theorem lanesEnded_releaseBar (g : Group) : lanesEnded (releaseBar .bar g) = lanesEnded g := by
  obtain ⟨qs, cs, hf⟩ := releaseBar_bar_frame g
  have hcounted : (releaseBar .bar g).counted = g.counted := by rw [hf]
  rw [lanesEnded, liveOf_of_stay (quadsStay_releaseBar .bar g), hcounted, lanesEnded]

/-! ## The workgroup whose BAR may be complete (R307) -/

theorem exitStands_releaseWg (w : Workgroup) (i : Nat) (g : Group) : exitStands (releaseWg .bar w) i (releaseBar .bar g) = exitStands w i g := by
  obtain ⟨qs, cs, hf⟩ := releaseBar_bar_frame g
  have hops : (releaseBar .bar g).ops = g.ops := by rw [hf]
  unfold exitStands
  rw [lanesEnded_releaseBar, hops, releaseWg]
  cases w.chk with
  | none => rfl
  | some c => simp only [Option.map_some, List.getElem?_map, Option.any_map, lanesEnded_releaseBar]

theorem arrivalStands_releaseBar (g : Group) : arrivalStands (releaseBar .bar g) = arrivalStands g := by
  obtain ⟨qs, cs, hf⟩ := releaseBar_bar_frame g
  rw [hf]
  rfl

/-- Every group counts: it has arrived, or its end does. -/
theorem allArrived_iff {f : Group → Bool} {w : Workgroup} : allArrived f w = true ↔
    ∀ k g, w.groups[k]? = some g → (f g && arrivalStands g) = true ∨ exitStands w k g = true := by
  simp only [allArrived, List.all_eq_true, List.mem_range]
  constructor
  · intro h k g hg
    have hk := h k (List.getElem?_eq_some_iff.mp hg).1
    simpa only [hg, Bool.or_eq_true] using hk
  · intro h k hk
    have hg := List.getElem?_eq_getElem hk
    simpa only [hg, Bool.or_eq_true] using h k _ hg

theorem allArrived_releaseWg {f : Group → Bool} (hf : ∀ g, f (releaseBar .bar g) = f g) (w : Workgroup) (h : allArrived f w = true) :
    allArrived f (releaseWg .bar w) = true := by
  refine allArrived_iff.mpr fun k g hg => ?_
  obtain ⟨g0, hg0, rfl⟩ := Option.map_eq_some_iff.mp (List.getElem?_map.symm.trans hg)
  rw [hf, arrivalStands_releaseBar, exitStands_releaseWg]
  exact allArrived_iff.mp h k g0 hg0

/-- The workgroup once BAR has been looked at. -/
def barChecked (w : Workgroup) : Workgroup := if w.groups.any (fun g => g.barArr) && allArrived Group.barArr w then releaseWg .bar w else w

theorem findWg_barCheck (s : State) (wg : Nat) : findWg (barCheck s wg) wg = (findWg s wg).map barChecked :=
  findWg_modWg_same s wg barChecked fun w => by unfold barChecked; split <;> rfl

/-- BAR passes by what has arrived at the other barriers. -/
theorem barChecked_keeps {f : Group → Bool} (hf : ∀ g, f (releaseBar .bar g) = f g) (w : Workgroup) :
    (barChecked w).launch = w.launch ∧ teamNo (barChecked w) = teamNo w ∧ (allArrived f w = true → allArrived f (barChecked w) = true)
      ∧ ((barChecked w).groups.any f = w.groups.any f) := by
  unfold barChecked
  split
  · refine ⟨rfl, rfl, allArrived_releaseWg hf w, ?_⟩
    have hcomp : f ∘ releaseBar .bar = f := funext hf
    rw [releaseWg, List.any_map, hcomp]
  · exact ⟨rfl, rfl, id, rfl⟩

theorem barChecked_get {w : Workgroup} {k : Nat} {g : Group} (hg : w.groups[k]? = some g) :
    ∃ h, (barChecked w).groups[k]? = some h ∧ (h = g ∨ h = releaseBar .bar g) := by
  unfold barChecked
  split
  · exact ⟨_, by rw [releaseWg, List.getElem?_map, hg]; rfl, .inr rfl⟩
  · exact ⟨g, hg, .inl rfl⟩

/-! ## The workgroup's arrival goes up the tree (R308) -/

/-- A workgroup's arrival at the barrier of `team`, where its groups have all arrived. -/
def sendOne (w : Workgroup) (wg : Nat) (s : State) (team : Option Nat) (f : Group → Bool) : State :=
  if w.groups.any f && allArrived f w && !s.arrivals.any (fun a => a.launch == w.launch && a.team == team && a.wg == wg) then
    { s with arrivals := s.arrivals ++ [{ launch := w.launch, team := team, wg := wg, level := 0, dies := barDies s w.launch team }] }
  else s

theorem sendArrival_of_found {s : State} {wg : Nat} {w : Workgroup} (hw : findWg s wg = some w) :
    sendArrival s wg = sendOne w wg (sendOne w wg s (some (teamNo w)) Group.bartArr) none Group.bardArr := by
  rw [sendArrival, hw]
  rfl

section
variable (w : Workgroup) (wg : Nat) (s : State) (team : Option Nat) (f : Group → Bool)

theorem sendOne_frame : sendOne w wg s team f = { s with arrivals := (sendOne w wg s team f).arrivals } := by
  unfold sendOne
  split <;> rfl

theorem sendOne_keeps {a : Arrival} (h : a ∈ s.arrivals) : a ∈ (sendOne w wg s team f).arrivals := by
  unfold sendOne
  split
  · exact List.mem_append_left _ h
  · exact h

theorem sendOne_sends (hany : w.groups.any f = true) (hall : allArrived f w = true) :
    ∃ a ∈ (sendOne w wg s team f).arrivals, a.launch = w.launch ∧ a.team = team ∧ a.wg = wg := by
  unfold sendOne
  rw [hany, hall, Bool.true_and, Bool.true_and]
  split
  · exact ⟨_, List.mem_append_right _ List.mem_cons_self, rfl, rfl, rfl⟩
  next h =>
    simp only [Bool.not_eq_true', Bool.not_eq_false, List.any_eq_true, Bool.and_eq_true, beq_iff_eq] at h
    obtain ⟨a, ha, ⟨hl, ht⟩, hwg⟩ := h
    exact ⟨a, ha, hl, ht, hwg⟩

end

theorem sendArrival_frame (s : State) (wg : Nat) : sendArrival s wg = { s with arrivals := (sendArrival s wg).arrivals } := by
  cases hw : findWg s wg with
  | none => simp [sendArrival, hw]
  | some w => rw [sendArrival_of_found hw, sendOne_frame, sendOne_frame]

theorem findWg_barriers (s : State) (wg : Nat) : findWg (barriers s wg) wg = (findWg s wg).map barChecked := by
  rw [barriers, sendArrival_frame, ← findWg_barCheck]
  rfl

theorem barriers_mem (s : State) (wg : Nat) : (barriers s wg).mem = s.mem := by
  rw [barriers, sendArrival_frame]
  rfl

/-- A workgroup all of whose groups have arrived at BART, or at BARD, has sent its arrival. -/
theorem barriers_sends {s : State} {wg : Nat} {w : Workgroup} (hw : findWg s wg = some w) (f : Group → Bool) (team : Option Nat)
    (hf : (f = Group.bartArr ∧ team = some (teamNo w)) ∨ (f = Group.bardArr ∧ team = none))
    (hany : w.groups.any f = true) (hall : allArrived f w = true) :
    ∃ a ∈ (barriers s wg).arrivals, a.launch = w.launch ∧ a.team = team ∧ a.wg = wg := by
  have hfound : findWg (barCheck s wg) wg = some (barChecked w) := by rw [findWg_barCheck, hw]; rfl
  have hrel : ∀ g, f (releaseBar .bar g) = f g := fun g => by
    obtain ⟨qs, cs, hframe⟩ := releaseBar_bar_frame g
    rcases hf with ⟨rfl, -⟩ | ⟨rfl, -⟩ <;> rw [hframe]
  obtain ⟨hl, ht, hkeepsAll, hkeepsAny⟩ := barChecked_keeps hrel w
  rw [barriers, sendArrival_of_found hfound, ht, ← hl]
  have hsend := fun s team => sendOne_sends (barChecked w) wg s team f (hkeepsAny.trans hany) (hkeepsAll hall)
  rcases hf with ⟨rfl, rfl⟩ | ⟨rfl, rfl⟩
  · obtain ⟨a, ha, h⟩ := hsend (barCheck s wg) (some (teamNo w))
    exact ⟨a, sendOne_keeps _ _ _ _ _ ha, h⟩
  · exact hsend _ none

/-! ## The barrier words (R306, R307) -/

/-- The group after its gang's arrival. -/
def arrivedGrp (mark : Nat) (c : Issue) (k : Park) (arrive : Group → Group) (g : Group) : Group := { arrive (parkGrp c k g) with arrMark := mark }

/-- `arrive` raises the arrival `f` of a group and leaves everything but its arrivals. -/
structure Arrives (f : Group → Bool) (arrive : Group → Group) : Prop where
  flag : ∀ g m, f { arrive g with arrMark := m } = true
  rest : ∀ g, arrive g = { g with barArr := (arrive g).barArr, bartArr := (arrive g).bartArr, bardArr := (arrive g).bardArr }

/-- The state where a barrier word is performed, once its gang has arrived. -/
def arrivedAt (b : State) (x : Ctx) (k : Park) (arrive : Group → Group) : State :=
  modGrp b x.c.wg x.c.grp (arrivedGrp b.nextId x.c k arrive)

/-- The issuing workgroup of `y` once the gang has arrived in `b`. -/
def arrivedWg (b : State) (x y : Ctx) (k : Park) (arrive : Group → Group) : Workgroup :=
  { y.w with groups := modifyAt y.w.groups x.c.grp (arrivedGrp b.nextId x.c k arrive) }

section
variable {s b : State} {x y : Ctx} {fin : State → State} {gd : BitVec 3} {k : Park} {arrive : Group → Group} {f : Group → Bool}

section
variable (hi : Issues s gd x) (hidle : Idles x) (hc : Cuts s x b y fin)
include hi hidle hc

/-- A barrier word arrives, and its barriers are looked at. -/
theorem barWord_arrives (ha : groupAct x ≠ 0) : barWord s x k arrive = fin (barriers (arrivedAt b x k arrive) x.c.wg) := by
  rw [barWord, if_neg ha]
  refine hc.withCut_ok hi.wg ?_
  rw [barArrive, performGroup_of_quiet (findGrp_of_get hc.wg hc.grp) (hc.poised hi hidle).quiet, ite_self]
  rfl

omit hi hidle in
theorem findWg_arrivedAt : findWg (arrivedAt b x k arrive) x.c.wg = some (arrivedWg b x y k arrive) := by
  rw [arrivedAt, findWg_modGrp_same, hc.wg]
  rfl

omit hi hidle in
theorem arrivedWg_get : (arrivedWg b x y k arrive).groups[x.c.grp]? = some (arrivedGrp b.nextId x.c k arrive y.g) := by
  rw [arrivedWg, getElem?_modifyAt_same, hc.grp]
  rfl

omit hi hidle hc in
theorem arrivedWg_get_other {n : Nat} (h : n ≠ x.c.grp) : (arrivedWg b x y k arrive).groups[n]? = y.w.groups[n]? := getElem?_modifyAt_other _ _ h

/-- The gang's own group has arrived with all that it accessed performed. -/
theorem arrivedGrp_stands (hf : Arrives f arrive) :
    (f (arrivedGrp b.nextId x.c k arrive y.g) && arrivalStands (arrivedGrp b.nextId x.c k arrive y.g)) = true := by
  have hquiet := (hc.poised hi hidle).quiet
  have hops : (arrivedGrp b.nextId x.c k arrive y.g).ops = y.g.ops := by rw [arrivedGrp, hf.rest]; rfl
  have hflag : f (arrivedGrp b.nextId x.c k arrive y.g) = true := hf.flag _ _
  rw [hflag, Bool.true_and, arrivalStands, hops, Bool.not_eq_true', List.any_eq_false]
  intro o ho
  have hnone : o.accs.any (fun a => (a.st == .todo && !isPeer a.loc) || heldAcc a) = false := List.any_eq_false.mpr fun a ha => by
    simp [hquiet o ho a ha]
  simp [hnone]

/-- Where every other group has arrived or ended, the workgroup's arrival is complete. -/
theorem arrivedWg_all (hf : Arrives f arrive)
    (hothers : ∀ n g, n ≠ x.c.grp → y.w.groups[n]? = some g → (f g = true ∧ arrivalStands g = true) ∨ exitStands y.w n g = true) :
    (arrivedWg b x y k arrive).groups.any f = true ∧ allArrived f (arrivedWg b x y k arrive) = true := by
  have hmine := arrivedWg_get hc (k := k) (arrive := arrive)
  refine ⟨List.any_eq_true.mpr ⟨_, List.mem_of_getElem? hmine, hf.flag _ _⟩, allArrived_iff.mpr fun n g hg => ?_⟩
  by_cases hn : n = x.c.grp
  · subst hn
    cases hmine.symm.trans hg
    exact .inl (arrivedGrp_stands hi hidle hc hf)
  · rw [arrivedWg_get_other hn] at hg
    exact (hothers n g hn hg).imp_left fun h => Bool.and_eq_true_iff.mpr h

omit hi hidle hc in
/-- Where some other group has neither arrived nor ended, it is not. -/
theorem arrivedWg_waits
    (hwaits : ∃ n g, n ≠ x.c.grp ∧ y.w.groups[n]? = some g ∧ ¬(f g = true ∧ arrivalStands g = true) ∧ exitStands y.w n g = false) :
    allArrived f (arrivedWg b x y k arrive) = false := by
  obtain ⟨n, g, hn, hg, harr, hexit⟩ := hwaits
  refine Bool.eq_false_iff.mpr fun hall => ?_
  rcases allArrived_iff.mp hall n g ((arrivedWg_get_other hn).trans hg) with h | h
  · exact harr (Bool.and_eq_true_iff.mp h)
  · exact Bool.false_ne_true (hexit.symm.trans h)

/-- The gang that has arrived stands parked. -/
theorem arrivedGrp_parked (hf : Arrives f arrive) {q : Nat} (hq : q < x.g.quads.length) (hm : hasQuad x.c.quads q = true) (hl : (quadAt x.g q).live ≠ 0) :
    let a := quadAt (arrivedGrp b.nextId x.c k arrive y.g) q
    a.live ≠ 0 ∧ a.st = .parked ∧ a.park = k := by
  have hquads : (arrivedGrp b.nextId x.c k arrive y.g).quads = (parkGrp x.c k y.g).quads := by rw [arrivedGrp, hf.rest]
  have hsame := (hc.poised hi hidle).quads
  have hat : quadAt y.g q = quadAt x.g q := by rw [quadAt, hsame, quadAt]
  dsimp only
  rw [quadAt_congr hquads, parkGrp, quadAt_modQuads _ _ _ _ (hsame ▸ hq), if_pos hm, hat]
  dsimp only
  rw [if_neg hl]
  exact ⟨hl, rfl, rfl⟩

/-- What BART and BARD do: the gang parks, whatever becomes of BAR, and a complete arrival goes up. -/
theorem treeWord_arrives (hf : Arrives f arrive) (hk : k ≠ .bar) (hrel : ∀ g, f (releaseBar .bar g) = f g) (team : Option Nat)
    (hteam : (f = Group.bartArr ∧ team = some (teamNo x.w)) ∨ (f = Group.bardArr ∧ team = none)) :
    let t := barriers (arrivedAt b x k arrive) x.c.wg
    ∃ g, findGrp t x.c.wg x.c.grp = some g ∧ f g = true
      ∧ (∀ q, q < x.g.quads.length → hasQuad x.c.quads q = true → (quadAt x.g q).live ≠ 0 → (quadAt g q).st = .parked ∧ (quadAt g q).park = k)
      ∧ g.v = x.g.v
      ∧ ((∀ n g, n ≠ x.c.grp → y.w.groups[n]? = some g → (f g = true ∧ arrivalStands g = true) ∨ exitStands y.w n g = true) →
        ∃ a ∈ t.arrivals, a.launch = x.w.launch ∧ a.team = team ∧ a.wg = x.c.wg) := by
  have hp := hc.poised hi hidle
  have hfound := findWg_arrivedAt hc (k := k) (arrive := arrive)
  obtain ⟨g, hg, hcase⟩ := barChecked_get (arrivedWg_get hc (k := k) (arrive := arrive))
  have hvec : (arrivedGrp b.nextId x.c k arrive y.g).v = x.g.v := by rw [arrivedGrp, hf.rest]; exact hp.vectors
  have hfind : findGrp (barriers (arrivedAt b x k arrive) x.c.wg) x.c.wg x.c.grp = some g := by
    rw [findGrp, findWg_barriers, hfound]
    exact hg
  have hkeep : f g = true ∧ g.v = x.g.v ∧ QuadsStay (fun p => p == .bar) (arrivedGrp b.nextId x.c k arrive y.g) g := by
    rcases hcase with rfl | rfl
    · exact ⟨hf.flag _ _, hvec, .refl _⟩
    · obtain ⟨qs, cs, hframe⟩ := releaseBar_bar_frame (arrivedGrp b.nextId x.c k arrive y.g)
      exact ⟨(hrel _).trans (hf.flag _ _), by rw [hframe]; exact hvec, quadsStay_releaseBar .bar _⟩
  obtain ⟨hflag, hv, hstay⟩ := hkeep
  refine ⟨g, hfind, hflag, fun q hq hm hl => ?_, hv, fun hothers => ?_⟩
  · obtain ⟨hlive, hst, hpark⟩ := arrivedGrp_parked hi hidle hc hf hq hm hl (k := k)
    obtain ⟨hst', hpark'⟩ := (hstay q).2 hlive hst (by rw [hpark]; exact beq_eq_false_iff_ne.mpr hk)
    exact ⟨hst', hpark'.trans hpark⟩
  · obtain ⟨hany, hall⟩ := arrivedWg_all hi hidle hc hf hothers (k := k)
    have hsends := barriers_sends hfound f team (by rw [← hp.team] at hteam; exact hteam) hany hall
    rw [show (arrivedWg b x y k arrive).launch = x.w.launch from hp.launch] at hsends
    exact hsends

/-- BAR while another group is still to come: the gang is parked at it. -/
theorem bar_waits (hf : Arrives Group.barArr arrive)
    (hwaits : ∃ n g, n ≠ x.c.grp ∧ y.w.groups[n]? = some g ∧ ¬(g.barArr = true ∧ arrivalStands g = true) ∧ exitStands y.w n g = false) :
    ∃ g, findGrp (barriers (arrivedAt b x .bar arrive) x.c.wg) x.c.wg x.c.grp = some g ∧ g.barArr = true
      ∧ (∀ q, q < x.g.quads.length → hasQuad x.c.quads q = true → (quadAt x.g q).live ≠ 0 → (quadAt g q).st = .parked ∧ (quadAt g q).park = .bar)
      ∧ g.v = x.g.v ∧ g.s = x.g.s := by
  have hp := hc.poised hi hidle
  have hstays : barChecked (arrivedWg b x y .bar arrive) = arrivedWg b x y .bar arrive := by
    rw [barChecked, arrivedWg_waits hwaits, Bool.and_false, if_neg Bool.false_ne_true]
  refine ⟨arrivedGrp b.nextId x.c .bar arrive y.g, ?_, hf.flag _ _, fun q hq hm hl => (arrivedGrp_parked hi hidle hc hf hq hm hl).2, ?_, ?_⟩
  · rw [findGrp, findWg_barriers, findWg_arrivedAt hc]
    exact (congrArg (fun w : Workgroup => w.groups[x.c.grp]?) hstays).trans (arrivedWg_get hc)
  · rw [arrivedGrp, hf.rest]; exact hp.vectors
  · rw [arrivedGrp, hf.rest]; exact hp.scalars

/-- BAR of the last group: every group is released. -/
theorem bar_releases (hf : Arrives Group.barArr arrive)
    (hothers : ∀ n g, n ≠ x.c.grp → y.w.groups[n]? = some g → (g.barArr = true ∧ arrivalStands g = true) ∨ exitStands y.w n g = true) :
    ∀ n g, findGrp (barriers (arrivedAt b x .bar arrive) x.c.wg) x.c.wg n = some g →
      g.barArr = false ∧ (∃ g0, findGrp b x.c.wg n = some g0 ∧ g.barN = g0.barN + 1 ∧ g.v = g0.v) ∧ ∀ q ∈ g.quads, ¬(q.st = .parked ∧ q.park = .bar) := by
  obtain ⟨hany, hall⟩ := arrivedWg_all hi hidle hc hf hothers (k := .bar)
  have hreleased : barChecked (arrivedWg b x y .bar arrive) = releaseWg .bar (arrivedWg b x y .bar arrive) := by
    rw [barChecked, hany, hall]
    rfl
  intro n g hg
  rw [findGrp, findWg_barriers, findWg_arrivedAt hc, Option.map_some, hreleased] at hg
  obtain ⟨h, hh, rfl⟩ := Option.map_eq_some_iff.mp (List.getElem?_map.symm.trans hg)
  have hbefore : ∃ g0, y.w.groups[n]? = some g0 ∧ h.barN = g0.barN ∧ h.v = g0.v := by
    by_cases hn : n = x.c.grp
    · subst hn
      cases (arrivedWg_get hc).symm.trans hh
      exact ⟨y.g, hc.grp, by rw [arrivedGrp, hf.rest]; rfl, by rw [arrivedGrp, hf.rest]; rfl⟩
    · exact ⟨h, (arrivedWg_get_other hn).symm.trans hh, rfl, rfl⟩
  obtain ⟨g0, hg0, hn0, hv0⟩ := hbefore
  obtain ⟨qs, cs, hframe⟩ := releaseBar_bar_frame h
  refine ⟨by rw [hframe], ⟨g0, findGrp_of_get hc.wg hg0, by rw [hframe, ← hn0], by rw [hframe, ← hv0]⟩, fun q hq hw => ?_⟩
  exact noneWaits_unparkGrp (f := fun p => p == .bar) { h with barArr := false, barN := h.barN + 1 } q hq ⟨hw.1, beq_iff_eq.mpr hw.2⟩

end

end

theorem arrives_bar : Arrives Group.barArr (fun g => { g with barArr := true }) := ⟨fun _ _ => rfl, fun _ => rfl⟩

theorem arrives_bart : Arrives Group.bartArr (fun g => { g with bartArr := true }) := ⟨fun _ _ => rfl, fun _ => rfl⟩

theorem arrives_bard : Arrives Group.bardArr (fun g => { g with bardArr := true }) := ⟨fun _ _ => rfl, fun _ => rfl⟩

theorem holdSplit_none {s : State} {x : Ctx} (h : ∀ q, hasQuad x.c.quads q = true → inSplit x.g q = false) : holdSplit s x = none := by
  have hout : (quadsOf x.c.quads).any (inSplit x.g) = false := List.any_eq_false.mpr fun q hq => by simp [h q (mem_quadsOf.mp hq).2]
  rw [holdSplit, hout]
  rfl

section
variable {s : State} {x : Ctx} {w : FmtY} (hi : Issues s w.g x)
include hi

theorem execBar_of_unsplit (h : ∀ q, hasQuad x.c.quads q = true → inSplit x.g q = false) :
    exec (.bar w) s = .next (barWord s x .bar (fun g => { g with barArr := true })) := by
  have hexec : execBar w s = _ := withCtx_next hi _
  rw [holdSplit_none h] at hexec
  exact hexec

theorem execBart_next : exec (.bart w) s = .next (barWord s x .bart (fun g => { g with bartArr := true })) := by
  have hexec : execBart w s = _ := withCtx_next hi _
  exact hexec

theorem execBard_of_fits (h : (groupAct x != 0 && !isCoop x.l) = false) :
    exec (.bard w) s = .next (barWord s x .bard (fun g => { g with bardArr := true })) := by
  have hexec : execBard w s = _ := withCtx_next hi _
  rw [h] at hexec
  exact hexec

/-- BART and BARD of a gang without counted lanes in ACTIVE let it go on. -/
theorem barWords_idle (ha : groupAct x = 0) :
    ∀ o ∈ [exec (.bart w) s, exec (.bard w) s], ∃ t g, o = .next t ∧ GroupStep s t x g ∧ OnlyMoves x g := by
  have hmoves : ∀ k f, barWord s x k f = advance s x.c := fun k f => if_pos ha
  simp only [List.forall_mem_cons, List.not_mem_nil, false_implies, implies_true, and_true]
  rw [execBart_next hi, execBard_of_fits hi (by rw [ha]; rfl), hmoves, hmoves]
  exact ⟨⟨_, _, rfl, advance_step hi⟩, ⟨_, _, rfl, advance_step hi⟩⟩

theorem execBard_traps (ha : groupAct x ≠ 0) (hcoop : isCoop x.l = false) (hr : TrapReady x) :
    Traps s x (exec (.bard w) s) (Trap.at x.c .badBarrier 0 (x.act &&& x.g.counted)) := by
  have hexec : execBard w s = _ := withCtx_next hi _
  rw [if_pos (by simpa [hcoop] using ha), trapOr, predicted_of_sure hr.sure, if_neg Bool.false_ne_true] at hexec
  obtain ⟨g, hstep, hin⟩ := raise_enters hi hr (Trap.at x.c .badBarrier 0 (x.act &&& x.g.counted))
  exact ⟨_, g, hexec, hstep, hin⟩

end

/-! ## A level of the tree (R308) -/

section
variable {s : State}

/-- A workgroup of the barrier, as the tree's release leaves it. -/
theorem findWg_releaseTree {launch : Nat} {team : Option Nat} {w : Workgroup} (hm : w ∈ barMembers s launch team) (hw : findWg s w.id = some w) :
    findWg (releaseTree s launch team) w.id = some (releaseWg (if team.isSome then .bart else .bard) w) := by
  simp only [barMembers, List.mem_filter, Bool.and_eq_true, beq_iff_eq] at hm
  obtain ⟨-, ⟨hl, -⟩, ht⟩ := hm
  have hmap : ∀ (l : List Workgroup) (F : Workgroup → Workgroup), (∀ v, (F v).id = v.id) →
      (l.map F).find? (fun v => v.id == w.id) = (l.find? (fun v => v.id == w.id)).map F := fun l F hF => by
    rw [List.find?_map]
    simp only [Function.comp_def, hF]
  have hkeep : ∀ v : Workgroup, (if v.launch == launch && (team.isNone || team == some (teamNo v)) then releaseWg (if team.isSome then .bart else .bard) v else v).id = v.id :=
    fun v => by split <;> rfl
  have hfind : findWg (releaseTree s launch team) w.id = Option.map _ _ := hmap s.wgs _ hkeep
  rw [hfind, show s.wgs.find? (fun v => v.id == w.id) = some w from hw, Option.map_some]
  cases team with
  | none => simp [hl]
  | some t => simp [hl, eq_of_beq ht]

/-- `t` is `s` with the barrier's arrivals gone and its members released. -/
theorem releaseTree_releases {launch : Nat} {team : Option Nat} : let t := releaseTree s launch team
    t.mem = s.mem ∧ (∀ a ∈ t.arrivals, ¬(a.launch = launch ∧ a.team = team))
      ∧ ∀ w ∈ barMembers s launch team, findWg s w.id = some w → findWg t w.id = some (releaseWg (if team.isSome then .bart else .bard) w) :=
  ⟨rfl, fun a ha hsame => by simpa [hsame.1, hsame.2] using (List.mem_filter.mp ha).2, fun _ => findWg_releaseTree⟩

end

/-- The die of a barrier's member, and whether the die, hub or package `unit` acts for it at a level. -/
def memberDie (s : State) (launch : Nat) (team : Option Nat) (w : Workgroup) : Nat := (assoc? (barDies s launch team) w.id).getD (dieOf s w.lcore)
def inUnit (s : State) (launch : Nat) (team : Option Nat) (level unit : Nat) (w : Workgroup) : Bool :=
  match level with
  | 0 => memberDie s launch team w == unit
  | 1 => if team.isSome then nearestHub ((barDies s launch team).foldl (fun d e => min d e.2) 31) == unit else nearestHub (memberDie s launch team w) == unit
  | _ => unit == 0

/-- The unit's members have all passed the level, and no member of the barrier is saved. -/
def unitReady (s : State) (launch : Nat) (team : Option Nat) (level unit : Nat) : Bool :=
  let mine := (barMembers s launch team).filter (inUnit s launch team level unit)
  !mine.isEmpty && !(barMembers s launch team).any isSaved && mine.all (fun w => decide (level < arrivalLevel s launch team w.id))

/-- A team's barrier ends at the die that all its members stood on, or at a hub. -/
def endsHere (s : State) (launch : Nat) (team : Option Nat) (level unit : Nat) : Bool :=
  team.isSome && ((level == 0 && (barDies s launch team).all (fun e => e.2 == unit)) || level == 1)

section
variable (s : State) (launch : Nat) (team : Option Nat) (level unit : Nat)

theorem combine_eq : combine s launch team level unit
    = if !unitReady s launch team level unit then s
      else if endsHere s launch team level unit then releaseTree s launch team
      else if 2 ≤ level then (if allPlaced s launch team then releaseTree s launch team else s)
      else { s with arrivals := s.arrivals.map (fun a =>
        if a.launch = launch ∧ a.team = team ∧ a.level = level ∧ ((barMembers s launch team).filter (inUnit s launch team level unit)).any (fun w => w.id == a.wg)
        then { a with level := level + 1 } else a) } := by
  rcases level with _ | _ | n <;> rfl

variable {s launch team level unit}

theorem combine_of_unready (h : unitReady s launch team level unit = false) : combine s launch team level unit = s := by
  rw [combine_eq, h]
  rfl

theorem combine_of_ends (h : unitReady s launch team level unit = true) (he : endsHere s launch team level unit = true) :
    combine s launch team level unit = releaseTree s launch team := by
  rw [combine_eq, h, he]
  rfl

theorem combine_at_package (h : unitReady s launch none 2 unit = true) :
    combine s launch none 2 unit = if allPlaced s launch none then releaseTree s launch none else s := by
  rw [combine_eq, h]
  rfl

/-- Where the barrier goes on, the unit's arrivals go one level up. -/
theorem combine_goes_up (h : unitReady s launch team level unit = true) (he : endsHere s launch team level unit = false) (hl : level < 2) :
    combine s launch team level unit = { s with arrivals := s.arrivals.map (fun a =>
        if a.launch = launch ∧ a.team = team ∧ a.level = level ∧ (barMembers s launch team).any (fun w => w.id == a.wg && inUnit s launch team level unit w)
        then { a with level := level + 1 } else a) } := by
  rw [combine_eq, h, he, if_neg (by decide), if_neg Bool.false_ne_true, if_neg (by omega)]
  simp only [List.any_filter, Bool.and_comm]

theorem unitReady_of_passed (hsaved : ∀ w ∈ barMembers s launch team, isSaved w = false)
    (hsome : ∃ w ∈ barMembers s launch team, inUnit s launch team level unit w = true)
    (hpass : ∀ w ∈ barMembers s launch team, inUnit s launch team level unit w = true → level < arrivalLevel s launch team w.id) :
    unitReady s launch team level unit = true := by
  obtain ⟨w, hw, hin⟩ := hsome
  have hmine : (barMembers s launch team).filter (inUnit s launch team level unit) ≠ [] := List.ne_nil_of_mem (List.mem_filter.mpr ⟨hw, hin⟩)
  have hnone : (barMembers s launch team).any isSaved = false := List.any_eq_false.mpr fun v hv => by simp [hsaved v hv]
  simp only [unitReady, hnone, Bool.and_eq_true, Bool.not_eq_true', List.isEmpty_eq_false_iff, List.all_eq_true, List.mem_filter, decide_eq_true_eq]
  exact ⟨⟨hmine, trivial⟩, fun v hv => hpass v hv.1 hv.2⟩

theorem not_unitReady_of_saved (h : ∃ w ∈ barMembers s launch team, isSaved w = true) : unitReady s launch team level unit = false := by
  have hany : (barMembers s launch team).any isSaved = true := List.any_eq_true.mpr h
  simp only [unitReady, hany, Bool.not_true, Bool.and_false, Bool.false_and]

theorem not_unitReady_of_late (h : ∃ w ∈ barMembers s launch team, ¬level < arrivalLevel s launch team w.id ∧ inUnit s launch team level unit w = true) :
    unitReady s launch team level unit = false := by
  obtain ⟨w, hw, hlate, hin⟩ := h
  refine Bool.and_eq_false_imp.mpr fun _ => List.all_eq_false.mpr ⟨w, List.mem_filter.mpr ⟨hw, hin⟩, by simpa using hlate⟩

end

/-! ## The clauses put together -/

/-- Settles O27: each barrier word in the state its cut leaves, with what the release or the arrival does to the workgroup, and the tree
level by level. -/
theorem barrierWords : Obligations.BarrierWords := by
  unfold Obligations.BarrierWords
  refine ⟨fun s x w b y fin hi ha hidle hc hsplit => ?words, fun s x w hi => ⟨barWords_idle hi, execBard_traps hi⟩, fun s => ?tree⟩
  case words =>
    have hnext : ∀ k arrive, barWord s x k arrive = fin (barriers (arrivedAt b x k arrive) x.c.wg) := fun k arrive => barWord_arrives hi hidle hc ha
    have hmem : ∀ k arrive, (barriers (arrivedAt b x k arrive) x.c.wg).mem = b.mem := fun k arrive => barriers_mem _ _
    refine ⟨fun hwaits => ?_, fun hothers => ?_, ?_, fun hcoop => ?_⟩
    · obtain ⟨g, hfind, harr, hparked, hv, hs⟩ := bar_waits hi hidle hc arrives_bar hwaits
      exact ⟨_, g, by rw [execBar_of_unsplit hi hsplit, hnext], hfind, harr, hparked, hv, hs, hmem _ _⟩
    · exact ⟨_, by rw [execBar_of_unsplit hi hsplit, hnext], hmem _ _, bar_releases hi hidle hc arrives_bar hothers⟩
    · obtain ⟨g, h⟩ := treeWord_arrives hi hidle hc (k := .bart) arrives_bart (by decide) (fun g => by obtain ⟨qs, cs, hf⟩ := releaseBar_bar_frame g; rw [hf]) _
        (.inl ⟨rfl, rfl⟩)
      exact ⟨_, g, by rw [execBart_next hi, hnext], h⟩
    · obtain ⟨g, h⟩ := treeWord_arrives hi hidle hc (k := .bard) arrives_bard (by decide) (fun g => by obtain ⟨qs, cs, hf⟩ := releaseBar_bar_frame g; rw [hf]) _
        (.inr ⟨rfl, rfl⟩)
      exact ⟨_, g, by rw [execBard_of_fits hi (by rw [hcoop, Bool.not_true, Bool.and_false]), hnext], h⟩
  case tree =>
    intro team ms dies die low passed released up
    have hnone : s.arg.b = 0 → team = none := fun hb => if_pos hb
    have hsome : s.arg.b ≠ 0 → team.isSome = true := fun hb => by simp only [team, if_neg hb, Option.isSome_some]
    have hreleases : ∀ k, (if team.isSome then Park.bart else Park.bard) = k → combine s s.arg.a team s.arg.c s.arg.d = releaseTree s s.arg.a team → released k := by
      rintro k rfl h
      exact ⟨_, congrArg Host.Outcome.next h, releaseTree_releases⟩
    have hup : ∀ mine : Workgroup → Bool, s.arg.c < 2 → inUnit s s.arg.a team s.arg.c s.arg.d = mine →
        unitReady s s.arg.a team s.arg.c s.arg.d = true → endsHere s s.arg.a team s.arg.c s.arg.d = false → up mine := by
      rintro mine hl rfl hready hgoes
      exact ⟨_, congrArg Host.Outcome.next (combine_goes_up hready hgoes hl), rfl, rfl⟩
    refine ⟨fun hsaved => congrArg Host.Outcome.next (combine_of_unready (not_unitReady_of_saved hsaved)),
      fun hsaved => ⟨fun hb hne hpass hunit => ?team, fun hl hmem hgoes hpass => ?dies, fun hb hl hmem hpass => ?hubs, fun hb hl hd hne hpass => ?package,
        fun hlate => ?late⟩⟩
    case team =>
      obtain ⟨v, hv⟩ := List.exists_mem_of_ne_nil ms hne
      refine hreleases _ (if_pos (hsome hb)) ?_
      rcases hunit with ⟨hl, hone, u, hu, hdie⟩ | ⟨hl, hhub⟩
      · refine combine_of_ends (unitReady_of_passed hsaved ⟨u, hu, ?_⟩ fun w hw _ => hpass w hw) ?_
        · rw [hl]
          exact beq_iff_eq.mpr hdie
        · have hall : dies.all (fun e => e.2 == s.arg.d) = true := List.all_eq_true.mpr fun e he => beq_iff_eq.mpr (hone e he)
          rw [endsHere, hsome hb, hl, show (barDies s s.arg.a team).all (fun e => e.2 == s.arg.d) = true from hall]
          rfl
      · refine combine_of_ends (unitReady_of_passed hsaved ⟨v, hv, ?_⟩ fun w hw _ => hpass w hw) ?_
        · rw [hl, inUnit, if_pos (hsome hb)]
          exact beq_iff_eq.mpr hhub
        · rw [endsHere, hsome hb, hl]
          rfl
    case dies =>
      have hin : inUnit s s.arg.a team s.arg.c s.arg.d = fun w => die w == s.arg.d := by rw [hl]; rfl
      obtain ⟨v, hv, hdie⟩ := hmem
      refine hup _ (by omega) hin (unitReady_of_passed hsaved ⟨v, hv, ?_⟩ fun w hw hu => hpass w hw ?_) ?_
      · rw [hin]
        exact beq_iff_eq.mpr hdie
      · rw [hin] at hu
        exact eq_of_beq hu
      · rw [endsHere, hl]
        rcases hgoes with hb | ⟨e, he, hother⟩
        · rw [hnone hb]
          rfl
        · have hall : (barDies s s.arg.a team).all (fun e => e.2 == s.arg.d) = false := List.all_eq_false.mpr ⟨e, he, by simpa using hother⟩
          rw [hall]
          exact Bool.and_false _
    case hubs =>
      have hin : inUnit s s.arg.a team s.arg.c s.arg.d = fun w => nearestHub (die w) == s.arg.d := by
        funext w
        rw [hl, inUnit, if_neg (by rw [hnone hb]; decide)]
        rfl
      obtain ⟨v, hv, hhub⟩ := hmem
      refine hup _ (by omega) hin (unitReady_of_passed hsaved ⟨v, hv, ?_⟩ fun w hw hu => hpass w hw ?_) (by rw [endsHere, hnone hb]; rfl)
      · rw [hin]
        exact beq_iff_eq.mpr hhub
      · rw [hin] at hu
        exact eq_of_beq hu
    case package =>
      obtain ⟨v, hv⟩ := List.exists_mem_of_ne_nil ms hne
      have hready : unitReady s s.arg.a team s.arg.c s.arg.d = true :=
        unitReady_of_passed hsaved ⟨v, hv, by rw [hl]; exact beq_iff_eq.mpr hd⟩ fun w hw _ => hpass w hw
      have hat : combine s s.arg.a team s.arg.c s.arg.d = if allPlaced s s.arg.a team then releaseTree s s.arg.a team else s := by
        rw [hl, hnone hb] at hready ⊢
        exact combine_at_package hready
      exact ⟨fun hall => hreleases _ (by rw [hnone hb]; rfl) (hat.trans (if_pos hall)),
        fun hall => congrArg Host.Outcome.next (hat.trans (if_neg (by rw [hall]; decide)))⟩
    case late =>
      obtain ⟨w, hw, hnot, hin⟩ := hlate
      refine congrArg Host.Outcome.next (combine_of_unready (not_unitReady_of_late ⟨w, hw, hnot, ?_⟩))
      split at hin
      next hl => rw [hl]; exact beq_iff_eq.mpr hin
      next hl =>
        rw [hl, inUnit]
        split at hin
        next hb => rw [if_neg (by simp [hb])]; exact beq_iff_eq.mpr hin
        next hb => rw [if_pos (hsome hb)]; exact beq_iff_eq.mpr hin
      next h0 h1 => rw [inUnit]; exacts [beq_iff_eq.mpr hin, h0, h1]
end Sys2Proof.Machine

/-! Frame and rod words (R268, R271-R274): each word of a running call, by the check that it passes and the rods, memory or flow that it
changes (O42). -/
namespace Sys2Proof.Machine

/-! ## Which way a word goes (R272) -/

section
variable {s : State} {c : Call} {i : Instr} {bad act : Bool} {f : Call → RodRes}

theorem RodFree.here (h : RodFree s c i) : findCall s c.id = some c := by
  obtain ⟨id, -, hid⟩ := Option.bind_eq_some_iff.mp h.cur
  rwa [findCall_id hid]

/-- A word that its own fields make BAD_CODE. -/
theorem rodWord_badCode (hcur : s.curCall.bind (findCall s) = some c) (h : (rodUnused i || bad) = true) : CallStops s c (rodWord s i bad act f) 5 c.fpc := by
  obtain ⟨id, -, hid⟩ := Option.bind_eq_some_iff.mp hcur
  have hhere : findCall s c.id = some c := by rwa [findCall_id hid]
  rw [rodWord, withCall_next hcur, if_pos h]
  exact endCall_stops hhere 5 c.fpc

variable (h : RodFree s c i) (hbad : bad = false)
include h hbad

theorem rodWord_stops {s1 : State} {st : Nat} {d : Option Nat} (hs : findCall s1 c.id = some c) (hf : f c = .stop s1 st d) :
    CallStops s1 c (rodWord s i bad act f) st (d.getD c.fpc) := by
  subst hbad
  rw [rodWord_stop h f hf]
  exact endCall_stops hs _ _

theorem rodWord_stalls {pas : List Nat} (hf : f c = .stall pas) : rodWord s i bad act f = .next (callWaits s c.id pas) := by
  subst hbad
  simp [rodWord, withCall_next h.cur, h.unused, hf]

theorem rodWord_jumps {s1 : State} {t : Nat} (hf : f c = .jump s1 t) : rodWord s i bad act f = .next (rodNext s1 c.id t act) := by
  subst hbad
  simp [rodWord, withCall_next h.cur, h.unused, hf]

theorem rodWord_goes {s1 : State} (hf : f c = .next s1) : rodWord s i bad act f = .next (rodNext s1 c.id (c.fpc + 1) act) := by
  subst hbad
  exact rodWord_next h f hf

end

/-- A change of one call after another of the same call. -/
theorem CallStep.modCall {s t : State} {c k : Call} (h : CallStep s t c k) (f : Call → Call) (hf : ∀ k, (f k).id = k.id) : CallStep s (modCall t c.id f) c (f k) where
  rest := by rw [h.rest]; rfl
  others := fun id hid => (findCall_modCall_other t c.id id f hf hid).trans (h.others id hid)
  here := by rw [findCall_modCall_same t c.id f hf, h.here]; rfl

/-! ## The rods of BMASK act (R271) -/

/-- The rods of a call once each rod of BMASK has acted. -/
def actedRods (c : Call) (f : Nat → Rod → Rod) : List Rod :=
  (List.range c.rods.length).map (fun b => if hasLane c.bmask b then f b (c.rods.getD b rod0) else c.rods.getD b rod0)

theorem getElem?_actedRods {c : Call} {f : Nat → Rod → Rod} {b : Nat} {r : Rod} (h : c.rods[b]? = some r) :
    (actedRods c f)[b]? = some (if hasLane c.bmask b then f b r else r) := by
  have hb : b < c.rods.length := (List.getElem?_eq_some_iff.mp h).1
  have hr : c.rods[b] = r := (List.getElem?_eq_some_iff.mp h).2
  simp [actedRods, hb, hr]

theorem rodsAct_eachRod {s : State} {c : Call} {act : Bool} {f : Nat → Rod → Rod} {g : Nat → Rod → Rod → Prop} (hc : findCall s c.id = some c)
    (hg : ∀ b r, c.rods[b]? = some r → g b r (f b r)) : RodsAct s c act (.next (rodNext (eachRod s c f) c.id (c.fpc + 1) act)) g := by
  have hstep : CallStep s (rodNext (eachRod s c f) c.id (c.fpc + 1) act) c { stepped c (c.fpc + 1) act with rods := actedRods c f } :=
    (modCall_step hc (fun k => { k with rods := actedRods k f }) fun _ => rfl).modCall
      (fun k => { k with fpc := c.fpc + 1, sinceAct := if act then 0 else k.sinceAct + 1, passed := 0, waits := [] }) fun _ => rfl
  refine ⟨_, _, rfl, hstep, rfl, by simp [actedRods], fun b r hr => ⟨_, getElem?_actedRods hr, ?_⟩⟩
  by_cases hm : hasLane c.bmask b = true
  · simp only [hm, if_true]
    exact hg b r hr
  · simp only [hm]
    rfl

/-- A word of the rods whose own fields let it through. -/
theorem rodWord_rods {s : State} {c : Call} {i : Instr} {bad act : Bool} {f : Call → RodRes} (h : RodFree s c i) (hbad : bad = false) {F : Nat → Rod → Rod}
    (hf : f c = .next (eachRod s c F)) {g : Nat → Rod → Rod → Prop} (hg : ∀ b r, c.rods[b]? = some r → g b r (F b r)) :
    RodsAct s c act (rodWord s i bad act f) g := by
  rw [rodWord_goes h hbad hf]
  exact rodsAct_eachRod h.here hg

/-! ## Every lane of a mask acts -/

section
variable {α : Type} (get : Rod → α) {F : Rod → Nat → Rod} {m : LMask} {l : Nat}

/-- What no lane changes stays. -/
theorem eachLane_keeps (hF : ∀ q k, k < 16 → get (F q k) = get q) (r : Rod) : get (eachLane m F r) = get r :=
  List.foldlRecOn (motive := fun q => get q = get r) _ _ rfl fun q hq k hk => (hF q k (lanesOf_lt hk)).trans hq

/-- What lane `l` alone writes holds what it wrote, where it is in the mask. -/
theorem eachLane_writes {x : α} (hl : l < 16) (hother : ∀ q k, k < 16 → k ≠ l → get (F q k) = get q) (hsame : ∀ q, get (F q l) = x) (r : Rod) :
    get (eachLane m F r) = if hasLane m l = true then x else get r := by
  have hfold : ∀ (ls : List Nat), (∀ k ∈ ls, k < 16) → ∀ q : Rod, get (ls.foldl F q) = if l ∈ ls then x else get q := by
    intro ls
    induction ls with
    | nil => exact fun _ q => rfl
    | cons k ls ih =>
      intro hlt q
      rw [List.foldl_cons, ih fun j hj => hlt j (List.mem_cons_of_mem k hj)]
      by_cases hk : k = l
      · subst hk
        simp [hsame]
      · simp [hother q k (hlt k List.mem_cons_self) hk, Ne.symm hk]
  have hmem : l ∈ lanesOf m ↔ hasLane m l = true := mem_lanesOf.trans (and_iff_right hl)
  rw [eachLane, hfold _ fun k => lanesOf_lt]
  simp only [hmem]

end

/-! ## Rod registers -/

theorem rvGet_rvPut (q : Rod) (d l n k : Nat) (x : BitVec 16 × Bool) (hl : l < 16) (hk : k < 16) :
    rvGet (rvPut q d l x) n k = if n = d ∧ k = l then x else rvGet q n k := by
  rw [rvGet, rvPut, smGet_smPut]
  exact if_congr (by omega) rfl rfl

theorem raGet_raPut (q : Rod) (d l n k : Nat) (x : Slot) (hl : l < 16) (hk : k < 16) :
    raGet (raPut q d l x) n k = if n = d ∧ k = l then x else raGet q n k := by
  rw [raGet, raPut, smGet_smPut]
  exact if_congr (by omega) rfl rfl

theorem eachLane_rvPut_writes (r : Rod) (m : LMask) (d : Nat) (x : Nat → BitVec 16 × Bool) : VecWrites r (eachLane m (fun q k => rvPut q d k (x k)) r) m d x := by
  refine ⟨List.foldlRecOn (motive := fun q : Rod => q = { r with rv := q.rv }) _ _ rfl fun q hq k _ => by rw [rvPut, hq], fun n l hl => ?_⟩
  by_cases hn : n = d
  · rw [eachLane_writes (fun q => rvGet q n l) hl (x := x l)]
    · simp only [hn, true_and]
    · exact fun q k hk hne => by rw [rvGet_rvPut q d k n l _ hk hl, if_neg fun h => hne h.2.symm]
    · exact fun q => by rw [rvGet_rvPut q d l n l _ hl hl, if_pos ⟨hn, rfl⟩]
  · rw [eachLane_keeps (fun q => rvGet q n l) fun q k hk => by rw [rvGet_rvPut q d k n l _ hk hl, if_neg fun h => hn h.1], if_neg fun h => hn h.1]

theorem eachLane_raPut_writes (r : Rod) (m : LMask) (d : Nat) (x : Nat → Slot) : AccWrites r (eachLane m (fun q k => raPut q d k (x k)) r) m d x := by
  refine ⟨List.foldlRecOn (motive := fun q : Rod => q = { r with ra := q.ra }) _ _ rfl fun q hq k _ => by rw [raPut, hq], fun n l hl => ?_⟩
  by_cases hn : n = d
  · rw [eachLane_writes (fun q => raGet q n l) hl (x := x l)]
    · simp only [hn, true_and]
    · exact fun q k hk hne => by rw [raGet_raPut q d k n l _ hk hl, if_neg fun h => hne h.2.symm]
    · exact fun q => by rw [raGet_raPut q d l n l _ hl hl, if_pos ⟨hn, rfl⟩]
  · rw [eachLane_keeps (fun q => raGet q n l) fun q k hk => by rw [raGet_raPut q d k n l _ hk hl, if_neg fun h => hn h.1], if_neg fun h => hn h.1]

theorem rmPut_writes (r : Rod) (d : Nat) (v : LMask) : MaskWrites r (rmPut r d v) d v := by
  refine ⟨rfl, fun n x hx => ?_⟩
  by_cases hn : n = d
  · subst hn
    simp [rmPut, getElem?_modifyAt_same, hx]
  · rw [rmPut, if_neg hn]
    exact (getElem?_modifyAt_other r.rm _ hn).trans hx

/-! ## Vector, accumulator and mask words (R273) -/

section
variable {s : State} {c : Call} {w : FmtR} {i : Instr}

theorem typed_of_ne {t : BitVec 2} (h : t ≠ 3) : (t == 3) = false := beq_eq_false_iff_ne.mpr h

/-- A word that writes lanes of a vector. -/
theorem rodWord_vec {bad : Bool} (h : RodFree s c i) (hbad : bad = false) (x : Rod → Nat → BitVec 16 × Bool) :
    RodsAct s c false (rodWord s i bad false fun c => .next (eachRod s c (fun _ r => eachLane (rmGet r w.m.toNat) (fun q l => rvPut q w.d.toNat l (x r l)) r)))
      (fun _ r r' => VecWrites r r' (rmGet r w.m.toNat) w.d.toNat (x r)) :=
  rodWord_rods h hbad rfl fun _ r _ => eachLane_rvPut_writes r _ _ _

theorem rodMask_writes {f : Call → Rod → LMask} (h : RodFree s c i) (hd : w.d.toNat % 4 ≠ 0) :
    RodsAct s c false (rodMask s i w f) (fun _ r r' => MaskWrites r r' (w.d.toNat % 4) (f c r)) :=
  rodWord_rods h (beq_eq_false_iff_ne.mpr hd) rfl fun _ r _ => rmPut_writes r _ _

theorem execRscl_writes (h : RodFree s c (.rscl w)) (ht : w.t ≠ 3) : RodsAct s c false (execRscl w s)
    (fun _ r r' => VecWrites r r' (rmGet r w.m.toNat) w.d.toNat (fun l => (rodScl w.t (rvGet r w.a.toNat l).1 (fpReg c w.b.toNat), (rvGet r w.a.toNat l).2))) :=
  rodWord_rods h (typed_of_ne ht) rfl fun _ r _ => eachLane_rvPut_writes r _ _ _

theorem execRmac_writes (h : RodFree s c (.rmac w)) (ht : w.t ≠ 3) : RodsAct s c false (execRmac w s)
    (fun _ r r' => AccWrites r r' (rmGet r w.m.toNat) (w.d.toNat % 2) (fun l =>
      { val := rodMac w.t (rvGet r w.a.toNat l).1 (rvGet r w.b.toNat l).1 (raGet r (w.d.toNat % 2) l).val,
        poison := (rvGet r w.a.toNat l).2 || (rvGet r w.b.toNat l).2 || (raGet r (w.d.toNat % 2) l).poison })) :=
  rodWord_rods h (typed_of_ne ht) rfl fun _ r _ => eachLane_raPut_writes r _ _ _

theorem hasLane_merge (k m x : LMask) (l : Nat) : hasLane ((k &&& ~~~m) ||| (x &&& m)) l = if hasLane m l then hasLane x l else hasLane k l := by
  simp only [hasLane, BitVec.getLsbD_or, BitVec.getLsbD_and, BitVec.getLsbD_not]
  by_cases hm : m.getLsbD l = true
  · simp [hm]
  · have hkl : (k.getLsbD l && decide (l < 16)) = k.getLsbD l := by
      by_cases hl : l < 16
      · rw [decide_eq_true hl, Bool.and_true]
      · rw [BitVec.getLsbD_of_ge k l (by omega), Bool.false_and]
    rw [Bool.not_eq_true] at hm
    simp only [hm, Bool.not_false, Bool.and_true, Bool.and_false, Bool.or_false, Bool.false_eq_true, if_false, hkl]

theorem execRcmp_writes (h : RodFree s c (.rcmp w)) (ht : w.t ≠ 3) (hcond : w.imm.toNat % 8 ≤ 5) (hd : w.d.toNat % 4 ≠ 0) :
    RodsAct s c false (execRcmp w s) (fun _ r r' => ∃ v, MaskWrites r r' (w.d.toNat % 4) v ∧ ∀ l, l < 16 →
      hasLane v l = if hasLane (rmGet r w.m.toNat) l then rodCond w.t (w.imm.toNat % 8) (rvGet r w.a.toNat l).1 (rvGet r w.b.toNat l).1
        else hasLane (rmGet r (w.d.toNat % 4)) l) := by
  have hbad : (w.t == 3 || decide (5 < w.imm.toNat % 8) || w.d.toNat % 4 == 0) = false := by
    rw [typed_of_ne ht, decide_eq_false (by omega), beq_eq_false_iff_ne.mpr hd]
    rfl
  refine rodWord_rods h hbad rfl fun _ r _ => ⟨_, rmPut_writes r _ _, fun l hl => ?_⟩
  rw [hasLane_merge, hasLane_maskOf _ hl]

end

/-! ## RSUM (R273) -/

/-- What a sum delivers into a lane. -/
def sumOut (t : BitVec 2) (x : Slot) : BitVec 16 × Bool := (rodRound t (fDecode 10 x.val.toNat), x.poison)

/-- A rod after RSUM, but for the accumulators that it clears. -/
def summedRod (w : FmtR) (r : Rod) : Rod :=
  let m := rmGet r w.m.toNat
  let n := w.a.toNat % 2
  if !w.imm.getLsbD 0 then eachLane m (fun q l => rvPut q w.d.toNat l (sumOut w.t (raGet r n l))) r
  else if m = 0 then r
  else rvPut (eachLane m (fun q l => rvPut q w.d.toNat l (0, false)) r) w.d.toNat 0 (sumOut w.t (rodSum r n m))

section
variable (w : FmtR) (r : Rod)

theorem summedRod_frame : summedRod w r = { r with rv := (summedRod w r).rv } := by
  unfold summedRod
  dsimp only
  split
  · exact (eachLane_rvPut_writes r _ _ _).1
  split
  · rfl
  · rw [rvPut, (eachLane_rvPut_writes r (rmGet r w.m.toNat) w.d.toNat fun _ => (0, false)).1]

/-- Without the sum bit each lane takes its own accumulator. -/
theorem rvGet_summedRod_lanes (hbit : w.imm.getLsbD 0 = false) (n l : Nat) (hl : l < 16) :
    rvGet (summedRod w r) n l
      = if n = w.d.toNat ∧ hasLane (rmGet r w.m.toNat) l = true then sumOut w.t (raGet r (w.a.toNat % 2) l) else rvGet r n l := by
  unfold summedRod
  rw [hbit]
  exact (eachLane_rvPut_writes r _ _ _).2 n l hl

/-- With it lane 0 takes the sum over the mask, and the other lanes of the mask zero. -/
theorem rvGet_summedRod_sum (hbit : w.imm.getLsbD 0 = true) (n l : Nat) (hl : l < 16) :
    rvGet (summedRod w r) n l
      = if n = w.d.toNat ∧ rmGet r w.m.toNat ≠ 0 ∧ l = 0 then sumOut w.t (rodSum r (w.a.toNat % 2) (rmGet r w.m.toNat))
        else if n = w.d.toNat ∧ hasLane (rmGet r w.m.toNat) l = true then (0, false) else rvGet r n l := by
  unfold summedRod
  rw [hbit]
  by_cases hm : rmGet r w.m.toNat = 0
  · have hnone : hasLane (0#16) l = false := BitVec.getLsbD_zero
    simp [hm, hnone]
  · simp only [Bool.not_true, Bool.false_eq_true, if_false, hm]
    rw [rvGet_rvPut _ _ _ _ _ _ (by decide) hl, (eachLane_rvPut_writes r (rmGet r w.m.toNat) w.d.toNat fun _ => (0, false)).2 n l hl]
    simp only [ne_eq, hm, not_false_eq_true, true_and]

end

theorem execRsum_writes {s : State} {c : Call} {w : FmtR} (h : RodFree s c (.rsum w)) (ht : w.t ≠ 3) : RodsAct s c false (execRsum w s) (fun _ r r' =>
    let k := w.a.toNat % 2
    let m := rmGet r w.m.toNat
    r' = { r with rv := r'.rv, ra := r'.ra }
    ∧ (w.imm.getLsbD 0 = false → ∀ n l, l < 16 → rvGet r' n l = if n = w.d.toNat ∧ hasLane m l = true then sumOut w.t (raGet r k l) else rvGet r n l)
    ∧ (w.imm.getLsbD 0 = true → ∀ n l, l < 16 → rvGet r' n l = if n = w.d.toNat ∧ m ≠ 0 ∧ l = 0 then sumOut w.t (rodSum r k m)
        else if n = w.d.toNat ∧ hasLane m l = true then (0, false) else rvGet r n l)
    ∧ ∀ n l, l < 16 → raGet r' n l = if w.imm.getLsbD 1 = true ∧ n = k ∧ hasLane m l = true then slot0 else raGet r n l) := by
  refine rodWord_rods h (typed_of_ne ht) (F := fun _ r => if w.imm.getLsbD 1 then
    eachLane (rmGet r w.m.toNat) (fun q l => raPut q (w.a.toNat % 2) l slot0) (summedRod w r) else summedRod w r) rfl fun _ r _ => ?_
  dsimp only
  have hframe := summedRod_frame w r
  have hra : ∀ n l, raGet (summedRod w r) n l = raGet r n l := fun n l => by rw [hframe]; rfl
  by_cases hclear : w.imm.getLsbD 1 = true
  · obtain ⟨hkeep, hacc⟩ := eachLane_raPut_writes (summedRod w r) (rmGet r w.m.toNat) (w.a.toNat % 2) fun _ => slot0
    simp only [hclear, if_true, true_and]
    generalize eachLane (rmGet r w.m.toNat) (fun q l => raPut q (w.a.toNat % 2) l slot0) (summedRod w r) = r' at hkeep hacc
    have hrv : ∀ n l, rvGet r' n l = rvGet (summedRod w r) n l := fun n l => by rw [hkeep]; rfl
    refine ⟨by rw [hkeep, hframe], fun hbit n l hl => ?_, fun hbit n l hl => ?_, fun n l hl => (hacc n l hl).trans (by rw [hra])⟩
    · exact (hrv n l).trans (rvGet_summedRod_lanes w r hbit n l hl)
    · exact (hrv n l).trans (rvGet_summedRod_sum w r hbit n l hl)
  · simp only [hclear, false_and, if_false, Bool.false_eq_true]
    exact ⟨by rw [hframe], rvGet_summedRod_lanes w r, rvGet_summedRod_sum w r, fun n l _ => hra n l⟩

/-! ## RACT and the open rows (R271) -/

section
variable {s : State} {c : Call} {w : FmtR}

theorem ractStalled_of_free {row : Nat} (h : ∀ b, b < 16 → hasLane c.bmask b = true → windowPa s (colPa c row b 0) = false) :
    ractStalled s c row = false :=
  List.any_eq_false.mpr fun b hb => by
    by_cases hm : hasLane c.bmask b = true
    · simp [h b (List.mem_range.mp hb) hm]
    · simp [hm]

theorem execRact_opens (h : RodFree s c (.ract w)) (hrow : ractRow c w < 128) (hst : ractStalled s c (ractRow c w) = false) :
    RodsAct s c true (execRact w s) (fun _ r r' => r' = { r with row := some (ractRow c w) }) := by
  refine rodWord_rods h rfl ?_ fun _ r _ => rfl
  dsimp only
  rw [if_neg (by omega), hst]
  rfl

theorem execRact_stalls (h : RodFree s c (.ract w)) (hrow : ractRow c w < 128) (hst : ractStalled s c (ractRow c w) = true) :
    execRact w s = .next (callWaits s c.id []) := by
  refine rodWord_stalls h rfl ?_
  dsimp only
  rw [if_neg (by omega), hst]
  rfl

theorem execRact_stops (h : RodFree s c (.ract w)) (hrow : 128 ≤ ractRow c w) : CallStops s c (execRact w s) 6 c.fpc :=
  rodWord_stops h rfl h.here (d := none) (if_pos hrow)

/-! ## RLDV (R271) -/

theorem column_free (ht : w.t ≠ 3) (hstray : strayH w = false) : (w.t == 3 || strayH w) = false := by rw [typed_of_ne ht, hstray]; rfl

theorem memNat_of_read (s : State) (pa n : Nat) : memNat s pa n = bytesToNat ((memRead s pa n).map Prod.fst) := by
  rw [memNat, memRead_bytes]

/-- An i8 value taken into a lane. -/
theorem ofNat_wrapNat (v : Int) : BitVec.ofNat 16 (wrapNat 16 v) = BitVec.ofInt 16 v := by
  apply BitVec.eq_of_toNat_eq
  rw [BitVec.toNat_ofNat, BitVec.toNat_ofInt, wrapNat]
  omega

/-- A lane as RLDV loads it. -/
def loadedLane (s : State) (c : Call) (w : FmtR) (b : Nat) (r : Rod) (l : Nat) : BitVec 16 × Bool :=
  let o := laneBytes w l
  let bs := memRead s (colPa c (r.row.getD 0) b (rodCol c w) + o.1) o.2
  let v := if anyBad bs then (Config.freeWord (s.freeCtr + 16 * b + l)).toNat else bytesToNat (bs.map Prod.fst)
  (if isI8 w.t then BitVec.ofNat 16 (wrapNat 16 (toSigned 8 v)) else BitVec.ofNat 16 v, anyBad bs)

theorem loadedLane_spec {b l : Nat} {r : Rod} (hr : c.rods[b]? = some r) :
    let bs := memRead s (laneAt c w b l).1 (laneAt c w b l).2
    (loadedLane s c w b r l).2 = anyBad bs
    ∧ (anyBad bs = false → let v := memNat s (laneAt c w b l).1 (laneAt c w b l).2
      (loadedLane s c w b r l).1 = if isI8 w.t then BitVec.ofInt 16 (toSigned 8 v) else BitVec.ofNat 16 v) := by
  have hrod : c.rods.getD b rod0 = r := by rw [List.getD_eq_getElem?_getD, hr]; rfl
  simp only [laneAt, hrod, memNat_of_read, loadedLane, ofNat_wrapNat, true_and]
  intro hclean
  rw [hclean]
  rfl

theorem execRldv_loads (h : RodFree s c (.rldv w)) (ht : w.t ≠ 3) (hstray : strayH w = false) (hrow : noRow c = false)
    (hst : rowStalled s c (rodCol c w) = false) :
    RodsAct { s with freeCtr := s.freeCtr + 256 } c false (execRldv w s)
      (fun b r r' => VecWrites r r' (rmGet r w.m.toNat) w.d.toNat (loadedLane s c w b r)) := by
  have hgoes : execRldv w s = .next _ := rodWord_goes h (column_free ht hstray)
    (s1 := eachRod { s with freeCtr := s.freeCtr + 256 } c (fun b r => eachLane (rmGet r w.m.toNat) (fun q l => rvPut q w.d.toNat l (loadedLane s c w b r l)) r))
    (by dsimp only; rw [hrow, hst]; rfl)
  rw [hgoes]
  exact rodsAct_eachRod h.here fun b r _ => eachLane_rvPut_writes r _ _ _

theorem execRldv_stalls (h : RodFree s c (.rldv w)) (ht : w.t ≠ 3) (hstray : strayH w = false) (hrow : noRow c = false)
    (hst : rowStalled s c (rodCol c w) = true) : execRldv w s = .next (callWaits s c.id []) :=
  rodWord_stalls h (column_free ht hstray) (by dsimp only; rw [hrow, hst]; rfl)

end
/-! ## Pieces written one after another -/

/-- Bytes of a number to write, with their poison: address, count, value. -/
structure Put where
  pa : Nat
  len : Nat
  val : Nat
  bad : Bool

def Put.covers (p : Put) (a : Nat) : Prop := p.pa ≤ a ∧ a < p.pa + p.len

def putNum (s : State) (p : Put) : State := memWriteP s p.pa ((natToBytes p.len p.val).map (fun y => (y, p.bad)))

theorem memByte_putNum_out (s : State) {p : Put} {a : Nat} (h : ¬p.covers a) : memByte (putNum s p) a = memByte s a := by
  rw [putNum, memByte_memWriteP, List.length_map, length_natToBytes]
  exact if_neg h

theorem memNat_putNum (s : State) (p : Put) : memNat (putNum s p) p.pa p.len = p.val % 256 ^ p.len := by
  have hmem : (putNum s p).mem = (memWrite s p.pa (natToBytes p.len p.val)).mem := by
    rw [putNum, memWriteP_mem, memWrite_mem, List.map_map]
    exact congrArg (fun bs => smPutList s.mem p.pa bs 0) (List.map_id _)
  have hsame : memNat (putNum s p) p.pa p.len = memNat (memWrite s p.pa (natToBytes p.len p.val)) p.pa p.len :=
    memNat_congr fun a _ _ => by rw [memByte, hmem, memByte]
  have hwrite := memNat_memWrite_same s p.pa (natToBytes p.len p.val)
  rw [length_natToBytes, bytesToNat_natToBytes] at hwrite
  exact hsame.trans hwrite

theorem putNum_frame (s : State) (p : Put) : putNum s p = { s with mem := (putNum s p).mem, memPoison := (putNum s p).memPoison } := by
  unfold putNum memWriteP memWrite
  split <;> rfl

theorem putAll_frame (ps : List Put) (s : State) :
    ps.foldl putNum s = { s with mem := (ps.foldl putNum s).mem, memPoison := (ps.foldl putNum s).memPoison } :=
  List.foldlRecOn (motive := fun t : State => t = { s with mem := t.mem, memPoison := t.memPoison }) _ _ rfl fun t ht p _ => by
    rw [putNum_frame t p, ht]

theorem memByte_putAll_out {ps : List Put} {a : Nat} (h : ∀ p ∈ ps, ¬p.covers a) (s : State) : memByte (ps.foldl putNum s) a = memByte s a :=
  List.foldlRecOn (motive := fun t => memByte t a = memByte s a) _ _ rfl fun t ht p hp => (memByte_putNum_out t (h p hp)).trans ht

/-- Pieces that no other one overlaps hold their numbers once all are written. -/
theorem memNat_putAll {ps : List Put} (hapart : ∀ p ∈ ps, ∀ q ∈ ps, q ≠ p → ∀ a, p.covers a → ¬q.covers a) {p : Put} (hp : p ∈ ps) (s : State) :
    memNat (ps.foldl putNum s) p.pa p.len = p.val % 256 ^ p.len := by
  induction ps generalizing s with
  | nil => cases hp
  | cons q ps ih =>
    rw [List.foldl_cons]
    by_cases hin : p ∈ ps
    · exact ih (fun x hx y hy => hapart x (List.mem_cons_of_mem q hx) y (List.mem_cons_of_mem q hy)) hin _
    · obtain rfl : p = q := (List.mem_cons.mp hp).resolve_right hin
      rw [← memNat_putNum s p]
      refine memNat_congr fun a hlo hhi => memByte_putAll_out (fun y hy => ?_) _
      exact hapart p hp y (List.mem_cons_of_mem p hy) (fun e => hin (e ▸ hy)) a ⟨hlo, hhi⟩

/-- A call goes on from a state in which memory alone has changed. -/
theorem rodStores_of_memory {s t : State} {c : Call} {covered : Nat → Prop} (hc : findCall s c.id = some c)
    (ht : t = { s with mem := t.mem, memPoison := t.memPoison }) (hbytes : ∀ p, ¬covered p → memByte t p = memByte s p) :
    RodStores s (rodNext t c.id (c.fpc + 1) false) c covered := by
  have hcalls : ∀ id, findCall t id = findCall s id := fun id => by rw [ht]; rfl
  have hstep := modCall_step ((hcalls c.id).trans hc) (fun k => { k with fpc := c.fpc + 1, sinceAct := k.sinceAct + 1, passed := 0, waits := [] }) fun _ => rfl
  exact ⟨by rw [ht]; rfl, fun id hid => (hstep.others id hid).trans (hcalls id), hstep.here, hbytes⟩

/-! ## RWR (R271) -/

section
variable {s : State} {c : Call} {w : FmtR}

/-- The bytes that RWR writes for a lane of a bank. -/
def rwrPut (c : Call) (w : FmtR) (b l : Nat) : Put :=
  { pa := (laneAt c w b l).1, len := (laneAt c w b l).2, val := (rvGet (c.rods.getD b rod0) w.d.toNat l).1.toNat, bad := (rvGet (c.rods.getD b rod0) w.d.toNat l).2 }

/-- What RWR writes, bank by bank and lane by lane. -/
def rwrPuts (c : Call) (w : FmtR) : List Put :=
  (List.range 16).flatMap (fun b => if hasLane c.bmask b then (lanesOf (rmGet (c.rods.getD b rod0) w.m.toNat)).map (rwrPut c w b) else [])

theorem mem_rwrPuts {p : Put} : p ∈ rwrPuts c w ↔
    ∃ b l, (b < 16 ∧ l < 16 ∧ hasLane c.bmask b = true ∧ hasLane (rmGet (c.rods.getD b rod0) w.m.toNat) l = true) ∧ rwrPut c w b l = p := by
  simp only [rwrPuts, List.mem_flatMap, List.mem_range]
  constructor
  · rintro ⟨b, hb, hp⟩
    split at hp
    next hm =>
      obtain ⟨l, hl, rfl⟩ := List.mem_map.mp hp
      obtain ⟨hl16, hlm⟩ := mem_lanesOf.mp hl
      exact ⟨b, l, ⟨hb, hl16, hm, hlm⟩, rfl⟩
    next => cases hp
  · rintro ⟨b, l, ⟨hb, hl, hm, hlm⟩, rfl⟩
    refine ⟨b, hb, ?_⟩
    rw [if_pos hm]
    exact List.mem_map_of_mem (mem_lanesOf.mpr ⟨hl, hlm⟩)

theorem rwr_foldl (s : State) : (List.range 16).foldl (fun s b =>
      if hasLane c.bmask b then (lanesOf (rmGet (c.rods.getD b rod0) w.m.toNat)).foldl (fun s l => putNum s (rwrPut c w b l)) s else s) s
    = (rwrPuts c w).foldl putNum s := by
  rw [rwrPuts, List.foldl_flatMap]
  congr 1
  funext t b
  split
  · rw [List.foldl_map]
  · rfl

/-- Where the bytes of a lane lie in its column. -/
theorem laneBytes_inside (w : FmtR) {l : Nat} (hl : l < 16) : (laneBytes w l).1 + (laneBytes w l).2 ≤ 32 := by
  unfold laneBytes
  repeat' split
  all_goals dsimp only; omega

theorem laneBytes_apart (w : FmtR) {k l : Nat} (h : k < l) : (laneBytes w k).1 + (laneBytes w k).2 ≤ (laneBytes w l).1 := by
  unfold laneBytes
  repeat' split
  all_goals dsimp only; omega

/-- A byte of a lane's piece names the piece's bank and its place in the column. -/
theorem rwrPut_place {b l a : Nat} (hl : l < 16) (h : (rwrPut c w b l).covers a) :
    ∃ n o, a = c.pagePa + (n * 16 + b) * 1024 + rodCol c w * 32 + o ∧ (laneBytes w l).1 ≤ o ∧ o < (laneBytes w l).1 + (laneBytes w l).2 ∧ rodCol c w * 32 + o < 1024 := by
  obtain ⟨hlo, hhi⟩ := h
  have hin := laneBytes_inside w hl
  have hcol : rodCol c w < 32 := Nat.mod_lt _ (by decide)
  simp only [rwrPut, laneAt, colPa] at hlo hhi
  exact ⟨(c.rods.getD b rod0).row.getD 0, a - (c.pagePa + ((c.rods.getD b rod0).row.getD 0 * 16 + b) * 1024 + rodCol c w * 32), by omega, by omega, by omega, by omega⟩

theorem rwrPuts_apart : ∀ p ∈ rwrPuts c w, ∀ q ∈ rwrPuts c w, q ≠ p → ∀ a, p.covers a → ¬q.covers a := by
  intro p hp q hq hne a hpa hqa
  obtain ⟨b, l, ⟨hb, hl, -, -⟩, rfl⟩ := mem_rwrPuts.mp hp
  obtain ⟨b', l', ⟨hb', hl', -, -⟩, rfl⟩ := mem_rwrPuts.mp hq
  obtain ⟨n, o, ha, hlo, hhi, ho⟩ := rwrPut_place hl hpa
  obtain ⟨n', o', ha', hlo', hhi', ho'⟩ := rwrPut_place hl' hqa
  obtain rfl : b = b' := by omega
  have hoo : o = o' := by omega
  rcases Nat.lt_trichotomy l l' with hlt | rfl | hlt
  · have := laneBytes_apart w hlt
    omega
  · exact hne rfl
  · have := laneBytes_apart w hlt
    omega

theorem execRwr_stores (h : RodFree s c (.rwr w)) (hpage : c.wpage = true) (ht : w.t ≠ 3) (hstray : strayH w = false) (hrow : noRow c = false)
    (hst : rowStalled s c (rodCol c w) = false) :
    let puts := fun (b l : Nat) => b < 16 ∧ l < 16 ∧ hasLane c.bmask b = true ∧ hasLane (rmGet (c.rods.getD b rod0) w.m.toNat) l = true
    ∃ t, execRwr w s = .next t
      ∧ RodStores s t c (fun p => ∃ b l, puts b l ∧ (laneAt c w b l).1 ≤ p ∧ p < (laneAt c w b l).1 + (laneAt c w b l).2)
      ∧ ∀ b l, puts b l → memNat t (laneAt c w b l).1 (laneAt c w b l).2
          = (rvGet (c.rods.getD b rod0) w.d.toNat l).1.toNat % 2 ^ (8 * (laneAt c w b l).2) := by
  have hgoes : execRwr w s = .next _ := rodWord_goes h (column_free ht hstray) (s1 := (rwrPuts c w).foldl putNum s)
    (by dsimp only; rw [hpage, hrow, hst, ← rwr_foldl]; rfl)
  refine ⟨_, hgoes, rodStores_of_memory h.here (putAll_frame _ s) fun p hp => memByte_putAll_out (fun q hq hcov => hp ?_) s, fun b l hputs => ?_⟩
  · obtain ⟨b, l, hputs, rfl⟩ := mem_rwrPuts.mp hq
    exact ⟨b, l, hputs, hcov⟩
  · have hheld := memNat_putAll rwrPuts_apart (mem_rwrPuts.mpr ⟨b, l, hputs, rfl⟩) s
    rw [pow_mul]
    exact hheld

theorem execRwr_stalls (h : RodFree s c (.rwr w)) (hpage : c.wpage = true) (ht : w.t ≠ 3) (hstray : strayH w = false) (hrow : noRow c = false)
    (hst : rowStalled s c (rodCol c w) = true) : execRwr w s = .next (callWaits s c.id []) :=
  rodWord_stalls h (column_free ht hstray) (by dsimp only; rw [hpage, hrow, hst]; rfl)

/-! ## FILL (R274) -/

theorem execFill_stores (h : RodFree s c (.fill w)) (hpage : c.wpage = true) (hn : (fpReg c w.b.toNat).toNat % 32 = 0) (ho : (fpReg c w.d.toNat).toNat % 32 = 0)
    (hfit : (fpReg c w.d.toNat).toNat + (fpReg c w.b.toNat).toNat ≤ 2 ^ 21)
    (hst : pageStalled s (c.pagePa + (fpReg c w.d.toNat).toNat) (fpReg c w.b.toNat).toNat = false) :
    let n := (fpReg c w.b.toNat).toNat
    let o := (fpReg c w.d.toNat).toNat
    ∃ t, execFill w s = .next t ∧ RodStores s t c (fun p => c.pagePa + o ≤ p ∧ p < c.pagePa + o + n)
      ∧ ∀ k, k < n / 4 → memNat t (c.pagePa + o + 4 * k) 4 = (fpReg c w.a.toNat).toNat := by
  intro n o
  let word := natToBytes 4 (fpReg c w.a.toNat).toNat
  have hword : word.length = 4 := length_natToBytes 4 _
  have hlen : ∀ m, ((List.range m).flatMap fun _ => word).length = 4 * m := fun m => by simp [List.length_flatMap, hword, Nat.mul_comm]
  have hgoes : execFill w s = .next _ := rodWord_goes h rfl (s1 := memWrite s (c.pagePa + o) ((List.range (n / 4)).flatMap fun _ => word))
    (by dsimp only; rw [hpage, hst, if_neg (by decide), if_neg (by omega)]; rfl)
  refine ⟨_, hgoes, rodStores_of_memory h.here ?_ fun p hp => memByte_memWrite_out _ _ _ _ fun hin => hp ?_, fun k hk => ?_⟩
  · unfold memWrite
    split <;> rfl
  · rw [hlen] at hin
    omega
  · have hsplit : List.range (n / 4) = List.range k ++ [k] ++ (List.range (n / 4 - (k + 1))).map (k + 1 + ·) := by
      rw [← List.range_succ, ← List.range_add]
      congr 1
      omega
    have hheld := memNat_memWrite_within s (c.pagePa + o) ((List.range k).flatMap fun _ => word)
      (((List.range (n / 4 - (k + 1))).map (k + 1 + ·)).flatMap fun _ => word) 4 (fpReg c w.a.toNat).toNat
    rw [hlen, Nat.mod_eq_of_lt (by exact (fpReg c w.a.toNat).isLt)] at hheld
    rw [hsplit, List.flatMap_append, List.flatMap_append, List.flatMap_singleton]
    exact hheld

theorem execFill_stops (h : RodFree s c (.fill w)) (hpage : c.wpage = true)
    (hout : (fpReg c w.b.toNat).toNat % 32 ≠ 0 ∨ (fpReg c w.d.toNat).toNat % 32 ≠ 0 ∨ 2 ^ 21 < (fpReg c w.d.toNat).toNat + (fpReg c w.b.toNat).toNat) :
    CallStops s c (execFill w s) 6 c.fpc :=
  rodWord_stops h rfl h.here (d := none) (by dsimp only; rw [hpage, if_neg (by decide), if_pos hout])

theorem execFill_stalls (h : RodFree s c (.fill w)) (hpage : c.wpage = true) (hn : (fpReg c w.b.toNat).toNat % 32 = 0) (ho : (fpReg c w.d.toNat).toNat % 32 = 0)
    (hfit : (fpReg c w.d.toNat).toNat + (fpReg c w.b.toNat).toNat ≤ 2 ^ 21)
    (hst : pageStalled s (c.pagePa + (fpReg c w.d.toNat).toNat) (fpReg c w.b.toNat).toNat = true) : execFill w s = .next (callWaits s c.id []) :=
  rodWord_stalls h rfl (by dsimp only; rw [hpage, hst, if_neg (by decide), if_neg (by omega)]; rfl)

end
/-! ## The flow words (R271) -/

section
variable {s : State} {c : Call} {w : FmtR}

/-- What RSKP and RLOOP come to for a call (R271). -/
def rskpRes (s : State) (w : FmtR) (c : Call) : RodRes :=
  if badTarget c w then .stop s 5 none
  else if c.sparse ∧ c.stream.st = .opened ∧ auxStalled c (callStalls s c) then .stall ((auxGoals c).filter (callStalls s c))
  else if c.sparse ∧ c.stream.st = .opened then
    match streamStep s c false with
    | .ok q => .next (fpSet (modCall s c.id (fun c => { c with stream := q })) c.id w.d.toNat c.stream.pos)
    | .error (st, d) => .stop s st (some d)
  else .jump s (w.imm.toNat % 256)

def rloopRes (s : State) (w : FmtR) (c : Call) : RodRes :=
  if badTarget c w then .stop s 5 none
  else
    let s1 := fpSet s c.id w.a.toNat (fpReg c w.a.toNat - 1)
    let c1 := (findCall s1 c.id).getD c
    let s2 := if w.imm.getLsbD 8 then fpSet s1 c.id w.d.toNat (fpReg c1 w.d.toNat + 1) else s1
    let c2 := (findCall s2 c.id).getD c
    if fpReg c2 w.a.toNat ≠ 0 then .jump s2 (w.imm.toNat % 256) else .next s2

theorem execRskp_eq (w : FmtR) (s : State) : execRskp w s = rodWord s (.rskp w) false false (rskpRes s w) := rfl

theorem execRloop_eq (w : FmtR) (s : State) : execRloop w s = rodWord s (.rloop w) false false (rloopRes s w) := rfl

/-- A call's frame registers change, and it goes on at `fpc`. -/
theorem rodNext_step {t : State} {k : Call} (ht : CallStep s t c k) (fpc : Nat) : CallStep s (rodNext t c.id fpc false) c (stepped k fpc false) :=
  ht.modCall (fun k => { k with fpc := fpc, sinceAct := k.sinceAct + 1, passed := 0, waits := [] }) fun _ => rfl

theorem execRskp_jumps (h : RodFree s c (.rskp w)) (htarget : badTarget c w = false) (hstream : ¬(c.sparse = true ∧ c.stream.st = .opened)) :
    ∃ t, execRskp w s = .next t ∧ CallStep s t c (stepped c (w.imm.toNat % 256) false) := by
  have hjump : rskpRes s w c = .jump s (w.imm.toNat % 256) := by
    rw [rskpRes, htarget, if_neg Bool.false_ne_true, if_neg fun hs => hstream ⟨hs.1, hs.2.1⟩, if_neg hstream]
  exact ⟨_, rodWord_jumps h rfl hjump, rodNext_step ⟨rfl, fun _ _ => rfl, h.here⟩ _⟩

/-- RSKP of a stream that is open, where AUX does not stall, turns on what the next position is. -/
theorem rskpRes_of_open (htarget : badTarget c w = false) (hsparse : c.sparse = true) (hopen : c.stream.st = .opened)
    (haux : auxStalled c (callStalls s c) = false) : rskpRes s w c = match streamStep s c false with
      | .ok q => .next (fpSet (modCall s c.id (fun c => { c with stream := q })) c.id w.d.toNat c.stream.pos)
      | .error (st, d) => .stop s st (some d) := by
  rw [rskpRes, htarget, if_neg Bool.false_ne_true, if_neg fun hs => Bool.false_ne_true (haux.symm.trans hs.2.2), if_pos ⟨hsparse, hopen⟩]

theorem execRskp_stops (h : RodFree s c (.rskp w)) (htarget : badTarget c w = false) (hsparse : c.sparse = true) (hopen : c.stream.st = .opened)
    (haux : auxStalled c (callStalls s c) = false) {st d : Nat} (hstep : streamStep s c false = .error (st, d)) : CallStops s c (execRskp w s) st d :=
  rodWord_stops h rfl h.here (d := some d) ((rskpRes_of_open htarget hsparse hopen haux).trans (by rw [hstep]))

theorem execRskp_moves (h : RodFree s c (.rskp w)) (htarget : badTarget c w = false) (hsparse : c.sparse = true) (hopen : c.stream.st = .opened)
    (haux : auxStalled c (callStalls s c) = false) {q : Stream} (hstep : streamStep s c false = .ok q) :
    ∃ t c', execRskp w s = .next t ∧ CallStep s t c c' ∧ c' = { stepped c (c.fpc + 1) false with stream := q, fp := c'.fp }
      ∧ ∀ n v, c.fp[n]? = some v → c'.fp[n]? = some (if n = w.d.toNat then c.stream.pos else v) := by
  have hgoes : execRskp w s = .next _ := rodWord_goes h rfl ((rskpRes_of_open htarget hsparse hopen haux).trans (by rw [hstep]))
  have hmoved := ((modCall_step h.here (fun k => { k with stream := q }) fun _ => rfl).modCall
    (fun k => { k with fp := modifyAt k.fp w.d.toNat (fun _ => c.stream.pos) }) fun _ => rfl)
  refine ⟨_, _, hgoes, rodNext_step hmoved _, rfl, fun n v hn => ?_⟩
  by_cases hd : n = w.d.toNat
  · subst hd
    simp [stepped, getElem?_modifyAt_same, hn]
  · rw [if_neg hd]
    exact (getElem?_modifyAt_other c.fp _ hd).trans hn

/-- A frame register written with what becomes of its own value. -/
theorem modifyAt_getD (l : List Word) (n : Nat) (f : Word → Word) : modifyAt l n (fun _ => f (l.getD n 0)) = modifyAt l n f := by
  induction l generalizing n with
  | nil => rfl
  | cons a l ih =>
    cases n with
    | zero => rfl
    | succ n => exact congrArg (a :: ·) (ih n)

theorem fpSet_step {t : State} {k : Call} (ht : CallStep s t c k) (n : Nat) (f : Word → Word) :
    CallStep s (fpSet t c.id n (f (fpReg k n))) c { k with fp := modifyAt k.fp n f } := by
  have hstep := ht.modCall (fun k' => { k' with fp := modifyAt k'.fp n (fun _ => f (fpReg k n)) }) fun _ => rfl
  rw [fpReg, modifyAt_getD] at hstep
  exact hstep

theorem execRloop_loops (h : RodFree s c (.rloop w)) (htarget : badTarget c w = false) :
    let fp1 := modifyAt c.fp w.a.toNat (fun v => v - 1)
    let fp2 := if w.imm.getLsbD 8 then modifyAt fp1 w.d.toNat (fun v => v + 1) else fp1
    ∃ t, execRloop w s = .next t
      ∧ CallStep s t c { stepped c (if fp2.getD w.a.toNat 0 ≠ 0 then w.imm.toNat % 256 else c.fpc + 1) false with fp := fp2 } := by
  intro fp1 fp2
  have hfirst : CallStep s (fpSet s c.id w.a.toNat (fpReg c w.a.toNat - 1)) c { c with fp := fp1 } :=
    fpSet_step ⟨rfl, fun _ _ => rfl, h.here⟩ w.a.toNat (fun v => v - 1)
  obtain ⟨s2, hs2, hsecond⟩ : ∃ s2, (if w.imm.getLsbD 8 then fpSet (fpSet s c.id w.a.toNat (fpReg c w.a.toNat - 1)) c.id w.d.toNat
      (fpReg { c with fp := fp1 } w.d.toNat + 1) else fpSet s c.id w.a.toNat (fpReg c w.a.toNat - 1)) = s2 ∧ CallStep s s2 c { c with fp := fp2 } := by
    refine ⟨_, rfl, ?_⟩
    by_cases hbit : w.imm.getLsbD 8 = true
    · simp only [fp2, hbit, if_true]
      exact fpSet_step hfirst w.d.toNat (fun v => v + 1)
    · simp only [fp2, hbit]
      exact hfirst
  have hres : rloopRes s w c = if fp2.getD w.a.toNat 0 ≠ 0 then .jump s2 (w.imm.toNat % 256) else .next s2 := by
    rw [rloopRes, htarget, if_neg Bool.false_ne_true]
    dsimp only
    rw [hfirst.here, Option.getD_some, hs2, hsecond.here]
    rfl
  by_cases hloop : fp2.getD w.a.toNat 0 ≠ 0
  · rw [if_pos hloop]
    exact ⟨_, rodWord_jumps h rfl (hres.trans (if_pos hloop)), rodNext_step hsecond _⟩
  · rw [if_neg hloop]
    exact ⟨_, rodWord_goes h rfl (hres.trans (if_neg hloop)), rodNext_step hsecond _⟩

/-! ## IRED and XRED (R274) -/

theorem putDst_fits {out : List (Byte × Bool)} (h : out.length ≤ c.dstlen) (s : State) : putDst s c out = .next (dstWrite s c.id c.dst.toNat out) :=
  if_neg (by omega)

theorem putDst_beyond {out : List (Byte × Bool)} (h : c.dstlen < out.length) (s : State) : putDst s c out = .stop s 6 none := if_pos h

/-- An index list with no poisoned entry. -/
theorem iredIndex_of_clean (h : ∀ i k, i < c.auxlen / 4 → k < 4 → (auxByte s c (4 * i + k)).2 = false) :
    iredIndex s c = (List.range (c.auxlen / 4)).map (fun i => (auxWord s c i, false)) := by
  refine List.map_congr_left fun i hi => ?_
  have hclean : anyBad ((List.range 4).map fun k => auxByte s c (4 * i + k)) = false := by
    refine List.any_eq_false.mpr fun b hb => ?_
    obtain ⟨k, hk, rfl⟩ := List.mem_map.mp hb
    simp [h i k (List.mem_range.mp hi) (List.mem_range.mp hk)]
  dsimp only
  rw [hclean, if_neg Bool.false_ne_true, List.map_map]
  rfl

/-- The bytes of a vector whose index is clean are those of memory. -/
theorem map_poison_false (bs : List (Byte × Bool)) : bs.map (fun b => (b.1, b.2 || false)) = bs := by
  simp

/-- What IRED comes to for a call. -/
def iredRes (s : State) (w : FmtR) (c : Call) : RodRes :=
  let len := (fpReg c w.a.toNat).toNat
  let step := (fpReg c w.b.toNat).toNat
  let f32 := w.imm.getLsbD 0
  if len = 0 ∨ 32 < len then .stop s 6 none
  else if auxGone s c then .stop s 7 (some 0)
  else
    let idx := iredIndex s c
    if idx.any (fun e => decide (2 ^ 21 < e.1 * step + 32 * len)) then .stop s 6 none
    else if iredStalled s c w (callStalls s c) then .stall ((auxGoals c ++ dstGoals s c c.dstlen).filter (callStalls s c))
    else
      let vs := idx.map (fun e => (memRead s (c.pagePa + e.1 * step) (32 * len)).map (fun b => (b.1, b.2 || e.2)))
      putDst { s with freeCtr := s.freeCtr + idx.length } c (sumVectors w.t f32 (elemsIn w.t (32 * len)) vs)

theorem execIred_eq (w : FmtR) (s : State) : execIred w s = rodWord s (.ired w) (w.t == 3) false (iredRes s w) := rfl

/-- IRED where every check of R274 passes and nothing stalls: the sums of the vectors that the list names go to DST. -/
theorem iredRes_of_passed :
    let len := 32 * (fpReg c w.a.toNat).toNat
    let step := (fpReg c w.b.toNat).toNat
    let n := c.auxlen / 4
    0 < len → len ≤ 1024 → (∀ i k, i < n → k < 4 → (auxByte s c (4 * i + k)).2 = false) →
    auxGone s c = false → auxStalled c (callStalls s c) = false →
    (∀ i, i < n → auxWord s c i * step + len ≤ 2 ^ 21 ∧ pageStalled s (c.pagePa + auxWord s c i * step) len = false) →
    dstStalled s c (callStalls s c) c.dstlen = false →
    iredRes s w c = putDst { s with freeCtr := s.freeCtr + n } c
      (sumVectors w.t (w.imm.getLsbD 0) (elemsIn w.t len) ((List.range n).map (fun i => memRead s (c.pagePa + auxWord s c i * step) len))) := by
  intro len step n hpos hmax hclean hgone haux hvecs hdst
  have hidx := iredIndex_of_clean hclean
  have hlen : ¬((fpReg c w.a.toNat).toNat = 0 ∨ 32 < (fpReg c w.a.toNat).toNat) := by
    simp only [len] at hpos hmax
    omega
  have hin : (iredIndex s c).any (fun e => decide (2 ^ 21 < e.1 * step + len)) = false := by
    rw [hidx, List.any_map]
    refine List.any_eq_false.mpr fun i hi => ?_
    have hfit := (hvecs i (List.mem_range.mp hi)).1
    simpa using hfit
  have hstall : iredStalled s c w (callStalls s c) = false := by
    have hpage : (iredIndex s c).any (fun e => pageStalled s (c.pagePa + e.1 * step) len) = false := by
      rw [hidx, List.any_map]
      exact List.any_eq_false.mpr fun i hi => by simp [(hvecs i (List.mem_range.mp hi)).2]
    rw [iredStalled, haux, hpage, hdst]
    rfl
  have hcount : (iredIndex s c).length = n := by rw [hidx]; simp [n]
  have hvs : (iredIndex s c).map (fun e => (memRead s (c.pagePa + e.1 * step) len).map (fun b => (b.1, b.2 || e.2)))
      = (List.range n).map (fun i => memRead s (c.pagePa + auxWord s c i * step) len) := by
    rw [hidx, List.map_map]
    exact List.map_congr_left fun i _ => map_poison_false _
  rw [iredRes]
  dsimp only
  rw [if_neg hlen, hgone, if_neg Bool.false_ne_true, hin, if_neg Bool.false_ne_true, hstall, if_neg Bool.false_ne_true, hcount, hvs]

theorem iredRes_out_of_range (h : (fpReg c w.a.toNat).toNat = 0 ∨ 32 < (fpReg c w.a.toNat).toNat) : iredRes s w c = .stop s 6 none := if_pos h

/-- A word that puts its output at DST, where DSTLEN has room for it. -/
theorem rodWord_reduces {i : Instr} {bad : Bool} {f : Call → RodRes} (h : RodFree s c i) (hbad : bad = false) {out : List (Byte × Bool)} {s1 : State}
    (hf : f c = putDst s1 c out) (hfit : out.length ≤ c.dstlen) : rodWord s i bad false f = .next (reduced s1 c out) :=
  rodWord_goes h hbad (hf.trans (putDst_fits hfit s1))

/-- What XRED comes to for a call. -/
def xredRes (s : State) (w : FmtR) (c : Call) : RodRes :=
  let n := xredLen c w
  if auxGone s c then .stop s 7 (some 0)
  else match xredSources s c n with
  | none => .stop s 6 none
  | some srcs =>
    if xredStalled s c srcs (callStalls s c) then .stall ((xredGoals s c srcs).filter (callStalls s c))
    else
      let vs := srcs.map (fun e => (e.1, (xredRead s e.2).take n))
      let out := sumVectors w.t (w.imm.getLsbD 0) (elemsIn w.t n) (vs.map Prod.snd)
      match putDst s c out, vs.find? (fun e => anyBad e.2) with
      | .next s1, some e => .stop s1 2 (some e.1)
      | r, _ => r

theorem execXred_eq (h : s.curCall.bind (findCall s) = some c) : execXred w s = rodWord s (.xred w) (w.t == 3 || !xredOnly c.prog) false (xredRes s w) := by
  rw [execXred, withCall_next h]
  have hnext : ∃ t, rodWord s (.xred w) (w.t == 3 || !xredOnly c.prog) false (xredRes s w) = .next t := ⟨_, withCall_next h _⟩
  obtain ⟨t, ht⟩ := hnext
  rw [ht]
  show Host.Outcome.next (match rodWord s (.xred w) (w.t == 3 || !xredOnly c.prog) false (xredRes s w) with
    | .next s1 => s1
    | _ => s) = _
  rw [ht]

theorem xredRes_of_none (hgone : auxGone s c = false) (h : xredSources s c (xredLen c w) = none) : xredRes s w c = .stop s 6 none := by
  rw [xredRes]
  dsimp only
  rw [hgone, if_neg Bool.false_ne_true, h]

/-- XRED of sources that R274 allows, where nothing stalls: the output decides first, then the first source that holds poison. -/
theorem xredRes_of_some (hgone : auxGone s c = false) {srcs : List (Nat × List (Nat × Nat))} (h : xredSources s c (xredLen c w) = some srcs)
    (haux : auxStalled c (callStalls s c) = false) (hdst : dstStalled s c (callStalls s c) c.dstlen = false)
    (hfree : ∀ e ∈ srcs, ∀ p ∈ e.2, rangeStalled (callStalls s c) p.1 p.2 = false) :
    let vs := srcs.map (fun e => (e.1, (xredRead s e.2).take (xredLen c w)))
    let out := sumVectors w.t (w.imm.getLsbD 0) (elemsIn w.t (xredLen c w)) (vs.map Prod.snd)
    xredRes s w c = match putDst s c out, vs.find? (fun e => anyBad e.2) with
      | .next s1, some e => .stop s1 2 (some e.1)
      | r, _ => r := by
  have hsrcs : (srcs.flatMap (fun e => e.2.flatMap (fun p => rangePas p.1 p.2))).any (callStalls s c) = false := by
    rw [List.any_flatMap]
    refine List.any_eq_false.mpr fun e he => ?_
    rw [List.any_flatMap, Bool.not_eq_true]
    exact List.any_eq_false.mpr fun p hp => Bool.not_eq_true _ ▸ hfree e he p hp
  have hstall : xredStalled s c srcs (callStalls s c) = false := by
    rw [xredStalled, xredGoals, List.any_append, List.any_append, hsrcs, show (auxGoals c).any (callStalls s c) = false from haux,
      show (dstGoals s c c.dstlen).any (callStalls s c) = false from hdst]
    rfl
  intro vs out
  rw [xredRes]
  dsimp only
  rw [hgone, if_neg Bool.false_ne_true, h]
  dsimp only
  rw [hstall, if_neg Bool.false_ne_true]

end
section
variable {s : State} {c : Call} {w : FmtR}

/-! ## The clauses put together -/

theorem xredTyped (ht : w.t ≠ 3) (honly : xredOnly c.prog = true) : (w.t == 3 || !xredOnly c.prog) = false := by
  rw [typed_of_ne ht, honly]
  rfl

theorem execXred_effect (h : RodFree s c (.xred w)) (ht : w.t ≠ 3) (honly : xredOnly c.prog = true) (hgone : auxGone s c = false) :
    let n := (fpReg c w.a.toNat).toNat
    (xredSources s c n = none → CallStops s c (execXred w s) 6 c.fpc)
    ∧ ∀ srcs, xredSources s c n = some srcs → auxStalled c (callStalls s c) = false → dstStalled s c (callStalls s c) c.dstlen = false →
      (∀ e ∈ srcs, ∀ p ∈ e.2, rangeStalled (callStalls s c) p.1 p.2 = false) →
      let vs := srcs.map (fun e => (e.1, (xredRead s e.2).take n))
      let out := sumVectors w.t (w.imm.getLsbD 0) (elemsIn w.t n) (vs.map Prod.snd)
      (c.dstlen < out.length → CallStops s c (execXred w s) 6 c.fpc)
      ∧ (out.length ≤ c.dstlen → (∀ e ∈ vs, anyBad e.2 = false) → execXred w s = .next (reduced s c out))
      ∧ (out.length ≤ c.dstlen → ∀ e, vs.find? (fun e => anyBad e.2) = some e →
          execXred w s = .next (endCall (dstWrite s c.id c.dst.toNat out) c.id 2 e.1)) := by
  intro n
  have htyped := xredTyped ht honly
  rw [execXred_eq h.cur]
  refine ⟨fun hnone => rodWord_stops h htyped h.here (d := none) (xredRes_of_none hgone hnone), fun srcs hsome haux hdst hfree => ?_⟩
  intro vs out
  have hres : xredRes s w c = match putDst s c out, vs.find? (fun e => anyBad e.2) with
      | .next s1, some e => .stop s1 2 (some e.1)
      | r, _ => r := xredRes_of_some hgone hsome haux hdst hfree
  refine ⟨fun hlong => ?_, fun hfit hclean => ?_, fun hfit e hbad => ?_⟩
  · rw [putDst_beyond hlong] at hres
    exact rodWord_stops h htyped h.here (d := none) hres
  · have hnone : vs.find? (fun e => anyBad e.2) = none := List.find?_eq_none.mpr fun e he => by simp [hclean e he]
    rw [putDst_fits hfit, hnone] at hres
    exact rodWord_goes h htyped hres
  · rw [putDst_fits hfit, hbad] at hres
    rw [htyped, rodWord_stop h _ hres]
    rfl

theorem execRend_stops (h : RodFree s c (.rend w)) : CallStops s c (execRend w s) 0 0 := rodWord_stops h rfl h.here (d := some 0) rfl

/-- What ends a call with BAD_CODE, or OUT_OF_RANGE, before anything of the word is performed. -/
theorem rodWords_stop (w : FmtR) :
    let stops := fun (i : Instr) (status : Nat) => RodFree s c i → CallStops s c (exec i s) status c.fpc
    (w.t = 3 → ∀ i ∈ [Instr.radd w, .rmul w, .rscl w, .rmac w, .rcmp w, .rsum w, .rldv w, .rwr w, .ired w, .xred w], stops i 5)
    ∧ (5 < w.imm.toNat % 8 ∨ w.d.toNat % 4 = 0 → stops (.rcmp w) 5)
    ∧ (w.d.toNat % 4 = 0 → ∀ i ∈ [Instr.rmskAnd w, .rmskOr w, .rmskAndn w, .rmskLd w], stops i 5)
    ∧ (strayH w = true ∨ noRow c = true → stops (.rldv w) 5 ∧ stops (.rwr w) 5)
    ∧ (c.wpage = false → stops (.rwr w) 5 ∧ stops (.fill w) 5)
    ∧ (badTarget c w = true → stops (.rskp w) 5 ∧ stops (.rloop w) 5)
    ∧ (xredOnly c.prog = false → stops (.xred w) 5)
    ∧ (w.t ≠ 3 → (fpReg c w.a.toNat).toNat = 0 ∨ 32 < (fpReg c w.a.toNat).toNat → stops (.ired w) 6) := by
  intro stops
  let code := fun (i : Instr) (o : Host.Outcome State Fault Refusal) => RodFree s c i → CallStops s c o 5 c.fpc
  have hcode : ∀ {i : Instr} {bad act : Bool} {f : Call → RodRes}, RodFree s c i → bad = true → CallStops s c (rodWord s i bad act f) 5 c.fpc :=
    fun h hbad => rodWord_badCode h.cur (by rw [hbad, Bool.or_true])
  have hxred : RodFree s c (.xred w) → (w.t == 3 || !xredOnly c.prog) = true → CallStops s c (execXred w s) 5 c.fpc :=
    fun h hbad => execXred_eq h.cur ▸ hcode h hbad
  -- A load or store of a column: its own fields may end it, or what the call has.
  have hcolumn : ∀ {i : Instr} {f : Call → RodRes}, RodFree s c i → f c = .stop s 5 none → CallStops s c (rodWord s i (w.t == 3 || strayH w) false f) 5 c.fpc := by
    intro i f h hf
    cases hbad : (w.t == 3 || strayH w) with
    | true => exact hcode h rfl
    | false => exact rodWord_stops h rfl h.here (d := none) hf
  refine ⟨fun ht => ?_, fun hr h => ?_, fun hd => ?_, fun hr => ?_, fun hp => ⟨fun h => ?_, fun h => ?_⟩, fun hb => ⟨fun h => ?_, fun h => ?_⟩, fun hx h => ?_, fun ht hlen h => ?_⟩
  · have h3 : (w.t == 3) = true := beq_iff_eq.mpr ht
    have h3or : ∀ b, (w.t == 3 || b) = true := fun b => by rw [h3, Bool.true_or]
    simp only [List.forall_mem_cons, List.not_mem_nil, false_implies, implies_true, and_true]
    have hcmp : (w.t == 3 || decide (5 < w.imm.toNat % 8) || w.d.toNat % 4 == 0) = true := by rw [Bool.or_assoc, h3or]
    have hall : code (.radd w) (rodTwo s (.radd w) w (rodAdd w.t)) ∧ code (.rmul w) (rodTwo s (.rmul w) w (rodMul w.t)) ∧ code (.rscl w) (execRscl w s) ∧ code (.rmac w) (execRmac w s)
        ∧ code (.rcmp w) (execRcmp w s) ∧ code (.rsum w) (execRsum w s) ∧ code (.rldv w) (execRldv w s) ∧ code (.rwr w) (execRwr w s)
        ∧ code (.ired w) (execIred w s) ∧ code (.xred w) (execXred w s) :=
      ⟨fun h => hcode h h3, fun h => hcode h h3, fun h => hcode h h3, fun h => hcode h h3, fun h => hcode h hcmp, fun h => hcode h h3,
        fun h => hcode h (h3or _), fun h => hcode h (h3or _), fun h => hcode h h3, fun h => hxred h (h3or _)⟩
    exact hall
  · have hcmp : code (.rcmp w) (execRcmp w s) := fun h => hcode h (by rcases hr with hr | hr <;> simp [hr])
    exact hcmp h
  · have h0 : (w.d.toNat % 4 == 0) = true := beq_iff_eq.mpr hd
    simp only [List.forall_mem_cons, List.not_mem_nil, false_implies, implies_true, and_true]
    have hmask : ∀ i m, code i (rodMask s i w m) := fun i m h => hcode h h0
    exact ⟨hmask (.rmskAnd w) _, hmask (.rmskOr w) _, hmask (.rmskAndn w) _, hmask (.rmskLd w) _⟩
  · rcases hr with hstray | hrow
    · exact ⟨fun h => hcode h (by rw [hstray, Bool.or_true]), fun h => hcode h (by rw [hstray, Bool.or_true])⟩
    · exact ⟨fun h => hcolumn h (if_pos hrow), fun h => hcolumn h (if_pos (by rw [hrow, Bool.or_true]))⟩
  · exact hcolumn h (if_pos (by rw [hp]; rfl))
  · exact rodWord_stops h rfl h.here (d := none) (if_pos (by rw [hp]; rfl))
  · exact rodWord_stops h rfl h.here (d := none) (show rskpRes s w c = _ from if_pos hb)
  · exact rodWord_stops h rfl h.here (d := none) (show rloopRes s w c = _ from if_pos hb)
  · exact hxred h (by rw [hx, Bool.not_false, Bool.or_true])
  · exact rodWord_stops h (typed_of_ne ht) h.here (d := none) (iredRes_out_of_range (s := s) hlen)

/-- A word with a nonzero unused field (R272). -/
theorem rodWords_unused (w : FmtR) : ∀ i ∈ [Instr.radd w, .rmul w, .rscl w, .rmac w, .rcmp w, .rsel w, .rmskAnd w, .rmskOr w, .rmskAndn w, .rmskLd w,
      .rsum w, .ract w, .rldv w, .rwr w, .rskp w, .rloop w, .rend w, .ired w, .xred w, .fill w],
    rodUnused i = true → s.curCall.bind (findCall s) = some c → CallStops s c (exec i s) 5 c.fpc := by
  have hcode : ∀ {i : Instr} {bad act : Bool} {f : Call → RodRes}, rodUnused i = true → s.curCall.bind (findCall s) = some c →
      CallStops s c (rodWord s i bad act f) 5 c.fpc := fun hu hcur => rodWord_badCode hcur (by rw [hu, Bool.true_or])
  have hxred : rodUnused (.xred w) = true → s.curCall.bind (findCall s) = some c → CallStops s c (execXred w s) 5 c.fpc :=
    fun hu hcur => execXred_eq hcur ▸ hcode hu hcur
  simp only [List.forall_mem_cons, List.not_mem_nil, false_implies, implies_true, and_true]
  let code := fun (i : Instr) (o : Host.Outcome State Fault Refusal) => rodUnused i = true → s.curCall.bind (findCall s) = some c → CallStops s c o 5 c.fpc
  have hmask : ∀ i m, code i (rodMask s i w m) := fun i m => hcode
  have hrods : code (.radd w) (rodTwo s (.radd w) w (rodAdd w.t)) ∧ code (.rmul w) (rodTwo s (.rmul w) w (rodMul w.t)) ∧ code (.rscl w) (execRscl w s) ∧ code (.rmac w) (execRmac w s)
      ∧ code (.rcmp w) (execRcmp w s) ∧ code (.rsel w) (execRsel w s) := ⟨hcode, hcode, hcode, hcode, hcode, hcode⟩
  have hcolumns : code (.rsum w) (execRsum w s) ∧ code (.ract w) (execRact w s)
      ∧ code (.rldv w) (execRldv w s) ∧ code (.rwr w) (execRwr w s) ∧ code (.rskp w) (execRskp w s) ∧ code (.rloop w) (execRloop w s)
      ∧ code (.rend w) (execRend w s) ∧ code (.ired w) (execIred w s) ∧ code (.xred w) (execXred w s) ∧ code (.fill w) (execFill w s) :=
    ⟨hcode, hcode, hcode, hcode, hcode, hcode, hcode, hcode, hxred, hcode⟩
  obtain ⟨hadd, hmul, hscl, hmac, hcmp, hsel⟩ := hrods
  exact ⟨hadd, hmul, hscl, hmac, hcmp, hsel, hmask (.rmskAnd w) _, hmask (.rmskOr w) _, hmask (.rmskAndn w) _, hmask (.rmskLd w) _, hcolumns⟩

end

/-- Settles O42: each word's own lemma, and the checks that end a call. -/
theorem rodWords : Obligations.RodWords := by
  unfold Obligations.RodWords
  intro s c w A B M d vec mask
  refine ⟨fun ht => ⟨fun h => rodWord_vec h (typed_of_ne ht) _, fun h => rodWord_vec h (typed_of_ne ht) _, fun h => execRscl_writes h ht,
      fun h => execRmac_writes h ht, fun h hcond hd => execRcmp_writes h ht hcond hd, fun h => execRsum_writes h ht⟩,
    fun h => rodWord_vec h rfl _,
    fun hd => ⟨fun h => rodMask_writes h hd, fun h => rodMask_writes h hd, fun h => rodMask_writes h hd, fun h => rodMask_writes h hd⟩,
    fun h => ⟨execRact_stalls h, fun hrow hfree => execRact_opens h hrow (ractStalled_of_free hfree), execRact_stops h⟩,
    fun ht hstray hrow hst => ⟨fun h => ?load, fun h hpage => execRwr_stores h hpage ht hstray hrow hst⟩,
    fun ht hstray hrow hst => ⟨fun h => execRldv_stalls h ht hstray hrow hst, fun h hpage => execRwr_stalls h hpage ht hstray hrow hst⟩,
    fun htarget => ⟨fun h => ⟨execRskp_jumps h htarget, fun st dt hsparse hopen haux => execRskp_stops h htarget hsparse hopen haux,
      fun q hsparse hopen haux => execRskp_moves h htarget hsparse hopen haux⟩, fun h => execRloop_loops h htarget⟩,
    execRend_stops,
    fun h ht => ?ired, fun h ht honly hgone => execXred_effect h ht honly hgone,
    fun h hpage => ⟨execFill_stops h hpage, execFill_stalls h hpage, execFill_stores h hpage⟩, rodWords_stop w, rodWords_unused w⟩
  case load =>
    obtain ⟨t, c', hexec, hstep, hcall, hlen, hrods⟩ := execRldv_loads h ht hstray hrow hst
    refine ⟨t, c', hexec, hstep, hcall, hlen, fun b r hr => ?_⟩
    obtain ⟨r', hr', hact⟩ := hrods b r hr
    refine ⟨r', hr', ?_⟩
    split at hact
    next hm =>
      rw [if_pos hm]
      refine ⟨hact.1, fun n l hl => ⟨fun hin => ?_, fun hout => (hact.2 n l hl).trans (if_neg hout)⟩⟩
      rw [hact.2 n l hl, if_pos hin]
      exact loadedLane_spec hr
    next hm => rw [if_neg hm]; exact hact
  case ired =>
    intro len step n out hpos hmax hclean hgone haux hvecs hdst
    have hres : iredRes s w c = putDst { s with freeCtr := s.freeCtr + n } c out := iredRes_of_passed hpos hmax hclean hgone haux hvecs hdst
    exact ⟨rodWord_reduces h (typed_of_ne ht) hres, fun hlong =>
      rodWord_stops h (typed_of_ne ht) h.here (d := none) (hres.trans (putDst_beyond hlong _))⟩
end Sys2Proof.Machine
